-- ==== Sys2Proof/Word.lean ====
section
/-! DEFINITION. The plain data every other file is written in: bytes and words of fixed width, and the one
kind of table the state holds (a list of keys and values in canonical form). Operations on tables are in
Machine/Ops.lean. -/

namespace Sys2Proof

/-- One byte (R225). -/
abbrev Byte := BitVec 8

/-- A register word (R442). -/
abbrev W32 := BitVec 32

/-- A 64-bit word: Field Time (R327), a mask, a plat entry (R150). -/
abbrev W64 := BitVec 64

/-- A sparse table: keys strictly rising, no entry equal to what its key reads as when unlisted. -/
abbrev Tbl (β : Type) := List (Nat × β)

/-- Bits hi:lo of a number (the manual writes bit ranges most significant bit first). -/
def bits (w : Nat) (hi lo : Nat) : Nat := (w / 2 ^ lo) % 2 ^ (hi + 1 - lo)

/-- Bit i of a number. -/
def bit (w : Nat) (i : Nat) : Bool := (w / 2 ^ i) % 2 == 1

/-- A truth value as the bit a register shows. -/
def b2n (b : Bool) : Nat := if b then 1 else 0

end Sys2Proof
end

