-- ==== Sys2Proof/Config.lean ====
section
/-! DEFINITION. What one part or its makers fix and the spec leaves open: constants without a body, of which
nothing can be proved. A statement about one of them holds for every value it may have. -/

namespace Sys2Proof.Config

/-- A fresh open value: the machine applies it to State.drawn and counts that up, so that two draws are unrelated (log entry 4). -/
opaque free : Nat → Nat

/-- WD_ID STEP of the part, from 1 (R447). -/
opaque siliconStep : Nat

/-- Serial number of the part (R447). -/
opaque serial : W64

/-- Initial value and final xor of the CRC-32 of grains, frames and store records: R32, R377 give its polynomial alone (log entry 5). -/
opaque crcInit : BitVec 32

/-- What the CRC-32's register is combined with at the end (log entry 5). -/
opaque crcXorOut : BitVec 32

/-- Whether each byte enters the CRC-32 least significant bit first (log entry 5). -/
opaque crcReflect : Bool

/-- Tag of a frame under a key: the first 8 bytes of HMAC-SHA-256 over the bytes named (R377, R400; log entry 6). -/
opaque hmacTag : List Byte → List Byte → BitVec 64

/-- Drop share of a reader from the number of readers of its group and its place among them (R54; log entry 7). -/
opaque dropShare : Nat → Nat → Nat

/-- Bus on which a lane of a standing group lies, by station, group and lane; a placing outside the bounds of R30 is not used (log entry 21). -/
opaque standingBus : Nat → Nat → Nat → Nat

/-- Temperature of a ring's site from the readings of its region's sensors, in half degrees (R113, R118; log entry 75). -/
opaque siteTemp : Nat → List Nat → Nat

/-- Factory entry of the heater bias table of a ring in a band: heater code at the band's reference temperature, slope in codes per kelvin, bias trim (R143, R144; log entry 75). -/
opaque factoryEntry : Nat → Nat → Nat × Int × Int

/-- Reference temperature of a band in half degrees (R143; log entry 75). -/
opaque bandRef : Nat → Nat

/-- Heater codes between a ring's target channel and the place midway between two channels where it parks (R115; log entry 75). -/
opaque parkOffset : Nat → Int

/-- Reading of a light stage that counts as low (stage as in R85's columns, reading in 0.01 dB or as the monitor gives it; log entry 25). -/
opaque isLow : Nat → Int → Bool

/-- Severity with which the Warden logs the rise of a notice wire (R562: per source; log entry 8). -/
opaque noticeSev : Nat → Nat

/-- Draw number n of the sequence that a seed of a random source yields, which is fixed for one part and not given (R322). -/
opaque rng : Nat → Nat → Nat

/-- A byte of a cache-die window whose physical row has changed and that nothing has written since: its data is undefined (R209; log entry 38). -/
opaque undefByte : Nat → Byte

/-- Temperature in half degrees from which an HBM stack is at Throttle: above the HBM4 standard's normal operating range (R511). -/
opaque hbmThrottle : Nat

/-- Temperature in half degrees at which the HBM4 standard requires access to stop (R511). -/
opaque hbmShutdown : Nat

/-- Refresh multiplier that the HBM4 standard requires at a temperature in half degrees: 0 for 1x, 1 for 2x, 2 for 4x (R197, R220). -/
opaque hbmRefresh : Nat → Nat

/-- SHA-256 of some bytes, 32 bytes long (R573, R580; log entry 6). -/
opaque sha256 : List Byte → List Byte

/-- Whether an HSS signature over a message verifies under vendor key 0 to 3 (R574; log entry 6): key, message, signature. -/
opaque hssVerify : Nat → List Byte → List Byte → Bool

/-- Whether a fuse bit revokes vendor key 0 to 3 (R574). -/
opaque keyRevoked : Nat → Bool

/-- The identity public key, 60 bytes (R578). -/
opaque identityKey : List Byte

/-- The HSS signature of the identity key with a leaf over a message, 5,236 bytes (R578, R580; log entry 6). -/
opaque identitySign : Nat → List Byte → List Byte

/-- The body of the configuration record (R566, R580). -/
opaque configBody : List Byte

/-- The firmware image in slot A of a part as made (R573; log entry 3). -/
opaque image : List Byte

/-- ACTION of log code 0x0080, by event: 0 stage, 1 switch, 2 commit, 3 boot failure (R562; log entry 8). -/
opaque fwAction : Nat → Byte

end Sys2Proof.Config
end

