-- ==== Sys2Proof/Syntax.lean ====
section
/-! DEFINITION. The commands the block takes: one constructor of Instr for each row of the table of
operations and events, with the row's operands. An event row names the unit it happens at; what it acts on
(a queue's head, a prefetch buffer, an engine queue) is the machine's own state. A host command carries its
parameters (R424) and where it came from. Data of the environment (a grain on a lane group, a frame at a
port, a reading of a sensor) is an operand. -/

namespace Sys2Proof

/-- A 128 B grain: 120 B of payload and the 8 B control word (R32). -/
structure Grain where
  payload : List Byte
  ctl : W64
  deriving DecidableEq, Repr

/-- A packet: 16 B header, the extension when XT is 1, and the payload (R155, R158). -/
structure Packet where
  hdr : BitVec 128
  ext : BitVec 128
  data : List Byte
  deriving DecidableEq, Repr

/-- A frame: 16 B header, body, tag and CRC of the trailer (R375, R377). -/
structure Frame where
  hdr : BitVec 128
  body : List Byte
  tag : W64
  crc : W32
  deriving DecidableEq, Repr

/-- The path by which a register write travels, in the order of ERR_LAST PATH (R444, R457). -/
inductive Path where
  | command | regacc | coreStore | warden | smbus | unitLate
  deriving DecidableEq, Repr

/-- How a host command reached the device (R403, R415, R435). -/
inductive Via where
  | p0        -- a COMMAND packet through P0 with P2P 1, or a REGWR that came so
  | relayed   -- a COMMAND packet relayed by the master or the named backup
  | regacc    -- the mailbox, GO written by REGACC from the P0 peer
  | smbus     -- the mailbox, GO written over SMBus
  deriving DecidableEq, Repr

/-- Where a host command came from, with the header fields its record copies (R418, R428). -/
structure Origin where
  mbox : Bool
  hopper : Nat
  tag : BitVec 16
  quiet : Bool
  via : Via
  deriving DecidableEq, Repr

/-- Parameters of RMAP_SET (R50). -/
structure RmapParams where
  reader : Nat
  rgroup : Nat
  valid : Bool
  wst : Nat
  wlg : Nat
  drain : Bool
  auto : Bool
  deriving DecidableEq, Repr

/-- Parameters of CTX_LAUNCH (R268, R424). -/
structure LaunchParams where
  core : Nat
  ctx : Nat
  pri : Nat
  ring : Nat
  noend : Bool
  list : Nat
  b1 : BitVec 44
  deriving DecidableEq, Repr

/-- The three kinds of sow table (R345). -/
inductive SowTable where
  | core | station | port
  deriving DecidableEq, Repr

/-- Parameters of SOW_SET (R426); the action is its 32 bytes, bytes 8 to 39 of the command it stands for. -/
structure SowParams where
  table : SowTable
  unitNo : Nat
  sowid : BitVec 16
  kind : Nat
  ring : Nat
  ft : W64
  action : List Byte
  deriving DecidableEq, Repr

/-- Parameters of GROUP_ENROL (R586). -/
structure EnrolParams where
  rekey : Bool
  role : Nat
  sidx : Nat
  epoch : BitVec 16
  id : Nat
  master : Nat
  backup : Nat
  bcroot : Nat
  instant : W64
  key : List Byte
  deriving DecidableEq, Repr

/-- Parameters of BIST_RUN (R590). -/
structure BistParams where
  target : Nat
  index : Nat
  sub : Nat
  repair : Bool
  clear : Bool
  save : Nat
  deriving DecidableEq, Repr

/-- One failure that a march test finds: address or entry number, bit within its word, value expected (R596). -/
structure BistFail where
  addr : Nat
  bitNo : Nat
  expected : Bool
  deriving DecidableEq, Repr

/-- The three kinds of ring: a modulator for each transmit lane, selectors of a receive group, and the loopback rings of a station that only self-test uses (R110). -/
inductive RingKind where
  | modulator | selector | loopback
  deriving DecidableEq, Repr

/-- Code of a ring's kind in its key. -/
def RingKind.code : RingKind → Nat
  | .modulator => 0 | .selector => 1 | .loopback => 2

/-- One ring of the base: station, kind, transmit or receive group and lane (R110); a station's loopback rings are numbered by lane in group 0, one for each of the eight lanes that a run drives (R599; log entry 74). -/
structure RingId where
  st : Nat
  kind : RingKind
  grp : Nat
  lane : Nat
  deriving DecidableEq, Repr

/-- What a calibration of a link measures and corrects: per lane the eye width and the receiver's photocurrent, the eye height of the worst lane, and corrections of the writer's eight rings and then the reader's (R84, R133 to R141). -/
structure CalResult where
  eyeW : List Nat
  eyeH : Nat
  heater : List Int
  bias : List Int
  photo : List Nat
  deriving DecidableEq, Repr

/-- Where a temperature is read: a compute die, a cache die, a field's ring sites, a stack (R511). -/
inductive ThermLoc where
  | cd (n : Nat) | kd (n : Nat) | field (k : Nat) | hbm (h : Nat)
  deriving DecidableEq, Repr

/-- The units that sleep and wake (R498). -/
inductive SleepUnit where
  | core (c : Nat) | die (d : Nat) | group (st g : Nat) | port (p : Nat)
  deriving DecidableEq, Repr

/-- Where a NOP runs: control operation, engine descriptor or host command (R274, R424). -/
inductive NopAt where
  | ctx (core ctx : Nat) | engine (core eng : Nat) | host (o : Origin)
  deriving DecidableEq, Repr

/-- What a parity sweep finds mismatched (R448). -/
inductive ParityAt where
  | station (s : Nat) | kd (n : Nat) | port (p : Nat) | core (c : Nat) | warden (addr : Nat)
  | mapEntry (st rg : Nat) | plat (e : Nat) | calendar (p slot : Nat) | dset (p i : Nat)
  | sow (t : SowTable) (unitNo : Nat) (idx : Nat)
  deriving DecidableEq, Repr

/-- A slow unit that applies posted writes (R453). -/
inductive SlowUnit where
  | ls | pwr | thm | wd | kd (n : Nat) | port (p : Nat)
  deriving DecidableEq, Repr

/-- Why a port leaves service (R373). -/
inductive PortCause where
  | alignment | uncorrectable
  deriving DecidableEq, Repr

/-- Why a region's clock is at fault (R494). -/
inductive ClkCause where
  | unlock | jitter
  deriving DecidableEq, Repr

/-- A frame of a bond link as its receiver sees it: CRC verdict, WIDTH and EPOCH bits of its control word (R469). -/
structure BondFrame where
  crcOk : Bool
  width : Nat
  epoch4 : Nat
  seq : Nat
  deriving DecidableEq, Repr

/-- A level measured on a module output while it settles, and the set points then recorded (R79, R80). -/
structure Settle where
  settled : Bool
  drive : Nat
  temp : Nat
  power : Int
  deriving DecidableEq, Repr

/-- The rows of the table of operations and events, one constructor each, in the table's order but for two groups at the end: compiled Lean builds no constructor with operands beyond the 245th, so some events of clocks, readings and links stand there, and after them the rows without operands, which have no such limit. -/
inductive Instr where
  /-- R34: A reader takes a grain from a receive group, checks WST, WLG, CRC and GSEQ, and keeps, discards or NAKs it. -/
  | grainReceive (st rg : Nat) (g : Grain)
  /-- R36: Within 64 ns of an unacknowledged DATA grain, the reader sends a cumulative ACK in a LINK grain. -/
  | ackSend (st rg : Nat)
  /-- R40: A writer takes an ACK record and frees every grain that all readers have now acknowledged. -/
  | ackReceive (st rd : Nat) (rec : W64)
  /-- R38: A writer takes a NAK and resends every grain from the named GSEQ onward with RPL set. -/
  | nakReceive (st rd : Nat) (rec : W64)
  /-- R41: After 2 µs without an advancing ACK or a NAK, the writer replays from its oldest unacknowledged grain, and after four such replays the group leaves service. -/
  | replayTimeout (st g : Nat)
  /-- R33: A writer packs packets into a DATA grain, or sends an IDLE grain, on a lane group each nanosecond. -/
  | grainSend (st g : Nat)
  /-- R42: A lane group leaves service: its unacknowledged packets are resent on other groups, it enters FAULT, and LG_FAULT is raised. -/
  | groupLeaveService (st g : Nat)
  /-- R35: A lane is marked bad, and its group retrains on the remaining lanes or leaves service. -/
  | laneMarkedBad (st g lane : Nat)
  /-- R35: A retraining group resumes, narrowed or widened, at most 10 µs after it began. -/
  | groupRetrainEnd (st g : Nat)
  /-- R43: When the rings of a group in FAULT have relocked and recalibrated, it leaves FAULT with GSEQ 0 and reads ACTIVE or OFF. -/
  | groupFaultRecover (st g : Nat)
  /-- R51: The command checks and accepts a change of one reception-map entry, with or without drain. -/
  | rmapSet (o : Origin) (p : RmapParams)
  /-- R52: When the present and new writer groups are drained, the map change starts and the entry begins tuning. -/
  | rmapChangeStart (st rg : Nat)
  /-- R52: When a group is not drained 2 µs after a DRAIN 1 change was accepted, the command completes TIMED_OUT with the entry unchanged. -/
  | rmapDrainTimeout (st rg : Nat)
  /-- R53: A writer group with ENABLE 0 whose grains are all acknowledged or resent reports DRAINED. -/
  | groupDrained (st g : Nat)
  /-- R55: A changed map entry reaches LOCKED. -/
  | entryLocked (st rg : Nat)
  /-- R55: An entry not locked 50 µs after its change started enters FAULT and raises RMAP_FAULT. -/
  | rmapFault (st rg : Nat)
  /-- R56: When every reader of a group changed with AUTO_ENABLE is LOCKED, the base sets the group's ENABLE. -/
  | autoEnable (st g : Nat)
  /-- R64: A write of a transmit group's ENABLE takes effect, is dropped WRONG_STATE, or is held until a hinge's step 6. -/
  | lgTxcfgWrite (via : Path) (st g : Nat) (data : W32)
  /-- R66: A narrow-net message is forwarded at a router in strict class priority. -/
  | narrowNetMessage (node : Nat)
  /-- R72: A packet moves one stop along the port ring in its shorter direction. -/
  | ringHop (stop : Nat)
  /-- R80: The proxy command lights and settles a feed input, records its set points and reference, and may bring a DARK feed back. -/
  | feedCommission (o : Origin) (feed : Nat) (inputB : Bool) (m : Settle) (unlocked : List Nat)
  /-- R87: Every 1 µs the Warden reads each feed input tap and moves the feed between fade levels. -/
  | feedTapSample (f : Nat) (sample avg : Int)
  /-- R99: After a hard fail, the Warden warms the standby, swings the coupler and relocks without hinge windows. -/
  | hardFailRecover (f : Nat) (unlocked : List Nat)
  /-- R95: The proxy command starts a hinge on a named feed and completes when the hinge ends. -/
  | hingeStart (o : Origin) (f : Nat)
  /-- R90: When the standby is warm, step 2 opens the hinge window, dual-sends on substitutes, and narrows the standing groups. -/
  | hingeDrain (f : Nat)
  /-- R90: When the drain ends or 20 µs pass, step 3 takes the hinged groups out of service and moves the coupler. -/
  | hingeSwing (f : Nat)
  /-- R90: When relock ends, step 5 returns the hinged groups with GSEQ 0 and reopens the hinge window. -/
  | hingeRestore (f : Nat) (unlocked : List Nat)
  /-- R90: Step 6 swaps the input roles, darkens the old output, logs the hinge and raises HINGE_DONE. -/
  | hingeRelease (f : Nat)
  /-- R103: Every 10 ms the Warden checks each module's presence and raises ELS_CHANGE on a change. -/
  | elsPresenceCheck (m : Nat) (answers : Bool) (ident : W64) (factory : List Settle)
  /-- R112: A field's warm-up ends when all its ring-site sensors read 30 °C or more. -/
  | warmUpEnd (k : Nat)
  /-- R112: When warm-up has not ended after 5 s, the Warden raises LOCK_COLD and leaves the field's groups OFF. -/
  | lockCold (k : Nat)
  /-- R113: Every 10 µs the base samples the ring-site and die temperature sensors. -/
  | temperatureSample (loc : ThermLoc) (readings : List Nat)
  /-- R116: Every 125 ns a LOCKED ring corrects its error by bias trim and heater. -/
  | lockLoopUpdate (r : RingId) (errMilliK : Int)
  /-- R120: A ring whose loop error exceeds 150 mK for four updates trips, enters LOST and then ACQUIRE. -/
  | lockLossTrip (r : RingId)
  /-- R123: A ring in ACQUIRE reaches LOCKED. -/
  | ringRelock (r : RingId)
  /-- R124: A ring not relocked 300 µs after its trip, or not locked 50 µs after acquiring, enters BAD and its lane is marked bad. -/
  | ringBad (r : RingId)
  /-- R133: A link that has a calibration cause begins calibration on live grains. -/
  | calibrationStart (st rg cause : Nat)
  /-- R135: At its Field Time instant, each side writes all its trims of the correction at the next grain boundary. -/
  | calibrationApply (st rg : Nat) (r : CalResult)
  /-- R140: A write of FORCE 1 calibrates every link of the station with cause 0x6. -/
  | lgCalcfgForce (via : Path) (st : Nat) (data : W32)
  /-- R164: A reader takes a whole packet, checks it for malformation and by its PSEQ window, and accepts or discards it. -/
  | packetArrive (st rg : Nat)
  /-- R168: A writer sends a queued packet once it holds enough credit for each reader on its channel. -/
  | packetSend (st rd vc : Nat)
  /-- R169: Within 64 ns of a change, a reader sends its running credit total in a LINK grain. -/
  | creditRecordSend (st w vc : Nat)
  /-- R169: At least every 2 µs a reader repeats the total for every writer and channel. -/
  | creditRepeat (st : Nat)
  /-- R170: A writer adds the difference of a credit record's total to the credit it holds. -/
  | creditRecordReceive (st rd : Nat) (rec : W64)
  /-- R172: A write of ALLOC raises credit at once or loads a decrease into PEND, or is dropped. -/
  | baseCrallocWrite (via : Path) (st w vc : Nat) (data : W32)
  /-- R152: The command writes one plat entry after its checks. -/
  | platSet (o : Origin) (id : Nat) (entry : W64)
  /-- R424: The command returns one plat entry as stored. -/
  | platGet (o : Origin) (id : Nat)
  /-- R154: The command bolts the plat table. -/
  | platBolt (o : Origin)
  /-- R178: A writer sends a multicast packet to every reader with credit and records the rest in a remnant entry. -/
  | mcastFirstAttempt (st : Nat)
  /-- R178: When credit returns for a remaining reader, the writer retransmits with MCR set and the same PSEQ. -/
  | remnantRetransmit (st id : Nat)
  /-- R178: A multicast whose remaining mask is empty and whose grains are acknowledged completes DONE. -/
  | mcastComplete (st id : Nat)
  /-- R178: 200 µs after its first attempt, or when only dead readers remain, a multicast completes PARTIAL. -/
  | mcastPartial (st id : Nat)
  /-- R197: A stack idle for 100 µs is placed in self-refresh. -/
  | selfRefreshEnter (h : Nat)
  /-- R197: The first access after self-refresh waits at most 2 µs for exit. -/
  | selfRefreshExit (h : Nat)
  /-- R200: The command writes the hash key and layout into every station. -/
  | hashSet (o : Origin) (key : W64) (msmask : BitVec 4) (stksel : Byte)
  /-- R200: The command bolts the hash key and layout. -/
  | hashBolt (o : Origin)
  /-- R205: A memory station reads a block in its scrub pass and writes back corrected data. -/
  | scrub (h blk badSymbols : Nat)
  /-- R209: A posted write of KD_SPLIT is applied only while CLEAN is 1 and the result stays valid. -/
  | kdSplitWrite (n : Nat) (data : W32)
  /-- R207: A posted write of a KD_REMAP entry is applied only while CLEAN is 1 and every redirect stays valid. -/
  | kdRemapWrite (n i : Nat) (data : W32)
  /-- R219: An uncorrectable scratchpad word sets its row's poison bit and raises SP_UE. -/
  | spUe (core row : Nat) (correctable : Bool)
  /-- R233: A station performs an operation on each aligned 64 B block it touches, in arrival order. -/
  | remoteOpPerform (st : Nat) (bad : List Nat)
  /-- R230: A LOAD packet arrives and its RLEN bytes are returned in one LOAD_DATA. -/
  | load (st : Nat) (bad : List Nat)
  /-- R230: A STORE packet arrives, its bytes are written, and ACK is sent when visible. -/
  | store (st : Nat) (bad : List Nat)
  /-- R247: An atomic packet arrives and is applied, recorded, replayed from a receipt, or refused by the receipt rules. -/
  | atomic (st : Nat) (bad : List Nat)
  /-- R232: A reduction packet arrives and each element is combined with memory and written back. -/
  | reduction (st : Nat) (bad : List Nat)
  /-- R176: A multicast store packet arrives at a named compute station and is written at the same offset of its window. -/
  | mcastStorePacket (st : Nat)
  /-- R226: A LOAD_DATA reply arrives and its data is written at RETADDR. -/
  | loadData (st : Nat)
  /-- R226: An ACK reply arrives and completes its store or reduction. -/
  | ack (st : Nat)
  /-- R226: An ATOMIC_RESULT reply arrives and its old value is written at RETADDR. -/
  | atomicResult (st : Nat)
  /-- R247: An ATOMIC_REPLAYED reply arrives with the stored old value. -/
  | atomicReplayed (st : Nat)
  /-- R252: A FAULT reply arrives and its operation completes with the status, with poison for loads and atomics. -/
  | fault (st : Nat)
  /-- R253: A DEAD reply arrives and its operation completes with DEAD_TARGET and poison. -/
  | dead (st : Nat)
  /-- R247: A retry waiting on a pending receipt entry is answered once the entry is filled. -/
  | receiptFilled (share : Nat)
  /-- R246: A receipt entry older than RETAIN ms is removed. -/
  | receiptExpire (share : Nat)
  /-- R248: At 1, 2 and 3 ms after first send without reply, the exchange station resends a load or atomic. -/
  | rackOpResend (id : Nat)
  /-- R248: At 4 ms after first send without reply, the operation completes DEAD_TARGET or REFUSED. -/
  | rackOpGiveup (id : Nat)
  /-- R253: A packet accepted by a station that went down completes DEAD_TARGET 20 µs after its last transmission. -/
  | deadTargetTimeout (id : Nat)
  /-- R257: After its random backoff, a refused packet is resent in a new frame. -/
  | refusalBackoffEnd (fdst : Nat)
  /-- R238: A fence completes when every collected operation has completed, with the highest-ranked status. -/
  | fenceComplete (core ctx : Nat)
  /-- R268: The command starts a furrow list on an IDLE or FAULT context. -/
  | ctxLaunch (o : Origin) (p : LaunchParams)
  /-- R270: The command stops a context's issue and abandons its waits, leaving it STOPPING. -/
  | ctxStop (o : Origin) (core ctx : Nat)
  /-- R271: The command makes a PAUSED context READY at the operation after PAUSE. -/
  | ctxResume (o : Origin) (core ctx : Nat)
  /-- R270: A STOPPING context whose work in flight is done enters IDLE with an end record of WRONG_STATE. -/
  | stoppingEnd (core ctx : Nat)
  /-- R266: In each cycle the sequencer picks the highest-priority READY context and issues one operation. -/
  | sequencerIssue (core : Nat)
  /-- R272: A context's prefetch buffer with 16 or more free slots fetches an aligned 256 B block. -/
  | prefetchRefill (core ctx : Nat)
  /-- R272: Fetched descriptors arrive in the prefetch buffer, or the failed fetch faults the context. -/
  | fetchArrive (core ctx : Nat)
  /-- R274: NOP does nothing but wait and signal tokens, as a control operation, engine descriptor or command. -/
  | nop (at' : NopAt)
  /-- R269: END performs a context fence and waits for the context's descriptors. -/
  | endList (core ctx : Nat)
  /-- R269: After END's waits end, the context enters IDLE and its end record is queued. -/
  | contextEntersIdle (core ctx : Nat)
  /-- R282: LOOP opens a loop of COUNT passes. -/
  | loop (core ctx : Nat)
  /-- R282: ENDLOOP returns to the body or closes the loop. -/
  | endloop (core ctx : Nat)
  /-- R282: CALL pushes the next address and continues at TARGET. -/
  | call (core ctx : Nat)
  /-- R282: RET continues at the popped address. -/
  | ret (core ctx : Nat)
  /-- R282: BRANCH continues DISP descriptors away when a token's count matches SENSE. -/
  | branch (core ctx : Nat)
  /-- R282: SETB loads a base register. -/
  | setb (core ctx : Nat)
  /-- R282: ADDB adds to a base register modulo 2^44. -/
  | addb (core ctx : Nat)
  /-- R282: LDB loads a base register from scratchpad, faulting on a poisoned row. -/
  | ldb (core ctx : Nat)
  /-- R278: TOKCLR sets the tokens of its mask to 0. -/
  | tokclr (core ctx : Nat)
  /-- R359: The sequencer sends a sheaf TAKE and holds the context in WAIT. -/
  | shTake (core ctx : Nat)
  /-- R359: The sequencer sends a sheaf ADD without holding the context. -/
  | shAdd (core ctx : Nat)
  /-- R359: The sequencer sends a sheaf DRAIN without holding the context. -/
  | shDrain (core ctx : Nat)
  /-- R359: A bank's answer to a sheaf operation reaches its context, completing it or faulting the context with cause 0x7. -/
  | sheafAnswer (core ctx : Nat)
  /-- R284: WAITT holds the context until its region's Field Time reaches FT. -/
  | waitt (core ctx : Nat)
  /-- R344: A WAITT ends when its region's valid FT copy reaches the instant. -/
  | waittEnd (core ctx : Nat)
  /-- R343: WAITC holds the context for CYCLES cycles of its region's clock. -/
  | waitc (core ctx : Nat)
  /-- R343: A WAITC ends when its cycle count runs out. -/
  | waitcEnd (core ctx : Nat)
  /-- R237: The FENCE control operation starts a fence of its scope and holds the context's remote issue. -/
  | fence (core ctx : Nat)
  /-- R271: PAUSE puts its context into PAUSED and raises CTX_PAUSE. -/
  | pause (core ctx : Nat)
  /-- R282: RLOAD issues a remote LOAD and parks the context. -/
  | rload (core ctx : Nat) (bad : List (Nat × Nat))
  /-- R282: RSTORE issues a remote STORE without parking. -/
  | rstore (core ctx : Nat)
  /-- R282: RATOM issues a remote atomic and parks the context. -/
  | ratom (core ctx : Nat)
  /-- R242: The reply of a parked load or atomic is written at RETADDR and the context becomes READY. -/
  | parkedReplyWritten (core ctx : Nat)
  /-- R285: A matrix engine fills its shadow tile from scratchpad. -/
  | loadw (core eng : Nat)
  /-- R285: A matrix engine multiplies rows of A by the active tile into accumulator rows, after an optional swap. -/
  | matmul (core eng : Nat)
  /-- R286: A matrix engine converts accumulator rows with scales and bias and writes them out. -/
  | epi (core eng : Nat)
  /-- R290: The vector engine adds SRC1 and SRC2 into DST. -/
  | vadd (core eng : Nat)
  /-- R290: The vector engine subtracts SRC2 from SRC1 into DST. -/
  | vsub (core eng : Nat)
  /-- R290: The vector engine multiplies SRC1 by SRC2 into DST. -/
  | vmul (core eng : Nat)
  /-- R290: The vector engine forms SRC1 × SRC2 + DST with one rounding. -/
  | vfma (core eng : Nat)
  /-- R316: The vector engine takes the elementwise maximum. -/
  | vmax (core eng : Nat)
  /-- R316: The vector engine takes the elementwise minimum. -/
  | vmin (core eng : Nat)
  /-- R290: The vector engine converts SRC1 from IFMT to OFMT. -/
  | vcvt (core eng : Nat)
  /-- R317: The vector engine computes exp2 of SRC1. -/
  | vexp2 (core eng : Nat)
  /-- R317: The vector engine computes log2 of SRC1. -/
  | vlog2 (core eng : Nat)
  /-- R317: The vector engine computes the reciprocal of SRC1. -/
  | vrcp (core eng : Nat)
  /-- R317: The vector engine computes the reciprocal square root of SRC1. -/
  | vrsqrt (core eng : Nat)
  /-- R317: The vector engine computes tanh of SRC1. -/
  | vtanh (core eng : Nat)
  /-- R317: The vector engine computes erf of SRC1. -/
  | verf (core eng : Nat)
  /-- R290: The vector engine updates each row's running maximum and writes the rescale factor. -/
  | vsmax (core eng : Nat)
  /-- R290: The vector engine writes exp2(x − m) per element and updates each row's sum. -/
  | vsexp (core eng : Nat)
  /-- R290: The vector engine scales rows by a per-row factor, with or without accumulation. -/
  | vrow (core eng : Nat)
  /-- R290: The vector engine computes per-row RMS or mean and variance normalisers. -/
  | vnorm (core eng : Nat)
  /-- R291: The vector engine writes the K largest values of each row and their lane indices. -/
  | vtopk (core eng : Nat)
  /-- R292: The vector engine gathers table elements by index. -/
  | vgather (core eng : Nat)
  /-- R292: The vector engine scatters elements into a table by index. -/
  | vscatter (core eng : Nat)
  /-- R293: The transfer engine copies LEN bytes in packets. -/
  | copy (core : Nat) (bad : List (Nat × Nat))
  /-- R294: The transfer engine copies from pages named by list entries into a strided destination. -/
  | gather (core : Nat)
  /-- R294: The transfer engine copies from a strided source into pages named by list entries. -/
  | scatter (core : Nat)
  /-- R293: The transfer engine multicasts LEN bytes to the named dies' windows. -/
  | mcastStore (core : Nat)
  /-- R293: The transfer engine reduces LEN bytes from SRC into DST. -/
  | reduceInto (core : Nat)
  /-- R212: The transfer engine writes back every dirty cache line of an HBM range. -/
  | kdFlush (core : Nat)
  /-- R212: The transfer engine removes every cache line of an HBM range without write-back. -/
  | kdInvalidate (core : Nat)
  /-- R293: The transfer engine's FENCE descriptor waits for a fence of its scope. -/
  | teFence (core : Nat)
  /-- R280: An engine descriptor completes and signals its token, possibly across the cluster. -/
  | descriptorComplete (core eng : Nat)
  /-- R280: A token signal crossing the token mesh arrives at its target core. -/
  | xcTokenSignal (core : Nat)
  /-- R322: A write of CORE_RNGSEED loads the seed into every engine whose SEEDSRC bit is 1. -/
  | coreRngseedWrite (via : Path) (core : Nat) (data : W32)
  /-- R336: Every 65,536 ticks the master sends BEACON with t1, and a member records t2 on arrival. -/
  | beacon (peer : Nat)
  /-- R338: The command steps a member's root to the master's estimate at the next exchange. -/
  | ftResync (o : Origin)
  /-- R347: The command loads one entry into a core, station or port sow table. -/
  | sowSet (o : Origin) (p : SowParams)
  /-- R352: The command removes the unfired entries of a sow from one table. -/
  | sowCancel (o : Origin) (t : SowTable) (unitNo : Nat) (sowid : BitVec 16)
  /-- R348: An entry whose FT instant is reached fires its LAUNCH, RMAP, LGEN, RELEASE or CALENDAR action. -/
  | sowEntryFire (t : SowTable) (unitNo : Nat) (late : Bool)
  /-- R351: When every entry of a sow in a table has completed, the table writes the sow's completion. -/
  | sowCompletion (t : SowTable) (unitNo : Nat) (sowid : BitVec 16)
  /-- R355: A sheaf bank adds N within LIMIT and serves waiting TAKEs in order. -/
  | bankAdd (k : Nat)
  /-- R355: A sheaf bank subtracts N at once or queues the TAKE. -/
  | bankTake (k : Nat)
  /-- R355: A sheaf bank subtracts N without waiting or faults on underflow. -/
  | bankDrain (k : Nat)
  /-- R355: A sheaf bank returns VALUE. -/
  | bankRead (k : Nat)
  /-- R358: A TAKE waiting beyond WLIM leaves the queue with TIMED_OUT and raises SHEAF_STALL. -/
  | takeTimeout (k core ctx : Nat)
  /-- R363: The command sets VALUE, LIMIT and WLIM of one sheaf. -/
  | sheafInit (o : Origin) (sheaf : Nat) (value limit : W32) (wlim : BitVec 16)
  /-- R363: The command returns VALUE, LIMIT, WLIM and the waiter count. -/
  | sheafRead (o : Origin) (sheaf : Nat)
  /-- R425: The command adds N to a sheaf. -/
  | sheafAdd (o : Origin) (sheaf : Nat) (n : W32)
  /-- R364: The proxy command logs and forces a sheaf's VALUE through the Warden. -/
  | sheafForce (o : Origin) (sheaf : Nat) (value : W32)
  /-- R372: A port trains at Gen-1, exchanges GENMAX and kind, and retrains at Gen-2 when allowed. -/
  | portTrain (p : Nat) (peerGenMax : Nat) (peerHost : Bool)
  /-- R372: Gen-2 training not done in 2 ms falls back to Gen-1, sets GEN2_FAIL and raises PORT_GEN1. -/
  | gen2TrainTimeout (p : Nat)
  /-- R372: A port not trained 5 ms after step 1 enters FAULT and raises PORT_DOWN. -/
  | portTrainTimeout (p : Nat)
  /-- R372: A port in FAULT or asleep that detects light from a peer starts training or wakes. -/
  | peerLightDetect (p : Nat)
  /-- R373: A port that loses lane alignment or has too many uncorrectable codewords leaves service and retrains. -/
  | portDown (p : Nat) (why : PortCause)
  /-- R378: A port checks a frame's CRC, tag, addressing and incarnations before handling it by kind. -/
  | frameReceive (p : Nat) (f : Frame)
  /-- R388: A DATA frame is accepted or discarded by the receive window and its packet enters the device. -/
  | dataFrame (p : Nat)
  /-- R388: An ACK frame's ACKSEQ frees acknowledged frames from both buffer halves. -/
  | ackFrame (p : Nat)
  /-- R389: A NAK frame makes the sender resend the named frames. -/
  | nakFrame (p : Nat)
  /-- R391: A REFUSE frame acknowledges the refused frame and starts the refusal backoff. -/
  | refuse (p : Nat)
  /-- R393: A RESYNC frame fails unacknowledged frames to that peer with DEAD_TARGET and restarts its FSEQ series. -/
  | resync (p : Nat)
  /-- R379: A new slot begins every 256 ns and sets what the port may send. -/
  | calendarSlot (p slot : Nat)
  /-- R395: A port sends a DATA frame in a usable slot on the chosen port and keeps it in its buffer. -/
  | frameSend (p : Nat)
  /-- R388: When no frame carries a new ACKSEQ within 2 µs of receipt, the receiver sends an ACK frame. -/
  | ackFrameTimer (fsrc : Nat)
  /-- R388: A window gap persisting 8 µs makes the receiver send a NAK frame. -/
  | nakGapTimer (fsrc : Nat)
  /-- R389: A DATA frame unacknowledged 20 µs after its last transmission is resent with backoff in OPEN slots. -/
  | frameResendTimer (fdst : Nat) (fseq : BitVec 24)
  /-- R396: A path whose frame is unacknowledged 100 µs fails and its frames are handed to other ports. -/
  | pathFail (p fdst : Nat)
  /-- R396: Every 1 ms a failed path is probed with an unacknowledged frame and returns when acknowledged. -/
  | pathProbe (p fdst : Nat)
  /-- R397: When a port leaves service, its partner hands over the mirror copies to other ports. -/
  | mirrorHandover (p : Nat)
  /-- R382: The command writes one calendar entry. -/
  | calSet (o : Origin) (p slot type dset : Nat)
  /-- R382: The command writes one destination set. -/
  | calDset (o : Origin) (p i : Nat) (mask : W64)
  /-- R424: The command returns one calendar entry and its set. -/
  | calGet (o : Origin) (p slot : Nat)
  /-- R403: The proxy command sets the endpoint ID, member index, group key, master, backup, root, epoch and FT role, or a rekey. -/
  | groupEnrol (o : Origin) (p : EnrolParams)
  /-- R403: The proxy command erases the key, clears PORT_SELF VALID and the member table, and sets ALONE. -/
  | groupLeave (o : Origin)
  /-- R409: The command makes the backup load its saved record to take over as master. -/
  | masterTakeover (o : Origin)
  /-- R413: A posted write of PORT_CFG is applied, dropped in TRAIN, or starts training on ENABLE 0 to 1. -/
  | portCfgWrite (p : Nat) (data : W32)
  /-- R420: A hopper starts its next command when the previous has completed and its record is queued. -/
  | hopperStart (h : Nat)
  /-- R425: The command enables or disables a completion ring. -/
  | ringSet (o : Origin) (ring log2 : Nat) (peer : Bool) (ep : Nat) (base : BitVec 44)
  /-- R424: The command binds or unbinds a hopper and sets NEXT. -/
  | hopperSet (o : Origin) (h ring : Nat) (unbind : Bool) (first : BitVec 16)
  /-- R424: The command removes the hopper's unstarted commands and sets NEXT. -/
  | hopperClear (o : Origin) (h : Nat) (first : BitVec 16)
  /-- R437: The command returns one part of the capacity descriptor. -/
  | capRead (o : Origin) (part : Nat)
  /-- R424: The command reads one register. -/
  | regrd (o : Origin) (addr : Nat)
  /-- R424: The command writes one register. -/
  | regwr (o : Origin) (addr : Nat) (data : W32)
  /-- R427: An exchange station copies LEN bytes between global addresses. -/
  | memCopy (o : Origin) (src dst : W64) (len : Nat)
  /-- R427: An exchange station fills LEN bytes with an 8 B pattern. -/
  | memFill (o : Origin) (addr : Nat) (pattern : W64) (len : Nat)
  /-- R618: The command bolts the reception map of one station, or of every station in service. -/
  | rmapBolt (o : Origin) (st : Nat)
  /-- R430: A record is sent as a COMPLETION packet to its ring once the ring has room. -/
  | completion (ring : Nat)
  /-- R440: A write of CI advances the consumer count or is dropped. -/
  | cmdRingciWrite (via : Path) (r : Nat) (data : W32)
  /-- R435: A write of GO starts the mailbox command, whose record goes to CMD_MBOX_RESULT. -/
  | cmdMboxGo (via : Via)
  /-- R446: A write to a register with no row of its own applies its RW fields at once or is dropped and recorded in ERR_LAST. -/
  | registerWrite (via : Path) (addr : Nat) (data : W32)
  /-- R453: A slow unit applies a posted write within 4 µs and clears BUSY. -/
  | postedWriteApply (u : SlowUnit)
  /-- R448: At least every 1 ms configuration parity is checked, halting units or taking entries out of use. -/
  | paritySweep (at' : ParityAt)
  /-- R460: A write of NOTICE_EOI ends service of a source and may redeliver it. -/
  | noticeEoi (via : Path) (data : W32)
  /-- R463: A write sets the MASK of the sources named. -/
  | noticeMaskSet (via : Path) (i : Nat) (data : W32)
  /-- R463: A write clears the MASK of the sources named. -/
  | noticeMaskClr (via : Path) (i : Nat) (data : W32)
  /-- R463: A write sets the PEND of the sources named. -/
  | noticePendSet (via : Path) (i : Nat) (data : W32)
  /-- R463: A write clears the PEND of the sources named. -/
  | noticePendClr (via : Path) (i : Nat) (data : W32)
  /-- R476: A bond link tests its lanes, exchanges width records, and resolves width, quarters and epoch. -/
  | bondLinkTrain (die link : Nat) (failing : List Nat)
  /-- R477: A bond-link frame is checked by CRC and width bits, resent on failure or held on a width mismatch. -/
  | bondFrameReceive (die link : Nat) (f : BondFrame)
  /-- R470: A bond link with over 16 CRC failures in 100 µs retrains. -/
  | bondCrcRetrain (die link : Nat)
  /-- R480: A fifth coil failure retrains the group and assigns spares. -/
  | coilRetrain (n g : Nat) (failedDown failedUp : Nat)
  /-- R513: A location reaching Shutdown drives THERMTRIP#, stops PLLs and gates every die. -/
  | thermalShutdown (loc : ThermLoc) (halfDegrees : Nat)
  /-- R527: The command resets everything but the always-on domain and HBM contents, and brings the package up again. -/
  | warmReset (o : Origin)
  /-- R540: The command writes back merge queues and takes a field's stations, sheaf bank and receipt share down. -/
  | fieldReset (o : Origin) (k : Nat)
  /-- R543: The command brings a field back through warm-up, acquisition, hash reload and bond training. -/
  | fieldEnable (o : Origin) (k : Nat)
  /-- R538: The command gates a compute die, with or without its cache die. -/
  | dieReset (o : Origin) (d : Nat) (cache : Bool)
  /-- R531: The base gates a die: stops its bond links, takes its station down and holds it in reset. -/
  | dieGate (d cause : Nat)
  /-- R530: A die whose mesh clock is missing for 100 ns is gated with cause 0x2. -/
  | referenceMissing (d : Nat)
  /-- R530: A VDD_CDn outside 0.70 to 0.80 V for 1 µs gates its die with cause 0x4. -/
  | railOutOfWindow (d millivolts : Nat)
  /-- R536: The command brings a gated die back through PLL lock, zeroing, bond training and ring reacquire. -/
  | dieRejoin (o : Origin) (d : Nat) (refMissing railOut : Bool)
  /-- R539: The command resets one core, writes end records and returns it with every context IDLE. -/
  | coreReset (o : Origin) (c : Nat)
  /-- R522: The command resets one port chiplet and its sill link and starts training. -/
  | portReset (o : Origin) (p : Nat)
  /-- R613: A PORESET# pulse of 1 µs or more starts an orderly power-down and then power-on reset and bring-up. -/
  | poreset (widthNs : Nat) (straps : Nat) (cold : List Nat)
  /-- R526: Bring-up completes and WD_RSTSTAT PHASE reads READY. -/
  | bringUpReady (failedStacks : List Nat)
  /-- R559: The proxy command reads one sensor. -/
  | sensorRead (o : Origin) (kind index : Nat)
  /-- R560: The proxy command sets the power mode, limit and cap. -/
  | powerMode (o : Origin) (mode : Nat) (setLimit setCap : Bool) (limit cap : Nat)
  /-- R565: The proxy command copies log entries to a global address. -/
  | logRead (o : Origin) (entry count : Nat) (dst : W64)
  /-- R576: The proxy command reads an image into the inactive slot and verifies it in the background. -/
  | fwStage (o : Origin) (src : W64) (len : Nat)
  /-- R576: The proxy command selects the other slot, restarts on it, or commits the rollback counter. -/
  | fwSwitch (o : Origin) (action : Nat)
  /-- R575: The boot ROM verifies and boots the selected slot, falling back on failure or trial timeout. -/
  | firmwareBoot (ready : Bool)
  /-- R580: The proxy command signs an attestation report with the next identity leaf, reserving leaves when needed. -/
  | attest (o : Origin) (dst : W64) (nonce : List Byte)
  /-- R583: The proxy command moves the life-cycle state, wipes secure SRAM and restarts the Warden. -/
  | lifecycleSet (o : Origin) (target : Nat) (token : W64)
  /-- R584: A tamper condition wipes secure SRAM within 10 µs, disables signing and restarts the Warden. -/
  | tamper (kind : Nat)
  /-- R592: The command saves, march-tests, repairs and restores a memory, or tests a bond link or fenced coil group. -/
  | bistRun (o : Origin) (p : BistParams)
  /-- R596: The command returns one failure of the last run on a unit. -/
  | bistResult (o : Origin) (target index sub n : Nat)
  /-- R599: The command tests a sown group through its loopback rings and checks its DACs, TIA and ADC. -/
  | loopbackRun (o : Origin) (st g dur : Nat)
  /-- R601: A write of TEST_EN enables, disables or bolts perturbation and resets the other TEST_ registers. -/
  | testEnWrite (via : Path) (data : W32)
  /-- R198: An HBM stack that was READY leaves service, and every line the bolted layout places on it becomes a dead target. -/
  | stackLeavesService (h : Nat)
  /-- R243: A merge-queue block on which no operation has been pending for 64 station cycles leaves the queue and is written back. -/
  | mergeBlockLeave (st blk : Nat)
  /-- R372: A training port completes training at Gen-1 or Gen-2, reads UP, and sets P2P on P0 when its peer is a host adapter. -/
  | portTrainComplete (p : Nat)
  /-- R470: A training bond link ends its training, enters service at the resolved width, and its die's traffic returns to it. -/
  | bondLinkTrainComplete (die link : Nat)
  /-- R536: The last step of a rejoin ends, CSd enters service, the capacity bits return and DIE_REJOIN completes or reports PATH_LOST. -/
  | dieRejoinComplete (d : Nat)
  /-- R543: The field's bond links have trained and its stations enter service, and FIELD_ENABLE completes. -/
  | fieldEnableComplete (k : Nat)
  /-- R539: A reset core returns to service with every context IDLE and CORE_RESET completes. -/
  | coreResetComplete (c : Nat)
  /-- R84: Every 1 ms the Warden reads each ELS output power over the control link. -/
  | moduleOutputRead (m : Nat) (powers : List Int) (temp : Nat) (alarms : W32)
  /-- R84: Every 10 µs the Warden reads each bus tap. -/
  | busTapSample (st bus : Nat) (power : Int)
  /-- R84: Every 100 µs the Warden reads each lane's photocurrent. -/
  | receiverSample (st rg lane : Nat) (current : Nat)
  /-- R90: The window closes for a returned group at its first advancing acknowledgement or at 20 µs. -/
  | hingeWindowClose (st g : Nat)
  /-- R96: When the warm step does not end within 40 ms, the hinge is aborted and the standby goes dark. -/
  | hingeAbort (f : Nat)
  /-- R104: After 50 ms of control-link failure the Warden marks the module's standby outputs not ready. -/
  | elsLinkFail (m : Nat)
  /-- R125: Every 0.1 ms the ramp governor moves a die's permitted level toward demand and runs ballast as needed. -/
  | rampStep (die demand : Nat)
  /-- R217: A fabric-side access waiting over 64 µs for its bank counts once in CORE_SPSTAT STARVE. -/
  | starve (core : Nat)
  /-- R331: Every 256 ticks the root sends a pulse, and each copy advances or holds toward the corrected count. -/
  | ftCorrectionPulse (node : Nat) (reading : Nat)
  /-- R342: A droop or forced stretch lengthens one period of a region, and its FT copy adds the extra length. -/
  | clockStretch (region percent : Nat)
  /-- R465: A source ACTIVE for a further REDELIVER ms is sent again. -/
  | noticeRedeliver (src : Nat)
  /-- R478: Within 100 ms of a live record change the Warden writes both sides' width records. -/
  | widthRecordWrite (die link : Nat)
  /-- R480: A 128 B coil transfer is checked by CRC and resent up to four times. -/
  | coilTransfer (n g : Nat) (crcOk : Bool)
  /-- R485: A sill-link block is checked by CRC and resent on failure. -/
  | sillBlockReceive (p : Nat) (crcOk : Bool)
  /-- R486: A persistent sill error takes the port out of service and retrains once, or sets FAILED on a second. -/
  | sillPersistentError (p : Nat) (within1s : Bool)
  /-- R496: Every 100 µs a region's controller moves its frequency by at most one step. -/
  | frequencyChoice (region best : Nat)
  /-- R497: A region's clock restarts after a frequency change stop of at most 2 µs. -/
  | frequencyRestart (region : Nat)
  /-- R494: A region whose PLL unlocks or jitter exceeds limits sets UNLOCK and raises CLK_FAULT. -/
  | clkFault (region : Nat) (why : ClkCause)
  /-- R494: A region whose PLL lost lock relocks within 15 µs and resumes. -/
  | pllRelock (region : Nat)
  /-- R498: A core, die, sown group or port idle long enough enters sleep. -/
  | sleepEnter (u : SleepUnit)
  /-- R498: A sleeping unit wakes on its wake cause. -/
  | wake (u : SleepUnit)
  /-- R501: A waking unit is awake and held accesses proceed. -/
  | wakeComplete (u : SleepUnit)
  /-- R499: A sleeping die wakes 25 µs ahead of an armed sow or WAITT instant. -/
  | sowAheadWake (die : Nat)
  /-- R504: Every 10 µs rail power is read and a package reading over 2,300 W halves every die's level. -/
  | railReading (milliamps millivolts : List Nat)
  /-- R504: At the end of each 100 µs window the power manager or local cap sets each die's throttle. -/
  | powerWindow (others : Nat) (power idle issue : List Nat) (avg : Nat)
  /-- R512: Every 1 ms at Throttle a die's thermal level falls by 32, and a cache die quarters its rate. -/
  | thermalThrottleStep (loc : ThermLoc)
  /-- R569: The Warden writes a record into the other bank, verifies it and retries once, or raises STORE_FAULT. -/
  | storeWrite (area : Nat) (firstOk secondOk : Bool)
  /-- R486: A sill link ends its single retrain and is UP, so its port returns to service. -/
  | sillRetrainComplete (p : Nat)
  /-- R592: A self-test run ends: the region is restored or zeroed, the unit returns to service, and the record with its verdict is written. -/
  | bistRunComplete (target index sub : Nat) (fails : List BistFail) (restoreOk : Bool)
  /-- R599: A loopback run ends after DUR ms, the group returns to its earlier state, and the record with its checks is written. -/
  | loopbackRunComplete (st g : Nat) (eyes : List Nat) (bitErr : Byte) (dacInl : Nat) (tia adc : Int)
  /-- R494: A region whose period jitter had exceeded 12 ps returns within the limit, so UNLOCK reads 0 and CLK_FAULT falls. -/
  | jitterWithinLimit (region : Nat)
  /-- R144: At most every 10 min the Warden writes refined heater bias tables to the store. -/
  | heaterTableWriteback
  /-- R336: A member's DELAY_REQ arrives at the master, which records t4 and returns DELAY_RSP. -/
  | delayReq
  /-- R338: A member takes DELAY_RSP, forms offset and delay, and slews, steps or stays FREE. -/
  | delayRsp
  /-- R340: A member with no exchange for 10 ms enters HOLD. -/
  | ftHold
  /-- R340: After 100 ms in HOLD a member enters FREE and raises FT_UNSYNC. -/
  | ftUnsync
  /-- R402: At the rekey instant the device starts tagging frames with the next key. -/
  | rekeyInstant
  /-- R402: 10 ms after the rekey instant the old key is no longer accepted. -/
  | rekeyWindowEnd
  /-- R407: The master sends GROUP_SAVE after a change, and members take master, backup and root from it. -/
  | groupSave
  /-- R409: The backup raises its epoch, becomes MASTER, sends EPOCH_ANNOUNCE and begins beacons. -/
  | takeoverAnnounce
  /-- R409: 300 µs after its announce the new master sends MASTER_FENCE. -/
  | takeoverFence
  /-- R410: A member or old master takes EPOCH_ANNOUNCE, adopts the epoch and master, and sets OVERLAP. -/
  | epochAnnounce
  /-- R410: A member takes MASTER_FENCE of its epoch and clears OVERLAP. -/
  | masterFence
  /-- R415: A COMMAND packet is accepted, relayed or discarded by its path and epoch. -/
  | command
  /-- R423: A proxy command the Warden has not accepted in 100 ms completes TIMED_OUT. -/
  | proxyTimeout
  /-- R444: A REGACC from the P0 peer reads or writes one register and is answered by REGDATA. -/
  | regacc
  /-- R461: The controller delivers a pending unmasked source as a NOTICE packet, at most one per 64 ns. -/
  | notice
  /-- R508: When the Warden stops serving, the base changes to LOCAL within 200 µs. -/
  | powerFallback
  /-- R515: The always-on domain releases THERMTRIP# after 1 s below 85 °C. -/
  | thermtripRelease
  /-- R556: A Warden not serving the watchdog for 100 ms is restarted. -/
  | watchdogRestart
  /-- R556: A restarting Warden serves again and raises WARDEN_RESTART. -/
  | wardenRestart
  /-- R564: Within 1 s of their event, log entries reach flash. -/
  | logFlush
  /-- R576: A background stage ends with the slot VALID or REJECTED. -/
  | fwStageDone
  /-- R595: Within 1 s of a repair or fence the Warden writes the repair maps area. -/
  | repairRecord
  /-- R564: The package loses its rails without an orderly power-down, losing unflushed log entries, the leaf reservation and any record write in progress. -/
  | powerLoss
  /-- R580: The signing of an attestation report ends, the report is written at DST and the command completes. -/
  | attestComplete
  deriving DecidableEq, Repr

end Sys2Proof
end

