-- ==== Sys2Proof/Machine/State.lean ====
section
/-! DEFINITION. The state of the block: every register, table, queue, counter, mode and pin the spec gives
it, as plain data, and the queue of commands that wait. Sparse tables list only what differs from the value
its key has at reset (the default functions at the end of each part). Counters are numbers that the
operations saturate at the width the register map gives. -/

namespace Sys2Proof.Machine

open Sys2Proof

/-- Reasons to stop with a fault. The spec gives every failure a status, a notice or a register record, so no row raises one. -/
inductive Fault where
  /-- Raised by no row: the spec lets the block stop nowhere. Safe. -/
  | stopped
  deriving DecidableEq, Repr

/-- Reasons to refuse a command. -/
inductive Refusal where
  /-- Raised by an arm of exec whose row has no meaning yet. Safe. -/
  | notModelled (mnemonic : String)
  deriving DecidableEq, Repr

/-- The status codes of R436, in code order. -/
inductive Status where
  | done | badOpcode | badField | outOfRange | busy | bolted | wrongState | deadTarget | timedOut | pathLost
  | refused | receiptExpired | poisoned | parity | staleEpoch | partialDone | authFail | notPresent | late
  deriving DecidableEq, Repr

/-! ### The base fabric (02) -/

/-- State of a lane group, in LG_TXCFG STATE order (R61). -/
inductive LgState where
  | off | active | draining | drained | retrain | fault | asleep
  deriving DecidableEq, Repr

/-- State of a reception-map entry, in BASE_RMAP STATE order (R62). -/
inductive RxState where
  | dark | tuning | locked | fault
  deriving DecidableEq, Repr

/-- Lock state of a ring (R115). -/
inductive RingState where
  | parked | acquire | locked | lost | bad
  deriving DecidableEq, Repr

/-- A packet placed on a lane group or waiting to be, with the stations that are to receive it and the remote operation it carries, if any (R48, R168). -/
structure QPacket where
  pkt : Packet
  readers : List Nat
  op : Option Nat
  deriving DecidableEq, Repr

/-- A grain kept for replay, with the packets any of whose bytes it carries (R36, R42). -/
structure SentGrain where
  grain : Grain
  pkts : List QPacket
  deriving DecidableEq, Repr

/-- An 8 B word of a packet stream; hdr marks the first word of a header (R32 START). -/
structure StreamWord where
  w : W64
  hdr : Bool
  deriving DecidableEq, Repr

/-- One transmit group of a station (R36 to R43, R61, R92). -/
structure TxGroup where
  state : LgState
  enable : Bool
  /-- lanes marked bad (R35, R138) -/
  bad : Byte
  /-- lanes dark or narrowed away by a hinge or a hard fail (R90, R98) -/
  dark : Byte
  gseq : BitVec 12
  replay : List SentGrain
  /-- per reader station, how many of the replay buffer's grains it has acknowledged -/
  acked : Tbl Nat
  timeouts : Nat
  queue : List QPacket
  /-- words of the packet being sent, not yet in a grain -/
  words : List StreamWord
  /-- the packet whose words those are -/
  current : Option QPacket
  /-- AUTO_ENABLE of an accepted change has not yet acted (R56) -/
  auto : Bool
  /-- an ENABLE written in steps 2 to 5 of a hinge (R92) -/
  held : Option Bool
  hinged : Bool
  /-- the hinge window is open for the group: its packets go on a substitute as well (R90) -/
  window : Bool
  /-- a LOOPBACK_RUN holds the group (R599) -/
  loopback : Bool
  /-- asleep, and steering has chosen it: it wakes (R500) -/
  waking : Bool
  /-- grains replayed (R63) -/
  rplcnt : Nat
  /-- the group has no lane record of a feed fault still to raise (R97) -/
  lateFault : Bool
  deriving DecidableEq, Repr

/-- Reset value of transmit group g: standing groups read ENABLE 1 (R61). -/
def TxGroup.reset (g : Nat) : TxGroup where
  state := .off
  enable := decide (g ≤ 12)
  bad := 0
  dark := 0
  gseq := 0
  replay := []
  acked := []
  timeouts := 0
  queue := []
  words := []
  current := none
  auto := false
  held := none
  hinged := false
  window := false
  loopback := false
  waking := false
  rplcnt := 0
  lateFault := false

/-- Who asked for a change: a host command, or an entry of a station's sow table by its load index (R57). -/
inductive Asker where
  | host (o : Origin)
  | sow (tableKey : Nat) (sowid : BitVec 16) (idx : Nat)
  deriving DecidableEq, Repr

/-- A reception-map change accepted and waiting for its groups to drain (R52). -/
structure MapChange where
  asker : Asker
  p : RmapParams
  deriving DecidableEq, Repr

/-- One receive group of a station: its map entry (R62), its delivery state and its link records (R141). -/
structure RxGroup where
  valid : Bool
  wst : Nat
  wlg : Nat
  state : RxState
  share : Nat
  expect : BitVec 12
  unacked : Bool
  words : List StreamWord
  crcErr : Nat
  misroute : Nat
  change : Option MapChange
  /-- the entry fails its parity check and acts as DARK (R448) -/
  badParity : Bool
  eyeW : Nat
  eyeH : Nat
  eyeLane : Nat
  calCount : Nat
  calTemp : Nat
  calCause : Nat
  calBusy : Bool
  /-- causes for which the link is due for calibration, each with the Field Time at which it came due (R133, R136) -/
  calDue : List (Nat × W64)
  /-- cause of the calibration under way -/
  calNow : Nat
  /-- ring-site temperature of the writer's rings at the last calibration (R133) -/
  calWTemp : Nat
  calFt : W64
  calFtHi : W32
  /-- the entry's rings have relocked and its link is not yet calibrated: the reader is still out of the reader set (R122, R130) -/
  rejoin : Bool
  deriving DecidableEq, Repr

/-- Station that standing group i of station s joins (R45). -/
def standingPeer (s i : Nat) : Nat := if i < s then i else i + 1

/-- The standing group of station s that goes to station t (R45). -/
def standingIndex (s t : Nat) : Nat := if t < s then t else t - 1

/-- Reset value of receive group g of station s (R45, R62). -/
def RxGroup.reset (s g : Nat) : RxGroup where
  valid := decide (g ≤ 12)
  wst := if g ≤ 12 then standingPeer s g else 0
  wlg := if g ≤ 12 then standingIndex (standingPeer s g) s else 0
  state := .dark
  share := 0
  expect := 0
  unacked := false
  words := []
  crcErr := 0
  misroute := 0
  change := none
  badParity := false
  eyeW := 0
  eyeH := 0
  eyeLane := 0
  calCount := 0
  calTemp := 0
  calCause := 0
  calBusy := false
  calDue := []
  calNow := 0
  calWTemp := 0
  calFt := 0
  calFtHi := 0
  rejoin := false

/-- One ring: lock state, the trim codes that its loop and its calibrations have set, and consecutive updates beyond 150 mK (R110, R115, R120). A ring that is not LOCKED takes its heater code from its bias table (State.heaterOf). -/
structure Ring where
  state : RingState
  heater : Nat
  bias : Int
  overCnt : Nat
  /-- loop error of the last update in mK -/
  err : Int
  /-- ring-site temperature, in half degrees, for which the heater code was set (R143) -/
  site : Nat
  /-- sum of the loop errors' sizes since the last average, how many they are, and that average over 100 µs (R141) -/
  errSum : Nat
  errN : Nat
  errAvg : Nat
  deriving DecidableEq, Repr

/-- A ring at reset: PARKED (R115, R145). -/
def Ring.reset : Ring :=
  { state := .parked, heater := 0, bias := 0, overCnt := 0, err := 0, site := 0, errSum := 0, errN := 0, errAvg := 0 }

/-- An entry of a ring's heater bias table for one band: the heater code at the band's reference temperature, the slope in codes per kelvin, and the default bias trim (R143). -/
structure BandEntry where
  code : Nat
  slope : Int
  bias : Int
  deriving DecidableEq, Repr

/-- A multicast packet with readers still to be sent to (R178, R179). -/
structure Remnant where
  id : Nat
  q : QPacket
  /-- none until it is first transmitted (R157) -/
  pseq : Option (BitVec 14)
  /-- STMASK readers not yet sent to -/
  remaining : Byte
  /-- an entry of the 64 is held; without one the packet waits (R179) -/
  entry : Bool
  deriving DecidableEq, Repr

/-- A 64 B block open in a merge queue: the bytes written since it opened (R243). -/
structure MergeBlk where
  blk : Nat
  bytes : Tbl Byte
  /-- earlier values of each byte in the open block (R619) -/
  past : Tbl (List Byte)
  poison : Bool
  /-- the poison state itself has changed since the block opened -/
  poisonSet : Bool
  deriving DecidableEq, Repr

/-- What one station holds beside its groups (05, 07). -/
structure Station where
  up : Bool
  halted : Bool
  inbox : List (Nat × Packet)
  sendq : List QPacket
  /-- next PSEQ per channel (R157) -/
  pseq : Tbl (BitVec 14)
  malformed : Nat
  stale : Nat
  dup : Nat
  partials : Nat
  remnants : List Remnant
  merge : List MergeBlk
  mergePeak : Nat
  rmapBolt : Bool
  maxint : Nat
  calDelta : Nat
  sowLate : Nat
  /-- REQ, RED or MC: the channel whose turn came last (R162) -/
  lastRr : Nat
  deriving DecidableEq, Repr

/-- A station at reset: out of service, everything empty, calibration settings as R140 gives. -/
def Station.reset : Station where
  up := false
  halted := false
  inbox := []
  sendq := []
  pseq := []
  malformed := 0
  stale := 0
  dup := 0
  partials := 0
  remnants := []
  merge := []
  mergePeak := 0
  rmapBolt := false
  maxint := 0x3C
  calDelta := 0x1E
  sowLate := 0
  lastRr := 0

/-- Kind of a sheaf operation (R355). -/
inductive SheafOp where
  | add | take | drain | read
  deriving DecidableEq, Repr

/-- A sheaf operation that has arrived at its bank. -/
structure BankReq where
  op : SheafOp
  sheaf : Nat
  n : Nat
  /-- from a sequencer: core and context; none for a packet -/
  from? : Option (Nat × Nat)
  /-- signal word of a sequencer's operation (R280) -/
  sig : BitVec 16
  /-- the packet it came in, and the writer station its reply goes to -/
  pkt : Option (Nat × Packet)
  deriving DecidableEq, Repr

/-- A bank's answer to a sequencer, on its way to the context (R359). -/
structure SheafAns where
  core : Nat
  ctx : Nat
  /-- opcode of the operation (R282) -/
  op : Nat
  status : Status
  sig : BitVec 16
  deriving DecidableEq, Repr

/-- What a narrow-net message carries: a sheaf operation for a bank, a bank's answer or wake-up for the drill of a core's cluster, a load or store of sheaf or register space from the station that received it, or a furrow-list fetch from register space (R10, R66, R228, R272). -/
inductive NetBody where
  | sheaf (req : BankReq)
  | wake (a : SheafAns)
  | access (st : Nat) (pkt : Packet)
  | fetch (core ctx blk : Nat)
  deriving DecidableEq, Repr

/-- A narrow-net message: class, destination node and what it carries (R66). -/
structure NetMsg where
  cls : Nat
  dst : Nat
  body : NetBody
  deriving DecidableEq, Repr

/-- A packet on the port ring: the stop it is at, its stop, direction, whether it crossed the headland, its channel and the port or station it goes on to (R72, R73). -/
structure RingPkt where
  here : Nat
  dst : Nat
  clockwise : Bool
  classB : Bool
  /-- where it came from: port number, or 16 for the fabric -/
  src : Nat
  /-- Field Time at which it came in, or entered the ring (R336) -/
  ft : W64
  q : QPacket
  deriving DecidableEq, Repr

/-- The fabric: lane groups, rings, stations, narrow net and port ring. -/
structure Fabric where
  tx : Tbl TxGroup
  rx : Tbl RxGroup
  rings : Tbl Ring
  st : Tbl Station
  net : Tbl (List NetMsg)
  ring : List RingPkt
  deriving DecidableEq, Repr

/-! ### Light supply (03) -/

/-- Fade state of a feed, in LS_FEED STATE order (R105). -/
inductive FeedState where
  | normal | watch | act | hinge | hard | dark | off
  deriving DecidableEq, Repr

/-- One feed (R76 to R101, R105, R106, R109). -/
structure Feed where
  state : FeedState
  /-- the level the feed held when its hinge began -/
  before : FeedState
  activeB : Bool
  /-- the input that the coupler passes; it leads activeB from a hinge's step 3 to its step 6 (R77, R90) -/
  couplerB : Bool
  standbyLit : Bool
  step : Nat
  hold : Bool
  power : Int
  /-- reference feed power recorded at commissioning -/
  reference : Int
  /-- consecutive tap samples at or below -4.0 dB -/
  lowRun : Nat
  /-- buses on which a ring lost lock since the last tap sample, 16 x station + bus (R87) -/
  trips : List Nat
  hinges : Nat
  hards : Nat
  watches : Nat
  /-- inputs A and B usable since their last commissioning (R78) -/
  usableA : Bool
  usableB : Bool
  /-- a hinge has been started since the feed reached Fade Act (R87) -/
  tried : Bool
  /-- the HINGE_START command that waits for the hinge (R95) -/
  asker : Option Origin
  deriving DecidableEq, Repr

/-- A feed at reset (R105); input A is active as delivered (R76). -/
def Feed.reset : Feed where
  state := .off
  before := .off
  activeB := false
  couplerB := false
  standbyLit := false
  step := 0
  hold := false
  power := 0
  reference := 0
  lowRun := 0
  trips := []
  hinges := 0
  hards := 0
  watches := 0
  usableA := true
  usableB := true
  tried := false
  asker := none

/-- One ELS module as the Warden sees it (R102, R107). -/
structure Els where
  present : Bool
  linkOk : Bool
  lit : BitVec 4
  temp : Nat
  /-- identity and alarms as last read, and the factory set points of its outputs (R102) -/
  ident : W64
  alarms : W32
  factory : List Settle
  /-- drive current written for each output, and the module's temperature set point (R102) -/
  drive : Tbl Nat
  tempSet : Nat
  deriving DecidableEq, Repr

/-- An ELS module at reset (R107). -/
def Els.reset : Els :=
  { present := false, linkOk := false, lit := 0, temp := 0, ident := 0, alarms := 0, factory := [], drive := [], tempSet := 0 }

/-- Light supply. -/
structure Light where
  feeds : Tbl Feed
  els : Tbl Els
  /-- output powers, 4 x module + output (R108) -/
  elsPwr : Tbl Int
  /-- set-point records per module output (R79) -/
  setPoints : Tbl (Option Settle)
  /-- the records as the store holds them (R79, R571) -/
  storedPoints : Tbl (Option Settle)
  feedTap : Tbl Int
  busTap : Tbl Int
  photo : Tbl Nat
  deriving DecidableEq, Repr

/-! ### Memory (06) -/

/-- State of an HBM stack, in MS_HBMSTAT STATE order (R220). -/
inductive HbmState where
  | off | train | zero | ready | selfref | failed
  deriving DecidableEq, Repr

/-- One HBM stack (R193 to R198, R220). -/
structure Hbm where
  state : HbmState
  refmult : Nat
  temp : Nat
  repairs : Nat
  /-- left service after it was READY (R198) -/
  gone : Bool
  /-- at Throttle: at most one access in two (R512) -/
  throttled : Bool
  deriving DecidableEq, Repr

/-- A stack at reset. -/
def Hbm.reset : Hbm :=
  { state := .off, refmult := 0, temp := 0, repairs := 0, gone := false, throttled := false }

/-- One entry of a receipt share (R245). -/
structure Receipt where
  src : Nat
  sys : Bool
  issuer : Nat
  aseq : BitVec 16
  old : List Byte
  ft : W64
  pending : Bool
  /-- replies that wait for the entry to be filled: station that performs, request -/
  waiting : List (Nat × Packet)
  deriving DecidableEq, Repr

/-- One memory station's registers and receipt share (R220, R245 to R249, R259). -/
structure MemStation where
  ce : Nat
  ue : Nat
  ueAddr : Nat
  ueValid : Bool
  ueHi : W32
  passes : Nat
  period : Nat
  receipts : List Receipt
  retain : Nat
  hit : Nat
  expired : Nat
  early : Nat
  evft : W64
  evftHi : W32
  /-- the receipt share is in service (R249) -/
  shareUp : Bool
  deriving DecidableEq, Repr

/-- A memory station at reset (R220, R259). -/
def MemStation.reset : MemStation where
  ce := 0
  ue := 0
  ueAddr := 0
  ueValid := false
  ueHi := 0
  passes := 0
  period := 0x18
  receipts := []
  retain := 0xA
  hit := 0
  expired := 0
  early := 0
  evft := 0
  evftHi := 0
  shareUp := false

/-- A line of a cache portion: HBM local line number, bytes held, dirty bytes, poisoned halves (R208, R210, R214). -/
structure CacheLine where
  line : Nat
  bytes : Tbl Byte
  dirty : Tbl Bool
  poisonLo : Bool
  poisonHi : Bool
  deriving DecidableEq, Repr

/-- One coil group (R480, R490). -/
structure Coil where
  dnsp : Nat
  upsp : Nat
  retry : Nat
  /-- failures of the transfer in progress -/
  failures : Nat
  deriving DecidableEq, Repr

/-- A coil group at reset. -/
def Coil.reset : Coil := { dnsp := 0, upsp := 0, retry := 0, failures := 0 }

/-- One cache die (R206 to R214, R221). -/
structure CacheDie where
  addr : Nat
  fenced : W64
  /-- KD_REMAP entry of each logical slice: ROWBASE and PSLICE -/
  remap : Tbl (Nat × Nat)
  /-- the model's own: writes that changed rows so far, and the last one for each logical slice and each 256 MiB unit (R209; log entry 38) -/
  era : Nat
  sliceEra : Tbl Nat
  unitEra : Tbl Nat
  ce : Nat
  ue : Nat
  lostUnknown : Bool
  lostLines : Nat
  /-- most recently used first -/
  lines : List CacheLine
  coils : Tbl Coil
  halted : Bool
  /-- transfers in 1 slot, 1 of 2, 1 of 4 (R512) -/
  rate : Nat
  deriving DecidableEq, Repr

/-- A cache die at reset, no fence known (R221). -/
def CacheDie.reset : CacheDie where
  addr := 0
  fenced := 0
  remap := []
  era := 0
  sliceEra := []
  unitEra := []
  ce := 0
  ue := 0
  lostUnknown := false
  lostLines := 0
  lines := []
  coils := []
  halted := false
  rate := 1

/-- The address hash's key and layout, the same copy in every station (R199, R200, R220). -/
structure HashCfg where
  key : W64
  msmask : BitVec 4
  stksel : Byte
  bolt : Bool
  deriving DecidableEq, Repr

/-- Key and layout at reset (R220). -/
def HashCfg.reset : HashCfg := { key := 0, msmask := 0xF, stksel := 0xFF, bolt := false }

/-- Memory: one list of bytes by physical place (HBM, cache dies, scratchpads), the poisoned 64 B blocks, and the units around them. -/
structure Memory where
  cells : List Host.Cell
  /-- poisoned blocks: physical place / 64, strictly rising -/
  poison : List Nat
  hbm : Tbl Hbm
  ms : Tbl MemStation
  kd : Tbl CacheDie
  deriving DecidableEq, Repr

/-! ### Remote operations (07) -/

/-- Kind of a remote operation, in CORE_RFAULT KIND order, multicast and write-back apart (R261). -/
inductive OpKind where
  | load | store | atomic | reduction | mcast | writeback
  deriving DecidableEq, Repr

/-- Who issued an operation: a context's sequencer, a descriptor of its transfer engine, a copy or fill by an exchange station, or a cache die writing back (R156, R212, R427). -/
inductive OpOwner where
  | seq (core ctx : Nat)
  | engine (core ctx : Nat)
  | job (no : Nat)
  | evict
  deriving DecidableEq, Repr

/-- What becomes of the data a load or an atomic returns: nothing, written at RETADDR, stored on from a staging buffer at an endpoint and address, a cache line filled first and part of it passed on, a block for a prefetch buffer, bytes of the list entry that a transfer engine reads, or kept for the Warden by a job (R210, R225, R272, R294, R295, R427, R576). -/
inductive OpDest where
  | none
  | scratch
  | stage (code ep dst hint : Nat) (mask : Byte)
  | fill (die line off len : Nat) (alloc : Bool) (next : OpDest)
  | fetch (core ctx blk : Nat)
  | entry (core off : Nat)
  | keep (job off : Nat)
  deriving DecidableEq, Repr

/-- A remote operation from its issue until its completion (R237, R240, R253). -/
structure Op where
  id : Nat
  /-- the first packet of its access, when it was cut (R192) -/
  group : Nat
  owner : OpOwner
  kind : OpKind
  ep : Nat
  laddr : Nat
  len : Nat
  /-- station that performs it, or the exchange station it leaves by -/
  target : Option Nat
  issuerSt : Nat
  issuer : Nat
  sys : Bool
  retAddr : Nat
  dest : OpDest
  aseq : BitVec 16
  /-- the packet has left the issuing station -/
  sent : Bool
  /-- token to signal at completion: bytes 4-5 of its descriptor (R280) -/
  sig : BitVec 16
  /-- its issuer was reset: its reply is discarded (R263) -/
  orphan : Bool
  deriving DecidableEq, Repr

/-- A pending fence (R237, R238). -/
structure Fence where
  core : Nat
  ctx : Nat
  /-- true for the FENCE of the transfer engine -/
  engine : Bool
  ops : List Nat
  worst : Status
  deriving DecidableEq, Repr

/-- An operation that crosses the rack, held by an exchange station (R248, R258). -/
structure RackOp where
  id : Nat
  /-- station that issued it -/
  st : Nat
  xs : Nat
  pkt : Packet
  /-- resends made under R248 -/
  resends : Nat
  /-- a frame that carried it was accepted, or was lost with no answer -/
  accepted : Bool
  /-- its issuer was reset: its reply is discarded (R533, R539) -/
  orphan : Bool
  deriving DecidableEq, Repr

/-- What a job does: a copy, a fill, or the Warden's writing or reading of bytes at a global address (R427, R565, R576, R580). -/
inductive JobKind where
  | copy | fill | give | take
  deriving DecidableEq, Repr

/-- A job that runs in an exchange station (R427): its command, what it has still to issue and what it waits for. -/
structure Job where
  no : Nat
  o : Origin
  opcode : Nat
  xs : Nat
  kind : JobKind
  src : Nat
  dst : Nat
  pattern : W64
  len : Nat
  /-- bytes to give, or taken so far -/
  data : List Byte
  /-- result of its record when it ends DONE -/
  res : List Byte
  done : Nat
  ops : List Nat
  worst : Status
  deriving DecidableEq, Repr

/-- Remote operations outstanding. -/
structure Remote where
  ops : List Op
  nextId : Nat
  fences : List Fence
  rack : List RackOp
  jobs : List Job
  refuseSent : Nat
  refuseGot : Nat
  resent : Nat
  gaveUp : Nat
  late : Nat
  deriving DecidableEq, Repr

/-! ### Cores and engines (08, 09) -/

/-- Context states, in code order (R265). -/
inductive CtxState where
  | idle | ready | wait | parked | paused | fault | stopping
  deriving DecidableEq, Repr

/-- Why a context is in WAIT, in code order, 0 for none (R299). -/
inductive Why where
  | none | token | sheaf | waitt | waitc | fence | queueFull | fetch | endRec
  deriving DecidableEq, Repr

/-- One context of a core (R265 to R272, R299, R300). -/
structure Ctx where
  state : CtxState
  why : Why
  pri : Nat
  late : Bool
  pc : BitVec 44
  pcHi : W32
  /-- B1 to B7 -/
  bases : Tbl (BitVec 44)
  /-- open loops, innermost first: address of the body's first operation, passes left -/
  loops : List (BitVec 44 × Nat)
  calls : List (BitVec 44)
  /-- prefetched descriptors by address -/
  buf : List (Nat × BitVec 256)
  fetching : Bool
  /-- a block that has come: its address, its bytes and the status of its fetch (R272, R277) -/
  fetched : Option (Nat × List Byte × Status)
  ring : Nat
  noend : Bool
  tag : BitVec 16
  hopper : Nat
  /-- highest-ranked status since launch (R269) -/
  worst : Status
  waitFt : W64
  waitCycles : Nat
  /-- packets of the load or atomic it is parked on that are not answered -/
  parked : List Nat
  parkedWorst : Status
  aseq : BitVec 16
  /-- sheaf operations not yet answered (R359) -/
  sheafOut : Nat
  /-- status a stopped context's end record carries -/
  endStatus : Status
  endAddr : BitVec 44
  /-- signal word of the operation that waits (R280) -/
  sig : BitVec 16
  /-- opcode of the operation that waits; 0 for none -/
  sigOp : Nat
  /-- END's fence has ended (R269) -/
  ended : Bool
  deriving DecidableEq, Repr

/-- A context at reset: IDLE (R299). -/
def Ctx.reset : Ctx where
  state := .idle
  why := .none
  pri := 0
  late := false
  pc := 0
  pcHi := 0
  bases := []
  loops := []
  calls := []
  buf := []
  fetching := false
  fetched := none
  ring := 0
  noend := true
  tag := 0
  hopper := 0
  worst := .done
  waitFt := 0
  waitCycles := 0
  parked := []
  parkedWorst := .done
  aseq := 0
  sheafOut := 0
  endStatus := .done
  endAddr := 0
  sig := 0
  sigOp := 0
  ended := false

/-- A descriptor in an engine queue, with its address operands resolved at dispatch (R275) and how far it has run. -/
structure QDesc where
  d : BitVec 256
  ctx : Nat
  /-- resolved addresses in operand order -/
  addrs : List Nat
  /-- its tokens were taken: it has begun (R279) -/
  begun : Bool
  /-- every result written, or failed, with this status -/
  result : Option Status
  /-- bytes, or places in a list, already turned into packets (R295) -/
  progress : Nat
  /-- list entry in work, as read (R294) -/
  entry : Option Nat
  /-- a list entry is being read: its bytes so far by their place, and the status of the read (R294) -/
  reading : Bool
  got : List (Nat × Byte)
  gotWorst : Status
  /-- operations of its packets -/
  ops : List Nat
  /-- highest-ranked status so far (R296) -/
  worst : Status
  deriving DecidableEq, Repr

/-- A weight tile: format, K, element codes by column, block scales, poison (R285, R297); fmt none is the all-zero tile. -/
structure Tile where
  fmt : Option Nat
  /-- columns of K element codes each -/
  cols : List (List Nat)
  /-- K/32 rows of scales, one per column -/
  scales : List (List Nat)
  poison : Bool
  deriving DecidableEq, Repr

/-- Kind of an accumulator row (R311). -/
inductive AccKind where
  | either | floating | integer
  deriving DecidableEq, Repr

/-- One accumulator row: 64 words (R285). -/
structure AccRow where
  kind : AccKind
  vals : List W32
  poison : Bool
  deriving DecidableEq, Repr

/-- A row after core reset or CLEAR: zeros of either kind (R311). -/
def AccRow.reset : AccRow := { kind := .either, vals := List.replicate 64 0, poison := false }

/-- One engine of a core (R264, R281, R285, R322). -/
structure Engine where
  queue : List QDesc
  active : Tile
  shadow : Option Tile
  acc : Tbl AccRow
  /-- last seed loaded (R322) -/
  seed : W32
  /-- draws made from the seed's sequence (R322) -/
  seedPos : Nat
  /-- a seed written and not yet taken by a descriptor (R325) -/
  seedNext : Option W32
  /-- random source the running descriptor began with: true for the driver's seed (R325) -/
  srcSeed : Bool
  deriving DecidableEq, Repr

/-- An engine at reset: empty queue, no valid shadow, zero tile. -/
def Engine.reset : Engine where
  queue := []
  active := { fmt := none, cols := [], scales := [], poison := false }
  shadow := none
  acc := []
  seed := 0
  seedPos := 0
  seedNext := none
  srcSeed := false

/-- A token signal on the token mesh: the token, the context it comes from, and engine and opcode of its descriptor (R280). -/
structure MeshSignal where
  token : Nat
  core : Nat
  ctx : Nat
  eng : Nat
  opcode : Nat
  deriving DecidableEq, Repr

/-- One core (R264, R299 to R302, R222, R261, R324, R366). -/
structure CoreUnit where
  ctxs : Tbl Ctx
  tokens : Tbl Nat
  engines : Tbl Engine
  /-- last context issued at each priority (R266) -/
  lastCtx : Tbl Nat
  /-- token signals on the mesh toward this core (R280) -/
  meshIn : List MeshSignal
  seqFault : W32
  level : Nat
  throttle : Nat
  engPois : Nat
  tokOvf : Nat
  starve : Nat
  spCe : Nat
  spUe : Nat
  rfValid : Bool
  rfUnknown : Bool
  rfCtx : Nat
  rfKind : Nat
  rfStatus : Status
  rfMask : Byte
  rfCount : Nat
  rfLaddr : Nat
  rfEp : Nat
  rfLatchLo : W32
  rfLatchHi : W32
  seedSrc : BitVec 6
  nsSat : Nat
  nsOvfNan : Nat
  nsInvalid : Nat
  nsIovf : Nat
  sowLate : Nat
  halted : Bool
  /-- held in reset: the CORE_RESET command that waits for its end (R539) -/
  resetBy : Option Origin
  asleep : Bool
  waking : Bool
  deriving DecidableEq, Repr

/-- A core at reset (R299 to R302, R222, R261, R324). -/
def CoreUnit.reset : CoreUnit where
  ctxs := []
  tokens := []
  engines := []
  lastCtx := []
  meshIn := []
  seqFault := 0
  level := 255
  throttle := 255
  engPois := 0
  tokOvf := 0
  starve := 0
  spCe := 0
  spUe := 0
  rfValid := false
  rfUnknown := false
  rfCtx := 0
  rfKind := 0
  rfStatus := .done
  rfMask := 0
  rfCount := 0
  rfLaddr := 0
  rfEp := 0
  rfLatchLo := 0
  rfLatchHi := 0
  seedSrc := 0
  nsSat := 0
  nsOvfNan := 0
  nsInvalid := 0
  nsIovf := 0
  sowLate := 0
  halted := false
  resetBy := none
  asleep := false
  waking := false

/-! ### Field Time, sows and sheaves (10) -/

/-- FT_SYNC STATE (R365). -/
inductive SyncState where
  | free | sync | hold
  deriving DecidableEq, Repr

/-- FT_SYNC ROLE (R335). -/
inductive FtRole where
  | alone | member | master
  deriving DecidableEq, Repr

/-- Field Time: the root, its copies and the group's exchange (R327 to R342, R365). -/
structure Time where
  root : W64
  /-- reading that a copy holds at until the root's count reaches it, in units of 2^-16 tick (R330, R331) -/
  held : Tbl Nat
  /-- copies that are not valid (R333) -/
  invalid : List Nat
  nowHi : W32
  /-- part of a tick by which the slew has moved the root, in units of 10^-7 tick (R337) -/
  frac : Int
  sync : SyncState
  role : FtRole
  exch : Nat
  /-- last eight exchanges, newest first: offset and delay in ns (R336) -/
  history : List (Int × Int)
  /-- exchanges in a row with |offset| of at most 16 ns -/
  good : Nat
  offset : Int
  delay : Int
  slew : Int
  maxErr : Nat
  skewErr : Nat
  stretch : Tbl Nat
  /-- t1 and t2 of the exchange in progress, and t3 once DELAY_REQ has left, in ns -/
  t1 : Option Int
  t2 : Int
  t3 : Int
  /-- exchange number in progress -/
  exNo : Nat
  /-- FT_RESYNC waits for the next exchange (R338) -/
  resync : Bool
  /-- a member in FREE: 0 before its fourth exchange, 1 after it, 2 waiting for FT_RESYNC (R338) -/
  freePhase : Nat
  deriving DecidableEq, Repr

/-- Field Time at reset (R329, R365). -/
def Time.reset : Time where
  root := 0
  held := []
  invalid := []
  nowHi := 0
  frac := 0
  sync := .free
  role := .alone
  exch := 0
  history := []
  good := 0
  offset := 0
  delay := 0
  slew := 0
  maxErr := 0
  skewErr := 0
  stretch := []
  t1 := none
  t2 := 0
  t3 := 0
  exNo := 0
  resync := false
  freePhase := 0

/-- An entry of a sow table (R345). -/
structure SowEntry where
  sowid : BitVec 16
  idx : Nat
  kind : Nat
  ft : W64
  ring : Nat
  action : List Byte
  /-- its instant had passed when it was loaded (R349) -/
  lateLoad : Bool
  deriving DecidableEq, Repr

/-- One sow in one table, from its first entry's loading to its completion (R351). -/
structure SowRun where
  table : Nat
  sowid : BitVec 16
  ring : Nat
  loaded : Nat
  /-- entries whose action runs on (a map change under way) -/
  running : Nat
  ran : Nat
  doneCount : Nat
  /-- earliest in load order that did not complete DONE: load index and status -/
  first : Option (Nat × Status)
  late : Bool
  deriving DecidableEq, Repr

/-- Sow tables: key c for core c, 64 + s for station s, 96 + p for port p. -/
structure Sows where
  tables : Tbl (List SowEntry)
  runs : List SowRun
  deriving DecidableEq, Repr

/-- A TAKE that waits (R357). -/
structure Waiter where
  core : Nat
  ctx : Nat
  n : Nat
  /-- signal word of the operation (R280) -/
  sig : BitVec 16
  deriving DecidableEq, Repr

/-- One sheaf (R354). -/
structure Sheaf where
  value : Nat
  limit : Nat
  wlim : Nat
  waiters : List Waiter
  deriving DecidableEq, Repr

/-- A sheaf at reset (R354). -/
def Sheaf.reset : Sheaf := { value := 0, limit := 0xFFFFFFFF, wlim := 0, waiters := [] }

/-- One sheaf bank (R367). -/
structure Bank where
  inbox : List BankReq
  stalls : Nat
  fvalid : Bool
  fkind : Nat
  fremote : Bool
  fsheaf : Nat
  fcore : Nat
  fcount : Nat
  deriving DecidableEq, Repr

/-- A bank at reset. -/
def Bank.reset : Bank :=
  { inbox := [], stalls := 0, fvalid := false, fkind := 0, fremote := false, fsheaf := 0, fcore := 0, fcount := 0 }

/-- Sheaves. -/
structure Sheaves where
  sheaf : Tbl Sheaf
  bank : Tbl Bank
  answers : List SheafAns
  forceVal : W32
  forceSheaf : Nat
  deriving DecidableEq, Repr

/-! ### Rack ports (11) and sill links (14) -/

/-- PORT_STAT STATE (R413). -/
inductive PortState where
  | off | train | up | down | fault | asleep
  deriving DecidableEq, Repr

/-- PORT_SILL STATE (R491). -/
inductive SillState where
  | off | train | up | down | failed
  deriving DecidableEq, Repr

/-- A calendar entry: type code and destination set (R380). -/
structure CalEntry where
  type : Nat
  dset : Nat
  deriving DecidableEq, Repr

/-- A calendar entry after a port reset: OPEN (R381). -/
def CalEntry.reset : CalEntry := { type := 2, dset := 0 }

/-- One port and its sill link (R369 to R397, R413, R484 to R491). -/
structure Port where
  state : PortState
  gen : Nat
  gen2Fail : Bool
  /-- training reached: 0 not training, 1 Gen-1 step, 2 Gen-2 step (R372) -/
  trainStep : Nat
  peerGenMax : Nat
  peerHost : Bool
  enable : Bool
  genMax : Nat
  /-- P2P as last written, and as in effect since the last training (R386) -/
  p2pWritten : Bool
  p2p : Bool
  uncorr : Nat
  corr : Nat
  misaddr : Nat
  crcErr : Nat
  stranger : Nat
  resent : Nat
  pathFailCnt : Nat
  dup : Nat
  /-- endpoints whose path on this port has failed (R396) -/
  failed : List Nat
  cal : Tbl CalEntry
  dsets : Tbl W64
  /-- changes that wait for the start of a slot, and the Field Time before which they do not take effect (R383) -/
  calPending : List (Nat × CalEntry × W64)
  dsetPending : List (Nat × W64 × W64)
  slot : Nat
  calBad : List Nat
  dsetBad : List Nat
  /-- frames checked and waiting to be handled by kind, with the Field Time at which they came (R336, R378) -/
  rxq : List (Frame × W64)
  /-- in FAULT until a port reset (R373) -/
  stuck : Bool
  /-- when STRANGER was last raised (R399) -/
  strangerAt : Option W64
  halted : Bool
  waking : Bool
  sill : SillState
  sillPersist : Nat
  sillRetry : Nat
  /-- resends of the block in progress (R485) -/
  sillTries : Nat
  sowLate : Nat
  deriving DecidableEq, Repr

/-- A port at reset (R381, R413, R491). -/
def Port.reset : Port where
  state := .off
  gen := 0
  gen2Fail := false
  trainStep := 0
  peerGenMax := 0
  peerHost := false
  enable := true
  genMax := 2
  p2pWritten := false
  p2p := false
  uncorr := 0
  corr := 0
  misaddr := 0
  crcErr := 0
  stranger := 0
  resent := 0
  pathFailCnt := 0
  dup := 0
  failed := []
  cal := []
  dsets := []
  calPending := []
  dsetPending := []
  slot := 0
  calBad := []
  dsetBad := []
  rxq := []
  stuck := false
  strangerAt := none
  halted := false
  waking := false
  sill := .off
  sillPersist := 0
  sillRetry := 0
  sillTries := 0
  sowLate := 0

/-- A DATA frame sent and not acknowledged (R388 to R390). -/
structure SentFrame where
  fdst : Nat
  fseq : BitVec 24
  q : QPacket
  port : Nat
  /-- transmissions made -/
  sends : Nat
  /-- refusals so far of the packet (R257) -/
  refusals : Nat
  /-- OPEN slots that start before it may be resent (R384) -/
  backoff : Nat
  /-- it waits to be resent (R389, R396) -/
  due : Bool
  /-- it last went in an OPEN slot -/
  inOpen : Bool
  /-- ports of failed paths on which it was a probe (R396) -/
  probed : List Nat
  deriving DecidableEq, Repr

/-- What a receiver keeps of one sender (R388, R391, R392). -/
structure PeerWin where
  /-- highest FSEQ accepted -/
  highest : Option (BitVec 24)
  /-- every FSEQ before this one is held -/
  base : BitVec 24
  /-- FSEQs from base on that are held -/
  ahead : List (BitVec 24)
  /-- base has moved since the window was last emptied -/
  any : Bool
  refused : List (BitVec 24)
  sinc : Option Byte
  /-- frames received and not yet acknowledged in a frame sent -/
  owesAck : Bool
  port : Nat
  deriving DecidableEq, Repr

/-- A window with nothing accepted. -/
def PeerWin.reset : PeerWin :=
  { highest := none, base := 0, ahead := [], any := false, refused := [], sinc := none, owesAck := false, port := 0 }

/-- What a sender keeps of one endpoint (R388, R393). -/
structure PeerSend where
  fseq : BitVec 24
  dinc : Byte
  deriving DecidableEq, Repr

/-- Ports, frames in flight and windows. -/
structure Ports where
  port : Tbl Port
  /-- output buffers, by outKey: of each port one for each channel and hop class (R185); packets that leave, waiting for a slot; readers holds port, FDST and refusals so far (R395) -/
  outq : Tbl (List QPacket)
  /-- frames other than DATA that wait for a slot, by port (R380) -/
  ctlq : List (Nat × Frame)
  sent : List SentFrame
  /-- refused packets waiting out their backoff (R257): packet, endpoint, refusals -/
  backoff : List (QPacket × Nat × Nat)
  win : Tbl PeerWin
  send : Tbl PeerSend
  deriving DecidableEq, Repr

/-! ### Endpoint, plat table and group (05, 11) -/

/-- Endpoint ID, plat table and relay counters (R148 to R154, R188). -/
structure Plat where
  valid : Bool
  id : Nat
  bolt : Bool
  entries : Tbl W64
  fwd : Nat
  drop : Nat
  /-- entries taken out of use by a parity mismatch (R448) -/
  bad : List Nat
  /-- next PSEQ of what this device relays, per channel (R157) -/
  relayPseq : Tbl (BitVec 14)
  deriving DecidableEq, Repr

/-- Plat table at reset (R188). -/
def Plat.reset : Plat :=
  { valid := false, id := 0, bolt := false, entries := [], fwd := 0, drop := 0, bad := [], relayPseq := [] }

/-- The record that GROUP_SAVE carries (R406). -/
structure GroupRec where
  members : Tbl (Option Nat)
  adapters : List Nat
  backup : Nat
  bcroot : Nat
  epoch : BitVec 16
  deriving DecidableEq, Repr

/-- Group state (R401 to R412); the keys lie in the Warden's secure SRAM (R555). -/
structure Group where
  valid : Bool
  /-- PORT_GROUP ROLE code: 0 member, 1 master, 2 backup, 3 ALONE -/
  role : Nat
  overlap : Bool
  sidx : Nat
  rekey : Bool
  epoch : BitVec 16
  prevEpoch : BitVec 16
  /-- MASTER_FENCE of the present epoch has been taken (R410) -/
  fenced : Bool
  master : Option Nat
  backup : Option Nat
  /-- the master of the epoch before the present one (R410, R414) -/
  prevMaster : Option Nat
  bcroot : Option Nat
  members : Tbl (Option Nat)
  inc : Byte
  key : Option (List Byte)
  nextKey : Option (List Byte)
  instant : W64
  /-- the rekey instant has passed and the 10 ms window runs (R402) -/
  window : Bool
  saved : Option GroupRec
  /-- takeover: 0 none, 1 loading, 2 announced (R409) -/
  takeover : Nat
  /-- an old master that has received EPOCH_ANNOUNCE (R411) -/
  demoted : Bool
  /-- the record differs from the last GROUP_SAVE sent (R407) -/
  saveDue : Bool
  deriving DecidableEq, Repr

/-- Group state at reset (R412). -/
def Group.reset : Group where
  valid := false
  role := 3
  overlap := false
  sidx := 0
  rekey := false
  epoch := 0
  prevEpoch := 0
  fenced := true
  master := none
  backup := none
  prevMaster := none
  bcroot := none
  members := []
  inc := 0
  key := none
  nextKey := none
  instant := 0
  window := false
  saved := none
  takeover := 0
  demoted := false
  saveDue := false

/-! ### Host bridge (12) -/

/-- A 64 B command that a hopper holds, with the path it came by (R418, R419). -/
structure HeldCmd where
  bytes : List Byte
  via : Via
  deriving DecidableEq, Repr

/-- One hopper (R419, R439). -/
structure Hopper where
  bound : Bool
  ring : Nat
  next : BitVec 16
  held : List HeldCmd
  /-- the command that runs -/
  running : Option Origin
  /-- HOPPER_CLEAR set NEXT while it ran: NEXT stands at the command after it (R424) -/
  cleared : Bool
  dropped : Nat
  dup : Nat
  deriving DecidableEq, Repr

/-- A hopper at reset. -/
def Hopper.reset : Hopper :=
  { bound := false, ring := 0, next := 0, held := [], running := none, cleared := false, dropped := 0, dup := 0 }

/-- One completion ring (R425, R430, R439). -/
structure CmdRing where
  enable : Bool
  peer : Bool
  log2 : Nat
  ep : Nat
  base : BitVec 44
  pi : Nat
  ci : Nat
  deriving DecidableEq, Repr

/-- A ring at reset. -/
def CmdRing.reset : CmdRing :=
  { enable := false, peer := false, log2 := 0, ep := 0, base := 0, pi := 0, ci := 0 }

/-- A completion record before its PHASE is known (R428). -/
structure Record where
  ring : Nat
  opcode : Nat
  hopper : Nat
  kind : Nat
  tag : BitVec 16
  status : Status
  src : Nat
  ft : W64
  result : List Byte
  /-- one of the 1,024 places kept for gated dies and reset cores (R431) -/
  kept : Bool
  deriving DecidableEq, Repr

/-- The host bridge. -/
structure Bridge where
  hoppers : Tbl Hopper
  rings : Tbl CmdRing
  waiting : List Record
  /-- CTL packets that reached the bridge: port, packet, and Field Time at which it came in -/
  inbox : List (Nat × Packet × W64)
  mboxCmd : Tbl W32
  /-- 0 IDLE, 1 BUSY, 2 DONE -/
  mboxState : Nat
  mboxResult : List Byte
  /-- proxy commands dispatched and not yet accepted by the Warden: origin and 64 B (R423) -/
  proxies : List (Origin × List Byte)
  errValid : Bool
  errPath : Nat
  errStatus : Status
  errCount : Nat
  errAddr : W32
  errAddrLatch : W32
  /-- GO was written by a path and the mailbox command has not yet begun (R435) -/
  mboxGo : Option Via
  /-- posted writes accepted and not yet applied: register address, data, path (R453) -/
  posted : List (SlowUnit × Nat × W32)
  deriving DecidableEq, Repr

/-- The host bridge at reset. -/
def Bridge.reset : Bridge where
  hoppers := []
  rings := []
  waiting := []
  inbox := []
  mboxCmd := []
  mboxState := 0
  mboxResult := []
  proxies := []
  errValid := false
  errPath := 0
  errStatus := .done
  errCount := 0
  errAddr := 0
  errAddrLatch := 0
  mboxGo := none
  posted := []

/-- The notice controller (R458 to R466). -/
structure Notices where
  pend : BitVec 512
  active : BitVec 512
  mask : BitVec 512
  redeliver : Nat
  sent : Nat
  resent : Nat
  /-- Field Time at which each source became pending, and at which each delivered one had (R417, R465) -/
  pendFt : Tbl W64
  activeFt : Tbl W64
  deriving DecidableEq, Repr

/-- Notices at reset: every source masked (R466). -/
def Notices.reset : Notices :=
  { pend := 0, active := 0, mask := BitVec.allOnes 512, redeliver := 0, sent := 0, resent := 0, pendFt := [], activeFt := [] }

/-! ### Die links, clocks, power, temperature (14, 15) -/

/-- BASE_BOND STATE (R488). -/
inductive BondState where
  | off | train | up | hold | out
  deriving DecidableEq, Repr

/-- A width record of one side (R475): quarters kept, epoch, bad lanes. -/
structure WidthRec where
  qmask : BitVec 4
  epoch : BitVec 16
  bad : BitVec 136
  deriving DecidableEq, Repr

/-- The record of a link with no fault known. -/
def WidthRec.full : WidthRec := { qmask := 0xF, epoch := 0, bad := 0 }

/-- One bond link (R468 to R478, R488, R489). -/
structure Bond where
  state : BondState
  /-- live records of the die side and the base side; none when lost with a reset (R492) -/
  dieLive : Option WidthRec
  baseLive : Option WidthRec
  dieStored : WidthRec
  baseStored : WidthRec
  spares : Nat
  /-- frame expected next -/
  seq : Nat
  holds3 : Nat
  crcErr : Nat
  trains : Nat
  holds : Nat
  /-- the training in progress has resolved the width (R476, R492) -/
  resolved : Bool
  /-- the live record changed and is not yet in the store (R478) -/
  dirty : Bool
  deriving DecidableEq, Repr

/-- A bond link at reset: OFF, stored records without a fault. -/
def Bond.reset : Bond where
  state := .off
  dieLive := none
  baseLive := none
  dieStored := WidthRec.full
  baseStored := WidthRec.full
  spares := 0
  seq := 0
  holds3 := 0
  crcErr := 0
  trains := 0
  holds := 0
  resolved := false
  dirty := false

/-- One compute clock region (R494 to R497, R519). -/
structure Region where
  freq : Nat
  fmax : Nat
  fmin : Nat
  /-- 0 running, 1 stopped, 2 asleep -/
  state : Nat
  pllLost : Bool
  jitterOver : Bool
  jitter : Nat
  duty : Nat
  changes : Nat
  /-- frequency it restarts at (R497) -/
  nextFreq : Nat
  deriving DecidableEq, Repr

/-- A region at reset (R519). -/
def Region.reset : Region where
  freq := 0xBE
  fmax := 0xBE
  fmin := 0xBE
  state := 0
  pllLost := false
  jitterOver := false
  jitter := 0
  duty := 0x32
  changes := 0
  nextFreq := 0xBE

/-- Power and ramp of one compute die (R125 to R129, R504 to R507, R519). -/
structure DiePower where
  level : Nat
  demand : Nat
  ramp : Nat
  /-- part of a level, in units of 1/RAMP, by which the governor is behind its slope (R125, R127) -/
  acc : Nat
  ballast : Bool
  manager : Nat
  thermal : Nat
  cap : Nat
  power : Nat
  asleep : Bool
  waking : Bool
  deriving DecidableEq, Repr

/-- A die's power state at reset. -/
def DiePower.reset : DiePower where
  level := 0
  demand := 0
  ramp := 0x14
  acc := 0
  ballast := false
  manager := 255
  thermal := 255
  cap := 255
  power := 0
  asleep := false
  waking := false

/-- A location's temperature registers (R520). -/
structure Therm where
  temp : Nat
  level : Nat
  peak : Nat
  band : Nat
  deriving DecidableEq, Repr

/-- A location at reset. -/
def Therm.reset : Therm := { temp := 0, level := 0, peak := 0, band := 0 }

/-- Clocks, power and temperature. -/
structure Power where
  bonds : Tbl Bond
  regions : Tbl Region
  dies : Tbl DiePower
  mode : Nat
  fallback : Bool
  limit : Nat
  /-- package power over the last window and over 10 ms, in mW -/
  pkgWin : Nat
  pkgAvg : Nat
  excur : Nat
  cuts : Nat
  /-- Field Time of the last cut (R504) -/
  cutAt : Option W64
  sleepLg : Bool
  sleepDies : Bool
  sleepPorts : BitVec 16
  dieCap : Nat
  cd : Tbl Therm
  kd : Tbl Therm
  field : Tbl Therm
  /-- last reading of each of the Warden's sensors in half degrees, by its number (R113, R559) -/
  sensors : Tbl Nat
  tripValid : Bool
  tripKind : Nat
  tripIndex : Nat
  tripTemp : Nat
  tripCount : Nat
  /-- THERMTRIP# is driven low (R513) -/
  thermtrip : Bool
  /-- shut down, until a power-on reset (R513, R515) -/
  tripped : Bool
  /-- last rail readings in mA and mV, by rail number (R559, R609) -/
  railMa : Tbl Nat
  railMv : Tbl Nat
  deriving DecidableEq, Repr

/-- Power at reset (R519, R520). -/
def Power.reset : Power where
  bonds := []
  regions := []
  dies := []
  mode := 0
  fallback := false
  limit := 0x07D0
  pkgWin := 0
  pkgAvg := 0
  excur := 0
  cuts := 0
  cutAt := none
  sleepLg := true
  sleepDies := true
  sleepPorts := 0
  dieCap := 0x96
  cd := []
  kd := []
  field := []
  sensors := []
  tripValid := false
  tripKind := 0
  tripIndex := 0
  tripTemp := 0
  tripCount := 0
  thermtrip := false
  tripped := false
  railMa := []
  railMv := []

/-! ### Reset (16) -/

/-- WD_RSTSTAT PHASE (R548). -/
inductive Phase where
  | poweron | warm | ready
  deriving DecidableEq, Repr

/-- WD_FIELD STATE (R549). -/
inductive FieldState where
  | off | warmup | up | reset | enabling
  deriving DecidableEq, Repr

/-- WD_DIE STATE (R550). -/
inductive DieState where
  | up | gated | rejoining
  deriving DecidableEq, Repr

/-- One base field (R112, R549). -/
structure FieldUnit where
  state : FieldState
  resets : Nat
  /-- warm-up has passed 5 s (R112) -/
  cold : Bool
  /-- the FIELD_ENABLE command under way -/
  enabling : Option Origin
  deriving DecidableEq, Repr

/-- A field at reset (R549). -/
def FieldUnit.reset : FieldUnit := { state := .off, resets := 0, cold := false, enabling := none }

/-- One compute die's gate state (R530 to R537, R550). -/
structure DieUnit where
  state : DieState
  gcause : Nat
  kdKept : Bool
  gates : Nat
  rejoining : Option Origin
  /-- VDD_CDd outside its window; mesh reference missing -/
  railOut : Bool
  refMissing : Bool
  deriving DecidableEq, Repr

/-- A die at reset (R550). -/
def DieUnit.reset : DieUnit :=
  { state := .up, gcause := 0, kdKept := false, gates := 0, rejoining := none, railOut := false, refMissing := false }

/-- Reset control (R548 to R552, R612, R613). -/
structure Resets where
  phase : Phase
  cause : Nat
  warmCnt : Nat
  fields : Tbl FieldUnit
  dies : Tbl DieUnit
  mcLost : Nat
  endDead : Nat
  mergeLost : Nat
  /-- STRAP_SMBADDR and STRAP_FLASHOWN as sampled (R612) -/
  smbAddr : Nat
  flashOwn : Bool
  deriving DecidableEq, Repr

/-- Reset control at power-on (R548). -/
def Resets.reset : Resets where
  phase := .poweron
  cause := 0
  warmCnt := 0
  fields := []
  dies := []
  mcLost := 0
  endDead := 0
  mergeLost := 0
  smbAddr := 0
  flashOwn := false

/-! ### Warden, store, firmware, identity (17) -/

/-- State of a firmware slot, in WD_FW STATE order (R588). -/
inductive SlotState where
  | empty | staging | valid | active | failed | rejected
  deriving DecidableEq, Repr

/-- One firmware slot (R573, R588). -/
structure Slot where
  state : SlotState
  version : W32
  svn : Nat
  image : List Byte
  deriving DecidableEq, Repr

/-- An empty slot. -/
def Slot.reset : Slot := { state := .empty, version := 0, svn := 0, image := [] }

/-- One record area of the store (R566 to R570). -/
structure Area where
  /-- SEQ of the present record in each bank; none when the bank is not valid -/
  seq0 : Option (BitVec 32)
  seq1 : Option (BitVec 32)
  /-- a change waits to be written (R571) -/
  dirty : Bool
  deriving DecidableEq, Repr

/-- An area with a first record in bank 0. -/
def Area.reset : Area := { seq0 := some 0, seq1 := none, dirty := false }

/-- A log entry (R561). -/
structure LogEntry where
  no : Nat
  code : Nat
  ft : W64
  sev : Nat
  unitNo : Nat
  data : List Byte
  deriving DecidableEq, Repr

/-- The Warden (R554 to R589). -/
structure Warden where
  serving : Bool
  restarts : Nat
  /-- cause of the restart under way, as log code 0x0001 counts it -/
  restartCause : Nat
  log : List LogEntry
  logNext : Nat
  /-- entries of the log already in flash: numbers below this -/
  flushed : Nat
  logNextHi : W32
  /-- entries of each CODE dropped and not yet counted in an entry (R563) -/
  perSecond : Tbl Nat
  slotA : Slot
  slotB : Slot
  activeB : Bool
  switchPending : Bool
  trial : Bool
  failedBoots : Nat
  svnMin : Nat
  /-- a FW_STAGE under way: its command, and the outcome of its verification -/
  staging : Option Origin
  /-- 0 BLANK to 4 DECOMMISSIONED (R582) -/
  lifecycle : Nat
  lifecycleChanges : Nat
  tampered : Bool
  tampers : Nat
  lastKind : Nat
  /-- the identity seed is in secure SRAM (R578) -/
  seed : Bool
  nextFree : Nat
  /-- next leaf of the present reservation and its end (R579) -/
  leafNext : Nat
  leafEnd : Nat
  attest : Option (Origin × W64 × List Byte × Nat)
  areas : Tbl Area
  missing : Byte
  wfail : Byte
  writes : Nat
  snHi : W32
  /-- entries of the heater bias tables that calibrations have refined, by 4 x ring + band, as the rings use them and as the store holds them; the others are the factory's (R143, R144) -/
  tables : Tbl BandEntry
  storedTables : Tbl BandEntry
  /-- HBM lanes repaired, by stack, as the store's repair maps hold them (R195) -/
  laneRepairs : Tbl Nat
  /-- calibrations have refined the heater tables since they were last written, and when that was (R144) -/
  tablesRefined : Bool
  tablesAt : Option W64
  /-- coil fences as the repair maps hold them (R481) -/
  fences : Tbl W64
  /-- spare rows used as the repair maps hold them (R595) -/
  storedSpares : Tbl Nat
  /-- Field Time of each sensor's last sample, by 65536 x KIND + INDEX (R559) -/
  sampleFt : Tbl W64
  /-- SMBus, straps and the incarnation record (R392) -/
  incStored : Byte
  deriving DecidableEq, Repr

/-! ### Self-test and perturbation (18) -/

/-- A self-test run that holds a unit (R590). -/
structure BistHold where
  o : Origin
  p : BistParams
  /-- how the save ended: none while it has not failed (R592) -/
  saveStatus : Option Status
  deriving DecidableEq, Repr

/-- The result of the last run on a unit (R596). -/
structure BistLast where
  target : Nat
  index : Nat
  sub : Nat
  fails : List (BistFail × Bool)
  deriving DecidableEq, Repr

/-- A loopback run that holds a sown group (R599). -/
structure LoopHold where
  o : Origin
  st : Nat
  g : Nat
  before : LgState
  deriving DecidableEq, Repr

/-- Self-test and the TEST_ block (R590 to R604). -/
structure SelfTest where
  runs : List BistHold
  last : List BistLast
  loops : List LoopHold
  /-- spare rows used, per region: target * 65536 + index * 256 + bank or slice -/
  sparesUsed : Tbl Nat
  bolt : Bool
  en : Bool
  delay : Tbl Nat
  backp : Tbl W32
  laneErr : Tbl W32
  ackDrop : Tbl W32
  stretch : Tbl W32
  portAck : W32
  deriving DecidableEq, Repr

/-- Self-test at reset (R603). -/
def SelfTest.reset : SelfTest where
  runs := []
  last := []
  loops := []
  sparesUsed := []
  bolt := false
  en := false
  delay := []
  backp := []
  laneErr := []
  ackDrop := []
  stretch := []
  portAck := 0

/-! ### What the block sends, and the whole state -/

/-- What a step puts on a link or a pin, in order. -/
inductive Out where
  /-- a grain on transmit group g of station st -/
  | grain (st g : Nat) (gr : Grain)
  /-- a frame on port p -/
  | frame (p : Nat) (f : Frame)
  /-- a completion record that leaves for its ring as the device resets (R523) -/
  | record (r : Record)
  /-- a level on the THERMTRIP# pin: true for low -/
  | thermtrip (low : Bool)
  deriving DecidableEq, Repr

/-- Credit between stations (R167 to R174); keys by creditKey in Machine/Ops. -/
structure Credit where
  alloc : Tbl Nat
  pend : Tbl Nat
  /-- running total each reader returned -/
  total : Tbl (BitVec 16)
  /-- last total each writer saw -/
  seen : Tbl (BitVec 16)
  /-- credit each writer holds -/
  held : Tbl Nat
  /-- the reader's total changed and no record has left since -/
  owed : Tbl Bool
  /-- PSEQ windows: highest accepted, and those accepted within the window (R164) -/
  win : Tbl (Option (BitVec 14) × List (BitVec 14))
  deriving DecidableEq, Repr

/-- Credit at reset: every allocation at its default (R171), nothing returned. -/
def Credit.reset : Credit :=
  { alloc := [], pend := [], total := [], seen := [], held := [], owed := [], win := [] }

/-- The block's state. -/
structure State where
  /-- commands that wait, first in first out -/
  pending : List Instr
  fab : Fabric
  credit : Credit
  light : Light
  hash : HashCfg
  mem : Memory
  rem : Remote
  cores : Tbl CoreUnit
  time : Time
  sows : Sows
  sheaves : Sheaves
  ports : Ports
  plat : Plat
  group : Group
  bridge : Bridge
  notices : Notices
  power : Power
  resets : Resets
  warden : Warden
  test : SelfTest
  out : List Out
  /-- the model's own: registers rewritten since their unit halted, by their offset (R449; log entry 50) -/
  reloaded : List Nat
  /-- the model's own: how many free values have been drawn -/
  drawn : Nat
  deriving DecidableEq, Repr

/-- The Warden at reset: it serves, and fuses and flash are those of a part as made, BLANK (PRESUMED, log entry 3). -/
def Warden.reset : Warden where
  serving := true
  restarts := 0
  restartCause := 0
  log := []
  logNext := 0
  flushed := 0
  logNextHi := 0
  perSecond := []
  slotA := { state := .active, version := 0, svn := 0, image := Config.image }
  slotB := Slot.reset
  activeB := false
  switchPending := false
  trial := false
  failedBoots := 0
  svnMin := 0
  staging := none
  lifecycle := 0
  lifecycleChanges := 0
  tampered := false
  tampers := 0
  lastKind := 0
  seed := false
  nextFree := 0
  leafNext := 0
  leafEnd := 0
  attest := none
  areas := []
  missing := 0
  wfail := 0
  writes := 0
  snHi := 0
  tables := []
  storedTables := []
  laneRepairs := []
  tablesRefined := false
  tablesAt := none
  fences := []
  storedSpares := []
  sampleFt := []
  incStored := 0

/-- The state right after power-on reset is released: PHASE POWERON, every field OFF, every port OFF, memory all zero. -/
def State.reset : State where
  pending := []
  fab := { tx := [], rx := [], rings := [], st := [], net := [], ring := [] }
  credit := Credit.reset
  light := { feeds := [], els := [], elsPwr := [], setPoints := [], storedPoints := [], feedTap := [], busTap := [], photo := [] }
  hash := HashCfg.reset
  mem := { cells := [], poison := [], hbm := [], ms := [], kd := [] }
  rem := { ops := [], nextId := 0, fences := [], rack := [], jobs := [], refuseSent := 0, refuseGot := 0, resent := 0,
           gaveUp := 0, late := 0 }
  cores := []
  time := Time.reset
  sows := { tables := [], runs := [] }
  sheaves := { sheaf := [], bank := [], answers := [], forceVal := 0, forceSheaf := 0 }
  ports := { port := [], outq := [], ctlq := [], sent := [], backoff := [], win := [], send := [] }
  plat := Plat.reset
  group := Group.reset
  bridge := Bridge.reset
  notices := Notices.reset
  power := Power.reset
  resets := Resets.reset
  warden := Warden.reset
  test := SelfTest.reset
  out := []
  reloaded := []
  drawn := 0

end Sys2Proof.Machine
end

