-- ==== Sys2Proof/Decode.lean ====
section
/-! DEFINITION. The word form of a command. No row of the table of operations and events has bits (its fields are
empty and a row gives neither a match nor a mask), so no word spells a command. The 64 bytes of a host command are
the contents of a hopper, not a word of the table; Machine/Drill.lean takes them apart. -/

namespace Sys2Proof

/-- The command that a word spells by the table's bits: none, since the table gives no row any bits (log entry 1). -/
def decodeTableWord (_nbits _w : Nat) : Option Instr := none

end Sys2Proof
end

