-- ==== Sys2Proof/Machine/Flags.lean ====
section
/-! DEFINITION. The block's flag computations: status codes and their rank, ordered checks, counters that
saturate, bytes of words and the CRC-32. -/

namespace Sys2Proof.Machine

open Sys2Proof

/-- Code of a status (R436). -/
def Status.code : Status → Nat
  | .done => 0x00 | .badOpcode => 0x01 | .badField => 0x02 | .outOfRange => 0x03 | .busy => 0x04
  | .bolted => 0x05 | .wrongState => 0x06 | .deadTarget => 0x07 | .timedOut => 0x08 | .pathLost => 0x09
  | .refused => 0x0A | .receiptExpired => 0x0B | .poisoned => 0x0C | .parity => 0x0D | .staleEpoch => 0x0E
  | .partialDone => 0x0F | .authFail => 0x10 | .notPresent => 0x11 | .late => 0x12

/-- The status a code names (R436); a reserved code is none. -/
def Status.ofCode : Nat → Option Status
  | 0x00 => some .done | 0x01 => some .badOpcode | 0x02 => some .badField | 0x03 => some .outOfRange
  | 0x04 => some .busy | 0x05 => some .bolted | 0x06 => some .wrongState | 0x07 => some .deadTarget
  | 0x08 => some .timedOut | 0x09 => some .pathLost | 0x0A => some .refused | 0x0B => some .receiptExpired
  | 0x0C => some .poisoned | 0x0D => some .parity | 0x0E => some .staleEpoch | 0x0F => some .partialDone
  | 0x10 => some .authFail | 0x11 => some .notPresent | 0x12 => some .late
  | _ => none

/-- Rank of a status, 1 highest (R239). -/
def Status.rank : Status → Nat
  | .deadTarget => 1 | .receiptExpired => 2 | .pathLost => 3 | .notPresent => 4 | .refused => 5
  | .timedOut => 6 | .parity => 7 | .authFail => 8 | .staleEpoch => 9 | .outOfRange => 10
  | .badOpcode => 11 | .badField => 12 | .bolted => 13 | .busy => 14 | .wrongState => 15
  | .poisoned => 16 | .partialDone => 17 | .late => 18 | .done => 19

/-- The higher-ranked of two statuses (R239). -/
def Status.worse (a b : Status) : Status := if b.rank < a.rank then b else a

/-- The highest-ranked of a list, DONE when it is empty (R239). -/
def worst (l : List Status) : Status := l.foldl Status.worse .done

/-- The first check that fails decides the status (R422). -/
def firstFail : List (Bool × Status) → Option Status
  | [] => none
  | (bad, st) :: r => if bad then some st else firstFail r

/-- A counter of w bits that saturates (R456). -/
def sat (w n : Nat) : Nat := min n (2 ^ w - 1)

/-- A counter of w bits after one more event (R456). -/
def inc (w n : Nat) : Nat := sat w (n + 1)

/-- The n bytes of a number, least significant first (R225). -/
def leBytes : Nat → Nat → List Byte
  | 0, _ => []
  | n + 1, w => BitVec.ofNat 8 w :: leBytes n (w / 256)

/-- The number whose bytes these are, least significant first (R225). -/
def leNat : List Byte → Nat
  | [] => 0
  | b :: r => b.toNat + 256 * leNat r

/-- n bytes of a list from place i, zeros past its end. -/
def sliceB (l : List Byte) (i n : Nat) : List Byte :=
  (List.range n).map fun k => l.getD (i + k) 0

/-- The number in n bytes of a list from place i. -/
def fieldB (l : List Byte) (i n : Nat) : Nat := leNat (sliceB l i n)

/-- The eight bits of a byte in the order they enter the CRC-32. -/
def crcBits (b : Byte) : List Bool :=
  let msb := (List.range 8).map fun i => b.getLsbD (7 - i)
  if Config.crcReflect then msb.reverse else msb

/-- One bit of the CRC-32 with the polynomial 0x04C1_1DB7 (R32, R377). -/
def crcBit (r : W32) (b : Bool) : W32 :=
  let sh := r <<< 1
  if r.getLsbD 31 != b then sh ^^^ 0x04C11DB7#32 else sh

/-- CRC-32 of a list of bytes (R32, R377). -/
def crc32 (l : List Byte) : W32 :=
  ((l.flatMap crcBits).foldl crcBit Config.crcInit) ^^^ Config.crcXorOut

end Sys2Proof.Machine
end

