-- ==== Sys2Proof/Machine/Operands.lean ====
section
/-! DEFINITION. Numbers of units and how they sit: stations, lane groups, fields, cores, regions, feeds, ports and
their stops on the port ring; the table keys built from them. -/

namespace Sys2Proof.Machine

open Sys2Proof

/-- Number of stations: CS0 to CS7, MS0 to MS3, XS0, XS1 with IDs 0x0 to 0xD (R27). -/
def nSt : Nat := 14

/-- Compute stations have IDs 0 to 7 (R27). -/
def isCS (s : Nat) : Bool := decide (s < 8)

/-- Memory stations have IDs 8 to 11 (R27). -/
def isMS (s : Nat) : Bool := decide (8 ≤ s) && decide (s < 12)

/-- Exchange stations have IDs 12 and 13 (R27). -/
def isXS (s : Nat) : Bool := s == 12 || s == 13

/-- Transmit groups of a station: 13 standing and its sown ones (R45, R47). -/
def numTx (s : Nat) : Nat := if isCS s then 24 else if isMS s then 48 else if isXS s then 16 else 0

/-- Receive groups of a station (R45, R47). -/
def numRx (s : Nat) : Nat := if isCS s then 48 else if isMS s then 24 else if isXS s then 16 else 0

/-- A transmit group that exists. -/
def isTx (s g : Nat) : Bool := decide (g < numTx s)

/-- A receive group that exists. -/
def isRx (s g : Nat) : Bool := decide (g < numRx s)

/-- A sown transmit group (R47). -/
def isSownTx (s g : Nat) : Bool := isTx s g && decide (13 ≤ g)

/-- A sown receive group (R47). -/
def isSownRx (s g : Nat) : Bool := isRx s g && decide (13 ≤ g)

/-- Base field a station sits on (R3, R11). -/
def stField (s : Nat) : Nat := if s < 8 then s / 2 else if s < 12 then s - 8 else if s == 12 then 0 else 3

/-- First sensor of a location and how many it has, by the numbers of R559: 32 of a compute die, 4 of a cache die, 48 ring sites of a field; a stack has one of its own (R113). -/
def firstSensor : ThermLoc → Nat
  | .cd n => 32 * n
  | .kd n => 256 + 4 * n
  | .field k => 288 + 48 * k
  | .hbm _ => 0

/-- Sensors of a location. -/
def sensorCount : ThermLoc → Nat
  | .cd _ => 32
  | .kd _ => 4
  | .field _ => 48
  | .hbm _ => 1

/-- Sensors of the region that a ring lies in: 16 under the compute die for the sown rings of a CS, else 16 in the guard strips of its field (R113, R114). -/
def ringSensors (r : RingId) : List Nat :=
  (List.range 16).map fun i => firstSensor (.field (stField r.st))
    + (if isCS r.st && decide (13 ≤ r.grp) then 16 * (r.st % 2) else 32) + i

/-- Stations of a field. -/
def fieldStations (k : Nat) : List Nat := (List.range nSt).filter fun s => stField s == k

/-- Die of a core (R4). -/
def coreDie (c : Nat) : Nat := c / 8

/-- Clock region of a core: region 4 x die + half its index in the die (R17). -/
def coreRegion (c : Nat) : Nat := 4 * coreDie c + (c % 8) / 2

/-- Cores of a clock region (R17). -/
def regionCores (r : Nat) : List Nat := [8 * (r / 4) + 2 * (r % 4), 8 * (r / 4) + 2 * (r % 4) + 1]

/-- Feed that lights a bus of a station (R81). -/
def busFeed (s b : Nat) : Nat :=
  if isCS s then (s + b) % 10
  else if isMS s then (b + 3 * (s - 8)) % 10
  else if s == 12 then [1, 2, 3, 8].getD b 0 else [9, 0, 4, 5].getD b 0

/-- Buses of a station (R30). -/
def numBus (s : Nat) : Nat := if isCS s then 6 else if isMS s then 12 else 4

/-- Sown transmit groups on a bus (R82). -/
def busSown (s b : Nat) : List Nat :=
  if isCS s then (if b < 5 then [13 + 2 * b, 14 + 2 * b] else [23])
  else if isMS s then (if b < 11 then [13 + 3 * b, 14 + 3 * b, 15 + 3 * b] else [46, 47])
  else if b < 3 then [13 + b] else []

/-- Bus of a sown transmit group (R82). -/
def sownBus (s g : Nat) : Nat := if isCS s then (g - 13) / 2 else if isMS s then (g - 13) / 3 else g - 13

/-- Standing lanes of a bus: what its sown groups leave of its 32 wavelengths (R30, R82). -/
def busStanding (s b : Nat) : Nat := 32 - 8 * (busSown s b).length

/-- Buses that a feed's loss takes together at a station: at an MS the pairs that share a feed (R30, R81). -/
def busPairs (s : Nat) : List (List Nat) :=
  (List.range (numBus s)).map (fun b => [b]) ++ if isMS s then [[0, 10], [1, 11]] else []

/-- A placing of a station's standing lanes, by group and lane, keeps the bounds of R30: each bus holds its number of them, and no standing group has more than two lanes (three at an XS) on one bus or on two that share a feed. -/
def layoutOk (s : Nat) (p : Nat → Nat → Nat) : Bool :=
  let lanes (g : Nat) (l : List Nat) : Nat := ((List.range 8).filter fun i => l.contains (p g i)).length
  ((List.range (numBus s)).all fun b =>
    decide (((List.range 13).map fun g => lanes g [b]).sum = busStanding s b)) &&
  (List.range 13).all fun g => (busPairs s).all fun l => decide (lanes g l ≤ if isXS s then 3 else 2)

/-- A placing that keeps the bounds: the standing lanes of a station, 104 in group order, take the buses of this list in turn. -/
def slotBus (s : Nat) : List Nat :=
  if isCS s then [5, 0, 1, 2, 5, 3, 4, 0, 1, 5, 2, 3, 4]
  else if isMS s then [1, 0, 2, 3, 11, 4, 5, 6, 7, 11, 8, 9, 10]
  else [3, 0, 1, 2, 3, 0, 1, 2, 3, 0, 1, 3, 2]

/-- Bus of a standing lane: as the part places it, within the bounds of R30 (log entry 21). -/
def standingBus (s g lane : Nat) : Nat :=
  if layoutOk s (Config.standingBus s) then Config.standingBus s g lane else (slotBus s).getD ((8 * g + lane) % 13) 0

/-- Bus of a lane: its sown group's, or the place of a standing lane (R30, R82). -/
def laneBus (s g lane : Nat) : Nat := if g ≤ 12 then standingBus s g lane else sownBus s g

/-- Key of a bus. -/
def busKey (s b : Nat) : Nat := s * 16 + b

/-- Buses of a feed, as station and bus (R81). -/
def feedBuses (f : Nat) : List (Nat × Nat) :=
  (List.range nSt).flatMap fun s => (List.range (numBus s)).filterMap fun b => if busFeed s b == f then some (s, b) else none

/-- Module and output of an input of a feed, as 4 x module + output (R76). -/
def feedOutput (f : Nat) (inputB : Bool) : Nat :=
  if inputB then 4 * ((f + 1) % 5) + 2 + f / 5 else 4 * (f % 5) + f / 5

/-- Key of a transmit group. -/
def txKey (s g : Nat) : Nat := s * 64 + g

/-- Key of a receive group. -/
def rxKey (s g : Nat) : Nat := s * 64 + g

/-- Key of a ring: station, kind, group and lane. -/
def ringKey (r : RingId) : Nat := ((r.st * 4 + r.kind.code) * 64 + r.grp) * 8 + r.lane

/-- Key of a context. -/
def ctxKey (x : Nat) : Nat := x

/-- Key of the credit of one channel between a reader and a writer. -/
def creditKey (reader writer vc : Nat) : Nat := (reader * 16 + writer) * 8 + vc

/-- Stops of the port ring in their order: P0 to P3, XS0, the host bridge, the Warden, P4 to P11, XS1, P12 to P15 (R70). -/
def ringStops : Nat := 20

/-- Stop of a port (R70). -/
def portStop (p : Nat) : Nat := if p < 4 then p else if p < 12 then p + 3 else p + 4

/-- Stop of an exchange station (R70). -/
def xsStop (st : Nat) : Nat := if st == 12 then 4 else 15

/-- Stop of the host bridge (R70). -/
def bridgeStop : Nat := 5

/-- Stop of the Warden (R70). -/
def wardenStop : Nat := 6

/-- The port at a stop, if it is one. -/
def stopPort (i : Nat) : Option Nat :=
  if i < 4 then some i else if 7 ≤ i ∧ i < 15 then some (i - 3) else if 16 ≤ i ∧ i < 20 then some (i - 4) else none

/-- Notice sources (R458, R518, R587, R604). -/
def ntCtxFault (c : Nat) : Nat := 4 * c
def ntCtxPause (c : Nat) : Nat := 4 * c + 1
def ntRemoteFault (c : Nat) : Nat := 4 * c + 2
def ntAtoUnknown (c : Nat) : Nat := 4 * c + 3
def ntEngPoison (d : Nat) : Nat := 256 + 4 * d
def ntSpUe (d : Nat) : Nat := 256 + 4 * d + 1
def ntKdUe (d : Nat) : Nat := 256 + 4 * d + 2
def ntKdLost (d : Nat) : Nat := 256 + 4 * d + 3
def ntLgFault (s : Nat) : Nat := 288 + 4 * s
def ntRmapFault (s : Nat) : Nat := 288 + 4 * s + 1
def ntMisroute (s : Nat) : Nat := 288 + 4 * s + 2
def ntPktMalformed (s : Nat) : Nat := 288 + 4 * s + 3
def ntMemUe (k : Nat) : Nat := 344 + 4 * k
def ntHbmFail (k : Nat) : Nat := 344 + 4 * k + 1
def ntPortDown (p : Nat) : Nat := 360 + 4 * p
def ntPortGen1 (p : Nat) : Nat := 360 + 4 * p + 1
def ntPathFail (p : Nat) : Nat := 360 + 4 * p + 2
def ntStranger (p : Nat) : Nat := 360 + 4 * p + 3
def ntFadeWatch (f : Nat) : Nat := 424 + 5 * f
def ntFadeAct (f : Nat) : Nat := 424 + 5 * f + 1
def ntFeedHard (f : Nat) : Nat := 424 + 5 * f + 2
def ntHingeDone (f : Nat) : Nat := 424 + 5 * f + 3
def ntHingeAbort (f : Nat) : Nat := 424 + 5 * f + 4
def ntSheafStall (k : Nat) : Nat := 474 + k
def ntLockCold (k : Nat) : Nat := 478 + k
def ntElsChange : Nat := 482
def ntSheafForced : Nat := 483
def ntFtSkew : Nat := 484
def ntFtUnsync : Nat := 485
def ntPeerResync : Nat := 486
def ntEpochChange : Nat := 487
def ntHopperDrop : Nat := 488
def ntRingFull : Nat := 489
def ntCapChange : Nat := 490
def ntCfgParity : Nat := 491
def ntThermDie (d : Nat) : Nat := 492 + d
def ntThermField (k : Nat) : Nat := 500 + k
def ntPwrExcur : Nat := 504
def ntClkFault : Nat := 505
def ntWardenRestart : Nat := 506
def ntTamper : Nat := 507
def ntStoreFault : Nat := 508
def ntLeafLow : Nat := 509
def ntBistFail : Nat := 510
def ntTestActive : Nat := 511

end Sys2Proof.Machine
end

