-- ==== Sys2Proof/Machine/Ops.lean ====
section
/-! DEFINITION. The named operations that the meanings share: tables, bytes of memory and poison, the accessors of the
state's parts, free values, the capacity descriptor, notices and the log, dropped writes, and completion records. -/

namespace Sys2Proof.Machine

open Sys2Proof

/-! ### Tables -/

/-- What a table holds at a key: the default when the key is not listed. -/
def tget {β : Type} : Tbl β → β → Nat → β
  | [], d, _ => d
  | (k, v) :: r, d, i => if k == i then v else tget r d i

/-- A table without a key. -/
def tdel {β : Type} (t : Tbl β) (k : Nat) : Tbl β := t.filter fun e => e.1 != k

/-- A key that is not listed put in its place. -/
def tins {β : Type} : Tbl β → Nat → β → Tbl β
  | [], k, v => [(k, v)]
  | (k', v') :: r, k, v => if k < k' then (k, v) :: (k', v') :: r else (k', v') :: tins r k v

/-- A table with a value at a key; a value equal to the default is not listed. -/
def tset {β : Type} [DecidableEq β] (t : Tbl β) (d : β) (k : Nat) (v : β) : Tbl β :=
  if v = d then tdel t k else tins (tdel t k) k v

/-- A table with the value at a key changed by a function. -/
def tmod {β : Type} [DecidableEq β] (t : Tbl β) (d : β) (k : Nat) (f : β → β) : Tbl β :=
  tset t d k (f (tget t d k))

/-! ### What an event does when its condition holds -/

/-- The outcome of an event: its effect when the condition of its rule holds, nothing otherwise (log entry 2). -/
def act (c : Bool) (s : State) (f : State → State) : Host.Outcome State Fault Refusal :=
  .next (if c then f s else s)

/-- Apply a state change for each element of a list, first element first. -/
def each {α : Type} (l : List α) (f : α → State → State) (s : State) : State := l.foldl (fun s a => f a s) s

/-- Apply a state change when a condition holds. -/
def State.when (s : State) (c : Bool) (f : State → State) : State := if c then f s else s

/-- A free value: the count of draws picks it, so nothing is known of it and no two draws are related (log entry 4). -/
def State.freeVal (s : State) : Nat := Config.free s.drawn

/-- The state after a draw. -/
def State.draw (s : State) : State := { s with drawn := s.drawn + 1 }

/-- What the step puts on a link or a pin. -/
def State.emit (s : State) (o : Out) : State := { s with out := s.out ++ [o] }

/-- Field Time as the root holds it (R327). -/
def State.now (s : State) : W64 := s.time.root

/-- One tick of Field Time: the root counts, faster or slower by its slew, and its copies keep with it (R327, R330, R337; log entry 13). -/
def State.tick (s : State) : State :=
  let f := s.time.frac + s.time.slew
  if 10000000 ≤ f then { s with time := { s.time with root := s.time.root + 2, frac := f - 10000000 } }
  else if f ≤ -10000000 then { s with time := { s.time with frac := f + 10000000 } }
  else { s with time := { s.time with root := s.time.root + 1, frac := f } }

/-! ### Accessors, one pair for each table of the state -/

def State.txg (s : State) (st g : Nat) : TxGroup := tget s.fab.tx (TxGroup.reset g) (txKey st g)
def State.modTx (s : State) (st g : Nat) (f : TxGroup → TxGroup) : State :=
  { s with fab := { s.fab with tx := tmod s.fab.tx (TxGroup.reset g) (txKey st g) f } }

def State.rxg (s : State) (st g : Nat) : RxGroup := tget s.fab.rx (RxGroup.reset st g) (rxKey st g)
def State.modRx (s : State) (st g : Nat) (f : RxGroup → RxGroup) : State :=
  { s with fab := { s.fab with rx := tmod s.fab.rx (RxGroup.reset st g) (rxKey st g) f } }

def State.sta (s : State) (st : Nat) : Station := tget s.fab.st Station.reset st
def State.modSta (s : State) (st : Nat) (f : Station → Station) : State :=
  { s with fab := { s.fab with st := tmod s.fab.st Station.reset st f } }

def State.ringAt (s : State) (r : RingId) : Ring := tget s.fab.rings Ring.reset (ringKey r)
def State.modRing (s : State) (r : RingId) (f : Ring → Ring) : State :=
  { s with fab := { s.fab with rings := tmod s.fab.rings Ring.reset (ringKey r) f } }

def State.feed (s : State) (f : Nat) : Feed := tget s.light.feeds Feed.reset f
def State.modFeed (s : State) (i : Nat) (f : Feed → Feed) : State :=
  { s with light := { s.light with feeds := tmod s.light.feeds Feed.reset i f } }

def State.elsAt (s : State) (m : Nat) : Els := tget s.light.els Els.reset m
def State.modEls (s : State) (m : Nat) (f : Els → Els) : State :=
  { s with light := { s.light with els := tmod s.light.els Els.reset m f } }

def State.hbm (s : State) (h : Nat) : Hbm := tget s.mem.hbm Hbm.reset h
def State.modHbm (s : State) (h : Nat) (f : Hbm → Hbm) : State :=
  { s with mem := { s.mem with hbm := tmod s.mem.hbm Hbm.reset h f } }

def State.ms (s : State) (k : Nat) : MemStation := tget s.mem.ms MemStation.reset k
def State.modMs (s : State) (k : Nat) (f : MemStation → MemStation) : State :=
  { s with mem := { s.mem with ms := tmod s.mem.ms MemStation.reset k f } }

def State.kd (s : State) (n : Nat) : CacheDie := tget s.mem.kd CacheDie.reset n
def State.modKd (s : State) (n : Nat) (f : CacheDie → CacheDie) : State :=
  { s with mem := { s.mem with kd := tmod s.mem.kd CacheDie.reset n f } }

def State.coil (s : State) (n g : Nat) : Coil := tget (s.kd n).coils Coil.reset g
def State.modCoil (s : State) (n g : Nat) (f : Coil → Coil) : State :=
  s.modKd n fun k => { k with coils := tmod k.coils Coil.reset g f }

def State.core (s : State) (c : Nat) : CoreUnit := tget s.cores CoreUnit.reset c
def State.modCore (s : State) (c : Nat) (f : CoreUnit → CoreUnit) : State :=
  { s with cores := tmod s.cores CoreUnit.reset c f }

def State.ctx (s : State) (c x : Nat) : Ctx := tget (s.core c).ctxs Ctx.reset x
def State.modCtx (s : State) (c x : Nat) (f : Ctx → Ctx) : State :=
  s.modCore c fun u => { u with ctxs := tmod u.ctxs Ctx.reset x f }

def State.eng (s : State) (c e : Nat) : Engine := tget (s.core c).engines Engine.reset e
def State.modEng (s : State) (c e : Nat) (f : Engine → Engine) : State :=
  s.modCore c fun u => { u with engines := tmod u.engines Engine.reset e f }

def State.token (s : State) (c i : Nat) : Nat := tget (s.core c).tokens 0 i
def State.setToken (s : State) (c i v : Nat) : State :=
  s.modCore c fun u => { u with tokens := tset u.tokens 0 i v }

def State.sowTab (s : State) (k : Nat) : List SowEntry := tget s.sows.tables [] k
def State.modSow (s : State) (k : Nat) (f : List SowEntry → List SowEntry) : State :=
  { s with sows := { s.sows with tables := tmod s.sows.tables [] k f } }

def State.sheaf (s : State) (n : Nat) : Sheaf := tget s.sheaves.sheaf Sheaf.reset n
def State.modSheaf (s : State) (n : Nat) (f : Sheaf → Sheaf) : State :=
  { s with sheaves := { s.sheaves with sheaf := tmod s.sheaves.sheaf Sheaf.reset n f } }

def State.bank (s : State) (k : Nat) : Bank := tget s.sheaves.bank Bank.reset k
def State.modBank (s : State) (k : Nat) (f : Bank → Bank) : State :=
  { s with sheaves := { s.sheaves with bank := tmod s.sheaves.bank Bank.reset k f } }

def State.port (s : State) (p : Nat) : Port := tget s.ports.port Port.reset p
def State.modPort (s : State) (p : Nat) (f : Port → Port) : State :=
  { s with ports := { s.ports with port := tmod s.ports.port Port.reset p f } }

def State.peerWin (s : State) (e : Nat) : PeerWin := tget s.ports.win PeerWin.reset e
def State.modWin (s : State) (e : Nat) (f : PeerWin → PeerWin) : State :=
  { s with ports := { s.ports with win := tmod s.ports.win PeerWin.reset e f } }

/-- What a sender keeps of an endpoint to which it has sent nothing. -/
def PeerSend.reset : PeerSend := { fseq := 0, dinc := 0 }
def State.peerSend (s : State) (e : Nat) : PeerSend := tget s.ports.send PeerSend.reset e
def State.modSend (s : State) (e : Nat) (f : PeerSend → PeerSend) : State :=
  { s with ports := { s.ports with send := tmod s.ports.send PeerSend.reset e f } }

def State.hopper (s : State) (h : Nat) : Hopper := tget s.bridge.hoppers Hopper.reset h
def State.modHopper (s : State) (h : Nat) (f : Hopper → Hopper) : State :=
  { s with bridge := { s.bridge with hoppers := tmod s.bridge.hoppers Hopper.reset h f } }

def State.cring (s : State) (r : Nat) : CmdRing := tget s.bridge.rings CmdRing.reset r
def State.modCring (s : State) (r : Nat) (f : CmdRing → CmdRing) : State :=
  { s with bridge := { s.bridge with rings := tmod s.bridge.rings CmdRing.reset r f } }

/-- Key of bond link i of die d. -/
def bondKey (d i : Nat) : Nat := d * 64 + i
def State.bond (s : State) (d i : Nat) : Bond := tget s.power.bonds Bond.reset (bondKey d i)
def State.modBond (s : State) (d i : Nat) (f : Bond → Bond) : State :=
  { s with power := { s.power with bonds := tmod s.power.bonds Bond.reset (bondKey d i) f } }

def State.region (s : State) (r : Nat) : Region := tget s.power.regions Region.reset r
def State.modRegion (s : State) (r : Nat) (f : Region → Region) : State :=
  { s with power := { s.power with regions := tmod s.power.regions Region.reset r f } }

def State.diePower (s : State) (d : Nat) : DiePower := tget s.power.dies DiePower.reset d
def State.modDiePower (s : State) (d : Nat) (f : DiePower → DiePower) : State :=
  { s with power := { s.power with dies := tmod s.power.dies DiePower.reset d f } }

def State.field (s : State) (k : Nat) : FieldUnit := tget s.resets.fields FieldUnit.reset k
def State.modField (s : State) (k : Nat) (f : FieldUnit → FieldUnit) : State :=
  { s with resets := { s.resets with fields := tmod s.resets.fields FieldUnit.reset k f } }

def State.die (s : State) (d : Nat) : DieUnit := tget s.resets.dies DieUnit.reset d
def State.modDie (s : State) (d : Nat) (f : DieUnit → DieUnit) : State :=
  { s with resets := { s.resets with dies := tmod s.resets.dies DieUnit.reset d f } }

def State.area (s : State) (a : Nat) : Area := tget s.warden.areas Area.reset a
def State.modArea (s : State) (a : Nat) (f : Area → Area) : State :=
  { s with warden := { s.warden with areas := tmod s.warden.areas Area.reset a f } }

/-- A temperature location's registers (R520); a stack's temperature stands in its own record. -/
def State.therm (s : State) : ThermLoc → Therm
  | .cd n => tget s.power.cd Therm.reset n
  | .kd n => tget s.power.kd Therm.reset n
  | .field k => tget s.power.field Therm.reset k
  | .hbm h => { temp := (s.hbm h).temp, level := if (s.hbm h).throttled then 2 else 0, peak := 0, band := 0 }
def State.modTherm (s : State) (l : ThermLoc) (f : Therm → Therm) : State :=
  match l with
  | .cd n => { s with power := { s.power with cd := tmod s.power.cd Therm.reset n f } }
  | .kd n => { s with power := { s.power with kd := tmod s.power.kd Therm.reset n f } }
  | .field k => { s with power := { s.power with field := tmod s.power.field Therm.reset k f } }
  | .hbm h => s.modHbm h fun x =>
      { x with temp := (f (s.therm (.hbm h))).temp, throttled := decide (2 ≤ (f (s.therm (.hbm h))).level) }

/-! ### Memory: bytes by physical place (R195, R209, R214, R219) -/

/-- Physical place of a byte of an HBM stack. -/
def hbmPlace (stack pc off : Nat) : Nat := stack * 2 ^ 36 + pc * 2 ^ 30 + off

/-- Physical place of a byte of a cache die's SRAM. -/
def kdPlace (die slice row b : Nat) : Nat := 2 ^ 41 + die * 2 ^ 31 + slice * 2 ^ 25 + row * 128 + b

/-- Physical place of a byte of a scratchpad. -/
def spPlace (core off : Nat) : Nat := 2 ^ 42 + core * 2 ^ 24 + off

/-- Places of cache-die bytes begin anew with each change of the rows they lie in (R209; log entry 38). -/
def kdEra : Nat := 2 ^ 48

/-- What an unlisted place reads as: zero, as every memory is written at power-on, or undefined in a cache-die row mapped since (R195, R209, R214, R219). -/
def memDefault (a : Nat) : Byte := if a < kdEra then 0 else Config.undefByte a

/-- The one form of a memory's list: addresses strictly rising, no entry equal to what an unlisted address reads as. -/
def Memory.wf (m : Memory) : Bool :=
  decide (m.cells.Pairwise fun a b => a.1 < b.1) && m.cells.all fun e => e.2 != memDefault e.1

/-- One byte. -/
def Memory.rd (m : Memory) (a : Nat) : Byte := tget m.cells (memDefault a) a

/-- Write one byte. -/
def Memory.wr (m : Memory) (a : Nat) (b : Byte) : Memory := { m with cells := tset m.cells (memDefault a) a b }

/-- n bytes from a place. -/
def Memory.rdN (m : Memory) (a : Nat) : Nat → List Byte
  | 0 => []
  | n + 1 => m.rd a :: m.rdN (a + 1) n

/-- Write bytes from a place on. -/
def Memory.wrN (m : Memory) (a : Nat) : List Byte → Memory
  | [] => m
  | b :: r => (m.wr a b).wrN (a + 1) r

/-- Whether the 64 B block of a place is poisoned (R203, R214, R219). -/
def Memory.isPoison (m : Memory) (a : Nat) : Bool := m.poison.contains (a / 64)

/-- Put a number in a strictly rising list. -/
def insSorted : List Nat → Nat → List Nat
  | [], k => [k]
  | x :: r, k => if k < x then k :: x :: r else if x == k then x :: r else x :: insSorted r k

/-- Set or clear the poison of the 64 B block of a place. -/
def Memory.setPoison (m : Memory) (a : Nat) (p : Bool) : Memory :=
  { m with poison := if p then insSorted m.poison (a / 64) else m.poison.filter (· != a / 64) }

def State.rdMem (s : State) (a n : Nat) : List Byte := s.mem.rdN a n
def State.wrMem (s : State) (a : Nat) (l : List Byte) : State := { s with mem := s.mem.wrN a l }
def State.setPoison (s : State) (a : Nat) (p : Bool) : State := { s with mem := s.mem.setPoison a p }

/-! ### Register writes -/

/-- Offset in register space of a register of a station's block (R442). -/
def stReg (st off : Nat) : Nat := 0x00100000 + 0x10000 * st + off

/-- Offset in register space of a register of a core's block (R442). -/
def coreReg (c off : Nat) : Nat := 0x01000000 + 0x10000 * c + off

/-! ### Which units are in service -/

/-- A station in service (R422, R525). -/
def State.stUp (s : State) (st : Nat) : Bool := decide (st < nSt) && (s.sta st).up

/-- A field in service. -/
def State.fieldUp (s : State) (k : Nat) : Bool := decide ((s.field k).state = .up)

/-- A sensor has been sampled (R559). -/
def State.sampled (s : State) (kind index : Nat) : State :=
  { s with warden := { s.warden with sampleFt := tset s.warden.sampleFt 0 (65536 * kind + index) s.now } }

/-- A die that is not gated. -/
def State.dieUp (s : State) (d : Nat) : Bool := decide ((s.die d).state = .up)

/-- Every transmit link or every receive link of a cluster of a die is OUT (R468, R473). -/
def State.clusterCut (s : State) (d q : Nat) : Bool :=
  ((List.range 6).all fun i => decide ((s.bond d (6 * q + i)).state = .out)) ||
  ((List.range 12).all fun i => decide ((s.bond d (12 + 12 * q + i)).state = .out))

/-- A core whose cluster has lost its fabric path (R473). -/
def State.coreCut (s : State) (c : Nat) : Bool := s.clusterCut (coreDie c) (c % 8 / 4)

/-- Throttle level of a die: the lowest of its sources (R506). -/
def DiePower.throttle (p : DiePower) : Nat := min p.manager (min p.thermal p.cap)

/-- The levels of a die reach its cores: THROTTLE, and LEVEL as the lower of it and the permitted level (R298, R506). -/
def State.spreadLevel (s : State) (d : Nat) : State :=
  let p := s.diePower d
  (List.range 8).foldl (fun s i => s.modCore (8 * d + i) fun u =>
    { u with throttle := p.throttle, level := min p.level p.throttle }) s

/-- A core in service: its die is not gated and the core is not held in reset. -/
def State.coreUp (s : State) (c : Nat) : Bool := s.dieUp (coreDie c) && (s.core c).resetBy.isNone

/-- A port in service (R394, R448). -/
def State.portUp (s : State) (p : Nat) : Bool :=
  decide ((s.port p).state = .up) && decide ((s.port p).sill = .up) && (s.port p).enable && !(s.port p).halted

/-- A stack in service. -/
def State.stackReady (s : State) (h : Nat) : Bool :=
  decide ((s.hbm h).state = .ready) || decide ((s.hbm h).state = .selfref)

/-- The memory station of a field is up (R3). -/
def State.msUp (s : State) (k : Nat) : Bool := s.stUp (8 + k)

/-- Stacks of memory station k that a layout uses: all three when its STKSEL field is 0b11, else the one named (R199). -/
def layoutStacks (stksel : Byte) (k : Nat) : List Nat :=
  let c := bits stksel.toNat (2 * k + 1) (2 * k)
  if c == 3 then [3 * k, 3 * k + 1, 3 * k + 2] else [3 * k + c]

/-- The layout is bolted and uses only stations and stacks in service (R545). -/
def State.layoutServed (s : State) : Bool :=
  s.hash.bolt && (List.range 4).all fun k =>
    !s.hash.msmask.getLsbD k || (s.msUp k && (layoutStacks s.hash.stksel k).all s.stackReady)

/-! ### The capacity descriptor (R437, R545) -/

/-- Bits of a mask from a test on 0 to n-1. -/
def maskOf (n : Nat) (p : Nat → Bool) : Nat := ((List.range n).map fun i => if p i then 2 ^ i else 0).sum

/-- A receive group counts as in service when its entry is LOCKED and the lane group it takes reads ACTIVE (R437, log entry 10). -/
def State.rxServed (s : State) (st g : Nat) : Bool :=
  let r := s.rxg st g
  r.valid && decide (r.state = .locked) && decide ((s.txg r.wst r.wlg).state = .active)

/-- A transmit group counts as in service when it reads ACTIVE (R437). -/
def State.txServed (s : State) (st g : Nat) : Bool := decide ((s.txg st g).state = .active)

/-- Cluster q of die d has a bond link UP in each direction: links 0 to 11 transmit and 12 to 35 receive, half of each for each cluster (R545, log entry 11). -/
def State.clusterLinked (s : State) (d q : Nat) : Bool :=
  ((List.range 6).any fun i => decide ((s.bond d (6 * q + i)).state = .up)) &&
  ((List.range 12).any fun i => decide ((s.bond d (12 + 12 * q + i)).state = .up))

/-- FLOOR (R437, R545, R546); without the management floor it reads 0b01 as well, 0b00 being reserved (log entry 10). -/
def State.floor (s : State) : Nat :=
  let mgmt := ((s.stUp 12 && s.fieldUp 0) || (s.stUp 13 && s.fieldUp 3)) && s.portUp 0
  let compute := mgmt
    && ((List.range 8).any fun d => s.dieUp d && s.fieldUp (d / 2) && (s.clusterLinked d 0 || s.clusterLinked d 1))
    && ((List.range 4).any fun k => s.msUp k && (List.range 3).any fun i => s.stackReady (3 * k + i))
    && s.layoutServed
  let every := (List.range 64).all s.coreUp && (List.range 8).all s.dieUp && (List.range 12).all s.stackReady
    && (List.range 4).all s.fieldUp && (List.range nSt).all s.stUp
    && (List.range 16).all fun p => s.portUp p || !(s.port p).enable
  if every then 3 else if compute then 2 else 1

/-- Part 0 to 14 of the capacity descriptor as a number of 120 bits (R437). -/
def State.capPart (s : State) (part : Nat) : Nat :=
  if part == 0 then
    maskOf 64 (fun c => s.coreUp c && !s.coreCut c) * 2 ^ 56 + maskOf 8 s.dieUp * 2 ^ 48
    + maskOf 8 (fun d => s.dieUp d && !(s.kd d).halted) * 2 ^ 40
    + maskOf 12 s.stackReady * 2 ^ 28 + maskOf 4 s.fieldUp * 2 ^ 24
    + maskOf 16 (fun p => decide ((s.port p).state = .up)) * 2 ^ 8
    + maskOf 2 (fun x => s.stUp (12 + x)) * 2 ^ 6 + s.floor * 2 ^ 4
    + ((List.range 10).filter fun f => decide ((s.feed f).state = .dark)).length
  else if part ≤ 8 then
    let d := part - 1
    maskOf 12 (fun i => decide ((s.bond d i).state = .up)) * 2 ^ 108
    + maskOf 24 (fun i => decide ((s.bond d (12 + i)).state = .up)) * 2 ^ 84
    + maskOf 24 (s.txServed d) * 2 ^ 60 + maskOf 48 (s.rxServed d) * 2 ^ 12
    + ((List.range 64).filter fun i => (s.kd d).fenced.getLsbD i).length * 2 ^ 5
    + (s.kd d).addr * 2 + b2n (!s.dieUp d)
  else if part ≤ 12 then
    let k := part - 9
    maskOf 48 (s.txServed (8 + k)) * 2 ^ 72 + maskOf 24 (s.rxServed (8 + k)) * 2 ^ 48
    + maskOf 3 (fun i => s.stackReady (3 * k + i)) * 2 ^ 45 + b2n (s.ms k).shareUp * 2 ^ 44
  else
    let x := part - 13
    maskOf 16 (s.txServed (12 + x)) * 2 ^ 104 + maskOf 16 (s.rxServed (12 + x)) * 2 ^ 88

/-- The part that describes a station's lane groups. -/
def stPart (st : Nat) : Nat := if st < 8 then st + 1 else if st < 12 then st + 1 else st + 1

/-! ### Notices (R458 to R466) -/

/-- Sources that are conditions: their level is their cause (R458, R459, R518, R587, R604). -/
def isCond (src : Nat) : Bool :=
  if src < 256 then src % 4 < 2
  else if src < 288 then false
  else if src < 344 then (src - 288) % 4 < 2
  else if src < 360 then (src - 344) % 4 == 1
  else if src < 424 then (src - 360) % 4 < 3
  else if src < 474 then (src - 424) % 5 < 3
  else if src < 478 then false
  else if src < 482 then true
  else src == 485 || src == 489 || src == 491 || (492 ≤ src && src ≤ 503) || src == 505 || src == 508 || src == 509
    || src == 511

/-- A source that R458 and its sequels name. -/
def isSource (src : Nat) : Bool :=
  decide (src < 344) || (decide (344 ≤ src) && decide (src < 360) && decide ((src - 344) % 4 < 2))
    || (decide (360 ≤ src) && decide (src < 512))

/-- A record waits for room in its ring (R430). -/
def State.ringFull (s : State) : Bool :=
  s.bridge.waiting.any fun r =>
    let c := s.cring r.ring
    decide (2 ^ c.log2 ≤ (c.pi + 2 ^ 17 - c.ci) % 2 ^ 17)

/-- Any unit halted on parity (R448, R459). -/
def State.anyHalt (s : State) : Bool :=
  (s.fab.st.any fun e => e.2.halted) || (s.mem.kd.any fun e => e.2.halted)
    || (s.ports.port.any fun e => e.2.halted) || (s.cores.any fun e => e.2.halted)

/-- Level of a condition source: its cause as it stands (R459, R518, R587, R604). -/
def State.cause (s : State) (src : Nat) : Bool :=
  if src < 256 then
    let c := src / 4
    if src % 4 == 0 then (List.range 16).any fun x => decide ((s.ctx c x).state = .fault)
    else (List.range 16).any fun x => decide ((s.ctx c x).state = .paused)
  else if src < 344 then
    let st := (src - 288) / 4
    if src % 4 == 0 then (List.range (numTx st)).any fun g => decide ((s.txg st g).state = .fault)
    else (List.range (numRx st)).any fun g => decide ((s.rxg st g).state = .fault)
  else if src < 360 then
    let k := (src - 344) / 4
    (List.range 3).any fun i => decide ((s.hbm (3 * k + i)).state = .failed)
  else if src < 424 then
    let q := s.port ((src - 360) / 4)
    if src % 4 == 0 then q.enable && decide (q.state ≠ .up)
    else if src % 4 == 1 then q.gen2Fail
    else !q.failed.isEmpty
  else if src < 474 then
    let f := s.feed ((src - 424) / 5)
    let j := (src - 424) % 5
    if j == 0 then decide (f.state = .watch) else if j == 1 then decide (f.state = .act)
    else decide (f.state = .hard) || decide (f.state = .dark)
  else if src < 482 then
    let k := s.field (src - 478)
    k.cold && decide (k.state = .warmup)
  else if src == 485 then decide (s.time.sync = .free) && decide (s.time.role = .member)
  else if src == 489 then s.ringFull
  else if src == 491 then s.anyHalt
  else if src < 500 then
    decide (1 ≤ (s.therm (.cd (src - 492))).level) || decide (1 ≤ (s.therm (.kd (src - 492))).level)
  else if src < 504 then
    decide (1 ≤ (s.therm (.field (src - 500))).level)
      || (List.range 3).any fun i => (s.hbm (3 * (src - 500) + i)).throttled
  else if src == 505 then s.power.regions.any fun e => e.2.pllLost || e.2.jitterOver
  else if src == 508 then s.warden.missing != 0 || s.warden.wfail != 0
  else if src == 509 then decide (2 ^ 25 - s.warden.nextFree < 2 ^ 20)
  else s.test.en && !s.test.bolt

/-- ACTIVE of a source. -/
def State.ntActive (s : State) (src : Nat) : Bool := s.notices.active.getLsbD src

/-- PEND of a source: latched, or a condition that holds while ACTIVE is 0 (R460). -/
def State.ntPend (s : State) (src : Nat) : Bool :=
  s.notices.pend.getLsbD src || (isCond src && s.cause src && !s.ntActive src)

/-- Level of a source's wire to the Warden (R462). -/
def State.wire (s : State) (src : Nat) : Bool :=
  isSource src && if isCond src then s.cause src else s.notices.pend.getLsbD src || s.ntActive src

/-- One bit of the sources' words set or cleared. -/
def setBit512 (v : BitVec 512) (i : Nat) (b : Bool) : BitVec 512 :=
  if b then v ||| (1#512 <<< i) else v &&& ~~~(1#512 <<< i)

/-- Latch PEND of a source, with the Field Time when it was not pending (R417). -/
def State.latchPend (s : State) (src : Nat) : State :=
  { s with notices := { s.notices with
      pend := setBit512 s.notices.pend src true
      pendFt := if s.notices.pend.getLsbD src then s.notices.pendFt else tset s.notices.pendFt 0 src s.now } }

/-! ### The log (R561 to R563) -/

/-- Field Time ticks in one second (R327). -/
def ticksPerSecond : Nat := 800000000

/-- Append a log entry under the next number (R561). -/
def State.logAdd (s : State) (code sev unitNo : Nat) (data : List Byte) : State :=
  { s with warden := { s.warden with
      log := s.warden.log ++ [{ no := s.warden.logNext, code := code, ft := s.now, sev := sev, unitNo := unitNo, data := data }]
      logNext := s.warden.logNext + 1 } }

/-- Entries of a code in the present second (R563). -/
def State.logCount (s : State) (code : Nat) : Nat :=
  (s.warden.log.filter fun e =>
    e.code == code && e.ft.toNat / ticksPerSecond == s.now.toNat / ticksPerSecond).length

/-- Entries of a code that an earlier second dropped are counted in one entry (R563). -/
def State.logDropped (s : State) (code : Nat) : State :=
  let n := tget s.warden.perSecond 0 code
  if n = 0 ∨ s.logCount code ≠ 0 then s
  else
    let s1 := s.logAdd 0x00B0 1 0xFFFF (leBytes 2 code ++ leBytes 4 n)
    { s1 with warden := { s1.warden with perSecond := tdel s1.warden.perSecond code } }

/-- Write a log entry, or count it as dropped when the second already holds 1,000 of its code (R563). -/
def State.log (s : State) (code sev unitNo : Nat) (data : List Byte) : State :=
  let s1 := s.logDropped code
  if s1.logCount code < 1000 then s1.logAdd code sev unitNo data
  else { s1 with warden := { s1.warden with perSecond := tmod s1.warden.perSecond 0 code (· + 1) } }

/-- The Warden logs the rise of a notice wire; which register's value it logs is open (R462, R562, log entry 8). -/
def State.logRise (s : State) (src : Nat) : State :=
  (s.log 0x0010 (Config.noticeSev src % 4) src (leBytes 4 s.freeVal)).draw

/-- An event of an event source occurs (R459, R460, R462). -/
def State.raise (s : State) (src : Nat) : State :=
  let s1 := s.latchPend src
  if s.wire src then s1 else s1.logRise src

/-- After the cause of a condition source may have changed: PEND as R460 gives, and a rise is logged (R462). -/
def State.sense (s1 : State) (src : Nat) (s0 : State) : State :=
  let was := s0.cause src
  let now := s1.cause src
  let s2 := if (now && (!was || !s1.ntActive src)) || (was && !s0.ntActive src) then s1.latchPend src else s1
  if now && !was then s2.logRise src else s2

/-- After units may have left or entered service: CAP_CHANGE when a part of the descriptor changed (R438). -/
def State.capSense (s1 : State) (parts : List Nat) (s0 : State) : State :=
  if parts.any fun p => s0.capPart p != s1.capPart p then s1.raise ntCapChange else s1

/-! ### Dropped writes (R457) -/

/-- PATH code of a path. -/
def pathCode : Path → Nat
  | .command => 0 | .regacc => 1 | .coreStore => 2 | .warden => 3 | .smbus => 4 | .unitLate => 5

/-- PATH of a write that a command makes, by how the command came (R435, R457). -/
def viaPath : Via → Path
  | .p0 => .command | .relayed => .command | .regacc => .regacc | .smbus => .smbus

/-- ERR_LAST records a dropped write. -/
def State.dropWrite (s : State) (p : Path) (addr : Nat) (st : Status) : State :=
  { s with bridge := { s.bridge with
      errValid := true, errPath := pathCode p, errStatus := st, errCount := inc 16 s.bridge.errCount
      errAddr := BitVec.ofNat 32 addr } }

/-- A register write ends: a status other than DONE is a drop, which ERR_LAST records (R446, R457). -/
def State.wrote (r : State × Status) (p : Path) (addr : Nat) : State :=
  if r.2 = .done then r.1 else r.1.dropWrite p addr r.2

/-- The first posted write of a slow unit is no longer held (R453). -/
def State.unpost (s : State) (u : SlowUnit) : State :=
  { s with bridge := { s.bridge with posted := s.bridge.posted.eraseP fun e => decide (e.1 = u) } }

/-! ### Record areas of the store (R566, R571) -/

def areaBoot : Nat := 0
def areaCalibration : Nat := 1
def areaRepair : Nat := 2
def areaWidth : Nat := 3
def areaLaser : Nat := 4
def areaConfig : Nat := 5
def areaCounters : Nat := 6

/-- A change waits to be written to its area (R571). -/
def State.markArea (s : State) (a : Nat) : State := s.modArea a fun x => { x with dirty := true }

/-! ### Completion records (R428 to R431) -/

/-- The device's own ID as a record and a packet carry it: 0 until PORT_SELF VALID (R148, R428). -/
def State.selfId (s : State) : Nat := if s.plat.valid then s.plat.id else 0

/-- Bytes of a record, with its phase (R428). -/
def Record.bytes (r : Record) (phase : Bool) : List Byte :=
  [BitVec.ofNat 8 r.opcode, BitVec.ofNat 8 (r.hopper % 64 + 64 * r.kind)] ++ leBytes 2 r.tag.toNat
    ++ [BitVec.ofNat 8 r.status.code] ++ leBytes 3 r.src ++ leBytes 8 r.ft.toNat
    ++ sliceB r.result 0 15 ++ [if phase then 0x80 else 0]

/-- Queue a record in the host bridge; RING_FULL is a level of its own (R430). -/
def State.queueRecord (s : State) (r : Record) : State :=
  { s with bridge := { s.bridge with waiting := s.bridge.waiting ++ [r] } }

/-- Places of the host bridge in use by records that are not kept ones (R431). -/
def State.sharedWaiting (s : State) : Nat := (s.bridge.waiting.filter fun r => !r.kept).length

/-- A shared place is free (R431). -/
def State.placeFree (s : State) : Bool := decide (s.sharedWaiting < 3072)

/-- A ring has room for one more record than wait for it already (R430). -/
def State.ringRoom (s : State) (r : Nat) : Bool :=
  let c := s.cring r
  decide ((c.pi + 2 ^ 17 - c.ci) % 2 ^ 17 < 2 ^ c.log2)

/-- The record of a command (R428). -/
def State.cmdRecord (s : State) (o : Origin) (opcode : Nat) (st : Status) (res : List Byte) : Record :=
  { ring := (s.hopper o.hopper).ring, opcode := opcode, hopper := if o.mbox then 0 else o.hopper, kind := 0,
    tag := o.tag, status := st, src := s.selfId, ft := s.now, result := res, kept := false }

/-- A hopper whose running command has completed takes up the next (R419, R420). -/
def State.freeHopper (s : State) (o : Origin) : State :=
  if (s.hopper o.hopper).running = some o then
    s.modHopper o.hopper fun h =>
      { h with running := none, cleared := false, next := if h.cleared then h.next else h.next + 1 }
  else s

/-- A command completes: its record goes to its ring, or into the mailbox, and its hopper is free (R420, R429, R435). -/
def State.complete (s : State) (o : Origin) (opcode : Nat) (st : Status) (res : List Byte) : State :=
  let r := s.cmdRecord o opcode st res
  if o.mbox then
    { s with bridge := { s.bridge with mboxState := 2, mboxResult := r.bytes true } }
  else
    let s1 := if o.quiet && st == .done then s else (s.queueRecord r).sense ntRingFull s
    s1.freeHopper o

/-- An action of a sow entry has ended with a status (R351, R428). -/
def State.sowResult (s : State) (tableKey : Nat) (sowid : BitVec 16) (idx : Nat) (st : Status) : State :=
  { s with sows := { s.sows with runs := s.sows.runs.map fun r =>
      if r.table == tableKey && r.sowid == sowid then
        { r with
          running := r.running - 1
          ran := r.ran + 1
          doneCount := if st == .done then r.doneCount + 1 else r.doneCount
          first := if st == .done then r.first
            else match r.first with
              | none => some (idx, st)
              | some (i, st') => if idx < i then some (idx, st) else some (i, st') }
      else r } }

/-- A change ends: its command completes, or its sow entry's action does (R52, R57). -/
def State.answer (s : State) (a : Asker) (opcode : Nat) (st : Status) : State :=
  match a with
  | .host o => s.complete o opcode st []
  | .sow k id idx => s.sowResult k id idx st

/-- The Warden takes up a proxy command that waited for it (R423). -/
def State.takeProxy (s : State) (o : Origin) : State :=
  { s with bridge := { s.bridge with proxies := s.bridge.proxies.filter fun e => e.1 ≠ o } }

/-- The life-cycle state refuses a proxy command (R582). -/
def State.lifeRefuses (s : State) (opcode : Nat) : Bool :=
  let l := s.warden.lifecycle
  if l = 0 then opcode == 0xE4 || opcode == 0xE2 || opcode == 0xE3 || opcode == 0xEB
  else if l = 1 ∨ l = 3 then opcode == 0xEB
  else if l = 4 then !(opcode == 0xE0 || opcode == 0xE1 || opcode == 0xE5)
  else false

/-- A proxy command: the Warden takes it up while it serves and signs nothing, turns away a reserved code, and refuses what its life-cycle state does not allow (R422, R423, R556, R557, R582). -/
def proxy (o : Origin) (opcode : Nat) (reserved : Bool) (s : State) (f : State → State) : Host.Outcome State Fault Refusal :=
  act (s.warden.serving && s.warden.attest.isNone) s fun s =>
    if reserved then (s.takeProxy o).complete o opcode .badField []
    else if s.lifeRefuses opcode then (s.takeProxy o).complete o opcode .wrongState []
    else f (s.takeProxy o)

/-- A self-test run holds a unit: TARGET and INDEX (R590, R592). -/
def State.bistHolds (s : State) (target index : Nat) : Bool :=
  s.test.runs.any fun r => r.p.target == target && r.p.index == index

/-- A command that its checks turn away changes nothing and completes with the first status that holds; one that they pass has its effect and its result (R422). -/
def State.command (s : State) (o : Origin) (opcode : Nat) (checks : List (Bool × Status))
    (eff : State → State × List Byte) : State :=
  match firstFail checks with
  | some st => s.complete o opcode st []
  | none => (eff s).1.complete o opcode .done (eff s).2

/-- As State.command, for a command that runs on after it is accepted: it completes at a later row. -/
def State.commandLong (s : State) (o : Origin) (opcode : Nat) (checks : List (Bool × Status))
    (eff : State → State) : State :=
  match firstFail checks with
  | some st => s.complete o opcode st []
  | none => eff s

end Sys2Proof.Machine
end

