-- ==== Sys2Proof/Machine/Wire.lean ====
section
/-! DEFINITION. The forms in which things travel: grains and their control word, link records, packets with header and
extension, and the 8 B words of a packet stream. -/

namespace Sys2Proof.Machine

open Sys2Proof

/-! ### Packets (R155 to R160) -/

/-- Fields of a packet header (R155). -/
structure Hdr where
  dest : Nat
  laddr : Nat
  op : Nat
  vc : Nat
  hc : Nat
  dmp : Bool
  len : Nat
  issuer : Nat
  pseq : Nat
  xt : Bool
  poison : Bool
  retry : Bool
  mcr : Bool
  sys : Bool
  status : Nat
  deriving DecidableEq, Repr

/-- The header that the bits spell (R155). -/
def hdrOf (h : BitVec 128) : Hdr :=
  let n := h.toNat
  { dest := bits n 127 108, laddr := bits n 107 64, op := bits n 63 56, vc := bits n 55 53, hc := bits n 52 51
    dmp := bit n 50, len := bits n 49 37, issuer := bits n 36 27, pseq := bits n 26 13, xt := bit n 12
    poison := bit n 11, retry := bit n 10, mcr := bit n 9, sys := bit n 8, status := bits n 7 0 }

/-- The bits of a header (R155). -/
def Hdr.enc (h : Hdr) : BitVec 128 :=
  BitVec.ofNat 128 <|
    (h.dest % 2 ^ 20) * 2 ^ 108 + (h.laddr % 2 ^ 44) * 2 ^ 64 + (h.op % 256) * 2 ^ 56 + (h.vc % 8) * 2 ^ 53
    + (h.hc % 4) * 2 ^ 51 + b2n h.dmp * 2 ^ 50 + (h.len % 2 ^ 13) * 2 ^ 37 + (h.issuer % 1024) * 2 ^ 27
    + (h.pseq % 2 ^ 14) * 2 ^ 13 + b2n h.xt * 2 ^ 12 + b2n h.poison * 2 ^ 11 + b2n h.retry * 2 ^ 10
    + b2n h.mcr * 2 ^ 9 + b2n h.sys * 2 ^ 8 + h.status % 256

/-- A packet's header fields. -/
def hdr (p : Packet) : Hdr := hdrOf p.hdr

/-- A packet with its header changed. -/
def withHdr (p : Packet) (f : Hdr → Hdr) : Packet := { p with hdr := (f (hdr p)).enc }

/-- Fields of the extension (R158). -/
structure Ext where
  src : Nat
  epoch : Nat
  sidx : Nat
  gmask : Nat
  deriving DecidableEq, Repr

/-- The extension that the bits spell (R158). -/
def extOf (x : BitVec 128) : Ext :=
  { src := bits x.toNat 127 108, epoch := bits x.toNat 107 92, sidx := bits x.toNat 91 86, gmask := bits x.toNat 63 0 }

/-- The bits of an extension (R158). -/
def Ext.enc (x : Ext) : BitVec 128 :=
  BitVec.ofNat 128 <|
    (x.src % 2 ^ 20) * 2 ^ 108 + (x.epoch % 2 ^ 16) * 2 ^ 92 + (x.sidx % 64) * 2 ^ 86 + x.gmask % 2 ^ 64

/-- Bytes of payload padded to a multiple of 8. -/
def padded (len : Nat) : Nat := (len + 7) / 8 * 8

/-- Bytes a packet occupies (R155). -/
def pktBytes (p : Packet) : Nat := 16 + (if (hdr p).xt then 16 else 0) + padded (hdr p).len

/-- Credits a packet needs at a reader (R167). -/
def pktCredits (p : Packet) : Nat := (pktBytes p + 63) / 64

/-- The class of an opcode by its channel; none for a reserved opcode (R160). -/
def opVc (op : Nat) : Option Nat :=
  if 0x01 ≤ op ∧ op ≤ 0x3F then some 0
  else if 0x70 ≤ op ∧ op ≤ 0x7F then some 1
  else if 0x40 ≤ op ∧ op ≤ 0x5F then some 2
  else if 0x60 ≤ op ∧ op ≤ 0x67 then some 3
  else if 0x80 ≤ op ∧ op ≤ 0x8F then some 4
  else if 0x90 ≤ op ∧ op ≤ 0x9F then some 5
  else none

/-- A multicast opcode (R160). -/
def isMcOp (op : Nat) : Bool := decide (0x60 ≤ op) && decide (op ≤ 0x67)

/-- An opcode that R224, R406 or R417 names; the others of a class range are reserved (R224). -/
def namedOp (op : Nat) : Bool :=
  op == 0x01 || op == 0x10 || (decide (0x20 ≤ op) && decide (op ≤ 0x3A))
    || (decide (0x40 ≤ op) && decide (op ≤ 0x57) && decide (op % 8 ≤ 4)) || (decide (0x58 ≤ op) && decide (op ≤ 0x5A))
    || op == 0x60 || (decide (0x70 ≤ op) && decide (op ≤ 0x73)) || (decide (0x80 ≤ op) && decide (op ≤ 0x84))
    || (decide (0x88 ≤ op) && decide (op ≤ 0x8D)) || op == 0x90 || op == 0x91

/-- A field of the packet is reserved or contradicts another (R163). -/
def malformed (p : Packet) : Bool :=
  let h := hdr p
  !namedOp h.op || opVc h.op != some h.vc || h.hc == 3 || decide (4096 < h.len) || (h.dmp && !isMcOp h.op) || (!h.dmp && isMcOp h.op)
    || (h.dmp && h.status == 0)

/-! ### The stream of 8 B words (R32, R33) -/

/-- The 8 bytes of a word, its most significant first: bit 127 of a header is sent first (R155). -/
def wordBytes (w : W64) : List Byte := (leBytes 8 w.toNat).reverse

/-- The word of 8 bytes. -/
def bytesWord (l : List Byte) : W64 := BitVec.ofNat 64 (leNat (l.reverse))

/-- The words of a list of bytes, the last filled with zeros. -/
def chunkWords : Nat → List Byte → List W64
  | 0, _ => []
  | n + 1, l => bytesWord (sliceB l 0 8) :: chunkWords n (l.drop 8)

/-- The words of a packet in the order sent (R33, R155). -/
def pktWords (p : Packet) : List StreamWord :=
  let hi := BitVec.ofNat 64 (p.hdr.toNat / 2 ^ 64)
  let lo := BitVec.ofNat 64 p.hdr.toNat
  let ext := if (hdr p).xt then [BitVec.ofNat 64 (p.ext.toNat / 2 ^ 64), BitVec.ofNat 64 p.ext.toNat] else []
  let body := chunkWords ((hdr p).len / 8 + if (hdr p).len % 8 == 0 then 0 else 1) p.data
  { w := hi, hdr := true } :: (lo :: (ext ++ body)).map fun w => { w := w, hdr := false }

/-- Number of words of the packet whose header two words begin. -/
def wordsOf (hi lo : W64) : Nat :=
  let h := hdrOf (BitVec.ofNat 128 (hi.toNat * 2 ^ 64 + lo.toNat))
  2 + (if h.xt then 2 else 0) + padded h.len / 8

/-- The first whole packet of a stream and the words after it. A word of zeros where a header may begin is the fill of a grain, unless a packet is marked to begin there or the word after it carries an opcode, which no packet has as 0 (R32, R160; log entry 20). -/
def takePacket : List StreamWord → Option (Packet × List StreamWord)
  | [] => none
  | a :: r =>
    match r with
    | [] => none
    | b :: _ =>
      if a.w = 0 ∧ !a.hdr ∧ (b.w = 0 ∨ b.hdr) then takePacket r
      else
        let n := wordsOf a.w b.w
        let all := a :: r
        if n ≤ all.length then
          let h : BitVec 128 := BitVec.ofNat 128 (a.w.toNat * 2 ^ 64 + b.w.toNat)
          let x := if (hdrOf h).xt then
            BitVec.ofNat 128 (((all.getD 2 a).w.toNat) * 2 ^ 64 + (all.getD 3 a).w.toNat) else 0
          let body := (all.take n).drop (if (hdrOf h).xt then 4 else 2)
          some ({ hdr := h, ext := x, data := (body.flatMap fun w => wordBytes w.w).take (hdrOf h).len }, all.drop n)
        else none

/-! ### Grains (R32) -/

def gSeq (g : Grain) : BitVec 12 := BitVec.ofNat 12 (bits g.ctl.toNat 63 52)
def gType (g : Grain) : Nat := bits g.ctl.toNat 51 50
def gStart (g : Grain) : Nat := bits g.ctl.toNat 49 46
def gRpl (g : Grain) : Bool := bit g.ctl.toNat 45
def gLast (g : Grain) : Bool := bit g.ctl.toNat 44
def gWst (g : Grain) : Nat := bits g.ctl.toNat 43 40
def gWlg (g : Grain) : Nat := bits g.ctl.toNat 39 34
def gCrc (g : Grain) : W32 := BitVec.ofNat 32 (bits g.ctl.toNat 31 0)

/-- The CRC-32 of a grain: bytes 0 to 119 and bits 63:32 of the control word, its bytes as R225 orders them (R32). -/
def grainCrc (payload : List Byte) (ctlHi : Nat) : W32 := crc32 (payload ++ leBytes 4 ctlHi)

/-- A grain's CRC holds, and its TYPE is not the reserved one (R32). -/
def grainOk (g : Grain) : Bool :=
  gCrc g = grainCrc g.payload (g.ctl.toNat / 2 ^ 32) && gType g != 3

/-- A grain of the fields given, with its CRC (R32). -/
def mkGrain (payload : List Byte) (seq : BitVec 12) (type start : Nat) (rpl last : Bool) (wst wlg : Nat) : Grain :=
  let hi := seq.toNat * 2 ^ 20 + (type % 4) * 2 ^ 18 + (start % 16) * 2 ^ 14 + b2n rpl * 2 ^ 13 + b2n last * 2 ^ 12
    + (wst % 16) * 2 ^ 8 + (wlg % 64) * 2 ^ 2
  { payload := payload, ctl := BitVec.ofNat 64 (hi * 2 ^ 32 + (grainCrc payload hi).toNat) }

/-- A grain sent again: RPL set and the CRC to match (R38). -/
def asReplay (g : Grain) : Grain :=
  mkGrain g.payload (gSeq g) (gType g) (gStart g) true (gLast g) (gWst g) (gWlg g)

/-- A grain with a bad CRC (R603). -/
def spoilCrc (g : Grain) : Grain := { g with ctl := g.ctl ^^^ 1 }

/-- A LINK grain of up to fifteen records, each with its bytes as R225 orders them; the GSEQ of a grain that is not sequenced is left open (R32, R37; log entry 74). -/
def linkGrain (seq : BitVec 12) (st g : Nat) (recs : List W64) : Grain :=
  mkGrain (sliceB (recs.flatMap fun r => leBytes 8 r.toNat) 0 120) seq 2 15 false false st g

/-- The records of a LINK grain (R37). -/
def grainRecords (g : Grain) : List W64 :=
  (List.range 15).map fun i => BitVec.ofNat 64 (fieldB g.payload (8 * i) 8)

/-- Words of a grain's payload from word i on, the first header marked (R32). -/
def grainWords (g : Grain) (i : Nat) : List StreamWord :=
  (List.range (15 - i)).map fun k =>
    { w := bytesWord (sliceB g.payload (8 * (i + k)) 8), hdr := i + k == gStart g }

/-! ### Link records (R37, R169) -/

/-- An acknowledgement (kind 1) or NAK (kind 2) record (R37). -/
def ackRecord (kind grp : Nat) (seq : BitVec 12) : W64 :=
  BitVec.ofNat 64 (kind * 2 ^ 62 + (grp % 64) * 2 ^ 56 + seq.toNat * 2 ^ 44)

/-- A credit record (R169). -/
def creditRecord (vc : Nat) (total : BitVec 16) : W64 :=
  BitVec.ofNat 64 (3 * 2 ^ 62 + (vc % 8) * 2 ^ 59 + total.toNat * 2 ^ 43)

def recKind (r : W64) : Nat := bits r.toNat 63 62
def recGroup (r : W64) : Nat := bits r.toNat 61 56
def recSeq (r : W64) : BitVec 12 := BitVec.ofNat 12 (bits r.toNat 55 44)
def recVc (r : W64) : Nat := bits r.toNat 61 59
def recTotal (r : W64) : BitVec 16 := BitVec.ofNat 16 (bits r.toNat 58 43)

end Sys2Proof.Machine
end

