-- ==== Sys2Proof/Machine/Fabric.lean ====
section
/-! DEFINITION. The base fabric (02): reader sets and steering, grains with their acknowledgement and replay, a lane
group leaving and re-entering service, and changes of a reception map. -/

namespace Sys2Proof.Machine

open Sys2Proof

/-! ### Reader sets (R44, R45, R48, R62) -/

/-- Map entries that name transmit group g of station st: station and receive group (R45, R62). -/
def State.entriesOf (s : State) (st g : Nat) : List (Nat × Nat) :=
  if g ≤ 12 then [(standingPeer st g, standingIndex (standingPeer st g) st)]
  else (List.range nSt).flatMap fun r =>
    (List.range (numRx r)).filterMap fun j =>
      if 13 ≤ j && r != st && (s.rxg r j).valid && (s.rxg r j).wst == st && (s.rxg r j).wlg == g then some (r, j)
      else none

/-- Entries whose station is in service and not halted and whose own parity is good (R44, R448). -/
def State.liveEntries (s : State) (st g : Nat) : List (Nat × Nat) :=
  (s.entriesOf st g).filter fun e => s.stUp e.1 && !(s.sta e.1).halted && !(s.rxg e.1 e.2).badParity

/-- The reader set of a group: its live entries, but for those that have left it by lock loss and are not yet back (R44, R122, R130). -/
def State.readerSet (s : State) (st g : Nat) : List (Nat × Nat) :=
  (s.liveEntries st g).filter fun e => decide ((s.rxg e.1 e.2).state ≠ .fault) && !(s.rxg e.1 e.2).rejoin

/-- Stations that read the group now: those of its reader set whose entry is LOCKED (R48, R122). -/
def State.readers (s : State) (st g : Nat) : List Nat :=
  ((s.readerSet st g).filter fun e => decide ((s.rxg e.1 e.2).state = .locked)).map (·.1)

/-- READERS: the size of a sown group's reader set; a standing group has its one reader, unless that station has left service (R44, R61). -/
def State.readerCount (s : State) (st g : Nat) : Nat :=
  if 13 ≤ g then (s.readerSet st g).length
  else if s.resets.phase = .ready ∧ (s.readerSet st g).isEmpty then 0 else 1

/-- Lanes that work (R35, R90). -/
def TxGroup.lanes (t : TxGroup) : Nat := ((List.range 8).filter fun i => !(t.bad ||| t.dark).getLsbD i).length

/-- A group on which packets can be placed: ACTIVE with ENABLE 1, or draining in the first window of its hinge (R48, R56, R90). -/
def TxGroup.serves (t : TxGroup) : Bool :=
  t.enable && !t.loopback && (decide (t.state = .active) || (t.hinged && t.window && decide (t.state = .draining)))

/-- The group among some with the lowest score. -/
def lowest (score : Nat → Nat) (l : List Nat) : Option Nat :=
  l.foldl (fun b g => match b with
    | none => some g
    | some h => if score g < score h then some g else some h) none

/-- Best group of a station that covers the readers: one whose reader set equals them first, then the shortest queue, counted in packets that have not begun to leave, then the lowest number (R48; what a queue's length counts and the last are log entry 22); alone, one that only those readers read (R177). -/
def State.steer (s : State) (st : Nat) (readers : List Nat) (alone : Bool) (ok : TxGroup → Bool) : Option Nat :=
  lowest (fun g => (if (s.readers st g).all readers.contains then 0 else 2 ^ 30) + (s.txg st g).queue.length * 64 + g)
    ((List.range (numTx st)).filter fun g =>
      (s.txg st g).serves && ok (s.txg st g) && readers.all (s.readers st g).contains
        && (!alone || (s.readers st g).all readers.contains))

/-- Put a packet at the end of a group's queue. -/
def State.enqueue (s : State) (st g : Nat) (q : QPacket) : State :=
  s.modTx st g fun t => { t with queue := t.queue ++ [q] }

/-- Stations of a mask. -/
def maskStations (m : Byte) : List Nat := (List.range 8).filter fun i => m.getLsbD i

/-- Mask of some stations. -/
def stationsMask (l : List Nat) : Byte := l.foldl (fun m i => m ||| (1#8 <<< i)) 0

/-- A copy of a packet for some of its readers: a multicast's STMASK names exactly those (R59, R177). -/
def QPacket.copyFor (q : QPacket) (l : List Nat) : QPacket :=
  { q with
    readers := l
    pkt := if q.readers.length ≤ 1 then q.pkt else withHdr q.pkt fun h => { h with status := (stationsMask l).toNat } }

/-- Groups whose reader set lies within some readers, one after the other, each with the readers it takes: most readers first, then the shortest queue, then the lowest number; with the readers that are left (R59; the order is log entry 23). -/
def State.cover (s : State) (st : Nat) (ok : TxGroup → Bool) : Nat → List Nat → List (Nat × List Nat) × List Nat
  | 0, l => ([], l)
  | n + 1, l =>
    match lowest (fun g => (14 - (s.readers st g).length) * 2 ^ 40 + (s.txg st g).queue.length * 64 + g)
        ((List.range (numTx st)).filter fun g => (s.txg st g).serves && ok (s.txg st g)
          && !(s.readers st g).isEmpty && (s.readers st g).all l.contains) with
    | none => ([], l)
    | some g =>
      let x := s.cover st ok n (l.filter fun r => !(s.readers st g).contains r)
      ((g, s.readers st g) :: x.1, x.2)

/-- An endpoint that is this device (R147, R148). -/
def State.isSelf (s : State) (ep : Nat) : Bool := ep == 0 || (s.plat.valid && ep == s.plat.id)

/-- A multicast that is leaving the device: it goes as a unicast to its exchange station, on the standing group or on a group that has no other reader (R177). -/
def State.mcLeaving (s : State) (p : Packet) : Bool := (hdr p).dmp && !s.isSelf (hdr p).dest

/-- The groups on which a packet goes, each with its copy: one that covers its readers, else several whose reader sets lie within them; what no group in service takes waits on the reader's standing group (R48, R59; log entry 23). -/
def State.spread (s : State) (st : Nat) (q : QPacket) (ok : TxGroup → Bool) : List (Nat × QPacket) :=
  match s.steer st q.readers (s.mcLeaving q.pkt) ok with
  | some g => [(g, q)]
  | none =>
    let x := s.cover st ok q.readers.length q.readers
    x.1.map (fun e => (e.1, q.copyFor e.2))
      ++ (x.2.filter (· != st)).map fun r => (standingIndex st r, q.copyFor [r])

/-- Put copies on their groups. -/
def State.enqueueAll (s : State) (st : Nat) (l : List (Nat × QPacket)) : State :=
  each l (fun x s => s.enqueue st x.1 x.2) s

/-- Place a packet on the groups that steering gives, with a copy on substitutes of what goes on a group whose hinge window is open (R48, R59, R90, R91). -/
def State.place (s : State) (st : Nat) (q : QPacket) : State :=
  let l := s.spread st q fun _ => true
  each (l.filter fun x => (s.txg st x.1).window) (fun x s => s.enqueueAll st (s.spread st x.2 fun t => !t.window))
    (s.enqueueAll st l)

/-! ### Packets of a group that are not finished (R42, R165) -/

/-- Every packet a group holds: unacknowledged, under way or queued, each once. -/
def TxGroup.packets (t : TxGroup) : List QPacket :=
  (t.replay.flatMap SentGrain.pkts ++ t.current.toList ++ t.queue).dedup

/-- A packet still has bytes in a group: it is unfinished (R165). -/
def State.inFlight (s : State) (st : Nat) : List QPacket :=
  (List.range (numTx st)).flatMap fun g => (s.txg st g).packets

/-! ### LINK grains (R36, R37) -/

/-- The group by which a LINK grain travels: the first in service of the sender's that the receiver reads, the standing group before the sown ones (R36). -/
def State.linkGroup (s : State) (st dst : Nat) : Option Nat :=
  (List.range (numTx st)).find? fun g => decide ((s.txg st g).state = .active) && (s.readers st g).contains dst

/-- A LINK grain can go from one station to the other. -/
def State.linkPath (s : State) (st dst : Nat) : Bool := s.stUp st && (s.linkGroup st dst).isSome

/-- A LINK grain with records for a station leaves; with no group in service to that station nothing does (R36, R37; log entry 74). -/
def State.sendLink (s : State) (st dst : Nat) (recs : List W64) : State :=
  match s.linkGroup st dst with
  | none => s
  | some g => s.draw.emit (.grain st g (linkGrain (BitVec.ofNat 12 s.freeVal) st g recs))

/-! ### A lane group's states (R35, R42, R43, R53) -/

/-- Set a group's STATE; LG_FAULT and CAP_CHANGE follow it (R438, R459). -/
def State.setTxState (s : State) (st g : Nat) (x : LgState) : State :=
  let s1 := s.modTx st g fun t => { t with state := x }
  ((s1.sense (ntLgFault st) s).capSense [stPart st] s)

/-- Set a map entry's STATE; RMAP_FAULT and CAP_CHANGE follow it. -/
def State.setRxState (s : State) (st rg : Nat) (x : RxState) : State :=
  let s1 := s.modRx st rg fun r => { r with state := x }
  ((s1.sense (ntRmapFault st) s).capSense [stPart st] s)

/-- A group empty of packets and grains. -/
def TxGroup.clear (t : TxGroup) : TxGroup :=
  { t with replay := [], acked := [], queue := [], words := [], current := none, timeouts := 0 }

/-- A group leaves service: STATE FAULT, LG_FAULT, and its packets go on other groups to the same readers (R42). A hinged group raises no LG_FAULT: in step 2 it lets go of packets that substitutes hold, and once back in step 5 it is out again until step 6 (R90, R92, R97). -/
def State.leaveService (s : State) (st g : Nat) : State :=
  let t := s.txg st g
  if t.hinged ∧ t.state = .draining then s.modTx st g TxGroup.clear
  else
    let s1 := (s.modTx st g fun t => { t.clear with
      waking := false, window := false, lateFault := t.lateFault || t.hinged }).setTxState st g (if t.hinged then .off else .fault)
    each t.packets (fun q s => s.place st q) s1

/-- A feed passes light to its buses, as far as its state tells. -/
def Feed.lit (f : Feed) : Bool :=
  decide (f.state = .normal) || decide (f.state = .watch) || decide (f.state = .act) || decide (f.state = .hinge)

/-- The hinge of a feed is in step 2, 3 or 4: standing lanes that take its light stay narrowed away, and an entry that takes it locks and fails only after that (R90, R101). -/
def Feed.relocking (f : Feed) : Bool := decide (f.state = .hinge) && decide (2 ≤ f.step) && decide (f.step ≤ 4)

/-- A lane can have light: its feed is lit and not about to relock. -/
def State.laneLit (s : State) (st g l : Nat) : Bool :=
  (s.feed (busFeed st (laneBus st g l))).lit && !(s.feed (busFeed st (laneBus st g l))).relocking

/-- The group's rings have nothing left to reacquire (R43): no ring of a lane that works is LOST, acquiring or BAD; a lane without light is not waited for (R35, R98). -/
def State.ringsSettled (s : State) (st g : Nat) : Bool :=
  let t := s.txg st g
  let okRing (r : Ring) : Bool := decide (r.state = .locked) || decide (r.state = .parked)
  (List.range 8).all fun l => t.bad.getLsbD l || (t.dark.getLsbD l && !s.laneLit st g l) ||
    (okRing (s.ringAt { st := st, kind := .modulator, grp := g, lane := l }) &&
      (s.entriesOf st g).all fun e => decide ((s.rxg e.1 e.2).state ≠ .locked) ||
        okRing (s.ringAt { st := e.1, kind := .selector, grp := e.2, lane := l }))

/-- The group's links are calibrated (R43): none that is in its reader set, or about to rejoin it, is due or under calibration. -/
def State.linksCalibrated (s : State) (st g : Nat) : Bool :=
  (s.liveEntries st g).all fun e => decide ((s.rxg e.1 e.2).state ≠ .locked)
    || ((s.rxg e.1 e.2).calDue.isEmpty && !(s.rxg e.1 e.2).calBusy)

/-! ### Rings (R110, R112 to R115, R143) -/

/-- A heater trim code as its 12 bits hold it (R110). -/
def clampHeater (i : Int) : Nat := (max 0 (min 4095 i)).toNat

/-- A bias trim as its 8 bits hold it (R110). -/
def clampBias (b : Int) : Int := max (-128) (min 127 b)

/-- Temperature at a ring's site, from the sensors of its region (R113, R118). -/
def State.siteTemp (s : State) (r : RingId) : Nat :=
  Config.siteTemp (ringKey r) ((ringSensors r).map fun i => tget s.power.sensors 0 i)

/-- An entry of a ring's heater bias table: the refined one, or the factory's (R143, R144). -/
def State.bandEntry (s : State) (r : RingId) (band : Nat) : BandEntry :=
  let f := Config.factoryEntry (ringKey r) band
  tget s.warden.tables { code := f.1, slope := f.2.1, bias := f.2.2 } (4 * ringKey r + band)

/-- Temperature band of a ring's field (R143, R516). -/
def State.ringBand (s : State) (r : RingId) : Nat := (s.therm (.field (stField r.st))).band

/-- The heater code that the table and the sensors give a ring for its target channel (R119, R143). -/
def State.feedForward (s : State) (r : RingId) : Int :=
  let e := s.bandEntry r (s.ringBand r)
  e.code + e.slope * ((s.siteTemp r : Int) - Config.bandRef (s.ringBand r)) / 2

/-- The heater code of a ring now: full heat in warm-up; by feed-forward while it is PARKED, midway between two channels, or acquires; of a LOCKED ring, what its loop has set with the feed-forward slope for the temperature since (R110, R112, R115, R118, R119, R123, R143; log entry 75). -/
def State.heaterOf (s : State) (r : RingId) : Nat :=
  let q := s.ringAt r
  if (s.field (stField r.st)).state = .warmup then 4095
  else match q.state with
    | .parked => clampHeater (s.feedForward r + Config.parkOffset (ringKey r))
    | .acquire => clampHeater (s.feedForward r)
    | .lost => clampHeater (s.feedForward r)
    | .locked => clampHeater (q.heater + (s.bandEntry r (s.ringBand r)).slope * ((s.siteTemp r : Int) - q.site) / 2)
    | .bad => q.heater

/-- The bias trim of a ring now: the table's default until it is locked (R143). -/
def State.biasOf (s : State) (r : RingId) : Int :=
  let q := s.ringAt r
  if q.state = .parked ∨ q.state = .acquire ∨ q.state = .lost then clampBias (s.bandEntry r (s.ringBand r)).bias else q.bias

/-- The heater code that a ring has now becomes the one its loop goes on from (R143). -/
def State.rebase (s : State) (r : RingId) : State :=
  s.modRing r fun q => if q.state = .locked then { q with heater := s.heaterOf r, site := s.siteTemp r } else q

/-- A ring locks: it keeps the heater code of its acquisition, and the bias trim that its search found, which nothing gives (R115, R119; log entry 75). -/
def State.lockRing (s : State) (r : RingId) : State :=
  s.draw.modRing r fun q =>
    { q with state := .locked, overCnt := 0, heater := s.heaterOf r, site := s.siteTemp r
             bias := ((s.freeVal % 256 : Nat) : Int) - 128 }

/-- Set the state of some rings. -/
def State.setRings (s : State) (l : List RingId) (x : RingState) : State :=
  each l (fun r s => if x = .locked then s.lockRing r else s.modRing r fun q => { q with state := x, overCnt := 0 }) s

/-- Rings as at reset (R132). -/
def State.resetRings (s : State) (l : List RingId) : State := each l (fun r s => s.modRing r fun _ => Ring.reset) s

/-- Selector rings of a receive group. -/
def rxRings (st rg : Nat) : List RingId := (List.range 8).map fun l => { st := st, kind := .selector, grp := rg, lane := l }

/-- Modulator rings of a transmit group. -/
def txRings (st g : Nat) : List RingId := (List.range 8).map fun l => { st := st, kind := .modulator, grp := g, lane := l }

/-- Loopback rings of a station (R599). -/
def loopRings (st : Nat) : List RingId := (List.range 8).map fun l => { st := st, kind := .loopback, grp := 0, lane := l }

/-- GSEQ starts at 0 on both sides, nothing is held (R43). -/
def State.restartSeq (s : State) (st g : Nat) : State :=
  each (s.entriesOf st g) (fun e s => s.modRx e.1 e.2 fun r => { r with expect := 0, unacked := false, words := [] })
    (s.modTx st g fun t => { t.clear with gseq := 0 })

/-- A group in or after a fault enters service by its ENABLE (R43). -/
def State.returnGroup (s : State) (st g : Nat) : State :=
  let q := (s.txg st g).queue
  let s1 := (s.restartSeq st g).setTxState st g (if (s.txg st g).enable then .active else .off)
  s1.modTx st g fun t => { t with queue := q, lateFault := false }

/-- Grains that every reader has acknowledged leave the replay buffer; with no reader nothing is waited for (R40, R44). -/
def TxGroup.free (t : TxGroup) (readers : List Nat) : TxGroup :=
  let n := (readers.map fun r => tget t.acked 0 r).foldl min t.replay.length
  { t with
    replay := t.replay.drop n
    acked := (t.acked.map fun e => (e.1, e.2 - n)).filter fun e => decide (e.2 ≠ 0) }

/-- The writers' waits after a station or an entry left the reader sets (R44, R122). -/
def State.settleAcks (s : State) (st g : Nat) : State := s.modTx st g fun t => t.free (s.readers st g)

/-! ### Grains sent (R33, R38, R40, R41) -/

/-- A perturbation takes one in 2^rate, which one is open (R603, log entry 24). -/
def State.oneIn (s : State) (rate : Nat) : Bool := s.test.en && rate != 0 && s.freeVal % 2 ^ rate == 0

/-- RATE of TEST_ACKDROP for a receive group, 0 when it names another (R603). -/
def State.ackDropRate (s : State) (st rg : Nat) : Nat :=
  let w := (tget s.test.ackDrop 0 st).toNat
  if bits w 31 26 == rg then bits w 25 21 else 0

/-- RATE of TEST_LANEERR for a transmit group (R603). -/
def State.laneErrRate (s : State) (st g : Nat) : Nat :=
  let w := (tget s.test.laneErr 0 st).toNat
  if bits w 31 26 == g then bits w 25 21 else 0

/-- Place in the replay buffer of the grain with a GSEQ. -/
def replayIndex (l : List SentGrain) (q : BitVec 12) : Option Nat := l.findIdx? fun g => gSeq g.grain = q

/-- A writer takes an acknowledgement of a reader (R40). -/
def State.takeAck (s : State) (st rd : Nat) (rec : W64) : State :=
  let g := recGroup rec
  let t := s.txg st g
  match replayIndex t.replay (recSeq rec) with
  | none => s
  | some i =>
    if tget t.acked 0 rd < i + 1 then
      s.modTx st g fun t => TxGroup.free { t with acked := tset t.acked 0 rd (i + 1), timeouts := 0 } (s.readers st g)
    else s

/-- ACK_RECEIVE (R40). -/
def execAckReceive (st rd : Nat) (rec : W64) (s : State) : Host.Outcome State Fault Refusal :=
  act (s.stUp st && isTx st (recGroup rec) && recKind rec == 1 && (s.readers st (recGroup rec)).contains rd) s
    fun s => s.takeAck st rd rec

/-- Send the grains of the replay buffer from place i on, with RPL set (R38, R63). -/
def State.replayFrom (s : State) (st g i : Nat) : State :=
  let l := (s.txg st g).replay.drop i
  each l (fun x s => s.emit (.grain st g (asReplay x.grain)))
    (s.modTx st g fun t => { t with rplcnt := sat 32 (t.rplcnt + l.length) })

/-- A writer takes a NAK of a reader (R38). -/
def State.takeNak (s : State) (st : Nat) (rec : W64) : State :=
  match replayIndex (s.txg st (recGroup rec)).replay (recSeq rec) with
  | some i => s.replayFrom st (recGroup rec) i
  | none => s

/-- NAK_RECEIVE (R38). -/
def execNakReceive (st rd : Nat) (rec : W64) (s : State) : Host.Outcome State Fault Refusal :=
  act (s.stUp st && isTx st (recGroup rec) && recKind rec == 2 && (s.readers st (recGroup rec)).contains rd) s
    fun s => s.takeNak st rec

/-- A group that carries grains: ACTIVE or DRAINING. -/
def TxGroup.carries (t : TxGroup) : Bool := decide (t.state = .active) || decide (t.state = .draining)

/-- REPLAY_TIMEOUT: a replay from the oldest grain, and after four of them without progress the group leaves service (R41). -/
def execReplayTimeout (st g : Nat) (s : State) : Host.Outcome State Fault Refusal :=
  act (isTx st g && (s.txg st g).carries && !(s.txg st g).replay.isEmpty) s fun s =>
    if 4 ≤ (s.txg st g).timeouts then s.leaveService st g
    else (s.modTx st g fun t => { t with timeouts := t.timeouts + 1 }).replayFrom st g 0

/-- Words for one grain: what is left of the packet under way, then whole packets of the queue, at most n words; with the packets that any of them belong to, the packet under way after them and what is left of it. -/
def fillGrain : Nat → List StreamWord → Option QPacket → List QPacket → List StreamWord × List QPacket × List StreamWord ×
    Option QPacket × List QPacket
  | n, ws, cur, [] => (ws.take n, cur.toList, ws.drop n, if ws.length ≤ n then none else cur, [])
  | n, ws, cur, q :: r =>
    if n ≤ ws.length then (ws.take n, cur.toList, ws.drop n, if ws.length = n then none else cur, q :: r)
    else
      let x := fillGrain (n - ws.length) (pktWords q.pkt) (some q) r
      (ws ++ x.1, cur.toList ++ x.2.1, x.2.2.1, x.2.2.2.1, x.2.2.2.2)

/-- A DATA grain is made, kept and sent; the words after the last packet of the queue are zeros, and a grain that no reader is left to take is free at once (R33, R36, R44; log entry 20). -/
def State.sendData (s : State) (st g : Nat) : State :=
  let t := s.txg st g
  let x := fillGrain 15 t.words t.current t.queue
  let start := (x.1.findIdx? StreamWord.hdr).getD 15
  let payload := sliceB (x.1.flatMap fun w => wordBytes w.w) 0 120
  let last := decide (t.state = .draining) && x.2.2.1.isEmpty && x.2.2.2.2.isEmpty
  let gr := mkGrain payload t.gseq 0 start false last st g
  let rate := s.laneErrRate st g
  let s1 := s.modTx st g fun t => { t with
    gseq := t.gseq + 1
    replay := t.replay ++ [{ grain := gr, pkts := x.2.1 }]
    words := x.2.2.1
    current := x.2.2.2.1
    queue := x.2.2.2.2 }
  ((s1.when (rate != 0) State.draw).emit (.grain st g (if s.oneIn rate then spoilCrc gr else gr))).settleAcks st g

/-- The group has packets to send and room in its replay buffer (R33, R40). -/
def TxGroup.hasData (t : TxGroup) : Bool :=
  decide (t.replay.length < 512) && !(t.words.isEmpty && t.queue.isEmpty)

/-- GRAIN_SEND: a DATA grain when there is one to send, else an IDLE grain with the next GSEQ (R33, R40). -/
def execGrainSend (st g : Nat) (s : State) : Host.Outcome State Fault Refusal :=
  act (s.stUp st && isTx st g && (s.txg st g).carries) s fun s =>
    if (s.txg st g).hasData then s.sendData st g
    else s.emit (.grain st g (mkGrain (List.replicate 120 0) (s.txg st g).gseq 1 15 false false st g))

/-! ### Credit that a writer holds (R167 to R171, R187) -/

/-- 0 for a compute station, 1 for a memory station, 2 for an exchange station. -/
def stKind (s : Nat) : Nat := if isCS s then 0 else if isMS s then 1 else 2

/-- Default allocation of a channel, from the rows of R171 in its order. -/
def allocDefault (reader writer vc : Nat) : Nat :=
  let row : List Nat :=
    match stKind reader, stKind writer with
    | 0, 0 => [80, 256, 512, 1472, 16, 16]
    | 0, 1 => [80, 1536, 0, 0, 16, 16]
    | 0, _ => [128, 256, 128, 80, 16, 16]
    | 1, 0 => [1536, 0, 512, 0, 16, 16]
    | 1, 1 => [256, 256, 0, 0, 16, 16]
    | 1, _ => [1024, 256, 256, 0, 16, 16]
    | _, 0 => [256, 256, 128, 256, 16, 16]
    | _, 1 => [80, 512, 0, 0, 16, 16]
    | _, _ => [256, 256, 128, 128, 16, 16]
  row.getD vc 0

/-- Credit that a writer holds toward a reader (R187). -/
def State.held (s : State) (r w vc : Nat) : Nat := tget s.credit.held (allocDefault r w vc) (creditKey r w vc)

/-- Set the credit that a writer holds. -/
def State.setHeld (s : State) (r w vc n : Nat) : State :=
  { s with credit := { s.credit with held := tset s.credit.held (allocDefault r w vc) (creditKey r w vc) n } }

/-- A channel of two stations that exist (R187). -/
def validPair (a b vc : Nat) : Bool := decide (a < nSt) && decide (b < nSt) && a != b && decide (vc < 6)

/-- A writer takes a credit record of a reader: it adds what the total has grown by (R170). -/
def State.takeCredit (s : State) (st rd : Nat) (rec : W64) : State :=
  let vc := recVc rec
  let k := creditKey rd st vc
  let seen := tget s.credit.seen 0 k
  let s1 := s.setHeld rd st vc (s.held rd st vc + (recTotal rec - seen).toNat)
  { s1 with credit := { s1.credit with seen := tset s1.credit.seen 0 k (recTotal rec) } }

/-- What a writer does with a record of a LINK grain from a station: an acknowledgement or a NAK of a reader of its group, or credit; an empty record says nothing (R37, R38, R40, R170). -/
def State.takeRecord (s : State) (st rd : Nat) (rec : W64) : State :=
  if recKind rec = 3 then (if validPair rd st (recVc rec) then s.takeCredit st rd rec else s)
  else if isTx st (recGroup rec) && (s.readers st (recGroup rec)).contains rd then
    (if recKind rec = 1 then s.takeAck st rd rec else if recKind rec = 2 then s.takeNak st rec else s)
  else s

/-! ### Grains received (R34, R36 to R39) -/

/-- The reader asks for its expected grain again (R38). With no group in service from the reader to the writer the NAK is lost, for the spec names no other path for it; the writer's own replay makes up for it (R41; log entry 74). -/
def State.sendNak (s : State) (st rg : Nat) : State :=
  let r := s.rxg st rg
  if s.linkPath st r.wst then s.sendLink st r.wst [ackRecord 2 r.wlg r.expect] else s

/-- What a reader appends to its stream: with no packet under way, words before the first header are skipped (R32, R33). -/
def RxGroup.keep (r : RxGroup) (g : Grain) : RxGroup :=
  { r with
    expect := r.expect + 1
    unacked := true
    words := if r.words = [] then (if gStart g = 15 then [] else grainWords g (gStart g))
      else r.words ++ grainWords g 0 }

/-- A grain taken from a receive group: a DATA grain that is the next one is kept, and a LINK grain gives its records (R34, R36 to R39). -/
def State.receiveGrain (s : State) (st rg : Nat) (g : Grain) : State :=
  let r := s.rxg st rg
  if gWst g != r.wst || gWlg g != r.wlg then
    (s.modRx st rg fun r => { r with misroute := inc 16 r.misroute }).raise (ntMisroute st)
  else if !grainOk g then
    let s1 := s.modRx st rg fun r => { r with crcErr := inc 16 r.crcErr }
    if gType g == 0 || gType g == 3 then s1.sendNak st rg else s1
  else if gType g = 2 then each (grainRecords g) (fun x s => s.takeRecord st r.wst x) s
  else if gType g != 0 then s
  else if gSeq g = r.expect then s.modRx st rg fun r => r.keep g
  else if (gSeq g - r.expect).toNat < 2048 then s.sendNak st rg
  else s.modRx st rg fun r => { r with unacked := true }

/-- GRAIN_RECEIVE: what a tuned entry of a station in service takes (R34). -/
def execGrainReceive (st rg : Nat) (g : Grain) (s : State) : Host.Outcome State Fault Refusal :=
  act (s.stUp st && isRx st rg && (s.rxg st rg).valid && decide ((s.rxg st rg).state = .locked)
    && !(s.rxg st rg).badParity) s fun s => s.receiveGrain st rg g

/-- The acknowledgement of a receive group: the highest GSEQ up to which it holds every grain (R36). -/
def State.sendAck (s : State) (st rg : Nat) : State :=
  let r := s.rxg st rg
  let s1 := s.modRx st rg fun r => { r with unacked := false }
  let s2 := s1.when (s.ackDropRate st rg != 0) State.draw
  if s.oneIn (s.ackDropRate st rg) then s2 else s2.sendLink st r.wst [ackRecord 1 r.wlg (r.expect - 1)]

/-- ACK_SEND (R36). -/
def execAckSend (st rg : Nat) (s : State) : Host.Outcome State Fault Refusal :=
  act (s.stUp st && isRx st rg && (s.rxg st rg).unacked && s.linkPath st (s.rxg st rg).wst) s
    fun s => s.sendAck st rg

/-! ### Leaving service and coming back (R35, R42, R43) -/

/-- A group that leaves service was not out of it already; one ASLEEP leaves it too, so that it does not wake on lanes it has lost (R35, R42, R121, R500). -/
def TxGroup.inService (t : TxGroup) : Bool := t.carries || decide (t.state = .retrain) || decide (t.state = .asleep)

/-- GROUP_LEAVE_SERVICE (R42). -/
def execGroupLeaveService (st g : Nat) (s : State) : Host.Outcome State Fault Refusal :=
  act (isTx st g && (s.txg st g).inService) s fun s => s.leaveService st g

/-- A lane is marked bad: the group retrains on the lanes left, or leaves service with fewer than four (R35). -/
def State.markLane (s : State) (st g lane : Nat) : State :=
  let s1 := s.modTx st g fun t => { t with bad := t.bad ||| (1#8 <<< lane) }
  if !(s.txg st g).inService then s1
  else if (s1.txg st g).lanes < 4 then s1.leaveService st g
  else if (s.txg st g).state = .asleep then s1
  else s1.setTxState st g .retrain

/-- LANE_MARKED_BAD (R35). -/
def execLaneMarkedBad (st g lane : Nat) (s : State) : Host.Outcome State Fault Refusal :=
  act (isTx st g && decide (lane < 8) && !(s.txg st g).bad.getLsbD lane) s fun s => s.markLane st g lane

/-- A marked lane returns to service: the group retrains again and widens (R35). -/
def State.clearLane (s : State) (st g lane : Nat) : State :=
  if (s.txg st g).bad.getLsbD lane then
    let s1 := s.modTx st g fun t => { t with bad := t.bad &&& ~~~(1#8 <<< lane) }
    if (s.txg st g).carries then s1.setTxState st g .retrain else s1
  else s

/-- GROUP_RETRAIN_END: the group runs on its lanes, or drains on when its ENABLE went to 0 (R35). -/
def execGroupRetrainEnd (st g : Nat) (s : State) : Host.Outcome State Fault Refusal :=
  act (isTx st g && decide ((s.txg st g).state = .retrain)) s fun s =>
    s.setTxState st g (if (s.txg st g).enable then .active else .draining)

/-- A group out of service by a fault: in FAULT, or OFF under a hinge that has left it out (R43, R97). -/
def TxGroup.isOut (t : TxGroup) : Bool := decide (t.state = .fault) || (decide (t.state = .off) && t.lateFault)

/-- GROUP_FAULT_RECOVER: its rings have relocked and its links are calibrated (R43, R97, R130). -/
def execGroupFaultRecover (st g : Nat) (s : State) : Host.Outcome State Fault Refusal :=
  act (s.stUp st && isTx st g && (s.txg st g).isOut && decide (4 ≤ (s.txg st g).lanes)
    && s.ringsSettled st g && s.linksCalibrated st g) s fun s => s.returnGroup st g

/-! ### Changing a reception map (R50 to R57) -/

/-- A group is drained (R53). -/
def State.drained (s : State) (st g : Nat) : Bool :=
  decide ((s.txg st g).state = .drained) || decide ((s.txg st g).state = .off)

/-- ENABLE of a group goes to 0: it drains (R52, R53). -/
def State.disable (s : State) (st g : Nat) : State :=
  let s1 := s.modTx st g fun t => { t with enable := false }
  if (s.txg st g).state = .active then s1.setTxState st g .draining
  else if (s.txg st g).state = .asleep then s1.setTxState st g .drained
  else s1

/-- ENABLE of a group goes to 1: a drained group enters service, unless fewer than four of its lanes work; of a hinged group it waits for step 6 (R35, R43, R56, R92). -/
def State.enable (s : State) (st g : Nat) : State :=
  let s1 := s.modTx st g fun t => { t with enable := true }
  if (s.txg st g).hinged then s.modTx st g fun t => { t with held := some true }
  else if s.drained st g && !(s.txg st g).loopback then
    (if (s1.txg st g).lanes < 4 then s1.leaveService st g else s1.setTxState st g .active)
  else s1

/-- The present writer group of an entry; a DARK entry has none (R50). -/
def RxGroup.present (r : RxGroup) : Option (Nat × Nat) :=
  if r.valid && decide (r.state ≠ .dark) then some (r.wst, r.wlg) else none

/-- The writer groups that a change concerns: the entry's present one and, with VALID 1, the new one (R51, R52). -/
def State.changeGroups (s : State) (p : RmapParams) : List (Nat × Nat) :=
  (s.rxg p.reader p.rgroup).present.toList ++ if p.valid then [(p.wst, p.wlg)] else []

/-- The checks of RMAP_SET: R51 in its order, then steps 5 and 6 of R422. -/
def rmapChecks (p : RmapParams) (s : State) : List (Bool × Status) :=
  let e := s.rxg p.reader p.rgroup
  [ (decide (nSt ≤ p.reader) || (p.valid && decide (nSt ≤ p.wst)), .outOfRange),
    (!isSownRx p.reader p.rgroup || (p.valid && !isSownTx p.wst p.wlg), .outOfRange),
    (p.valid && p.wst == p.reader, .badField),
    (e.change.isSome || decide (e.state = .tuning), .busy),
    ((s.changeGroups p).any fun w => (s.txg w.1 w.2).loopback, .busy),
    (p.valid && decide (8 ≤ ((s.entriesOf p.wst p.wlg).filter fun x => x != (p.reader, p.rgroup)).length), .outOfRange),
    (!p.drain && (s.changeGroups p).any fun w => !s.drained w.1 w.2, .wrongState),
    ((s.sta p.reader).rmapBolt, .bolted),
    (!s.stUp p.reader, .wrongState),
    ((s.sta p.reader).halted, .parity) ]

/-- Drop share of a reader: its group's reader count and its place decide it, and seven readers read 0b110 (R54; log entry 7). -/
def shareOf (n pos : Nat) : Nat := if n == 7 then 6 else Config.dropShare n pos % 8

/-- Every reader of a sown group takes the share for the new reader set (R54). -/
def State.reshare (s : State) (st g : Nat) : State :=
  let l := s.readerSet st g
  if 13 ≤ g then each (l.zipIdx) (fun x s => s.modRx x.1.1 x.1.2 fun r => { r with share := shareOf l.length x.2 }) s
  else s

/-- The change of an entry starts: it begins to tune, or goes dark with VALID 0, and its command completes (R50, R52, R54, R56). -/
def State.startChange (s : State) (a : Asker) (p : RmapParams) : State :=
  let old := (s.rxg p.reader p.rgroup).present
  let s1 := s.modRx p.reader p.rgroup fun r =>
    if p.valid then
      { r with valid := true, wst := p.wst, wlg := p.wlg, state := .tuning, change := none, badParity := false,
               unacked := false, words := [], calBusy := false, rejoin := false }
    else
      { r with valid := false, wst := 0, wlg := 0, state := .dark, change := none, badParity := false, share := 0,
               unacked := false, words := [], calBusy := false, calDue := [], rejoin := false }
  let s2 := s1.when (p.valid && p.auto) fun s => s.modTx p.wst p.wlg fun t => { t with auto := true }
  let s3 := each old.toList (fun w s => s.reshare w.1 w.2) s2
  let s4 := s3.when p.valid fun s => s.reshare p.wst p.wlg
  let s4 := s4.setRings (rxRings p.reader p.rgroup) (if p.valid then .acquire else .parked)
  let s5 := (s4.sense (ntRmapFault p.reader) s).capSense [stPart p.reader] s
  s5.answer a 0x80 .done

/-- An accepted RMAP_SET: with DRAIN 0 the change starts at once, with DRAIN 1 its groups drain first (R52). -/
def State.acceptChange (s : State) (a : Asker) (p : RmapParams) : State :=
  if p.drain then
    (each (s.changeGroups p) (fun w s => s.disable w.1 w.2) s).modRx p.reader p.rgroup fun r =>
      { r with change := some { asker := a, p := p } }
  else s.startChange a p

/-- RMAP_SET from a command or from a sow entry (R50 to R57). -/
def State.rmapSet (s : State) (a : Asker) (p : RmapParams) : State :=
  match firstFail (rmapChecks p s) with
  | some st => s.answer a 0x80 st
  | none => s.acceptChange a p

/-- RMAP_SET (R51). -/
def execRmapSet (o : Origin) (p : RmapParams) (s : State) : Host.Outcome State Fault Refusal :=
  .next (s.rmapSet (.host o) p)

/-- RMAP_CHANGE_START: the groups of a waiting change are drained (R52). -/
def execRmapChangeStart (st rg : Nat) (s : State) : Host.Outcome State Fault Refusal :=
  match (s.rxg st rg).change with
  | none => .next s
  | some c => act (s.stUp st && (s.changeGroups c.p).all fun w => s.drained w.1 w.2) s
      fun s => s.startChange c.asker c.p

/-- A waiting change ends without taking place (R52). -/
def State.dropChange (s : State) (st rg : Nat) (status : Status) : State :=
  match (s.rxg st rg).change with
  | none => s
  | some c => (s.modRx st rg fun r => { r with change := none }).answer c.asker 0x80 status

/-- RMAP_DRAIN_TIMEOUT (R52). -/
def execRmapDrainTimeout (st rg : Nat) (s : State) : Host.Outcome State Fault Refusal :=
  match (s.rxg st rg).change with
  | none => .next s
  | some c => act ((s.changeGroups c.p).any fun w => !s.drained w.1 w.2) s fun s => s.dropChange st rg .timedOut

/-- GROUP_DRAINED: ENABLE is 0 and nothing the group sent is unacknowledged (R53). -/
def execGroupDrained (st g : Nat) (s : State) : Host.Outcome State Fault Refusal :=
  act (isTx st g && decide ((s.txg st g).state = .draining) && !(s.txg st g).enable && (s.txg st g).packets.isEmpty
    && (s.txg st g).replay.isEmpty) s fun s => s.setTxState st g .drained

/-- A reader joins a group's reader set: it expects the next grain and owes nothing for the earlier ones. -/
def State.joinReader (s : State) (st rg : Nat) : State :=
  let r := s.rxg st rg
  let n := (s.txg r.wst r.wlg).replay.length
  (s.modRx st rg fun r => { r with expect := (s.txg r.wst r.wlg).gseq, words := [], unacked := false, rejoin := false }).modTx r.wst r.wlg
    fun t => { t with acked := tset t.acked 0 st n }

/-- A hinge holds the entry: its writer's group lies on a feed that relocks (R101). -/
def State.entryHeld (s : State) (st rg : Nat) : Bool :=
  (s.feed (busFeed (s.rxg st rg).wst (laneBus (s.rxg st rg).wst (s.rxg st rg).wlg 0))).relocking

/-- A link comes due for calibration for one more cause (R133). -/
def RxGroup.due (r : RxGroup) (cause : Nat) (now : W64) : RxGroup :=
  if r.calDue.any fun e => e.1 == cause then r else { r with calDue := r.calDue ++ [(cause, now)] }

/-- ENTRY_LOCKED; the link is due for calibration for the first time, or after a map change (R55, R101, R133). -/
def execEntryLocked (st rg : Nat) (s : State) : Host.Outcome State Fault Refusal :=
  act (isRx st rg && decide ((s.rxg st rg).state = .tuning) && !s.entryHeld st rg) s fun s =>
    let s1 := ((s.joinReader st rg).setRings (rxRings st rg) .locked).setRxState st rg .locked
    s1.modRx st rg fun r => r.due (if r.calCount = 0 then 0 else 4) s.now

/-- AUTO_ENABLE: every reader of the group is LOCKED; with no reader left AUTO_ENABLE has no further effect (R56). -/
def execAutoEnable (st g : Nat) (s : State) : Host.Outcome State Fault Refusal :=
  act (isSownTx st g && (s.txg st g).auto) s fun s =>
    let off := s.modTx st g fun t => { t with auto := false }
    if (s.liveEntries st g).isEmpty then off
    else if (s.liveEntries st g).all fun e => decide ((s.rxg e.1 e.2).state = .locked) then off.enable st g
    else s

/-- The effect of a write to LG_TXCFG: ENABLE of a sown group, at once or at step 6 of its hinge (R61, R64, R92). -/
def State.txcfgWrite (s : State) (st g : Nat) (data : W32) : State × Status :=
  let t := s.txg st g
  let en := data.getLsbD 0
  if t.hinged then
    (if g ≤ 12 then s else s.modTx st g fun t => { t with held := some en }, .done)
  else if t.state = .draining ∨ t.state = .retrain ∨ t.state = .fault then (s, .wrongState)
  else if g ≤ 12 then (s, .done)
  else (if en then s.enable st g else s.disable st g, .done)

end Sys2Proof.Machine
end

