-- ==== Sys2Proof/Machine/Light.lean ====
section
/-! DEFINITION. Light supply (03): inputs and their set points, the light stages, fade levels, the hinge and the abrupt
path. -/

namespace Sys2Proof.Machine

open Sys2Proof

/-! ### Inputs, modules and groups of a feed -/

/-- Usable since its last commissioning or module replacement (R78). -/
def Feed.usable (f : Feed) (b : Bool) : Bool := if b then f.usableB else f.usableA

/-- Set whether an input is usable. -/
def Feed.setUsable (f : Feed) (b u : Bool) : Feed := if b then { f with usableB := u } else { f with usableA := u }

/-- Set-point record of a module output (R79). -/
def State.setPoint (s : State) (i : Nat) : Option Settle := tget s.light.setPoints none i

/-- Record set points of a module output; the store's area takes them within 1 s (R79, R571). -/
def State.recordSet (s : State) (i : Nat) (m : Option Settle) : State :=
  { s with light := { s.light with setPoints := tset s.light.setPoints none i m } }.markArea areaLaser

/-- An input is ready: module present with its link up, a record kept, and usable (R78, R79, R104). -/
def State.inputReady (s : State) (f : Nat) (b : Bool) : Bool :=
  let i := feedOutput f b
  (s.elsAt (i / 4)).present && (s.elsAt (i / 4)).linkOk && (s.setPoint i).isSome && (s.feed f).usable b

/-- The standby of a feed is ready (SPARE_OK, R105). -/
def State.spareOk (s : State) (f : Nat) : Bool := s.inputReady f (!(s.feed f).activeB)

/-- Light an output at the drive current and module temperature of its record, or darken it: LIT of its module, and what the Warden writes over the module's link (R90, R102, R107). -/
def State.setLit (s : State) (i : Nat) (on : Bool) : State :=
  let m := s.setPoint i
  s.modEls (i / 4) fun e => { e with
    lit := if on then e.lit ||| (1#4 <<< (i % 4)) else e.lit &&& ~~~(1#4 <<< (i % 4))
    drive := tset e.drive 0 (i % 4) (if on then (m.map Settle.drive).getD 0 else 0)
    tempSet := if on then (m.map Settle.temp).getD e.tempSet else e.tempSet }

/-- Sown transmit groups on the feed's buses, as station and group (R81, R82). -/
def feedSown (f : Nat) : List (Nat × Nat) :=
  (feedBuses f).flatMap fun b => (busSown b.1 b.2).map fun g => (b.1, g)

/-- Lanes of a transmit group that lie on a bus (R30, R82; log entry 21). -/
def busLanes (st bus g : Nat) : Byte := BitVec.ofNat 8 (maskOf 8 fun l => laneBus st g l == bus)

/-- Lanes of a transmit group that the feed lights (R30, R81; log entry 21). -/
def feedLanes (f st g : Nat) : Byte := BitVec.ofNat 8 (maskOf 8 fun l => busFeed st (laneBus st g l) == f)

/-- Standing groups with lanes on the feed's buses. -/
def feedStanding (f : Nat) : List (Nat × Nat) :=
  (List.range nSt).flatMap fun s => (List.range 13).filterMap fun g => if feedLanes f s g ≠ 0 then some (s, g) else none

/-- Set a feed's STATE with the levels that follow it, DARK among the capacity fields (R105, R437, R459). -/
def State.setFeedState (s : State) (f : Nat) (x : FeedState) : State :=
  let s1 := s.modFeed f fun d => { d with state := x }
  ((((s1.sense (ntFadeWatch f) s).sense (ntFadeAct f) s).sense (ntFeedHard f) s).capSense [0] s)

/-! ### Eyes and losses (R85, R88) -/

/-- Worst eye on each of the feed's buses that some calibrated link reports, with the link's writer group (R88, R106). -/
def State.feedEyes (s : State) (f : Nat) : List (Nat × Nat × Nat) :=
  (List.range nSt).flatMap fun r => (List.range (numRx r)).filterMap fun j =>
    let e := s.rxg r j
    if e.valid && e.calCount != 0 && busFeed e.wst (laneBus e.wst e.wlg e.eyeLane) == f then
      some (busKey e.wst (laneBus e.wst e.wlg e.eyeLane), e.eyeW, txKey e.wst e.wlg) else none

/-- Buses of the feed with a lane at or below a threshold. -/
def State.lowEyeBuses (s : State) (f pct : Nat) : Nat :=
  (((s.feedEyes f).filter fun e => decide (e.2.1 ≤ pct)).map (·.1)).dedup.length

/-- The eye counts for the feed: low on at least three of its buses (R88). -/
def State.eyeLow (s : State) (f pct : Nat) : Bool := decide (3 ≤ s.lowEyeBuses f pct)

/-! ### Lanes without light (R35, R42, R85, R90, R98) -/

/-- Lanes of a group go dark: a group in service runs on narrowed, with a retraining but for a hinge, or leaves service with fewer than four lanes (R35, R42, R90). -/
def State.narrow (s : State) (st g : Nat) (lanes : Byte) (retrain : Bool) : State :=
  let t := s.txg st g
  let s1 := s.modTx st g fun t => { t with dark := t.dark ||| lanes }
  if t.dark ||| lanes = t.dark ∨ !t.inService then s1
  else if (s1.txg st g).lanes < 4 then s1.leaveService st g
  else if retrain && decide (t.state ≠ .asleep) then s1.setTxState st g .retrain
  else s1

/-- Lanes of a group are lit again: a group in service widens, with a retraining but for a hinge (R35, R90). -/
def State.widen (s : State) (st g : Nat) (lanes : Byte) (retrain : Bool) : State :=
  let t := s.txg st g
  let s1 := s.modTx st g fun t => { t with dark := t.dark &&& ~~~lanes }
  if retrain && t.carries && decide (t.dark &&& lanes ≠ 0) then s1.setTxState st g .retrain else s1

/-- A bus goes dark: its sown groups leave service, standing groups with lanes on it narrow or leave (R35, R42, R85, R98). -/
def State.darkenBus (s : State) (st bus : Nat) : State :=
  each (List.range (numTx st)) (fun g s => s.narrow st g (busLanes st bus g) true) s

/-- Both rings of a lane's links are LOCKED: the writer's, and that of every reader whose entry is LOCKED. -/
def State.laneLocked (s : State) (st g l : Nat) : Bool :=
  decide ((s.ringAt { st := st, kind := .modulator, grp := g, lane := l }).state = .locked) &&
    (s.entriesOf st g).all fun e => decide ((s.rxg e.1 e.2).state ≠ .locked) ||
      decide ((s.ringAt { st := e.1, kind := .selector, grp := e.2, lane := l }).state = .locked)

/-- A lane that was dark runs again once its feed is lit and its rings are LOCKED (R35, R43, R97). -/
def State.relightLane (s : State) (st g l : Nat) : State :=
  if s.laneLit st g l && s.laneLocked st g l then s.widen st g (1#8 <<< l) true else s

/-- A bus has light again. -/
def State.relightBus (s : State) (st bus : Nat) : State :=
  each (List.range (numTx st)) (fun g s => each ((List.range 8).filter fun l => laneBus st g l == bus) (fun l s =>
    s.relightLane st g l) s) s

/-! ### Locating a loss (R85, R86) -/

/-- Lanes that the feed lights and that a reader has tuned: reader, receive group, lane and the bus. -/
def State.feedReceivers (s : State) (f : Nat) : List (Nat × Nat × Nat × Nat × Nat) :=
  (List.range nSt).flatMap fun r => (List.range (numRx r)).flatMap fun j =>
    let e := s.rxg r j
    if e.valid && decide (e.state = .locked) then
      (List.range 8).filterMap fun l =>
        if busFeed e.wst (laneBus e.wst e.wlg l) == f then some (r, j, l, e.wst, laneBus e.wst e.wlg l) else none
    else []

/-- A receiver's last reading is low. -/
def State.receiverLow (s : State) (x : Nat × Nat × Nat × Nat × Nat) : Bool :=
  Config.isLow 3 ((tget s.light.photo 0 (rxKey x.1 x.2.1 * 8 + x.2.2.1) : Nat) : Int)

/-- Where a loss lies, by the table of R85 over the last readings: stage 0 module, 1 fibre or connector, 2 coupler or splitter, 3 bus, 4 selector ring, with the bus's station or the reader, and the bus; none where no row of the table fits. -/
def State.lossStage (s : State) (f : Nat) : Option (Nat × Nat × Nat) :=
  let modLow := Config.isLow 0 (tget s.light.elsPwr 0 (feedOutput f (s.feed f).activeB))
  let feedLow := Config.isLow 1 (tget s.light.feedTap 0 f)
  let buses := (feedBuses f).filter fun b => Config.isLow 2 (tget s.light.busTap 0 (busKey b.1 b.2))
  let all := s.feedReceivers f
  let low := all.filter s.receiverLow
  if decide (buses.length = (feedBuses f).length) && decide (low.length = all.length) then
    (if feedLow then some (if modLow then 0 else 1, 0, 0) else if modLow then none else some (2, 0, 0))
  else if feedLow || modLow then none
  else match buses with
    | [b] => if (all.filter fun x => x.2.2.2 == b).all s.receiverLow then some (3, b.1, b.2) else none
    | [] => match low with
      | x :: r => if r.all fun y => y.1 == x.1 then some (4, x.1, x.2.2.2.2) else none
      | [] => none
    | _ => none

/-- A loss for which the Warden starts a hinge: at a module, a fibre, a connector or a feed; of a comb that keeps its power and loses its eyes on three buses, no stage tells, and it is the module's (R86 to R88; log entry 83). -/
def State.hingeLoss (s : State) (f : Nat) : Bool :=
  match s.lossStage f with
  | some x => decide (x.1 ≤ 2)
  | none => s.eyeLow f 55

/-- When a reading shows a drop, or moves its place, the Warden logs where it lies; the lane groups of a bus that is lost leave service (R85, R562). -/
def State.seeLoss (s s0 : State) (f : Nat) : State :=
  if s.lossStage f = s0.lossStage f then s
  else match s.lossStage f with
    | none => s
    | some (stage, st, bus) =>
      let s1 := s.log 0x0020 1 0xFFFF [BitVec.ofNat 8 f, BitVec.ofNat 8 stage, BitVec.ofNat 8 st, BitVec.ofNat 8 bus]
      if stage = 3 then s1.darkenBus st bus else s1

/-! ### The rings of a feed's buses (R90, R97, R99) -/

/-- Lanes of a bus, by group and lane. -/
def laneList (st bus : Nat) : List (Nat × Nat) :=
  (List.range (numTx st)).flatMap fun g => ((List.range 8).filter fun l => laneBus st g l == bus).map fun l => (g, l)

/-- Rings that handle a lane's light: the writer's modulator, and the selectors of the readers whose entry is LOCKED. -/
def State.laneRings (s : State) (st g l : Nat) : List RingId :=
  { st := st, kind := .modulator, grp := g, lane := l } ::
    ((s.entriesOf st g).filter fun e => decide ((s.rxg e.1 e.2).state = .locked)).map fun e =>
      { st := e.1, kind := .selector, grp := e.2, lane := l }

/-- The rings of a feed's buses that are in one state. -/
def State.busRings (s : State) (buses : List (Nat × Nat)) (x : RingState) : List RingId :=
  (buses.flatMap fun b => (laneList b.1 b.2).flatMap fun y => s.laneRings b.1 y.1 y.2).filter fun r =>
    decide ((s.ringAt r).state = x)

/-- The comb of a feed changes: the LOCKED rings of its buses begin to acquire (R90). -/
def State.loseRings (s : State) (f : Nat) : State := s.setRings (s.busRings (feedBuses f) .locked) .acquire

/-- Buses of a feed whose rings have relocked. -/
def relocked (f : Nat) (unlocked : List Nat) : List (Nat × Nat) :=
  (feedBuses f).filter fun b => !unlocked.contains (busKey b.1 b.2)

/-- The rings of a feed's buses relock, but for those of some buses; the lanes are lit, and groups that have left service are due for calibration before they return (R43, R90, R97, R99). -/
def State.relockBuses (s : State) (f : Nat) (unlocked : List Nat) (retrain : Bool) : State :=
  let s1 := s.setRings (s.busRings (relocked f unlocked) .acquire) .locked
  each (relocked f unlocked) (fun b s => each (List.range (numTx b.1)) (fun g s =>
    let s2 := s.widen b.1 g (busLanes b.1 b.2 g) retrain
    if (s.txg b.1 g).isOut && decide (busLanes b.1 b.2 g ≠ 0) then
      each (s.entriesOf b.1 g) (fun e s => s.modRx e.1 e.2 fun r =>
        if r.valid && decide (r.state = .locked) then r.due 3 s.now else r) s2
    else s2) s) s1

/-! ### Hard fail and the abrupt path (R98 to R100) -/

/-- A sown group that a hinge held is no longer held: one that the hinge had taken out is in FAULT, and a held ENABLE takes effect (R92, R100). -/
def State.unhinge (s : State) (st g : Nat) : State :=
  let t := s.txg st g
  if !t.hinged then s
  else
    let s1 := s.modTx st g fun t => { t with hinged := false, window := false, held := none, lateFault := false
                                             enable := t.held.getD t.enable }
    if t.state = .off then s1.setTxState st g .fault else s1

/-- Lanes of the feed go dark: its sown groups leave service, standing groups narrow or leave (R35, R42, R98). -/
def State.darkenLanes (s : State) (f : Nat) : State :=
  each (feedBuses f) (fun b s => s.darkenBus b.1 b.2) (each (feedSown f) (fun x s => s.unhinge x.1 x.2) s)

/-- A HINGE_START that waits for the feed's hinge completes (R95). -/
def State.answerHinge (s : State) (f : Nat) (st : Status) : State :=
  match (s.feed f).asker with
  | none => s
  | some o => (s.modFeed f fun d => { d with asker := none }).complete o 0xE9 st []

/-- A feed enters DARK: the active input is the one that its coupler passes, and neither is usable before it is commissioned (R77, R100). -/
def State.feedDark (s : State) (f : Nat) : State :=
  let b := (s.feed f).couplerB
  let s1 := (s.setFeedState f .dark).modFeed f fun d =>
    { (d.setUsable b false).setUsable (!b) (d.usable (!b) && d.activeB == b) with activeB := b, step := 0, standbyLit := false }
  (s1.setLit (feedOutput f (!b)) false).answerHinge f .wrongState

/-- Step 3: the hinged groups leave service without replay, the coupler moves, and the rings begin to relock under step 4 (R90, R92). -/
def State.swingFeed (s : State) (f : Nat) : State :=
  let s1 := s.modFeed f fun d => { d with step := 4, couplerB := !d.activeB, lowRun := 0, trips := [] }
  (each ((feedSown f).filter fun x => (s.txg x.1 x.2).hinged) (fun x s =>
    (s.modTx x.1 x.2 fun t => { t.clear with window := false }).setTxState x.1 x.2 .off) s1).loseRings f

/-- A feed hard-fails. In step 2 of its hinge step 3 begins at once; else the lanes leave service and the standby warms, or the feed is dark when there is none, or when the input that failed is the one it has just swung to (R87, R98, R100, R101). -/
def State.hardFail (s : State) (f : Nat) : State :=
  let d := s.feed f
  let s0 := s.modFeed f fun d => { d with hards := inc 8 d.hards, lowRun := 0 }
  if d.state = .hinge ∧ d.step = 2 then s0.swingFeed f
  else
    let s1 := (s0.darkenLanes f).setFeedState f .hard
    if (d.state = .hinge ∧ 3 ≤ d.step) ∨ !s.spareOk f then s1.feedDark f
    else ((s1.modFeed f fun d => { d with step := 0, standbyLit := s.warden.serving || d.standbyLit }).when s.warden.serving fun s =>
      s.setLit (feedOutput f (!d.activeB)) true).answerHinge f .wrongState

/-- The other input is the active one: roles swap, and the one left is no longer usable and goes dark (R77, R78). -/
def State.swapRoles (s : State) (f : Nat) : State :=
  let old := (s.feed f).activeB
  let ref := (s.setPoint (feedOutput f (!old))).map Settle.power
  let s1 := s.modFeed f fun d => { d.setUsable old false with
    activeB := !old, couplerB := !old, standbyLit := false, reference := ref.getD d.reference, lowRun := 0, tried := false }
  (s1.setLit (feedOutput f (!old)) true).setLit (feedOutput f old) false

/-- HARD_FAIL_RECOVER (R99). -/
def execHardFailRecover (f : Nat) (unlocked : List Nat) (s : State) : Host.Outcome State Fault Refusal :=
  act (decide ((s.feed f).state = .hard) && s.warden.serving) s fun s =>
    if s.spareOk f then (((s.swapRoles f).loseRings f).setFeedState f .normal).relockBuses f unlocked true else s.feedDark f

/-! ### The hinge (R90 to R97) -/

/-- Step 1: the standby output lights (R90). -/
def State.startHinge (s : State) (f : Nat) (asker : Option Origin) : State :=
  let st := (s.feed f).state
  ((s.setFeedState f .hinge).modFeed f fun d =>
    { d with before := st, step := 1, standbyLit := true, tried := true, asker := asker }).setLit
      (feedOutput f (!(s.feed f).activeB)) true

/-- Another feed's hinge is in steps 2 to 5 (R94, R95). -/
def State.otherHinge (s : State) (f : Nat) : Bool := (List.range 10).any fun i => i != f && decide (2 ≤ (s.feed i).step)

/-- HINGE_START. Whether a feed behind another's hinge could begin within 1 s is open, as the model holds no time; a standby with a record that its link or its last swing keeps from being ready is answered like one without (R95; log entry 84). -/
def execHingeStart (o : Origin) (f : Nat) (s : State) : Host.Outcome State Fault Refusal :=
  proxy o 0xE9 false s fun s => (s.when (s.otherHinge f) State.draw).commandLong o 0xE9
    [ (decide (10 ≤ f), .outOfRange),
      (decide ((s.feed f).state = .hinge) || (s.otherHinge f && s.freeVal % 2 == 1), .busy),
      (!s.spareOk f, .notPresent),
      (decide ((s.feed f).state = .hard) || decide ((s.feed f).state = .dark), .wrongState) ]
    fun s => s.startHinge f (some o)

/-- The sown groups that a hinge of the feed concerns: in service, on its buses (R90). -/
def State.hingedGroups (s : State) (f : Nat) : List (Nat × Nat) :=
  (feedSown f).filter fun x => (s.txg x.1 x.2).inService

/-- Step 2 at one group: it reports DRAINING, and its hinge window opens (R90, R92). -/
def State.hingeGroup (s : State) (st g : Nat) : State :=
  (s.modTx st g fun t => { t with hinged := true, window := true, waking := false }).setTxState st g .draining

/-- A hinged group's packets go on substitutes as well (R90, R93). -/
def State.copyGroup (s : State) (st g : Nat) : State :=
  each (s.txg st g).packets (fun q s => s.enqueueAll st (s.spread st q fun t => !t.window)) s

/-- Step 2: standing groups narrow, every hinged group drains, and then each one's packets go on substitutes as well (R90). -/
def State.drainFeed (s : State) (f : Nat) : State :=
  let groups := s.hingedGroups f
  let s1 := each (feedStanding f) (fun x s => s.narrow x.1 x.2 (feedLanes f x.1 x.2) false) (s.modFeed f fun d => { d with step := 2 })
  each groups (fun x s => s.copyGroup x.1 x.2) (each groups (fun x s => s.hingeGroup x.1 x.2) s1)

/-- HINGE_DRAIN: step 2, one feed at a time (R90, R94). -/
def execHingeDrain (f : Nat) (s : State) : Host.Outcome State Fault Refusal :=
  act (decide (f < 10) && decide ((s.feed f).state = .hinge) && (s.feed f).step == 1 && !s.otherHinge f) s fun s => s.drainFeed f

/-- Groups of the feed that its hinge holds. -/
def State.heldGroups (s : State) (f : Nat) : List (Nat × Nat) := (feedSown f).filter fun x => (s.txg x.1 x.2).hinged

/-- HINGE_SWING (R90). -/
def execHingeSwing (f : Nat) (s : State) : Host.Outcome State Fault Refusal :=
  act (decide (f < 10) && decide ((s.feed f).state = .hinge) && (s.feed f).step == 2) s fun s => s.swingFeed f

/-- Step 5 at one hinged group: it returns with GSEQ 0 by its ENABLE and its window opens, or stays out when its bus has not relocked or too few of its lanes work (R35, R90, R97). -/
def State.restoreGroup (s : State) (st g : Nat) (unlocked : List Nat) : State :=
  if unlocked.contains (busKey st (sownBus st g)) || decide ((s.txg st g).lanes < 4) then s.modTx st g fun t => { t with lateFault := true }
  else if (s.txg st g).enable then ((s.restartSeq st g).modTx st g fun t => { t with window := true }).setTxState st g .active
  else s.restartSeq st g

/-- HINGE_RESTORE: step 5; groups of buses that did not relock stay out (R90, R97). -/
def execHingeRestore (f : Nat) (unlocked : List Nat) (s : State) : Host.Outcome State Fault Refusal :=
  act (decide (f < 10) && decide ((s.feed f).state = .hinge) && (s.feed f).step == 4) s fun s =>
    each (s.heldGroups f) (fun x s => s.restoreGroup x.1 x.2 unlocked)
      ((s.modFeed f fun d => { d with step := 5 }).relockBuses f unlocked false)

/-- HINGE_WINDOW_CLOSE (R90). -/
def execHingeWindowClose (st g : Nat) (s : State) : Host.Outcome State Fault Refusal :=
  act ((s.txg st g).window && (decide ((s.txg st g).state = .active) || !(s.txg st g).hinged)) s fun s =>
    s.modTx st g fun t => { t with window := false }

/-- Step 6 at one group: the window is closed, a held ENABLE takes effect, and a group still out raises LG_FAULT (R90, R92, R97). -/
def State.releaseGroup (s : State) (st g : Nat) : State :=
  let t := s.txg st g
  let s1 := s.modTx st g fun t => { t with hinged := false, window := false, held := none, lateFault := false }
  let s2 := if t.lateFault && decide (t.state = .off) then s1.setTxState st g .fault else s1
  match t.held with
  | none => s2
  | some true => s2.enable st g
  | some false => s2.disable st g

/-- A hinge's end is logged: done or aborted, with the time that capacity was reduced, which the model does not measure (R562; log entry 26). -/
def State.logHinge (s : State) (f outcome : Nat) : State :=
  (s.log 0x0021 (if outcome = 0 then 0 else 2) 0xFFFF
    ([BitVec.ofNat 8 f, BitVec.ofNat 8 outcome, 0, 0] ++ leBytes 4 s.freeVal)).draw

/-- HINGE_RELEASE: step 6, which the Warden runs (R90, R101). -/
def execHingeRelease (f : Nat) (s : State) : Host.Outcome State Fault Refusal :=
  act (decide (f < 10) && decide ((s.feed f).state = .hinge) && (s.feed f).step == 5 && s.warden.serving) s fun s =>
    let s1 := each (s.heldGroups f) (fun x s => s.releaseGroup x.1 x.2) s
    let s2 := (s1.swapRoles f).modFeed f fun d => { d with step := 0, hinges := inc 8 d.hinges }
    (((s2.setFeedState f .normal).logHinge f 0).raise (ntHingeDone f)).answerHinge f .done

/-- The hinge is aborted in step 1 (R96). -/
def State.abortHinge (s : State) (f : Nat) (st : Status) : State :=
  let s1 := (s.modFeed f fun d => { d with step := 0, standbyLit := false }).setLit
    (feedOutput f (!(s.feed f).activeB)) false
  (((s1.setFeedState f (s.feed f).before).logHinge f 1).raise (ntHingeAbort f)).answerHinge f st

/-- HINGE_ABORT (R96). -/
def execHingeAbort (f : Nat) (s : State) : Host.Outcome State Fault Refusal :=
  act (decide (f < 10) && decide ((s.feed f).state = .hinge) && (s.feed f).step == 1) s fun s => s.abortHinge f .timedOut

/-! ### Readings (R84, R87, R89) -/

/-- The level a reading puts a feed in service on (R87, R89): Fade Act stays until a hinge or a commissioning. -/
def fadeLevel (was : FeedState) (avg : Int) (eye55 eye70 eye75 : Bool) : FeedState :=
  if was = .act || decide (avg ≤ -200) || eye55 then .act
  else if decide (avg ≤ -100) || eye70 then .watch
  else if was = .watch && (decide (avg ≤ -70) || eye75) then .watch
  else .normal

/-- A feed in service takes its level; in Fade Act the Warden starts a hinge unless HOLD is 1, for a loss that calls for one and onto a ready standby only, once until the feed leaves that level (R79, R86, R87; log entry 83). -/
def State.takeLevel (s : State) (f : Nat) (avg : Int) : State :=
  let d := s.feed f
  let lvl := fadeLevel d.state avg (s.eyeLow f 55) (s.eyeLow f 70) (s.eyeLow f 75)
  let s1 := if lvl = d.state then s else (s.setFeedState f lvl).modFeed f fun d =>
    { d with watches := if lvl = .watch then inc 16 d.watches else d.watches, tried := false }
  if lvl = .act && !d.hold && !(s1.feed f).tried && s.spareOk f && s.hingeLoss f then s1.startHinge f none else s1

/-- A feed that is OFF comes up with the first reading of its tap that finds its active input's module and record: the output lights, and the feed takes its level from NORMAL (R79, R105; log entry 85). -/
def State.feedUp (s : State) (f : Nat) (avg : Int) : State :=
  let i := feedOutput f (s.feed f).activeB
  if (s.elsAt (i / 4)).present && (s.elsAt (i / 4)).linkOk && (s.setPoint i).isSome then
    ((s.setLit i true).setFeedState f .normal).takeLevel f avg
  else s

/-- A tap's reading is kept, and low ones in a row are counted; the average, in 0.01 dB of the reference, is the Warden's (R84, R87). -/
def State.keepTap (s : State) (f : Nat) (sample avg : Int) : State :=
  let s1 : State := { s with light := { s.light with feedTap := tset s.light.feedTap 0 f sample } }
  let s2 := s1.modFeed f fun d => { d with lowRun := if sample ≤ -400 then d.lowRun + 1 else 0, trips := [] }
  if s.warden.serving then ((s2.sampled 3 f).modFeed f fun d => { d with power := avg }).seeLoss s f else s2

/-- FEED_TAP_SAMPLE: two low samples in a row are a hard fail, with the Warden or without it; else the feed takes its level (R87, R98, R101). -/
def execFeedTapSample (f : Nat) (sample avg : Int) (s : State) : Host.Outcome State Fault Refusal :=
  act (decide (f < 10)) s fun s =>
    let s1 := s.keepTap f sample avg
    match (s.feed f).state with
    | .normal | .watch | .act =>
      if 2 ≤ (s1.feed f).lowRun then s1.hardFail f else if s.warden.serving then s1.takeLevel f avg else s1
    | .hinge => if 2 ≤ (s1.feed f).lowRun then s1.hardFail f else s1
    | .off => if s.warden.serving then s1.feedUp f avg else s1
    | .hard | .dark => s1

/-- Feeds whose active input is an output of a module. -/
def State.moduleFeeds (s : State) (m : Nat) : List Nat :=
  (List.range 10).filter fun f => feedOutput f (s.feed f).activeB / 4 == m

/-- MODULE_OUTPUT_READ (R84, R102). -/
def execModuleOutputRead (m : Nat) (powers : List Int) (temp : Nat) (alarms : W32) (s : State) :
    Host.Outcome State Fault Refusal :=
  act (decide (m < 5) && (s.elsAt m).present && (s.elsAt m).linkOk && s.warden.serving) s fun s =>
    let s1 := each (List.range 4) (fun o s =>
      ({ s with light := { s.light with elsPwr := tset s.light.elsPwr 0 (4 * m + o) (powers.getD o 0) } } : State).sampled 6 (4 * m + o)) s
    each (s.moduleFeeds m) (fun f x => x.seeLoss s f) (s1.modEls m fun e => { e with temp := temp, alarms := alarms })

/-- BUS_TAP_SAMPLE: a loss located at one bus takes its lane groups out of service, and light on it lets its lanes run again (R84, R85). -/
def execBusTapSample (st bus : Nat) (power : Int) (s : State) : Host.Outcome State Fault Refusal :=
  act (decide (st < nSt) && decide (bus < numBus st) && s.warden.serving) s fun s =>
    let s1 := ({ s with light := { s.light with busTap := tset s.light.busTap 0 (busKey st bus) power } } : State).sampled 4 (busKey st bus)
    let s2 := s1.seeLoss s (busFeed st bus)
    if Config.isLow 2 power then s2 else s2.relightBus st bus

/-- A receiver's photocurrent is kept (R84). -/
def State.keepPhoto (s : State) (st rg lane current : Nat) : State :=
  { s with light := { s.light with photo := tset s.light.photo 0 (rxKey st rg * 8 + lane) current } }

/-- The Warden reads a receiver (R84, R85). -/
def State.readPhoto (s : State) (st rg lane current : Nat) : State :=
  let r := s.rxg st rg
  ((s.keepPhoto st rg lane current).sampled 5 (rxKey st rg * 8 + lane)).seeLoss s (busFeed r.wst (laneBus r.wst r.wlg lane))

/-- RECEIVER_SAMPLE (R84, R85). -/
def execReceiverSample (st rg lane current : Nat) (s : State) : Host.Outcome State Fault Refusal :=
  act (isRx st rg && decide (lane < 8) && s.warden.serving) s fun s => s.readPhoto st rg lane current

/-- The outputs of a module that came or went are dark; one that came brings its identity and its factory set points, with which its standby outputs are usable again (R78, R102, R103). -/
def State.moduleChange (s : State) (m : Nat) (answers : Bool) (ident : W64) (factory : List Settle) : State :=
  let sides := ((List.range 10).flatMap fun f => [(f, false), (f, true)]).filter fun x =>
    feedOutput x.1 x.2 / 4 == m && x.2 != (s.feed x.1).activeB
  let s1 := s.modEls m fun e => { e with lit := 0, drive := [] }
  let s2 := each sides (fun x s => s.modFeed x.1 fun d => { d with standbyLit := false }) s1
  if answers then
    let s3 := s2.modEls m fun e => { e with ident := ident, factory := factory }
    let s4 := each (List.range 4) (fun o s => s.recordSet (4 * m + o) factory[o]?) s3
    each sides (fun x s => s.modFeed x.1 fun d => d.setUsable x.2 true) s4
  else s2

/-- ELS_PRESENCE_CHECK (R103). -/
def execElsPresenceCheck (m : Nat) (answers : Bool) (ident : W64) (factory : List Settle) (s : State) :
    Host.Outcome State Fault Refusal :=
  act (decide (m < 5) && s.warden.serving) s fun s =>
    let s1 := s.modEls m fun e => { e with present := answers, linkOk := if answers then true else e.linkOk }
    if (s.elsAt m).present = answers then s1 else (s1.moduleChange m answers ident factory).raise ntElsChange

/-- ELS_LINK_FAIL: the module's standby outputs are not ready while its link is down (R104). -/
def execElsLinkFail (m : Nat) (s : State) : Host.Outcome State Fault Refusal :=
  act (decide (m < 5)) s fun s => s.modEls m fun e => { e with linkOk := false }

/-! ### FEED_COMMISSION (R80) -/

/-- A DARK feed is commissioned on an input: that input lights and is recorded, the coupler passes it and the other goes dark, the rings relock, and the feed is in NORMAL (R77, R80). -/
def State.commissionDark (s : State) (f : Nat) (b : Bool) (m : Settle) (unlocked : List Nat) : State :=
  let s1 := (((s.recordSet (feedOutput f b) (some m)).setLit (feedOutput f (!b)) false).setLit (feedOutput f b) true).modFeed f fun d =>
    { (d.setUsable b true).setUsable (!b) false with
      activeB := b, couplerB := b, standbyLit := false, reference := m.power, power := 0, lowRun := 0, trips := [], step := 0
      tried := false }
  ((s1.loseRings f).setFeedState f .normal).relockBuses f unlocked true

/-- The active input is commissioned: the light that passes is the new reference, its record's feed power too; Fade Act ends, and Fade Watch as its eyes allow (R79, R80, R89). -/
def State.commissionActive (s : State) (f : Nat) (b : Bool) (m : Settle) : State :=
  let d := s.feed f
  let i := feedOutput f b
  let s1 := (s.recordSet i (some { (s.setPoint i).getD m with power := m.power })).modFeed f fun d =>
    { d.setUsable b true with reference := m.power, power := 0, lowRun := 0, tried := false }
  if d.state = .watch ∨ d.state = .act then s1.setFeedState f (fadeLevel .watch 0 false (s.eyeLow f 70) (s.eyeLow f 75)) else s1

/-- The effect of FEED_COMMISSION by the feed's state and the input named (R80). -/
def State.commission (s : State) (f : Nat) (b : Bool) (m : Settle) (unlocked : List Nat) : State :=
  if (s.feed f).state = .dark then s.commissionDark f b m unlocked
  else if (s.feed f).activeB = b then s.commissionActive f b m
  else ((s.recordSet (feedOutput f b) (some m)).setLit (feedOutput f b) false).modFeed f fun d => d.setUsable b true

/-- The output named has to settle: it is not the active one of a feed with light (R80). -/
def State.mustSettle (s : State) (f : Nat) (b : Bool) : Bool :=
  decide ((s.feed f).activeB ≠ b) || decide ((s.feed f).state = .dark)

/-- FEED_COMMISSION; an output that does not settle goes dark (R80). -/
def execFeedCommission (o : Origin) (feed : Nat) (inputB : Bool) (m : Settle) (unlocked : List Nat) (s : State) :
    Host.Outcome State Fault Refusal :=
  proxy o 0xE8 false s fun s => s.commandLong o 0xE8
    [ (decide (10 ≤ feed), .outOfRange),
      (!(s.elsAt (feedOutput feed inputB / 4)).present, .notPresent),
      (decide ((s.feed feed).state = .hinge) || decide ((s.feed feed).state = .hard), .wrongState) ]
    fun s =>
      if !m.settled && s.mustSettle feed inputB then (s.setLit (feedOutput feed inputB) false).complete o 0xE8 .timedOut []
      else (s.commission feed inputB m unlocked).complete o 0xE8 .done []

end Sys2Proof.Machine
end

