-- ==== Sys2Proof/Machine/Lock.lean ====
section
/-! DEFINITION. Ring locking and calibration (04): the lock loop, loss and recovery of lock, the ramp governor, and the
calibration of links. -/

namespace Sys2Proof.Machine

open Sys2Proof

/-! ### Links of rings -/

/-- The transmit group whose light a ring handles: its own, or the one its receive group names; a loopback ring belongs to no group (R110, R599). -/
def State.ringGroup (s : State) (r : RingId) : Nat × Nat :=
  match r.kind with
  | .selector => ((s.rxg r.st r.grp).wst, (s.rxg r.st r.grp).wlg)
  | .modulator | .loopback => (r.st, r.grp)

/-- Receive groups whose link a ring belongs to, mapped ones only (R133). -/
def State.ringLinks (s : State) (r : RingId) : List (Nat × Nat) :=
  match r.kind with
  | .modulator => (s.entriesOf r.st r.grp).filter fun x => (s.rxg x.1 x.2).valid
  | .selector => if (s.rxg r.st r.grp).valid then [(r.st, r.grp)] else []
  | .loopback => []

/-- Bus of the lane that a ring handles. -/
def State.ringBus (s : State) (r : RingId) : Nat × Nat :=
  let g := s.ringGroup r
  (g.1, laneBus g.1 g.2 r.lane)

/-- A ring of a lane group: a modulator ring, or a selector ring whose receive group is mapped. -/
def State.ringLinked (s : State) (r : RingId) : Bool :=
  match r.kind with
  | .modulator => true
  | .selector => (s.rxg r.st r.grp).valid
  | .loopback => false

/-- Station, group and lane exist. -/
def ringOk (r : RingId) : Bool :=
  decide (r.lane < 8) && match r.kind with
    | .modulator => isTx r.st r.grp
    | .selector => isRx r.st r.grp
    | .loopback => decide (r.st < nSt) && r.grp == 0

/-! ### The lock loop (R116, R117, R141) -/

/-- Updates of a loop in 100 µs (R116, R141). -/
def errWindow : Nat := 800

/-- The size of one more loop error: every 100 µs their average is kept (R141; log entry 27). -/
def Ring.keepErr (r : Ring) (err : Int) : Ring :=
  let sum := r.errSum + err.natAbs
  if r.errN + 1 = errWindow then { r with err := err, errSum := 0, errN := 0, errAvg := sum / errWindow }
  else { r with err := err, errSum := sum, errN := r.errN + 1 }

/-- One update of the loop: the bias trim corrects the error at 3.1 mK a code, and past a quarter of its range the heater moves one code (R110, R116; log entry 27). -/
def Ring.update (r : Ring) (err : Int) : Ring :=
  let b := clampBias (r.bias + (10 * err) / 31)
  { r.keepErr err with
    bias := b
    heater := if 64 < b then min 4095 (r.heater + 1) else if b < -64 then r.heater - 1 else r.heater
    overCnt := if 150 < err.natAbs then r.overCnt + 1 else 0 }

/-- LOCK_LOOP_UPDATE (R116). -/
def execLockLoopUpdate (r : RingId) (errMilliK : Int) (s : State) : Host.Outcome State Fault Refusal :=
  act (ringOk r && decide ((s.ringAt r).state = .locked)) s fun s => (s.rebase r).modRing r fun q => q.update errMilliK

/-! ### Loss of lock (R120 to R124, R130) -/

/-- A link whose group or reader comes back comes due for calibration: for the first time, or for its return (R133). -/
def State.dueBack (s : State) (st rg : Nat) : State :=
  s.modRx st rg fun r => r.due (if r.calCount = 0 then 0 else 3) s.now

/-- A calibration of a link is abandoned and runs again as a return from lock loss (R139). -/
def State.abandonCal (s : State) (st rg : Nat) : State :=
  if (s.rxg st rg).calBusy then s.modRx st rg fun r => { r with calBusy := false }.due 3 s.now else s

/-- One reader leaves a group that has others: its entry reads FAULT, the packets it had not acknowledged go on its standing group, and the shares of the others change (R54, R122). -/
def State.readerLeaves (s : State) (wst wlg st rg : Nat) : State :=
  let t := s.txg wst wlg
  let left := ((t.replay.drop (tget t.acked 0 st)).flatMap SentGrain.pkts ++ t.current.toList ++ t.queue).dedup
  let s1 := s.setRxState st rg .fault
  let s2 := each (left.filter fun q => q.readers.contains st) (fun q s =>
    s.enqueue wst (standingIndex wst st) (q.copyFor [st])) s1
  (s2.settleAcks wst wlg).reshare wst wlg

/-- Lock loss on lanes of at least three of a feed's buses that are not all on one field (R87). -/
def lossAcross (trips : List Nat) : Bool :=
  decide (3 ≤ trips.dedup.length) && match trips.map fun b => stField (b / 16) with
    | [] => false
    | k :: r => r.any (· != k)

/-- A bus's lock loss counts for its feed, which may hard-fail by it; while the rings relock in a hinge's step 4 it does not (R87, R101). -/
def State.countTrip (s : State) (b : Nat × Nat) : State :=
  let f := busFeed b.1 b.2
  let trips := busKey b.1 b.2 :: (s.feed f).trips
  let s1 := s.modFeed f fun d => { d with trips := trips }
  if (s.feed f).lit && lossAcross trips && !(decide ((s.feed f).state = .hinge) && (s.feed f).step == 4) then s1.hardFail f else s1

/-- What a trip does to the lane groups: the only reader's takes the group out, one of several readers leaves alone, and one that has left already changes nothing (R121, R122). -/
def State.tripGroups (s : State) (r : RingId) : State :=
  let w := s.ringGroup r
  let set := s.readerSet w.1 w.2
  if !s.ringLinked r then s
  else if decide (r.kind = .selector) && !(set.contains (r.st, r.grp)) then s
  else if decide (r.kind = .selector) && decide (1 < set.length) then s.readerLeaves w.1 w.2 r.st r.grp
  else if (s.txg w.1 w.2).inService then s.leaveService w.1 w.2 else s

/-- LOCK_LOSS_TRIP: the ring enters LOST and at once ACQUIRE (R120). -/
def execLockLossTrip (r : RingId) (s : State) : Host.Outcome State Fault Refusal :=
  act (ringOk r && decide ((s.ringAt r).state = .locked) && decide (4 ≤ (s.ringAt r).overCnt)) s fun s =>
    let s1 := s.modRing r fun q => { q with state := .acquire, overCnt := 0 }
    let s2 := each (s.ringLinks r) (fun x s => s.abandonCal x.1 x.2) s1
    (s2.tripGroups r).when (s.ringLinked r) fun s => s.countTrip (s.ringBus r)

/-- Every selector ring of a receive group is LOCKED or out with its lane. -/
def State.entryRingsLocked (s : State) (st rg : Nat) : Bool :=
  (rxRings st rg).all fun r => decide ((s.ringAt r).state ≠ .acquire) && decide ((s.ringAt r).state ≠ .lost)

/-- An entry that a trip has put in FAULT is LOCKED again once its rings are; it rejoins its group's readers after its calibration (R122, R130). -/
def State.entryBack (s : State) (r : RingId) : State :=
  let e := s.rxg r.st r.grp
  if decide (r.kind = .selector) && e.valid && decide (e.state = .fault) && s.entryRingsLocked r.st r.grp then
    (s.modRx r.st r.grp fun e => { e with rejoin := true }).setRxState r.st r.grp .locked
  else s

/-- Links of a ring that has come out of ACQUIRE after a trip come due for calibration; an entry that still tunes does so when it locks (R43, R130, R133). -/
def State.dueLinks (s : State) (r : RingId) : State :=
  each ((s.ringLinks r).filter fun x => decide ((s.rxg x.1 x.2).state ≠ .tuning)) (fun x s => s.dueBack x.1 x.2) s

/-- RING_RELOCK: its links are due for calibration, and its lane runs again when it was dark and has light (R97, R122, R123, R130). -/
def execRingRelock (r : RingId) (s : State) : Host.Outcome State Fault Refusal :=
  act (ringOk r && decide ((s.ringAt r).state = .acquire)) s fun s =>
    let s1 := ((s.lockRing r).dueLinks r).entryBack r
    if s.ringLinked r then s1.relightLane (s.ringGroup r).1 (s.ringGroup r).2 r.lane else s1

/-- A ring is given up: its lane is marked bad, and no longer counts as dark (R35, R115, R124). -/
def State.ringLost (s : State) (r : RingId) : State :=
  let w := s.ringGroup r
  let s1 := s.modRing r fun q => { q with state := .bad, overCnt := 0 }
  if !s.ringLinked r then s1
  else
    let s2 := s1.markLane w.1 w.2 r.lane
    if s.laneLit w.1 w.2 r.lane then s2.modTx w.1 w.2 fun t => { t with dark := t.dark &&& ~~~(1#8 <<< r.lane) } else s2

/-- Selector rings of an entry that still acquire. -/
def State.acquiring (s : State) (st rg : Nat) : List RingId :=
  (rxRings st rg).filter fun r => decide ((s.ringAt r).state = .acquire)

/-- An entry has not locked in time: its rings that still acquire are BAD, and it is in FAULT (R55, R119). -/
def State.entryFails (s : State) (st rg : Nat) : State :=
  (each (s.acquiring st rg) (fun r s => s.ringLost r) s).setRxState st rg .fault

/-- RMAP_FAULT (R55, R101, R119). -/
def execRmapFault (st rg : Nat) (s : State) : Host.Outcome State Fault Refusal :=
  act (isRx st rg && decide ((s.rxg st rg).state = .tuning) && !s.entryHeld st rg) s fun s => s.entryFails st rg

/-- RING_BAD: with an entry that tunes, all its rings that still acquire have run out of time; after a trip, its links are calibrated on the lanes left (R119, R124, R130). -/
def execRingBad (r : RingId) (s : State) : Host.Outcome State Fault Refusal :=
  act (ringOk r && decide ((s.ringAt r).state = .acquire)) s fun s =>
    if decide (r.kind = .selector) && decide ((s.rxg r.st r.grp).state = .tuning) then s.entryFails r.st r.grp
    else ((s.ringLost r).dueLinks r).entryBack r

/-! ### The ramp governor (R125 to R127) -/

/-- One step of the governor of 0.1 ms toward a level: 255 per RAMP steps, the part of a level left over kept for the next (R125, R127). -/
def DiePower.ramped (p : DiePower) (target : Nat) : DiePower :=
  let r := max 1 p.ramp
  let sum := min p.acc (r - 1) + 255
  let l := if p.level ≤ target then min target (p.level + sum / r) else max target (p.level - sum / r)
  { p with level := l, acc := if l = target then 0 else sum % r }

/-- RAMP_STEP: the level moves toward the lower of demand and throttle, and ballast runs while what issues is below it (R125, R126, R505). -/
def execRampStep (die demand : Nat) (s : State) : Host.Outcome State Fault Refusal :=
  act (decide (die < 8) && s.dieUp die) s fun s =>
    (s.modDiePower die fun p =>
      let d := min demand 255
      let q := p.ramped (min d p.throttle)
      { q with demand := d, ballast := decide (min d p.throttle < q.level) }).spreadLevel die

/-! ### Calibration (R133 to R140) -/

/-- Links of a station under calibration (R136). -/
def State.calsRunning (s : State) (st : Nat) : Nat := ((List.range (numRx st)).filter fun j => (s.rxg st j).calBusy).length

/-- Ring-site temperature of a link's reader and of its writer: those of their rings of lane 0 (R133, R141; log entry 75). -/
def State.readerTemp (s : State) (st rg : Nat) : Nat := s.siteTemp { st := st, kind := .selector, grp := rg, lane := 0 }
def State.writerTemp (s : State) (st rg : Nat) : Nat :=
  s.siteTemp { st := (s.rxg st rg).wst, kind := .modulator, grp := (s.rxg st rg).wlg, lane := 0 }

/-- Half degrees that differ by more than CAL_DELTA tenths of a degree (R133, R140). -/
def movedBy (delta a b : Nat) : Bool := decide (delta < 5 * (max a b - min a b))

/-- A link's temperature has moved since its last calibration (R133). -/
def State.tempMoved (s : State) (st rg : Nat) : Bool :=
  let r := s.rxg st rg
  decide (r.calCount ≠ 0) && (movedBy (s.sta st).calDelta (s.readerTemp st rg) r.calTemp
    || movedBy (s.sta st).calDelta (s.writerTemp st rg) r.calWTemp)

/-- Field Time ticks of the longest time between calibrations of a link (R133, R140). -/
def State.maxTicks (s : State) (st : Nat) : Nat := (s.sta st).maxint * ticksPerSecond

/-- A cause of R133 holds for a link: one it is due for, its first calibration, a temperature that moved, or its interval. -/
def State.calCauseHolds (s : State) (st rg cause : Nat) : Bool :=
  let r := s.rxg st rg
  (r.calDue.any fun e => e.1 == cause)
    || (cause == 0 && r.calCount == 0)
    || (cause == 1 && s.tempMoved st rg)
    || (cause == 2 && decide (r.calCount ≠ 0) && decide (s.maxTicks st ≤ (s.now - r.calFt).toNat))

/-- When a link came due: by its first cause that waits, by its interval, or now by its temperature; none when no cause holds (R133, R136). -/
def State.dueAt (s : State) (st rg : Nat) : Option Nat :=
  let r := s.rxg st rg
  let times := r.calDue.map (fun e => e.2.toNat)
    ++ (if s.calCauseHolds st rg 2 then [(r.calFt.toNat + s.maxTicks st)] else [])
    ++ (if r.calCount = 0 ∨ s.tempMoved st rg then [s.now.toNat] else [])
  times.foldl (fun b t => match b with
    | none => some t
    | some x => some (min x t)) none

/-- A link that can be calibrated: mapped, its entry LOCKED, and not under calibration. -/
def State.calReady (s : State) (st rg : Nat) : Bool :=
  let r := s.rxg st rg
  isRx st rg && r.valid && decide (r.state = .locked) && !r.calBusy

/-- The group of a link is out of service (R136). -/
def State.linkOut (s : State) (st rg : Nat) : Bool := !(s.txg (s.rxg st rg).wst (s.rxg st rg).wlg).inService

/-- Another link of the station goes before one: its group is out of service and this one's is not, or it came due earlier (R136). -/
def State.calFirst (s : State) (st rg : Nat) : Bool :=
  (List.range (numRx st)).any fun j => s.calReady st j && match s.dueAt st j with
    | none => false
    | some t => (s.linkOut st j && !s.linkOut st rg)
        || (s.linkOut st j == s.linkOut st rg && decide (t < (s.dueAt st rg).getD 0))

/-- CALIBRATION_START: at most eight links of a station, in the order of R136; of several causes the one that the row names is recorded (R133, R134, R136; log entry 87). -/
def execCalibrationStart (st rg cause : Nat) (s : State) : Host.Outcome State Fault Refusal :=
  act (s.stUp st && s.calReady st rg && decide (s.calsRunning st < 8) && s.calCauseHolds st rg cause && !s.calFirst st rg) s
    fun s => s.modRx st rg fun r => { r with calBusy := true, calNow := cause, calDue := [] }

/-- Worst eye among the lanes that work; of lanes that tie, the one with the lowest number (R141; log entry 87). -/
def worstEye (bad : Byte) (eyes : List Nat) : Nat × Nat :=
  (List.range 8).foldl (fun b l => if !bad.getLsbD l && decide (eyes.getD l 0 < b.1) then (eyes.getD l 0, l) else b) (100, 0)

/-- A correction of one ring, at most 64 heater codes and 32 bias codes (R137). -/
def Ring.correct (r : Ring) (heater bias : Int) : Ring :=
  { r with
    heater := clampHeater ((r.heater : Int) + max (-64) (min 64 heater))
    bias := clampBias (r.bias + max (-32) (min 32 bias)) }

/-- The heater bias table of a ring takes its refined setting for its present band, drawn back to the band's reference temperature (R143, R144; log entry 75). -/
def State.refine (s : State) (r : RingId) : State :=
  let b := s.ringBand r
  let e := s.bandEntry r b
  let q := s.ringAt r
  let f := Config.factoryEntry (ringKey r) b
  let code := clampHeater (q.heater - e.slope * ((q.site : Int) - Config.bandRef b) / 2)
  { s with warden := { s.warden with
    tables := tset s.warden.tables { code := f.1, slope := f.2.1, bias := f.2.2 } (4 * ringKey r + b)
      { e with code := code, bias := q.bias }
    tablesRefined := true } }

/-- A LOCKED ring takes the correction of a calibration, and its table is refined (R135, R137, R144). -/
def State.correctRing (s : State) (r : RingId) (heater bias : Int) : State :=
  if (s.ringAt r).state = .locked then ((s.rebase r).modRing r fun q => q.correct heater bias).refine r else s

/-- Lanes are marked bad or returned by their eyes (R138). -/
def State.markEyes (s : State) (wst wlg : Nat) (eyes : List Nat) : State :=
  each (List.range 8) (fun l s =>
    let w := eyes.getD l 0
    if w ≤ 30 && !(s.txg wst wlg).bad.getLsbD l then s.markLane wst wlg l
    else if 45 ≤ w then s.clearLane wst wlg l else s) s

/-- A calibration ends: both sides take the correction, lanes are marked or returned, the records of the link are written, and a reader that waits rejoins its group (R130, R135, R137, R138, R141). -/
def State.applyCal (s : State) (st rg : Nat) (r : CalResult) : State :=
  let e := s.rxg st rg
  let s1 := each ((txRings e.wst e.wlg ++ rxRings st rg).zipIdx) (fun x s =>
    s.correctRing x.1 (r.heater.getD x.2 0) (r.bias.getD x.2 0)) s
  let s2 := s1.markEyes e.wst e.wlg r.eyeW
  let worst := worstEye (s2.txg e.wst e.wlg).bad r.eyeW
  let s3 := s2.modRx st rg fun q => { q with
    calBusy := false, calCount := inc 16 q.calCount, calTemp := min 255 (s.readerTemp st rg), calWTemp := s.writerTemp st rg
    calCause := e.calNow, calFt := s.now, eyeW := worst.1, eyeH := r.eyeH, eyeLane := worst.2 }
  if e.rejoin then (s3.joinReader st rg).reshare e.wst e.wlg else s3

/-- CALIBRATION_APPLY; the Warden reads the lanes' photocurrents with it (R84, R135). -/
def execCalibrationApply (st rg : Nat) (r : CalResult) (s : State) : Host.Outcome State Fault Refusal :=
  act (isRx st rg && (s.rxg st rg).calBusy) s fun s =>
    (s.applyCal st rg r).when s.warden.serving fun s => each (List.range 8) (fun l s => s.readPhoto st rg l (r.photo.getD l 0)) s

/-- What a calibration of bring-up finds: eyes wide enough for their lanes to run, and corrections, all open, by the free values from one number on (log entry 88). -/
def freeCal (n : Nat) : CalResult :=
  { eyeW := (List.range 8).map fun l => 31 + Config.free (n + l) % 70
    eyeH := Config.free (n + 8) % 101
    heater := (List.range 16).map fun i => ((Config.free (n + 9 + i) % 129 : Nat) : Int) - 64
    bias := (List.range 16).map fun i => ((Config.free (n + 25 + i) % 65 : Nat) : Int) - 32
    photo := [] }

/-- Free values that a calibration of bring-up takes. -/
def calDraws : Nat := 41

/-- A link is calibrated as its station or its writer's enters service: for the first time, or for its return (R133, R145, R536, R543; log entry 88). -/
def State.calibrateNow (s : State) (st rg : Nat) : State :=
  (({ s with drawn := s.drawn + calDraws } : State).modRx st rg fun r =>
    { r with calNow := if r.calCount = 0 then 0 else 3, calDue := [] }).applyCal st rg (freeCal s.drawn)

/-- The effect of a write to LG_CALCFG: FORCE makes every link of the station due (R140). -/
def State.calcfgWrite (s : State) (st : Nat) (data : W32) : State × Status :=
  let w := data.toNat
  if bits w 6 0 < 5 ∨ 100 < bits w 6 0 ∨ bits w 23 16 = 0 then (s, .outOfRange)
  else
    let s1 := s.modSta st fun x => { x with maxint := bits w 23 16, calDelta := bits w 6 0 }
    (if bit w 31 then each ((List.range (numRx st)).filter fun j => (s.rxg st j).valid) (fun j s =>
      s.modRx st j fun r => r.due 6 s.now) s1 else s1, .done)

/-- HEATER_TABLE_WRITEBACK: refined tables wait to be written, at most once in 10 min (R144). -/
def execHeaterTableWriteback (s : State) : Host.Outcome State Fault Refusal :=
  act (s.warden.serving && s.warden.tablesRefined && (match s.warden.tablesAt with
      | none => true
      | some t => decide (600 * ticksPerSecond ≤ (s.now - t).toNat))) s fun s =>
    { s with warden := { s.warden with tablesRefined := false, tablesAt := some s.now } }.markArea areaCalibration

/-- The link's rings in the order of RSTATE: the worst state (R141). -/
def worstRing (l : List RingState) : RingState :=
  if l.contains .bad then .bad else if l.contains .lost then .lost else if l.contains .acquire then .acquire
  else if l.contains .parked then .parked else .locked

/-! ### Warm-up (R112) -/

/-- Every ring-site sensor of a field reads 30 °C or more (R112). -/
def State.fieldWarm (s : State) (k : Nat) : Bool :=
  (List.range 48).all fun i => decide (60 ≤ tget s.power.sensors 0 (firstSensor (.field k) + i))

/-- The rings of a field's standing groups acquire, once the field is warm (R112, R145). -/
def State.acquireField (s : State) (k : Nat) : State :=
  each (fieldStations k) (fun st s => s.setRings ((List.range 13).flatMap fun g => txRings st g ++ rxRings st g) .acquire) s

/-- LOCK_COLD: warm-up has lasted 5 s; the field's groups stay OFF (R112). -/
def execLockCold (k : Nat) (s : State) : Host.Outcome State Fault Refusal :=
  act (decide (k < 4) && decide ((s.field k).state = .warmup)) s fun s =>
    (s.modField k fun f => { f with cold := true }).sense (ntLockCold k) s

end Sys2Proof.Machine
end

