-- ==== Sys2Proof/Machine/Numerics.lean ====
section
/-! DEFINITION. Number formats and arithmetic (09): exact numbers, the encodings, rounding, overflow and saturation, block
scales, sums and products, minimum and maximum, and the special functions with their error bounds. -/

namespace Sys2Proof.Machine

open Sys2Proof

/-- A value of a number format: NaN, an infinity, or exactly m × 2^e with a sign, zero included (R304). -/
inductive FVal where
  | nan
  | inf (neg : Bool)
  | fin (neg : Bool) (m : Nat) (e : Int)
  deriving DecidableEq, Repr

/-! ### Encodings (R304, R305, R306) -/

/-- What the codes with an exponent field of ones mean (R304). -/
inductive Tops where
  | plain | nanOnly | ieee
  deriving DecidableEq, Repr

/-- A floating-point format: exponent bits, mantissa bits, bias (R304). -/
structure FloatFmt where
  eb : Nat
  mb : Nat
  bias : Int
  tops : Tops
  deriving DecidableEq, Repr

def fp32 : FloatFmt := { eb := 8, mb := 23, bias := 127, tops := .ieee }
def bf16 : FloatFmt := { eb := 8, mb := 7, bias := 127, tops := .ieee }
def fp16 : FloatFmt := { eb := 5, mb := 10, bias := 15, tops := .ieee }
def e4m3 : FloatFmt := { eb := 4, mb := 3, bias := 7, tops := .nanOnly }
def e5m2 : FloatFmt := { eb := 5, mb := 2, bias := 15, tops := .ieee }
def e3m2 : FloatFmt := { eb := 3, mb := 2, bias := 3, tops := .plain }
def e2m3 : FloatFmt := { eb := 2, mb := 3, bias := 1, tops := .plain }
def e2m1 : FloatFmt := { eb := 2, mb := 1, bias := 1, tops := .plain }

/-- The floating-point encoding of a format code (R276, R304). -/
def floatFmt (code : Nat) : Option FloatFmt :=
  match code with
  | 0 => some fp32 | 1 => some bf16 | 2 => some fp16 | 3 => some e4m3 | 4 => some e5m2
  | 5 => some e4m3 | 6 => some e5m2 | 7 => some e3m2 | 8 => some e2m3 | 9 => some e2m1
  | _ => none

/-- A Microscaling format code (R276). -/
def isMx (code : Nat) : Bool := decide (5 ≤ code) && decide (code ≤ 9)

/-- An integer format code (R276). -/
def isIntFmt (code : Nat) : Bool := decide (0xA ≤ code) && decide (code ≤ 0xC)

/-- Bits of an element of a format (R276). -/
def fmtBits (code : Nat) : Nat :=
  match code with
  | 0 => 32 | 1 => 16 | 2 => 16 | 3 => 8 | 4 => 8 | 5 => 8 | 6 => 8 | 7 => 6 | 8 => 6 | 9 => 4 | 0xA => 8 | 0xB => 4
  | _ => 32

/-- Elements in a row of a matrix engine (R276). -/
def fmtK (code : Nat) : Nat :=
  if code == 0 then 16 else if code ≤ 2 then 64 else if code == 9 || code == 0xB then 256 else 128

/-- Largest exponent of a Microscaling element (R309). -/
def fmtEmax (code : Nat) : Int :=
  match code with
  | 5 => 8 | 6 => 15 | 7 => 4 | _ => 2

/-- The value of a code (R304). -/
def FloatFmt.num (f : FloatFmt) (c : Nat) : FVal :=
  let neg := bit c (f.eb + f.mb)
  let e := bits c (f.eb + f.mb - 1) f.mb
  let m := c % 2 ^ f.mb
  let top := e == 2 ^ f.eb - 1
  if top && decide (f.tops = .ieee) then (if m == 0 then .inf neg else .nan)
  else if top && decide (f.tops = .nanOnly) && m == 2 ^ f.mb - 1 then .nan
  else if e == 0 then .fin neg m (1 - f.bias - f.mb)
  else .fin neg (2 ^ f.mb + m) (e - f.bias - f.mb)

/-- Largest magnitude code of a finite value (R304). -/
def FloatFmt.maxCode (f : FloatFmt) : Nat :=
  match f.tops with
  | .plain => 2 ^ (f.eb + f.mb) - 1
  | .nanOnly => 2 ^ (f.eb + f.mb) - 2
  | .ieee => (2 ^ f.eb - 1) * 2 ^ f.mb - 1

/-- Canonical NaN (R304); a format without NaN is never asked for one. -/
def FloatFmt.nanCode (f : FloatFmt) : Nat :=
  match f.tops with
  | .ieee => (2 ^ f.eb - 1) * 2 ^ f.mb + 2 ^ (f.mb - 1)
  | _ => 2 ^ (f.eb + f.mb) - 1

/-- Code of an infinity (R304). -/
def FloatFmt.infCode (f : FloatFmt) : Nat := (2 ^ f.eb - 1) * 2 ^ f.mb

/-- A code with its sign. -/
def FloatFmt.signed (f : FloatFmt) (neg : Bool) (c : Nat) : Nat := if neg then 2 ^ (f.eb + f.mb) + c else c

/-- Two's complement number of w bits (R304). -/
def intNum (w c : Nat) : Int := if bit c (w - 1) then (c : Int) - 2 ^ w else c

/-- An integer as a number. -/
def FVal.ofInt (i : Int) : FVal := .fin (decide (i < 0)) i.natAbs 0

/-- Value of an element code of a format, its block scale apart (R304). -/
def elemNum (code c : Nat) : FVal :=
  match floatFmt code with
  | some f => f.num c
  | none => .ofInt (intNum (fmtBits code) c)

/-- Multiply by a power of two. -/
def FVal.scale2 (x : FVal) (k : Int) : FVal :=
  match x with
  | .fin n m e => .fin n m (e + k)
  | y => y

/-- An element under its block scale (R305, R308). -/
def FVal.scaled (x : FVal) (scale : Nat) : FVal := if scale == 0xFF then .nan else x.scale2 ((scale : Int) - 127)

/-- Element i of packed elements of w bits (R225, R306). -/
def elemAt (w : Nat) (l : List Byte) (i : Nat) : Nat := fieldB l (i * w / 8) 5 / 2 ^ (i * w % 8) % 2 ^ w

/-- Element codes packed without gap (R306). -/
def packElems (w : Nat) (l : List Nat) : List Byte :=
  leBytes ((l.length * w + 7) / 8) (l.foldr (fun c r => c % 2 ^ w + 2 ^ w * r) 0)

/-- Bytes that n elements of a format fill. -/
def fmtBytes (code n : Nat) : Nat := (n * fmtBits code + 7) / 8

/-! ### Rounding (R318 to R321) -/

/-- Exponent of the leading bit of m × 2^e, for m above 0. -/
def leadExp (m : Nat) (e : Int) : Int := (Nat.log2 m : Int) + e

/-- Whether a magnitude q + rem / d goes up by one unit: to nearest even, toward zero, or by a 16-bit draw (R319). -/
def roundsUp (rnd r q rem d : Nat) : Bool :=
  if rnd == 1 then false
  else if rnd == 2 then decide (65536 ≤ rem * 65536 / d + r)
  else decide (d < 2 * rem) || (2 * rem == d && q % 2 == 1)

/-- m × 2^e in units of 2^ue, rounded (R319). -/
def roundUnits (rnd r m : Nat) (e ue : Int) : Nat :=
  if ue ≤ e then m * 2 ^ (e - ue).toNat
  else
    let d := 2 ^ (ue - e).toNat
    m / d + if roundsUp rnd r (m / d) (m % d) d then 1 else 0

/-- Exponent of the spacing of a format at m × 2^e (R319). -/
def FloatFmt.unit (f : FloatFmt) (m : Nat) (e : Int) : Int := max (leadExp m e) (1 - f.bias) - f.mb

/-- Magnitude code of m × 2^e, rounded, above the largest finite code on overflow (R319). -/
def FloatFmt.magCode (f : FloatFmt) (rnd r m : Nat) (e : Int) : Nat :=
  if m = 0 then 0
  else
    let ue := f.unit m e
    (ue + f.mb - (1 - f.bias)).toNat * 2 ^ f.mb + roundUnits rnd r m e ue

/-- What a conversion counts (R320, R321, R324). -/
structure Count where
  sat : Bool
  ovfNan : Bool
  invalid : Bool
  deriving DecidableEq, Repr

/-- Nothing to count. -/
def Count.zero : Count := { sat := false, ovfNan := false, invalid := false }

/-- What two conversions count together. -/
def Count.or (a b : Count) : Count :=
  { sat := a.sat || b.sat, ovfNan := a.ovfNan || b.ovfNan, invalid := a.invalid || b.invalid }

/-- Overflow on conversion to a floating-point format (R320). -/
def FloatFmt.overflow (f : FloatFmt) (rnd : Nat) (ovf neg wasInf : Bool) : Nat × Count :=
  match f.tops with
  | .ieee => (f.signed neg (if rnd == 1 && !wasInf then f.maxCode else f.infCode), .zero)
  | .nanOnly =>
    if ovf && (rnd != 1 || wasInf) then (f.nanCode, { Count.zero with ovfNan := true })
    else (f.signed neg f.maxCode, { Count.zero with sat := decide (rnd ≠ 1) || wasInf })
  | .plain => (f.signed neg f.maxCode, { Count.zero with sat := true })

/-- Conversion of a value to a floating-point format (R319, R320). -/
def FloatFmt.conv (f : FloatFmt) (rnd : Nat) (ovf : Bool) (r : Nat) (x : FVal) : Nat × Count :=
  match x with
  | .nan => (f.nanCode, .zero)
  | .inf n => f.overflow rnd ovf n true
  | .fin n m e =>
    let c := f.magCode rnd r m e
    if c ≤ f.maxCode then (f.signed n c, .zero) else f.overflow rnd ovf n false

/-- Limits of an integer of w bits. -/
def satInt (w : Nat) (i : Int) : Int := max (-(2 ^ (w - 1))) (min (2 ^ (w - 1) - 1) i)

/-- Code of an integer of w bits. -/
def intCode (w : Nat) (i : Int) : Nat := (BitVec.ofInt w i).toNat

/-- Conversion of a value to an integer format: rounded with u = 1, saturated, NaN to 0 (R321). -/
def convInt (w rnd r : Nat) (x : FVal) : Nat × Count :=
  match x with
  | .nan => (0, .zero)
  | .inf n => (intCode w (if n then -(2 ^ (w - 1)) else 2 ^ (w - 1) - 1), { Count.zero with sat := true })
  | .fin n m e =>
    let q : Int := roundUnits rnd r m e 0
    let i := if n then -q else q
    (intCode w (satInt w i), { Count.zero with sat := satInt w i != i })

/-- The value rounded to FP32, to nearest even (R315). -/
def rne32 (x : FVal) : FVal := fp32.num (fp32.conv 0 false 0 x).1

/-- The FP32 word of a value. -/
def f32Word (x : FVal) : W32 := BitVec.ofNat 32 (fp32.conv 0 false 0 x).1

/-- The value of an FP32 word. -/
def wordNum (w : W32) : FVal := fp32.num w.toNat

/-- Conversion of a result to a plain output format; integer inputs of VCVT go to FP32, BF16 and FP16 to nearest even (R318 to R321). -/
def convOut (ofmt rnd : Nat) (ovf fromInt : Bool) (r : Nat) (x : FVal) : Nat × Count :=
  let rnd := if ofmt == 0 || (fromInt && decide (ofmt ≤ 2)) then 0 else rnd
  match floatFmt ofmt with
  | some f => f.conv rnd ovf r x
  | none => convInt (fmtBits ofmt) rnd r x

/-! ### Block scales (R309) -/

/-- m × 2^e against m' × 2^e'. -/
def magLe (m : Nat) (e : Int) (m' : Nat) (e' : Int) : Bool :=
  decide (m * 2 ^ (e - min e e').toNat ≤ m' * 2 ^ (e' - min e e').toNat)

/-- The larger of two magnitudes. -/
def maxMag (a b : Nat × Int) : Nat × Int := if magLe a.1 a.2 b.1 b.2 then b else a

/-- Magnitude of a finite value. -/
def FVal.mag : FVal → Nat × Int
  | .fin _ m e => (m, e)
  | _ => (0, 0)

/-- Sign of a value. -/
def FVal.neg : FVal → Bool
  | .fin n _ _ => n
  | .inf n => n
  | .nan => false

/-- NaN or infinite. -/
def FVal.special : FVal → Bool
  | .fin _ _ _ => false
  | _ => true

/-- A block of 32 values converted to a Microscaling format: scale code, element codes, and whether one was clamped (R309). -/
def mxBlock (fmt rnd : Nat) (draw : Nat → Nat) (l : List FVal) : Nat × List Nat × Count :=
  match floatFmt fmt with
  | none => (0, [], .zero)
  | some f =>
    if l.any FVal.special then (0xFF, l.map fun _ => 0, { Count.zero with invalid := !l.contains .nan })
    else
      let amax := (l.map FVal.mag).foldl maxMag (0, 0)
      if amax.1 = 0 then (0, l.map fun x => f.signed x.neg 0, .zero)
      else
        let sh := max (-127) (min 127 (leadExp amax.1 amax.2 - fmtEmax fmt))
        let codes := l.zipIdx.map fun x =>
          let c := f.magCode rnd (draw x.2) x.1.mag.1 (x.1.mag.2 - sh)
          (f.signed x.1.neg (min c f.maxCode), decide (f.maxCode < c))
        ((sh + 127).toNat, codes.map (·.1), { Count.zero with sat := codes.any (·.2) })

/-- Pieces of 32. -/
def blocks32 {α : Type} : Nat → List α → List (List α)
  | 0, _ => []
  | n + 1, l => l.take 32 :: blocks32 n (l.drop 32)

/-- A row converted to a Microscaling format: its packed elements, then its block scales (R286, R306). -/
def mxRow (fmt rnd : Nat) (draw : Nat → Nat) (l : List FVal) : List Byte × Count :=
  let b := (blocks32 (l.length / 32) l).zipIdx.map fun x => mxBlock fmt rnd (fun i => draw (32 * x.2 + i)) x.1
  (packElems (fmtBits fmt) (b.flatMap (·.2.1)) ++ b.map fun x => BitVec.ofNat 8 x.1,
    b.foldl (fun c x => c.or x.2.2) .zero)

/-! ### Exact arithmetic (R310, R315) -/

/-- Signed mantissa of a finite value at an exponent not above its own. -/
def FVal.at : FVal → Int → Int
  | .fin n m e, k => (if n then -1 else 1) * (m : Int) * 2 ^ (e - k).toNat
  | _, _ => 0

/-- Least exponent of the finite values of a list. -/
def leastExp (l : List FVal) : Int :=
  l.foldl (fun k x => match x with | .fin _ _ e => min k e | _ => k) 0

/-- The exact sum of values (R310): NaN from NaN or from both infinities; a zero sum is -0 only when every term is -0. -/
def sumExact (l : List FVal) : FVal :=
  if l.contains .nan || (l.contains (.inf true) && l.contains (.inf false)) then .nan
  else if l.contains (.inf true) then .inf true
  else if l.contains (.inf false) then .inf false
  else
    let k := leastExp l
    let i : Int := (l.map fun x => x.at k).sum
    if i = 0 then .fin (!l.isEmpty && l.all FVal.neg) 0 0 else .fin (decide (i < 0)) i.natAbs k

/-- The exact product (R310): NaN from NaN or from zero and infinity. -/
def mulExact : FVal → FVal → FVal
  | .nan, _ => .nan
  | _, .nan => .nan
  | .inf a, .inf b => .inf (a != b)
  | .inf a, .fin b m _ => if m = 0 then .nan else .inf (a != b)
  | .fin a m _, .inf b => if m = 0 then .nan else .inf (a != b)
  | .fin a m e, .fin b m' e' => .fin (a != b) (m * m') (e + e')

/-- The value with its sign turned. -/
def FVal.negate : FVal → FVal
  | .nan => .nan
  | .inf n => .inf (!n)
  | .fin n m e => .fin (!n) m e

/-- FP32 addition, subtraction, multiplication and fused multiplication with addition, each rounded once (R315). -/
def addF (a b : FVal) : FVal := rne32 (sumExact [a, b])
def subF (a b : FVal) : FVal := rne32 (sumExact [a, b.negate])
def mulF (a b : FVal) : FVal := rne32 (mulExact a b)
def fmaF (a b c : FVal) : FVal := rne32 (sumExact [mulExact a b, c])

/-- a ranks below b, -0 below +0 (R316); neither is NaN. -/
def FVal.lt : FVal → FVal → Bool
  | .inf true, b => decide (b ≠ .inf true)
  | _, .inf true => false
  | .inf false, _ => false
  | _, .inf false => true
  | .fin n m e, .fin n' m' e' =>
    if n != n' then n
    else if n then !magLe m e m' e' else !magLe m' e' m e
  | _, _ => false

/-- Maximum and minimum (R316). -/
def maxF (a b : FVal) : FVal := if a = .nan then b else if b = .nan then a else if a.lt b then b else a
def minF (a b : FVal) : FVal := if a = .nan then b else if b = .nan then a else if b.lt a then b else a

/-- Equal as numbers: the two zeros are. -/
def FVal.eqNum (a b : FVal) : Bool :=
  match a, b with
  | .fin n m e, .fin n' m' e' => (m == 0 && m' == 0) || (n == n' && magLe m e m' e' && magLe m' e' m e)
  | a, b => a = b

/-- The sum of values by FP32 additions in an order that the spec leaves open: free picks choose what is added to what (log entry 31). -/
def sumFree (pick : Nat → Nat) : Nat → List FVal → FVal
  | 0, l => l.getD 0 (.fin false 0 0)
  | n + 1, l =>
    match l with
    | [] => .fin false 0 0
    | [x] => x
    | x :: r =>
      let i := pick n % r.length
      sumFree pick n (r.eraseIdx i ++ [addF x (r.getD i (.fin false 0 0))])

/-! ### Special functions (R317) -/

/-- Fraction bits of the fixed-point approximations. -/
def fxBits : Nat := 96

/-- One in fixed point. -/
def fxOne : Int := 2 ^ fxBits

/-- ln 2, 1 / ln 2 and 2 / √π in fixed point. -/
def fxLn2 : Int := 54916777467707473351141471128
def fxLog2e : Int := 114302077158074026402637675936
def fxErf : Int := 89399408028353504598410466558

/-- Product in fixed point. -/
def fxMul (a b : Int) : Int := a * b / fxOne

/-- exp of a fixed-point number from 0 to 1, by its series: terms left, index, term. -/
def fxExp (y : Int) : Nat → Int → Int → Int
  | 0, _, _ => 0
  | n + 1, k, t => t + fxExp y n (k + 1) (fxMul t y / k)

/-- 2 to a fixed-point power: mantissa in fixed point and exponent. -/
def fxExp2 (x : Int) : Int × Int := (fxExp (fxMul (x % fxOne) fxLn2) 40 1 fxOne, x / fxOne)

/-- The series of the inverse hyperbolic tangent of z: terms left, index, power of z. -/
def fxAtanh (z2 : Int) : Nat → Int → Int → Int
  | 0, _, _ => 0
  | n + 1, k, p => p / k + fxAtanh z2 n (k + 2) (fxMul p z2)

/-- The series of erf without its factor: terms left, index, and plus or minus x^(2k+1) / k!. -/
def fxErfSum (x2 : Int) : Nat → Int → Int → Int
  | 0, _, _ => 0
  | n + 1, k, t => t / (2 * k + 1) + fxErfSum x2 n (k + 1) (-(fxMul t x2) / (k + 1))

/-- A finite value in fixed point, the bits below its last place cut off. -/
def toFx (m : Nat) (e : Int) : Int :=
  if 0 ≤ e + fxBits then (m : Int) * 2 ^ (e + fxBits).toNat else (m : Int) / 2 ^ (-(e + fxBits)).toNat

/-- A fixed-point number as a value. -/
def ofFx (neg : Bool) (i k : Int) : FVal := .fin neg i.toNat (k - fxBits)

/-- Approximations, to better than 2^-40 of an ulp, of the functions of R317 at a finite argument above 0 in magnitude. -/
def approxExp2 (neg : Bool) (m : Nat) (e : Int) : FVal :=
  let x := if neg then -(toFx m e) else toFx m e
  ofFx false (fxExp2 x).1 (fxExp2 x).2

def approxLog2 (m : Nat) (e : Int) : FVal :=
  let l := Nat.log2 m
  let q : Int := (m : Int) * fxOne / 2 ^ l
  let z := (q - fxOne) * fxOne / (q + fxOne)
  let v := fxMul (2 * fxAtanh (fxMul z z) 48 1 z) fxLog2e + ((l : Int) + e) * fxOne
  ofFx (decide (v < 0)) v.natAbs 0

def approxRcp (neg : Bool) (m : Nat) (e : Int) : FVal :=
  .fin neg (2 ^ (fxBits + Nat.log2 m) / m) (-e - fxBits - Nat.log2 m)

def approxRsqrt (m : Nat) (e : Int) : FVal :=
  let odd := e % 2
  let m' := m * 2 ^ odd.toNat
  let q := fxBits + Nat.log2 m'
  .fin false (Nat.sqrt (2 ^ (2 * q) / m')) (-((e - odd) / 2) - q)

def approxTanh (neg : Bool) (m : Nat) (e : Int) : FVal :=
  if magLe 16 0 m e then .fin neg 1 0
  else
    let p := fxExp2 (fxMul (2 * toFx m e) fxLog2e)
    let x := p.1 * 2 ^ p.2.toNat
    ofFx neg ((x - fxOne) * fxOne / (x + fxOne)) 0

def approxErf (neg : Bool) (m : Nat) (e : Int) : FVal :=
  if magLe 6 0 m e then .fin neg 1 0
  else
    let x := toFx m e
    ofFx neg (fxMul fxErf (fxErfSum (fxMul x x) 160 0 x)) 0

/-- |a - b| is at most b' × 2^k, with a margin of 2^-20 of the bound for the approximation (log entry 30). -/
def within (a b : FVal) (n : Nat) (k : Int) : Bool :=
  match sumExact [a, b.negate] with
  | .fin _ m e => magLe (m * 2 ^ 20) e (n * (2 ^ 20 + 1)) k
  | _ => false

/-- An FP32 result near an approximation: any value within n ulp, or within 2^k where an absolute bound is given; a result that is not normal has no bound (R317; log entry 30). -/
def nearResult (x : FVal) (n : Nat) (absolute : Option Int) (free : Nat) : FVal :=
  match x with
  | .fin _ m e =>
    let cand := fp32.num (free % 2 ^ 32)
    if m = 0 ∨ leadExp m e < -126 ∨ fp32.maxCode < fp32.magCode 0 0 m e then cand
    else if within cand x n (fp32.unit m e)
        || (match absolute with | some k => within cand x 1 k | none => false) then cand
    else rne32 x
  | y => y

/-- The special functions of R317, in their opcode order. -/
inductive Fn where
  | exp2 | log2 | rcp | rsqrt | tanh | erf
  deriving DecidableEq, Repr

/-- A value with |x| at most m × 2^e. -/
def FVal.magLe (x : FVal) (m : Nat) (e : Int) : Bool := Machine.magLe x.mag.1 x.mag.2 m e

/-- A special function in FP32 (R317). -/
def Fn.eval (f : Fn) (x : FVal) (free : Nat) : FVal :=
  match f, x with
  | _, .nan => .nan
  | .exp2, .inf n => if n then .fin false 0 0 else .inf false
  | .exp2, .fin n m e =>
    if m = 0 then nearResult (.fin false 1 0) 2 none free
    else if !n && Machine.magLe 128 0 m e then .inf false
    else if n && Machine.magLe 150 0 m e then .fin false 0 0
    else nearResult (approxExp2 n m e) 2 none free
  | .log2, .inf n => if n then .nan else .inf false
  | .log2, .fin n m e =>
    if m = 0 then .inf true
    else if n then .nan
    else nearResult (approxLog2 m e) 2 (if Machine.magLe 1 (-1) m e && Machine.magLe m e 2 0 then some (-22) else none) free
  | .rcp, .inf n => .fin n 0 0
  | .rcp, .fin n m e => if m = 0 then .inf n else nearResult (approxRcp n m e) 1 none free
  | .rsqrt, .inf n => if n then .nan else .fin false 0 0
  | .rsqrt, .fin n m e => if m = 0 then .inf n else if n then .nan else nearResult (approxRsqrt m e) 2 none free
  | .tanh, .inf n => .fin n 1 0
  | .tanh, .fin n m e =>
    if m = 0 then .fin n 0 0
    else nearResult (approxTanh n m e) 3 (if Machine.magLe 1 (-4) m e then none else some (-24)) free
  | .erf, .inf n => .fin n 1 0
  | .erf, .fin n m e =>
    if m = 0 then .fin n 0 0
    else nearResult (approxErf n m e) 3 (if Machine.magLe 1 (-4) m e then none else some (-24)) free

end Sys2Proof.Machine
end

