-- ==== Sys2Proof/Machine/Memory.lean ====
section
/-! DEFINITION. The local address map, the address hash, bytes and poison as stations and engines reach them, the merge
queues, and what atomics and reductions do to bytes (06, and R224 to R244 of 07). -/

namespace Sys2Proof.Machine

open Sys2Proof

/-! ### The local address map (R190, R191, R192) -/

/-- What a local address names (R190). -/
inductive Place where
  | hbm (a : Nat)
  | kd (n off : Nat)
  | sp (c off : Nat)
  | sheaf (off : Nat)
  | reg (off : Nat)
  | none
  deriving DecidableEq, Repr

def hbmEnd : Nat := 0xC * 2 ^ 36
def kdBase : Nat := 2 ^ 40
def spBase : Nat := 2 ^ 41
def sheafBase : Nat := 3 * 2 ^ 40
def regBase : Nat := 15 * 2 ^ 40
def kdWindow : Nat := 2 ^ 31
def spWindow : Nat := 2 ^ 24

/-- Base of a core's scratchpad window, B0 of its contexts (R190, R267). -/
def spOf (c : Nat) : Nat := spBase + spWindow * c

/-- The decoding of a local address (R190). -/
def placeOf (a : Nat) : Place :=
  if a < hbmEnd then .hbm a
  else if kdBase ≤ a ∧ a < kdBase + 8 * kdWindow then .kd ((a - kdBase) / kdWindow) ((a - kdBase) % kdWindow)
  else if spBase ≤ a ∧ a < spBase + 64 * spWindow then .sp ((a - spBase) / spWindow) ((a - spBase) % spWindow)
  else if sheafBase ≤ a ∧ a < sheafBase + 2 ^ 16 then .sheaf (a - sheafBase)
  else if regBase ≤ a ∧ a < regBase + 2 ^ 32 then .reg (a - regBase)
  else .none

/-- End of the range or window that holds an address (R192). -/
def rangeEnd (a : Nat) : Nat :=
  match placeOf a with
  | .hbm _ => hbmEnd
  | .kd n _ => kdBase + (n + 1) * kdWindow
  | .sp c _ => spBase + (c + 1) * spWindow
  | .sheaf _ => sheafBase + 2 ^ 16
  | .reg _ => regBase + 2 ^ 32
  | .none => a

/-- Size of a scratchpad (R190). -/
def spSize : Nat := 0xC00000

/-! ### The address hash (R199) -/

/-- XOR of the bits of x at the positions congruent to b modulo w. -/
def foldBit (x w b : Nat) : Bool := (List.range 24).foldl (fun r i => if i % w == b then r != bit x i else r) false

/-- fold(x, w) of R199. -/
def fold (x w : Nat) : Nat := ((List.range w).map fun b => if foldBit x w b then 2 ^ b else 0).sum

/-- Bits set in a number below 2^64. -/
def popcount (x : Nat) : Nat := ((List.range 64).filter (bit x)).length

/-- Memory stations of a layout, lowest first. -/
def HashCfg.stations (h : HashCfg) : List Nat := (List.range 4).filter fun k => h.msmask.getLsbD k

/-- STKSEL field of a memory station. -/
def HashCfg.sel (h : HashCfg) (k : Nat) : Nat := bits h.stksel.toNat (2 * k + 1) (2 * k)

/-- Every set memory station uses its three stacks (R199). -/
def HashCfg.full (h : HashCfg) : Bool := h.stations.all fun k => h.sel k == 3

/-- Capacity of the layout in bytes (R199). -/
def HashCfg.capacity (h : HashCfg) : Nat := h.stations.length * (if h.full then 3 else 1) * 2 ^ 36

/-- Memory station, stack, pseudo-channel and byte within it of an HBM address below the capacity (R199). -/
def HashCfg.line (h : HashCfg) (addr : Nat) : Nat × Nat × Nat × Nat :=
  let a := Nat.log2 h.stations.length
  let t := addr / 2 ^ (36 + a)
  let r := addr % 2 ^ (36 + a)
  let off := r % 256
  let lin := r / 256 % 16
  let j := r / 4096 % 2 ^ a
  let u := r / 2 ^ (12 + a) % 2 ^ 24
  let key := h.key.toNat
  let j := j ^^^ fold (u &&& key % 2 ^ 24) a
  let pcl := lin ^^^ fold (u &&& key / 2 ^ 24 % 2 ^ 24) 4
  let pch := u % 4
  let m := h.stations.getD j 0
  let s := if h.full then (t + pch + popcount (u % 2 ^ 16 &&& key / 2 ^ 48)) % 3 else h.sel m
  (m, 3 * m + s, pch * 16 + pcl, u / 4 * 256 + off)

/-! ### Cache-die windows (R206) -/

/-- KD_REMAP entry of a logical slice: ROWBASE and PSLICE, direct at reset (R207, R221). -/
def CacheDie.remapAt (k : CacheDie) (i : Nat) : Nat × Nat := tget k.remap (0, i) i

/-- Physical place of a mapped offset of a cache-die window; none for an unmapped one (R206). -/
def State.kdMap (s : State) (n off : Nat) : Option Nat :=
  let k := s.kd n
  let e := k.remapAt (off / 128 % 64)
  if off < k.addr * 2 ^ 28 ∧ k.fenced.getLsbD e.2 = false then
    some (kdPlace n e.2 (e.1 * 32768 + off / 8192) (off % 128)
      + kdEra * max (tget k.sliceEra 0 (off / 128 % 64)) (tget k.unitEra 0 (off / 2 ^ 28)))
  else none

/-! ### Access checks (R191, R192, R201, R229) -/

/-- A byte at this address lies in a hole (R191). -/
def State.isHole (s : State) (a : Nat) : Bool :=
  match placeOf a with
  | .hbm x => s.hash.bolt && decide (s.hash.capacity ≤ x)
  | .kd n off => (s.kdMap n off).isNone
  | .sp _ off => decide (spSize ≤ off)
  | .none => true
  | _ => false

/-- A hole access: its first byte or a later byte of its range lies in a hole (R191). -/
def State.holeAccess (s : State) (a n : Nat) : Bool :=
  s.isHole a || (List.range (min n (rangeEnd a - a))).any fun i => s.isHole (a + i)

/-- The range checks of an access, in the order of R229: hole, then the end of its range. -/
def State.rangeStatus (s : State) (a n : Nat) : Option Status :=
  if s.holeAccess a n then some .notPresent
  else if rangeEnd a < a + n then some .outOfRange
  else none

/-- An HBM access before the layout is bolted (R201). -/
def State.unbolted (s : State) (a : Nat) : Bool :=
  match placeOf a with
  | .hbm _ => !s.hash.bolt
  | _ => false

/-- Station that performs an operation at a local address; none for register space and holes (R228). -/
def State.performer (s : State) (a : Nat) : Option Nat :=
  match placeOf a with
  | .hbm x => some (8 + (s.hash.line x).1)
  | .kd n _ => some n
  | .sp c _ => some (c / 8)
  | _ => none

/-- Physical place of the byte at a local address. -/
def State.phys (s : State) (a : Nat) : Option Nat :=
  match placeOf a with
  | .hbm x =>
    if s.hash.bolt ∧ x < s.hash.capacity then
      let l := s.hash.line x
      some (hbmPlace l.2.1 l.2.2.1 l.2.2.2)
    else none
  | .kd n off => s.kdMap n off
  | .sp c off => if off < spSize then some (spPlace c off) else none
  | _ => none

/-- The memory of an address is dead: its stack has left service or never entered it, or its cache die has halted (R198, R254, R448). -/
def State.deadMem (s : State) (a : Nat) : Bool :=
  match placeOf a with
  | .hbm x => s.hash.bolt && !s.stackReady (s.hash.line x).2.1
  | .kd n _ => (s.kd n).halted
  | _ => false

/-! ### Poison (R204, R252) -/

/-- Byte of the poison value at an address (R252). -/
def poisonByte (a : Nat) : Byte := ([0xAD, 0xDE, 0xF0, 0xFF] : List Byte).getD (a % 4) 0

/-- n bytes of the poison value from an address on. -/
def poisonBytes (a n : Nat) : List Byte := (List.range n).map fun i => poisonByte (a + i)

/-- First addresses of the 64 B blocks that an access touches, and how many bytes of each. -/
def blocksOf (a n : Nat) : List (Nat × Nat) :=
  if n = 0 then []
  else (List.range ((a + n - 1) / 64 + 1 - a / 64)).map fun i =>
    let b := max a ((a / 64 + i) * 64)
    (b, min (a + n) ((a / 64 + i + 1) * 64) - b)

/-! ### Merge queues (R243, R244) -/

/-- The open block of a station's merge queue at a physical place. -/
def State.openBlock (s : State) (st p : Nat) : Option MergeBlk := (s.sta st).merge.find? fun b => b.blk == p / 64

/-- A block leaves the queue and is written back (R243). -/
def State.writeBack (s : State) (st : Nat) (b : MergeBlk) : State :=
  let s1 := each b.bytes (fun e s => { s with mem := s.mem.wr (b.blk * 64 + e.1) e.2 }) s
  let s2 := s1.when b.poisonSet fun s => s.setPoison (b.blk * 64) b.poison
  s2.modSta st fun x => { x with merge := x.merge.filter fun y => y.blk != b.blk }

/-- A block opened, or moved to the place touched last; with 256 open the one touched least recently leaves (R243). -/
def State.touchBlock (s : State) (st p : Nat) (f : MergeBlk → MergeBlk) : State :=
  let q := (s.sta st).merge
  let b := f ((s.openBlock st p).getD { blk := p / 64, bytes := [], past := [], poison := false, poisonSet := false })
  let rest := q.filter fun y => y.blk != p / 64
  let s1 := match rest.getLast? with
    | some old => if 256 ≤ rest.length then s.writeBack st old else s
    | none => s
  s1.modSta st fun x =>
    let q' := b :: x.merge.filter fun y => y.blk != p / 64
    { x with merge := q', mergePeak := max x.mergePeak q'.length }

/-- One byte as the station performs on it. -/
def State.stByte (s : State) (st p : Nat) : Byte :=
  match s.openBlock st p with
  | some b => tget b.bytes (s.mem.rd p) (p % 64)
  | none => s.mem.rd p

/-- Whether a block is poisoned as the station performs on it. -/
def State.stPoison (s : State) (st p : Nat) : Bool :=
  match s.openBlock st p with
  | some b => if b.poisonSet then b.poison else s.mem.isPoison p
  | none => s.mem.isPoison p

/-- Bytes of one block as a read returns them: the poison value of a poisoned block (R204). -/
def State.stReadBlock (s : State) (st a n : Nat) : List Byte :=
  match s.phys a with
  | some p => if s.stPoison st p then poisonBytes a n else (List.range n).map fun i => s.stByte st (p + i)
  | none => poisonBytes a n

/-- Bytes of an access, block by block, and whether one of the blocks is poisoned (R204, R230, R235). -/
def State.stRead (s : State) (st a n : Nat) : List Byte × Bool :=
  ((blocksOf a n).flatMap fun b => s.stReadBlock st b.1 b.2,
    (blocksOf a n).any fun b => match s.phys b.1 with | some p => s.stPoison st p | none => false)

/-- MEM_UE: a memory station has poisoned a block and records its HBM address (R203, R220). -/
def State.memUe (s : State) (a : Nat) : State :=
  match placeOf a with
  | .hbm x =>
    let k := (s.hash.line x).1
    (s.modMs k fun m => { m with ueAddr := a / 64 * 64, ueValid := true }).raise (ntMemUe k)
  | _ => s

/-! ### Words and blocks that a read finds bad (R202, R203, R214, R219) -/

/-- A block becomes poison where a read finds it so: in the merge queue when it is open, else in the memory (R203, R243). -/
def State.markBlock (s : State) (st p : Nat) : State :=
  if (s.openBlock st p).isSome then
    s.modSta st fun x => { x with merge := x.merge.map fun b =>
      if b.blk == p / 64 then { b with poison := true, poisonSet := true } else b }
  else s.setPoison (p / 64 * 64) true

/-- A read of a cache die finds bad bits in a word: one is corrected and counted, more poison the half-line and raise KD_UE (R214, R221). -/
def State.kdBad (s : State) (n bad : Nat) (poison : State → State) : State :=
  if bad = 0 then s
  else if bad = 1 then s.modKd n fun k => { k with ce := inc 16 k.ce }
  else ((poison s).modKd n fun k => { k with ue := inc 16 k.ue }).raise (ntKdUe n)

/-- A read of a scratchpad finds bad bits in a word: one is corrected and counted, more poison the row and raise SP_UE (R219, R222). -/
def State.spBad (s : State) (c bad : Nat) (poison : State → State) : State :=
  if bad = 0 then s
  else if bad = 1 then s.modCore c fun u => { u with spCe := inc 16 u.spCe }
  else ((poison s).modCore c fun u => { u with spUe := inc 16 u.spUe }).raise (ntSpUe (coreDie c))

/-- A read of HBM finds bad symbols in a block: one is corrected and counted, more poison the block and raise MEM_UE (R202, R203, R220). -/
def State.hbmBad (s : State) (a bad : Nat) (poison : State → State) : State :=
  let k := match placeOf a with
    | .hbm x => (s.hash.line x).1
    | _ => 0
  if bad = 0 then s
  else if bad = 1 then s.modMs k fun m => { m with ce := inc 16 m.ce }
  else ((poison s).modMs k fun m => { m with ue := inc 16 m.ue }).memUe a

/-- A station reads the block at a local address, and finds so many bad symbols or bits in it; a block that is poison already is read as that (R202, R203, R214, R219; log entry 79). -/
def State.eccBlock (s : State) (st a bad : Nat) : State :=
  match s.phys a with
  | none => s
  | some p =>
    if s.stPoison st p then s
    else match placeOf a with
      | .hbm _ => s.hbmBad a bad fun s => s.markBlock st p
      | .kd n _ => s.kdBad n bad fun s => s.markBlock st p
      | .sp c _ => s.spBad c bad fun s => s.markBlock st p
      | _ => s

/-- A station reads the blocks of an access, each with the bad symbols or bits that the read finds in it, none where the list has ended (R202). -/
def State.eccSpan (s : State) (st a n : Nat) (bad : List Nat) : State :=
  each (blocksOf a n).zipIdx (fun x s => s.eccBlock st x.1.1 (bad.getD x.2 0)) s

/-- A store reads only the blocks of which it writes a part (R202, R204). -/
def State.eccParts (s : State) (st a n : Nat) (bad : List Nat) : State :=
  each ((blocksOf a n).zipIdx.filter fun x => decide (x.1.2 < 64)) (fun x s => s.eccBlock st x.1.1 (bad.getD x.2 0)) s

/-- A byte of an open block takes a value; the one it had there is kept beside it (R619). -/
def MergeBlk.put (b : MergeBlk) (i : Nat) (v : Byte) : MergeBlk :=
  { b with
    bytes := tins (tdel b.bytes i) i v
    past := match b.bytes.find? fun e => e.1 == i with
      | some e => tmod b.past [] i fun l => if l.contains e.2 then l else e.2 :: l
      | none => b.past }

/-- New bytes for one block, and what they do to its poison: none leaves it (R203, R204). -/
def State.stWriteBlock (s : State) (st a : Nat) (l : List Byte) (pois : Option Bool) : State :=
  match s.phys a with
  | none => s
  | some p =>
    let s1 := s.touchBlock st p fun b =>
      { (l.zipIdx.foldl (fun b e => b.put ((p + e.2) % 64) e.1) b) with
        poison := pois.getD b.poison
        poisonSet := b.poisonSet || pois.isSome }
    if pois = some true then s1.memUe a else s1

/-- Poison after a store to one block: set by a poisoned packet, cleared when all 64 B are written, else as it was (R203, R204, R235). -/
def storePoison (poisoned : Bool) (n : Nat) : Option Bool :=
  if poisoned then some true else if n = 64 then some false else none

/-- A store by a station (R230, R235). -/
def State.stWrite (s : State) (st a : Nat) (l : List Byte) (poisoned : Bool) : State :=
  each (blocksOf a l.length) (fun b s =>
    s.stWriteBlock st b.1 (sliceB l (b.1 - a) b.2) (storePoison poisoned b.2)) s

/-- A reduction or an atomic leaves a block poisoned: it stays or becomes so (R235). -/
def State.stPoisonBlocks (s : State) (st a n : Nat) : State :=
  each (blocksOf a n) (fun b s => s.stWriteBlock st b.1 [] (some true)) s

/-! ### Scratchpad and memory beside a station (R216, R219, R234) -/

/-- Poison of the 64 B rows an access of an own scratchpad touches (R219, R297). -/
def State.spPoison (s : State) (c off n : Nat) : Bool :=
  (blocksOf (spPlace c off) n).any fun b => s.mem.isPoison b.1

/-- Bytes of a scratchpad on the core side. -/
def State.spRead (s : State) (c off n : Nat) : List Byte := s.rdMem (spPlace c off) n

/-- A write into a scratchpad: a whole row written without poison clears its bit, poison sets it (R219, R297). -/
def State.spWrite (s : State) (c off : Nat) (l : List Byte) (poisoned : Bool) : State :=
  each (blocksOf (spPlace c off) l.length) (fun b s =>
    if poisoned then s.setPoison b.1 true else if b.2 = 64 then s.setPoison b.1 false else s)
    (s.wrMem (spPlace c off) l)

/-- The blocks that an access touches leave the merge queue of a station. -/
def State.closeBlocks (s : State) (st a n : Nat) : State :=
  each (blocksOf a n) (fun b s => match s.phys b.1 with
    | some p => match s.openBlock st p with
      | some m => s.writeBack st m
      | none => s
    | none => s) s

/-- The issuing station writes reply data at RETADDR, in the memory itself; an open block there is written back first (R226; log entry 33). -/
def State.fabWrite (s : State) (a : Nat) (l : List Byte) (poisoned : Bool) : State :=
  match placeOf a with
  | .sp c off =>
    if off + l.length ≤ spSize then (s.closeBlocks (c / 8) a l.length).spWrite c off l poisoned else s
  | _ => s

/-! ### Atomics and reductions on bytes (R231, R232) -/

/-- Lanes of w bytes combined one by one. -/
def lanes (w : Nat) (f : Nat → Nat → Nat) : Nat → List Byte → List Byte → List Byte
  | 0, _, _ => []
  | n + 1, a, b => leBytes w (f (fieldB a 0 w) (fieldB b 0 w) % 2 ^ (8 * w)) ++ lanes w f n (a.drop w) (b.drop w)

/-- A floating-point operation on codes of a format, rounded once to it. -/
def fpCodes (f : FloatFmt) (g : FVal → FVal → FVal) (a b : Nat) : Nat := (f.conv 0 false 0 (g (f.num a) (f.num b))).1

/-- Signed minimum and maximum of codes of w bits. -/
def minS (w a b : Nat) : Nat := if intNum w a ≤ intNum w b then a else b
def maxS (w a b : Nat) : Nat := if intNum w a ≤ intNum w b then b else a

/-- Opcodes of atomics and what they are: op 0 to 8 and size 4, 8 or 16 (R224). -/
def atomicOf (op : Nat) : Option (Nat × Nat) :=
  if 0x20 ≤ op ∧ op ≤ 0x3A then some ((op - 0x20) / 3, 4 * 2 ^ ((op - 0x20) % 3)) else none

/-- Payload length of an atomic: two 8 B words and its operand, doubled for CAS (R224). -/
def atomicLen (k size : Nat) : Nat := 16 + (if k == 0 then 2 else 1) * size

/-- What memory becomes under an atomic (R231). -/
def atomicNew (k size : Nat) (old operand : List Byte) : List Byte :=
  let intW := if size == 4 then 4 else 8
  let n := size / intW
  match k with
  | 0 => if old = operand.take size then sliceB operand size size else old
  | 1 => operand
  | 2 => lanes intW (· + ·) n old operand
  | 3 => lanes 1 (· &&& ·) size old operand
  | 4 => lanes 1 (· ||| ·) size old operand
  | 5 => lanes 1 (· ^^^ ·) size old operand
  | 6 => lanes 4 (fpCodes fp32 fun a b => sumExact [a, b]) (size / 4) old operand
  | 7 => lanes 4 (fpCodes fp32 minF) (size / 4) old operand
  | _ => lanes 4 (fpCodes fp32 maxF) (size / 4) old operand

/-- Element size in bytes of a reduction opcode; none for an opcode that is not one (R224, R232). -/
def redSize (op : Nat) : Option Nat :=
  if 0x58 ≤ op ∧ op ≤ 0x5A then some 1
  else if (0x40 ≤ op ∧ op ≤ 0x44) ∨ (0x48 ≤ op ∧ op ≤ 0x4C) ∨ (0x50 ≤ op ∧ op ≤ 0x54) then
    some (([4, 2, 2, 4, 8] : List Nat).getD (op % 8) 1)
  else none

/-- How a reduction combines an element of memory with one of its payload (R232). -/
def redElem (op a b : Nat) : Nat :=
  let t := op % 8
  let w := 8 * ([4, 2, 2, 4, 8] : List Nat).getD t 1
  let fmt := if t == 0 then fp32 else if t == 1 then bf16 else fp16
  if 0x58 ≤ op then (if op == 0x58 then a &&& b else if op == 0x59 then a ||| b else a ^^^ b)
  else if op < 0x48 then (if t ≤ 2 then fpCodes fmt (fun x y => sumExact [x, y]) a b else a + b)
  else if op < 0x50 then (if t ≤ 2 then fpCodes fmt minF a b else minS w a b)
  else (if t ≤ 2 then fpCodes fmt maxF a b else maxS w a b)

/-- What memory becomes under a reduction (R232). -/
def redNew (op : Nat) (old payload : List Byte) : List Byte :=
  let w := (redSize op).getD 1
  lanes w (redElem op) (payload.length / w) old payload

/-- The checks of R229 after the range checks: length, alignment, what the space accepts, and the bolt. A packet with XT 1 or SYS 1 does not reach register space (R228). -/
def State.formStatus (s : State) (op a len rlen : Nat) (outside : Bool) : Option Status :=
  let badLen :=
    if op == 0x01 then len != 8 || rlen == 0 || decide (4096 < rlen)
    else if op == 0x10 || op == 0x60 then len == 0
    else match atomicOf op with
      | some (k, size) => len != atomicLen k size
      | none => len == 0
  let badAlign := match atomicOf op with
    | some (_, size) => a % size != 0
    | none => match redSize op with
      | some w => a % w != 0 || len % w != 0
      | none => false
  let small := (op == 0x01 && rlen == 4 || op == 0x10 && len == 4) && a % 4 == 0
  let badSpace := match placeOf a with
    | .sheaf _ => !small
    | .reg _ => !small || outside
    | _ => false
  let badMc := op == 0x60 && match placeOf a with
    | .kd _ _ => false
    | .sp _ _ => false
    | _ => true
  firstFail [(badLen, .badField), (badAlign, .badField), (badSpace, .badField), (badMc, .badField),
    (s.unbolted a, .wrongState)]

/-- Bytes that an operation touches at its address: RLEN of a load, the size of an atomic, else LEN (R229). -/
def opSpan (op len rlen : Nat) : Nat :=
  if op == 0x01 then rlen else match atomicOf op with
    | some (_, size) => size
    | none => len

/-- The condition of R229 that an operation meets, if any. -/
def State.opStatus (s : State) (op a len rlen : Nat) (outside : Bool) : Option Status :=
  match s.rangeStatus a (opSpan op len rlen) with
  | some st => some st
  | none => s.formStatus op a len rlen outside

end Sys2Proof.Machine
end

