-- ==== Sys2Proof/Machine/Context.lean ====
section
/-! DEFINITION. Descriptors and contexts as every part of a core uses them: fields of a descriptor, a context's states and
faults, token signals (R265, R273, R277 to R280). -/

namespace Sys2Proof.Machine

open Sys2Proof

/-! ### Descriptors (R273) -/

/-- n bytes of a descriptor from byte i, as a number. -/
def dB (d : BitVec 256) (i n : Nat) : Nat := bits d.toNat (8 * (i + n) - 1) (8 * i)

def dOp (d : BitVec 256) : Nat := dB d 0 1
def dEng (d : BitVec 256) : Nat := bits (dB d 1 1) 7 5
def dWbank (d : BitVec 256) : Nat := bits (dB d 1 1) 4 3
def dHint (d : BitVec 256) : Nat := bits (dB d 1 1) 1 0
def dWait (d : BitVec 256) : Nat := dB d 2 2
def dSig (d : BitVec 256) : BitVec 16 := BitVec.ofNat 16 (dB d 4 2)

/-- Tokens that a descriptor waits for (R273, R279). -/
def dTokens (d : BitVec 256) : List Nat :=
  ((List.range 16).filter fun i => bit (dWait d) i).map fun i => 16 * dWbank d + i

/-- A signed number of w bits. -/
def sNat (w n : Nat) : Int := if bit n (w - 1) then (n : Int) - 2 ^ w else n

/-! ### Contexts -/

/-- Contexts of a core in a state. -/
def State.ctxsIn (s : State) (c : Nat) (x : CtxState) : List Nat :=
  (List.range 16).filter fun i => decide ((s.ctx c i).state = x)

/-- A context takes a state; CTX_FAULT and CTX_PAUSE follow it (R459). -/
def State.setCtx (s : State) (c x : Nat) (st : CtxState) (why : Why) : State :=
  let s1 := s.modCtx c x fun t => { t with state := st, why := why }
  (s1.sense (ntCtxFault c) s).sense (ntCtxPause c) s

/-- CORE_SEQFAULT as a fault or a descriptor completed with BAD_FIELD leaves it (R302). -/
def seqFaultWord (ctx cause eng op : Nat) (st : Status) : W32 :=
  BitVec.ofNat 32 (2 ^ 31 + ctx * 2 ^ 27 + cause * 2 ^ 23 + eng * 2 ^ 20 + op * 2 ^ 12 + st.code)

/-- Record a fault in CORE_SEQFAULT (R277, R620). -/
def State.seqRecord (s : State) (c x cause eng op : Nat) (st : Status) : State :=
  s.modCore c fun u => { u with seqFault := seqFaultWord x cause eng op st }

/-- A context faults: it is recorded, and the context enters FAULT unless it is idle or being stopped (R277; log entry 34). -/
def State.ctxFault (s : State) (c x cause eng op : Nat) (st : Status) : State :=
  let s1 := s.seqRecord c x cause eng op st
  if (s.ctx c x).state = .idle ∨ (s.ctx c x).state = .stopping then s1 else s1.setCtx c x .fault .none

/-- The highest-ranked status of a context since its launch (R269). -/
def State.ctxWorst (s : State) (c x : Nat) (st : Status) : State :=
  s.modCtx c x fun t => { t with worst := t.worst.worse st }

/-! ### Tokens (R278 to R280) -/

/-- Tokens of a mask all hold at least 1 (R279). -/
def State.tokensReady (s : State) (c : Nat) (l : List Nat) : Bool := l.all fun i => 1 ≤ s.token c i

/-- The tokens of a starting operation are taken (R279). -/
def State.takeTokens (s : State) (c : Nat) (l : List Nat) : State :=
  each l (fun i s => s.setToken c i (s.token c i - 1)) s

/-- A token rises by one; at 15 the signal is lost, counted, and faults the context it came from (R277, R280). -/
def State.bumpToken (s : State) (c : Nat) (m : MeshSignal) : State :=
  if s.token c m.token < 15 then s.setToken c m.token (s.token c m.token + 1)
  else (s.modCore c fun u => { u with tokOvf := inc 16 u.tokOvf }).ctxFault m.core m.ctx 5 m.eng m.opcode .outOfRange

/-- An operation with SV set completes: its token rises, or its signal sets out on the token mesh (R280). -/
def State.signal (s : State) (c x : Nat) (sig : BitVec 16) (eng op : Nat) : State :=
  let w := sig.toNat
  let m : MeshSignal := { token := bits w 5 0, core := c, ctx := x, eng := eng, opcode := op }
  if bit w 15 then
    if bit w 14 then s.modCore (c / 4 * 4 + bits w 13 12) fun u => { u with meshIn := u.meshIn ++ [m] }
    else s.bumpToken c m
  else s

/-- Descriptors of a context in the engine queues of its core (R299). -/
def State.queued (s : State) (c x : Nat) : Nat :=
  ((List.range 7).map fun e => ((s.eng c e).queue.filter fun q => q.ctx == x).length).sum

end Sys2Proof.Machine
end

