-- ==== Sys2Proof/Machine/Remote.lean ====
section
/-! DEFINITION. Credit, packets handed from station to station, the plat lookup and the way out of the device, cache lines,
and a remote operation from its issue to its completion (05, R206 to R214 of 06, 07). -/

namespace Sys2Proof.Machine

open Sys2Proof

/-! ### Credit (R167 to R174) -/

/-- Receive pool of a station in credits (R171). -/
def creditPool (reader : Nat) : Nat := if isXS reader then 16384 else 24576

/-- ALLOC of a reader for a writer and channel. -/
def State.alloc (s : State) (r w vc : Nat) : Nat := tget s.credit.alloc (allocDefault r w vc) (creditKey r w vc)

/-- PEND of a reader for a writer and channel. -/
def State.pendOf (s : State) (r w vc : Nat) : Nat := tget s.credit.pend 0 (creditKey r w vc)

/-- A reader returns credit: what PEND withholds first, the rest into its running total (R169, R172). -/
def State.returnCredit (s : State) (r w vc n : Nat) : State :=
  let k := creditKey r w vc
  let kept := min n (s.pendOf r w vc)
  let given := n - kept
  { s with credit := { s.credit with
      pend := tset s.credit.pend 0 k (s.pendOf r w vc - kept)
      total := if given = 0 then s.credit.total
        else tset s.credit.total 0 k (tget s.credit.total 0 k + BitVec.ofNat 16 given)
      owed := if given = 0 then s.credit.owed else tset s.credit.owed false k true } }

/-- The credit of a packet is freed at its reader; a packet that came by no lane group holds none (R169). -/
def State.freeCredit (s : State) (r w : Nat) (p : Packet) : State :=
  if w < nSt ∧ w ≠ r then s.returnCredit r w (hdr p).vc (pktCredits p) else s

/-- A channel from a writer to a reader is closed for a packet (R173). -/
def State.closed (s : State) (w rd vc : Nat) : Bool :=
  rd != w && (s.alloc rd w vc == 0 || ((vc == 0 || vc == 2) && s.alloc w rd 1 == 0))

/-! ### Packets between stations -/

/-- A station that readers and writers count on: in service and not halted (R44, R448). -/
def State.stServes (s : State) (st : Nat) : Bool := s.stUp st && !(s.sta st).halted

/-- A packet comes to a station's inbox, with the station it came from. -/
def State.deliver (s : State) (st w : Nat) (p : Packet) : State :=
  s.modSta st fun x => { x with inbox := x.inbox ++ [(w, p)] }

/-- Take the first packet of an inbox that fits; its credit is freed (R169). -/
def State.takeInbox (s : State) (st : Nat) (p : Packet → Bool) : Option ((Nat × Packet) × State) :=
  match (s.sta st).inbox.findIdx? fun e => p e.2 with
  | none => none
  | some i =>
    let e := (s.sta st).inbox.getD i (0, { hdr := 0, ext := 0, data := [] })
    some (e, (s.modSta st fun x => { x with inbox := x.inbox.eraseIdx i }).freeCredit st e.1 e.2)

/-- The exchange station by which a station's packets leave: by the parity of its ID, the other when that one is out of service (R616). -/
def State.xsFor (s : State) (st : Nat) : Option Nat :=
  if isXS st && s.stServes st then some st
  else
    let a := 12 + st % 2
    if s.stServes a then some a else if s.stServes (25 - a) then some (25 - a) else none

/-- Station of the unit that a packet's ISSUER names (R156). -/
def issuerStation (h : Hdr) : Nat := if h.sys then h.issuer / 64 else h.issuer / 128

/-- A reply by its opcode (R160). -/
def isReply (op : Nat) : Bool := decide (0x70 ≤ op) && decide (op ≤ 0x7F) || decide (0x90 ≤ op) && decide (op ≤ 0x9F)

/-- Station to which a unicast packet goes inside the package: its performer, its issuer, or the way out (R49, R228, R616). -/
def State.destStation (s : State) (w : Nat) (p : Packet) : Option Nat :=
  let h := hdr p
  if !s.isSelf h.dest then s.xsFor w
  else if isReply h.op then some (issuerStation h)
  else s.performer h.laddr

/-! ### The plat table and the way out (R149 to R151, R394, R395, R616) -/

/-- A reserved endpoint ID (R147). -/
def reservedId (e : Nat) : Bool := e % 2 ^ 16 == 0 || e % 2 ^ 16 == 0xFFFF

/-- The plat entry that matches an ID (R149, R448). -/
def State.platMatch (s : State) (e : Nat) : Option Nat :=
  let i := e % 2 ^ 16
  let w := (tget s.plat.entries 0 i).toNat
  if !reservedId e && bit w 63 && bits w 59 56 == e / 2 ^ 16 && !s.plat.bad.contains i then some w else none

/-- A port in service (R394); a port asleep wakes for a frame to send (R498). -/
def State.portServes (s : State) (p : Nat) : Bool :=
  let q := s.port p
  (decide (q.state = .up) || decide (q.state = .asleep)) && decide (q.sill = .up) && q.enable && !q.halted

/-- A port in service for an FDST (R394). -/
def State.pathServes (s : State) (p fdst : Nat) : Bool := s.portServes p && !(s.port p).failed.contains fdst

/-- Slot of the calendar at the port's time: slot n begins at n × 256 ns (R379). -/
def State.slotNow (s : State) : Nat := s.now.toNat * 5 / 1024

/-- The entry that a port uses in a slot; one with bad parity acts as QUIET (R379, R448). -/
def Port.entryAt (q : Port) (slot : Nat) : CalEntry :=
  if q.calBad.contains (slot % 4096) then { type := 0, dset := 0 }
  else
    let e := tget q.cal CalEntry.reset (slot % 4096)
    if e.type == 1 && q.dsetBad.contains e.dset then { type := 0, dset := 0 } else e

/-- Member index of an endpoint in the member table (R404). -/
def State.memberIndex (s : State) (e : Nat) : Option Nat :=
  (List.range 64).find? fun i => decide (tget s.group.members none i = some e)

/-- A port may send a frame for an FDST in a slot (R380, R385). -/
def State.slotUsable (s : State) (p slot fdst : Nat) : Bool :=
  let q := s.port p
  if q.p2p then true
  else
    let e := q.entryAt slot
    e.type == 2 || (e.type == 1 && match s.memberIndex fdst with
      | some i => (tget q.dsets 0 e.dset).getLsbD i
      | none => false)

/-- Slots until the next one usable for an FDST (R395). -/
def State.nextUsable (s : State) (p fdst : Nat) : Nat :=
  ((List.range 4096).find? fun k => s.slotUsable p (s.slotNow + 1 + k) fdst).getD 4096

/-- The output buffer of a packet that leaves by a port: the port's for its channel and hop class (R185). -/
def outKey (q : QPacket) : Nat := q.readers.headD 0 * 32 + (hdr q.pkt).vc % 8 * 4 + (hdr q.pkt).hc % 4

/-- Packets in the output buffers of a port (R185). -/
def State.outBuffers (s : State) (p : Nat) : List QPacket :=
  (s.ports.outq.filter fun e => e.1 / 32 == p).flatMap (·.2)

/-- A packet joins its output buffer (R185). -/
def State.outPut (s : State) (q : QPacket) : State :=
  { s with ports := { s.ports with outq := tmod s.ports.outq [] (outKey q) fun l => l ++ [q] } }

/-- A packet leaves its output buffer. -/
def State.outTake (s : State) (q : QPacket) : State :=
  { s with ports := { s.ports with outq := tmod s.ports.outq [] (outKey q) fun l => l.erase q } }

/-- Bytes queued at a port (R395). -/
def State.portQueued (s : State) (p : Nat) : Nat := ((s.outBuffers p).map fun q => pktBytes q.pkt).sum

/-- The port chosen among some: the soonest slot, then the fewest bytes queued, then the lowest number (R395). -/
def State.choosePort (s : State) (l : List Nat) (fdst : Nat) : Option Nat :=
  let score (p : Nat) : Nat := (s.nextUsable p fdst * 2 ^ 40 + s.portQueued p) * 16 + p
  l.foldl (fun b p => match b with
    | none => some p
    | some q => if score p < score q then some p else some q) none

/-- Port and FDST for a packet to an endpoint, or the status with which its operation ends (R151, R395). -/
def State.route (s : State) (e : Nat) : Status × Nat × Nat :=
  match s.platMatch e with
  | none => (.notPresent, 0, 0)
  | some w =>
    let fdst := if bit w 62 then bits w 55 36 else e
    let up (hi lo : Nat) : List Nat := (List.range 16).filter fun p => bit (bits w hi lo) p && s.pathServes p fdst
    let l := if (up 35 20).isEmpty then up 19 4 else up 35 20
    match s.choosePort l fdst with
    | none => (.pathLost, 0, 0)
    | some p => (.done, p, fdst)

/-- Stops from one stop to another clockwise (R70). -/
def cwHops (a b : Nat) : Nat := (b + ringStops - a) % ringStops

/-- A packet enters the port ring in class A and in the shorter direction, clockwise when they are equal (R72, R73). -/
def State.ringIn (s : State) (here dst src : Nat) (ft : W64) (q : QPacket) : State :=
  { s with fab := { s.fab with ring := s.fab.ring ++
      [{ here := here, dst := dst, clockwise := decide (2 * cwHops here dst ≤ ringStops), classB := false, src := src,
         ft := ft, q := q }] } }

/-- A packet of this device enters the port ring. -/
def State.ringSend (s : State) (here dst src : Nat) (q : QPacket) : State := s.ringIn here dst src s.now q

/-- A packet set on its way to a port, with the FDST its frame will carry. -/
def State.toPort (s : State) (here p fdst : Nat) (pkt : Packet) (op : Option Nat) : State :=
  s.ringSend here (portStop p) 16 { pkt := pkt, readers := [p, fdst], op := op }

/-- The extension of a packet that this device sends out (R158). -/
def State.ownExt (s : State) : BitVec 128 :=
  Ext.enc { src := s.selfId, epoch := s.group.epoch.toNat, sidx := s.group.sidx, gmask := 0 }

/-! ### Replies (R226) -/

/-- The reply to a request: its header fields follow the request's (R226). -/
def replyTo (p : Packet) (dest : Nat) (ext : BitVec 128) (op laddr : Nat) (data : List Byte) (st : Status)
    (poison : Bool) : Packet :=
  let h := hdr p
  { hdr := Hdr.enc { dest := dest, laddr := laddr, op := op, vc := (opVc op).getD 1, hc := 0, dmp := false
                     len := data.length, issuer := h.issuer, pseq := 0, xt := h.xt && dest != 0, poison := poison
                     retry := false, mcr := false, sys := h.sys, status := st.code }
    ext := ext, data := data }

/-- RETADDR of a load or an atomic (R225). -/
def retAddrOf (p : Packet) : Nat := fieldB p.data 0 8 % 2 ^ 44

/-- RLEN of a load (R225). -/
def rlenOf (p : Packet) : Nat := fieldB p.data 0 8 / 2 ^ 51

/-- FT0 of an atomic (R225). -/
def ft0Of (p : Packet) : W64 := BitVec.ofNat 64 (fieldB p.data 8 8)

/-- ASEQ of an atomic (R225). -/
def aseqOf (p : Packet) : BitVec 16 := BitVec.ofNat 16 (fieldB p.data 0 8 / 2 ^ 48)

/-- LADDR of a reply: RETADDR when it carries a result, else the request's (R226). -/
def replyLaddr (p : Packet) (op : Nat) : Nat :=
  if op == 0x70 || op == 0x72 || op == 0x73 then retAddrOf p else (hdr p).laddr

/-- A packet for the inside of the device is queued at its station for a reader; to itself it is delivered, to a station out of service it is lost. -/
def State.postIn (s : State) (st rd : Nat) (p : Packet) (op : Option Nat) : State :=
  if rd = st then s.deliver st st p
  else if !s.stServes rd then s
  else s.modSta st fun x => { x with sendq := x.sendq ++ [{ pkt := p, readers := [rd], op := op }] }

/-! ### Broadcast (R186, R405) -/

/-- Members that a mask names, by their index (R404). -/
def maskMembers (m : W64) : List Nat := (List.range 64).filter fun i => m.getLsbD i

/-- Port and next hop for a member of a broadcast; none when it is dropped (R405). -/
def State.bcastRoute (s : State) (i : Nat) : Option (Nat × Nat) :=
  match tget s.group.members none i with
  | none => none
  | some e => match s.platMatch e with
    | none => none
    | some w => let r := s.route e
      if bit w 61 && decide (r.1 = .done) then some r.2 else none

/-- One copy of a broadcast for each next hop, its mask reduced to the members reached through it and HC one higher (R405). -/
def State.replicate (s : State) (here : Nat) (p : Packet) (members : List Nat) (op : Option Nat) : State :=
  let via := members.filterMap fun i => (s.bcastRoute i).map fun r => (i, r)
  let dropped := members.length - via.length
  let hops := (via.map fun v => v.2.2).dedup
  let s1 := { s with plat := { s.plat with drop := sat 16 (s.plat.drop + dropped) } }
  each hops (fun f s =>
    let mine := via.filter fun v => v.2.2 == f
    let mask := (mine.map fun v => 2 ^ v.1).sum
    let q := withHdr { p with ext := Ext.enc { extOf p.ext with gmask := mask } } fun h => { h with hc := h.hc + 1 }
    s.toPort here ((mine.map fun v => v.2.1).headD 0) f q op) s1

/-- A broadcast that this device begins: as the root it replicates, else it sends one frame to the root (R405); its mask names every other member (log entry 45). -/
def State.bcastOut (s : State) (here : Nat) (p : Packet) (op : Option Nat) : Status × State :=
  let all := (List.range 64).filter fun i => (tget s.group.members none i).isSome && i != s.group.sidx
  let p1 := { p with ext := Ext.enc { extOf p.ext with gmask := (all.map fun i => 2 ^ i).sum } }
  match s.group.bcroot with
  | none => (.notPresent, s)
  | some r =>
    if s.isSelf r then (.done, s.replicate here p1 all op)
    else
      let t := s.route r
      if t.1 = .done then (.done, s.toPort here t.2.1 t.2.2 p1 op) else (t.1, s)

/-! ### Packets leave the device (R151, R248, R405, R616) -/

/-- A packet sets out for its endpoint, to one port or as a broadcast; the status says whether it could (R151, R405). -/
def State.depart (s : State) (here : Nat) (p : Packet) (op : Option Nat) : Status × State :=
  if (hdr p).dest = 0xFFFFF then s.bcastOut here p op
  else
    let r := s.route (hdr p).dest
    if r.1 = .done then (.done, s.toPort here r.2.1 r.2.2 p op) else (r.1, s)

/-- A request or a reply whose endpoint is elsewhere reaches its exchange station: it goes to a port, or its operation ends (R151, R248). -/
def State.sendOut (s : State) (x w : Nat) (p : Packet) : State :=
  let h := hdr p
  if isReply h.op then (s.depart (xsStop x) p none).2
  else
    let p1 := if (atomicOf h.op).isSome then
        { p with data := p.data.take 8 ++ leBytes 8 s.now.toNat ++ p.data.drop 16 } else p
    let r := s.depart (xsStop x) p1 (some s.rem.nextId)
    if r.1 = .done then
      { r.2 with rem := { r.2.rem with
        rack := r.2.rem.rack ++ [({ id := s.rem.nextId, st := w, xs := x, pkt := p1, resends := 0, accepted := false, orphan := false } : RackOp)]
        nextId := s.rem.nextId + 1 } }
    else s.postIn x (issuerStation h) (replyTo p 0 0 (if r.1 = .deadTarget then 0x91 else 0x90) h.laddr [] r.1 false) none

/-- A packet is queued at its station for a reader; an exchange station sends its own outgoing packets itself (R616). -/
def State.post (s : State) (st rd : Nat) (p : Packet) (op : Option Nat) : State :=
  if rd = st ∧ isXS st ∧ !s.isSelf (hdr p).dest then s.sendOut st st p else s.postIn st rd p op

/-- A station answers a request: to a unit of this device, or out of the device to the request's source (R226, R616). -/
def State.reply (s : State) (st : Nat) (p : Packet) (op : Nat) (data : List Byte) (status : Status) (poison : Bool) :
    State :=
  let h := hdr p
  if h.xt then
    let src := (extOf p.ext).src
    match s.xsFor st with
    | some x => s.post st x (replyTo p src s.ownExt op (replyLaddr p op) data status poison) none
    | none => s
  else s.post st (issuerStation h) (replyTo p 0 0 op (replyLaddr p op) data status poison) none

/-- A fault reply (R252, R253): DEAD for a dead target, FAULT otherwise. -/
def State.replyFault (s : State) (st : Nat) (p : Packet) (status : Status) : State :=
  s.reply st p (if status = .deadTarget then 0x91 else 0x90) [] status false

/-! ### Operations end (R238 to R241, R252, R269, R280, R296) -/

/-- Kinds that fences collect (R237). -/
def OpKind.collected : OpKind → Bool
  | .load => false
  | _ => true

/-- KIND of CORE_RFAULT (R261). -/
def OpKind.code : OpKind → Nat
  | .load => 0 | .store => 1 | .mcast => 1 | .writeback => 1 | .atomic => 2 | .reduction => 3

/-- Core and context that an operation belongs to, if any. -/
def OpOwner.issuer : OpOwner → Option (Nat × Nat)
  | .seq c x => some (c, x)
  | .engine c x => some (c, x)
  | _ => none

/-- A load whose data is to be stored on: its store will be collected (R240, R295). -/
def OpDest.stages : OpDest → Bool
  | .stage _ _ _ _ _ => true
  | .fill _ _ _ _ _ d => d.stages
  | _ => false

/-- Collected operations of a core that are outstanding (R240, R261). -/
def State.outstanding (s : State) (c : Nat) : Nat :=
  (s.rem.ops.filter fun o => o.kind.collected && !o.orphan && match o.owner.issuer with
    | some i => i.1 == c
    | none => false).length

/-- A core can issue so many more collected operations: with those outstanding, and the stores to come of loads that the transfer engine has under way, they are at most 2,048 (R240). -/
def State.roomFor (s : State) (c n : Nat) : Bool :=
  decide (s.outstanding c + (s.rem.ops.filter fun o => o.dest.stages && !o.orphan && (o.owner.issuer.map (·.1)) == some c).length
    + n ≤ 2048)

/-- CORE_RFAULT and its notices for an operation that completes with a status other than DONE (R241). -/
def State.remoteFault (s : State) (c x : Nat) (o : Op) (st : Status) (mask : Byte) : State :=
  let unknown := decide (o.kind = .atomic) && (decide (st = .receiptExpired) || (decide (st = .deadTarget) && o.sent))
  let s1 := s.modCore c fun u => { u with
    rfValid := true, rfUnknown := unknown, rfCtx := x, rfKind := o.kind.code, rfStatus := st, rfMask := mask
    rfCount := inc 8 u.rfCount, rfLaddr := o.laddr, rfEp := if s.isSelf o.ep then 0 else o.ep }
  (s1.raise (ntRemoteFault c)).when unknown fun s => s.raise (ntAtoUnknown c)

/-- An operation of a descriptor or of a job has completed with a status. -/
def QDesc.opDone (q : QDesc) (id : Nat) (st : Status) : QDesc :=
  if q.ops.contains id then { q with ops := q.ops.filter (· != id), worst := q.worst.worse st } else q
def Job.opDone (j : Job) (n id : Nat) (st : Status) : Job :=
  if j.no == n then { j with ops := j.ops.filter (· != id), worst := j.worst.worse st } else j
def Fence.opDone (f : Fence) (id : Nat) (st : Status) : Fence :=
  if f.ops.contains id then { f with ops := f.ops.filter (· != id), worst := f.worst.worse st } else f

/-- An operation leaves its owner: a parked context, a transfer-engine descriptor or a copy by an exchange station. -/
def State.leaveOwner (s : State) (o : Op) (st : Status) : State :=
  match o.owner with
  | .seq c x => s.modCtx c x fun t =>
      if t.parked.contains o.id then
        { t with parked := t.parked.filter (· != o.id), parkedWorst := t.parkedWorst.worse st } else t
  | .engine c _ => s.modEng c 6 fun e => { e with queue := e.queue.map fun q => q.opDone o.id st }
  | .job n => { s with rem := { s.rem with jobs := s.rem.jobs.map fun j => j.opDone n o.id st } }
  | .evict => s

/-- Bytes whose write-back by KD_FLUSH has failed are dirty again (R223). -/
def CacheLine.markDirty (l : CacheLine) (a n : Nat) : CacheLine :=
  if l.line == a / 128 then
    { l with dirty := (List.range n).foldl (fun t i => tset t false (a % 128 + i) true) l.dirty } else l

/-- A write-back of KD_FLUSH has ended: unless HBM holds its data the line stays dirty (R212, R223). -/
def State.redirty (s : State) (o : Op) (st : Status) : State :=
  if o.kind = .writeback ∧ o.owner ≠ .evict ∧ st ≠ .done ∧ st ≠ .poisoned then
    s.modKd o.issuerSt fun k => { k with lines := k.lines.map fun l => l.markDirty o.laddr o.len }
  else s

/-- An operation has completed: fences, its context, its descriptor, CORE_RFAULT, and the token of an RSTORE (R238, R241, R269, R280). -/
def State.settle (s : State) (o : Op) (st : Status) (mask : Byte) : State :=
  let s0 := s.redirty o st
  let s1 := { s0 with rem := { s.rem with
    ops := s.rem.ops.filter fun p => p.id != o.id
    fences := s.rem.fences.map fun f => f.opDone o.id st } }
  if o.orphan then s1
  else
    let s2 := s1.leaveOwner o st
    match o.owner.issuer with
    | none => s2
    | some (c, x) =>
      let s3 := s2.when o.kind.collected fun s => s.ctxWorst c x st
      let s4 := s3.when (decide (st ≠ .done)) fun s => s.remoteFault c x o st mask
      s4.when (decide (o.kind = .store) && o.sig.getLsbD 15 && !s1.rem.ops.any fun p => p.group == o.group)
        fun s => s.signal c x o.sig 0 0x19

/-! ### Operations begin (R192, R227, R228, R253, R541, R616) -/

/-- A request as a sequencer, an engine, an exchange station or a cache die makes it. -/
structure Req where
  owner : OpOwner
  st : Nat
  kind : OpKind
  code : Nat
  ep : Nat
  laddr : Nat
  /-- STORE, reduction or multicast data, or an atomic's operand -/
  data : List Byte
  /-- bytes returned by a load -/
  rlen : Nat
  retAddr : Nat
  dest : OpDest
  sig : BitVec 16
  aseq : BitVec 16
  poison : Bool
  mask : Byte
  deriving DecidableEq, Repr

/-- ISSUER and SYS of a request (R156); an exchange station's copies use number 0 and a cache die's write-backs number 63 of its station. -/
def Req.issuer (r : Req) : Nat × Bool :=
  match r.kind, r.owner with
  | .writeback, _ => (r.st * 64 + 63, true)
  | _, .seq c x => (c * 16 + x, false)
  | _, .engine c x => (c * 16 + x, false)
  | _, .job n => (r.st * 64 + n % 63, true)
  | _, .evict => (r.st * 64 + 63, true)

/-- Payload of a request (R225). -/
def Req.payload (r : Req) : List Byte :=
  match r.kind with
  | .load => leBytes 8 (r.rlen * 2 ^ 51 + r.retAddr % 2 ^ 44)
  | .atomic => leBytes 8 (r.aseq.toNat * 2 ^ 48 + r.retAddr % 2 ^ 44) ++ leBytes 8 0 ++ r.data
  | _ => r.data

/-- The packet of a request (R155). -/
def State.reqPacket (s : State) (r : Req) : Packet :=
  let out := !s.isSelf r.ep
  { hdr := Hdr.enc { dest := r.ep, laddr := r.laddr, op := r.code, vc := (opVc r.code).getD 0, hc := 0
                     dmp := decide (r.kind = .mcast), len := r.payload.length, issuer := r.issuer.1, pseq := 0, xt := out
                     poison := r.poison, retry := false, mcr := false, sys := r.issuer.2
                     status := if r.kind = .mcast then r.mask.toNat else 0 }
    ext := if out then s.ownExt else 0
    data := r.payload }

/-- Bytes that a request touches. -/
def Req.span (r : Req) : Nat :=
  match r.kind with
  | .load => r.rlen
  | .atomic => match atomicOf r.code with | some (_, n) => n | none => 0
  | _ => r.data.length

/-- Pieces of an access, as offset and length: HBM accesses are cut at 4 KiB boundaries (R192). -/
def cutPieces (a n : Nat) : Nat → Nat → List (Nat × Nat)
  | 0, _ => []
  | k + 1, off =>
    if n ≤ off then []
    else
      let step := min (n - off) (4096 - (a + off) % 4096)
      (off, step) :: cutPieces a n k (off + step)

/-- The pieces of a request (R192, R227). -/
def Req.pieces (r : Req) : List (Nat × Nat) :=
  match placeOf r.laddr, r.kind with
  | .hbm _, .atomic => [(0, r.span)]
  | .hbm _, _ => cutPieces r.laddr r.span (r.span / 4096 + 2) 0
  | _, _ => [(0, r.span)]

/-- An address by which an issuer that has no place of its own for the data tells the reply of a load: no other load outstanding carries it (R225, R295; log entry 35). -/
def State.freshRet (s : State) : Nat := s.rem.nextId % 2 ^ 29 * 4096

/-- One piece of a request. -/
def Req.piece (r : Req) (off n : Nat) : Req :=
  match r.kind with
  | .load => { r with laddr := r.laddr + off, rlen := n, retAddr := r.retAddr + off
                      dest := match r.dest with
                        | .stage c e d h m => .stage c e (d + off) h m
                        | .entry c i => .entry c (i + off)
                        | x => x }
  | .atomic => r
  | _ => { r with laddr := r.laddr + off, data := sliceB r.data off n }

/-- A core has lost its fabric path: its station is out of service, or the links of its cluster are (R473, R541). -/
def State.coreOff (s : State) (c : Nat) : Bool := !s.stUp (coreDie c) || s.coreCut c

/-- A request cannot leave its die by its station: that is out of service, or the requesting core's cluster has lost its path (R473, R541). -/
def State.fabricCut (s : State) (r : Req) : Bool :=
  !s.stUp r.st || match r.owner.issuer with
    | some (c, _) => s.coreCut c
    | none => false

/-- A load or store by a core of its own scratchpad or its own die's cache-die window, which its sequencer and engines reach without the station (R234, R541). -/
def State.isLocal (s : State) (r : Req) : Bool :=
  s.isSelf r.ep && (decide (r.kind = .load) || decide (r.kind = .store)) && match r.owner.issuer, placeOf r.laddr with
    | some _, .kd n _ => n == r.st
    | some (c, _), .sp c' _ => c' == c
    | _, _ => false

/-- Status with which the whole of a request ends before any packet of it leaves: its checks, or a path cut (R191, R192, R229, R541, R617). -/
def State.wholeFail (s : State) (r : Req) : Option Status :=
  if s.fabricCut r && !s.isLocal r then some .pathLost
  else if s.isSelf r.ep then s.opStatus r.code r.laddr r.payload.length r.rlen r.issuer.2
  else if (s.xsFor r.st).isNone then some .pathLost else none

/-- Status with which a packet of a request ends at its issuing station before it leaves: what turns the whole request away, dead memory that its die reaches itself, a closed channel, a dead target (R173, R253, R254). -/
def State.issueFail (s : State) (r : Req) : Option Status :=
  match s.wholeFail r with
  | some st => some st
  | none =>
    if s.isLocal r then (if s.deadMem r.laddr then some .deadTarget else none)
    else if !s.isSelf r.ep then
      match s.xsFor r.st with
      | none => some .pathLost
      | some x => if s.closed r.st x ((opVc r.code).getD 0) then some .refused else none
    else if r.kind = .mcast then
      (if (maskStations r.mask).any fun i => s.stServes i && s.closed r.st i 3 then some .refused else none)
    else match s.performer r.laddr with
      | some t =>
        if !s.stServes t then some .deadTarget
        else if s.closed r.st t ((opVc r.code).getD 0) then some .refused else none
      | none => none

/-- An operation takes its place with its owner. -/
def State.joinOwner (s : State) (o : Op) : State :=
  match o.owner with
  | .seq c x =>
    if (o.kind = .load ∧ o.dest = .scratch) ∨ o.kind = .atomic then
      s.modCtx c x fun t => { t with parked := t.parked ++ [o.id] } else s
  | .engine c _ => s.modEng c 6 fun e => { e with queue := match e.queue with
      | [] => []
      | q :: r => { q with ops := q.ops ++ [o.id] } :: r }
  | .job n => { s with rem := { s.rem with jobs := s.rem.jobs.map fun j =>
      if j.no == n then { j with ops := j.ops ++ [o.id] } else j } }
  | .evict => s

/-- An operation comes into being with a fresh number. -/
def State.newOp (s : State) (r : Req) (group : Nat) : Op × State :=
  let o : Op := { id := s.rem.nextId, group := group, owner := r.owner, kind := r.kind, ep := r.ep, laddr := r.laddr
                  len := r.span, target := if s.isSelf r.ep then s.performer r.laddr else s.xsFor r.st
                  issuerSt := r.st, issuer := r.issuer.1, sys := r.issuer.2, retAddr := r.retAddr, dest := r.dest
                  aseq := r.aseq, sent := false, sig := r.sig, orphan := false }
  (o, ({ s with rem := { s.rem with ops := s.rem.ops ++ [o], nextId := s.rem.nextId + 1 } }).joinOwner o)

/-- Node of the narrow net for a bank, a cluster's drill and a die's register agent; the stations come first (R66). -/
def nodeBank (k : Nat) : Nat := 14 + k
def nodeDrill (cluster : Nat) : Nat := 18 + cluster
def nodeAgent (d : Nat) : Nat := 34 + d

/-- Sheaf bank of a sheaf: the one of its field (R3, R11). -/
def sheafBank (i : Nat) : Nat := i / 4096 % 4

/-- Node that serves an access to sheaf or register space. -/
def accessNode (a : Nat) : Nat :=
  match placeOf a with
  | .sheaf off => nodeBank (sheafBank (off / 4))
  | .reg off => if off < 0x01000000 then 42 else nodeAgent (bits off 21 19 % 8)
  | _ => 42

/-- A message enters the narrow net for a node (R66). -/
def State.netSend (s : State) (node cls : Nat) (b : NetBody) : State :=
  { s with fab := { s.fab with net := tmod s.fab.net [] node fun l => l ++ [{ cls := cls, dst := node, body := b }] } }

/-- The packet of an operation sets out: over the narrow net, to its multicast readers, to its performing station, or to the way out (R177, R228, R616). -/
def State.launch (s : State) (r : Req) (o : Op) : State :=
  let p := s.reqPacket r
  let q (readers : List Nat) : QPacket := { pkt := p, readers := readers, op := some o.id }
  if !s.isSelf r.ep then
    match s.xsFor r.st with
    | some x => s.post r.st x p (some o.id)
    | none => s
  else if r.kind = .mcast then
    s.modSta r.st fun x => { x with sendq := x.sendq ++ [q ((List.range 8).filter fun i => r.mask.getLsbD i)] }
  else match placeOf r.laddr with
    | .sheaf _ => s.netSend (accessNode r.laddr) 1 (.access r.st p)
    | .reg _ => s.netSend (accessNode r.laddr) 4 (.access r.st p)
    | _ => match s.performer r.laddr with
      | some t => s.post r.st t p (some o.id)
      | none => s

/-- The operations of some packets come into being, before any of them ends. -/
def State.newOps (s : State) (group : Nat) : List Req → List (Req × Op) × State
  | [] => ([], s)
  | r :: l =>
    let x := s.newOp r group
    let y := x.2.newOps group l
    ((r, x.1) :: y.1, y.2)

/-- The packets of a request, each of which goes or fails by its own station; a request that is turned away whole is one (R192, R229). -/
def State.packetsOf (s : State) (r : Req) : List Req :=
  match s.wholeFail r with
  | some _ => [r]
  | none => r.pieces.map fun c => r.piece c.1 c.2

/-- A store, a copy by a station or a write-back is issued (R192, R227). -/
def State.issueRaw (s : State) (r : Req) : State :=
  let x := s.newOps s.rem.nextId (s.packetsOf r)
  each x.1 (fun y s => match s.issueFail y.1 with
    | some st => s.settle y.2 st 0
    | none => s.launch y.1 y.2) x.2

/-! ### Cache dies (R206 to R214) -/

/-- Cache rows of a slice (R208). -/
def CacheDie.cacheRows (k : CacheDie) (i : Nat) : Nat :=
  if k.fenced.getLsbD i then 0
  else (8 - k.addr) * 32768
    - ((List.range 64).filter fun j => (k.remapAt j).2 == i && k.remapAt j != (0, j)).length * k.addr * 32768

/-- Slice that holds an HBM line, by its number (R208). -/
def lineSlice (line : Nat) : Nat := line % 64

/-- Set of an HBM line in its slice (R208). -/
def CacheDie.lineSet (k : CacheDie) (line : Nat) : Nat := line / 64 % (k.cacheRows (lineSlice line) / 16)

/-- A line can be allocated: its slice has cache rows (R208, R210). -/
def CacheDie.hasRows (k : CacheDie) (line : Nat) : Bool := decide (16 ≤ k.cacheRows (lineSlice line))

/-- The cached line with a number. -/
def CacheDie.find (k : CacheDie) (line : Nat) : Option CacheLine := k.lines.find? fun l => l.line == line

/-- A line of no bytes. -/
def CacheLine.empty (line : Nat) : CacheLine := { line := line, bytes := [], dirty := [], poisonLo := false, poisonHi := false }

/-- The poison bit of the half of a line that a byte lies in. -/
def CacheLine.poisonAt (l : CacheLine) (b : Nat) : Bool := if b < 64 then l.poisonLo else l.poisonHi

/-- Bytes of a line at b with all n present: a hit (R208, R210). -/
def CacheLine.holds (l : CacheLine) (b n : Nat) : Bool :=
  (List.range n).all fun i => l.bytes.any fun e => e.1 == b + i

/-- Bytes of a line written, dirty or filled; a filled byte does not replace a dirty one (R210). A whole half written without poison clears its poison (R214). -/
def CacheLine.put (l : CacheLine) (b : Nat) (bytes : List Byte) (dirty poisoned : Bool) : CacheLine :=
  let t := bytes.zipIdx.foldl (fun t e =>
    if !dirty && tget l.dirty false (b + e.2) then t else tins (tdel t (b + e.2)) (b + e.2) e.1) l.bytes
  let d := if dirty then bytes.zipIdx.foldl (fun t e => tset t false (b + e.2) true) l.dirty else l.dirty
  let whole (lo : Nat) : Bool := decide (b ≤ lo) && decide (lo + 64 ≤ b + bytes.length)
  let touch (lo : Nat) : Bool := decide (b < lo + 64) && decide (lo < b + bytes.length)
  let pois (old : Bool) (lo : Nat) : Bool :=
    if poisoned && touch lo then true else if dirty && whole lo then false else old
  { l with bytes := t, dirty := d, poisonLo := pois l.poisonLo 0, poisonHi := pois l.poisonHi 64 }

/-- A half of a line as HBM gave it holds the poison value throughout. -/
def badHalf (data : List Byte) (i : Nat) : Bool := sliceB data (64 * i) 64 == poisonBytes 0 64

/-- A line takes its 128 B from HBM. An answer with POISON poisons the halves that it gives as the poison value, and no other (R204, R214, R223; log entry 78). -/
def CacheLine.fill (l : CacheLine) (data : List Byte) (poisoned : Bool) : CacheLine :=
  (l.put 0 (sliceB data 0 64) false (poisoned && badHalf data 0)).put 64 (sliceB data 64 64) false (poisoned && badHalf data 1)

/-- Status of the part of a filled line that an access asked for: DONE when the poison lies in the other half (R210, R223). -/
def partStatus (st : Status) (data : List Byte) (off len : Nat) : Status :=
  if st = .poisoned ∧ !((off < 64 && badHalf data 0) || (64 < off + len && badHalf data 1)) then .done else st

/-- Runs of neighbouring dirty bytes of a line, cut at its halves: first byte and length. -/
def CacheLine.runs (l : CacheLine) : List (Nat × Nat) :=
  (List.range 128).foldl (fun (r : List (Nat × Nat)) b =>
    if tget l.dirty false b then
      match r.getLast? with
      | some (x, n) => if x + n = b ∧ b ≠ 64 then r.dropLast ++ [(x, n + 1)] else r ++ [(b, 1)]
      | none => [(b, 1)]
    else r) []

/-- A line is dirty: it holds bytes that HBM has not, or poison (R210, R213). -/
def CacheLine.isDirty (l : CacheLine) : Bool := !l.dirty.isEmpty

/-- The write-backs of a dirty line, as stores of its dirty runs, poisoned halves with POISON set (R212, R214). -/
def State.writeBackLine (s : State) (n : Nat) (owner : OpOwner) (l : CacheLine) (asPoison : Bool) : State :=
  each l.runs (fun x s => s.issueRaw {
    owner := owner, st := n, kind := .writeback, code := 0x10, ep := 0, laddr := l.line * 128 + x.1
    data := (List.range x.2).map fun i => tget l.bytes 0 (x.1 + i)
    rlen := 0, retAddr := 0, dest := .none, sig := 0, aseq := 0
    poison := asPoison || l.poisonAt x.1, mask := 0 }) s

/-- Room for a line: with all 16 ways of its set taken one of them leaves, never the one used last, and its dirty bytes are written back (R208; log entry 36). -/
def State.makeRoom (s : State) (n line : Nat) : State :=
  let k := s.kd n
  let same := k.lines.filter fun l => lineSlice l.line == lineSlice line && k.lineSet l.line == k.lineSet line && l.line != line
  if same.length < 16 then s
  else
    let v := same.getD (1 + s.freeVal % 15) (CacheLine.empty 0)
    (s.draw.modKd n fun k => { k with lines := k.lines.filter fun l => l.line != v.line }).writeBackLine n .evict v false

/-- A line of the cache changed or allocated; it is the one used last (R210). -/
def State.touchLine (s : State) (n line : Nat) (f : CacheLine → CacheLine) : State :=
  let s1 := if ((s.kd n).find line).isSome then s else s.makeRoom n line
  s1.modKd n fun k =>
    { k with lines := f ((k.find line).getD (CacheLine.empty line)) :: k.lines.filter fun l => l.line != line }

/-- An access that looks up the cache of its die: a load or store of HBM of this device by a core, with hint ALLOC or STREAM, whichever of its lines can be reached beyond the cache (R210, R541). -/
def State.looksUp (s : State) (r : Req) (hint : Nat) : Bool :=
  (decide (r.kind = .load) || decide (r.kind = .store)) && r.owner.issuer.isSome && hint ≤ 1 && s.isSelf r.ep
    && (match placeOf r.laddr with | .hbm _ => true | _ => false)
    && (s.opStatus r.code r.laddr r.payload.length r.rlen r.issuer.2).isNone

/-- Pieces of an access, one for each 128 B line it touches (R210). -/
def linePieces (a n : Nat) : List (Nat × Nat) :=
  if n = 0 then []
  else (List.range ((a + n - 1) / 128 + 1 - a / 128)).map fun i =>
    let b := max a ((a / 128 + i) * 128)
    (b - a, min (a + n) ((a / 128 + i + 1) * 128) - b)

/-- What the cache returns for bytes that it holds: the poison value of a poisoned half, and whether there is one (R204, R214). -/
def CacheLine.read (l : CacheLine) (a b n : Nat) : List Byte × Bool :=
  ((List.range n).map fun i => if l.poisonAt (b + i) then poisonByte (a + i) else tget l.bytes 0 (b + i),
    (List.range n).any fun i => l.poisonAt (b + i))

/-- How a piece of an access goes on after its lookup: a request to send, and the answer when the cache gives it at once. -/
structure Looked where
  req : Req
  answer : Option (List Byte × Status)
  deriving DecidableEq, Repr

/-- A piece of one line is looked up, and hit, allocated or left to the memory station (R208, R210; log entry 39). -/
def State.lookup (s : State) (r : Req) (hint : Nat) : Looked × State :=
  let n := r.st
  let line := r.laddr / 128
  let b := r.laddr % 128
  let found := (s.kd n).find line
  let alloc := hint == 0 && (s.kd n).hasRows line
  if (s.kd n).halted then ({ req := r, answer := some ([], .deadTarget) }, s)
  else if r.kind = .store then
    if found.isSome || alloc then
      ({ req := r, answer := some ([], if r.poison then .poisoned else .done) },
        s.touchLine n line fun l => l.put b r.data true r.poison)
    else ({ req := r, answer := none }, s)
  else match found with
    | some l =>
      if l.holds b r.rlen then
        let x := l.read r.laddr b r.rlen
        ({ req := r, answer := some (x.1, if x.2 then .poisoned else .done) }, s.touchLine n line id)
      else
        ({ req := { r with laddr := line * 128, rlen := 128, dest := .fill n line b r.rlen alloc r.dest }, answer := none }, s)
    | none =>
      if alloc then
        ({ req := { r with laddr := line * 128, rlen := 128, dest := .fill n line b r.rlen alloc r.dest }, answer := none }, s)
      else ({ req := r, answer := none }, s)

/-- The pieces of an access are looked up in order. -/
def State.lookups (s : State) (hint : Nat) : List Req → List Looked × State
  | [] => ([], s)
  | r :: l =>
    let x := s.lookup r hint
    let y := x.2.lookups hint l
    (x.1 :: y.1, y.2)

/-- A piece of a local access: it does not pass through the station (R234, R541). -/
def State.overCoils (s : State) (r : Req) : Looked × State :=
  if r.kind = .load then
    let x := s.stRead r.st r.laddr r.rlen
    ({ req := r, answer := some (x.1, if x.2 then .poisoned else .done) }, s)
  else ({ req := r, answer := some ([], if r.poison then .poisoned else .done) }, s.stWrite r.st r.laddr r.data r.poison)

/-- The pieces of a local access are done in order. -/
def State.coilPieces (s : State) : List Req → List Looked × State
  | [] => ([], s)
  | r :: l =>
    let x := s.overCoils r
    let y := x.2.coilPieces l
    (x.1 :: y.1, y.2)

/-- The packets and hits of an access, each with its operation. -/
def State.accessOps (s : State) (r : Req) (hint : Nat) : List (Looked × Op) × State :=
  if s.looksUp r hint then
    let x := s.lookups hint ((linePieces r.laddr r.span).map fun c => r.piece c.1 c.2)
    let y := x.2.newOps s.rem.nextId (x.1.map Looked.req)
    (x.1.zip (y.1.map Prod.snd), y.2)
  else if s.isLocal r && (s.issueFail r).isNone then
    let x := s.coilPieces (s.packetsOf r)
    let y := x.2.newOps s.rem.nextId (x.1.map Looked.req)
    (x.1.zip (y.1.map Prod.snd), y.2)
  else
    let y := s.newOps s.rem.nextId (s.packetsOf r)
    (y.1.map fun z => ({ req := z.1, answer := none }, z.2), y.2)

/-- A store is issued, by the cache of its die where its hint and address allow (R210). -/
def State.storeAccess (s : State) (r : Req) (hint : Nat) : State :=
  let x := s.accessOps r hint
  each x.1 (fun y s => match y.1.answer with
    | some a => s.settle y.2 a.2 0
    | none => match s.issueFail y.1.req with
      | some st => s.settle y.2 st 0
      | none => s.launch y.1.req y.2) x.2

/-- Kind of an operation by its opcode (R224). -/
def kindOf (code : Nat) : OpKind :=
  if code == 0x01 then .load else if code == 0x10 then .store else if code == 0x60 then .mcast
  else if (atomicOf code).isSome then .atomic else .reduction

/-! ### Bad words of the own die's cache die (R214, R221) -/

/-- A half of a cached line becomes poison. -/
def CacheLine.spoil (l : CacheLine) (a : Nat) : CacheLine :=
  if l.line == a / 128 then (if a % 128 < 64 then { l with poisonLo := true } else { l with poisonHi := true }) else l

/-- A core's access reads its die's cache die and finds bad bits in the word at an address: in a cached line, or in the die's own window (R210, R214, R221, R234; log entry 79). -/
def State.ownBad (s : State) (n a bad : Nat) : State :=
  match placeOf a with
  | .hbm _ => if ((s.kd n).find (a / 128)).isSome then
      s.kdBad n bad fun s => s.modKd n fun k => { k with lines := k.lines.map fun l => l.spoil a } else s
  | .kd m _ => if m = n then s.eccBlock n a bad else s
  | _ => s

/-- The bad words that an access finds in its die's cache die, by their addresses (R214). -/
def State.ownBads (s : State) (n : Nat) (l : List (Nat × Nat)) : State := each l (fun x s => s.ownBad n x.1 x.2) s

/-! ### Answers (R226, R252, R295) -/

/-- Where the data of an answered operation goes (R210, R226, R252, R295); a copy from a dead or missing source stores nothing. -/
def State.place' (s : State) (o : Op) (data : List Byte) (st : Status) : OpDest → Nat → State
  | .none, _ => s
  | .scratch, a =>
    if st = .done then s.fabWrite a data false else s.fabWrite a (poisonBytes a data.length) true
  | .stage code ep dst hint mask, _ =>
    if st = .done ∨ st = .poisoned then
      s.storeAccess { owner := o.owner, st := o.issuerSt, kind := kindOf code, code := code, ep := ep, laddr := dst, data := data
                      rlen := 0, retAddr := 0, dest := .none, sig := 0, aseq := 0, poison := decide (st = .poisoned)
                      mask := mask } hint
    else s
  | .fill n line off len alloc next, a =>
    let s1 := if (st = .done ∨ st = .poisoned) ∧ (((s.kd n).find line).isSome ∨ (alloc ∧ (s.kd n).hasRows line)) then
        s.touchLine n line fun l => l.fill data (decide (st = .poisoned))
      else s
    let held := match (s1.kd n).find line with
      | some l => if st = .done ∨ st = .poisoned then (List.range len).map fun i => tget l.bytes 0 (off + i) else sliceB data off len
      | none => sliceB data off len
    State.place' s1 o (if st = .done ∨ st = .poisoned then held else List.replicate len 0) (partStatus st data off len) next a
  | .fetch c x b, _ =>
    s.modCtx c x fun t => if t.fetching then { t with fetched := some (b, data, st) } else t
  | .entry c off, _ =>
    s.modEng c 6 fun e => { e with queue := match e.queue with
      | [] => []
      | q :: r => { q with got := q.got ++ data.zipIdx.map fun x => (off + x.2, x.1)
                           gotWorst := q.gotWorst.worse st } :: r }
  | .keep n off, _ =>
    { s with rem := { s.rem with jobs := s.rem.jobs.map fun (j : Job) =>
      if j.no == n then { j with data := j.data.take off ++ data ++ j.data.drop (off + data.length) } else j } }

/-- Bytes of the return area of an operation. -/
def Op.retLen (o : Op) : Nat :=
  match o.dest with
  | .fill _ _ _ len _ _ => len
  | _ => o.len

/-- Status of an operation by its answer: of a filled line, that of the part asked for (R210). -/
def Op.endStatus (o : Op) (st : Status) (data : List Byte) : Status :=
  match o.dest with
  | .fill _ _ off len _ _ => partStatus st data off len
  | _ => st

/-- Data of an answer, or as many bytes as it would have had. -/
def Op.answerData (o : Op) (data : List Byte) (st : Status) : List Byte :=
  if st = .done ∨ st = .poisoned then sliceB data 0 o.len
  else match o.dest with
    | .fill _ _ _ _ _ _ => List.replicate o.len 0
    | _ => List.replicate o.retLen 0

/-- The next packets of a job by an exchange station, at most 64 outstanding at a time and each at most 4,096 B (R427). -/
def State.advanceJob (n : Nat) : Nat → State → State
  | 0, s => s
  | k + 1, s =>
    match s.rem.jobs.find? fun j => j.no == n with
    | none => s
    | some j =>
      if j.len ≤ j.done then
        if j.ops.isEmpty && decide (j.kind ≠ .take) then
          ({ s with rem := { s.rem with jobs := s.rem.jobs.filter fun (i : Job) => i.no != n } } : State).complete j.o j.opcode j.worst
            (if j.worst = .done then j.res else [])
        else s
      else if 64 ≤ j.ops.length then s
      else
        let a := (j.src + j.done) % 2 ^ 44
        let b := (j.dst + j.done) % 2 ^ 44
        let step := min (j.len - j.done) (min (4096 - a % 4096) (4096 - b % 4096))
        let s1 := { s with rem := { s.rem with jobs := s.rem.jobs.map fun (i : Job) =>
          if i.no == n then { i with done := i.done + step } else i } }
        let base : Req := {
          owner := .job n, st := j.xs, kind := .load, code := 0x01, ep := j.src / 2 ^ 44, laddr := a, data := []
          rlen := step, retAddr := s.freshRet, dest := .stage 0x10 (j.dst / 2 ^ 44) b 2 0, sig := 0, aseq := 0, poison := false, mask := 0 }
        let put (l : List Byte) : Req :=
          { base with kind := .store, code := 0x10, ep := j.dst / 2 ^ 44, laddr := b, rlen := 0, dest := .none, data := l }
        let r := match j.kind with
          | .copy => base
          | .fill => put ((List.range step).map fun i => BitVec.ofNat 8 (j.pattern.toNat / 2 ^ (8 * ((j.done + i) % 8))))
          | .give => put (sliceB j.data j.done step)
          | .take => { base with dest := .keep n j.done }
        State.advanceJob n k (s1.issueRaw r)

/-- The job that an operation belongs to goes on. -/
def State.advanceOwner (s : State) (o : Op) : State :=
  match o.owner with
  | .job n => match s.rem.jobs.find? fun j => j.no == n with
    | some j => State.advanceJob n (j.len + 2) s
    | none => s
  | _ => s

/-- An operation is answered or fails: its data goes where it belongs, and it is complete (R226, R252, R253). -/
def State.finish (s : State) (o : Op) (st : Status) (data : List Byte) (mask : Byte) : State :=
  if o.orphan then s.settle o st mask
  else ((s.place' o (o.answerData data st) st o.dest o.retAddr).settle o (o.endStatus st data) mask).advanceOwner o

/-- An access of a core is issued (R192, R210, R227): it is looked up where its hint and address allow, and what its own checks turn away ends at once. -/
def State.access (s : State) (r : Req) (hint : Nat) : State :=
  let x := s.accessOps r hint
  each x.1 (fun y s => match y.1.answer with
    | some a => s.finish y.2 a.2 a.1 0
    | none => match s.issueFail y.1.req with
      | some st => s.finish y.2 st [] 0
      | none => s.launch y.1.req y.2) x.2

/-- The operation that a reply answers: the oldest of its issuer with the kind and address it names (R156, R226; log entry 35). -/
def State.opFor (s : State) (st : Nat) (p : Packet) : Option Op :=
  let h := hdr p
  s.rem.ops.find? fun o =>
    o.issuerSt == st && o.issuer == h.issuer && o.sys == h.sys &&
    (if h.op == 0x70 then decide (o.kind = .load) && o.retAddr == h.laddr
     else if h.op == 0x72 || h.op == 0x73 then decide (o.kind = .atomic) && o.retAddr == h.laddr
     else if h.op == 0x71 then (decide (o.kind = .store) || decide (o.kind = .reduction) || decide (o.kind = .writeback)
       || decide (o.kind = .mcast)) && o.laddr == h.laddr
     else o.laddr == h.laddr)

end Sys2Proof.Machine
end

