-- ==== Sys2Proof/Machine/Packets.lean ====
section
/-! DEFINITION. Packets, credit, multicast and the plat table: the rows of 05. -/

namespace Sys2Proof.Machine

open Sys2Proof

/-! ### PACKET_ARRIVE (R49, R163, R164) -/

/-- How a packet's PSEQ stands to a reader's window: accepted with the window after it, a duplicate, or stale (R164; log entry 37). -/
inductive SeqCheck where
  | accept (win : Option (BitVec 14) × List (BitVec 14))
  | duplicate
  | stale
  deriving DecidableEq, Repr

/-- The check of R164. An empty window stands before number 0 (R166). -/
def seqCheck (win : Option (BitVec 14) × List (BitVec 14)) (q : BitVec 14) : SeqCheck :=
  let high := win.1.getD (-1)
  let ahead := (q - high).toNat
  if 1 ≤ ahead ∧ ahead ≤ 8191 then
    .accept (some q, q :: win.2.filter fun x => decide ((q - x).toNat < 4096))
  else if win.1.isSome ∧ (high - q).toNat < 4096 then
    if win.2.contains q then .duplicate else .accept (win.1, q :: win.2)
  else .stale

/-- A packet names a station: as its destination, or in its mask (R49, R176). -/
def State.namesStation (s : State) (st w : Nat) (p : Packet) : Bool :=
  if (hdr p).dmp && s.isSelf (hdr p).dest then bit (hdr p).status st && decide (st < 8)
  else s.destStation w p == some st

/-- A whole packet has come in on a receive group (R49, R163, R164). What the spec leaves open: a malformed packet is refused under R163 even where it names another reader; and a packet discarded as stale returns its credit while a duplicate does not, its first copy having returned it (log entry 76). -/
def State.arrive (s : State) (st rg : Nat) (p : Packet) (rest : List StreamWord) : State :=
  let r := s.rxg st rg
  let w := r.wst
  let h := hdr p
  let s1 := s.modRx st rg fun r => { r with words := rest }
  if malformed p then
    let s2 := (s1.modSta st fun x => { x with malformed := inc 16 x.malformed }).raise (ntPktMalformed st)
    if h.vc < 6 then s2.returnCredit st w h.vc (pktCredits p) else s2
  else if decide (1 < (s.entriesOf r.wst r.wlg).length) && !s.namesStation st w p then s1
  else
    let k := creditKey st w h.vc
    match seqCheck (tget s.credit.win (none, []) k) (BitVec.ofNat 14 h.pseq) with
    | .duplicate => s1.modSta st fun x => { x with dup := inc 32 x.dup }
    | .stale => (s1.modSta st fun x => { x with stale := inc 16 x.stale }).returnCredit st w h.vc (pktCredits p)
    | .accept win =>
      let s2 := { s1 with credit := { s1.credit with win := tset s1.credit.win (none, []) k win } }
      if isXS st && !s.isSelf h.dest then (s2.freeCredit st w p).sendOut st w p
      else s2.deliver st w p

/-- PACKET_ARRIVE (R164). -/
def execPacketArrive (st rg : Nat) (s : State) : Host.Outcome State Fault Refusal :=
  match takePacket (s.rxg st rg).words with
  | none => .next s
  | some (p, rest) => act (s.stUp st && isRx st rg && (s.rxg st rg).valid) s fun s => s.arrive st rg p rest

/-! ### PACKET_SEND (R162, R165, R168, R173, R253) -/

/-- The packet may go by the numbering of its channel: the oldest unfinished one is less than 4,095 behind the newest (R165). -/
def State.seqRoom (s : State) (st vc : Nat) : Bool :=
  let next := tget (s.sta st).pseq 0 vc
  let behind (q : BitVec 14) : Bool := decide ((next - 1 - q).toNat < 4095)
  ((s.inFlight st).all fun q => (hdr q.pkt).vc != vc || behind (BitVec.ofNat 14 (hdr q.pkt).pseq))
    && (vc != 3 || (s.sta st).remnants.all fun r => match r.pseq with | some q => behind q | none => true)

/-- A multicast that its station sends to readers by R178: one that this device's stations are to receive. -/
def State.isMc (s : State) (p : Packet) : Bool := (hdr p).dmp && s.isSelf (hdr p).dest

/-- The first packet queued for a reader and channel; a multicast goes by its own steps (R178). -/
def State.firstFor (s : State) (st rd vc : Nat) : Option QPacket :=
  (s.sta st).sendq.find? fun q => (hdr q.pkt).vc == vc && q.readers == [rd] && !s.isMc q.pkt

/-- The first packet of a queue could go now (R165, R168). -/
def State.sendReady (s : State) (st rd vc : Nat) : Bool :=
  match s.firstFor st rd vc with
  | none => false
  | some q => s.stServes rd && decide (pktCredits q.pkt ≤ s.held rd st vc) && s.seqRoom st vc

/-- A multicast packet waits for its first attempt. -/
def State.mcWaiting (s : State) (st : Nat) : Option QPacket := (s.sta st).sendq.find? fun q => s.isMc q.pkt

/-- Remnant entries in use (R179, R187). -/
def Station.entriesUsed (x : Station) : Nat := (x.remnants.filter fun r => r.entry).length

/-- Readers of a multicast packet that can be sent to now: in service, with credit, and with no older packet still to be sent to them (R178, R180, R181). -/
def State.mcServed (s : State) (st : Nat) (older : List Remnant) (p : Packet) (l : List Nat) : List Nat :=
  l.filter fun r => s.stServes r && !(older.any fun o => o.remaining.getLsbD r) &&
    (r == st || (decide (pktCredits p ≤ s.held r st 3)))

/-- Some reader of a multicast lies behind a closed channel: it is not sent (R173). -/
def State.mcClosed (s : State) (st : Nat) (l : List Nat) : Bool := l.any fun r => s.stServes r && s.closed st r 3

/-- The remnants before one. -/
def Station.olderThan (x : Station) (id : Nat) : List Remnant := x.remnants.takeWhile fun r => r.id != id

/-- Readers of a remnant that can be sent to now, none when its packet must wait for an entry first (R178 to R180). -/
def State.remnantServed (s : State) (st : Nat) (r : Remnant) : List Nat :=
  let l := maskStations r.remaining
  let served := s.mcServed st ((s.sta st).olderThan r.id) r.q.pkt l
  if !r.entry ∧ served.length < l.length ∧ 64 ≤ (s.sta st).entriesUsed then [] else served

/-- A remnant could be sent on now (R165, R178). -/
def State.remnantReady (s : State) (st : Nat) (r : Remnant) : Bool :=
  !(s.remnantServed st r).isEmpty && (r.pseq.isSome || s.seqRoom st 3)

/-- Some packet of a channel could go now. -/
def State.vcReady (s : State) (st vc : Nat) : Bool :=
  ((List.range nSt).any fun rd => s.sendReady st rd vc)
    || (vc == 3 && (((s.mcWaiting st).isSome && s.seqRoom st 3) || (s.sta st).remnants.any fun r => s.remnantReady st r))

/-- Whether it is a channel's turn: ESC, CTL and RSP first in that order, then REQ, RED and MC in turn (R162). -/
def State.vcTurn (s : State) (st vc : Nat) : Bool :=
  let up (l : List Nat) : Bool := l.any fun v => s.vcReady st v
  if vc == 5 then true
  else if vc == 4 then !up [5]
  else if vc == 1 then !up [5, 4]
  else if up [5, 4, 1] then false
  else
    let order := match (s.sta st).lastRr with
      | 0 => [2, 3, 0]
      | 2 => [3, 0, 2]
      | _ => [0, 2, 3]
    (order.find? fun v => s.vcReady st v) == some vc

/-- WAITING of BASE_CRHELD: a packet to the reader on the channel waits for credit, a multicast's remaining readers counted (R168, R178, R187). -/
def State.waitsFor (s : State) (st rd vc : Nat) : Bool :=
  let short (p : Packet) : Bool := decide (s.held rd st vc < pktCredits p)
  ((s.sta st).sendq.any fun q => (hdr q.pkt).vc == vc && q.readers.contains rd && rd != st && short q.pkt)
    || (vc == 3 && (s.sta st).remnants.any fun r => r.remaining.getLsbD rd && rd != st && short r.q.pkt)

/-- A packet leaves its station's queue. -/
def State.unqueue (s : State) (st : Nat) (q : QPacket) : State :=
  s.modSta st fun x => { x with sendq := x.sendq.erase q }

/-- The operation of a packet, if it still runs, ends with a status. -/
def State.endOp (s : State) (op : Option Nat) (st : Status) (mask : Byte) : State :=
  match op with
  | none => s
  | some i => match s.rem.ops.find? fun o => o.id == i with
    | some o => s.finish o st [] mask
    | none => s

/-- A request opcode that a reduce station performs (R224). -/
def isRequest (op : Nat) : Bool :=
  op == 0x01 || op == 0x10 || (atomicOf op).isSome || (redSize op).isSome || op == 0x60

/-- A queued packet is not sent, and its operation ends with a status: its own; that of the device across the rack whose request it is; or, of a reply, the one that waits for it here, while a reply that would leave the device leaves as a fault reply on ESC if that is open (R173, R253). -/
def State.refusePacket (s : State) (st rd : Nat) (q : QPacket) (status : Status) : State :=
  let h := hdr q.pkt
  match q.op with
  | some _ => s.endOp q.op status 0
  | none =>
    if isRequest h.op then (if h.xt then s.replyFault st q.pkt status else s)
    else if !isReply h.op then s
    else if s.isSelf h.dest then
      match s.opFor rd q.pkt with
      | some o => s.finish o status [] 0
      | none => s
    else if s.closed st rd 5 then s
    else s.postIn st rd { withHdr q.pkt fun h => { h with op := 0x90, vc := 5, len := 0, status := status.code } with data := [] } none

/-- The packet of an operation has left the issuing station (R241). -/
def State.markSent (s : State) (op : Option Nat) : State :=
  { s with rem := { s.rem with ops := s.rem.ops.map fun (o : Op) => if some o.id = op then { o with sent := true } else o } }

/-- The turn passes on (R162), and the channel's numbers (R157). -/
def State.nextPseq (s : State) (st vc : Nat) : State :=
  s.modSta st fun x => { x with
    pseq := tset x.pseq 0 vc (tget x.pseq 0 vc + 1)
    lastRr := if vc == 0 || vc == 2 || vc == 3 then vc else x.lastRr }

/-- A queued packet goes: its credit is spent, it takes its PSEQ and its place on a lane group (R48, R157, R168). -/
def State.sendPacket (s : State) (st rd vc : Nat) (q : QPacket) : State :=
  let n := tget (s.sta st).pseq 0 vc
  let p := withHdr q.pkt fun h => { h with pseq := n.toNat }
  ((((s.unqueue st q).setHeld rd st vc (s.held rd st vc - pktCredits q.pkt)).nextPseq st vc).markSent q.op).place st
    { q with pkt := p }

/-- PACKET_SEND. To a dead reader or over a closed channel nothing is sent and the operation ends (R168, R173, R253). -/
def execPacketSend (st rd vc : Nat) (s : State) : Host.Outcome State Fault Refusal :=
  match s.firstFor st rd vc with
  | none => .next s
  | some q => act (s.stUp st && !(s.sta st).halted) s fun s =>
    if !s.stServes rd then (s.unqueue st q).refusePacket st rd q .deadTarget
    else if s.closed st rd vc then (s.unqueue st q).refusePacket st rd q .refused
    else if s.sendReady st rd vc && s.vcTurn st vc then s.sendPacket st rd vc q
    else s

/-! ### Credit records (R169, R170, R172, R603) -/

/-- A perturbation keeps a station from returning credit to a writer on a channel (R601, R603). -/
def State.backp (s : State) (st w vc : Nat) : Bool :=
  let x := (tget s.test.backp 0 st).toNat
  s.test.en && !s.test.bolt && bit x 31 && (bits x 30 27 == 15 || bits x 30 27 == w) && bits x 26 24 == vc

/-- Credit records of some channels leave together in a LINK grain, but for those that a perturbation holds back (R169, R603). -/
def State.creditRecords (s : State) (st w : Nat) (l : List Nat) : State :=
  let vcs := l.filter fun vc => !s.backp st w vc
  if s.linkPath st w && !vcs.isEmpty then
    ({ s with credit := { s.credit with owed := vcs.foldl (fun t vc => tset t false (creditKey st w vc) false) s.credit.owed } }
      : State).sendLink st w (vcs.map fun vc => Machine.creditRecord vc (tget s.credit.total 0 (creditKey st w vc)))
  else s

/-- CREDIT_RECORD_SEND: the total has changed (R169). -/
def execCreditRecordSend (st w vc : Nat) (s : State) : Host.Outcome State Fault Refusal :=
  act (s.stUp st && validPair st w vc && tget s.credit.owed false (creditKey st w vc)) s
    fun s => s.creditRecords st w [vc]

/-- CREDIT_REPEAT: every writer and channel (R169). -/
def execCreditRepeat (st : Nat) (s : State) : Host.Outcome State Fault Refusal :=
  act (s.stUp st) s fun s =>
    each ((List.range nSt).filter (· != st)) (fun w s => s.creditRecords st w (List.range 6)) s

/-- CREDIT_RECORD_RECEIVE: the writer adds what the total has grown by (R170). -/
def execCreditRecordReceive (st rd : Nat) (rec : W64) (s : State) : Host.Outcome State Fault Refusal :=
  act (s.stUp st && recKind rec == 3 && validPair rd st (recVc rec)) s fun s => s.takeCredit st rd rec

/-- Sum of ALLOC and PEND over a reader station, one pair's ALLOC apart (R172). -/
def State.poolUsed (s : State) (st w vc : Nat) : Nat :=
  (((List.range nSt).filter (· != st)).flatMap fun i => (List.range 6).map fun v =>
    (if i == w && v == vc then 0 else s.alloc st i v) + s.pendOf st i v).sum

/-- Smallest ALLOC of a channel that is open (R172). -/
def allocMin (vc : Nat) : Nat := if vc < 4 then 65 else 8

/-- The effect of a write to BASE_CRALLOC (R172, R187). -/
def State.crallocWrite (s : State) (st w vc : Nat) (data : W32) : State × Status :=
  let new := data.toNat % 2 ^ 16
  let old := s.alloc st w vc
  let k := creditKey st w vc
  let pend := s.pendOf st w vc + (old - new)
  if !validPair st w vc then (s, .notPresent)
  else if creditPool st < s.poolUsed st w vc + new + (old - new) ∨ (new ≠ 0 ∧ new < allocMin vc) then (s, .outOfRange)
  else
    let s1 := { s with credit := { s.credit with
      alloc := tset s.credit.alloc (allocDefault st w vc) k new
      pend := tset s.credit.pend 0 k pend } }
    (if old < new then { s1 with credit := { s1.credit with
        total := tset s1.credit.total 0 k (tget s1.credit.total 0 k + BitVec.ofNat 16 (new - old))
        owed := tset s1.credit.owed false k true } } else s1, .done)

/-! ### The plat table (R149 to R154) -/

/-- The checks of PLAT_SET, in the order of R422: reserved bits, then the table of R152. -/
def platChecks (id : Nat) (entry : W64) (s : State) : List (Bool × Status) :=
  let w := entry.toNat
  let hop := bits w 55 36
  [ (bit w 60 || bits w 3 0 != 0 || decide (2 ^ 20 ≤ id), .badField),
    (reservedId id, .outOfRange),
    (!s.plat.valid, .wrongState),
    (id == s.plat.id, .badField),
    (bit w 63 && bits w 35 20 == 0, .badField),
    (bit w 63 && bit w 62 && (reservedId hop || hop == id || hop == s.plat.id), .badField),
    (s.plat.bolt, .bolted) ]

/-- PLAT_SET: one whole entry is written; its parity holds again (R152, R153). -/
def execPlatSet (o : Origin) (id : Nat) (entry : W64) (s : State) : Host.Outcome State Fault Refusal :=
  .next (s.command o 0x82 (platChecks id entry s) fun s =>
    ({ s with plat := { s.plat with
        entries := tset s.plat.entries 0 (id % 2 ^ 16) entry
        bad := s.plat.bad.filter (· != id % 2 ^ 16) } }, []))

/-- PLAT_GET: the entry as stored (R424, R425). -/
def execPlatGet (o : Origin) (id : Nat) (s : State) : Host.Outcome State Fault Refusal :=
  .next (s.command o 0x83 [(decide (2 ^ 20 ≤ id), .badField), (reservedId id, .outOfRange)] fun s =>
    (s, leBytes 8 (tget s.plat.entries 0 (id % 2 ^ 16)).toNat))

/-- PLAT_BOLT (R154). -/
def execPlatBolt (o : Origin) (s : State) : Host.Outcome State Fault Refusal :=
  .next (s.command o 0x84 [(s.plat.bolt, .bolted)] fun s => ({ s with plat := { s.plat with bolt := true } }, []))

/-! ### Multicast and remnants (R176 to R182) -/

/-- One transmission of a multicast packet to some readers, with STMASK exactly those (R59, R177). -/
def State.transmitMc (s : State) (st : Nat) (q : QPacket) (pseq : BitVec 14) (again : Bool) (l : List Nat) : State :=
  let pkt (m : List Nat) : Packet :=
    withHdr q.pkt fun h => { h with pseq := pseq.toNat, mcr := again, status := (stationsMask m).toNat }
  let out := l.filter (· != st)
  let s1 := each out (fun r s => s.setHeld r st 3 (s.held r st 3 - pktCredits q.pkt)) s
  let s2 := if l.contains st then s1.deliver st st (pkt [st]) else s1
  if out.isEmpty then s2 else s2.place st { q with pkt := pkt out, readers := out }

/-- A multicast operation is over: its issuer, here or across the rack, is told, a PARTIAL completion with the readers that remain (R182; log entry 77). -/
def State.tellMc (s : State) (st : Nat) (q : QPacket) (status : Status) (mask : Byte) : State :=
  match q.op with
  | some _ => s.endOp q.op status mask
  | none => if (hdr q.pkt).xt then
      s.reply st q.pkt (if status = .done then 0x71 else 0x90)
        (if status = .partialDone then leBytes 8 mask.toNat else []) status false else s

/-- A multicast operation ends: its entry is free and its issuer is told (R178, R182). -/
def State.endMc (s : State) (st : Nat) (r : Remnant) (status : Status) : State :=
  let s1 := s.modSta st fun x => { x with
    remnants := x.remnants.filter fun y => y.id != r.id
    partials := if status = .partialDone then inc 16 x.partials else x.partials }
  s1.tellMc st r.q status (if status = .partialDone then r.remaining else 0)

/-- MCAST_FIRST_ATTEMPT: every reader with credit is sent to, the rest wait in an entry; with no entry free the packet waits whole, and over a closed channel it is refused (R173, R178, R179). -/
def execMcastFirstAttempt (st : Nat) (s : State) : Host.Outcome State Fault Refusal :=
  match s.mcWaiting st with
  | none => .next s
  | some q => act (s.stUp st && !(s.sta st).halted && s.seqRoom st 3 && s.vcTurn st 3) s fun s =>
    let l := maskStations (BitVec.ofNat 8 (hdr q.pkt).status)
    let served := s.mcServed st (s.sta st).remnants q.pkt l
    let left := l.filter fun r => !served.contains r
    let s1 := s.unqueue st q
    let rec0 : Remnant := { id := s.rem.nextId, q := q, pseq := none, remaining := stationsMask left, entry := !left.isEmpty }
    let s2 := { s1 with rem := { s1.rem with nextId := s1.rem.nextId + 1 } }
    if s.mcClosed st l then s1.tellMc st q .refused 0
    else if !left.isEmpty && decide (64 ≤ (s.sta st).entriesUsed) then
      s2.modSta st fun x => { x with remnants := x.remnants ++ [{ rec0 with remaining := stationsMask l, entry := false }] }
    else
      let n := tget (s.sta st).pseq 0 3
      let sent := !served.isEmpty
      let s3 := s2.modSta st fun x => { x with remnants := x.remnants ++ [{ rec0 with pseq := if sent then some n else none }] }
      if sent then ((s3.nextPseq st 3).markSent q.op).transmitMc st q n false served else s3

/-- REMNANT_RETRANSMIT: remaining readers that now hold credit, in MC's turn; a packet that waits for an entry needs one, or credit for every reader (R162, R173, R178 to R180). -/
def execRemnantRetransmit (st id : Nat) (s : State) : Host.Outcome State Fault Refusal :=
  match (s.sta st).remnants.find? fun r => r.id == id with
  | none => .next s
  | some r => act (s.stUp st && !(s.sta st).halted) s fun s =>
    let l := maskStations r.remaining
    let served := s.remnantServed st r
    let left := l.filter fun x => !served.contains x
    if s.mcClosed st l then s.endMc st r .refused
    else if !(s.remnantReady st r && s.vcTurn st 3) then s
    else
      let n := r.pseq.getD (tget (s.sta st).pseq 0 3)
      let s1 := if r.pseq.isSome then s.modSta st fun x => { x with lastRr := 3 } else s.nextPseq st 3
      let s2 := s1.modSta st fun x => { x with remnants := x.remnants.map fun (y : Remnant) =>
        if y.id == id then { y with remaining := stationsMask left, pseq := some n, entry := y.entry || !left.isEmpty }
        else y }
      (s2.markSent r.q.op).transmitMc st r.q n r.pseq.isSome served

/-- MCAST_COMPLETE: nobody remains and every transmission is acknowledged (R178). -/
def execMcastComplete (st id : Nat) (s : State) : Host.Outcome State Fault Refusal :=
  match (s.sta st).remnants.find? fun r => r.id == id with
  | none => .next s
  | some r => act (r.remaining == 0 && !((s.inFlight st).any fun q =>
      (hdr q.pkt).vc == 3 && some (BitVec.ofNat 14 (hdr q.pkt).pseq) == r.pseq)) s fun s => s.endMc st r .done

/-- MCAST_PARTIAL: readers remain after 200 µs, or only dead ones do (R178, R181). -/
def execMcastPartial (st id : Nat) (s : State) : Host.Outcome State Fault Refusal :=
  match (s.sta st).remnants.find? fun r => r.id == id with
  | none => .next s
  | some r => act (r.remaining != 0) s fun s => s.endMc st r .partialDone

end Sys2Proof.Machine
end

