-- ==== Sys2Proof/Machine/Operations.lean ====
section
/-! DEFINITION. Remote operations as stations perform them and as their answers come back: the rows of 07. -/

namespace Sys2Proof.Machine

open Sys2Proof

/-! ### Receipts (R245 to R251) -/

/-- Ticks in a millisecond and in a microsecond (R327). -/
def ticksPerMs : Nat := 800000
def ticksPerUs : Nat := 800

/-- Receipt share of a performing station (R245). -/
def receiptShare (st : Nat) : Nat := if st < 8 then st / 2 else st - 8

/-- The device's Field Time counts as synchronised to its group (R251). -/
def State.synced (s : State) : Bool := decide (s.time.role ≠ .member) || decide (s.time.sync ≠ .free)

/-- An entry has the key of an atomic: SRC, SYS, ISSUER and ASEQ (R245). -/
def Receipt.matches (e : Receipt) (p : Packet) : Bool :=
  e.src == (extOf p.ext).src && e.sys == (hdr p).sys && e.issuer == (hdr p).issuer && e.aseq == aseqOf p

/-- A retry waits for its pending entry (R247). -/
def Receipt.join (e : Receipt) (st : Nat) (p : Packet) : Receipt :=
  if e.matches p then { e with waiting := e.waiting ++ [(st, p)] } else e

/-- A new entry; in a full share the oldest is evicted early (R246). -/
def MemStation.record (m : MemStation) (e : Receipt) : MemStation :=
  match m.receipts with
  | old :: r => if 65536 ≤ m.receipts.length then
      { m with receipts := r ++ [e], evft := old.ft, early := inc 32 m.early }
    else { m with receipts := m.receipts ++ [e] }
  | [] => { m with receipts := [e] }

/-- A retry whose original may not have been applied and forgotten (R247). -/
def State.freshRetry (s : State) (k : Nat) (p : Packet) : Bool :=
  let ft0 := (ft0Of p).toNat
  decide (s.now.toNat < ft0 + (s.ms k).retain * ticksPerMs - ticksPerUs)
    && decide ((s.ms k).evft.toNat + ticksPerUs ≤ ft0)

/-! ### Performing an operation (R228 to R235, R247, R254) -/

/-- Part of the request's blocks is dead memory (R254). -/
def State.deadSpan (s : State) (a n : Nat) : Bool := (blocksOf a n).any fun b => s.deadMem b.1

/-- An atomic on good data: memory takes its new value; the old one is returned (R231). -/
def State.applyAtomic (s : State) (st a k size : Nat) (operand : List Byte) : State × List Byte :=
  let old := (s.stRead st a size).1
  (s.stWrite st a (atomicNew k size old operand) false, old)

/-- The atomic meets poison: it is not applied (R235). -/
def State.atomicPoisoned (s : State) (st : Nat) (p : Packet) (size : Nat) : Bool :=
  (hdr p).poison || (s.stRead st (hdr p).laddr size).2

/-- An atomic that a port brought, by the receipt rules (R245 to R247, R251). -/
def State.rackAtomic (s : State) (st : Nat) (p : Packet) (k size : Nat) (bad : List Nat) : State :=
  let sh := receiptShare st
  let old := (s.ms sh).receipts.find? fun e => e.matches p
  if !s.synced || !(s.ms sh).shareUp then s.replyFault st p .wrongState
  else match old with
    | some e =>
      if e.pending then
        s.modMs sh fun m => { m with receipts := m.receipts.map fun x => x.join st p }
      else (s.modMs sh fun m => { m with hit := inc 16 m.hit }).reply st p 0x73 e.old .done false
    | none =>
      if (hdr p).retry && !s.freshRetry sh p then
        (s.modMs sh fun m => { m with expired := inc 16 m.expired }).replyFault st p .receiptExpired
      else
      let s := s.eccSpan st (hdr p).laddr size bad
      if s.atomicPoisoned st p size then
        s.reply st p 0x72 (poisonBytes (retAddrOf p) size) .poisoned true
      else
        let x := s.applyAtomic st (hdr p).laddr k size (p.data.drop 16)
        let e : Receipt := { src := (extOf p.ext).src, sys := (hdr p).sys, issuer := (hdr p).issuer, aseq := aseqOf p
                             old := x.2, ft := s.now, pending := isCS st, waiting := if isCS st then [(st, p)] else [] }
        let s1 := x.1.modMs sh fun m => m.record e
        if isCS st then s1 else s1.reply st p 0x72 x.2 .done false

/-- Set a stack's state; HBM_FAIL and CAP_CHANGE follow it (R437, R459). -/
def State.setStack (s : State) (h : Nat) (x : HbmState) : State :=
  (((s.modHbm h fun y => { y with state := x }).sense (ntHbmFail (h / 3)) s).capSense [0, 9 + h / 3] s)

/-- The first access to a stack in self-refresh makes it leave that (R197). -/
def State.wakeStack (s : State) (a : Nat) : State :=
  match placeOf a with
  | .hbm x => if (s.hbm (s.hash.line x).2.1).state = .selfref then s.setStack (s.hash.line x).2.1 .ready else s
  | _ => s

/-- What every operation does to the blocks it touches: stacks in self-refresh leave it, and an open block becomes the one touched last (R197, R243). -/
def State.openUp (s : State) (st a n : Nat) : State :=
  each (blocksOf a n) (fun b s =>
    let s1 := s.wakeStack b.1
    match s1.phys b.1 with
    | some p => if (s1.openBlock st p).isSome then s1.touchBlock st p id else s1
    | none => s1) s

/-- The window of its own die at which a station applies a multicast (R176). -/
def mcastAddr (st a : Nat) : Nat :=
  match placeOf a with
  | .kd _ off => kdBase + st * kdWindow + off
  | .sp c off => spOf (st * 8 + c % 8) + off
  | _ => a

/-- A station performs a request; bad holds, for the blocks that it reads in order, the bad symbols or bits that the read finds (R197, R202, R229 to R235, R243, R254; log entry 79). -/
def State.performReq (s : State) (st : Nat) (p : Packet) (bad : List Nat) : State :=
  let h := hdr p
  let rlen := rlenOf p
  let span := opSpan h.op h.len rlen
  if h.op == 0x60 then
    let a := mcastAddr st h.laddr
    if (s.opStatus h.op a h.len rlen false).isSome || s.deadSpan a h.len then s
    else ((s.openUp st a h.len).eccParts st a h.len bad).stWrite st a p.data h.poison
  else match s.opStatus h.op h.laddr h.len rlen (h.xt || h.sys) with
    | some e => s.replyFault st p e
    | none =>
      if s.deadSpan h.laddr span then s.replyFault st p .deadTarget
      else
      let s := s.openUp st h.laddr span
      if h.op == 0x01 then
        let s := s.eccSpan st h.laddr rlen bad
        let r := s.stRead st h.laddr rlen
        s.reply st p 0x70 r.1 (if r.2 then .poisoned else .done) r.2
      else if h.op == 0x10 then
        ((s.eccParts st h.laddr h.len bad).stWrite st h.laddr p.data h.poison).reply st p 0x71 [] (if h.poison then .poisoned else .done) false
      else match atomicOf h.op with
        | some (k, size) =>
          if h.xt then s.rackAtomic st p k size bad
          else
          let s := s.eccSpan st h.laddr size bad
          if s.atomicPoisoned st p size then s.reply st p 0x72 (poisonBytes (retAddrOf p) size) .poisoned true
          else
            let x := s.applyAtomic st h.laddr k size (p.data.drop 16)
            x.1.reply st p 0x72 x.2 .done false
        | none =>
          let s := s.eccSpan st h.laddr h.len bad
          let old := s.stRead st h.laddr h.len
          if h.poison || old.2 then (s.stPoisonBlocks st h.laddr h.len).reply st p 0x71 [] .poisoned false
          else (s.stWrite st h.laddr (redNew h.op old.1 p.data) false).reply st p 0x71 [] .done false

/-- The bond links of a die carry what a request at its compute station reads from it and writes into it: a transmit link to read by, a receive link to write by (R74, R472). -/
def State.bondsCarry (s : State) (d op : Nat) : Bool :=
  let up (l : List Nat) : Bool := l.any fun i => decide ((s.bond d i).state = .up)
  (op == 0x10 || op == 0x60 || up (List.range 12)) && (op == 0x01 || up ((List.range 24).map (12 + ·)))

/-- A request waits for its unit: its die sleeps (R501), no bond link carries it (R74), or a self-test run holds what it touches (R592). -/
def State.requestWaits (s : State) (st : Nat) (p : Packet) : Bool :=
  (isCS st && ((s.diePower st).asleep || !s.bondsCarry st (hdr p).op)) ||
    match placeOf (if (hdr p).op == 0x60 then mcastAddr st (hdr p).laddr else (hdr p).laddr) with
    | .kd n _ => s.bistHolds 1 n
    | .sp c _ => s.bistHolds 0 c
    | _ => false

/-- The request that arrived first, of those that need not wait, when it is of the kind asked for: steps follow the order of arrival (R233). -/
def State.performFirst (s : State) (st : Nat) (bad : List Nat) (kind : Nat → Bool) : Host.Outcome State Fault Refusal :=
  let goes (p : Packet) : Bool := isRequest (hdr p).op && !s.requestWaits st p
  match (s.sta st).inbox.find? fun e => goes e.2 with
  | none => .next s
  | some e => act (s.stServes st && (isCS st || isMS st) && kind (hdr e.2).op) s fun s =>
    match s.takeInbox st goes with
    | none => s
    | some (x, s1) => s1.performReq st x.2 bad

/-- REMOTE_OP_PERFORM (R233). -/
def execRemoteOpPerform (st : Nat) (bad : List Nat) (s : State) : Host.Outcome State Fault Refusal :=
  s.performFirst st bad fun _ => true

/-- LOAD (R230). -/
def execLoad (st : Nat) (bad : List Nat) (s : State) : Host.Outcome State Fault Refusal :=
  s.performFirst st bad fun op => op == 0x01

/-- STORE (R230). -/
def execStore (st : Nat) (bad : List Nat) (s : State) : Host.Outcome State Fault Refusal :=
  s.performFirst st bad fun op => op == 0x10

/-- ATOMIC (R231, R247). -/
def execAtomic (st : Nat) (bad : List Nat) (s : State) : Host.Outcome State Fault Refusal :=
  s.performFirst st bad fun op => (atomicOf op).isSome

/-- REDUCTION (R232). -/
def execReduction (st : Nat) (bad : List Nat) (s : State) : Host.Outcome State Fault Refusal :=
  s.performFirst st bad fun op => (redSize op).isSome

/-- MCAST_STORE_PACKET (R176). -/
def execMcastStorePacket (st : Nat) (s : State) : Host.Outcome State Fault Refusal :=
  s.performFirst st [] fun op => op == 0x60

/-! ### Answers come back (R226, R247, R252, R253) -/

/-- The first reply with an opcode is taken and its operation ends; a reply to nothing outstanding is discarded. -/
def State.takeReply (s : State) (st op : Nat) : Host.Outcome State Fault Refusal :=
  act (s.stUp st) s fun s =>
    match s.takeInbox st fun p => (hdr p).op == op with
    | none => s
    | some (x, s1) =>
      match s1.opFor st x.2 with
      | none => s1
      | some o =>
        let status := if op == 0x91 then .deadTarget else (Status.ofCode (hdr x.2).status).getD .badField
        s1.finish o status x.2.data (if status = .partialDone then BitVec.ofNat 8 (fieldB x.2.data 0 8) else 0)

/-- LOAD_DATA (R226). -/
def execLoadData (st : Nat) (s : State) : Host.Outcome State Fault Refusal := s.takeReply st 0x70

/-- ACK (R226). -/
def execAck (st : Nat) (s : State) : Host.Outcome State Fault Refusal := s.takeReply st 0x71

/-- ATOMIC_RESULT (R226). -/
def execAtomicResult (st : Nat) (s : State) : Host.Outcome State Fault Refusal := s.takeReply st 0x72

/-- ATOMIC_REPLAYED (R247). -/
def execAtomicReplayed (st : Nat) (s : State) : Host.Outcome State Fault Refusal := s.takeReply st 0x73

/-- FAULT (R252). -/
def execFault (st : Nat) (s : State) : Host.Outcome State Fault Refusal := s.takeReply st 0x90

/-- DEAD (R253). -/
def execDead (st : Nat) (s : State) : Host.Outcome State Fault Refusal := s.takeReply st 0x91

/-! ### Receipts filled and expired (R246, R247) -/

/-- RECEIPT_FILLED: the oldest pending entry is filled; the atomic is answered, and retries that waited as replays (R245, R247). -/
def execReceiptFilled (share : Nat) (s : State) : Host.Outcome State Fault Refusal :=
  match (s.ms share).receipts.find? fun e => e.pending with
  | none => .next s
  | some e => act (decide (share < 4)) s fun s =>
    let s1 := s.modMs share fun m => { m with
      receipts := m.receipts.map fun x => if x = e then { x with pending := false, waiting := [] } else x
      hit := sat 16 (m.hit + (e.waiting.length - 1)) }
    each e.waiting.zipIdx (fun x s => s.reply x.1.1 x.1.2 (if x.2 = 0 then 0x72 else 0x73) e.old .done false) s1

/-- RECEIPT_EXPIRE: filled entries older than RETAIN are removed (R246). -/
def execReceiptExpire (share : Nat) (s : State) : Host.Outcome State Fault Refusal :=
  act (decide (share < 4)) s fun s => s.modMs share fun m => { m with
    receipts := m.receipts.filter fun e => e.pending || decide ((s.now - e.ft).toNat < m.retain * ticksPerMs) }

/-! ### Across the rack (R248, R255, R258) -/

/-- The rack operation that a reply answers. -/
def State.rackFor (s : State) (p : Packet) : Option RackOp :=
  let h := hdr p
  s.rem.rack.find? fun r =>
    let q := hdr r.pkt
    q.issuer == h.issuer && q.sys == h.sys && q.dest == (extOf p.ext).src &&
    (if h.op == 0x70 then q.op == 0x01 && retAddrOf r.pkt == h.laddr
     else if h.op == 0x72 || h.op == 0x73 then (atomicOf q.op).isSome && retAddrOf r.pkt == h.laddr
     else if h.op == 0x71 then !(q.op == 0x01 || (atomicOf q.op).isSome) && q.laddr == h.laddr
     else q.laddr == h.laddr)

/-- A rack operation is held no longer; no frame that waits is sent for it any more (R248, R258). -/
def State.dropRack (s : State) (id : Nat) : State :=
  { s with
    rem := { s.rem with rack := s.rem.rack.filter fun r => r.id != id }
    ports := { s.ports with
      outq := s.ports.outq.map fun e => (e.1, e.2.filter fun q => q.op != some id)
      backoff := s.ports.backoff.filter fun b => b.1.op != some id } }

/-- An exchange station takes a packet that a port brought (R191, R248). -/
def State.fabricIn (s : State) (x : Nat) (p : Packet) : State :=
  let h := hdr p
  if isReply h.op then
    match s.rackFor p with
    | none => { s with rem := { s.rem with late := inc 8 s.rem.late } }
    | some r =>
      if r.xs ≠ x ∧ s.stServes r.xs then s.ringSend (xsStop x) (xsStop r.xs) 16 { pkt := p, readers := [], op := none }
      else if r.orphan then s.dropRack r.id
      else (s.dropRack r.id).post x (issuerStation h) p none
  else match s.opStatus h.op h.laddr h.len (rlenOf p) true with
    | some e => s.replyFault x p e
    | none =>
      if h.dmp then s.modSta x fun y => { y with sendq := y.sendq ++ [{ pkt := p, readers := maskStations (BitVec.ofNat 8 h.status), op := none }] }
      else match placeOf h.laddr with
        | .sheaf _ => s.netSend (accessNode h.laddr) 1 (.access x p)
        | _ => match s.performer h.laddr with
          | none => s
          | some t =>
            if !s.stServes t then s.replyFault x p .deadTarget
            else if s.closed x t h.vc then s.replyFault x p .refused
            else s.post x t p none

/-- RACK_OP_RESEND: a load as it is, an atomic with RETRY 1 (R248). -/
def execRackOpResend (id : Nat) (s : State) : Host.Outcome State Fault Refusal :=
  match s.rem.rack.find? fun r => r.id == id with
  | none => .next s
  | some r =>
    let h := hdr r.pkt
    act ((h.op == 0x01 || (atomicOf h.op).isSome) && decide (r.resends < 3) && s.stServes r.xs) s fun s =>
      let p := if h.op == 0x01 then r.pkt else withHdr r.pkt fun h => { h with retry := true }
      let s1 := { s with rem := { s.rem with
        rack := s.rem.rack.map fun (y : RackOp) => if y.id == id then { y with resends := y.resends + 1 } else y
        resent := inc 16 s.rem.resent } }
      (s1.depart (xsStop r.xs) p (some id)).2

/-- RACK_OP_GIVEUP: REFUSED when every frame that carried it was refused, else DEAD_TARGET (R248, R255, R258). -/
def execRackOpGiveup (id : Nat) (s : State) : Host.Outcome State Fault Refusal :=
  match s.rem.rack.find? fun r => r.id == id with
  | none => .next s
  | some r => act true s fun s =>
    let flying := s.ports.sent.any fun f => f.q.op == some id
    let st : Status := if r.accepted || flying then .deadTarget else .refused
    let s1 := { s with rem := { s.rem with gaveUp := inc 8 s.rem.gaveUp } }
    if r.orphan then s1.dropRack id
    else (s1.dropRack id).post r.xs (issuerStation (hdr r.pkt))
      (replyTo r.pkt 0 0 (if st = .deadTarget then 0x91 else 0x90) (hdr r.pkt).laddr [] st false) none

/-- DEAD_TARGET_TIMEOUT: the station that took the packet has gone down (R253). -/
def execDeadTargetTimeout (id : Nat) (s : State) : Host.Outcome State Fault Refusal :=
  match s.rem.ops.find? fun o => o.id == id with
  | none => .next s
  | some o => act (o.sent && match o.target with | some t => !s.stServes t | none => false) s
      fun s => s.finish o .deadTarget [] 0

/-! ### Fences and parked contexts (R238, R242, R269) -/

/-- The fence of a context's sequencer. -/
def State.ctxFence (s : State) (c x : Nat) : Option Fence :=
  s.rem.fences.find? fun f => f.core == c && f.ctx == x && !f.engine

/-- A fence is over. -/
def State.dropFence (s : State) (f : Fence) : State :=
  { s with rem := { s.rem with fences := s.rem.fences.erase f } }

/-- FENCE_COMPLETE: the context goes on with the fence's status, or END's fence has ended (R238, R269, R280, R359). -/
def execFenceComplete (core ctx : Nat) (s : State) : Host.Outcome State Fault Refusal :=
  match s.ctxFence core ctx with
  | none => .next s
  | some f => act (f.ops.isEmpty && (s.ctx core ctx).sheafOut == 0) s fun s =>
    let t := s.ctx core ctx
    let s1 := (s.dropFence f).ctxWorst core ctx f.worst
    if t.state = .wait ∧ t.why = .fence then
      ((s1.setCtx core ctx .ready .none).modCtx core ctx fun t => { t with sigOp := 0 }).signal core ctx t.sig 0 t.sigOp
    else if t.state = .wait ∧ t.why = .endRec then s1.modCtx core ctx fun t => { t with ended := true }
    else s1

/-- PARKED_REPLY_WRITTEN: every packet of the load or atomic is answered and its result written (R242, R280). -/
def execParkedReplyWritten (core ctx : Nat) (s : State) : Host.Outcome State Fault Refusal :=
  let t := s.ctx core ctx
  act (t.parked.isEmpty && (t.sigOp == 0x18 || t.sigOp == 0x1A)) s fun s =>
    let s1 := s.modCtx core ctx fun t => { t with sigOp := 0 }
    let s2 := if t.state = .parked then s1.setCtx core ctx .ready .none else s1
    s2.signal core ctx t.sig 0 t.sigOp

end Sys2Proof.Machine
end

