-- ==== Sys2Proof/Machine/Ports.lean ====
section
/-! DEFINITION. Rack ports (11): training, frames, the calendar, delivery and resends, paths and failover, relays. -/

namespace Sys2Proof.Machine

open Sys2Proof

/-! ### Frames on the link (R375 to R377, R387, R402) -/

/-- Fields of a frame header (R375). -/
structure FHdr where
  fdst : Nat
  fsrc : Nat
  kind : Nat
  fseq : BitVec 24
  ackseq : BitVec 24
  av : Bool
  sinc : Byte
  dinc : Byte
  blen : Nat
  deriving DecidableEq, Repr

/-- The bits of a frame header (R375). -/
def FHdr.enc (h : FHdr) : BitVec 128 :=
  BitVec.ofNat 128 <|
    (h.fdst % 2 ^ 20) * 2 ^ 108 + (h.fsrc % 2 ^ 20) * 2 ^ 88 + (h.kind % 16) * 2 ^ 84 + h.fseq.toNat * 2 ^ 60
    + h.ackseq.toNat * 2 ^ 36 + b2n h.av * 2 ^ 35 + h.sinc.toNat * 2 ^ 27 + h.dinc.toNat * 2 ^ 19 + (h.blen % 2 ^ 13) * 2 ^ 6

/-- The header that the bits spell (R375). -/
def fhdrOf (b : BitVec 128) : FHdr :=
  let n := b.toNat
  { fdst := bits n 127 108, fsrc := bits n 107 88, kind := bits n 87 84, fseq := BitVec.ofNat 24 (bits n 83 60)
    ackseq := BitVec.ofNat 24 (bits n 59 36), av := bit n 35, sinc := BitVec.ofNat 8 (bits n 34 27)
    dinc := BitVec.ofNat 8 (bits n 26 19), blen := bits n 18 6 }

/-- Bytes of a frame header as they are sent. -/
def hdrBytes (b : BitVec 128) : List Byte := (leBytes 16 b.toNat).reverse

/-- The CRC-32 of a frame: header, body and tag (R377). -/
def frameCrc (f : Frame) : W32 := crc32 (hdrBytes f.hdr ++ f.body ++ wordBytes f.tag)

/-- The key that tags frames now: the next key from the rekey instant on (R402). -/
def Group.sendKey (g : Group) : Option (List Byte) := if g.window then g.nextKey else g.key

/-- Keys whose tags are accepted now (R402). -/
def Group.goodKeys (g : Group) : List (List Byte) := g.key.toList ++ if g.window then g.nextKey.toList else []

/-- Whether a frame's tag holds on a port (R378, R387, R400). -/
def State.tagOk (s : State) (p : Nat) (f : Frame) : Bool :=
  if (s.port p).p2p && s.group.key.isNone then true
  else s.group.goodKeys.any fun k => Config.hmacTag k (hdrBytes f.hdr ++ f.body) == f.tag

/-- A frame with its tag and CRC (R377, R387). -/
def State.sealFrame (s : State) (h : FHdr) (body : List Byte) : Frame :=
  let b := { h with blen := body.length }.enc
  let tag := match s.group.sendKey with
    | some k => Config.hmacTag k (hdrBytes b ++ body)
    | none => 0
  { hdr := b, body := body, tag := tag, crc := frameCrc { hdr := b, body := body, tag := tag, crc := 0 } }

/-- Key of the frame series and the window of a device: its ID, or its port when it is that port's P2P peer (R387, R388). -/
def State.peerKey (s : State) (p e : Nat) : Nat := if (s.port p).p2p then 2 ^ 20 + p else e

/-- A key of a P2P peer: its frames have no path failover (R387). -/
def isPeerKey (k : Nat) : Bool := decide (2 ^ 20 ≤ k)

/-- ACKSEQ for a sender: the FSEQ up to which every frame is held (R388). -/
def PeerWin.ack (w : PeerWin) : Option (BitVec 24) := if w.any then some (w.base - 1) else none

/-- A frame of this device to a peer, with what every frame carries (R375, R388, R392). -/
def State.frameTo (s : State) (key kind : Nat) (fseq : BitVec 24) (body : List Byte) : Frame :=
  let a := (s.peerWin key).ack
  s.sealFrame { fdst := if isPeerKey key then 0 else key, fsrc := s.selfId, kind := kind, fseq := fseq, ackseq := a.getD 0
                av := a.isSome, sinc := s.group.inc, dinc := (s.peerSend key).dinc, blen := 0 } body

/-! ### Time in a slot (R369, R379, R380) -/

/-- Bytes of a frame with a body, its START word included. -/
def lineBytes (blen : Nat) : Nat := 40 + blen

/-- A frame of so many bytes ends at least 32 ns before the slot does, by the port's data rate of R369. -/
def State.fitsSlot (s : State) (p n : Nat) : Bool :=
  let pos := s.now.toNat * 5 / 4 % 256
  let rate := if (s.port p).gen == 2 then 2409 else 1205
  decide (pos + (n * 10 + rate - 1) / rate ≤ 224)

/-- The port itself runs: UP, enabled, its sill link up, not halted (R394, R448). -/
def State.portRuns (s : State) (p : Nat) : Bool :=
  let q := s.port p
  decide (q.state = .up) && decide (q.sill = .up) && q.enable && !q.halted

/-- A port can begin a frame for a peer now (R379, R380, R385). -/
def State.canBegin (s : State) (p key n : Nat) : Bool :=
  s.portRuns p && s.slotUsable p s.slotNow key && s.fitsSlot p n

/-- The slot in progress at a port is OPEN. -/
def State.slotOpen (s : State) (p : Nat) : Bool :=
  !(s.port p).p2p && ((s.port p).entryAt s.slotNow).type == 2

/-! ### Frames other than DATA (R388, R391, R392) -/

/-- A frame leaves a port; what it acknowledges is no longer owed (R388). -/
def State.emitFrame (s : State) (p key : Nat) (f : Frame) : State :=
  (s.modWin key fun w => { w with owesAck := false }).emit (.frame p f)

/-- Port by which an ACK, NAK, REFUSE or RESYNC leaves: that of arrival while it is in service, else by the plat entry (R388). -/
def State.answerPort (s : State) (p key : Nat) : Option Nat :=
  if s.portServes p then some p
  else if isPeerKey key then none
  else
    let r := s.route key
    if r.1 = .done then some r.2.1 else none

/-- An ACK, NAK, REFUSE or RESYNC to a peer, at once or when a slot admits it (R380, R388). -/
def State.sendCtl (s : State) (p key kind : Nat) (body : List Byte) : State :=
  match s.answerPort p key with
  | none => s
  | some q =>
    let f := s.frameTo key kind 0 body
    if s.canBegin q key (lineBytes body.length) then s.emitFrame q key f
    else { s with ports := { s.ports with ctlq := s.ports.ctlq ++ [(q, f)] } }

/-- The peer that a waiting frame goes to. -/
def State.ctlKey (s : State) (p : Nat) (f : Frame) : Nat := s.peerKey p (fhdrOf f.hdr).fdst

/-- Waiting frames of a port that the slot admits leave. -/
def State.flushCtl (s : State) (p : Nat) : State :=
  let go := s.ports.ctlq.filter fun e => e.1 == p && s.canBegin p (s.ctlKey p e.2) (lineBytes e.2.body.length)
  each go (fun e s => s.emitFrame p (s.ctlKey p e.2) e.2)
    { s with ports := { s.ports with ctlq := s.ports.ctlq.filter fun e => !go.contains e } }

/-! ### DATA frames out (R384, R388 to R390, R395, R396) -/

/-- Body of a DATA frame: its packet (R376). -/
def packetBody (p : Packet) : List Byte := (pktWords p).flatMap fun w => wordBytes w.w

/-- Nanoseconds of a Field Time, as the exchange counts them (R336). -/
def nsOf (ft : W64) : Int := (ft.toNat : Int) * 5 / 4

/-- What the port writes into a BEACON as it leaves (R406). -/
def stampBeacon (ft : W64) (p : Packet) : Packet :=
  if (hdr p).op = 0x88 then { p with data := leBytes 8 ft.toNat ++ leBytes 2 0 ++ p.data.drop 10 } else p

/-- A DATA frame goes out on its port, now and as its record says (R336, R389). -/
def State.transmit (s : State) (f : SentFrame) : State :=
  let pkt := stampBeacon s.now f.q.pkt
  let f' := { f with q := { f.q with pkt := pkt }, sends := f.sends + 1, due := false, backoff := 0, inOpen := s.slotOpen f.port }
  let s1 := { s with ports := { s.ports with sent := s.ports.sent.map fun (x : SentFrame) =>
    if x.fdst == f.fdst && x.fseq == f.fseq then f' else x } }
  let s2 := if (hdr pkt).op = 0x89 then { s1 with time := { s1.time with t3 := nsOf s.now } } else s1
  s2.emitFrame f.port f.fdst (s2.frameTo f.fdst 1 f.fseq (packetBody pkt))

/-- A frame that waits to be resent may go now (R384). -/
def State.resendable (s : State) (f : SentFrame) : Bool :=
  f.due && f.backoff == 0 && s.canBegin f.port f.fdst (lineBytes (packetBody f.q.pkt).length)

/-- OPEN slots to let pass before a resend, by the transmissions so far: a draw from 0 to 1, 3 or 7 (R384; log entry 48). -/
def State.drawBackoff (s : State) (f : SentFrame) : Nat :=
  let n := if !f.inOpen || f.sends < 2 then 0
    else if f.sends = 2 then s.freeVal % 2 else if f.sends = 3 then s.freeVal % 4 else s.freeVal % 8
  if n = 0 then 0 else n + 1

/-- A frame is resent under R389: it waits out its backoff, and goes at once when it may. -/
def State.resend (s : State) (f : SentFrame) : State :=
  let f' := { f with due := true, backoff := s.drawBackoff f }
  let s1 := ({ s with ports := { s.ports with sent := s.ports.sent.map fun (x : SentFrame) => if x = f then f' else x } } : State).draw
  let s2 := s1.modPort f.port fun q => { q with resent := inc 16 q.resent }
  if s2.resendable f' then s2.transmit f' else s2

/-- Bytes of a port's own half in use (R390). -/
def State.ownHalf (s : State) (p : Nat) : Nat :=
  ((s.ports.sent.filter fun f => f.port == p).map fun f => 32 + (packetBody f.q.pkt).length).sum

/-- The series of a peer has room: its oldest unacknowledged frame is less than 4,095 behind its newest (R389). -/
def State.seriesRoom (s : State) (key : Nat) : Bool :=
  (s.ports.sent.filter fun f => f.fdst == key).all fun f => decide (((s.peerSend key).fseq - 1 - f.fseq).toNat < 4095)

/-- A queued packet whose frame a port can begin now (R389, R390, R395). -/
def State.outReady (s : State) (p : Nat) (q : QPacket) : Bool :=
  let key := s.peerKey p (q.readers.getD 1 0)
  let n := (packetBody q.pkt).length
  q.readers.head? == some p && s.canBegin p key (lineBytes n) && s.seriesRoom key && decide (s.ownHalf p + 32 + n ≤ 2 ^ 21)
    && !(s.port p).failed.contains key

/-- A new DATA frame: it takes the next FSEQ of its peer and is kept until acknowledged (R388, R390). -/
def State.newFrame (s : State) (p : Nat) (q : QPacket) : State :=
  let key := s.peerKey p (q.readers.getD 1 0)
  let n := (s.peerSend key).fseq
  let f : SentFrame := { fdst := key, fseq := n, q := q, port := p, sends := 0, refusals := q.readers.getD 2 0, backoff := 0
                         due := false, inOpen := false, probed := [] }
  let s1 := { s.outTake q with ports := { (s.outTake q).ports with sent := s.ports.sent ++ [f] } }
  (s1.modSend key fun x => { x with fseq := n + 1 }).transmit f

/-- FRAME_SEND: a frame that waits to be resent, else a queued packet that may go: of the output buffers the first in order of channel and hop class, and of that the first packet that may (R185, R384, R389, R395; the order is log entry 81). -/
def execFrameSend (p : Nat) (s : State) : Host.Outcome State Fault Refusal :=
  act (decide (p < 16) && s.portRuns p) s fun s =>
    match s.ports.sent.find? fun f => f.port == p && s.resendable f with
    | some f => s.transmit f
    | none => match (s.outBuffers p).find? fun q => s.outReady p q with
      | some q => s.newFrame p q
      | none => s

/-! ### Acknowledgement, refusal and resend (R257, R388 to R391) -/

/-- Operations of which a frame was accepted by the far end, or lost with no answer: not every frame was refused (R258). -/
def State.markAccepted (s : State) (l : List SentFrame) : State :=
  { s with
    rem := { s.rem with
      rack := s.rem.rack.map fun (r : RackOp) =>
        if l.any (fun f => f.q.op == some r.id) then { r with accepted := true } else r } }

/-- A path that a probe found again returns to service (R396). -/
def State.pathBack (s : State) (p key : Nat) : State :=
  (s.modPort p fun q => { q with failed := q.failed.filter (· != key) }).sense (ntPathFail p) s

/-- Frames are acknowledged: both halves free them, and probed paths return (R390, R396). -/
def State.freeFrames (s : State) (l : List SentFrame) : State :=
  let s1 := { s with ports := { s.ports with sent := s.ports.sent.filter fun f => !l.contains f } }
  each l (fun f s => each f.probed (fun p s => s.pathBack p f.fdst) s) s1

/-- What a frame acknowledges (R388). -/
def State.takeAckSeq (s : State) (key : Nat) (h : FHdr) : State :=
  if h.av then
    let l := s.ports.sent.filter fun f => f.fdst == key && decide ((h.ackseq - f.fseq).toNat < 2 ^ 23)
    (s.freeFrames l).markAccepted l
  else s

/-- The first checked frame of a port, when it is of the kind asked for, and the peer it came from (R378). -/
def State.headFrame (s : State) (p kind : Nat) : Option (Frame × W64 × Nat) :=
  match (s.port p).rxq with
  | [] => none
  | e :: _ => if (fhdrOf e.1.hdr).kind = kind then some (e.1, e.2, s.peerKey p (fhdrOf e.1.hdr).fsrc) else none

/-- The frame is handled. -/
def State.popFrame (s : State) (p : Nat) : State := s.modPort p fun q => { q with rxq := q.rxq.drop 1 }

/-- RATE of TEST_PORTACK for a port: one received ACK frame in 2^RATE is discarded (R603; log entry 24). -/
def State.portAckRate (s : State) (p : Nat) : Nat :=
  if s.test.portAck.getLsbD p then bits s.test.portAck.toNat 31 27 else 0

/-- ACK_FRAME (R388); a perturbation may discard it (R601, R603). -/
def execAckFrame (p : Nat) (s : State) : Host.Outcome State Fault Refusal :=
  match s.headFrame p 2 with
  | none => .next s
  | some (f, _, key) =>
    let s1 := (s.popFrame p).when (s.portAckRate p != 0) State.draw
    .next (if s.oneIn (s.portAckRate p) then s1 else s1.takeAckSeq key (fhdrOf f.hdr))

/-- The number in the 8 bytes of a NAK or REFUSE body (R376). -/
def bodyWord (f : Frame) : Nat := (bytesWord (sliceB f.body 0 8)).toNat

/-- NAK_FRAME: the frames it names are resent (R389). -/
def execNakFrame (p : Nat) (s : State) : Host.Outcome State Fault Refusal :=
  match s.headFrame p 3 with
  | none => .next s
  | some (f, _, key) =>
    let w := bodyWord f
    let first := BitVec.ofNat 24 (bits w 63 40)
    let s1 := (s.popFrame p).takeAckSeq key (fhdrOf f.hdr)
    .next (each (s1.ports.sent.filter fun x => x.fdst == key && !x.due && decide ((x.fseq - first).toNat < bits w 39 32))
      (fun x s => s.resend x) s1)

/-- REFUSE: it acknowledges the frame, and the packet waits out its backoff, unless the operation that it is of has ended (R257, R258, R391). -/
def execRefuse (p : Nat) (s : State) : Host.Outcome State Fault Refusal :=
  match s.headFrame p 4 with
  | none => .next s
  | some (f, _, key) =>
    let q := BitVec.ofNat 24 (bits (bodyWord f) 63 40)
    let hit := s.ports.sent.filter fun x => x.fdst == key && x.fseq == q
    let s1 := ((s.popFrame p).freeFrames hit).takeAckSeq key (fhdrOf f.hdr)
    let again (x : SentFrame) : Bool := match x.q.op with
      | some id => s1.rem.rack.any fun r => r.id == id
      | none => true
    .next { s1 with
      ports := { s1.ports with backoff := s1.ports.backoff ++ (hit.filter again).map fun x => (x.q, key, x.refusals + 1) }
      rem := { s1.rem with refuseGot := sat 16 (s1.rem.refuseGot + hit.length) } }

/-- REFUSAL_BACKOFF_END: the packet is queued for a new frame on any port of its plat entry (R257, R391). -/
def execRefusalBackoffEnd (fdst : Nat) (s : State) : Host.Outcome State Fault Refusal :=
  match s.ports.backoff.find? fun b => b.2.1 == fdst with
  | none => .next s
  | some b =>
    let r : Status × Nat × Nat := if isPeerKey fdst then (.done, fdst - 2 ^ 20, 0) else s.route fdst
    act (decide (r.1 = .done)) s fun s =>
      ({ s with ports := { s.ports with backoff := s.ports.backoff.erase b } } : State).outPut
        { b.1 with readers := [r.2.1, r.2.2, b.2.2] }

/-- An operation that crossed the rack ends with a status at its issuer (R248). -/
def State.endRack (s : State) (id : Nat) (st : Status) : State :=
  match s.rem.rack.find? fun r => r.id == id with
  | none => s
  | some r => (s.dropRack id).post r.xs (issuerStation (hdr r.pkt))
      (replyTo r.pkt 0 0 (if st = .deadTarget then 0x91 else 0x90) (hdr r.pkt).laddr [] st false) none

/-- RESYNC: the peer has restarted (R393). -/
def execResync (p : Nat) (s : State) : Host.Outcome State Fault Refusal :=
  match s.headFrame p 5 with
  | none => .next s
  | some (f, _, key) =>
    let l := s.ports.sent.filter fun x => x.fdst == key
    let s1 := s.popFrame p
    let s2 := { s1 with ports := { s1.ports with sent := s1.ports.sent.filter fun x => x.fdst != key } }
    let s3 := each (l.filterMap fun x => x.q.op) (fun i s => s.endRack i .deadTarget) s2
    .next ((s3.modSend key fun x => { x with dinc := (fhdrOf f.hdr).sinc, fseq := 0 }).raise ntPeerResync)

/-- FRAME_RESEND_TIMER (R389). -/
def execFrameResendTimer (fdst : Nat) (fseq : BitVec 24) (s : State) : Host.Outcome State Fault Refusal :=
  match s.ports.sent.find? fun f => f.fdst == fdst && f.fseq == fseq with
  | none => .next s
  | some f => act (!f.due && s.portServes f.port && !(s.port f.port).failed.contains fdst) s fun s => s.resend f

/-- ACK_FRAME_TIMER: the acknowledgement leaves by the port of arrival (R388). -/
def execAckFrameTimer (fsrc : Nat) (s : State) : Host.Outcome State Fault Refusal :=
  act (s.peerWin fsrc).owesAck s fun s =>
    s.sendCtl (s.peerWin fsrc).port fsrc 2 []

/-- The first gap of a window: first missing FSEQ, and how many are missing in a row (R376). -/
def PeerWin.gap (w : PeerWin) : Option (BitVec 24 × Nat) :=
  if w.ahead = [] then none
  else some (w.base, ((List.range 255).takeWhile fun i => !w.ahead.contains (w.base + BitVec.ofNat 24 i)).length)

/-- NAK_GAP_TIMER (R388). -/
def execNakGapTimer (fsrc : Nat) (s : State) : Host.Outcome State Fault Refusal :=
  match (s.peerWin fsrc).gap with
  | none => .next s
  | some g => act true s fun s =>
    s.sendCtl (s.peerWin fsrc).port fsrc 3 (wordBytes (BitVec.ofNat 64 (g.1.toNat * 2 ^ 40 + g.2 * 2 ^ 32)))

/-! ### Paths, failover and handover (R394 to R397) -/

/-- Port that R395 chooses now for a frame. -/
def State.newPort (s : State) (f : SentFrame) : Option Nat :=
  let a := s.route (hdr f.q.pkt).dest
  let r := if a.1 = .done ∧ a.2.2 = f.fdst then a else s.route f.fdst
  if r.1 = .done then some r.2.1 else none

/-- A frame moves to another port, which resends it with its FSEQ unchanged (R396); with none it stays. -/
def State.moveFrame (s : State) (f : SentFrame) : State :=
  match s.newPort f with
  | none => s
  | some p => { s with ports := { s.ports with sent := s.ports.sent.map fun (x : SentFrame) =>
      if x = f then { x with port := p, due := true, backoff := 0 } else x } }

/-- Packets queued at a port go to the ports that R395 now chooses; those of a P2P peer stay (R387). -/
def State.moveQueue (s : State) (p : Nat) (l : QPacket → Bool) : State :=
  each ((s.outBuffers p).filter fun q => l q && !(s.port p).p2p) (fun q s =>
    let r := s.route (q.readers.getD 1 0)
    if r.1 = .done then (s.outTake q).outPut { q with readers := [r.2.1, r.2.2, q.readers.getD 2 0] } else s) s

/-- PATH_FAIL (R396). -/
def execPathFail (p fdst : Nat) (s : State) : Host.Outcome State Fault Refusal :=
  act (decide (p < 16) && !isPeerKey fdst && !(s.port p).failed.contains fdst
    && s.ports.sent.any fun f => f.port == p && f.fdst == fdst) s fun s =>
    let s1 := (s.modPort p fun q => { q with failed := q.failed ++ [fdst], pathFailCnt := inc 8 q.pathFailCnt }).sense (ntPathFail p) s
    let s2 := each (s1.ports.sent.filter fun f => f.port == p && f.fdst == fdst) (fun f s => s.moveFrame f) s1
    s2.moveQueue p fun q => q.readers.getD 1 0 == fdst

/-- PATH_PROBE: one unacknowledged frame of the path goes on it (R396). -/
def execPathProbe (p fdst : Nat) (s : State) : Host.Outcome State Fault Refusal :=
  match s.ports.sent.find? fun f => f.fdst == fdst with
  | none => .next s
  | some f => act ((s.port p).failed.contains fdst && s.canBegin p fdst (lineBytes (packetBody f.q.pkt).length)) s fun s =>
    let s1 := { s with ports := { s.ports with sent := s.ports.sent.map fun (x : SentFrame) =>
      if x = f then { x with probed := (p :: x.probed).dedup } else x } }
    s1.emitFrame p fdst (s1.frameTo fdst 1 f.fseq (packetBody f.q.pkt))

/-- The partner of a port (R390). -/
def partner (p : Nat) : Nat := if p % 2 = 0 then p + 1 else p - 1

/-- MIRROR_HANDOVER (R397). -/
def execMirrorHandover (p : Nat) (s : State) : Host.Outcome State Fault Refusal :=
  act (decide (p < 16) && !s.portServes p && s.portServes (partner p)) s fun s =>
    each (s.ports.sent.filter fun f => f.port == p && !isPeerKey f.fdst) (fun f s => s.moveFrame f) s

/-- A port has left service: what waits at it goes elsewhere, and with its partner out too the frames of both are lost, which is no refusal of them (R258, R397, R414). -/
def State.portLeft (s : State) (p : Nat) : State :=
  let s1 := s.moveQueue p fun _ => true
  if s.portServes (partner p) then s1
  else
    let lost (f : SentFrame) : Bool := !isPeerKey f.fdst && (f.port == p || f.port == partner p)
    ({ s1 with ports := { s1.ports with sent := s1.ports.sent.filter fun f => !lost f } } : State).markAccepted
      (s1.ports.sent.filter lost)

/-- A port changes; PORT_DOWN, PORT_GEN1, PATH_FAIL and CAP_CHANGE follow it (R438, R459). -/
def State.setPort (s : State) (p : Nat) (f : Port → Port) : State :=
  ((((s.modPort p f).sense (ntPortDown p) s).sense (ntPortGen1 p) s).sense (ntPathFail p) s).capSense [0] s

/-- A port that was in service leaves it. -/
def State.takePort (s : State) (p : Nat) (f : Port → Port) : State :=
  let s1 := s.setPort p f
  if s.portServes p && !s1.portServes p then s1.portLeft p else s1

/-! ### Frames in (R71, R378, R388, R391, R392, R617) -/

/-- FRAME_RECEIVE: the checks in their order; a frame that passes waits to be handled by its kind (R378, R387, R392, R399). RESYNC itself is taken whatever DINC it carries (log entry 49). -/
def State.receiveFrame (s : State) (p : Nat) (f : Frame) : State :=
  let q := s.port p
  let h := fhdrOf f.hdr
  let key := s.peerKey p h.fsrc
  if frameCrc f != f.crc then s.modPort p fun q => { q with crcErr := inc 11 q.crcErr }
  else if !s.tagOk p f then
    let quiet := match q.strangerAt with
      | some t => decide ((s.now - t).toNat < ticksPerMs)
      | none => false
    let s1 := s.modPort p fun q => { q with stranger := inc 11 q.stranger, strangerAt := if quiet then q.strangerAt else some s.now }
    if quiet then s1 else s1.raise (ntStranger p)
  else if !(if q.p2p then h.fdst == 0 || (s.plat.valid && h.fdst == s.plat.id)
      else s.plat.valid && h.fdst == s.plat.id && (s.platMatch h.fsrc).isSome) then
    s.modPort p fun q => { q with misaddr := inc 10 q.misaddr }
  else if h.dinc != s.group.inc && h.kind != 5 then s.sendCtl p key 5 []
  else
    let s1 := if (s.peerWin key).sinc = some h.sinc then s
      else s.modWin key fun _ => { PeerWin.reset with sinc := some h.sinc }
    s1.modPort p fun q => { q with rxq := if 1 ≤ h.kind ∧ h.kind ≤ 5 then q.rxq ++ [(f, s.now)] else q.rxq }

/-- FRAME_RECEIVE (R378). -/
def execFrameReceive (p : Nat) (f : Frame) (s : State) : Host.Outcome State Fault Refusal :=
  act (decide (p < 16) && s.portRuns p) s fun s => s.receiveFrame p f

/-- How a window takes an FSEQ: accept, duplicate or stale (R388). -/
def PeerWin.check (w : PeerWin) (q : BitVec 24) : SeqCheck :=
  let high := w.highest.getD (-1)
  let ahead := (q - high).toNat
  if 1 ≤ ahead ∧ ahead < 2 ^ 23 then .accept (none, [])
  else if w.highest.isSome ∧ (high - q).toNat < 4096 then
    if w.ahead.contains q || (w.any && decide ((w.base - 1 - q).toNat < 4096)) then .duplicate else .accept (none, [])
  else .stale

/-- The cumulative end of a window moves past what it holds (R388). -/
def PeerWin.advance : Nat → PeerWin → PeerWin
  | 0, w => w
  | n + 1, w => if w.ahead.contains w.base then
      PeerWin.advance n { w with base := w.base + 1, any := true, ahead := w.ahead.filter (· != w.base) } else w

/-- The window takes an FSEQ (R388, R391). -/
def PeerWin.take (w : PeerWin) (q : BitVec 24) (p : Nat) (refused : Bool) : PeerWin :=
  let high := w.highest.getD (-1)
  let h := if 1 ≤ (q - high).toNat ∧ (q - high).toNat < 2 ^ 23 then q else high
  PeerWin.advance (w.ahead.length + 1)
    { w with
      highest := some h, ahead := q :: w.ahead, owesAck := true, port := p
      refused := (if refused then [q] else []) ++ w.refused.filter fun x => decide ((h - x).toNat < 4096) }

/-- The exchange station by which traffic of a port enters (R71). -/
def State.xsOfPort (s : State) (p : Nat) : Option Nat :=
  let a := if p < 8 then 12 else 13
  if s.stServes a then some a else if s.stServes (25 - a) then some (25 - a) else none

/-- Stations that perform a request from outside (R228, R176). -/
def State.performers (s : State) (p : Packet) : List Nat :=
  let h := hdr p
  if h.dmp then maskStations (BitVec.ofNat 8 h.status) else (s.performer h.laddr).toList

/-- Requests of a port bound for a station on a channel that the station has not accepted (R256). -/
def State.portHolds (s : State) (p st vc : Nat) : Nat :=
  (s.fab.ring.filter fun r => r.src == p && (hdr r.q.pkt).vc == vc && isRequest (hdr r.q.pkt).op
    && (s.performers r.q.pkt).contains st).length

/-- A packet that this device itself serves (R148, R186). -/
def State.servesHere (s : State) (p : Packet) : Bool :=
  s.isSelf (hdr p).dest || ((hdr p).dest == 0xFFFFF && (extOf p.ext).gmask.testBit s.group.sidx)

/-- The station and channel at which a frame is refused (R256). -/
def State.refuseAt (s : State) (p : Nat) (pkt : Packet) : Option Nat :=
  if s.servesHere pkt && isRequest (hdr pkt).op then
    (s.performers pkt).find? fun t => decide (16 ≤ s.portHolds p t (hdr pkt).vc)
  else none

/-- A packet of the CTL channel goes to the host bridge. -/
def isCtl (op : Nat) : Bool := decide (0x80 ≤ op) && decide (op ≤ 0x8F)

/-- A fault of the relay goes back to the packet's source, on the link of a P2P peer when it came from one (R183, R416). -/
def State.relayFault (s : State) (p : Nat) (pkt : Packet) (st : Status) : State :=
  let s1 := { s with plat := { s.plat with drop := inc 16 s.plat.drop } }
  let r := replyTo pkt (extOf pkt.ext).src s.ownExt 0x90 (replyLaddr pkt 0x90) [] st false
  let r := { r with hdr := (withHdr r fun h => { h with xt := true }).hdr, ext := s.ownExt }
  if (s.port p).p2p then s1.toPort (portStop p) p 0 r none
  else (s1.depart (portStop p) r none).2

/-- A relay forwards a packet under a PSEQ of its own, into the output buffers of the next hop class, or discards it with a fault reply (R151, R157, R183, R185); what it sends from a stop of the ring. -/
def State.relay (s : State) (p here : Nat) (pkt : Packet) : State :=
  let h := hdr pkt
  let r := s.route h.dest
  if 2 ≤ h.hc then s.relayFault p pkt .pathLost
  else if r.1 ≠ .done then s.relayFault p pkt r.1
  else
    let s1 := { s with plat := { s.plat with fwd := inc 16 s.plat.fwd } }
    let n := tget s.plat.relayPseq 0 h.vc
    let s2 := { s1 with plat := { s1.plat with relayPseq := tset s1.plat.relayPseq 0 h.vc (n + 1) } }
    s2.toPort here r.2.1 r.2.2 (withHdr pkt fun h => { h with hc := h.hc + 1, pseq := n.toNat }) none

/-- The stop to which a packet served here goes: the host bridge for CTL, else the exchange station (R71, R419). -/
def State.entryStop (s : State) (p : Nat) (pkt : Packet) : Option Nat :=
  if isCtl (hdr pkt).op then some bridgeStop else (s.xsOfPort p).map xsStop

/-- A packet served here sets out from its port; a broadcast is served as if its DEST were 0 (R186). -/
def State.enterHere (s : State) (p : Nat) (ft : W64) (pkt : Packet) : State :=
  let q := if (hdr pkt).dest = 0xFFFFF then withHdr pkt fun h => { h with dest := 0 } else pkt
  match s.entryStop p pkt with
  | some dst => s.ringIn (portStop p) dst p ft { pkt := q, readers := [], op := none }
  | none => s

/-- A COMMAND from the adapter of P0 goes to the host bridge whatever its DEST (R416). -/
def State.hostCommand (s : State) (p : Nat) (pkt : Packet) : Bool := (hdr pkt).op == 0x80 && p == 0 && (s.port 0).p2p

/-- The packet of an accepted frame enters the device (R183, R186, R405, R616). -/
def State.packetIn (s : State) (p : Nat) (ft : W64) (pkt : Packet) : State :=
  let h := hdr pkt
  if s.hostCommand p pkt then s.ringIn (portStop p) bridgeStop p ft { pkt := pkt, readers := [], op := none }
  else if h.dest = 0xFFFFF then
    let s1 := if s.servesHere pkt then s.enterHere p ft pkt else s
    let left := (maskMembers (BitVec.ofNat 64 (extOf pkt.ext).gmask)).filter (· != s.group.sidx)
    if h.hc < 2 then s1.replicate (portStop p) pkt left none else s1
  else if s.isSelf h.dest then s.enterHere p ft pkt
  else s.relay p (portStop p) pkt

/-- A packet that would enter the fabric with no exchange station in service (R617). -/
def State.noEntry (s : State) (p : Nat) (pkt : Packet) : Bool :=
  s.servesHere pkt && !s.hostCommand p pkt && (s.entryStop p pkt).isNone

/-- The packet in the body of a DATA frame (R376). -/
def bodyPacket (f : Frame) : Option Packet :=
  (takePacket ((chunkWords (f.body.length / 8) f.body).map fun w => { w := w, hdr := false })).map fun x => x.1

/-- REFUSE for a frame (R376, R391). -/
def State.sendRefuse (s : State) (p key : Nat) (q : BitVec 24) (st vc : Nat) : State :=
  s.sendCtl p key 4 (wordBytes (BitVec.ofNat 64 (q.toNat * 2 ^ 40 + (st % 16) * 2 ^ 36 + (vc % 8) * 2 ^ 33)))

/-- A DATA frame by the window of its sender (R256, R388, R391, R617). -/
def State.dataIn (s : State) (p key : Nat) (ft : W64) (h : FHdr) (pkt : Packet) : State :=
  let w := s.peerWin key
  match w.check h.fseq with
  | .stale => s
  | .duplicate =>
    let s1 := (s.modPort p fun q => { q with dup := inc 8 q.dup }).modWin key fun w => { w with owesAck := true, port := p }
    if w.refused.contains h.fseq then
      s1.sendRefuse p key h.fseq ((s.performers pkt).headD 0) (hdr pkt).vc
    else s1
  | .accept _ =>
    if s.noEntry p pkt then s
    else match s.refuseAt p pkt with
      | some t =>
        let s1 := s.modWin key fun w => w.take h.fseq p true
        ({ s1 with rem := { s1.rem with refuseSent := inc 16 s1.rem.refuseSent } } : State).sendRefuse p key h.fseq t (hdr pkt).vc
      | none => (s.modWin key fun w => w.take h.fseq p false).packetIn p ft pkt

/-- DATA_FRAME (R388). -/
def execDataFrame (p : Nat) (s : State) : Host.Outcome State Fault Refusal :=
  match s.headFrame p 1 with
  | none => .next s
  | some (f, ft, key) =>
    let s1 := (s.popFrame p).takeAckSeq key (fhdrOf f.hdr)
    .next (match bodyPacket f with
      | none => s1
      | some pkt => s1.dataIn p key ft (fhdrOf f.hdr) pkt)

/-! ### The calendar (R379 to R383) -/

/-- The calendar as written: changes that wait for their slot included (R382, R383). -/
def Port.writtenCal (q : Port) (i : Nat) : CalEntry :=
  match (q.calPending.filter fun e => e.1 == i).getLast? with
  | some e => e.2.1
  | none => tget q.cal CalEntry.reset i

/-- The destination sets as written. -/
def Port.writtenSet (q : Port) (i : Nat) : W64 :=
  match (q.dsetPending.filter fun e => e.1 == i).getLast? with
  | some e => e.2.1
  | none => tget q.dsets 0 i

/-- Slots whose written entry is not OPEN. -/
def Port.closedSlots (q : Port) : List Nat :=
  ((q.cal.map (·.1)) ++ q.calPending.map (·.1)).dedup.filter fun i => (q.writtenCal i).type != 2

/-- Some run of 64 consecutive slots has no OPEN one, once an entry is written (R382). -/
def Port.closedRun (q : Port) (slot : Nat) (e : CalEntry) : Bool :=
  let l := q.closedSlots.filter (· != slot) ++ if e.type == 2 then [] else [slot]
  l.any fun i => (List.range 64).all fun k => l.contains ((i + k) % 4096)

/-- The checks of CAL_SET in the order of R382. -/
def State.calChecks (s : State) (p slot type dset : Nat) : List (Bool × Status) :=
  let q := s.port p
  [ (decide (16 ≤ p) || decide (4096 ≤ slot) || decide (64 ≤ dset), .outOfRange),
    (decide (3 ≤ type), .badField),
    (type == 1 && q.writtenSet dset == 0, .badField),
    (q.closedRun slot { type := type, dset := dset }, .badField),
    (!s.plat.valid, .wrongState),
    (q.halted, .parity) ]

/-- A calendar entry is changed, from the first start of its slot not before an instant (R383). -/
def State.calWrite (s : State) (p slot type dset : Nat) (notBefore : W64) : State :=
  s.modPort p fun q => { q with calPending := q.calPending ++ [(slot, { type := type, dset := dset }, notBefore)] }

/-- Two microseconds from now (R383). -/
def State.in2us (s : State) : W64 := s.now + 1600

/-- CAL_SET (R382). -/
def execCalSet (o : Origin) (p slot type dset : Nat) (s : State) : Host.Outcome State Fault Refusal :=
  .next (s.command o 0xA0 ((type == 3, .badField) :: s.calChecks p slot type dset) fun s => (s.calWrite p slot type dset s.in2us, []))

/-- An OWN entry, as written, names a destination set. -/
def Port.ownNames (q : Port) (i : Nat) : Bool :=
  q.closedSlots.any fun n => (q.writtenCal n).type == 1 && (q.writtenCal n).dset == i

/-- CAL_DSET (R382). -/
def execCalDset (o : Origin) (p i : Nat) (mask : W64) (s : State) : Host.Outcome State Fault Refusal :=
  .next (s.command o 0xA1
    [ (decide (16 ≤ p) || decide (64 ≤ i), .outOfRange),
      (mask == 0 && (s.port p).ownNames i, .badField),
      (!s.plat.valid, .wrongState),
      ((s.port p).halted, .parity) ]
    fun s => (s.modPort p fun q => { q with dsetPending := q.dsetPending ++ [(i, mask, s.in2us)] }, []))

/-- CAL_GET: one entry and its set (R424, R425). -/
def execCalGet (o : Origin) (p slot : Nat) (s : State) : Host.Outcome State Fault Refusal :=
  .next (s.command o 0xA2 [(decide (16 ≤ p) || decide (4096 ≤ slot), .outOfRange), ((s.port p).halted, .parity)] fun s =>
    let e := (s.port p).writtenCal slot
    (s, BitVec.ofNat 8 (e.type * 64 + e.dset) :: leBytes 8 ((s.port p).writtenSet e.dset).toNat))

/-- Changes of the calendar that take effect with the start of a slot (R383). -/
def Port.applyCal (q : Port) (slot : Nat) (now : W64) : Port :=
  let due (e : Nat × CalEntry × W64) : Bool := e.1 == slot % 4096 && decide (e.2.2.toNat ≤ now.toNat)
  { q with
    cal := (q.calPending.filter due).foldl (fun t e => tset t CalEntry.reset e.1 e.2.1) q.cal
    calBad := q.calBad.filter fun i => !q.calPending.any fun e => due e && e.1 == i
    calPending := q.calPending.filter fun e => !due e }

/-- A change of a destination set takes effect with the first slot that names it (R383); one that no OWN entry names touches no slot, and takes effect with any. -/
def Port.applySets (q : Port) (slot : Nat) (now : W64) : Port :=
  let e := tget q.cal CalEntry.reset (slot % 4096)
  let due (x : Nat × W64 × W64) : Bool :=
    decide (x.2.2.toNat ≤ now.toNat) && ((e.type == 1 && e.dset == x.1) || !q.ownNames x.1)
  { q with
    dsets := (q.dsetPending.filter due).foldl (fun t x => tset t 0 x.1 x.2.1) q.dsets
    dsetBad := q.dsetBad.filter fun i => !q.dsetPending.any fun x => due x && x.1 == i
    dsetPending := q.dsetPending.filter fun x => !due x }

/-- An OPEN slot of a port begins: frames of the port count it (R384). -/
def State.countOpen (s : State) (p : Nat) : State :=
  if s.slotOpen p then
    { s with ports := { s.ports with sent := s.ports.sent.map fun (f : SentFrame) =>
      if f.port == p && f.due then { f with backoff := f.backoff - 1 } else f } }
  else s

/-- CALENDAR_SLOT (R379, R380, R383, R384). -/
def execCalendarSlot (p slot : Nat) (s : State) : Host.Outcome State Fault Refusal :=
  act (decide (p < 16) && slot == s.slotNow) s fun s =>
    (((s.modPort p fun q => { (q.applyCal slot s.now).applySets slot s.now with slot := slot }).countOpen p).flushCtl p)

/-! ### Training (R372, R373, R386, R413) -/

/-- A port begins to train at step 1 (R372). -/
def Port.startTrain (q : Port) : Port := { q with state := .train, gen := 0, trainStep := 0, stuck := false }

/-- PORT_TRAIN: Gen-1 is trained, GENMAX and kind are exchanged, and both ends retrain at Gen-2 when they may (R372, R386); a port OFF with ENABLE 1 trains at bring-up (R526). -/
def execPortTrain (p : Nat) (peerGenMax : Nat) (peerHost : Bool) (s : State) : Host.Outcome State Fault Refusal :=
  let q := s.port p
  act (decide (p < 16) && (decide (q.state = .train) || (decide (q.state = .off) && q.enable && !s.power.tripped))
      && q.trainStep == 0) s fun s => s.setPort p fun q =>
    { q with
      state := .train
      peerGenMax := peerGenMax, peerHost := peerHost
      trainStep := if 2 ≤ peerGenMax ∧ 2 ≤ q.genMax ∧ !q.gen2Fail then 2 else 1 }

/-- GEN2_TRAIN_TIMEOUT (R372). -/
def execGen2TrainTimeout (p : Nat) (s : State) : Host.Outcome State Fault Refusal :=
  act (decide (p < 16) && decide ((s.port p).state = .train) && (s.port p).trainStep == 2) s fun s => s.setPort p fun q =>
    { q with gen2Fail := true, trainStep := 1 }

/-- PORT_TRAIN_TIMEOUT (R372). -/
def execPortTrainTimeout (p : Nat) (s : State) : Host.Outcome State Fault Refusal :=
  act (decide (p < 16) && decide ((s.port p).state = .train)) s fun s => s.setPort p fun q =>
    { q with state := .fault, trainStep := 0 }

/-- PORT_TRAIN_COMPLETE: the port is UP; P0 with a host adapter is point to point (R372, R386). -/
def execPortTrainComplete (p : Nat) (s : State) : Host.Outcome State Fault Refusal :=
  act (decide (p < 16) && decide ((s.port p).state = .train) && (s.port p).trainStep != 0) s fun s => s.setPort p fun q =>
    let w := q.p2pWritten || (p == 0 && q.peerHost)
    { q with state := .up, gen := q.trainStep, trainStep := 0, p2pWritten := w, p2p := w }

/-- PEER_LIGHT_DETECT: a port in FAULT after training starts again, one asleep wakes (R372, R498). -/
def execPeerLightDetect (p : Nat) (s : State) : Host.Outcome State Fault Refusal :=
  act (decide (p < 16) && (s.port p).enable
    && ((decide ((s.port p).state = .fault) && !(s.port p).stuck) || decide ((s.port p).state = .asleep))) s fun s =>
    if (s.port p).state = .asleep then s.modPort p fun q => { q with waking := true } else s.setPort p Port.startTrain

/-- What leaving service makes of a port: it retrains, or stays in FAULT (R373). -/
def Port.down (q : Port) : PortCause → Port
  | .alignment => q.startTrain
  | .uncorrectable =>
    if q.gen = 2 then { q.startTrain with gen2Fail := true }
    else { q with state := .fault, gen := 0, stuck := true }

/-- PORT_DOWN (R373). -/
def execPortDown (p : Nat) (why : PortCause) (s : State) : Host.Outcome State Fault Refusal :=
  act (decide (p < 16) && decide ((s.port p).state = .up)) s fun s => s.takePort p fun q => q.down why

/-- Offset of PORT_CFG of a port (R413, R442). -/
def portCfgReg (p : Nat) : Nat := 0x00070000 + 0x140 + 4 * p

/-- What a PORT_CFG write makes of a port (R372, R413). -/
def Port.config (q : Port) (data : W32) : Port :=
  let en := data.getLsbD 31
  let q1 := { q with enable := en, genMax := bits data.toNat 30 29, p2pWritten := data.getLsbD 28 }
  if en && !q.enable then q1.startTrain
  else if !en then { q1 with state := .off, gen := 0, trainStep := 0, stuck := false }
  else q1

/-- A posted write of PORT_CFG as the port applies it, with the status of a write it drops (R413). -/
def State.portCfg (s : State) (p : Nat) (data : W32) : State × Status :=
  let g := bits data.toNat 30 29
  if (s.port p).state = .train then (s, .wrongState)
  else if g ≠ 1 ∧ g ≠ 2 then (s, .outOfRange)
  else (s.takePort p fun q => q.config data, .done)

end Sys2Proof.Machine
end

