-- ==== Sys2Proof/Machine/Group.lean ====
section
/-! DEFINITION. Groups (11): enrolment, rekey, GROUP_SAVE, takeover and epochs; and Field Time across a group (10), whose
exchange travels as CTL packets. -/

namespace Sys2Proof.Machine

open Sys2Proof

/-! ### CTL packets of the host bridge (R406, R417) -/

/-- ISSUER of the host bridge's packets: it issues them by exchange station XS0, under number 62 (R156, R616; log entry 45). -/
def ctlIssuer : Nat := 12 * 64 + 62

/-- A CTL packet of this device, with its ID and epoch in the extension (R158, R160; its ISSUER is log entry 45). -/
def State.ctlPacket (s : State) (dest op : Nat) (payload : List Byte) : Packet :=
  { hdr := Hdr.enc { dest := dest, laddr := 0, op := op, vc := 4, hc := 0, dmp := false, len := payload.length
                     issuer := ctlIssuer, pseq := 0, xt := true, poison := false, retry := false, mcr := false, sys := true
                     status := 0 }
    ext := s.ownExt, data := payload }

/-- A CTL packet sets out for a device (R395). -/
def State.sendGroup (s : State) (dest op : Nat) (payload : List Byte) : State :=
  each [s.ctlPacket dest op payload] (fun p s => (s.depart bridgeStop p none).2) s

/-- The first CTL packet with an opcode is taken from the host bridge: port, packet, Field Time of arrival. -/
def State.takeCtl (s : State) (op : Nat) : Option ((Nat × Packet × W64) × State) :=
  match s.bridge.inbox.find? fun e => (hdr e.2.1).op == op with
  | none => none
  | some e => some (e, { s with bridge := { s.bridge with inbox := s.bridge.inbox.erase e } })

/-- A packet whose source does not have the role it needs is discarded, counted and logged (R406; log entry 46). -/
def State.badRole (s : State) (p : Nat) : State :=
  ((s.modPort p fun q => { q with misaddr := inc 10 q.misaddr }).log (s.freeVal % 2 ^ 16) (s.freeVal % 4) 0xFFFF []).draw

/-- Endpoint that a packet comes from (R158). -/
def srcOf (p : Packet) : Nat := (extOf p.ext).src

/-- Members of the table other than this device (R404). -/
def State.otherMembers (s : State) (t : Tbl (Option Nat)) : List Nat :=
  ((t.filterMap fun e => e.2).filter fun e => !s.isSelf e).dedup

/-! ### The exchange (R336 to R341) -/

/-- Field Time counts as synchronised from this moment: every share sets EVFT, and shares that waited for it return (R249, R251). -/
def State.shareSync (s1 s0 : State) : State :=
  if !s0.synced && s1.synced then
    each (List.range 4) (fun k s =>
      if (s.ms k).shareUp || (decide (s.resets.phase = .ready) && s.msUp k) then
        (s.modMs k fun m => { m with shareUp := true, evft := if m.evft.toNat < s.now.toNat then s.now else m.evft }).capSense
          [9 + k] s
      else s) s1
  else s1

/-- Payload of BEACON, DELAY_REQ and DELAY_RSP: ticks, no fraction (log entry 44), exchange number (R406). -/
def exchPayload (ft : W64) (no : Nat) : List Byte := leBytes 8 ft.toNat ++ leBytes 2 0 ++ leBytes 2 no ++ leBytes 4 0

/-- Time in the payload, in ns (R336, R406). -/
def exchNs (p : Packet) : Int := ((fieldB p.data 0 8 * 65536 + fieldB p.data 8 2 : Nat) : Int) * 5 / 4 / 65536

/-- Exchange number in the payload. -/
def exchNo (p : Packet) : Nat := fieldB p.data 10 2

/-- BEACON: the master sends one to a member; a member takes the next one, records its time and answers with DELAY_REQ (R336). -/
def execBeacon (peer : Nat) (s : State) : Host.Outcome State Fault Refusal :=
  if s.time.role = .master then
    act (s.plat.valid && !s.isSelf peer) s fun s =>
      s.sendGroup peer 0x88 (exchPayload s.now (s.now.toNat / 65536 % 65536))
  else match s.takeCtl 0x88 with
    | none => .next s
    | some (e, s1) => act (decide (s.time.role = .member)) s fun _ =>
      if s.group.master ≠ some (srcOf e.2.1) then s1.badRole e.1
      else
        ({ s1 with time := { s1.time with
            t1 := some (exchNs e.2.1), t2 := nsOf e.2.2, exNo := exchNo e.2.1 } } : State).sendGroup
          (srcOf e.2.1) 0x89 (exchPayload 0 (exchNo e.2.1))

/-- DELAY_REQ: the master returns the time of its arrival (R336). -/
def execDelayReq (s : State) : Host.Outcome State Fault Refusal :=
  match s.takeCtl 0x89 with
  | none => .next s
  | some (e, s1) => act true s fun s =>
    if s.time.role = .master then s1.sendGroup (srcOf e.2.1) 0x8A (exchPayload e.2.2 (exchNo e.2.1)) else s1.badRole e.1

/-- The exchange in use: of the last eight the one with the smallest delay (R336). -/
def bestExchange : List (Int × Int) → Int × Int
  | [] => (0, 0)
  | x :: r => r.foldl (fun b y => if y.2 < b.2 then y else b) x

/-- A rate correction against an offset, at most 100 ppm; how much is open (R337; log entry 42). -/
def slewFor (offset : Int) (free : Nat) : Int :=
  if 0 < offset then -((free % 1001 : Nat) : Int) else if offset < 0 then ((free % 1001 : Nat) : Int)
  else ((free % 2001 : Nat) : Int) - 1000

/-- The root steps by an offset in ns to the master's estimate; its copies follow (R331, R338). -/
def Time.step (t : Time) (offset : Int) : Time :=
  { t with root := t.root - BitVec.ofInt 64 (offset * 4 / 5), held := [], history := [], good := 0, freePhase := 1 }

/-- A member takes an exchange (R336 to R338, R340; log entry 41). -/
def Time.exchange (t : Time) (offset delay : Int) (free : Nat) : Time :=
  let h := ((offset, delay) :: t.history).take 8
  let b := bestExchange h
  let u := { t with
    t1 := none, history := h, exch := inc 16 t.exch, offset := b.1, delay := b.2
    good := if b.1.natAbs ≤ 16 then t.good + 1 else 0 }
  let slewed := { u with slew := slewFor b.1 free }
  if u.resync then { u.step b.1 with resync := false }
  else match u.sync with
    | .sync => slewed
    | .hold => if b.1.natAbs ≤ 16 then { slewed with sync := .sync } else slewed
    | .free =>
      if u.freePhase = 0 then
        if h.length < 4 then u
        else if b.1 < 0 then u.step b.1
        else if b.1 ≤ 1000 then { slewed with freePhase := 1, sync := if 4 ≤ u.good then .sync else .free }
        else { u with freePhase := 2 }
      else if u.freePhase = 1 then { slewed with sync := if 4 ≤ u.good then .sync else .free }
      else u

/-- FT_SYNC changed: FT_UNSYNC and the receipt shares follow (R249, R459). -/
def State.setTime (s : State) (f : Time → Time) : State :=
  let s1 := { s with time := f s.time }
  (s1.sense ntFtUnsync s).shareSync s

/-- DELAY_RSP (R336, R338). -/
def execDelayRsp (s : State) : Host.Outcome State Fault Refusal :=
  match s.takeCtl 0x8A with
  | none => .next s
  | some (e, s1) => act true s fun s =>
    if s.time.role ≠ .member ∨ s.group.master ≠ some (srcOf e.2.1) then s1.badRole e.1
    else match s.time.t1 with
      | none => s1
      | some t1 =>
        if s.time.exNo ≠ exchNo e.2.1 then s1
        else
          let a := s.time.t2 - t1
          let b := exchNs e.2.1 - s.time.t3
          (s1.setTime fun t => t.exchange ((a - b) / 2) ((a + b) / 2) s1.freeVal).draw

/-- FT_HOLD: a member that was in SYNC keeps its last rate correction (R340). -/
def execFtHold (s : State) : Host.Outcome State Fault Refusal :=
  act (decide (s.time.role = .member) && decide (s.time.sync = .sync)) s fun s => s.setTime fun t => { t with sync := .hold }

/-- A member enters FREE and begins anew (R338, R340). -/
def Time.toFree (t : Time) : Time :=
  { t with sync := .free, freePhase := 0, history := [], good := 0, slew := 0, t1 := none, resync := false }

/-- FT_UNSYNC (R340). -/
def execFtUnsync (s : State) : Host.Outcome State Fault Refusal :=
  act (decide (s.time.role = .member) && decide (s.time.sync = .hold)) s fun s => s.setTime Time.toFree

/-- FT_RESYNC: the root steps at the next exchange (R338, R425). -/
def execFtResync (o : Origin) (s : State) : Host.Outcome State Fault Refusal :=
  .next (s.command o 0xA5 [(decide (s.time.role ≠ .member), .wrongState)] fun s =>
    ({ s with time := { s.time with resync := true } }, []))

/-! ### Enrolment and rekey (R402, R403, R586) -/

/-- An ID that a field of GROUP_ENROL or GROUP_SAVE sets; 0 sets none. -/
def idOpt (n : Nat) : Option Nat := if n % 2 ^ 20 = 0 then none else some (n % 2 ^ 20)

/-- FT role of a PORT_GROUP role (R335, R586). -/
def ftRole (role : Nat) : FtRole := if role = 1 then .master else .member

/-- The paths that GROUP_ENROL may take (R403). -/
def enrolPath : Via → Bool
  | .relayed => false
  | _ => true

/-- The checks of GROUP_ENROL (R403, R586). -/
def State.enrolChecks (s : State) (o : Origin) (p : EnrolParams) : List (Bool × Status) :=
  [ (!p.rekey && (decide (64 ≤ p.sidx) || reservedId p.id), .outOfRange),
    (s.group.valid && !p.rekey, .wrongState),
    (!s.group.valid && p.rekey, .wrongState),
    (!enrolPath o.via, .authFail) ]

/-- The device joins a group, or takes the next key (R402, R403, R586). -/
def State.enrol (s : State) (p : EnrolParams) : State :=
  if p.rekey then
    { s with group := { s.group with nextKey := some p.key, instant := p.instant, rekey := true } }
  else
    ({ s with
      plat := { s.plat with valid := true, id := p.id }
      group := { s.group with
        valid := true, role := p.role, overlap := false, sidx := p.sidx, rekey := false, epoch := p.epoch, prevEpoch := p.epoch
        fenced := true, master := idOpt p.master, prevMaster := none, backup := idOpt p.backup, bcroot := idOpt p.bcroot
        members := tset s.group.members none p.sidx (some p.id), key := some p.key, nextKey := none, window := false
        saved := none, takeover := 0, demoted := false, saveDue := p.role == 1 } } : State).setTime fun t =>
      { t.toFree with role := ftRole p.role }

/-- GROUP_ENROL (R403). -/
def execGroupEnrol (o : Origin) (p : EnrolParams) (s : State) : Host.Outcome State Fault Refusal :=
  proxy o 0xEB (!p.rekey && decide (3 ≤ p.role)) s fun s => s.command o 0xEB (s.enrolChecks o p) fun s => (s.enrol p, [])

/-- The device leaves its group: both keys, PORT_SELF VALID, the member table and ROLE (R403, R585, R586). -/
def State.leaveGroup (s : State) : State :=
  ({ s with
    plat := { s.plat with valid := false }
    group := { s.group with
      valid := false, role := 3, members := [], key := none, nextKey := none, rekey := false, window := false, takeover := 0, prevMaster := none
      saveDue := false } } : State).setTime fun t => { t.toFree with role := .alone }

/-- GROUP_LEAVE (R403). -/
def execGroupLeave (o : Origin) (s : State) : Host.Outcome State Fault Refusal :=
  proxy o 0xEC false s fun s => s.command o 0xEC [] fun s => (s.leaveGroup, [])

/-- REKEY_INSTANT: frames are tagged with the next key from now on (R402). -/
def execRekeyInstant (s : State) : Host.Outcome State Fault Refusal :=
  act (s.group.rekey && !s.group.window && s.group.nextKey.isSome && decide (s.group.instant.toNat ≤ s.now.toNat)) s fun s =>
    { s with group := { s.group with window := true } }

/-- REKEY_WINDOW_END: the next key becomes the present one (R402). -/
def execRekeyWindowEnd (s : State) : Host.Outcome State Fault Refusal :=
  act s.group.window s fun s => { s with
    group := { s.group with key := s.group.nextKey, nextKey := none, window := false, rekey := false } }

/-! ### GROUP_SAVE (R406, R407) -/

/-- The record that a master sends (R406; the adapters are those its rings name, log entry 47). -/
def State.groupRec (s : State) : GroupRec :=
  { members := s.group.members
    adapters := ((s.bridge.rings.filter fun r => r.2.enable && !r.2.peer).map fun r => r.2.ep).dedup.take 4
    backup := s.group.backup.getD 0, bcroot := s.group.bcroot.getD 0, epoch := s.group.epoch }

/-- The 304 B of GROUP_SAVE (R406). -/
def GroupRec.bytes (r : GroupRec) : List Byte :=
  ((List.range 64).flatMap fun i => match tget r.members none i with
      | some e => leBytes 4 (2 ^ 31 + e)
      | none => leBytes 4 0)
    ++ ((List.range 4).flatMap fun i => leBytes 4 (r.adapters.getD i 0))
    ++ leBytes 4 r.backup ++ leBytes 4 r.bcroot ++ leBytes 2 r.epoch.toNat ++ List.replicate 22 0

/-- The record in 304 B. -/
def groupRecOf (l : List Byte) : GroupRec :=
  { members := (List.range 64).foldl (fun t i =>
      let w := fieldB l (4 * i) 4
      tset t none i (if bit w 31 then some (w % 2 ^ 20) else none)) []
    adapters := ((List.range 4).map fun i => fieldB l (256 + 4 * i) 4 % 2 ^ 20).filter (· != 0)
    backup := fieldB l 272 4 % 2 ^ 20, bcroot := fieldB l 276 4 % 2 ^ 20, epoch := BitVec.ofNat 16 (fieldB l 280 2) }

/-- A member takes a record; the backup keeps it whole (R407; the member table is log entry 47). -/
def Group.takeSave (g : Group) (self src : Nat) (r : GroupRec) : Group :=
  let role := if r.backup = self then 2 else 0
  { g with master := some src, backup := idOpt r.backup, bcroot := idOpt r.bcroot, members := r.members, role := role
           saved := if role = 2 then some r else none }

/-- GROUP_SAVE: a master sends its record to every member, a member takes one (R407). -/
def execGroupSave (s : State) : Host.Outcome State Fault Refusal :=
  if s.group.role = 1 ∧ s.group.saveDue then
    .next (each (s.otherMembers s.group.members) (fun e s => s.sendGroup e 0x8D s.groupRec.bytes)
      { s with group := { s.group with saveDue := false } })
  else match s.takeCtl 0x8D with
    | none => .next s
    | some (e, s1) => act true s fun s =>
      if s.group.role = 1 ∨ s.group.master ≠ some (srcOf e.2.1) then s1.badRole e.1
      else { s1 with group := s1.group.takeSave s.plat.id (srcOf e.2.1) (groupRecOf e.2.1.data) }

/-! ### Takeover and epochs (R408 to R411) -/

/-- One epoch is newer than another (R408). -/
def newerEpoch (e c : BitVec 16) : Bool := decide (1 ≤ (e - c).toNat) && decide ((e - c).toNat ≤ 32767)

/-- MASTER_TAKEOVER: the backup accepts it and loads its record (R409). -/
def execMasterTakeover (o : Origin) (s : State) : Host.Outcome State Fault Refusal :=
  .next (s.command o 0x0F
    [ (s.group.role != 2 || !(decide ((s.port 0).state = .up) && (s.port 0).p2p), .wrongState),
      (s.group.saved.isNone, .notPresent) ]
    fun s => ({ s with group := { s.group with takeover := 1 } }, []))

/-- Payload that carries an epoch (R406). -/
def epochPayload (e : BitVec 16) : List Byte := leBytes 2 e.toNat ++ leBytes 6 0

/-- The backup becomes master under the next epoch (R341, R409). -/
def State.becomeMaster (s : State) (r : GroupRec) : State :=
  ({ s with group := { s.group with
      role := 1, prevEpoch := s.group.epoch, epoch := s.group.epoch + 1, master := some s.plat.id, backup := none
      bcroot := idOpt r.bcroot, members := r.members, takeover := 2, overlap := false, fenced := true, saveDue := true } } : State).setTime
    fun t => { t.toFree with role := .master }

/-- TAKEOVER_ANNOUNCE: step 2 (R409). -/
def execTakeoverAnnounce (s : State) : Host.Outcome State Fault Refusal :=
  match s.group.saved with
  | none => .next s
  | some r => act (s.group.takeover == 1) s fun s =>
    let s1 := s.becomeMaster r
    each ((s1.otherMembers r.members ++ s.group.master.toList).filter (fun e => !s.isSelf e)).dedup (fun e s =>
      s.sendGroup e 0x8B (epochPayload s1.group.epoch)) s1

/-- TAKEOVER_FENCE: step 3 (R409). -/
def execTakeoverFence (s : State) : Host.Outcome State Fault Refusal :=
  act (s.group.takeover == 2) s fun s =>
    each (s.otherMembers s.group.members) (fun e s => s.sendGroup e 0x8C (epochPayload s.group.epoch))
      { s with group := { s.group with takeover := 0 } }

/-- A device adopts a newer epoch and its master; an old master becomes a member (R341, R410, R411; log entry 43). -/
def State.adoptEpoch (s : State) (e : BitVec 16) (src : Nat) : State :=
  let was := s.group.role = 1
  let s1 := { s with group := { s.group with
    prevEpoch := s.group.epoch, prevMaster := s.group.master, epoch := e, master := some src, overlap := true, fenced := false
    role := if s.group.role = 1 then 0 else s.group.role
    demoted := s.group.demoted || decide (s.group.role = 1)
    takeover := 0, saveDue := false } }
  let s2 := if was then s1.setTime fun t => { t.toFree with role := .member, sync := .sync } else s1
  s2.raise ntEpochChange

/-- EPOCH_ANNOUNCE (R410). -/
def execEpochAnnounce (s : State) : Host.Outcome State Fault Refusal :=
  match s.takeCtl 0x8B with
  | none => .next s
  | some (e, s1) => act true s fun s =>
    let n := BitVec.ofNat 16 (fieldB e.2.1.data 0 2)
    if s.group.backup ≠ some (srcOf e.2.1) then s1.badRole e.1
    else if newerEpoch n s.group.epoch then s1.adoptEpoch n (srcOf e.2.1)
    else s1

/-- MASTER_FENCE (R410). -/
def execMasterFence (s : State) : Host.Outcome State Fault Refusal :=
  match s.takeCtl 0x8C with
  | none => .next s
  | some (e, s1) => act true s fun s =>
    if s.group.master ≠ some (srcOf e.2.1) then s1.badRole e.1
    else if BitVec.ofNat 16 (fieldB e.2.1.data 0 2) = s.group.epoch then
      { s1 with group := { s1.group with overlap := false, fenced := true } }
    else s1

end Sys2Proof.Machine
end

