-- ==== Sys2Proof/Machine/Fields.lean ====
section
/-! DEFINITION. The checks that the sequencer makes of a descriptor before it issues or dispatches it, and the addresses its
operands resolve to (R273 to R277, R282, R285, R289 to R294, R307, R313). -/

namespace Sys2Proof.Machine

open Sys2Proof

/-! ### Operands (R267, R275) -/

/-- Base register n of a context; B0 is the core's own scratchpad window (R267). -/
def State.base (s : State) (c x n : Nat) : Nat := if n = 0 then spOf c else (tget (s.ctx c x).bases 0 n).toNat

/-- The address that an address operand resolves to (R275). -/
def State.resolve (s : State) (c x w : Nat) : Nat := (s.base c x (bits w 31 29) + bits w 28 0) % 2 ^ 44

/-- The address operand at byte i of a descriptor. -/
def State.operand (s : State) (c x : Nat) (d : BitVec 256) (i : Nat) : Nat := s.resolve c x (dB d i 4)

/-- Bytes that lie in the core's own scratchpad (R275). -/
def ownSp (c a n : Nat) : Bool := decide (spOf c ≤ a) && decide (a + n ≤ spOf c + spSize)

/-! ### What the fields of each operation are (R282, R285, R289, R293) -/

/-- Engine of an opcode, by the range it lies in: 0 sequencer, 1 matrix, 2 vector, 3 transfer (R274). -/
def engClass (op : Nat) : Nat := if op < 0x20 then 0 else if op < 0x40 then 1 else if op < 0x80 then 2 else 3

/-- Class of an ENG code (R273). -/
def engOf (e : Nat) : Nat := if e == 0 then 0 else if e ≤ 4 then 1 else if e ≤ 6 then 2 else 3

/-- Opcodes of two-operand vector operations, of unary functions, and the others (R290). -/
def isBinary (op : Nat) : Bool := decide (0x40 ≤ op) && decide (op ≤ 0x45)
def isUnary (op : Nat) : Bool := op == 0x46 || (decide (0x48 ≤ op) && decide (op ≤ 0x4D))

/-- An opcode that is not reserved. -/
def isOpcode (op : Nat) : Bool :=
  op ≤ 0x06 || (decide (0x08 ≤ op) && decide (op ≤ 0x0B)) || (decide (0x10 ≤ op) && decide (op ≤ 0x16))
    || (decide (0x18 ≤ op) && decide (op ≤ 0x1A)) || (decide (0x20 ≤ op) && decide (op ≤ 0x22))
    || isBinary op || isUnary op || (decide (0x50 ≤ op) && decide (op ≤ 0x54)) || op == 0x58 || op == 0x59
    || (decide (0x80 ≤ op) && decide (op ≤ 0x87))

/-- Operand bytes that an operation names, as first byte and count; the others are reserved (R273, R282, R285, R289, R293). -/
def namedBytes (op : Nat) : List (Nat × Nat) :=
  match op with
  | 0x02 => [(8, 4)] | 0x04 => [(8, 4)] | 0x06 => [(6, 6)] | 0x08 => [(6, 1), (8, 6)] | 0x09 => [(6, 1), (8, 8)]
  | 0x0A => [(6, 1), (8, 4)] | 0x0B => [(8, 8)]
  | 0x10 => [(8, 2), (12, 4)] | 0x11 => [(8, 2), (12, 4)] | 0x12 => [(8, 2), (12, 4)]
  | 0x13 => [(8, 8)] | 0x14 => [(8, 4)] | 0x15 => [(6, 1)]
  | 0x18 => [(8, 10), (20, 3)] | 0x19 => [(8, 10), (20, 3)] | 0x1A => [(6, 1), (8, 12), (20, 3)]
  | 0x20 => [(6, 1), (8, 16)] | 0x21 => [(6, 18)] | 0x22 => [(6, 26)]
  | 0x80 => [(8, 18)] | 0x81 => [(6, 1), (8, 24)] | 0x82 => [(6, 1), (8, 24)]
  | 0x83 => [(8, 14)] | 0x84 => [(6, 1), (8, 12), (23, 3)]
  | 0x85 => [(8, 4), (16, 4)] | 0x86 => [(8, 4), (16, 4)] | 0x87 => [(6, 1)]
  | _ => if isBinary op || isUnary op || (decide (0x50 ≤ op) && decide (op ≤ 0x59)) then [(6, 26)] else []

/-- Every operand byte that the operation does not name is 0. -/
def reservedClear (d : BitVec 256) : Bool :=
  (List.range 26).all fun i => (namedBytes (dOp d)).any (fun r => decide (r.1 ≤ 6 + i) && decide (6 + i < r.1 + r.2))
    || dB d (6 + i) 1 == 0

/-! ### Numbers of the operands -/

/-- Byte 6 of a descriptor, and its fields for the matrix and vector engines. -/
def d6 (d : BitVec 256) : Nat := dB d 6 1
def d7 (d : BitVec 256) : Nat := dB d 7 1

/-- The range lo to hi. -/
def within' (lo hi n : Nat) : Bool := decide (lo ≤ n) && decide (n ≤ hi)

/-- Whether a device other than this one is named (R147). -/
def State.otherEp (s : State) (e : Nat) : Bool := !s.isSelf e

/-- Formats of a matrix engine's operands (R307). -/
def matrixFmt (f : Nat) : Bool := decide (f ≤ 0xB)

/-- Formats of a vector operation (R307): Microscaling and INT4 only in VCVT, Microscaling rows a multiple of 32 long. -/
def vectorFmt (op f n : Nat) : Bool :=
  if isMx f then op == 0x46 && n % 32 == 0 else if f == 0xB then op == 0x46 else decide (f ≤ 0xC)

/-- Bytes of a vector row of n elements of a format; a Microscaling row ends with its scales (R306, R307). -/
def vecRow (f n : Nat) : Nat := fmtBytes f n + if isMx f then n / 32 else 0

/-- Bytes of r rows that follow each other without gap: elements below a byte go on across rows (R289, R306). -/
def vecBytes (f r n : Nat) : Nat := if isMx f then r * vecRow f n else fmtBytes f (r * n)

/-- Bytes from the first row's start to the last row's end. -/
def spanOf (rows stride row : Nat) : Nat := (rows - 1) * stride + row

/-- Bytes of an EPI output row (R286). -/
def epiRow (f : Nat) : Nat := fmtBytes f 64 + if isMx f then 2 else 0

/-! ### The field checks: cause 0x2 (R277) -/

/-- Fields of a control operation within their ranges (R282). -/
def controlFields (s : State) (c x : Nat) (d : BitVec 256) : Bool :=
  match dOp d with
  | 0x02 => dB d 8 4 != 0
  | 0x04 => s.operand c x d 8 % 32 == 0
  | 0x06 => decide (d6 d ≤ 63) && decide (d7 d ≤ 1)
  | 0x08 => within' 1 7 (d6 d) && decide (dB d 8 6 < 2 ^ 44)
  | 0x09 => within' 1 7 (d6 d)
  | 0x0A => within' 1 7 (d6 d)
  | 0x10 => decide (dB d 8 2 < 16384)
  | 0x11 => decide (dB d 8 2 < 16384)
  | 0x12 => decide (dB d 8 2 < 16384)
  | 0x15 => decide (d6 d < 3)
  | 0x18 => within' 1 4096 (dB d 16 2) && decide (dB d 20 3 < 2 ^ 20)
  | 0x19 => within' 1 4096 (dB d 16 2) && decide (dB d 20 3 < 2 ^ 20)
  | 0x1A => within' 0x20 0x3A (d6 d) && decide (dB d 20 3 < 2 ^ 20)
  | _ => true

/-- Last accumulator row of a MATMUL. -/
def matmulLast (d : BitVec 256) : Nat := dB d 18 2 + (dB d 16 2 - 1) * d7 d

/-- Fields of a matrix descriptor within their ranges (R285, R307, R313). -/
def matrixFields (d : BitVec 256) : Bool :=
  let f := d6 d % 16
  match dOp d with
  | 0x20 => matrixFmt f && decide (d6 d < 32) && within' 1 (fmtK f) (dB d 16 2) && within' 1 64 (dB d 18 2)
  | 0x21 =>
    let comp := bit (d6 d) 6
    matrixFmt f && decide (d6 d < 128) && within' 1 64 (d7 d) && within' 1 512 (dB d 16 2) && decide (dB d 18 2 ≤ 511)
      && decide (matmulLast d ≤ 511) && (!comp || (decide (matmulLast d < 256) && !isIntFmt f))
  | 0x22 =>
    let comp := bit (d6 d) 7
    decide (f ≤ 0xC) && bits (d6 d) 5 4 != 3 && decide (d7 d < 16) && within' 1 512 (dB d 10 2)
      && decide (dB d 8 2 + dB d 10 2 ≤ 512) && (f != 0xC || bits (d7 d) 3 1 == 0)
      && (!comp || (decide (dB d 8 2 + dB d 10 2 ≤ 256) && !isIntFmt f))
  | _ => true

/-- Fields of a vector descriptor within their ranges (R289 to R291, R307). -/
def vectorFields (d : BitVec 256) : Bool :=
  let op := dOp d
  let n := dB d 20 4
  if op == 0 then true
  else
    !bit (d7 d) 3 && bits (d7 d) 1 0 != 3 && within' 1 65536 n && within' 1 512 (dB d 24 2)
      && vectorFmt op (d6 d / 16) n && vectorFmt op (d6 d % 16) n
      && (if op == 0x52 || op == 0x53 then decide (d7 d / 16 ≤ 1) else true)
      && (op != 0x54 || (decide (n ≤ 64) && within' 1 16 (dB d 26 2)))

/-- Fields of a transfer descriptor within their ranges and constraints (R293, R294). -/
def transferFields (s : State) (c x : Nat) (d : BitVec 256) : Bool :=
  let len := dB d 16 4
  match dOp d with
  | 0x80 =>
    let sep := dB d 20 3
    let dep := dB d 23 3
    len != 0 && decide (sep < 2 ^ 20) && decide (dep < 2 ^ 20) && !(s.otherEp sep && s.otherEp dep)
      && (!s.otherEp sep || ownSp c (s.operand c x d 12) len)
  | 0x81 => decide (d6 d ≤ 4) && within' 1 4096 (dB d 14 2)
  | 0x82 => decide (d6 d ≤ 4) && within' 1 4096 (dB d 14 2)
  | 0x83 => len != 0 && dB d 20 1 != 0 && decide (dB d 21 1 ≤ 1)
  | 0x84 => len != 0 && (redSize (d6 d)).isSome && decide (dB d 23 3 < 2 ^ 20)
  | 0x85 => len != 0 && decide (s.operand c x d 8 + len ≤ hbmEnd)
  | 0x86 => len != 0 && decide (s.operand c x d 8 + len ≤ hbmEnd)
  | 0x87 => decide (d6 d < 3)
  | _ => true

/-! ### Extents in the own scratchpad: cause 0x3 (R275, R277) -/

/-- Operands of an operation that must lie in the own scratchpad: byte of the address operand, and bytes touched (R275, R282, R285, R290). -/
def spExtents (d : BitVec 256) : List (Nat × Nat) :=
  let f := d6 d % 16
  let ifmt := d6 d / 16
  let n := dB d 20 4
  let r := dB d 24 2
  let scal := bit (d7 d) 2
  let op := dOp d
  match op with
  | 0x0A => [(8, 8)]
  | 0x18 => [(12, dB d 16 2)]
  | 0x19 => [(12, dB d 16 2)]
  | 0x1A => match atomicOf (d6 d) with
    | some (k, size) => [(12, size), (16, if k == 0 then 2 * size else size)]
    | none => []
  | 0x20 =>
    let rows := dB d 16 2
    let cols := dB d 18 2
    let trans := bit (d6 d) 4
    (8, spanOf (if trans then cols else rows) (dB d 12 4) (fmtBytes f (if trans then rows else cols)))
      :: if isMx f then [(20, fmtK f / 32 * 64)] else []
  | 0x21 =>
    let m := dB d 16 2
    (8, spanOf m (dB d 12 4) (fmtBytes f (fmtK f))) :: if isMx f then [(20, m * (fmtK f / 32))] else []
  | 0x22 =>
    let rows := dB d 10 2
    (12, spanOf rows (dB d 16 4) (epiRow f)) :: ((if bit (d7 d) 1 then [(20, 4 * rows)] else [])
      ++ (if bit (d7 d) 2 then [(24, 256)] else []) ++ (if bit (d7 d) 3 then [(28, 256)] else []))
  | 0x50 => [(8, 4 * r * n), (16, vecBytes f 1 r), (28, 8 * r)]
  | 0x51 => [(8, 4 * r * n), (16, vecBytes f r n), (28, 8 * r)]
  | 0x52 => [(8, vecBytes ifmt r n), (16, vecBytes f r n)] ++ if scal then [] else [(12, 4 * r)]
  | 0x53 => [(8, vecBytes ifmt r n), (16, vecBytes f 1 (if d7 d / 16 == 0 then r else 2 * r))]
  | 0x54 => [(8, vecBytes ifmt r n), (16, 4 * r * dB d 26 2), (28, 2 * r * dB d 26 2)]
  | 0x58 => [(8, 1), (16, vecBytes ifmt r n)] ++ if scal then [] else [(12, 4 * r * n)]
  | 0x59 => [(8, vecBytes ifmt r n), (16, 1)] ++ if scal then [] else [(12, 4 * r * n)]
  | _ =>
    if isBinary op then [(8, vecBytes ifmt r n), (16, vecBytes f r n)] ++ if scal then [] else [(12, vecBytes ifmt r n)]
    else if isUnary op then [(8, vecBytes ifmt r n), (16, vecBytes f r n)]
    else []

/-! ### The verdict (R277) -/

/-- Nesting of loops and calls: cause 0x4 (R277, R283). -/
def nesting (t : Ctx) (d : BitVec 256) : Option Status :=
  match dOp d with
  | 0x02 => if 3 ≤ t.loops.length then some .outOfRange else none
  | 0x03 => if t.loops.isEmpty then some .wrongState else none
  | 0x04 => if 8 ≤ t.calls.length then some .outOfRange else none
  | 0x05 => if t.calls.isEmpty then some .wrongState else none
  | _ => none

/-- Header bits that are reserved are 0, and HINT is not the reserved code (R273). -/
def headerClear (d : BitVec 256) : Bool :=
  !bit (dB d 1 1) 2 && dHint d != 3 && bits (dSig d).toNat 11 6 == 0

/-- Every field lies in the range its table gives. -/
def State.fieldsOk (s : State) (c x : Nat) (d : BitVec 256) : Bool :=
  headerClear d && reservedClear d && controlFields s c x d && (engOf (dEng d) != 1 || matrixFields d)
    && (engOf (dEng d) != 2 || vectorFields d) && transferFields s c x d

/-- What is wrong with a descriptor: cause and status, the first check of R277 that fails. -/
def State.descBad (s : State) (c x : Nat) (d : BitVec 256) : Option (Nat × Status) :=
  let op := dOp d
  if !isOpcode op || (op != 0 && engClass op != engOf (dEng d)) then some (1, .badOpcode)
  else if !s.fieldsOk c x d then some (2, .badField)
  else if (spExtents d).any fun e => !ownSp c (s.operand c x d e.1) e.2 then some (3, .outOfRange)
  else if dEng d == 0 then (nesting (s.ctx c x) d).map fun st => (4, st)
  else none

/-- Address operands of an engine descriptor, resolved at dispatch: by operand byte (R275). -/
def addrBytes (d : BitVec 256) : List Nat :=
  match dOp d with
  | 0x20 => [8, 20] | 0x21 => [8, 20] | 0x22 => [12, 20, 24, 28]
  | 0x80 => [8, 12] | 0x81 => [8, 24] | 0x82 => [8, 24] | 0x83 => [8] | 0x84 => [8, 12] | 0x85 => [8] | 0x86 => [8]
  | 0x87 => []
  | 0x00 => []
  | _ => [8, 12, 16, 28]

/-- The resolved address at an operand byte of a queued descriptor. -/
def QDesc.addr (q : QDesc) (i : Nat) : Nat :=
  q.addrs.getD ((addrBytes q.d).findIdx fun b => b == i) 0

end Sys2Proof.Machine
end

