-- ==== Sys2Proof/Machine/Sequencer.lean ====
section
/-! DEFINITION. The sequencer of a core: launch, stop and resume of contexts, which context issues, its control operations,
prefetch, END, and the answers of sheaf banks (R264 to R284, R343, R344, R359). -/

namespace Sys2Proof.Machine

open Sys2Proof

/-! ### Field Time as a unit of the package sees it (R330, R333) -/

/-- A copy of Field Time, by its number: regions 0 to 31, stations 32 to 45, ports 46 to 61, sheaf banks 62 to 65, the always-on domain 66 (R330). -/
def State.ftCopy (s : State) (node : Nat) : Nat := max s.now.toNat (tget s.time.held 0 node / 65536)

/-- A copy is valid (R333). -/
def State.ftValid (s : State) (node : Nat) : Bool := !s.time.invalid.contains node

/-! ### Records of contexts (R269, R270, R428, R429) -/

/-- The end record of a context (R428). -/
def State.endRecord (s : State) (c x : Nat) (st : Status) (addr : Nat) (kept : Bool) : Record :=
  let t := s.ctx c x
  { ring := t.ring, opcode := 0x40, hopper := t.hopper, kind := 1, tag := t.tag, status := st, src := s.selfId, ft := s.now
    result := [BitVec.ofNat 8 c, BitVec.ofNat 8 x] ++ leBytes 6 addr, kept := kept }

/-- A record joins those that wait; RING_FULL follows (R430). -/
def State.sendRecord (s : State) (r : Record) : State := (s.queueRecord r).sense ntRingFull s

/-- A context's end record can be queued, or it writes none (R269, R431). -/
def State.endRoom (s : State) (c x : Nat) : Bool := (s.ctx c x).noend || s.placeFree

/-- A context enters IDLE and its end record is queued (R269, R270). -/
def State.goIdle (s : State) (c x : Nat) (st : Status) (addr : Nat) : State :=
  let r := s.endRecord c x st addr false
  (s.setCtx c x .idle .none).when (!(s.ctx c x).noend) fun s => s.sendRecord r

/-! ### Launch, stop, resume (R268, R270, R271) -/

/-- The unit of a context-control command: the core exists, is not gated or held in reset, and has not halted (R422). -/
def State.coreChecks (s : State) (c x : Nat) : List (Bool × Status) :=
  [(decide (64 ≤ c) || decide (16 ≤ x), .outOfRange), (!s.coreUp c, .wrongState), ((s.core c).halted, .parity)]

/-- A list address that R268 admits. -/
def listRange (a : Nat) : Bool :=
  match placeOf a with
  | .sheaf _ => false
  | .none => false
  | _ => true

/-- The checks of CTX_LAUNCH: the table of R268, then those of R422, then R592. -/
def State.launchChecks (s : State) (p : LaunchParams) : List (Bool × Status) :=
  let t := s.ctx p.core p.ctx
  [ (decide (t.state ≠ .idle) && decide (t.state ≠ .fault), .wrongState),
    (p.list % 32 != 0, .badField),
    (!listRange p.list, .outOfRange),
    (!p.noend && !(s.cring p.ring).enable, .wrongState) ] ++ s.coreChecks p.core p.ctx ++ [(s.bistHolds 0 p.core, .busy)]

/-- What a launch makes of a context (R268). -/
def Ctx.launch (t : Ctx) (p : LaunchParams) (hopper : Nat) (tag : BitVec 16) : Ctx :=
  { t with
    pri := p.pri, late := false, pc := BitVec.ofNat 44 p.list, bases := tset [] 0 1 p.b1, loops := [], calls := [], buf := []
    fetching := false, fetched := none, ring := p.ring, noend := p.noend, tag := tag, hopper := hopper, worst := .done, parked := []
    parkedWorst := .done, endStatus := .done, endAddr := 0, sigOp := 0, ended := false }

/-- The fence of a context's sequencer is given up. -/
def State.dropCtxFence (s : State) (c x : Nat) : State :=
  match s.ctxFence c x with
  | some f => s.dropFence f
  | none => s

/-- A fetch that is out for a context, by packet or over the narrow net (R272). -/
def State.fetchOut (s : State) (c x : Nat) : Bool :=
  (s.rem.ops.any fun o => match o.dest with
    | .fetch c' x' _ => c' == c && x' == x
    | _ => false)
  || s.fab.net.any fun e => e.2.any fun m => match m.body with
    | .fetch c' x' _ => c' == c && x' == x
    | _ => false

/-- What a fetch of a context's earlier list brings is not kept. -/
def State.dropFetch (s : State) (c x : Nat) : State :=
  { s with
    rem := { s.rem with ops := s.rem.ops.map fun o => match o.dest with
      | .fetch c' x' _ => if c' == c && x' == x then { o with dest := .none } else o
      | _ => o }
    fab := { s.fab with net := s.fab.net.map fun e => (e.1, e.2.filter fun m => match m.body with
      | .fetch c' x' _ => !(c' == c && x' == x)
      | _ => true) } }

/-- CTX_LAUNCH, by a command or a sow entry (R268, R350). -/
def State.tryLaunch (s : State) (p : LaunchParams) (hopper : Nat) (tag : BitVec 16) : State × Status :=
  match firstFail (s.launchChecks p) with
  | some st => (s, st)
  | none =>
    ((((s.dropCtxFence p.core p.ctx).dropFetch p.core p.ctx).modCtx p.core p.ctx fun t => t.launch p hopper tag).setCtx p.core p.ctx .ready .none, .done)

/-- CTX_LAUNCH (R268). -/
def execCtxLaunch (o : Origin) (p : LaunchParams) (s : State) : Host.Outcome State Fault Refusal :=
  let r := s.tryLaunch p (if o.mbox then 0 else o.hopper) o.tag
  .next (r.1.complete o 0x40 r.2 [])

/-- A sheaf TAKE that waits leaves its bank, or the way to it; one that the bank has answered is done (R270, R368). -/
def State.dropTake (s : State) (c x : Nat) : State :=
  let mine (r : BankReq) : Bool := decide (r.op = .take) && r.from? == some (c, x)
  { s with
    sheaves := { s.sheaves with
      sheaf := s.sheaves.sheaf.map fun e => (e.1, { e.2 with waiters := e.2.waiters.filter fun w => !(w.core == c && w.ctx == x) })
      bank := s.sheaves.bank.map fun e => (e.1, { e.2 with inbox := e.2.inbox.filter fun r => !mine r }) }
    fab := { s.fab with net := s.fab.net.map fun e => (e.1, e.2.filter fun m => match m.body with
      | .sheaf r => !mine r
      | .wake _ => true
      | .access _ _ => true
      | .fetch _ _ _ => true) } }

/-- Nothing that END waits for is left but its record's place: its fence, its descriptors and its sheaf operations are done (R269, R270, R359). -/
def State.endWaited (s : State) (c x : Nat) : Bool :=
  let t := s.ctx c x
  decide (t.state = .wait) && decide (t.why = .endRec) && t.ended && s.queued c x == 0 && t.sheafOut == 0

/-- CTX_STOP has nothing to do: an idle or stopping context, or one past END that waits only for its end record to be queued (R270, R441). -/
def State.stopped (s : State) (c x : Nat) : Bool :=
  decide ((s.ctx c x).state = .idle) || decide ((s.ctx c x).state = .stopping) || s.endWaited c x

/-- A bank's answer is on its way to a context. -/
def State.answerComes (s : State) (c x : Nat) : Bool :=
  (s.sheaves.answers.any fun a => a.core == c && a.ctx == x)
    || (tget s.fab.net [] (nodeDrill (c / 4))).any fun m => match m.body with
      | .wake a => a.core == c && a.ctx == x
      | _ => false

/-- The effect of CTX_STOP: it issues nothing more, and its waits are abandoned (R270). -/
def State.stopCtx (s : State) (c x : Nat) : State :=
  if s.stopped c x then s else ((s.dropTake c x).dropCtxFence c x).setCtx c x .stopping .none

/-- CTX_STOP (R270). -/
def execCtxStop (o : Origin) (core ctx : Nat) (s : State) : Host.Outcome State Fault Refusal :=
  .next (s.command o 0x41 (s.coreChecks core ctx) fun s => (s.stopCtx core ctx, []))

/-- CTX_RESUME (R271). -/
def execCtxResume (o : Origin) (core ctx : Nat) (s : State) : Host.Outcome State Fault Refusal :=
  .next (s.command o 0x42 (s.coreChecks core ctx ++ [(decide ((s.ctx core ctx).state ≠ .paused), .wrongState)]) fun s =>
    (s.setCtx core ctx .ready .none, []))

/-- STOPPING_END: nothing of the context is in flight (R270). -/
def execStoppingEnd (core ctx : Nat) (s : State) : Host.Outcome State Fault Refusal :=
  let t := s.ctx core ctx
  act (decide (t.state = .stopping) && t.parked.isEmpty && s.queued core ctx == 0 && !s.answerComes core ctx
    && s.endRoom core ctx) s fun s =>
    s.goIdle core ctx .wrongState t.pc.toNat

/-! ### Which context issues (R266, R272, R279) -/

/-- The prefetched descriptor at an address. -/
def Ctx.descAt (t : Ctx) (a : Nat) : Option (BitVec 256) := (t.buf.find? fun e => e.1 == a).map (·.2)

/-- The next operation of a context, when it has been fetched. -/
def State.nextOp (s : State) (c x : Nat) : Option (BitVec 256) := (s.ctx c x).descAt (s.ctx c x).pc.toNat

/-- The transfer engine's fence of a context is pending (R238). -/
def State.engineFence (s : State) (c x : Nat) : Bool := s.rem.fences.any fun f => f.core == c && f.ctx == x && f.engine

/-- A control operation that sends a remote operation (R282). -/
def isRemoteOp (op : Nat) : Bool := op == 0x18 || op == 0x19 || op == 0x1A

/-- Collected operations that an RSTORE or RATOM becomes: one for each line or packet that its access is cut into (R192, R210, R240). -/
def State.collects (s : State) (c x : Nat) (d : BitVec 256) : Nat :=
  let a := s.operand c x d 8
  match placeOf a with
  | .hbm _ =>
    if dOp d != 0x19 then 1
    else if s.isSelf (dB d 20 3) && decide (dHint d ≤ 1) then (linePieces a (dB d 16 2)).length
    else (cutPieces a (dB d 16 2) 3 0).length
  | _ => 1

/-- What the next operation of a context waits for before it issues; none when it can go (R238, R240, R266, R272, R279). -/
def State.holdOf (s : State) (c x : Nat) : Option (CtxState × Why) :=
  match s.nextOp c x with
  | none => some (.wait, .fetch)
  | some d =>
    if (s.descBad c x d).isSome then none
    else if dEng d == 0 then
      if !s.tokensReady c (dTokens d) then some (.wait, .token)
      else if isRemoteOp (dOp d) && s.engineFence c x then some (.wait, .fence)
      else if (dOp d == 0x19 || dOp d == 0x1A) && !s.roomFor c (s.collects c x d) then some (.parked, .none)
      else none
    else if 32 ≤ (s.eng c (dEng d - 1)).queue.length then some (.wait, .queueFull) else none

/-- A context that is READY, or waits for something that its next operation needs before it issues. -/
def Ctx.issuing (t : Ctx) : Bool :=
  decide (t.state = .ready)
    || (decide (t.state = .wait)
      && (decide (t.why = .token) || decide (t.why = .queueFull) || decide (t.why = .fetch) || (decide (t.why = .fence) && t.sigOp == 0)))
    || (decide (t.state = .parked) && t.sigOp == 0)

/-- A context can issue its next operation. -/
def State.canGo (s : State) (c x : Nat) : Bool := (s.ctx c x).issuing && (s.holdOf c x).isNone

/-- A core whose sequencer runs: in service, not halted, not asleep (R448, R498). -/
def State.seqRuns (s : State) (c : Nat) : Bool :=
  decide (c < 64) && s.coreUp c && !(s.core c).halted && !(s.core c).asleep

/-- The context that issues next: the highest priority, and among equals the next in turn (R266). -/
def State.pick (s : State) (c : Nat) : Option Nat :=
  let go := (List.range 16).filter fun x => s.canGo c x
  let pri := go.foldl (fun p x => max p (s.ctx c x).pri) 0
  let last := tget (s.core c).lastCtx 15 pri
  ((List.range 16).map fun i => (last + 1 + i) % 16).find? fun x => go.contains x && (s.ctx c x).pri == pri

/-- The contexts of a core take the states that their next operations give them. -/
def State.refresh (s : State) (c : Nat) : State :=
  each (List.range 16) (fun x s' =>
    if (s.ctx c x).issuing then
      match s.holdOf c x with
      | none => if (s.ctx c x).state = .ready then s' else s'.setCtx c x .ready .none
      | some h => if (s.ctx c x).state = h.1 ∧ (s.ctx c x).why = h.2 then s' else s'.setCtx c x h.1 h.2
    else s') s

/-! ### Control operations (R278 to R284, R359) -/

/-- The context goes on at an address. -/
def State.goto (s : State) (c x a : Nat) : State := s.modCtx c x fun t => { t with pc := BitVec.ofNat 44 a }

/-- A control operation of one cycle has completed: its token is signalled (R280). -/
def State.opSignal (s : State) (c x : Nat) (d : BitVec 256) : State := s.signal c x (dSig d) 0 (dOp d)

/-- The context waits for an operation that it has issued; its signal follows when the wait ends (R280). -/
def State.opWait (s : State) (c x : Nat) (d : BitVec 256) (st : CtxState) (why : Why) : State :=
  (s.modCtx c x fun t => { t with sig := dSig d, sigOp := dOp d }).setCtx c x st why

/-- Operations that a fence of a scope collects (R237). -/
def State.fenceOps (s : State) (c x scope : Nat) : List Nat :=
  (s.rem.ops.filter fun o => o.kind.collected && !o.orphan && match o.owner.issuer with
    | some i => decide (scope = 2) || (i.1 == c && (decide (scope = 1) || i.2 == x))
    | none => false).map Op.id

/-- A fence starts (R237, R238). -/
def State.startFence (s : State) (c x scope : Nat) (engine : Bool) : State :=
  { s with rem := { s.rem with fences := s.rem.fences ++
      [{ core := c, ctx := x, engine := engine, ops := s.fenceOps c x scope, worst := .done }] } }

/-- END: a fence of context scope starts, and the context waits (R269). -/
def State.doEnd (s : State) (c x : Nat) (d : BitVec 256) : State :=
  let a := (s.ctx c x).pc
  let s1 := (s.startFence c x 0 false).modCtx c x fun t => { t with endAddr := a - 32, ended := false }
  s1.opWait c x d .wait .endRec

/-- LOOP opens a loop over the operations after it (R282). -/
def Ctx.openLoop (t : Ctx) (n : Nat) : Ctx := { t with loops := (t.pc, n) :: t.loops }

/-- ENDLOOP returns to the body's first operation until its passes have run (R282). -/
def Ctx.endLoop (t : Ctx) : Ctx :=
  match t.loops with
  | (a, n) :: r => if 1 < n then { t with pc := a, loops := (a, n - 1) :: r } else { t with loops := r }
  | [] => t

/-- CALL pushes the next address (R282). -/
def Ctx.pushCall (t : Ctx) (a : Nat) : Ctx := { t with calls := t.pc :: t.calls, pc := BitVec.ofNat 44 a }

/-- RET pops (R282). -/
def Ctx.popCall (t : Ctx) : Ctx :=
  match t.calls with
  | a :: r => { t with pc := a, calls := r }
  | [] => t

/-- BRANCH, the pc already past it (R282). -/
def State.doBranch (s : State) (c x : Nat) (d : BitVec 256) : State :=
  if decide (s.token c (d6 d) ≠ 0) == (d7 d == 1) then
    s.modCtx c x fun t => { t with pc := t.pc - 32 + BitVec.ofInt 44 (32 * sNat 32 (dB d 8 4)) }
  else s

/-- A base register is written (R267, R282). -/
def Ctx.setBase (t : Ctx) (n : Nat) (v : BitVec 44) : Ctx := { t with bases := tset t.bases 0 n v }

/-- LDB: a poisoned row leaves the base as it was and faults the context (R277, R282). -/
def State.doLdb (s : State) (c x : Nat) (d : BitVec 256) : State :=
  let off := s.operand c x d 8 - spOf c
  if s.spPoison c off 8 then s.ctxFault c x 8 0 (dOp d) .poisoned
  else (s.modCtx c x fun t => t.setBase (d6 d) (BitVec.ofNat 44 (leNat (s.spRead c off 8)))).opSignal c x d

/-- TOKCLR (R278). -/
def State.doTokclr (s : State) (c : Nat) (d : BitVec 256) : State :=
  each ((List.range 64).filter fun i => bit (dB d 8 8) i) (fun i s => s.setToken c i 0) s

/-- A sheaf operation is sent to its bank over the narrow net (R359, R360). -/
def State.sendSheaf (s : State) (c x : Nat) (d : BitVec 256) (op : SheafOp) : State :=
  let n := dB d 8 2
  s.netSend (nodeBank (sheafBank n)) 1
    (.sheaf { op := op, sheaf := n, n := dB d 12 4, from? := some (c, x), sig := dSig d, pkt := none })

/-- SH_ADD and SH_DRAIN stay outstanding until the bank answers (R359). -/
def State.doSheaf (s : State) (c x : Nat) (d : BitVec 256) (op : SheafOp) : State :=
  (s.sendSheaf c x d op).modCtx c x fun t => { t with sheafOut := t.sheafOut + 1 }

/-- WAITT: a time already passed sets LATE and the context goes on (R284). -/
def State.doWaitt (s : State) (c x : Nat) (d : BitVec 256) : State :=
  if dB d 8 8 < s.ftCopy (coreRegion c) then (s.modCtx c x fun t => { t with late := true }).opSignal c x d
  else (s.modCtx c x fun t => { t with waitFt := BitVec.ofNat 64 (dB d 8 8) }).opWait c x d .wait .waitt

/-- An access by a context's sequencer (R192, R225, R227, R282). -/
def State.seqReq (s : State) (c x : Nat) (d : BitVec 256) (kind : OpKind) (code laddr : Nat) : Req :=
  { owner := .seq c x, st := coreDie c, kind := kind, code := code, ep := dB d 20 3, laddr := laddr, data := [], rlen := 0
    retAddr := s.operand c x d 12, dest := .none, sig := dSig d, aseq := (s.ctx c x).aseq, poison := false, mask := 0 }

/-- RLOAD parks its context (R242, R282). -/
def State.doRload (s : State) (c x : Nat) (d : BitVec 256) : State :=
  let r := s.seqReq c x d .load 0x01 (s.operand c x d 8)
  ((s.modCtx c x fun t => { t with parked := [], parkedWorst := .done }).opWait c x d .parked .none).access
    { r with rlen := dB d 16 2, dest := .scratch, sig := 0 } (dHint d)

/-- RSTORE does not park its context (R282). -/
def State.doRstore (s : State) (c x : Nat) (d : BitVec 256) : State :=
  let r := s.seqReq c x d .store 0x10 (s.operand c x d 8)
  let src := s.stRead (coreDie c) (s.operand c x d 12) (dB d 16 2)
  s.access { r with data := src.1, poison := src.2, retAddr := 0 } (dHint d)

/-- RATOM parks its context; its ASEQ is the next of the context (R227, R242, R282). -/
def State.doRatom (s : State) (c x : Nat) (d : BitVec 256) : State :=
  let r := s.seqReq c x d .atomic (d6 d) (s.operand c x d 8)
  let n := match atomicOf (d6 d) with
    | some (k, size) => if k == 0 then 2 * size else size
    | none => 0
  let src := s.stRead (coreDie c) (s.operand c x d 16) n
  ((s.modCtx c x fun t => { t with parked := [], parkedWorst := .done, aseq := t.aseq + 1 }).opWait c x d .parked .none).access
    { r with data := src.1, poison := src.2, dest := .scratch, sig := 0 } 2

/-- A control operation executes, its tokens taken and the pc past it (R282). -/
def State.control (s : State) (c x : Nat) (d : BitVec 256) : State :=
  match dOp d with
  | 0x01 => s.doEnd c x d
  | 0x02 => (s.modCtx c x fun t => t.openLoop (dB d 8 4)).opSignal c x d
  | 0x03 => (s.modCtx c x Ctx.endLoop).opSignal c x d
  | 0x04 => (s.modCtx c x fun t => t.pushCall (s.operand c x d 8)).opSignal c x d
  | 0x05 => (s.modCtx c x Ctx.popCall).opSignal c x d
  | 0x06 => (s.doBranch c x d).opSignal c x d
  | 0x08 => (s.modCtx c x fun t => t.setBase (d6 d) (BitVec.ofNat 44 (dB d 8 6))).opSignal c x d
  | 0x09 =>
    (s.modCtx c x fun t => t.setBase (d6 d) (BitVec.ofNat 44 (s.base c x (d6 d)) + BitVec.ofNat 44 (dB d 8 8))).opSignal c x d
  | 0x0A => s.doLdb c x d
  | 0x0B => (s.doTokclr c d).opSignal c x d
  | 0x10 => (s.sendSheaf c x d .take).opWait c x d .wait .sheaf
  | 0x11 => s.doSheaf c x d .add
  | 0x12 => s.doSheaf c x d .drain
  | 0x13 => s.doWaitt c x d
  | 0x14 => (s.modCtx c x fun t => { t with waitCycles := dB d 8 4 }).opWait c x d .wait .waitc
  | 0x15 => (s.startFence c x (d6 d) false).opWait c x d .wait .fence
  | 0x16 => (s.setCtx c x .paused .none).opSignal c x d
  | 0x18 => s.doRload c x d
  | 0x19 => s.doRstore c x d
  | 0x1A => s.doRatom c x d
  | _ => s.opSignal c x d

/-- A descriptor takes its place in its engine's queue, its addresses resolved (R266, R275). -/
def State.dispatch (s : State) (c x : Nat) (d : BitVec 256) : State :=
  let q : QDesc := { d := d, ctx := x, addrs := (addrBytes d).map fun i => s.operand c x d i, begun := false, result := none
                     progress := 0, entry := none, reading := false, got := [], gotWorst := .done, ops := [], worst := .done }
  s.modEng c (dEng d - 1) fun e => { e with queue := e.queue ++ [q] }

/-- The context's turn has come (R266). -/
def State.tookTurn (s : State) (c x : Nat) : State :=
  s.modCore c fun u => { u with lastCtx := tset u.lastCtx 15 (tget u.ctxs Ctx.reset x).pri x }

/-- A context issues its next operation: it is checked, and executes or is dispatched, or its context faults (R266, R277). -/
def State.issueNext (s : State) (c x : Nat) (d : BitVec 256) : State :=
  match s.descBad c x d with
  | some b => (s.tookTurn c x).ctxFault c x b.1 (dEng d) (dOp d) b.2
  | none =>
    let s1 := s.tookTurn c x
    if dEng d == 0 then (((s1.takeTokens c (dTokens d)).modCtx c x fun t => { t with pc := t.pc + 32 }).control c x d)
    else (s1.dispatch c x d).modCtx c x fun t => { t with pc := t.pc + 32 }

/-- A cycle of the sequencer (R266). -/
def State.seqStep (s : State) (c : Nat) : State :=
  match s.pick c with
  | none => s.refresh c
  | some x => match s.nextOp c x with
    | none => s.refresh c
    | some d => (s.refresh c).issueNext c x d

/-- SEQUENCER_ISSUE (R266). -/
def execSequencerIssue (core : Nat) (s : State) : Host.Outcome State Fault Refusal :=
  act (s.seqRuns core) s fun s => s.seqStep core

/-- The context issues next, and its operation is the control operation named. -/
def State.issues (s : State) (c x op : Nat) : Bool :=
  s.seqRuns c && s.pick c == some x && match s.nextOp c x with
    | some d => dOp d == op && dEng d == 0
    | none => false

/-- A control operation as a row of its own: the cycle in which its context issues it (R266, R282). -/
def State.issueOp (s : State) (c x op : Nat) : Host.Outcome State Fault Refusal := act (s.issues c x op) s fun s => s.seqStep c

def execEndList (core ctx : Nat) (s : State) : Host.Outcome State Fault Refusal := s.issueOp core ctx 0x01
def execLoop (core ctx : Nat) (s : State) : Host.Outcome State Fault Refusal := s.issueOp core ctx 0x02
def execEndloop (core ctx : Nat) (s : State) : Host.Outcome State Fault Refusal := s.issueOp core ctx 0x03
def execCall (core ctx : Nat) (s : State) : Host.Outcome State Fault Refusal := s.issueOp core ctx 0x04
def execRet (core ctx : Nat) (s : State) : Host.Outcome State Fault Refusal := s.issueOp core ctx 0x05
def execBranch (core ctx : Nat) (s : State) : Host.Outcome State Fault Refusal := s.issueOp core ctx 0x06
def execSetb (core ctx : Nat) (s : State) : Host.Outcome State Fault Refusal := s.issueOp core ctx 0x08
def execAddb (core ctx : Nat) (s : State) : Host.Outcome State Fault Refusal := s.issueOp core ctx 0x09
def execLdb (core ctx : Nat) (s : State) : Host.Outcome State Fault Refusal := s.issueOp core ctx 0x0A
def execTokclr (core ctx : Nat) (s : State) : Host.Outcome State Fault Refusal := s.issueOp core ctx 0x0B
def execShTake (core ctx : Nat) (s : State) : Host.Outcome State Fault Refusal := s.issueOp core ctx 0x10
def execShAdd (core ctx : Nat) (s : State) : Host.Outcome State Fault Refusal := s.issueOp core ctx 0x11
def execShDrain (core ctx : Nat) (s : State) : Host.Outcome State Fault Refusal := s.issueOp core ctx 0x12
def execWaitt (core ctx : Nat) (s : State) : Host.Outcome State Fault Refusal := s.issueOp core ctx 0x13
def execWaitc (core ctx : Nat) (s : State) : Host.Outcome State Fault Refusal := s.issueOp core ctx 0x14
def execFence (core ctx : Nat) (s : State) : Host.Outcome State Fault Refusal := s.issueOp core ctx 0x15
def execPause (core ctx : Nat) (s : State) : Host.Outcome State Fault Refusal := s.issueOp core ctx 0x16
def execRload (core ctx : Nat) (bad : List (Nat × Nat)) (s : State) : Host.Outcome State Fault Refusal :=
  act (s.issues core ctx 0x18) s fun s => (s.ownBads (coreDie core) bad).seqStep core
def execRstore (core ctx : Nat) (s : State) : Host.Outcome State Fault Refusal := s.issueOp core ctx 0x19
def execRatom (core ctx : Nat) (s : State) : Host.Outcome State Fault Refusal := s.issueOp core ctx 0x1A

/-! ### Prefetch (R272) -/

/-- Prefetched descriptors at and after the pc. -/
def Ctx.ahead (t : Ctx) : Nat := (t.buf.filter fun e => decide (t.pc.toNat ≤ e.1)).length

/-- The 256 B block that a context fetches next: the first from the pc on with a descriptor that the buffer lacks. -/
def Ctx.fetchBlock (t : Ctx) : Option Nat :=
  let b0 := t.pc.toNat / 256 * 256
  ((List.range 5).map fun k => b0 + 256 * k).find? fun b =>
    (List.range 8).any fun i => decide (t.pc.toNat ≤ b + 32 * i) && (t.descAt (b + 32 * i)).isNone

/-- A block that a core's sequencer reads itself: of its own scratchpad, or by the coils of its own die's cache-die window (R216, R234, R272). -/
def nearBlock (c b : Nat) : Bool :=
  match placeOf b with
  | .sp k _ => k == c
  | .kd n _ => n == coreDie c
  | _ => false

/-- A fetch sets out for a block: by a load through the compute station, which never looks up the cache die, or over the narrow net for register space (R10, R210, R272, R541). -/
def State.sendFetch (s : State) (c x b : Nat) : State :=
  match placeOf b with
  | .reg _ =>
    if s.coreOff c then s.modCtx c x fun t => { t with fetched := some (b, [], .pathLost) }
    else s.netSend (accessNode b) 4 (.fetch c x b)
  | _ => s.access { owner := .seq c x, st := coreDie c, kind := .load, code := 0x01, ep := 0, laddr := b, data := [], rlen := 256
                    retAddr := s.freshRet, dest := .fetch c x b, sig := 0, aseq := 0, poison := false, mask := 0 } 2

/-- PREFETCH_REFILL: with 16 or more slots free, or nothing held at the pc, a fetch sets out (R272). -/
def execPrefetchRefill (core ctx : Nat) (s : State) : Host.Outcome State Fault Refusal :=
  let t := s.ctx core ctx
  act (s.seqRuns core && decide (ctx < 16) && !t.fetching && (decide (t.ahead ≤ 16) || (t.descAt t.pc.toNat).isNone)
    && (t.issuing || (decide (t.state = .wait) && decide (t.why ≠ .endRec)) || decide (t.state = .parked) || decide (t.state = .paused))) s
    fun s =>
      let s1 := s.modCtx core ctx fun t => { t with fetching := true, fetched := none }
      match t.fetchBlock with
      | some b => if nearBlock core b || s.fetchOut core ctx then s1 else s1.sendFetch core ctx b
      | none => s1

/-! ### Waits end (R269, R280, R343, R344, R359) -/

/-- A wait of a context ends: it goes on, and its token is signalled (R280). -/
def State.waitOver (s : State) (c x : Nat) : State :=
  let t := s.ctx c x
  ((s.setCtx c x .ready .none).modCtx c x fun t => { t with sigOp := 0 }).signal c x t.sig 0 t.sigOp

/-- WAITT_END: the region's copy is valid and has reached the instant (R333, R344). -/
def execWaittEnd (core ctx : Nat) (s : State) : Host.Outcome State Fault Refusal :=
  let t := s.ctx core ctx
  act (decide (t.state = .wait) && decide (t.why = .waitt) && s.ftValid (coreRegion core)
    && decide (t.waitFt.toNat ≤ s.ftCopy (coreRegion core))) s fun s => s.waitOver core ctx

/-- WAITC_END: its cycles have been counted (R343). -/
def execWaitcEnd (core ctx : Nat) (s : State) : Host.Outcome State Fault Refusal :=
  let t := s.ctx core ctx
  act (decide (t.state = .wait) && decide (t.why = .waitc) && decide ((s.region (coreRegion core)).state = 0)) s fun s =>
    (s.modCtx core ctx fun t => { t with waitCycles := 0 }).waitOver core ctx

/-- END's waits have ended: its fence, its descriptors and its sheaf operations are done, and its record finds a place (R269, R359, R431). -/
def State.endDone (s : State) (c x : Nat) : Bool :=
  s.endWaited c x && s.endRoom c x

/-- CONTEXT_ENTERS_IDLE (R269). -/
def execContextEntersIdle (core ctx : Nat) (s : State) : Host.Outcome State Fault Refusal :=
  act (s.endDone core ctx) s fun s =>
    let t := s.ctx core ctx
    ((s.goIdle core ctx t.worst t.endAddr.toNat).modCtx core ctx fun t => { t with sigOp := 0 }).signal core ctx t.sig 0 t.sigOp

/-- SHEAF_ANSWER: the bank's answer completes the operation, or faults the context (R277, R280, R359). -/
def execSheafAnswer (core ctx : Nat) (s : State) : Host.Outcome State Fault Refusal :=
  match s.sheaves.answers.find? fun a => a.core == core && a.ctx == ctx with
  | none => .next s
  | some a => act true s fun s =>
    let t := s.ctx core ctx
    let s1 := { s with sheaves := { s.sheaves with answers := s.sheaves.answers.erase a } }
    let s2 := if a.op = 0x10 then s1 else s1.modCtx core ctx fun t => { t with sheafOut := t.sheafOut - 1 }
    let s3 :=
      if a.status ≠ .done then s2.ctxFault core ctx 7 0 a.op a.status
      else if a.op = 0x10 ∧ t.state = .wait ∧ t.why = .sheaf then
        (s2.setCtx core ctx .ready .none).modCtx core ctx fun t => { t with sigOp := 0 }
      else s2
    s3.signal core ctx a.sig 0 a.op

/-- XC_TOKEN_SIGNAL: the oldest signal on its way to the core arrives (R280). -/
def execXcTokenSignal (core : Nat) (s : State) : Host.Outcome State Fault Refusal :=
  match (s.core core).meshIn with
  | [] => .next s
  | m :: r => act (s.coreUp core) s fun s => (s.modCore core fun u => { u with meshIn := r }).bumpToken core m

end Sys2Proof.Machine
end

