-- ==== Sys2Proof/Machine/Sheaf.lean ====
section
/-! DEFINITION. Sheaf banks (10): their operations, waiting TAKEs and the commands that act on a sheaf. -/

namespace Sys2Proof.Machine

open Sys2Proof

/-! ### Faults and answers (R355, R359, R362, R367) -/

/-- A fault of a bank: KIND 1 overflow, 2 underflow, 3 stall, 4 TAKE above LIMIT (R367). -/
def State.bankFault (s : State) (sheaf kind : Nat) (core : Option Nat) : State :=
  s.modBank (sheafBank sheaf) fun b =>
    { b with fvalid := true, fkind := kind, fremote := core.isNone, fsheaf := sheaf, fcore := core.getD 0, fcount := inc 7 b.fcount }

/-- Opcode of a sequencer's sheaf operation (R282). -/
def SheafOp.code : SheafOp → Nat
  | .take => 0x10 | .add => 0x11 | .drain => 0x12 | .read => 0

/-- The bank answers a sequencer: a class 1 message to the drill of its cluster (R10, R66, R359). -/
def State.bankAnswer (s : State) (core ctx op : Nat) (st : Status) (sig : BitVec 16) : State :=
  s.netSend (nodeDrill (core / 4)) 1 (.wake { core := core, ctx := ctx, op := op, status := st, sig := sig })

/-- The bank answers an operation: a sequencer, or the station that passed it a packet (R359, R362); the answer of one whose context a reset has cleared is dropped. -/
def State.bankReply (s : State) (r : BankReq) (st : Status) (data : List Byte) : State :=
  match r.from?, r.pkt with
  | some (c, x), _ => if x < 16 then s.bankAnswer c x r.op.code st r.sig else s
  | none, some (w, p) => s.reply w p (if (hdr p).op == 0x01 then 0x70 else 0x71) data st false
  | none, none => s

/-! ### The operations (R355, R357) -/

/-- Waiting TAKEs are completed from the oldest, until one asks for more than VALUE. -/
def serveList : Nat → List Waiter → List Waiter × Nat × List Waiter
  | v, [] => ([], v, [])
  | v, w :: r =>
    if w.n ≤ v then
      let x := serveList (v - w.n) r
      (w :: x.1, x.2.1, x.2.2)
    else ([], v, w :: r)

/-- The bank serves the waiters of a sheaf (R357). -/
def State.serve (s : State) (i : Nat) : State :=
  let x := serveList (s.sheaf i).value (s.sheaf i).waiters
  each x.1 (fun w s => s.bankAnswer w.core w.ctx 0x10 .done w.sig)
    (s.modSheaf i fun h => { h with value := x.2.1, waiters := x.2.2 })

/-- VALUE is set and waiters are served. -/
def State.setSheaf (s : State) (i v : Nat) : State := (s.modSheaf i fun h => { h with value := v }).serve i

/-- ADD: within LIMIT VALUE rises and waiters are served, else overflow (R355). -/
def State.sheafAdd (s : State) (i n : Nat) (core : Option Nat) : State × Status :=
  let h := s.sheaf i
  if h.value + n ≤ h.limit then (s.setSheaf i (h.value + n), .done) else (s.bankFault i 1 core, .outOfRange)

/-- DRAIN (R355). -/
def State.sheafDrain (s : State) (i n : Nat) (core : Option Nat) : State × Status :=
  let h := s.sheaf i
  if n ≤ h.value then (s.modSheaf i fun h => { h with value := h.value - n }, .done) else (s.bankFault i 2 core, .outOfRange)

/-- TAKE: at once, above LIMIT, or in the queue; the status is none while it waits (R355). -/
def State.sheafTake (s : State) (r : BankReq) : State × Option Status :=
  let h := s.sheaf r.sheaf
  if h.limit < r.n then (s.bankFault r.sheaf 4 (r.from?.map (·.1)), some .outOfRange)
  else if r.n = 0 then (s, some .done)
  else if h.waiters.isEmpty && decide (r.n ≤ h.value) then
    (s.modSheaf r.sheaf fun h => { h with value := h.value - r.n }, some .done)
  else
    let x := r.from?.getD (0, 0)
    (s.modSheaf r.sheaf fun h => { h with waiters := h.waiters ++ [{ core := x.1, ctx := x.2, n := r.n, sig := r.sig }] }, none)

/-- The operation that arrived first at a bank, when it is of the kind asked for, and the state without it (R355); a self-test run makes it wait (R605). -/
def State.bankHead (s : State) (k : Nat) (op : SheafOp) : Option (BankReq × State) :=
  if s.bistHolds 2 k then none
  else match (s.bank k).inbox with
  | [] => none
  | r :: _ => if r.op = op then some (r, s.modBank k fun b => { b with inbox := b.inbox.drop 1 }) else none

/-- BANK_ADD (R355). -/
def execBankAdd (k : Nat) (s : State) : Host.Outcome State Fault Refusal :=
  match s.bankHead k .add with
  | none => .next s
  | some (r, s1) => act (s.fieldUp k) s fun _ =>
    let x := s1.sheafAdd r.sheaf r.n (r.from?.map (·.1))
    x.1.bankReply r x.2 []

/-- BANK_TAKE (R355). -/
def execBankTake (k : Nat) (s : State) : Host.Outcome State Fault Refusal :=
  match s.bankHead k .take with
  | none => .next s
  | some (r, s1) => act (s.fieldUp k) s fun _ =>
    let x := s1.sheafTake r
    match x.2 with
    | some st => x.1.bankReply r st []
    | none => x.1

/-- BANK_DRAIN (R355). -/
def execBankDrain (k : Nat) (s : State) : Host.Outcome State Fault Refusal :=
  match s.bankHead k .drain with
  | none => .next s
  | some (r, s1) => act (s.fieldUp k) s fun _ =>
    let x := s1.sheafDrain r.sheaf r.n (r.from?.map (·.1))
    x.1.bankReply r x.2 []

/-- BANK_READ (R355). -/
def execBankRead (k : Nat) (s : State) : Host.Outcome State Fault Refusal :=
  match s.bankHead k .read with
  | none => .next s
  | some (r, s1) => act (s.fieldUp k) s fun _ => s1.bankReply r .done (leBytes 4 (s1.sheaf r.sheaf).value)

/-- The sheaf of a bank at which a context's TAKE waits. -/
def State.waitsAt (s : State) (k c x : Nat) : Option (Nat × Waiter) :=
  (s.sheaves.sheaf.filter fun e => sheafBank e.1 == k).findSome? fun e =>
    (e.2.waiters.find? fun w => w.core == c && w.ctx == x).map fun w => (e.1, w)

/-- TAKE_TIMEOUT: beyond WLIM the TAKE leaves the queue; the one behind it is served when VALUE next rises (R357, R358). -/
def execTakeTimeout (k core ctx : Nat) (s : State) : Host.Outcome State Fault Refusal :=
  match s.waitsAt k core ctx with
  | none => .next s
  | some (i, w) => act ((s.sheaf i).wlim != 0) s fun s =>
    let s1 := s.modSheaf i fun h => { h with waiters := h.waiters.erase w }
    let s2 := ((s1.bankFault i 3 (some core)).modBank k fun b => { b with stalls := inc 16 b.stalls }).raise (ntSheafStall k)
    s2.bankAnswer core ctx 0x10 .timedOut w.sig

/-! ### Commands (R363, R364, R425) -/

/-- A sheaf number that names one, in a field in service (R363, R425). -/
def State.sheafChecks (s : State) (i : Nat) : List (Bool × Status) :=
  [(decide (16384 ≤ i), .outOfRange), (!s.fieldUp (sheafBank i), .wrongState)]

/-- SHEAF_INIT (R363). -/
def execSheafInit (o : Origin) (sheaf : Nat) (value limit : W32) (wlim : BitVec 16) (s : State) :
    Host.Outcome State Fault Refusal :=
  .next (s.command o 0x60
    [ (decide (16384 ≤ sheaf), .outOfRange),
      (decide (limit.toNat < value.toNat), .badField),
      (!s.fieldUp (sheafBank sheaf), .wrongState),
      (!(s.sheaf sheaf).waiters.isEmpty, .wrongState) ]
    fun s => (s.modSheaf sheaf fun h => { h with value := value.toNat, limit := limit.toNat, wlim := wlim.toNat }, []))

/-- SHEAF_READ (R363, R424). -/
def execSheafRead (o : Origin) (sheaf : Nat) (s : State) : Host.Outcome State Fault Refusal :=
  .next (s.command o 0x61 (s.sheafChecks sheaf) fun s =>
    let h := s.sheaf sheaf
    (s, leBytes 4 h.value ++ leBytes 4 h.limit ++ leBytes 2 h.wlim ++ leBytes 2 h.waiters.length))

/-- SHEAF_ADD: an ADD beyond LIMIT completes OUT_OF_RANGE as the bank's overflow does (R355, R425). -/
def execSheafAdd (o : Origin) (sheaf : Nat) (n : W32) (s : State) : Host.Outcome State Fault Refusal :=
  match firstFail (s.sheafChecks sheaf) with
  | some st => .next (s.complete o 0x62 st [])
  | none =>
    let x := s.sheafAdd sheaf n.toNat none
    .next (x.1.complete o 0x62 x.2 [])

/-- SHEAF_FORCE: logged, forced whatever LIMIT holds, waiters served (R364, R562). -/
def execSheafForce (o : Origin) (sheaf : Nat) (value : W32) (s : State) : Host.Outcome State Fault Refusal :=
  proxy o 0xEA false s fun s => s.command o 0xEA (s.sheafChecks sheaf) fun s =>
    let s1 := s.log 0x0060 3 ntSheafForced (leBytes 2 sheaf ++ leBytes 4 (s.sheaf sheaf).value ++ leBytes 4 value.toNat
      ++ [BitVec.ofNat 8 (pathCode (viaPath o.via)), BitVec.ofNat 8 (if o.mbox then 0 else o.hopper)])
    let s2 := { s1 with sheaves := { s1.sheaves with forceVal := value, forceSheaf := sheaf } }
    ((s2.setSheaf sheaf value.toNat).raise ntSheafForced, [])

end Sys2Proof.Machine
end

