-- ==== Sys2Proof/Machine/Sow.lean ====
section
/-! DEFINITION. Field Time inside the package and sows (10): correction pulses, clock stretch, the sow tables, their actions and
completions. -/

namespace Sys2Proof.Machine

open Sys2Proof

/-! ### Field Time inside the package (R330 to R333, R342, R365) -/

/-- Reading of a copy's unit is possible: a region's clock runs. -/
def State.nodeRuns (s : State) (node : Nat) : Bool :=
  decide (node < 67) && (decide (32 ≤ node) || (s.region node).state == 0)

/-- FT_CORRECTION_PULSE: a copy that reads so many 2^-16 ticks is compared with the root; one behind advances, one ahead holds (R331 to R333). -/
def execFtCorrectionPulse (node : Nat) (reading : Nat) (s : State) : Host.Outcome State Fault Refusal :=
  act (s.nodeRuns node) s fun s =>
    let root := s.now.toNat * 65536
    let err := if root ≤ reading then reading - root else root - reading
    let s1 := { s with time := { s.time with
      held := tset s.time.held 0 node (if root < reading then reading else 0)
      invalid := s.time.invalid.filter (· != node)
      maxErr := max s.time.maxErr (sat 8 (err / 65536))
      skewErr := if 131072 < err then inc 16 s.time.skewErr else s.time.skewErr } }
    if 131072 < err then s1.raise ntFtSkew else s1

/-- CLOCK_STRETCH: one period is counted; the region's copy adds its extra length and so keeps with the root (R342, R365). -/
def execClockStretch (region percent : Nat) (s : State) : Host.Outcome State Fault Refusal :=
  act (decide (region < 32) && (s.region region).state == 0 && decide (1 ≤ percent) && decide (percent ≤ 50)) s fun s =>
    { s with time := { s.time with stretch := tmod s.time.stretch 0 region (inc 32) } }

/-! ### Sow tables (R345 to R347) -/

/-- Key of a sow table. -/
def sowKey (t : SowTable) (u : Nat) : Nat :=
  match t with | .core => u | .station => 64 + u | .port => 96 + u

/-- Units of a kind of table, and entries of one (R345, R347). -/
def sowUnits : SowTable → Nat
  | .core => 64 | .station => 14 | .port => 16
def sowRoom : SowTable → Nat
  | .core => 64 | .station => 256 | .port => 128

/-- A KIND belongs to a kind of table (R346). -/
def kindFits (t : SowTable) (kind : Nat) : Bool :=
  match t with
  | .core => kind == 1
  | .station => kind == 2 || kind == 3 || kind == 4
  | .port => kind == 5

/-- Number of the Field Time copy that a table acts on (R330, R348). -/
def sowNode (t : SowTable) (u : Nat) : Nat :=
  match t with | .core => coreRegion u | .station => 32 + u | .port => 46 + u

/-- The unit of a table is in service, and has not halted (R347, R422); a port table is always open to entries. -/
def State.sowUnitUp (s : State) (t : SowTable) (u : Nat) : Bool :=
  match t with | .core => s.coreUp u | .station => s.stUp u | .port => true
def State.sowUnitHalted (s : State) (t : SowTable) (u : Nat) : Bool :=
  match t with | .core => (s.core u).halted | .station => (s.sta u).halted | .port => (s.port u).halted

/-- Code of TABLE (R426). -/
def SowTable.code : SowTable → Nat
  | .core => 0 | .station => 1 | .port => 2

/-- A command of 64 bytes whose bytes 8 to 39 are an action (R426). -/
def actionCmd (a : List Byte) : List Byte := List.replicate 8 0 ++ sliceB a 0 32 ++ List.replicate 24 0

/-- Parameters of CTX_LAUNCH in a command's bytes (R424); none when reserved bits or a field's range are not kept (R422). -/
def launchOf (b : List Byte) : Option LaunchParams :=
  let c9 := fieldB b 9 1
  let c10 := fieldB b 10 1
  if bits c9 7 6 != 0 || bit c10 6 || (List.range 5).any (fun i => fieldB b (11 + i) 1 != 0) || fieldB b 22 2 != 0
      || (List.range 34).any (fun i => fieldB b (30 + i) 1 != 0) || decide (2 ^ 44 ≤ fieldB b 16 6)
      || decide (2 ^ 44 ≤ fieldB b 24 6) then none
  else some { core := fieldB b 8 1, ctx := c9 % 16, pri := bits c9 5 4, ring := c10 % 64, noend := bit c10 7
              list := fieldB b 16 6, b1 := BitVec.ofNat 44 (fieldB b 24 6) }

/-- Every byte of a command from i on is 0. -/
def clearFrom (b : List Byte) (i : Nat) : Bool := (List.range (64 - i)).all fun k => fieldB b (i + k) 1 == 0

/-- Parameters of RMAP_SET in a command's bytes (R424). -/
def rmapOf (b : List Byte) : Option RmapParams :=
  let f := fieldB b 12 1
  if 8 ≤ f || !clearFrom b 13 then none
  else some { reader := fieldB b 8 1, rgroup := fieldB b 9 1, wst := fieldB b 10 1, wlg := fieldB b 11 1
              valid := bit f 0, drain := bit f 1, auto := bit f 2 }

/-- Sheaf and N of SHEAF_ADD in a command's bytes (R424). -/
def sheafAddOf (b : List Byte) : Option (Nat × Nat) :=
  if fieldB b 10 2 != 0 || !clearFrom b 16 then none else some (fieldB b 8 2, fieldB b 12 4)

/-- Port, slot, type and set of CAL_SET in a command's bytes (R424). -/
def calSetOf (b : List Byte) : Option (Nat × Nat × Nat × Nat) :=
  if fieldB b 9 1 != 0 || 4 ≤ fieldB b 12 1 || 64 ≤ fieldB b 13 1 || !clearFrom b 14 then none
  else some (fieldB b 8 1, fieldB b 10 2, fieldB b 12 1, fieldB b 13 1)

/-- RING and NOEND that a LAUNCH action names (R347, R425). -/
def actionRing (a : List Byte) : Option Nat :=
  if bit (fieldB a 2 1) 7 then none else some (fieldB a 2 1 % 64)

/-- The checks of SOW_SET in the order of R347. -/
def State.sowChecks (s : State) (p : SowParams) : List (Bool × Status) :=
  [ (decide (sowUnits p.table ≤ p.unitNo), .outOfRange),
    (!kindFits p.table p.kind, .badField),
    (decide (s.ftCopy (sowNode p.table p.unitNo) + 2 ^ 36 < p.ft.toNat), .outOfRange),
    (!s.sowUnitUp p.table p.unitNo, .wrongState),
    (!(s.cring p.ring).enable
      || (p.kind == 1 && (match actionRing p.action with | some r => !(s.cring r).enable | none => false)), .wrongState),
    (decide (sowRoom p.table ≤ (s.sowTab (sowKey p.table p.unitNo)).length), .busy),
    (s.sowUnitHalted p.table p.unitNo, .parity) ]

/-- The sow of a SOWID in a table. -/
def State.sowRun (s : State) (k : Nat) (id : BitVec 16) : Option SowRun :=
  s.sows.runs.find? fun r => r.table == k && r.sowid == id

/-- One entry is loaded; the first of its SOWID opens the sow in the table (R351, R426). -/
def State.sowLoad (s : State) (p : SowParams) : State :=
  let k := sowKey p.table p.unitNo
  let n := match s.sowRun k p.sowid with | some r => r.loaded | none => 0
  let e : SowEntry := { sowid := p.sowid, idx := n, kind := p.kind, ft := p.ft, ring := p.ring, action := p.action
                        lateLoad := decide (p.ft.toNat < s.ftCopy (sowNode p.table p.unitNo)) }
  let runs := match s.sowRun k p.sowid with
    | some _ => s.sows.runs.map fun r => if r.table == k && r.sowid == p.sowid then { r with loaded := r.loaded + 1 } else r
    | none => s.sows.runs ++ [{ table := k, sowid := p.sowid, ring := p.ring, loaded := 1, running := 0, ran := 0, doneCount := 0
                                first := none, late := false }]
  ({ s with sows := { s.sows with runs := runs } } : State).modSow k fun l => l ++ [e]

/-- SOW_SET (R347). -/
def execSowSet (o : Origin) (p : SowParams) (s : State) : Host.Outcome State Fault Refusal :=
  .next (s.command o 0xA3 (s.sowChecks p) fun s => (s.sowLoad p, []))

/-! ### Entries fire (R346, R348 to R351, R426) -/

/-- The entry of a table that starts next: of those due, the one due earliest, and loaded first (R348). -/
def State.sowDue (s : State) (t : SowTable) (u : Nat) : Option SowEntry :=
  ((s.sowTab (sowKey t u)).filter fun e => decide (e.ft.toNat ≤ s.ftCopy (sowNode t u))).foldl
    (fun b e => match b with
      | none => some e
      | some x => if e.ft.toNat < x.ft.toNat then some e else some x) none

/-- An entry's action, with the status it ends with when it ends at once (R351, R426). -/
def State.sowAct (s : State) (t : SowTable) (u : Nat) (e : SowEntry) : State × Option Status :=
  let b := actionCmd e.action
  match e.kind with
  | 1 => match launchOf b with
    | none => (s, some .badField)
    | some p =>
      if p.core = u then
        let r := s.tryLaunch p 0 e.sowid
        (r.1, some r.2)
      else (s, some .badField)
  | 2 => match rmapOf b with
    | none => (s, some .badField)
    | some p =>
      if p.reader = u then (s.rmapSet (.sow (sowKey t u) e.sowid e.idx) p, none) else (s, some .badField)
  | 3 =>
    let g := fieldB e.action 0 1
    let en := fieldB e.action 1 1
    if isSownTx u g && decide (en ≤ 1) && (List.range 30).all (fun i => fieldB e.action (2 + i) 1 == 0) then
      let r := s.txcfgWrite u g (BitVec.ofNat 32 en)
      (r.1, some r.2)
    else (s, some .badField)
  | 4 => match sheafAddOf b with
    | none => (s, some .badField)
    | some (i, n) =>
      if 16384 ≤ i then (s, some .badField)
      else if !s.fieldUp (sheafBank i) then (s, some .wrongState)
      else
        let r := s.sheafAdd i n none
        (r.1, some r.2)
  | 5 => match calSetOf b with
    | none => (s, some .badField)
    | some (p, slot, type, dset) =>
      if p = u ∧ slot < 4096 then
        match firstFail (s.calChecks p slot type dset) with
        | some st => (s, some st)
        | none => (s.calWrite p slot type dset e.ft, some .done)
      else (s, some .badField)
  | _ => (s, some .badField)

/-- LATE of a unit's sow table counts one more (R366). -/
def State.countLate (s : State) (t : SowTable) (u : Nat) : State :=
  match t with
  | .core => s.modCore u fun c => { c with sowLate := inc 16 c.sowLate }
  | .station => s.modSta u fun c => { c with sowLate := inc 16 c.sowLate }
  | .port => s.modPort u fun c => { c with sowLate := inc 16 c.sowLate }

/-- An entry starts: it is freed, counted LATE when it is, and acts (R348, R349). -/
def State.sowFire (s : State) (t : SowTable) (u : Nat) (e : SowEntry) (late : Bool) : State :=
  let k := sowKey t u
  let isLate := e.lateLoad || late || decide (e.ft.toNat + 3 ≤ s.now.toNat)
  let s1 := s.modSow k fun l => l.erase e
  let s2 := { s1 with
    sows := { s1.sows with
      runs := s1.sows.runs.map fun (r : SowRun) =>
        if r.table == k && r.sowid == e.sowid then { r with running := r.running + 1, late := r.late || isLate } else r } }
  let s3 := if isLate then s2.countLate t u else s2
  let x := s3.sowAct t u e
  match x.2 with
  | some st => x.1.sowResult k e.sowid e.idx st
  | none => x.1

/-- SOW_ENTRY_FIRE: the table's copy is valid and has reached the instant; its unit runs (R333, R348, R448). -/
def execSowEntryFire (t : SowTable) (unitNo : Nat) (late : Bool) (s : State) : Host.Outcome State Fault Refusal :=
  match s.sowDue t unitNo with
  | none => .next s
  | some e => act (decide (unitNo < sowUnits t) && s.ftValid (sowNode t unitNo) && s.sowUnitUp t unitNo
      && !s.sowUnitHalted t unitNo && (t != .core || !(s.core unitNo).asleep)) s fun s => s.sowFire t unitNo e late

/-! ### Completion and cancellation (R351 to R353, R428, R431) -/

/-- Unit and code of TABLE of a table's key. -/
def sowPlace (k : Nat) : Nat := if k < 64 then k else if k < 96 then 64 + (k - 64) else 128 + (k - 96)

/-- The record of a sow in a table (R428). -/
def State.sowRecord (s : State) (r : SowRun) : Record :=
  let st := match r.first with
    | some f => f.2
    | none => if r.late then .late else .done
  { ring := r.ring, opcode := 0xA3, hopper := 0, kind := 2, tag := r.sowid, status := st, src := s.selfId, ft := s.now
    result := leBytes 2 r.sowid.toNat ++ [BitVec.ofNat 8 (sowPlace r.table)] ++ leBytes 2 r.ran ++ leBytes 2 r.doneCount
      ++ (match r.first with
        | some f => [BitVec.ofNat 8 f.2.code, BitVec.ofNat 8 f.1]
        | none => [0, 0])
      ++ [if r.late then 1 else 0]
    kept := false }

/-- The sow has nothing armed and nothing running in its table (R351, R352). -/
def State.sowOver (s : State) (r : SowRun) : Bool :=
  r.running == 0 && !((s.sowTab r.table).any fun e => e.sowid == r.sowid)

/-- SOW_COMPLETION: the record is written once a shared place is free (R351, R431). -/
def execSowCompletion (t : SowTable) (unitNo : Nat) (sowid : BitVec 16) (s : State) : Host.Outcome State Fault Refusal :=
  match s.sowRun (sowKey t unitNo) sowid with
  | none => .next s
  | some r => act (s.sowOver r && s.placeFree) s fun s =>
    ({ s with sows := { s.sows with runs := s.sows.runs.erase r } } : State).sendRecord (s.sowRecord r)

/-- Entries leave a table without having fired, and their sows report a status for them (R352, R353). -/
def State.sowDrop (s : State) (k : Nat) (p : SowEntry → Bool) (st : Status) : State :=
  let gone := (s.sowTab k).filter p
  let s1 := s.modSow k fun l => l.filter fun e => !p e
  { s1 with sows := { s1.sows with
      runs := s1.sows.runs.map fun r =>
        if r.table == k then
          (gone.filter fun e => e.sowid == r.sowid).foldl (fun (r : SowRun) (e : SowEntry) =>
            { r with first := match r.first with
                | none => some (e.idx, st)
                | some (i, st') => if e.idx < i then some (e.idx, st) else some (i, st') }) r
        else r } }

/-- A sow table is cleared by a reset: what is lost reports DEAD_TARGET (R353). -/
def State.clearSows (s : State) (t : SowTable) (u : Nat) : State := s.sowDrop (sowKey t u) (fun _ => true) .deadTarget

/-- SOW_CANCEL (R352). -/
def execSowCancel (o : Origin) (t : SowTable) (unitNo : Nat) (sowid : BitVec 16) (s : State) :
    Host.Outcome State Fault Refusal :=
  let k := sowKey t unitNo
  .next (s.command o 0xA4
    [ (decide (sowUnits t ≤ unitNo), .outOfRange),
      (!s.sowUnitUp t unitNo, .wrongState),
      (s.sowUnitHalted t unitNo, .parity),
      (!((s.sowTab k).any fun e => e.sowid == sowid), .notPresent) ]
    fun s => (s.sowDrop k (fun e => e.sowid == sowid) .wrongState, []))

end Sys2Proof.Machine
end

