-- ==== Sys2Proof/Machine/Store.lean ====
section
/-! DEFINITION. HBM stacks, the hash, cache-die and scratchpad events: the rows of 06, and the merge queues (R243). -/

namespace Sys2Proof.Machine

open Sys2Proof

/-! ### The address hash (R200) -/

/-- A memory station is still zeroing its stacks (R195, R200). -/
def State.zeroing (s : State) : Bool := (List.range 12).any fun h => decide ((s.hbm h).state = .zero)

/-- The checks of HASH_SET in the order of R200. -/
def hashChecks (h : HashCfg) (s : State) : List (Bool × Status) :=
  let n := h.stations.length
  let mixed := (h.stations.any fun k => h.sel k == 3) && h.stations.any fun k => h.sel k != 3
  [ (n == 0 || n == 3, .badField),
    (mixed, .badField),
    ((h.stations.any fun k => (layoutStacks h.stksel k).any fun i => !s.stackReady i), .notPresent),
    (s.zeroing, .busy),
    (s.hash.bolt, .bolted) ]

/-- HASH_SET: the key and the layout in every station at once (R200). -/
def execHashSet (o : Origin) (key : W64) (msmask : BitVec 4) (stksel : Byte) (s : State) :
    Host.Outcome State Fault Refusal :=
  let h : HashCfg := { key := key, msmask := msmask, stksel := stksel, bolt := false }
  .next (s.command o 0x85 (hashChecks h s) fun s => ({ s with hash := h }, []))

/-- HASH_BOLT (R200, R201); the compute floor may hold from now on (R545). -/
def execHashBolt (o : Origin) (s : State) : Host.Outcome State Fault Refusal :=
  .next (s.command o 0x86 [(s.zeroing, .busy), (s.hash.bolt, .bolted)] fun s =>
    (({ s with hash := { s.hash with bolt := true } } : State).capSense [0] s, []))

/-! ### Stacks (R197, R198, R205) -/

/-- SELF_REFRESH_ENTER (R197). -/
def execSelfRefreshEnter (h : Nat) (s : State) : Host.Outcome State Fault Refusal :=
  act (decide (h < 12) && decide ((s.hbm h).state = .ready)) s fun s => s.setStack h .selfref

/-- SELF_REFRESH_EXIT (R197); the stacks of a station that is down stay in self-refresh (R196). -/
def execSelfRefreshExit (h : Nat) (s : State) : Host.Outcome State Fault Refusal :=
  act (decide (h < 12) && decide ((s.hbm h).state = .selfref) && s.msUp (h / 3)) s fun s => s.setStack h .ready

/-- STACK_LEAVES_SERVICE: its lines become dead targets, and what its station held open of it is lost (R198, R263). -/
def execStackLeavesService (h : Nat) (s : State) : Host.Outcome State Fault Refusal :=
  act (decide (h < 12) && s.stackReady h) s fun s =>
    ((s.modSta (8 + h / 3) fun x => { x with merge := x.merge.filter fun b => b.blk * 64 / 2 ^ 36 != h }).modHbm h
      fun y => { y with gone := true }).setStack h .failed

/-- The scrub has reached the last block of its station's last stack in service (R205, R220). -/
def State.lastBlock (s : State) (h p : Nat) : Bool :=
  p % 2 ^ 36 / 64 == 2 ^ 30 - 1 && (List.range 3).all fun i => decide (3 * (h / 3) + i ≤ h) || !s.stackReady (3 * (h / 3) + i)

/-- The HBM address that the layout places at a pseudo-channel and byte of a stack, by R199 the other way round; none for a stack outside the layout. -/
def HashCfg.addrOf (h : HashCfg) (stack pc byte : Nat) : Option Nat :=
  if !h.stations.contains (stack / 3) || (!h.full && h.sel (stack / 3) != stack % 3) then none
  else
    let a := Nat.log2 h.stations.length
    let key := h.key.toNat
    let u := byte / 256 * 4 + pc / 16
    let lin := pc % 16 ^^^ fold (u &&& key / 2 ^ 24 % 2 ^ 24) 4
    let j := h.stations.idxOf (stack / 3) ^^^ fold (u &&& key % 2 ^ 24) a
    let t := if h.full then (3 + stack % 3 - (pc / 16 + popcount (u % 2 ^ 16 &&& key / 2 ^ 48)) % 3) % 3 else 0
    some (t * 2 ^ (36 + a) + u * 2 ^ (12 + a) + j * 4096 + lin * 256 + byte % 256)

/-- A scrub finds bad symbols in a block of a stack: one is corrected and counted, more poison it; of a stack outside the layout, what MS_UEADDR then holds is open (R202, R203, R205, R220; log entry 80). -/
def State.scrubBad (s : State) (h blk bad : Nat) : State :=
  let p := h * 2 ^ 36 + blk * 64
  let k := h / 3
  if bad = 0 ∨ s.mem.isPoison p then s
  else if bad = 1 then s.modMs k fun m => { m with ce := inc 16 m.ce }
  else
    let a := (s.hash.addrOf h (blk / 2 ^ 24) (blk % 2 ^ 24 * 64)).getD (s.freeVal % 2 ^ 40)
    (((s.setPoison p true).modMs k fun m => { m with
      ue := inc 16 m.ue, ueAddr := a / 64 * 64, ueValid := true }).raise (ntMemUe k)).draw

/-- SCRUB of a block of a stack, by its number in the stack: one bad symbol is corrected and written back, more poison the block; every stack in service is read, in the layout or not (R202, R203, R205). -/
def execScrub (h blk badSymbols : Nat) (s : State) : Host.Outcome State Fault Refusal :=
  let p := h * 2 ^ 36 + blk * 64
  let k := h / 3
  act (decide (h < 12) && s.stackReady h && s.msUp k && decide (blk < 2 ^ 30) && (s.openBlock (8 + k) p).isNone) s fun s =>
    let s1 := if (s.hbm h).state = .selfref then s.setStack h .ready else s
    let s2 := s1.scrubBad h blk badSymbols
    if s.lastBlock h p then s2.modMs k fun m => { m with passes := inc 16 m.passes } else s2

/-- A request that waits is an operation on a block of memory (R243). -/
def State.pendsOn (s : State) (st : Nat) (p : Packet) (blk : Nat) : Bool :=
  let h := hdr p
  isRequest h.op && (blocksOf (if h.op == 0x60 then mcastAddr st h.laddr else h.laddr) (opSpan h.op h.len (rlenOf p))).any fun b => match s.phys b.1 with
    | some x => x / 64 == blk
    | none => false

/-- MERGE_BLOCK_LEAVE: no operation on the block is pending (R243). -/
def execMergeBlockLeave (st blk : Nat) (s : State) : Host.Outcome State Fault Refusal :=
  match (s.sta st).merge.find? fun b => b.blk == blk with
  | none => .next s
  | some b => act (s.stUp st && !(s.sta st).inbox.any fun e => s.pendsOn st e.2 blk) s fun s => s.writeBack st b

/-! ### Cache dies (R207, R209) -/

/-- A KD_REMAP entry is direct (R207). -/
def directEntry (i : Nat) (e : Nat × Nat) : Bool := e == (0, i)

/-- Every entry stays valid (R207). -/
def CacheDie.valid (k : CacheDie) : Bool :=
  (List.range 64).all fun i =>
    let e := k.remapAt i
    directEntry i e ||
      (!k.fenced.getLsbD e.2 && decide (k.addr ≤ e.1) && decide (e.1 + k.addr ≤ 8) &&
        (List.range 64).all fun j =>
          let f := k.remapAt j
          j == i || directEntry j f || f.2 != e.2 || decide (e.1 + k.addr ≤ f.1) || decide (f.1 + k.addr ≤ e.1))

/-- The cache die applies a posted write, or drops it with a status: only while its cache portion holds no line, and only to a valid result (R207, R209). -/
def State.kdApply (s : State) (n : Nat) (f : CacheDie → CacheDie) : State × Status :=
  let k := f (s.kd n)
  if !(s.kd n).lines.isEmpty then (s, .wrongState)
  else if 8 < k.addr ∨ !k.valid then (s, .outOfRange)
  else ((s.modKd n fun _ => k).capSense [n + 1] s, .done)

/-- Offset of a register of a cache die's block (R442). -/
def kdReg (n off : Nat) : Nat := 0x00400000 + 0x10000 * n + off

/-- A KD_SPLIT write: units that become mapped hold undefined data (R206, R209). -/
def CacheDie.withAddr (k : CacheDie) (a : Nat) : CacheDie :=
  { k with
    addr := a
    era := k.era + 1
    unitEra := (List.range 8).foldl (fun t u => if k.addr ≤ u ∧ u < a then tset t 0 u (k.era + 1) else t) k.unitEra }

/-- A KD_REMAP write: bytes of the logical slice whose rows change hold undefined data (R206, R209). -/
def CacheDie.withRemap (k : CacheDie) (i : Nat) (e : Nat × Nat) : CacheDie :=
  if k.remapAt i = e then k
  else { k with remap := tset k.remap (0, i) i e, era := k.era + 1, sliceEra := tset k.sliceEra 0 i (k.era + 1) }

/-! ### Scratchpads (R217, R219) -/

/-- STARVE (R217). -/
def execStarve (core : Nat) (s : State) : Host.Outcome State Fault Refusal :=
  act (decide (core < 64) && s.coreUp core) s fun s => s.modCore core fun u => { u with starve := inc 16 u.starve }

/-- SP_UE: an uncorrectable word poisons its 64 B row; a correctable one is counted, and the row is rewritten with what it held (R219, R222). -/
def execSpUe (core row : Nat) (correctable : Bool) (s : State) : Host.Outcome State Fault Refusal :=
  act (decide (core < 64) && decide (row < spSize / 64) && s.dieUp (coreDie core)) s fun s =>
    s.spBad core (if correctable then 1 else 2) fun s => s.setPoison (spPlace core (64 * row)) true

end Sys2Proof.Machine
end

