-- ==== Sys2Proof/Machine/Regs.lean ====
section
/-! DEFINITION. Register space (13): what every register reads, the values that a read latches, and what a write to a register
does, with the maps of the other chapters. Offsets count from 0xF00_0000_0000 (R442). -/

namespace Sys2Proof.Machine

open Sys2Proof

/-! ### Reading -/

/-- A field of a register at its lowest bit. -/
def at' (lo v : Nat) : Nat := v * 2 ^ lo

/-- A signed field of w bits in two's complement. -/
def twos (w : Nat) (i : Int) : Nat := (BitVec.ofInt w i).toNat

/-- A counter as its field of w bits shows it. -/
def cnt (w n : Nat) : Nat := sat w n

/-- Some registers of a block: first offset, how many words, and what word i reads. -/
abbrev RegRow := Nat × Nat × (Nat → Nat)

/-- The register of a map at an offset, and its index there. -/
def findReg (l : List RegRow) (off : Nat) : Option Nat :=
  (l.find? fun e => decide (e.1 ≤ off) && decide (off < e.1 + 4 * e.2.1)).map fun e => e.2.2 ((off - e.1) / 4) % 2 ^ 32

/-- Word i of a 64-bit value: its low or its high half. -/
def half (v : Nat) (i : Nat) : Nat := v / 2 ^ (32 * i) % 2 ^ 32

/-- An ID register: VALID and the ID (R412). -/
def idReg (o : Option Nat) : Nat := match o with
  | some e => at' 31 1 + e
  | none => 0

/-- A unit of the slow domains has a posted write to apply (R454). -/
def State.unitBusy (s : State) (u : SlowUnit) : Bool := s.bridge.posted.any fun e => decide (e.1 = u)

/-- The identity key can sign: WD_LC SIGN (R581, R582, R584). -/
def State.signs (s : State) : Bool :=
  decide (1 ≤ s.warden.lifecycle) && decide (s.warden.lifecycle ≤ 3) && s.warden.seed && !s.warden.tampered

/-- WD_ (R367, R447, R548 to R552, R588). -/
def wdRegs (s : State) : List RegRow :=
  [ (0x000, 1, fun _ => at' 20 0x5DA + at' 16 8 + at' 8 1 + at' 4 (Config.siliconStep % 16)),
    (0x004, 1, fun _ => half Config.serial.toNat 0), (0x008, 1, fun _ => s.warden.snHi.toNat),
    (0x100, 1, fun _ => at' 30 s.resets.phase.ctorIdx + at' 27 s.resets.cause + cnt 16 s.resets.warmCnt),
    (0x110, 4, fun k => at' 29 (s.field k).state.ctorIdx + cnt 16 (s.field k).resets),
    (0x120, 8, fun n => at' 29 (s.die n).state.ctorIdx + at' 25 (s.die n).gcause + at' 24 (b2n (s.die n).kdKept)
      + cnt 16 (s.die n).gates),
    (0x140, 1, fun _ => at' 16 (cnt 16 s.resets.mcLost) + cnt 16 s.resets.endDead),
    (0x144, 1, fun _ => cnt 16 s.resets.mergeLost),
    (0x200, 1, fun _ => at' 31 (b2n s.warden.activeB) + at' 30 (b2n s.warden.switchPending)
      + at' 27 s.warden.slotA.state.ctorIdx + at' 24 s.warden.slotB.state.ctorIdx + at' 16 s.warden.svnMin
      + cnt 16 s.warden.restarts),
    (0x204, 2, fun i => (if i = 0 then s.warden.slotA else s.warden.slotB).version.toNat),
    (0x20C, 1, fun _ => at' 29 s.warden.lifecycle + at' 28 (b2n s.signs)
      + at' 27 (b2n (s.warden.lifecycle == 0 || s.warden.lifecycle == 3)) + at' 16 (cnt 8 s.warden.tampers)
      + at' 12 s.warden.lastKind),
    (0x210, 1, fun _ => at' 24 s.warden.missing.toNat + at' 16 s.warden.wfail.toNat + cnt 16 s.warden.writes),
    (0x214, 1, fun _ => half s.warden.logNext 0), (0x218, 1, fun _ => s.warden.logNextHi.toNat),
    (0x21C, 1, fun _ => 2 ^ 25 - s.warden.nextFree),
    (0x300, 1, fun _ => s.sheaves.forceSheaf), (0x304, 1, fun _ => s.sheaves.forceVal.toNat),
    (0xFFC, 1, fun _ => b2n (s.unitBusy .wd)) ]

/-- The worst counted eye of a feed: width, and station and group of its lane (R106). -/
def State.worstFeedEye (s : State) (f : Nat) : Option (Nat × Nat × Nat) :=
  (s.feedEyes f).foldl (fun b e => match b with
    | none => some e
    | some x => if e.2.1 < x.2.1 then some e else some x) none

/-- LS_ (R105 to R109). -/
def lsRegs (s : State) : List RegRow :=
  [ (0x000, 10, fun f =>
      let x := s.feed f
      at' 29 x.state.ctorIdx + at' 28 (b2n x.activeB) + at' 27 (b2n (s.spareOk f)) + at' 26 (b2n x.standbyLit)
        + at' 23 x.step + at' 22 (b2n x.hold) + twos 16 x.power),
    (0x040, 10, fun f => match s.worstFeedEye f with
      | none => at' 10 (s.lowEyeBuses f 55)
      | some e => at' 24 e.2.1 + at' 20 (e.2.2 / 64 % 16) + at' 14 (e.2.2 % 64) + at' 10 (s.lowEyeBuses f 55)),
    (0x080, 5, fun m => at' 31 (b2n (s.elsAt m).present) + at' 30 (b2n (s.elsAt m).linkOk) + at' 26 (s.elsAt m).lit.toNat
      + at' 16 (s.elsAt m).temp),
    (0x0A0, 20, fun i => twos 16 (tget s.light.elsPwr 0 i)),
    (0x100, 10, fun f => at' 24 (cnt 8 (s.feed f).hinges) + at' 16 (cnt 8 (s.feed f).hards) + cnt 16 (s.feed f).watches),
    (0xFFC, 1, fun _ => b2n (s.unitBusy .ls)) ]

/-- PWR_ (R129, R519). -/
def pwrRegs (s : State) : List RegRow :=
  let p := s.power
  [ (0x000, 1, fun _ => at' 30 p.mode + at' 29 (b2n p.fallback) + p.limit),
    (0x004, 1, fun _ => at' 16 (cnt 16 (p.pkgWin / 1000)) + cnt 16 (p.pkgAvg / 1000)),
    (0x008, 1, fun _ => at' 16 (cnt 16 p.excur) + cnt 16 p.cuts),
    (0x00C, 1, fun _ => at' 17 (b2n p.sleepLg) + at' 16 (b2n p.sleepDies) + p.sleepPorts.toNat),
    (0x010, 1, fun _ => p.dieCap),
    (0x100, 8, fun n =>
      let d := s.diePower n
      let src := if d.throttle = d.manager then 0 else if d.throttle = d.thermal then 1 else 2
      at' 24 d.throttle + at' 22 src + at' 20 (if !s.dieUp n then 2 else if d.asleep then 1 else 0) + cnt 10 d.power),
    (0x200, 8, fun n =>
      let d := s.diePower n
      at' 31 (b2n (d.level != d.demand)) + at' 30 (b2n d.ballast) + at' 16 d.level + at' 8 d.demand + d.ramp),
    (0x300, 32, fun r =>
      let x := s.region r
      at' 24 x.freq + at' 16 x.fmax + at' 8 x.fmin + at' 6 x.state + at' 5 (b2n (x.pllLost || x.jitterOver))),
    (0x380, 32, fun r => at' 24 (cnt 8 (s.region r).jitter) + at' 16 (s.region r).duty + cnt 16 (s.region r).changes),
    (0xFFC, 1, fun _ => b2n (s.unitBusy .pwr)) ]

/-- THM_ (R520). -/
def thmRegs (s : State) : List RegRow :=
  let die (t : Therm) : Nat := at' 24 t.temp + at' 22 t.level + at' 8 t.peak
  [ (0x000, 8, fun n => die (s.therm (.cd n))), (0x020, 8, fun n => die (s.therm (.kd n))),
    (0x040, 4, fun k => at' 24 (s.therm (.field k)).temp + at' 22 (s.therm (.field k)).level + at' 20 (s.therm (.field k)).band),
    (0x050, 1, fun _ => at' 31 (b2n s.power.tripValid) + at' 28 s.power.tripKind + at' 24 s.power.tripIndex
      + at' 16 s.power.tripTemp + cnt 16 s.power.tripCount),
    (0xFFC, 1, fun _ => b2n (s.unitBusy .thm)) ]

/-- Word i of 512 sources by a test (R466). -/
def srcWord (p : Nat → Bool) (i : Nat) : Nat := maskOf 32 fun b => p (32 * i + b)

/-- NOTICE_ (R466). -/
def noticeRegs (s : State) : List RegRow :=
  [ (0x000, 16, srcWord s.wire), (0x040, 16, srcWord s.ntPend), (0x080, 16, srcWord s.ntActive),
    (0x0C0, 16, srcWord s.notices.mask.getLsbD), (0x100, 64, fun _ => 0), (0x200, 1, fun _ => 0),
    (0x204, 1, fun _ => s.notices.redeliver),
    (0x208, 1, fun _ => at' 16 (cnt 16 s.notices.sent) + cnt 16 s.notices.resent),
    (0x210, 1, fun _ => maskOf 14 (fun x => (s.sta x).halted) + at' 16 (maskOf 8 fun n => (s.kd n).halted)),
    (0x214, 1, fun _ => maskOf 16 fun p => (s.port p).halted),
    (0x218, 2, fun i => maskOf 32 fun b => (s.core (32 * i + b)).halted) ]

/-- Commands that a hopper holds, the running one counted (R439). -/
def Hopper.count (h : Hopper) : Nat := h.held.length + b2n h.running.isSome

/-- HSEQ of a command (R418). -/
def hseqOf (l : List Byte) : BitVec 16 := BitVec.ofNat 16 (fieldB l 4 2)

/-- HSEQ of the first command that has not started. -/
def Hopper.first (h : Hopper) : BitVec 16 := if h.running.isSome && !h.cleared then h.next + 1 else h.next

/-- GAP: a command waits for a lower HSEQ that has not come (R419, R439). -/
def Hopper.gap (h : Hopper) : Bool :=
  (List.range 128).any fun i => (h.held.any fun c => hseqOf c.bytes == h.first + BitVec.ofNat 16 i)
    && (List.range i).any fun j => !(h.held.any fun c => hseqOf c.bytes == h.first + BitVec.ofNat 16 j)

/-- CMD_ (R439, R457). -/
def cmdRegs (s : State) : List RegRow :=
  let b := s.bridge
  [ (0x000, 16, fun i => (tget b.mboxCmd 0 i).toNat), (0x040, 1, fun _ => 0), (0x044, 1, fun _ => at' 30 b.mboxState),
    (0x048, 1, fun _ => at' 31 (b2n b.errValid) + at' 28 b.errPath + at' 16 b.errStatus.code + cnt 16 b.errCount),
    (0x04C, 1, fun _ => b.errAddrLatch.toNat),
    (0x060, 8, fun i => if b.mboxState = 2 then fieldB b.mboxResult (4 * i) 4 else 0),
    (0x100, 64, fun r =>
      let c := s.cring r
      at' 31 (b2n c.enable) + at' 30 (b2n c.peer) + at' 25 c.log2 + c.ep),
    (0x200, 64, fun r => (s.cring r).pi), (0x300, 64, fun r => (s.cring r).ci),
    (0x400, 64, fun h =>
      let x := s.hopper h
      at' 31 (b2n x.bound) + at' 25 x.ring + at' 17 x.count + at' 16 (b2n x.gap) + x.next.toNat),
    (0x500, 64, fun h => at' 16 (cnt 16 (s.hopper h).dropped) + cnt 16 (s.hopper h).dup) ]

/-- FT_ (R365). -/
def ftRegs (s : State) : List RegRow :=
  let t := s.time
  [ (0x000, 1, fun _ => half t.root.toNat 0), (0x004, 1, fun _ => t.nowHi.toNat),
    (0x008, 1, fun _ => at' 30 t.sync.ctorIdx + at' 28 t.role.ctorIdx + cnt 16 t.exch),
    (0x00C, 1, fun _ => at' 16 (twos 16 t.offset) + twos 16 t.delay), (0x010, 1, fun _ => twos 16 t.slew),
    (0x014, 1, fun _ => at' 24 (cnt 8 t.maxErr) + cnt 16 t.skewErr),
    (0x100, 32, fun r => cnt 32 (tget t.stretch 0 r)) ]

/-- PORT_ (R188, R262, R366, R412, R413, R454, R491). -/
def portRegs (s : State) : List RegRow :=
  let r := s.rem
  [ (0x000, 1, fun _ => at' 31 (b2n s.plat.valid) + s.plat.id),
    (0x004, 1, fun _ => at' 31 (b2n s.plat.bolt) + (s.plat.entries.filter fun e => e.2.getLsbD 63).length),
    (0x008, 1, fun _ => at' 16 (cnt 16 s.plat.fwd) + cnt 16 s.plat.drop),
    (0x00C, 1, fun _ => at' 16 (cnt 16 r.refuseSent) + cnt 16 r.refuseGot),
    (0x010, 1, fun _ => at' 16 (cnt 16 r.resent) + at' 8 (cnt 8 r.gaveUp) + cnt 8 r.late),
    (0x014, 1, fun _ => at' 31 (b2n s.group.valid) + at' 29 s.group.role + at' 28 (b2n s.group.overlap) + at' 22 s.group.sidx
      + at' 21 (b2n s.group.rekey) + s.group.epoch.toNat),
    (0x018, 1, fun _ => idReg s.group.master), (0x01C, 1, fun _ => idReg s.group.backup),
    (0x020, 1, fun _ => idReg s.group.bcroot), (0x024, 1, fun _ => s.group.inc.toNat),
    (0x040, 16, fun p => at' 24 (s.sowTab (sowKey .port p)).length + cnt 16 (s.port p).sowLate),
    (0x100, 16, fun p =>
      let q := s.port p
      at' 29 q.state.ctorIdx + at' 27 q.gen + at' 26 (b2n q.gen2Fail) + at' 25 (b2n (s.portUp (partner p)))
        + at' 16 (min 255 ((s.ownHalf p + 8191) / 8192)) + cnt 16 q.failed.length),
    (0x140, 16, fun p => at' 31 (b2n (s.port p).enable) + at' 29 (s.port p).genMax + at' 28 (b2n (s.port p).p2pWritten)),
    (0x180, 16, fun p => at' 16 (cnt 16 (s.port p).uncorr) + cnt 16 (s.port p).corr),
    (0x1C0, 16, fun p => at' 22 (cnt 10 (s.port p).misaddr) + at' 11 (cnt 11 (s.port p).crcErr) + cnt 11 (s.port p).stranger),
    (0x200, 16, fun p => at' 16 (cnt 16 (s.port p).resent) + at' 8 (cnt 8 (s.port p).pathFailCnt) + cnt 8 (s.port p).dup),
    (0x300, 64, fun i => idReg (tget s.group.members none i)),
    (0x400, 1, fun _ => maskOf 16 fun p => s.unitBusy (.port p)),
    (0x480, 16, fun p => at' 29 (s.port p).sill.ctorIdx + at' 24 (cnt 4 (s.port p).sillPersist) + cnt 24 (s.port p).sillRetry) ]

/-- TEST_ (R603). -/
def testRegs (s : State) : List RegRow :=
  let t := s.test
  [ (0x000, 1, fun _ => at' 31 (b2n t.bolt) + b2n t.en), (0x100, 14, fun i => tget t.delay 0 i),
    (0x140, 14, fun i => (tget t.backp 0 i).toNat), (0x180, 14, fun i => (tget t.laneErr 0 i).toNat),
    (0x1C0, 14, fun i => (tget t.ackDrop 0 i).toNat), (0x200, 32, fun r => (tget t.stretch 0 r).toNat),
    (0x280, 1, fun _ => t.portAck.toNat) ]

/-- A sow holds a change for a map entry: an armed RMAP entry of the station names it (R62). -/
def State.sowPend (s : State) (st g : Nat) : Bool :=
  (s.sowTab (sowKey .station st)).any fun e => e.kind == 2 && match rmapOf (actionCmd e.action) with
    | some p => p.rgroup == g
    | none => false

/-- BASE_ and LG_ registers of a station (R61 to R63, R140, R141, R187, R260, R366, R452, R488, R489). -/
def stationRegs (s : State) (st : Nat) : List RegRow :=
  let x := s.sta st
  let credit (i : Nat) : Bool := validPair st (i / 8) (i % 8)
  [ (0x000, numTx st, fun g =>
      let t := s.txg st g
      at' 31 (b2n (g ≤ 12)) + at' 27 (if g ≤ 12 then standingPeer st g else 15) + at' 24 t.state.ctorIdx
        + at' 20 (s.readerCount st g) + at' 16 t.lanes + b2n t.enable),
    (0x100, numRx st, fun g =>
      let r := s.rxg st g
      at' 31 (b2n r.valid) + at' 27 r.wst + at' 21 r.wlg + at' 19 (if r.badParity then 0 else r.state.ctorIdx)
        + at' 18 (b2n (s.sowPend st g)) + at' 15 r.share),
    (0x200, numTx st, fun g => cnt 32 (s.txg st g).rplcnt),
    (0x300, numRx st, fun g => at' 16 (cnt 16 (s.rxg st g).crcErr) + cnt 16 (s.rxg st g).misroute),
    (0x400, numRx st, fun g => at' 24 (s.rxg st g).eyeW + at' 16 (s.rxg st g).eyeH + at' 13 (s.rxg st g).eyeLane),
    (0x500, numRx st, fun g =>
      let r := s.rxg st g
      let rings := rxRings st g ++ (if r.valid then txRings r.wst r.wlg else [])
      let errs := rings.map fun i => (s.ringAt i).errAvg
      at' 24 (if r.valid then (s.txg r.wst r.wlg).bad.toNat else 0)
        + at' 21 (worstRing (rings.map fun i => (s.ringAt i).state)).ctorIdx + cnt 12 (errs.foldl max 0)),
    (0x600, numRx st, fun g =>
      let r := s.rxg st g
      at' 16 (cnt 16 r.calCount) + at' 8 r.calTemp + at' 4 r.calCause + b2n r.calBusy),
    (0x700, numRx st, fun g => half (s.rxg st g).calFt.toNat 0),
    (0x800, numRx st, fun g => (s.rxg st g).calFtHi.toNat),
    (0x900, 1, fun _ => at' 16 x.maxint + x.calDelta),
    (0xA00, 1, fun _ => at' 16 (cnt 16 x.malformed) + cnt 16 x.stale), (0xA04, 1, fun _ => cnt 32 x.dup),
    (0xA08, 1, fun _ => at' 25 x.entriesUsed + cnt 16 x.partials),
    (0xA0C, 1, fun _ => if isXS st then 0 else at' 23 x.merge.length + x.mergePeak),
    (0xA10, 1, fun _ => at' 23 (s.sowTab (sowKey .station st)).length + cnt 16 x.sowLate),
    (0xA14, 1, fun _ => at' 31 (b2n x.rmapBolt)) ]
  ++ ((List.range 112).filter credit).map (fun (i : Nat) => show RegRow from
      (0xC00 + 4 * i, 1, fun _ => at' 16 (s.pendOf st (i / 8) (i % 8)) + s.alloc st (i / 8) (i % 8)))
  ++ ((List.range 112).filter credit).map (fun (i : Nat) => show RegRow from
      (0xE00 + 4 * i, 1, fun _ => at' 31 (b2n (s.waitsFor st (i / 8) (i % 8))) + cnt 16 (s.held (i / 8) st (i % 8))))
  ++ [ (0x1000, 36, fun i =>
        if !isCS st then 0
        else
          let b := s.bond st i
          let w := (if b.state = .off then none else b.baseLive).getD { qmask := 0, epoch := 0, bad := 0 }
          at' 29 b.state.ctorIdx + at' 26 (popcount w.qmask.toNat) + at' 22 w.qmask.toNat
            + at' 18 (if b.state = .off then 0 else b.spares) + w.epoch.toNat),
      (0x1100, 36, fun i => if !isCS st then 0
        else at' 16 (cnt 16 (s.bond st i).crcErr) + at' 8 (cnt 8 (s.bond st i).trains) + cnt 8 (s.bond st i).holds) ]

/-- MS_ (R220, R259). -/
def msRegs (s : State) (k : Nat) : List RegRow :=
  let m := s.ms k
  [ (0x000, 2, half s.hash.key.toNat),
    (0x008, 1, fun _ => at' 31 (b2n s.hash.bolt) + at' 8 s.hash.msmask.toNat + s.hash.stksel.toNat),
    (0x010, 3, fun i =>
      let h := s.hbm (3 * k + i)
      at' 29 h.state.ctorIdx + at' 26 h.refmult + at' 16 (h.temp / 2) + at' 8 (cnt 8 h.repairs)),
    (0x020, 1, fun _ => at' 16 (cnt 16 m.ce) + cnt 16 m.ue), (0x024, 1, fun _ => half m.ueAddr 0),
    (0x028, 1, fun _ => at' 31 (b2n m.ueValid) + m.ueHi.toNat % 256),
    (0x02C, 1, fun _ => at' 16 (cnt 16 m.passes) + m.period),
    (0x030, 1, fun _ => at' 15 m.receipts.length + m.retain), (0x034, 1, fun _ => at' 16 (cnt 16 m.hit) + cnt 16 m.expired),
    (0x038, 1, fun _ => cnt 32 m.early), (0x03C, 1, fun _ => half m.evft.toNat 0), (0x040, 1, fun _ => m.evftHi.toNat) ]

/-- SHEAF_ (R367). -/
def sheafRegs (s : State) (k : Nat) : List RegRow :=
  let b := s.bank k
  [ (0x000, 1, fun _ => at' 21 (((List.range 4096).map fun i => (s.sheaf (4096 * k + i)).waiters.length).sum) + cnt 16 b.stalls),
    (0x004, 1, fun _ => at' 31 (b2n b.fvalid) + at' 28 b.fkind + at' 27 (b2n b.fremote) + at' 13 b.fsheaf + at' 7 b.fcore
      + cnt 7 b.fcount) ]

/-- KD_ (R221, R490). -/
def kdRegs (s : State) (n : Nat) : List RegRow :=
  let k := s.kd n
  [ (0x000, 1, fun _ => at' 31 (b2n k.lines.isEmpty) + k.addr), (0x010, 2, half k.fenced.toNat),
    (0x018, 1, fun _ => at' 16 (cnt 16 k.ce) + cnt 16 k.ue),
    (0x01C, 1, fun _ => at' 31 (b2n k.lostUnknown) + cnt 31 k.lostLines),
    (0x100, 64, fun i => at' 8 (k.remapAt i).1 + (k.remapAt i).2),
    (0x200, 64, fun g => at' 31 (b2n (k.fenced.getLsbD g)) + at' 26 (s.coil n g).dnsp + at' 23 (s.coil n g).upsp
      + cnt 16 (s.coil n g).retry),
    (0xFFC, 1, fun _ => b2n (s.unitBusy (.kd n))) ]

/-- CORE_ (R222, R261, R299 to R302, R324, R366). -/
def coreRegs (s : State) (c : Nat) : List RegRow :=
  let u := s.core c
  [ (0x000, 16, fun i =>
      let x := s.ctx c i
      at' 29 x.state.ctorIdx + at' 27 x.pri + at' 26 (b2n x.late) + at' 24 x.loops.length + at' 20 x.calls.length
        + at' 16 x.why.ctorIdx + at' 8 (s.queued c i)),
    (0x040, 8, fun i => ((List.range 8).map fun j => at' (4 * j) (s.token c (8 * i + j))).sum),
    (0x060, 1, fun _ => u.seqFault.toNat), (0x064, 1, fun _ => at' 24 u.level + at' 16 u.throttle),
    (0x068, 1, fun _ => at' 8 (maskOf 7 fun e => decide (32 ≤ (s.eng c e).queue.length))
      + maskOf 7 fun e => (s.eng c e).queue.any fun q => q.begun),
    (0x06C, 1, fun _ => at' 16 (cnt 16 u.engPois) + cnt 16 u.tokOvf), (0x070, 1, fun _ => u.seedSrc.toNat),
    (0x074, 1, fun _ => at' 24 (cnt 8 u.nsSat) + at' 16 (cnt 8 u.nsOvfNan) + at' 8 (cnt 8 u.nsInvalid) + cnt 8 u.nsIovf),
    (0x078, 1, fun _ => 0), (0x080, 1, fun _ => at' 16 (cnt 16 u.starve)),
    (0x084, 1, fun _ => at' 16 (cnt 16 u.spCe) + cnt 16 u.spUe),
    (0x090, 1, fun _ => at' 31 (b2n u.rfValid) + at' 30 (b2n u.rfUnknown) + at' 26 u.rfCtx + at' 24 u.rfKind
      + at' 16 u.rfStatus.code + at' 8 u.rfMask.toNat + cnt 8 u.rfCount),
    (0x094, 1, fun _ => u.rfLatchLo.toNat), (0x098, 1, fun _ => u.rfLatchHi.toNat),
    (0x09C, 1, fun _ => at' 16 ((List.range 16).filter fun x => (s.ctx c x).state == .parked).length + cnt 12 (s.outstanding c)),
    (0x0A0, 1, fun _ => at' 25 (s.sowTab (sowKey .core c)).length + cnt 16 u.sowLate),
    (0x100, 16, fun i => half (s.ctx c i).pc.toNat 0), (0x140, 16, fun i => (s.ctx c i).pcHi.toNat) ]

/-- A block of register space, with the number of the unit it belongs to (R442). -/
inductive Block where
  | wd | ls | pwr | thm | notice | cmd | ft | port | test
  | station (st : Nat) | ms (k : Nat) | sheaf (k : Nat) | kd (n : Nat) | core (c : Nat)
  deriving DecidableEq, Repr

/-- The block that an offset lies in, and the offset within it (R442). -/
def blockOf (off : Nat) : Option (Block × Nat) :=
  let b := off / 0x10000
  let r := off % 0x10000
  if b = 0 then some (.wd, r) else if b = 1 then some (.ls, r) else if b = 2 then some (.pwr, r)
  else if b = 3 then some (.thm, r) else if b = 4 then some (.notice, r) else if b = 5 then some (.cmd, r)
  else if b = 6 then some (.ft, r) else if b = 7 then some (.port, r) else if b = 8 then some (.test, r)
  else if 0x10 ≤ b ∧ b < 0x1E then some (.station (b - 0x10), r)
  else if 0x20 ≤ b ∧ b < 0x24 then some (.ms (b - 0x20), r)
  else if 0x30 ≤ b ∧ b < 0x34 then some (.sheaf (b - 0x30), r)
  else if 0x40 ≤ b ∧ b < 0x48 then some (.kd (b - 0x40), r)
  else if 0x100 ≤ b ∧ b < 0x140 then some (.core (b - 0x100), r)
  else none

/-- The map of a block. -/
def State.map (s : State) : Block → List RegRow
  | .wd => wdRegs s | .ls => lsRegs s | .pwr => pwrRegs s | .thm => thmRegs s | .notice => noticeRegs s | .cmd => cmdRegs s
  | .ft => ftRegs s | .port => portRegs s | .test => testRegs s | .station st => stationRegs s st | .ms k => msRegs s k
  | .sheaf k => sheafRegs s k | .kd n => kdRegs s n | .core c => coreRegs s c

/-- What the register at an offset reads; none for an unassigned address (R443). -/
def State.regVal (s : State) (off : Nat) : Option Nat :=
  match blockOf off with
  | none => none
  | some (b, r) => findReg (s.map b) r

/-- Index in an array of n registers. -/
def arrayIdx (base n off : Nat) : Option Nat := if base ≤ off ∧ off < base + 4 * n then some ((off - base) / 4) else none

/-- What a read latches (R142, R220, R259, R261, R300, R365, R447, R457, R588). -/
def State.latch (s : State) (off : Nat) : State :=
  match blockOf off with
  | some (.wd, 0x004) => { s with warden := { s.warden with snHi := BitVec.ofNat 32 (half Config.serial.toNat 1) } }
  | some (.wd, 0x214) => { s with warden := { s.warden with logNextHi := BitVec.ofNat 32 (half s.warden.logNext 1) } }
  | some (.cmd, 0x048) => { s with bridge := { s.bridge with errAddrLatch := s.bridge.errAddr } }
  | some (.ft, 0x000) => { s with time := { s.time with nowHi := BitVec.ofNat 32 (half s.time.root.toNat 1) } }
  | some (.station st, r) => match arrayIdx 0x700 (numRx st) r with
    | some g => s.modRx st g fun x => { x with calFtHi := BitVec.ofNat 32 (half x.calFt.toNat 1) }
    | none => s
  | some (.ms k, 0x024) => s.modMs k fun m => { m with ueHi := BitVec.ofNat 32 (half m.ueAddr 1) }
  | some (.ms k, 0x03C) => s.modMs k fun m => { m with evftHi := BitVec.ofNat 32 (half m.evft.toNat 1) }
  | some (.core c, r) =>
    if r = 0x090 then s.modCore c fun u =>
      { u with rfLatchLo := BitVec.ofNat 32 (half u.rfLaddr 0), rfLatchHi := BitVec.ofNat 32 (at' 12 u.rfEp + half u.rfLaddr 1) }
    else match arrayIdx 0x100 16 r with
      | some x => s.modCtx c x fun t => { t with pcHi := BitVec.ofNat 32 (half t.pc.toNat 1) }
      | none => s
  | _ => s

/-- A read of a register: status, word, and the state with what it latches (R443, R444, R446). -/
def State.regRead (s : State) (a : Nat) : Status × W32 × State :=
  if a < regBase ∨ regBase + 2 ^ 32 ≤ a then (.outOfRange, 0, s)
  else if a % 4 ≠ 0 then (.badField, 0, s)
  else match s.regVal (a - regBase) with
    | none => (.notPresent, 0, s)
    | some v => (.done, BitVec.ofNat 32 v, s.latch (a - regBase))

end Sys2Proof.Machine
end

