-- ==== Sys2Proof/Machine/Service.lean ====
section
/-! DEFINITION. What the other units do when a station leaves service and when it returns (R44, R166, R174, R253), and the
halt of a unit on a configuration parity mismatch with its end (R448, R449). -/

namespace Sys2Proof.Machine

open Sys2Proof

/-! ### A station leaves the reader sets and returns (R44, R166, R174, R181, R253) -/

/-- Stations other than one. -/
def otherStations (st : Nat) : List Nat := (List.range nSt).filter (· != st)

/-- Requests for a station alone, of those its writers hold: queued, under way, or with grains not acknowledged; multicasts go by R181 (R253). -/
def State.packetsTo (s : State) (w st : Nat) : List QPacket :=
  ((s.sta w).sendq ++ s.inFlight w).filter fun q => q.readers == [st] && isRequest (hdr q.pkt).op && !s.isMc q.pkt

/-- Multicasts of a writer that a station has not wholly received: it is a remaining reader of them again, undelivered (R181, R253). -/
def State.undelivered (s : State) (w st : Nat) : State :=
  let l := (s.inFlight w).filter fun q => (hdr q.pkt).vc == 3 && q.readers.contains st
  let again (r : Remnant) : Remnant :=
    if l.any fun q => some (BitVec.ofNat 14 (hdr q.pkt).pseq) == r.pseq then
      { r with remaining := r.remaining ||| stationsMask [st] }
    else r
  s.modSta w fun x => { x with remnants := x.remnants.map again }

/-- Packets for a station alone leave the queues of a writer, but for multicasts not yet begun, which keep their dead reader (R181); grains of one under way are waited for by nobody. -/
def State.purgeTo (s : State) (w st : Nat) : State :=
  let keep (q : QPacket) : Bool := q.readers != [st]
  let s1 := s.modSta w fun x => { x with sendq := x.sendq.filter fun q => keep q || s.isMc q.pkt }
  each (List.range (numTx w)) (fun g s => s.modTx w g fun t => { t with queue := t.queue.filter keep }) s1

/-- Credit between two stations of which one leaves service: PEND clears (R189). -/
def State.clearPend (s : State) (r w : Nat) : State :=
  each (List.range 8) (fun vc s => { s with credit := { s.credit with pend := tdel s.credit.pend (creditKey r w vc) } }) s

/-- The groups that a station reads wait for the readers they have now, and take the shares for them (R44, R54). -/
def State.readerSetsChanged (s : State) (st : Nat) : State :=
  each (List.range (numRx st)) (fun rg s =>
    let r := s.rxg st rg
    if r.valid then (s.settleAcks r.wst r.wlg).reshare r.wst r.wlg else s) s

/-- A station is out of every reader set: writers no longer wait for it, PEND clears, and every packet to it that is queued,
waits for credit or is unfinished ends with DEAD_TARGET, a request from across the rack by a DEAD reply, and multicasts by R181 (R44, R54, R189, R253). -/
def State.stationGone (s : State) (st : Nat) : State :=
  let ends := (otherStations st).flatMap fun w => (s.packetsTo w st).map fun q => (w, q)
  let s1 := each (otherStations st) (fun w s => (((s.undelivered w st).purgeTo w st).clearPend st w).clearPend w st) s
  each ends (fun e s => s.refusePacket e.1 st e.2 .deadTarget) (s1.readerSetsChanged st)

/-- Credit between two stations of which one enters service: the writer holds its ALLOC, totals start anew (R174, R189). -/
def State.freshCredit (s : State) (r w : Nat) : State :=
  each (List.range 8) (fun vc s =>
    let k := creditKey r w vc
    { (s.setHeld r w vc (s.alloc r w vc)) with
      credit := { (s.setHeld r w vc (s.alloc r w vc)).credit with
        pend := tdel s.credit.pend k, total := tdel s.credit.total k, seen := tdel s.credit.seen k
        owed := tdel s.credit.owed k, win := tdel s.credit.win k } }) s

/-- A station enters service: windows for it are empty, its numbers start at 0, credit is whole, and its LOCKED entries join
their reader sets, whose shares change (R54, R166, R174). -/
def State.stationBack (s : State) (st : Nat) : State :=
  let s1 := each (otherStations st) (fun w s => (s.freshCredit st w).freshCredit w st) s
  let s2 := s1.modSta st fun x => { x with pseq := [] }
  each ((List.range (numRx st)).filter fun rg => (s.rxg st rg).valid && decide ((s.rxg st rg).state = .locked))
    (fun rg s => s.joinReader st rg) s2 |>.readerSetsChanged st

/-! ### Units halted on parity (R448 to R450) -/

/-- A unit that a parity mismatch in a register halts (R448). -/
inductive Unit' where
  | station (st : Nat) | kd (n : Nat) | port (p : Nat) | core (c : Nat)
  deriving DecidableEq, Repr

/-- Offsets of the registers of a unit that hold an RW field (R449). -/
def Unit'.regs : Unit' → List Nat
  | .station st => ((List.range (numTx st)).filter (12 < ·)).map (fun g => stReg st (4 * g)) ++ [stReg st 0x900]
    ++ ((List.range 112).filter fun i => validPair st (i / 8) (i % 8)).map fun i => stReg st (0xC00 + 4 * i)
  | .kd n => kdReg n 0 :: (List.range 64).map fun i => kdReg n (0x100 + 4 * i)
  | .port p => [portCfgReg p]
  | .core c => [coreReg c 0x070]

/-- The unit is halted. -/
def State.haltedAt (s : State) : Unit' → Bool
  | .station st => (s.sta st).halted
  | .kd n => (s.kd n).halted
  | .port p => (s.port p).halted
  | .core c => (s.core c).halted

/-- Set whether a unit is halted; CFG_PARITY follows (R459). -/
def State.setHalt (s : State) (u : Unit') (b : Bool) : State :=
  let s1 := match u with
    | .station st => s.modSta st fun x => { x with halted := b }
    | .kd n => s.modKd n fun x => { x with halted := b }
    | .port p => s.modPort p fun x => { x with halted := b }
    | .core c => s.modCore c fun x => { x with halted := b }
  (s1.sense ntCfgParity s).capSense (List.range 15) s

/-- A register mismatch halts a unit: a station leaves the reader sets, a port leaves service (R448). -/
def State.haltUnit (s : State) (u : Unit') : State :=
  if s.haltedAt u then s
  else
    let s1 := (s.setHalt u true)
    let s2 := { s1 with reloaded := s1.reloaded.filter fun r => !u.regs.contains r }
    match u with
    | .station st => s2.stationGone st
    | .port p => s2.portLeft p
    | _ => s2

/-- A unit resumes; a station is in the reader sets again (R449). -/
def State.resumeUnit (s : State) (u : Unit') : State :=
  let s1 := s.setHalt u false
  let s2 := { s1 with reloaded := s1.reloaded.filter fun r => !u.regs.contains r }
  match u with
  | .station st => if s.stUp st then s2.stationBack st else s2
  | _ => s2

/-- The unit, of those that halt, that holds the register at an offset. -/
def unitOf (off : Nat) : Option Unit' :=
  let b := off / 0x10000
  if 0x10 ≤ b ∧ b < 0x1E then some (.station (b - 0x10))
  else if 0x40 ≤ b ∧ b < 0x48 then some (.kd (b - 0x40))
  else if 0x100 ≤ b ∧ b < 0x140 then some (.core (b - 0x100))
  else if b = 7 ∧ 0x140 ≤ off % 0x10000 ∧ off % 0x10000 < 0x180 then some (.port ((off % 0x10000 - 0x140) / 4))
  else none

/-- A register was rewritten: its halted unit checks all its registers. With every one rewritten it resumes; before that,
whether the ones that were bad are among those rewritten is open (R449; log entry 50). -/
def State.reload (s : State) (off : Nat) : State :=
  match unitOf off with
  | none => s
  | some u =>
    if !s.haltedAt u || !u.regs.contains off then s
    else
      let s1 := { s with reloaded := insSorted s.reloaded off }
      if u.regs.all s1.reloaded.contains then s1.resumeUnit u
      else if s1.freeVal % 2 == 1 then s1.draw.resumeUnit u
      else s1.draw

/-- A register write ends as State.wrote gives; one that took effect counts as a reload (R446, R449, R457). -/
def State.wroteReg (r : State × Status) (p : Path) (off : Nat) : State :=
  if r.2 = .done then r.1.reload off else r.1.dropWrite p off r.2

end Sys2Proof.Machine
end

