-- ==== Sys2Proof/Machine/RegWrite.lean ====
section
/-! DEFINITION. Register writes by every path (R440, R444 to R446, R449, R453 to R457, R460 to R464, R601): what a write to
each register does, posted writes, and the rows of single registers. -/

namespace Sys2Proof.Machine

open Sys2Proof

/-! ### Notice registers (R460, R463, R464) -/

/-- PEND of a source is not latched. -/
def State.unpend (s : State) (src : Nat) : State :=
  { s with notices := { s.notices with pend := setBit512 s.notices.pend src false, pendFt := tdel s.notices.pendFt src } }

/-- NOTICE_EOI for a source: service ends, and a condition that holds is pending again (R460, R464). -/
def State.noticeEoi (s : State) (src : Nat) : State × Status :=
  if !s.ntActive src then (s, .wrongState)
  else
    let s1 := { s with notices := { s.notices with active := setBit512 s.notices.active src false } }
    (if isCond src && s.cause src then s1.latchPend src else s1, .done)

/-- NOTICE_PEND_SET of a source; reserved numbers never become pending, and an event's wire may rise (R458, R462, R463). -/
def State.pendSet (s : State) (src : Nat) : State :=
  if !isSource src then s else if isCond src then s.latchPend src else s.raise src

/-- NOTICE_PEND_CLR of a source; a condition whose level is 1 is set again at once under R460 (R463). -/
def State.pendClr (s : State) (src : Nat) : State :=
  if isCond src && s.cause src && !s.ntActive src then s else s.unpend src

/-- A write of one word of the per-source write registers: a change for each bit written 1 (R463). -/
def State.noticeBits (s : State) (f : Nat → State → State) (i : Nat) (data : W32) : State :=
  each ((List.range 32).filter data.getLsbD) (fun b s => f (32 * i + b) s) s

/-- MASK of a source. -/
def State.setMask (s : State) (b : Bool) (src : Nat) : State :=
  { s with notices := { s.notices with mask := setBit512 s.notices.mask src b } }

/-- A write in the NOTICE_ block (R460, R463, R464, R466). -/
def State.noticeWrite (s : State) (r : Nat) (data : W32) : State × Status :=
  match arrayIdx 0x100 16 r, arrayIdx 0x140 16 r, arrayIdx 0x180 16 r, arrayIdx 0x1C0 16 r with
  | some i, _, _, _ => (s.noticeBits (fun x s => s.setMask true x) i data, .done)
  | _, some i, _, _ => (s.noticeBits (fun x s => s.setMask false x) i data, .done)
  | _, _, some i, _ => (s.noticeBits (fun x s => s.pendSet x) i data, .done)
  | _, _, _, some i => (s.noticeBits (fun x s => s.pendClr x) i data, .done)
  | _, _, _, _ =>
    if r = 0x200 then s.noticeEoi (data.toNat % 512)
    else if r = 0x204 then ({ s with notices := { s.notices with redeliver := data.toNat % 256 } }, .done)
    else (s, .done)

/-! ### CMD_ (R435, R440) -/

/-- CMD_RINGCI: CI advances by no more than PI (R440). -/
def State.ringci (s : State) (r : Nat) (data : W32) : State × Status :=
  let c := s.cring r
  let ci := data.toNat % 2 ^ 17
  if (c.pi + 2 ^ 17 - ci) % 2 ^ 17 ≤ (c.pi + 2 ^ 17 - c.ci) % 2 ^ 17 then
    ((s.modCring r fun c => { c with ci := ci }).sense ntRingFull s, .done)
  else (s, .outOfRange)

/-- GO: the mailbox is BUSY with the command held, which arrives by the path that wrote GO (R435). -/
def State.mboxGo (s : State) (via : Via) : State × Status :=
  if s.bridge.mboxState = 1 then (s, .busy)
  else ({ s with bridge := { s.bridge with mboxState := 1, mboxGo := some via } }, .done)

/-- A write in the CMD_ block. -/
def State.cmdWrite (s : State) (via : Via) (r : Nat) (data : W32) : State × Status :=
  match arrayIdx 0x000 16 r, arrayIdx 0x300 64 r with
  | some i, _ =>
    if s.bridge.mboxState = 1 then (s, .busy)
    else ({ s with bridge := { s.bridge with mboxCmd := tset s.bridge.mboxCmd 0 i data } }, .done)
  | _, some i => s.ringci i data
  | _, _ => if r = 0x040 ∧ data.getLsbD 31 then s.mboxGo via else (s, .done)

/-! ### TEST_ (R601, R603) -/

/-- Every TEST_ register but TEST_EN at its reset value. -/
def SelfTest.calm (t : SelfTest) : SelfTest :=
  { t with delay := [], backp := [], laneErr := [], ackDrop := [], stretch := [], portAck := 0 }

/-- A write of TEST_EN: EN, or the bolt (R601). -/
def State.testEn (s : State) (data : W32) : State × Status :=
  if s.test.bolt then (s, .bolted)
  else
    let en := data.getLsbD 0
    let t := if data.getLsbD 31 || !en then s.test.calm else s.test
    (({ s with test := { t with bolt := data.getLsbD 31, en := en } } : State).sense ntTestActive s, .done)

/-- A rate of a perturbation within its range: 0, or from lo to 20 (R603). -/
def rateOk (lo n : Nat) : Bool := n == 0 || (decide (lo ≤ n) && decide (n ≤ 20))

/-- Bits hi:lo of a word kept, the others 0. -/
def keepBits (l : List (Nat × Nat)) (w : W32) : W32 :=
  BitVec.ofNat 32 (l.map fun e => bits w.toNat e.1 e.2 * 2 ^ e.2).sum

/-- A write of another TEST_ register (R601, R603). -/
def State.testWrite (s : State) (r : Nat) (data : W32) : State × Status :=
  let w := data.toNat
  let put (ok : Bool) (t : SelfTest) : State × Status := if ok then ({ s with test := t }, .done) else (s, .outOfRange)
  let t := s.test
  if t.bolt then (s, .bolted)
  else if !t.en then (s, .wrongState)
  else match arrayIdx 0x100 14 r, arrayIdx 0x140 14 r, arrayIdx 0x180 14 r, arrayIdx 0x1C0 14 r, arrayIdx 0x200 32 r with
    | some i, _, _, _, _ => put (decide (bits w 15 0 ≤ 4095)) { t with delay := tset t.delay 0 i (bits w 15 0) }
    | _, some i, _, _, _ => put (bits w 30 27 != 14 && decide (bits w 26 24 < 6))
        { t with backp := tset t.backp 0 i (keepBits [(31, 31), (30, 27), (26, 24)] data) }
    | _, _, some i, _, _ => put (decide (bits w 31 26 < numTx i) && rateOk 4 (bits w 25 21))
        { t with laneErr := tset t.laneErr 0 i (keepBits [(31, 26), (25, 21)] data) }
    | _, _, _, some i, _ => put (decide (bits w 31 26 < numRx i) && rateOk 1 (bits w 25 21))
        { t with ackDrop := tset t.ackDrop 0 i (keepBits [(31, 26), (25, 21)] data) }
    | _, _, _, _, some i => put (decide (1 ≤ bits w 21 16) && decide (bits w 21 16 ≤ 50))
        { t with stretch := tset t.stretch 0 i (keepBits [(31, 31), (21, 16), (3, 0)] data) }
    | _, _, _, _, _ => put (rateOk 1 (bits w 31 27)) { t with portAck := keepBits [(31, 27), (15, 0)] data }

/-! ### MS_ and CORE_ (R220, R259, R322, R324) -/

/-- A write in the MS_ block. -/
def State.msWrite (s : State) (k r : Nat) (data : W32) : State × Status :=
  let w := data.toNat
  if r = 0x02C then
    if 1 ≤ bits w 7 0 ∧ bits w 7 0 ≤ 168 then (s.modMs k fun m => { m with period := bits w 7 0 }, .done) else (s, .outOfRange)
  else if r = 0x030 then
    if 1 ≤ bits w 3 0 ∧ bits w 3 0 ≤ 10 then (s.modMs k fun m => { m with retain := bits w 3 0 }, .done) else (s, .outOfRange)
  else (s, .done)

/-- CORE_RNGSEED: the seed is loaded into every engine whose SEEDSRC bit is 1, from its next descriptor on (R322, R325). -/
def State.rngseed (s : State) (c : Nat) (data : W32) : State :=
  each ((List.range 6).filter (s.core c).seedSrc.getLsbD) (fun e s => s.modEng c e fun g => { g with seedNext := some data }) s

/-- A write in the CORE_ block. -/
def State.coreWrite (s : State) (c r : Nat) (data : W32) : State × Status :=
  if r = 0x070 then (s.modCore c fun u => { u with seedSrc := data.setWidth 6 }, .done)
  else if r = 0x078 then (s.rngseed c data, .done)
  else (s, .done)

/-! ### Station registers (R61, R64, R140, R172) -/

/-- A write in a station's block. -/
def State.stationWrite (s : State) (st r : Nat) (data : W32) : State × Status :=
  match arrayIdx 0 (numTx st) r, arrayIdx 0xC00 112 r with
  | some g, _ => s.txcfgWrite st g data
  | _, some i => s.crallocWrite st (i / 8) (i % 8) data
  | _, _ => if r = 0x900 then s.calcfgWrite st data else (s, .done)

/-! ### Slow units (R453 to R455) -/

/-- The slow unit that takes a write by posting, if the register is one of its (R453). -/
def slowOf (b : Block) (r : Nat) : Option SlowUnit :=
  match b with
  | .ls => some .ls
  | .pwr => some .pwr
  | .thm => some .thm
  | .wd => some .wd
  | .kd n => some (.kd n)
  | .port => (arrayIdx 0x140 16 r).map .port
  | _ => none

/-- A frequency that PWR_REGION admits, in 10 MHz (R495, R519). -/
def freqOk (f : Nat) : Bool := decide (140 ≤ f) && decide (f ≤ 210) && f % 5 == 0

/-- The range check that the register agent makes before it posts a write (R127, R209, R413, R455, R509, R519). -/
def postRange (b : Block) (r : Nat) (data : W32) : Bool :=
  let w := data.toNat
  match b with
  | .pwr =>
    if r = 0x000 then decide (bits w 31 30 ≤ 1) && decide (400 ≤ bits w 15 0) && decide (bits w 15 0 ≤ 2000)
    else if r = 0x010 then decide (50 ≤ bits w 15 0) && decide (bits w 15 0 ≤ 150)
    else if (arrayIdx 0x200 8 r).isSome then decide (10 ≤ bits w 7 0)
    else if (arrayIdx 0x300 32 r).isSome then
      freqOk (bits w 23 16) && freqOk (bits w 15 8) && decide (bits w 15 8 ≤ bits w 23 16)
    else true
  | .kd _ => r != 0 || decide (bits w 3 0 ≤ 8)
  | .port => bits w 30 29 == 1 || bits w 30 29 == 2
  | _ => true

/-- The clock of a region stops for a change of frequency; its FT copy is not valid until a pulse after its restart (R333, R497). -/
def State.stopRegion (s : State) (r freq : Nat) : State :=
  let s1 := s.modRegion r fun x => { x with state := 1, nextFreq := freq }
  { s1 with time := { s1.time with invalid := if s1.time.invalid.contains r then s1.time.invalid else r :: s1.time.invalid } }

/-- PWR_REGION as the region takes it; with FMIN equal to FMAX it goes to that frequency alone (R495, R519). -/
def State.regionWrite (s : State) (r : Nat) (data : W32) : State :=
  let fmax := bits data.toNat 23 16
  let fmin := bits data.toNat 15 8
  let s1 := s.modRegion r fun x => { x with fmax := fmax, fmin := fmin }
  if fmin = fmax ∧ (s.region r).freq ≠ fmax ∧ (s.region r).state = 0 then s1.stopRegion r fmax else s1

/-- A write in the PWR_ block as the unit applies it (R127, R498, R509, R519). -/
def State.pwrWrite (s : State) (r : Nat) (data : W32) : State :=
  let w := data.toNat
  match arrayIdx 0x200 8 r, arrayIdx 0x300 32 r with
  | some n, _ => s.modDiePower n fun d => { d with ramp := bits w 7 0 }
  | _, some i => s.regionWrite i data
  | _, _ =>
    if r = 0x000 then { s with power := { s.power with mode := bits w 31 30, limit := bits w 15 0 } }
    else if r = 0x00C then
      { s with power := { s.power with sleepLg := data.getLsbD 17, sleepDies := data.getLsbD 16, sleepPorts := data.setWidth 16 } }
    else if r = 0x010 then { s with power := { s.power with dieCap := bits w 15 0 } }
    else s

/-- SHEAF_FORCE and SHEAF_FORCEVAL as the Warden's firmware writes them (R364, R367). -/
def State.wdWrite (s : State) (r : Nat) (data : W32) : State :=
  if r = 0x304 then { s with sheaves := { s.sheaves with forceVal := data } }
  else if r = 0x300 then
    let i := data.toNat % 16384
    let s1 := { s with sheaves := { s.sheaves with forceSheaf := i } }
    if data.getLsbD 31 then (s1.setSheaf i s.sheaves.forceVal.toNat).raise ntSheafForced else s1
  else s

/-- GO names a sheaf of a field out of service, so that the write is dropped (R364). -/
def State.forceDropped (s : State) (r : Nat) (data : W32) : Bool :=
  decide (r = 0x300) && data.getLsbD 31 && !s.fieldUp (sheafBank (data.toNat % 16384))

/-- A posted write as its unit applies it, with the status of one that it drops (R364, R455). -/
def State.applyWrite (s : State) (off : Nat) (data : W32) : State × Status :=
  match blockOf off with
  | some (.ls, r) => match arrayIdx 0 10 r with
    | some f => (s.modFeed f fun x => { x with hold := data.getLsbD 22 }, .done)
    | none => (s, .done)
  | some (.pwr, r) => (s.pwrWrite r data, .done)
  | some (.wd, r) => if s.forceDropped r data then (s, .wrongState) else (s.wdWrite r data, .done)
  | some (.kd n, r) =>
    if r = 0 then s.kdApply n fun k => k.withAddr (data.toNat % 16)
    else match arrayIdx 0x100 64 r with
      | some i => s.kdApply n fun k => k.withRemap i (bits data.toNat 10 8, bits data.toNat 5 0)
      | none => (s, .done)
  | some (.port, r) => match arrayIdx 0x140 16 r with
    | some p => s.portCfg p data
    | none => (s, .done)
  | _ => (s, .done)

/-- The PATH that ERR_LAST records of a posted write a unit drops: the Warden's for a register of WD_ (R364, R455). -/
def latePath (u : SlowUnit) : Path := if u = .wd then .warden else .unitLate

/-- A unit applies its posted write (R453, R455). -/
def State.applyPosted (s : State) (u : SlowUnit) : State :=
  match s.bridge.posted.find? fun e => decide (e.1 = u) with
  | none => s
  | some e => State.wroteReg ((s.unpost u).applyWrite e.2.1 e.2.2) (latePath u) e.2.1

/-- The register agent posts a write, unless its unit is BUSY or a value lies outside its range (R453 to R455; log entry 51). -/
def State.postWrite (s : State) (u : SlowUnit) (b : Block) (r off : Nat) (data : W32) : State × Status :=
  if s.unitBusy u then (s, .busy)
  else if !postRange b r data then (s, .outOfRange)
  else ({ s with bridge := { s.bridge with posted := s.bridge.posted ++ [(u, off, data)] } }, .done)

/-! ### Every write (R444 to R446, R457) -/

/-- A path may write a block (R444). -/
def pathMay (p : Path) (b : Block) : Bool :=
  match b with
  | .wd => p == .warden
  | .cmd | .notice => p != .coreStore
  | _ => true

/-- The effect of a write that its path may make on a register that exists. -/
def State.blockWrite (s : State) (via : Via) (b : Block) (r off : Nat) (data : W32) : State × Status :=
  match slowOf b r with
  | some u => s.postWrite u b r off data
  | none => match b with
    | .notice => s.noticeWrite r data
    | .cmd => s.cmdWrite via r data
    | .test => if r = 0 then s.testEn data else s.testWrite r data
    | .station st => s.stationWrite st r data
    | .ms k => s.msWrite k r data
    | .core c => s.coreWrite c r data
    | _ => (s, .done)

/-- A write at a local address, with its status: the checks of R444 in their order, then R445, then the register's own. -/
def State.tryWrite (s : State) (path : Path) (via : Via) (a : Nat) (data : W32) : State × Status :=
  if a < regBase ∨ regBase + 2 ^ 32 ≤ a then (s, .outOfRange)
  else if a % 4 ≠ 0 then (s, .badField)
  else match blockOf (a - regBase) with
    | none => (s, .notPresent)
    | some (b, r) =>
      if (findReg (s.map b) r).isNone then (s, .notPresent)
      else if !pathMay path b then (s, .authFail)
      else s.blockWrite via b r (a - regBase) data

/-- A write at a local address by a path: what is dropped is recorded, and a reload of a halted unit counts (R449, R457). -/
def State.regWrite (s : State) (path : Path) (via : Via) (a : Nat) (data : W32) : State × Status :=
  let x := s.tryWrite path via a data
  let posted := match blockOf (a - regBase) with
    | some (b, r) => (slowOf b r).isSome
    | none => false
  (if x.2 = .done then (if posted then x.1 else x.1.reload (a - regBase)) else x.1.dropWrite path (a % 2 ^ 32) x.2, x.2)

/-! ### The rows of single registers -/

/-- LG_TXCFG_WRITE (R64). -/
def execLgTxcfgWrite (via : Path) (st g : Nat) (data : W32) (s : State) : Host.Outcome State Fault Refusal :=
  act (isTx st g) s fun s => State.wroteReg (s.txcfgWrite st g data) via (stReg st (4 * g))

/-- LG_CALCFG_FORCE (R140). -/
def execLgCalcfgForce (via : Path) (st : Nat) (data : W32) (s : State) : Host.Outcome State Fault Refusal :=
  act (decide (st < nSt)) s fun s => State.wroteReg (s.calcfgWrite st data) via (stReg st 0x900)

/-- BASE_CRALLOC_WRITE (R172). -/
def execBaseCrallocWrite (via : Path) (st w vc : Nat) (data : W32) (s : State) : Host.Outcome State Fault Refusal :=
  act (decide (st < nSt)) s fun s => State.wroteReg (s.crallocWrite st w vc data) via (stReg st (0xC00 + 4 * (8 * w + vc)))

/-- KD_SPLIT_WRITE (R209). -/
def execKdSplitWrite (n : Nat) (data : W32) (s : State) : Host.Outcome State Fault Refusal :=
  act (decide (n < 8)) s fun s =>
    State.wroteReg ((s.unpost (.kd n)).kdApply n fun k => k.withAddr (data.toNat % 16)) .unitLate (kdReg n 0)

/-- KD_REMAP_WRITE (R207, R209). -/
def execKdRemapWrite (n i : Nat) (data : W32) (s : State) : Host.Outcome State Fault Refusal :=
  act (decide (n < 8) && decide (i < 64)) s fun s =>
    State.wroteReg ((s.unpost (.kd n)).kdApply n fun k => k.withRemap i (bits data.toNat 10 8, bits data.toNat 5 0)) .unitLate
      (kdReg n (0x100 + 4 * i))

/-- PORT_CFG_WRITE (R413, R453). -/
def execPortCfgWrite (p : Nat) (data : W32) (s : State) : Host.Outcome State Fault Refusal :=
  act (decide (p < 16)) s fun s => State.wroteReg ((s.unpost (.port p)).portCfg p data) .unitLate (portCfgReg p)

/-- CORE_RNGSEED_WRITE (R322). -/
def execCoreRngseedWrite (via : Path) (core : Nat) (data : W32) (s : State) : Host.Outcome State Fault Refusal :=
  act (decide (core < 64)) s fun s => State.wroteReg (s.rngseed core data, .done) via (coreReg core 0x078)

/-- CMD_RINGCI_WRITE (R440). -/
def execCmdRingciWrite (via : Path) (r : Nat) (data : W32) (s : State) : Host.Outcome State Fault Refusal :=
  act (decide (r < 64)) s fun s =>
    if via = .coreStore then s.dropWrite via (0x00050300 + 4 * r) .authFail
    else State.wroteReg (s.ringci r data) via (0x00050300 + 4 * r)

/-- Offset of a register of the NOTICE_ block. -/
def noticeReg (off : Nat) : Nat := 0x00040000 + off

/-- A write in the NOTICE_ block by a path (R444, R445). -/
def State.noticePath (s : State) (via : Path) (r : Nat) (data : W32) : State :=
  if via = .coreStore then s.dropWrite via (noticeReg r) .authFail
  else State.wroteReg (s.noticeWrite r data) via (noticeReg r)

/-- NOTICE_EOI (R460, R464). -/
def execNoticeEoi (via : Path) (data : W32) (s : State) : Host.Outcome State Fault Refusal :=
  .next (s.noticePath via 0x200 data)

/-- NOTICE_MASK_SET (R463). -/
def execNoticeMaskSet (via : Path) (i : Nat) (data : W32) (s : State) : Host.Outcome State Fault Refusal :=
  act (decide (i < 16)) s fun s => s.noticePath via (0x100 + 4 * i) data

/-- NOTICE_MASK_CLR (R463). -/
def execNoticeMaskClr (via : Path) (i : Nat) (data : W32) (s : State) : Host.Outcome State Fault Refusal :=
  act (decide (i < 16)) s fun s => s.noticePath via (0x140 + 4 * i) data

/-- NOTICE_PEND_SET (R463). -/
def execNoticePendSet (via : Path) (i : Nat) (data : W32) (s : State) : Host.Outcome State Fault Refusal :=
  act (decide (i < 16)) s fun s => s.noticePath via (0x180 + 4 * i) data

/-- NOTICE_PEND_CLR (R463). -/
def execNoticePendClr (via : Path) (i : Nat) (data : W32) (s : State) : Host.Outcome State Fault Refusal :=
  act (decide (i < 16)) s fun s => s.noticePath via (0x1C0 + 4 * i) data

/-- TEST_EN_WRITE (R601). -/
def execTestEnWrite (via : Path) (data : W32) (s : State) : Host.Outcome State Fault Refusal :=
  .next (State.wroteReg (s.testEn data) via 0x00080000)

/-- POSTED_WRITE_APPLY (R453). -/
def execPostedWriteApply (u : SlowUnit) (s : State) : Host.Outcome State Fault Refusal :=
  act (s.unitBusy u) s fun s => s.applyPosted u

end Sys2Proof.Machine
end

