-- ==== Sys2Proof/Machine/Clocks.lean ====
section
/-! DEFINITION. Clocks, sleep, power and temperature (15), and the sampling of temperatures (R113). Powers are in mW and
temperatures in half degrees; throttle pauses and refresh rates act on time alone, which the model does not hold. -/

namespace Sys2Proof.Machine

open Sys2Proof

/-! ### Frequency (R494 to R497) -/

/-- A frequency within a region's range, on a step of 50 MHz (R495). -/
def Region.clamp (x : Region) (f : Nat) : Nat := max x.fmin (min x.fmax (f / 5 * 5))

/-- One choice of a region's controller: at most one step toward the best frequency its monitors allow (R496). -/
def Region.choose (x : Region) (best : Nat) : Nat :=
  let t := x.clamp best
  if x.freq < t then x.freq + 5 else if t < x.freq then x.freq - 5 else x.freq

/-- FREQUENCY_CHOICE: a change stops the region's clock (R496, R497). -/
def execFrequencyChoice (region best : Nat) (s : State) : Host.Outcome State Fault Refusal :=
  let x := s.region region
  act (decide (region < 32) && x.state == 0 && decide (x.fmin < x.fmax) && s.dieUp (region / 4)) s fun s =>
    if x.choose best = x.freq then s else s.stopRegion region (x.choose best)

/-- A region's clock runs again, at the frequency chosen (R497). -/
def Region.restart (x : Region) : Region :=
  { x with state := 0, freq := x.nextFreq, changes := if x.nextFreq = x.freq then x.changes else inc 16 x.changes }

/-- FREQUENCY_RESTART (R497). -/
def execFrequencyRestart (region : Nat) (s : State) : Host.Outcome State Fault Refusal :=
  let x := s.region region
  act (decide (region < 32) && x.state == 1 && !x.pllLost && s.dieUp (region / 4)) s fun s => s.modRegion region Region.restart

/-- CLK_FAULT: a PLL that loses lock stops its region; jitter over its limit of 12 ps is recorded (R494). -/
def execClkFault (region : Nat) (why : ClkCause) (s : State) : Host.Outcome State Fault Refusal :=
  let x := s.region region
  act (decide (region < 32) && x.state != 2 && s.dieUp (region / 4)) s fun s =>
    (match why with
      | .unlock => (s.stopRegion region (if x.state = 1 then x.nextFreq else x.freq)).modRegion region fun x => { x with pllLost := true }
      | .jitter => s.draw.modRegion region fun x => { x with jitterOver := true, jitter := 13 + s.freeVal % 243 }).sense ntClkFault s

/-- PLL_RELOCK: the region resumes (R494). -/
def execPllRelock (region : Nat) (s : State) : Host.Outcome State Fault Refusal :=
  act (decide (region < 32) && (s.region region).pllLost && s.dieUp (region / 4)) s fun s =>
    (s.modRegion region fun x => { x.restart with pllLost := false }).sense ntClkFault s

/-- JITTER_WITHIN_LIMIT (R494). -/
def execJitterWithinLimit (region : Nat) (s : State) : Host.Outcome State Fault Refusal :=
  act (decide (region < 32) && (s.region region).jitterOver) s fun s =>
    (s.draw.modRegion region fun x => { x with jitterOver := false, jitter := s.freeVal % 13 }).sense ntClkFault s

/-! ### Sleep and wake (R498 to R502) -/

/-- The Field Time copies of a die's regions are not valid (R333). -/
def State.dropCopies (s : State) (d : Nat) : State :=
  { s with time := { s.time with
      invalid := (List.range 4).foldl (fun l i => if l.contains (4 * d + i) then l else (4 * d + i) :: l) s.time.invalid } }

/-- A core has nothing to do: every context IDLE and every engine queue empty (R498). -/
def State.coreIdle (s : State) (c : Nat) : Bool :=
  ((List.range 16).all fun x => decide ((s.ctx c x).state = .idle))
    && ((List.range 7).all fun e => (s.eng c e).queue.isEmpty) && (s.core c).meshIn.isEmpty

/-- An armed sow entry or a WAITT of a die's cores is due within 25 us (R499). -/
def State.dueSoon (s : State) (d : Nat) : Bool :=
  (List.range 8).any fun i =>
    ((s.sowTab (sowKey .core (8 * d + i))).any fun e => decide (e.ft.toNat ≤ s.now.toNat + 20000))
      || (List.range 16).any fun x => let t := s.ctx (8 * d + i) x
        decide (t.state = .wait) && decide (t.why = .waitt) && decide (t.waitFt.toNat ≤ s.now.toNat + 20000)

/-- A transmit group holds nothing. -/
def TxGroup.idle (t : TxGroup) : Bool := t.queue.isEmpty && t.words.isEmpty && t.current.isNone && t.replay.isEmpty

/-- A unit may go to sleep now (R498). -/
def State.maySleep (s : State) : SleepUnit → Bool
  | .core c => decide (c < 64) && s.coreUp c && !(s.core c).asleep && s.coreIdle c && !s.bistHolds 0 c
  | .die d => decide (d < 8) && s.power.sleepDies && s.dieUp d && !(s.diePower d).asleep && !s.dueSoon d && !s.bistHolds 1 d
      && (List.range 8).all fun i => (s.core (8 * d + i)).asleep && !(s.core (8 * d + i)).waking
  | .group st g => isSownTx st g && s.power.sleepLg && decide ((s.txg st g).state = .active) && (s.txg st g).enable
      && (s.txg st g).idle
  | .port p => decide (p < 16) && s.power.sleepPorts.getLsbD p && decide ((s.port p).state = .up)
      && (s.ports.ctlq.all fun e => e.1 != p) && s.ports.sent.all fun f => f.port != p

/-- SLEEP_ENTER: a sleeping die stops its regions and keeps what it holds (R498, R502). -/
def execSleepEnter (u : SleepUnit) (s : State) : Host.Outcome State Fault Refusal :=
  act (s.maySleep u) s fun s => match u with
    | .core c => s.modCore c fun x => { x with asleep := true }
    | .die d =>
      each (List.range 4) (fun i s => s.modRegion (4 * d + i) fun x => { x with state := 2 })
        ((s.modDiePower d fun p => { p with asleep := true }).dropCopies d)
    | .group st g => s.setTxState st g .asleep
    | .port p => s.setPort p fun q => { q with state := .asleep }

/-- A unit sleeps and does not yet wake. -/
def State.sleeping (s : State) : SleepUnit → Bool
  | .core c => decide (c < 64) && (s.core c).asleep && !(s.core c).waking
  | .die d => decide (d < 8) && (s.diePower d).asleep && !(s.diePower d).waking
  | .group st g => isSownTx st g && decide ((s.txg st g).state = .asleep) && !(s.txg st g).waking
  | .port p => decide (p < 16) && decide ((s.port p).state = .asleep) && !(s.port p).waking

/-- A unit is told to wake. -/
def State.startWake (s : State) : SleepUnit → State
  | .core c => s.modCore c fun x => { x with waking := true }
  | .die d => s.modDiePower d fun p => { p with waking := true }
  | .group st g => s.modTx st g fun t => { t with waking := true }
  | .port p => s.modPort p fun q => { q with waking := true }

/-- WAKE: something that wakes the unit has come (R498 to R501). -/
def execWake (u : SleepUnit) (s : State) : Host.Outcome State Fault Refusal :=
  act (s.sleeping u) s fun s => s.startWake u

/-- A unit wakes; a core wakes once its die has. -/
def State.wakes (s : State) : SleepUnit → Bool
  | .core c => decide (c < 64) && (s.core c).asleep && (s.core c).waking && !(s.diePower (coreDie c)).asleep
  | .die d => decide (d < 8) && (s.diePower d).asleep && (s.diePower d).waking
  | .group st g => isSownTx st g && decide ((s.txg st g).state = .asleep) && (s.txg st g).waking
  | .port p => decide (p < 16) && decide ((s.port p).state = .asleep) && (s.port p).waking

/-- WAKE_COMPLETE: a die's region clocks run again, their Field Time copies valid from the next correction pulse (R333, R498, R500, R502). -/
def execWakeComplete (u : SleepUnit) (s : State) : Host.Outcome State Fault Refusal :=
  act (s.wakes u) s fun s => match u with
    | .core c => s.modCore c fun x => { x with asleep := false, waking := false }
    | .die d =>
      each (List.range 4) (fun i s => s.modRegion (4 * d + i) fun x => { x with state := 0 })
        (s.modDiePower d fun p => { p with asleep := false, waking := false })
    | .group st g =>
      let s1 := s.modTx st g fun t => { t with waking := false }
      if (s.txg st g).lanes < 4 then s1.leaveService st g else s1.setTxState st g .active
    | .port p => s.setPort p fun q => { q with state := .up, waking := false }

/-- SOW_AHEAD_WAKE: a die wakes 25 us ahead of the earliest instant due (R499). -/
def execSowAheadWake (die : Nat) (s : State) : Host.Outcome State Fault Refusal :=
  act (s.sleeping (.die die) && s.dueSoon die) s fun s => s.startWake (.die die)

/-! ### Power (R503 to R510) -/

/-- The dies limit themselves: MODE LOCAL, or the fallback to it (R507, R508). -/
def State.localMode (s : State) : Bool := s.power.mode == 1 || s.power.fallback

/-- A die's throttle sources change, and the fall bypasses the ramp governor, with no ballast after it (R128). -/
def State.cutDie (s : State) (d : Nat) (f : DiePower → DiePower) : State :=
  (s.modDiePower d fun p =>
    { f p with level := min p.level (f p).throttle, ballast := p.ballast && decide (p.level ≤ (f p).throttle) }).spreadLevel d

/-- Package power of one reading of the rails, in microwatts (R504, R609). -/
def railPower (ma mv : List Nat) : Nat := ((List.range 18).map fun i => ma.getD i 0 * mv.getD i 0).sum

/-- The cut of step 4: every die's throttle level is halved (R504). -/
def State.powerCut (s : State) : State :=
  let s1 := { s with power := { s.power with cuts := inc 16 s.power.cuts, cutAt := some s.now } }
  (each (List.range 8) (fun d s =>
    let half := (s.diePower d).throttle / 2
    s.cutDie d fun p => if s.localMode then { p with cap := half } else { p with manager := half }) s1).raise ntPwrExcur

/-- RAIL_READING: every rail is read; above 2,300 W the cut acts, at most once in 100 us (R504, R507). -/
def execRailReading (milliamps millivolts : List Nat) (s : State) : Host.Outcome State Fault Refusal :=
  act true s fun s =>
    let s1 := each (List.range 18) (fun i s =>
      (({ s with power := { s.power with
            railMa := tset s.power.railMa 0 i (milliamps.getD i 0)
            railMv := tset s.power.railMv 0 i (millivolts.getD i 0) } } : State).sampled 1 i).sampled 2 i) s
    let ready := match s.power.cutAt with
      | none => true
      | some t => decide (80000 ≤ (s.now - t).toNat)
    if decide (2300000000 < railPower milliamps millivolts) && ready then s1.powerCut else s1

/-- The highest level at which a die's estimated power is at most its share: a line through its power at level 0 and its power at the window's issue level; 0 when there is none (R504). -/
def shareLevel (share power idle issue : Nat) : Nat :=
  ((List.range 256).filter fun (l : Nat) =>
    decide ((idle : Int) * (issue : Int) + ((power : Int) - (idle : Int)) * (l : Int) ≤ (share : Int) * (issue : Int))).foldl max 0

/-- Share of each die in service, in mW: an equal part of what the limit leaves, and an equal part of what each other die left unused; at most 150 W (R504, R510). -/
def dieShare (limit others : Nat) (dies : List Nat) (power : Nat → Nat) (d : Nat) : Nat :=
  let base := (limit - others) / dies.length
  min 150000 (base + ((dies.filter (· != d)).map fun e => (base - power e) / (dies.length - 1)).sum)

/-- A level that a window gives a die: the line's, or open when the window's issue level is 0 (R504). -/
def State.windowLevel (s : State) (share power idle issue : Nat) : Nat × State :=
  if issue = 0 then (s.freeVal % 256, s.draw) else (shareLevel share power idle issue, s)

/-- One die at the end of a window, in GOVERNED mode (R504 steps 2 and 3). -/
def State.governDie (s : State) (d share power idle issue : Nat) : State :=
  if share < power then
    let x := s.windowLevel share power idle issue
    x.2.modDiePower d fun p => { p with manager := x.1, cap := 255 }
  else if power < share then s.modDiePower d fun p => { p with manager := min 255 (min p.manager p.cap + 16), cap := 255 }
  else s.modDiePower d fun p => { p with manager := min p.manager p.cap, cap := 255 }

/-- One die at the end of a window, in LOCAL mode (R507). -/
def State.localDie (s : State) (d power idle issue : Nat) : State :=
  let x := s.windowLevel (1000 * s.power.dieCap) power idle issue
  x.2.modDiePower d fun p => { p with manager := 255, cap := x.1 }

/-- POWER_WINDOW: the operands are the mean powers of the window, by die and for every other consumer, the power of each die at level 0, its mean issue level, and the mean over 10 ms (R503 to R510). -/
def execPowerWindow (others : Nat) (power idle issue : List Nat) (avg : Nat) (s : State) : Host.Outcome State Fault Refusal :=
  act true s fun s =>
    let win := others + ((List.range 8).map fun d => power.getD d 0).sum
    let limit := 1000 * s.power.limit
    let back := s.power.fallback && s.warden.serving && s.power.mode == 0
    let s1 := { s with power := { s.power with pkgWin := win, pkgAvg := avg, fallback := s.power.fallback && !back } }
    let dies := (List.range 8).filter s.dieUp
    let s2 := each dies (fun d s =>
      let w := power.getD d 0
      let s3 := if s.localMode then s.localDie d w (idle.getD d 0) (issue.getD d 0)
        else s.governDie d (dieShare limit others dies (fun e => power.getD e 0) d) w (idle.getD d 0) (issue.getD d 0)
      (s3.modDiePower d fun p => { p with power := w / 1000 }).spreadLevel d) s1
    if limit < win ∧ s.power.pkgWin ≤ limit then
      ({ s2 with power := { s2.power with excur := inc 16 s2.power.excur } } : State).raise ntPwrExcur
    else s2

/-- POWER_FALLBACK: the Warden no longer serves the power manager (R508). -/
def execPowerFallback (s : State) : Host.Outcome State Fault Refusal :=
  act (s.power.mode == 0 && !s.power.fallback) s fun s => { s with power := { s.power with fallback := true } }

/-! ### Temperature (R113, R511 to R517) -/

/-- A location that exists. -/
def thermOk : ThermLoc → Bool
  | .cd n => decide (n < 8)
  | .kd n => decide (n < 8)
  | .field k => decide (k < 4)
  | .hbm h => decide (h < 12)

/-- Thresholds of Warning, Throttle and Shutdown in half degrees; a stack has no Warning of its own (R511). -/
def thresholds : ThermLoc → Nat × Nat × Nat
  | .cd _ => (190, 206, 224)
  | .kd _ => (180, 196, 216)
  | .field _ => (170, 180, 200)
  | .hbm _ => (Config.hbmThrottle, Config.hbmThrottle, Config.hbmShutdown)

/-- The level that a temperature gives a location: one is entered at its threshold and left 5 °C below it (R511). -/
def thermLevel (loc : ThermLoc) (was t : Nat) : Nat :=
  let w := (thresholds loc).1
  let h := (thresholds loc).2.1
  if h ≤ t ∨ (2 ≤ was ∧ h < t + 10) then 2
  else if w ≤ t ∨ (1 ≤ was ∧ w < t + 10) then 1
  else 0

/-- The band that a temperature gives a field: up at a band's lower bound, down 2 °C below it (R516). -/
def bandOf (was t : Nat) : Nat :=
  ((List.range 4).filter fun b => let lo := 60 + 30 * b
    b == 0 || decide (lo ≤ t) || (decide (b ≤ was) && decide (lo < t + 4))).foldl max 0

/-- Links of a field: a reader or a writer lies on it. -/
def State.fieldLinks (s : State) (k : Nat) : List (Nat × Nat) :=
  (List.range nSt).flatMap fun st => ((List.range (numRx st)).filter fun rg =>
    (s.rxg st rg).valid && (stField st == k || stField (s.rxg st rg).wst == k)).map fun rg => (st, rg)

/-- Dies that a location's Throttle throttles (R512). -/
def throttledDies : ThermLoc → List Nat
  | .cd n => [n]
  | .field k => [2 * k, 2 * k + 1]
  | _ => []

/-- A die or its field is at Throttle (R512). -/
def State.dieHot (s : State) (d : Nat) : Bool :=
  decide (2 ≤ (s.therm (.cd d)).level) || decide (2 ≤ (s.therm (.field (d / 2))).level)

/-- A location has entered or left Throttle (R512). -/
def State.throttleChange (s : State) (loc : ThermLoc) (was now : Nat) : State :=
  if was < 2 ∧ 2 ≤ now then
    let s1 := each (throttledDies loc) (fun d s => s.cutDie d fun p => { p with thermal := min p.thermal 128 }) s
    match loc with
    | .kd n => s1.modKd n fun k => { k with rate := 2 }
    | _ => s1
  else if 2 ≤ was ∧ now < 2 then
    let s1 := each ((throttledDies loc).filter fun d => !s.dieHot d) (fun d s =>
      (s.modDiePower d fun p => { p with thermal := 255 }).spreadLevel d) s
    match loc with
    | .kd n => s1.modKd n fun k => { k with rate := 1 }
    | _ => s1
  else s

/-- How many slots a cache die's coil transfers take, its own Throttle and in LOCAL mode its compute die's level counted (R512). -/
def State.coilRate (s : State) (n : Nat) : Nat :=
  let l := (s.therm (.cd n)).level
  max (s.kd n).rate (if s.localMode then (if 2 ≤ l then 4 else if 1 ≤ l then 2 else 1) else 1)

/-- Rings of a station. -/
def stationRings (st : Nat) : List RingId :=
  (List.range (numTx st)).flatMap (txRings st) ++ (List.range (numRx st)).flatMap (rxRings st) ++ loopRings st

/-- A field changes band: its LOCKED rings go on from the heater code they have, with the new band's slope, and its links come due for calibration, one that runs again from its start (R132, R143, R517). -/
def State.bandChange (s : State) (k band : Nat) : State :=
  let s1 := each (fieldStations k) (fun st s => each (stationRings st) (fun r s => s.rebase r) s) s
  each (s.fieldLinks k) (fun l s => s.modRx l.1 l.2 fun r => { r with calBusy := false }.due 5 s.now)
    (s1.modTherm (.field k) fun x => { x with band := band })

/-- The readings of a location's sensors; a stack's own has no number among the Warden's (R113, R559). -/
def State.keepSensors (s : State) (loc : ThermLoc) (readings : List Nat) : State :=
  match loc with
  | .hbm _ => s
  | _ => each (List.range (sensorCount loc)) (fun i s =>
      ({ s with power := { s.power with
        sensors := tset s.power.sensors 0 (firstSensor loc + i) (min 255 (readings.getD i 0)) } } : State).sampled 0 (firstSensor loc + i)) s

/-- TEMPERATURE_SAMPLE: every sensor of a location is read; by the highest its level, throttle, notices, refresh rate and band follow (R113, R197, R511, R512, R516, R518). -/
def execTemperatureSample (loc : ThermLoc) (readings : List Nat) (s : State) : Host.Outcome State Fault Refusal :=
  act (thermOk loc) s fun s =>
    let t := min 255 ((readings.take (sensorCount loc)).foldl max 0)
    let was := s.therm loc
    let lvl := thermLevel loc was.level t
    let s1 := (s.keepSensors loc readings).modTherm loc fun x => { x with temp := t, level := lvl, peak := max x.peak t }
    let s2 := s1.throttleChange loc was.level lvl
    match loc with
    | .cd n => s2.sense (ntThermDie n) s
    | .kd n => s2.sense (ntThermDie n) s
    | .field k =>
      let s3 := s2.sense (ntThermField k) s
      if bandOf was.band t = was.band then s3 else s3.bandChange k (bandOf was.band t)
    | .hbm h => (s2.modHbm h fun x => { x with refmult := Config.hbmRefresh t % 3 }).sense (ntThermField (h / 3)) s

/-- THERMAL_THROTTLE_STEP: a further 1 ms at Throttle (R512). -/
def execThermalThrottleStep (loc : ThermLoc) (s : State) : Host.Outcome State Fault Refusal :=
  act (thermOk loc && decide (2 ≤ (s.therm loc).level)) s fun s => match loc with
    | .kd n => s.modKd n fun k => { k with rate := 4 }
    | .hbm _ => s
    | _ => each (throttledDies loc) (fun d s => s.cutDie d fun p => { p with thermal := max 16 (p.thermal - 32) }) s

/-- THERMTRIP_RELEASE: every always-on sensor has read below 85 °C for 1 s (R515). -/
def execThermtripRelease (s : State) : Host.Outcome State Fault Refusal :=
  act s.power.thermtrip s fun s =>
    ({ s with power := { s.power with thermtrip := false } } : State).emit (.thermtrip false)

end Sys2Proof.Machine
end

