-- ==== Sys2Proof/Machine/Hosts.lean ====
section
/-! DEFINITION. The host bridge (12, 13): rings, hoppers, copies and fills by an exchange station, the reception-map bolt,
completion records on their way and the delivery of notices. -/

namespace Sys2Proof.Machine

open Sys2Proof

/-! ### Commands held (R418, R423) -/

/-- Where a held command came from, by its header (R418). -/
def HeldCmd.origin (c : HeldCmd) : Origin :=
  { mbox := false, hopper := fieldB c.bytes 1 1 % 64, tag := BitVec.ofNat 16 (fieldB c.bytes 2 2)
    quiet := bit (fieldB c.bytes 6 1) 0, via := c.via }

/-- PROXY_TIMEOUT: the oldest proxy command not accepted completes TIMED_OUT (R423). -/
def execProxyTimeout (s : State) : Host.Outcome State Fault Refusal :=
  match s.bridge.proxies with
  | [] => .next s
  | (o, b) :: r => act true s fun s =>
    ({ s with bridge := { s.bridge with proxies := r } } : State).complete o (fieldB b 0 1) .timedOut []

/-! ### Rings and hoppers (R424, R425, R430) -/

/-- Something still names a ring: a bound hopper, a waiting record, a context, an armed sow entry (R425). -/
def State.ringNamed (s : State) (r : Nat) : Bool :=
  (s.bridge.hoppers.any fun h => h.2.bound && h.2.ring == r)
    || (s.bridge.waiting.any fun w => w.ring == r)
    || (s.cores.any fun c => c.2.ctxs.any fun x => decide (x.2.state ≠ .idle) && !x.2.noend && x.2.ring == r)
    || (s.sows.tables.any fun t => t.2.any fun e => e.ring == r || (e.kind == 1 && actionRing e.action == some r))

/-- The checks of RING_SET (R425). -/
def State.ringChecks (s : State) (ring log2 : Nat) (peer : Bool) (ep : Nat) (base : BitVec 44) : List (Bool × Status) :=
  [ (log2 != 0 && !(decide (6 ≤ log2) && decide (log2 ≤ 16)), .outOfRange),
    (log2 != 0 && !peer && reservedId ep, .badField),
    (log2 != 0 && base.toNat % (32 * 2 ^ log2) != 0, .badField),
    (s.ringNamed ring, .wrongState),
    (decide (64 ≤ ring), .outOfRange) ]

/-- RING_SET: the ring is enabled, or with LOG2 0 disabled; PI and CI are 0 (R425, R430, R440). -/
def execRingSet (o : Origin) (ring log2 : Nat) (peer : Bool) (ep : Nat) (base : BitVec 44) (s : State) :
    Host.Outcome State Fault Refusal :=
  .next (s.command o 0x01 (s.ringChecks ring log2 peer ep base) fun s =>
    (s.modCring ring fun _ =>
      if log2 = 0 then CmdRing.reset
      else { enable := true, peer := peer, log2 := log2, ep := ep, base := base, pi := 0, ci := 0 }, []))

/-- The checks of HOPPER_SET (R425). -/
def State.hopperChecks (s : State) (o : Origin) (h ring : Nat) (unbind : Bool) : List (Bool × Status) :=
  [ (!unbind && !(s.cring ring).enable, .wrongState),
    (!(s.hopper h).held.isEmpty || (match (s.hopper h).running with | some r => decide (r ≠ o) | none => false), .wrongState),
    (decide (64 ≤ h) || decide (64 ≤ ring), .outOfRange) ]

/-- HOPPER_SET: bind or unbind, and NEXT; a command that set its own hopper leaves NEXT there when it completes (R424). -/
def execHopperSet (o : Origin) (h ring : Nat) (unbind : Bool) (first : BitVec 16) (s : State) :
    Host.Outcome State Fault Refusal :=
  .next (s.command o 0x02 (s.hopperChecks o h ring unbind) fun s =>
    (s.modHopper h fun x =>
      { x with bound := !unbind, ring := if unbind then x.ring else ring, next := first, cleared := x.running.isSome }, []))

/-- HOPPER_CLEAR: commands not started are removed with WRONG_STATE records, and NEXT is set; the running one completes (R424, R441). -/
def execHopperClear (o : Origin) (h : Nat) (first : BitVec 16) (s : State) : Host.Outcome State Fault Refusal :=
  .next (s.command o 0x03 [(decide (64 ≤ h), .outOfRange)] fun s =>
    let gone := (s.hopper h).held
    let s1 := s.modHopper h fun x => { x with held := [], next := first, cleared := x.running.isSome }
    (each gone (fun c s => s.sendRecord (s.cmdRecord c.origin (fieldB c.bytes 0 1) .wrongState [])) s1,
      leBytes 2 gone.length))

/-- CAP_READ (R425, R437). -/
def execCapRead (o : Origin) (part : Nat) (s : State) : Host.Outcome State Fault Refusal :=
  .next (s.command o 0x04 [(decide (14 < part), .outOfRange)] fun s => (s, leBytes 15 (s.capPart part)))

/-- REGRD (R425, R446). -/
def execRegrd (o : Origin) (addr : Nat) (s : State) : Host.Outcome State Fault Refusal :=
  let r := s.regRead addr
  .next (s.command o 0x05 [(decide (r.1 ≠ .done), r.1)] fun _ => (r.2.2, leBytes 4 r.2.1.toNat))

/-! ### MEM_COPY and MEM_FILL (R425, R427, R616) -/

/-- The exchange station that performs a copy or a fill (R616). -/
def State.jobStation (s : State) (o : Origin) : Nat :=
  let a := if o.mbox then 12 else 12 + o.hopper % 2
  if s.stUp a then a else 25 - a

/-- A range touches register space (R425, R444). -/
def touchesRegs (a len : Nat) : Bool := decide (a % 2 ^ 44 < regBase + 2 ^ 32) && decide (regBase < a % 2 ^ 44 + len)

/-- Steps 5 and 6 of R422 for the exchange station of a copy or a fill. -/
def State.jobChecks (s : State) (o : Origin) : List (Bool × Status) :=
  [ (!s.stUp (s.jobStation o), .wrongState), ((s.sta (s.jobStation o)).halted, .parity) ]

/-- A job that has issued nothing. -/
def State.newJob (s : State) (o : Origin) (opcode : Nat) (kind : JobKind) (len : Nat) : Job :=
  { no := s.rem.nextId, o := o, opcode := opcode, xs := s.jobStation o, kind := kind, src := 0, dst := 0, pattern := 0
    len := len, data := [], res := [], done := 0, ops := [], worst := .done }

/-- The exchange station begins a job (R427). -/
def State.startJob (s : State) (j : Job) : State :=
  State.advanceJob j.no (j.len + 2) { s with rem := { s.rem with nextId := j.no + 1, jobs := s.rem.jobs ++ [j] } }

/-- MEM_COPY (R427). -/
def execMemCopy (o : Origin) (src dst : W64) (len : Nat) (s : State) : Host.Outcome State Fault Refusal :=
  .next (s.commandLong o 0x20
    ([ (len == 0, .badField),
       (!s.isSelf (src.toNat / 2 ^ 44) && !s.isSelf (dst.toNat / 2 ^ 44), .badField),
       (touchesRegs src.toNat len || touchesRegs dst.toNat len, .badField) ] ++ s.jobChecks o)
    fun s => s.startJob { s.newJob o 0x20 .copy len with src := src.toNat, dst := dst.toNat })

/-- MEM_FILL (R427). -/
def execMemFill (o : Origin) (addr : Nat) (pattern : W64) (len : Nat) (s : State) : Host.Outcome State Fault Refusal :=
  .next (s.commandLong o 0x21
    ([ (len == 0, .badField), (addr % 8 != 0 || len % 8 != 0, .badField), (touchesRegs addr len, .badField) ] ++ s.jobChecks o)
    fun s => s.startJob { s.newJob o 0x21 .fill len with src := addr, dst := addr, pattern := pattern })

/-! ### RMAP_BOLT (R425, R451, R618) -/

/-- Stations that an RMAP_BOLT for all bolts: in service and not yet bolted (R618). -/
def State.boltable (s : State) : List Nat := (List.range nSt).filter fun st => s.stUp st && !(s.sta st).rmapBolt

/-- RMAP_BOLT. -/
def execRmapBolt (o : Origin) (st : Nat) (s : State) : Host.Outcome State Fault Refusal :=
  let l := if st = 15 then s.boltable else [st]
  .next (s.command o 0x81
    [ (st == 14 || decide (16 ≤ st), .outOfRange),
      (st == 15 && l.isEmpty, .bolted),
      (st != 15 && (s.sta st).rmapBolt, .bolted),
      (st != 15 && !s.stUp st, .wrongState),
      (l.any fun x => (s.sta x).halted, .parity) ]
    fun s => (each l (fun x s => s.modSta x fun y => { y with rmapBolt := true }) s,
      leBytes 2 (maskOf 16 fun x => l.contains x)))

/-! ### COMPLETION (R429 to R431) -/

/-- A packet of the host bridge sets out for the reader of a ring: its endpoint, or the P0 peer; the status says whether it could. -/
def State.toRing (s : State) (c : CmdRing) (op laddr : Nat) (payload : List Byte) : Status × State :=
  let p := withHdr (s.ctlPacket (if c.peer then 0 else c.ep) op payload) fun h => { h with laddr := laddr }
  if c.peer then
    if s.portServes 0 && (s.port 0).p2p then (.done, s.toPort bridgeStop 0 0 p none) else (.pathLost, s)
  else s.depart bridgeStop p none

/-- COMPLETION: a waiting record of a ring that has room leaves, the oldest first; without a path it goes on waiting (R430). -/
def execCompletion (ring : Nat) (s : State) : Host.Outcome State Fault Refusal :=
  match s.bridge.waiting.find? fun r => r.ring == ring with
  | none => .next s
  | some r => act ((s.cring ring).enable && s.ringRoom ring) s fun s =>
    let c := s.cring ring
    let phase := c.pi / 2 ^ c.log2 % 2 == 0
    let x := s.toRing c 0x81 (c.base.toNat + 32 * (c.pi % 2 ^ c.log2)) (r.bytes phase)
    if x.1 ≠ .done then s
    else
      (({ x.2 with bridge := { x.2.bridge with waiting := x.2.bridge.waiting.erase r } } : State).modCring ring fun c =>
        { c with pi := (c.pi + 1) % 2 ^ 17 }).sense ntRingFull s

/-! ### Delivery of notices (R417, R460, R461, R465) -/

/-- The NOTICE packet of a source sets out for ring 0's endpoint or peer. -/
def State.sendNotice (s : State) (src : Nat) (ft : W64) : Status × State :=
  s.toRing (s.cring 0) 0x82 0 (leBytes 2 src ++ List.replicate 6 0 ++ leBytes 8 ft.toNat)

/-- A source that can be delivered: PEND 1, MASK 0, ACTIVE 0 (R460). -/
def State.deliverable (s : State) (src : Nat) : Bool :=
  isSource src && s.ntPend src && !s.ntActive src && !s.notices.mask.getLsbD src

/-- A source is delivered: ACTIVE becomes 1 and PEND 0 (R460). -/
def State.delivered (s : State) (src : Nat) (ft : W64) : State :=
  { s with notices := { s.notices with
      pend := setBit512 s.notices.pend src false
      active := setBit512 s.notices.active src true
      sent := inc 16 s.notices.sent
      activeFt := tset s.notices.activeFt 0 src ft } }

/-- The lowest source that can be delivered (R461). -/
def State.firstNotice (s : State) : Option Nat := (List.range 512).find? fun i => s.deliverable i

/-- NOTICE: the lowest deliverable source, while ring 0 is enabled (R461). -/
def execNotice (s : State) : Host.Outcome State Fault Refusal :=
  match s.firstNotice with
  | none => .next s
  | some src => act (s.cring 0).enable s fun s =>
    let ft := if s.notices.pend.getLsbD src then tget s.notices.pendFt 0 src else s.now
    let x := s.sendNotice src ft
    if x.1 ≠ .done then s else x.2.delivered src ft

/-- NOTICE_REDELIVER: the NOTICE packet of a source that stays ACTIVE is sent again (R465). -/
def execNoticeRedeliver (src : Nat) (s : State) : Host.Outcome State Fault Refusal :=
  act (decide (src < 512) && s.ntActive src && s.notices.redeliver != 0 && (s.cring 0).enable) s fun s =>
    let x := s.sendNotice src (tget s.notices.activeFt 0 src)
    if x.1 ≠ .done then s
    else { x.2 with notices := { x.2.notices with resent := inc 16 x.2.notices.resent, sent := inc 16 x.2.notices.sent } }

end Sys2Proof.Machine
end

