-- ==== Sys2Proof/Machine/Matrix.lean ====
section
/-! DEFINITION. Engines begin and complete descriptors, and the matrix engine (R279 to R281, R285 to R288, R297, R310 to R313,
R322 to R325, R620). -/

namespace Sys2Proof.Machine

open Sys2Proof

/-! ### An engine begins a descriptor (R279, R281, R288, R325) -/

/-- The next descriptor of an engine to begin, with its place: the first not begun, its tokens ready, and none before it
unless it is a LOADW, which begins once the one before has begun (R279, R281, R288). -/
def State.startable (s : State) (c e op : Nat) : Option (Nat × QDesc) :=
  match (s.eng c e).queue.findIdx? fun q => !q.begun with
  | none => none
  | some i => match (s.eng c e).queue[i]? with
    | none => none
    | some q =>
      if dOp q.d == op && (i == 0 || op == 0x20) && s.tokensReady c (dTokens q.d) then some (i, q) else none

/-- An engine takes up what was written to its random source before this descriptor (R322, R325). -/
def Engine.takeSeed (g : Engine) (fromSeed : Bool) : Engine :=
  match g.seedNext with
  | some v => { g with srcSeed := fromSeed, seed := v, seedPos := 0, seedNext := none }
  | none => { g with srcSeed := fromSeed }

/-- Change a descriptor of a queue. -/
def Engine.modQ (g : Engine) (i : Nat) (f : QDesc → QDesc) : Engine := { g with queue := g.queue.modify i f }

/-- A descriptor begins: its tokens are taken (R279, R325). -/
def State.beginAt (s : State) (c e i : Nat) (q : QDesc) : State :=
  (s.takeTokens c (dTokens q.d)).modEng c e fun g =>
    (g.takeSeed ((s.core c).seedSrc.getLsbD e)).modQ i fun q => { q with begun := true }

/-- Every result of a descriptor is written (R280). -/
def State.setResult (s : State) (c e i : Nat) (st : Status) : State :=
  s.modEng c e fun g => g.modQ i fun q => { q with result := some st }

/-- An engine that runs: its core is not held in reset and its die is not gated. -/
def State.engRuns (s : State) (c e lo hi : Nat) : Bool := decide (c < 64) && decide (lo ≤ e) && decide (e ≤ hi) && s.coreUp c

/-- An engine begins its next descriptor, when it is of the opcode given, and does all its work (R281). -/
def State.runHead (s : State) (ok : Bool) (c e op : Nat) (run : QDesc → State → State × Status) :
    Host.Outcome State Fault Refusal :=
  match s.startable c e op with
  | none => .next s
  | some (i, q) => act ok s fun s =>
    let r := run q (s.beginAt c e i q)
    r.1.setResult c e i r.2

/-! ### Draws and counts (R322, R324) -/

/-- Draw number i of an engine's random source from now on (R322). -/
def State.drawAt (s : State) (c e i : Nat) : Nat :=
  (if (s.eng c e).srcSeed then Config.rng (s.eng c e).seed.toNat ((s.eng c e).seedPos + i) else Config.free (s.drawn + i)) % 65536

/-- An engine's draws have been made. -/
def State.drewFrom (s : State) (c e n : Nat) : State :=
  if (s.eng c e).srcSeed then s.modEng c e fun g => { g with seedPos := g.seedPos + n } else { s with drawn := s.drawn + n }

/-- A descriptor is counted (R297, R324): poisoned inputs, saturation, NaN by overflow, NaN made, integer saturation. -/
def State.countDesc (s : State) (c : Nat) (poisoned : Bool) (n : Count) (iovf : Bool) : State :=
  let s1 := s.modCore c fun u => { u with
    engPois := if poisoned then inc 16 u.engPois else u.engPois
    nsSat := if n.sat then inc 8 u.nsSat else u.nsSat
    nsOvfNan := if n.ovfNan then inc 8 u.nsOvfNan else u.nsOvfNan
    nsInvalid := if n.invalid then inc 8 u.nsInvalid else u.nsInvalid
    nsIovf := if iovf then inc 8 u.nsIovf else u.nsIovf }
  s1.when poisoned fun s => s.raise (ntEngPoison (coreDie c))

/-- A word whose value is not defined (R297). -/
def freeWord (from' i : Nat) : W32 := BitVec.ofNat 32 (Config.free (from' + i))

/-- Bytes whose values are not defined (R297). -/
def freeBytes (from' n : Nat) : List Byte := (List.range n).map fun i => BitVec.ofNat 8 (Config.free (from' + i))

/-- Results go to a scratchpad; from poisoned inputs they are poison, their values not defined (R297). -/
def State.engWrite (s : State) (c off : Nat) (l : List Byte) (poisoned : Bool) : State :=
  if poisoned then ({ s with drawn := s.drawn + l.length } : State).spWrite c off (freeBytes s.drawn l.length) true
  else s.spWrite c off l false

/-! ### Operands in the scratchpad -/

/-- Offset in the own scratchpad of an operand. -/
def QDesc.off (q : QDesc) (c i : Nat) : Nat := q.addr i - spOf c

/-- Codes of the elements of a row in a scratchpad. -/
def State.codes (s : State) (c off fmt n : Nat) : List Nat :=
  let l := s.spRead c off (fmtBytes fmt n)
  (List.range n).map fun i => elemAt (fmtBits fmt) l i

/-- Values of elements under their block scales: scale of block i of 32 elements (R305, R308). -/
def scaledVals (fmt : Nat) (codes scales : List Nat) : List FVal :=
  codes.zipIdx.map fun x =>
    if isMx fmt then (elemNum fmt x.1).scaled (scales.getD (x.2 / 32) 0) else elemNum fmt x.1

/-! ### LOADW (R285) -/

/-- Rows that LOADW reads: offset and elements of each. -/
def loadwRows (q : QDesc) (c : Nat) : List (Nat × Nat) :=
  let rows := dB q.d 16 2
  let cols := dB q.d 18 2
  let trans := bit (d6 q.d) 4
  (List.range (if trans then cols else rows)).map fun i => (q.off c 8 + i * dB q.d 12 4, if trans then rows else cols)

/-- The tile that LOADW makes: cells outside ROWS and COLS hold 0 (R285). -/
def State.loadTile (s : State) (c : Nat) (q : QDesc) : Tile :=
  let f := d6 q.d % 16
  let trans := bit (d6 q.d) 4
  let got := (loadwRows q c).map fun r => s.codes c r.1 f r.2
  let cell (k j : Nat) : Nat := if trans then (got.getD j []).getD k 0 else (got.getD k []).getD j 0
  let nsc := if isMx f then fmtK f / 32 else 0
  { fmt := some f
    cols := (List.range 64).map fun j => (List.range (fmtK f)).map fun k => cell k j
    scales := (List.range nsc).map fun b => (List.range 64).map fun j => leNat (s.spRead c (q.off c 20 + 64 * b + j) 1)
    poison := ((loadwRows q c).any fun r => s.spPoison c r.1 (fmtBytes f r.2)) || (nsc != 0 && s.spPoison c (q.off c 20) (64 * nsc)) }

/-- LOADW fills the shadow tile (R285, R288). -/
def runLoadw (c e : Nat) (q : QDesc) (s : State) : State × Status :=
  let t := s.loadTile c q
  ((s.modEng c e fun g => { g with shadow := some t }).countDesc c t.poison .zero false, .done)

/-- LOADW (R285). -/
def execLoadw (core eng : Nat) (s : State) : Host.Outcome State Fault Refusal :=
  s.runHead (s.engRuns core eng 0 3) core eng 0x20 (runLoadw core eng)

/-! ### MATMUL (R285, R310 to R313) -/

/-- With SWAP the shadow tile becomes active, or a tile of zeros when it is not valid (R285). -/
def Engine.swap (g : Engine) : Engine :=
  { g with active := g.shadow.getD { fmt := none, cols := [], scales := [], poison := false }, shadow := none }

/-- A row's kind agrees with the kind of a format (R311). -/
def AccKind.agrees (k : AccKind) (int : Bool) : Bool :=
  match k with
  | .either => true
  | .floating => !int
  | .integer => int

/-- Kind of a format's accumulators (R311). -/
def kindOfFmt (int : Bool) : AccKind := if int then .integer else .floating

/-- Row r of an engine's accumulators. -/
def Engine.accRow (g : Engine) (r : Nat) : AccRow := tget g.acc AccRow.reset r

/-- A tile and a format may be multiplied (R285). -/
def Tile.fits (t : Tile) (fmt : Nat) : Bool :=
  match t.fmt with
  | none => true
  | some w => fmtK w == fmtK fmt && isIntFmt w == isIntFmt fmt

/-- Column j of a tile as values, its block scales applied (R308); a tile of zeros gives one zero (R285). -/
def Tile.column (t : Tile) (j : Nat) : List FVal :=
  match t.fmt with
  | none => []
  | some w => scaledVals w (t.cols.getD j []) (t.scales.map fun r => r.getD j 0)

/-- Products of a row of A and a column (R310). -/
def products (a w : List FVal) : List FVal := if w.isEmpty then [.fin false 0 0] else (a.zip w).map fun x => mulExact x.1 x.2

/-- One element of a floating MATMUL: previous value unless ZERO, and the sum rounded once; whether it made a NaN (R310). -/
def matF (zero : Bool) (prev : FVal) (a w : List FVal) : FVal × Bool :=
  let terms := (if zero then [] else [prev]) ++ products a w
  let v := rne32 (sumExact terms)
  (v, decide (v = .nan) && !((!zero && prev = .nan) || a.contains .nan || w.contains .nan))

/-- One element in the compensated mode: the sum and its new error term (R313). -/
def matC (zero : Bool) (prev err : FVal) (a w : List FVal) : FVal × FVal :=
  let sum := sumExact ((if zero then [] else [prev]) ++ products a w)
  let v := rne32 sum
  (v, rne32 (sumExact ((if zero then [] else [err]) ++ [sumExact [sum, v.negate]])))

/-- An integer value. -/
def FVal.toInt : FVal → Int
  | .fin n m e => (if n then -1 else 1) * ((m : Int) * 2 ^ e.toNat)
  | _ => 0

/-- One element of an integer MATMUL, saturated, and whether it was (R312). -/
def matI (zero : Bool) (prev : W32) (a w : List FVal) : W32 × Bool :=
  let sum := (if zero then 0 else prev.toInt) + ((products a w).map FVal.toInt).sum
  (BitVec.ofInt 32 (satInt 32 sum), satInt 32 sum != sum)

/-- One row of a MATMUL: the new accumulator row and error row, and what it counts (R310, R312, R313). -/
def matRow (t : Tile) (fmt : Nat) (zero comp : Bool) (old err : AccRow) (a : List FVal) :
    AccRow × AccRow × Count × Bool :=
  let cols := (List.range 64).map t.column
  let int := isIntFmt fmt
  if int then
    let l := (old.vals.zip cols).map fun x => matI zero x.1 a x.2
    ({ kind := .integer, vals := l.map (·.1), poison := false }, err, .zero, l.any (·.2))
  else if comp then
    let l := ((old.vals.zip err.vals).zip cols).map fun x => matC zero (wordNum x.1.1) (wordNum x.1.2) a x.2
    let bad := ((old.vals.zip cols).map fun x => matF zero (wordNum x.1) a x.2).any (·.2)
    ({ kind := .floating, vals := l.map fun v => f32Word v.1, poison := false },
      { kind := .floating, vals := l.map fun v => f32Word v.2, poison := false }, { Count.zero with invalid := bad }, false)
  else
    let l := (old.vals.zip cols).map fun x => matF zero (wordNum x.1) a x.2
    ({ kind := .floating, vals := l.map fun v => f32Word v.1, poison := false }, err,
      { Count.zero with invalid := l.any (·.2) }, false)

/-- A row whose values are not defined (R297). -/
def poisonRow (kind : AccKind) (from' : Nat) : AccRow :=
  { kind := kind, vals := (List.range 64).map (freeWord from'), poison := true }

/-- Accumulator rows are written. -/
def Engine.setAcc (g : Engine) (r : Nat) (a : AccRow) : Engine := { g with acc := tset g.acc AccRow.reset r a }

/-- Row i of a MATMUL, after the rows before it and what they counted. -/
def State.matmulRow (c e : Nat) (q : QDesc) (y : State × Count × Bool) (i : Nat) : State × Count × Bool :=
  let s := y.1
  let fmt := d6 q.d % 16
  let zero := bit (d6 q.d) 5
  let comp := bit (d6 q.d) 6
  let g := s.eng c e
  let r := dB q.d 18 2 + i * d7 q.d
  let off := q.off c 8 + i * dB q.d 12 4
  let nsc := if isMx fmt then fmtK fmt / 32 else 0
  let soff := q.off c 20 + i * nsc
  let bad := s.spPoison c off (fmtBytes fmt (fmtK fmt)) || (nsc != 0 && s.spPoison c soff nsc)
  let old := g.accRow r
  let err := g.accRow (r + 256)
  if bad || g.active.poison || (!zero && (old.poison || (comp && err.poison))) then
    let kind := kindOfFmt (isIntFmt fmt)
    (({ s with drawn := s.drawn + 128 } : State).modEng c e fun g =>
      let g1 := g.setAcc r (poisonRow kind s.drawn)
      if comp then g1.setAcc (r + 256) (poisonRow kind (s.drawn + 64)) else g1, y.2)
  else
    let a := scaledVals fmt (s.codes c off fmt (fmtK fmt)) ((s.spRead c soff nsc).map BitVec.toNat)
    let x := matRow g.active fmt zero comp old err a
    (s.modEng c e fun g =>
      let g1 := g.setAcc r x.1
      if comp then g1.setAcc (r + 256) x.2.1 else g1, y.2.1.or x.2.2.1, y.2.2 || x.2.2.2)

/-- The rows of a MATMUL in turn. -/
def State.matmulRows (s : State) (c e : Nat) (q : QDesc) : State × Count × Bool :=
  (List.range (dB q.d 16 2)).foldl (State.matmulRow c e q) (s, .zero, false)

/-- A MATMUL reads a poisoned scratchpad row. -/
def State.matmulPoison (s : State) (c : Nat) (q : QDesc) : Bool :=
  let fmt := d6 q.d % 16
  let nsc := if isMx fmt then fmtK fmt / 32 else 0
  (List.range (dB q.d 16 2)).any fun i =>
    s.spPoison c (q.off c 8 + i * dB q.d 12 4) (fmtBytes fmt (fmtK fmt))
      || (nsc != 0 && s.spPoison c (q.off c 20 + i * nsc) nsc)

/-- Rows that a MATMUL would add into hold another kind (R311). -/
def Engine.kindConflict (g : Engine) (q : QDesc) : Bool :=
  let int := isIntFmt (d6 q.d % 16)
  !bit (d6 q.d) 5 && (List.range (dB q.d 16 2)).any fun i =>
    let r := dB q.d 18 2 + i * d7 q.d
    !(g.accRow r).kind.agrees int || (bit (d6 q.d) 6 && !(g.accRow (r + 256)).kind.agrees int)

/-- A matrix engine finds a conflict: nothing is written, and the descriptor is recorded without a fault (R620). -/
def State.conflict (s : State) (c e : Nat) (q : QDesc) : State × Status :=
  (s.seqRecord c q.ctx 2 (e + 1) (dOp q.d) .badField, .badField)

/-- MATMUL after an optional swap (R285, R310 to R313, R620). -/
def runMatmul (c e : Nat) (q : QDesc) (s : State) : State × Status :=
  let s1 := if bit (d6 q.d) 4 then s.modEng c e Engine.swap else s
  let g := s1.eng c e
  if !g.active.fits (d6 q.d % 16) || g.kindConflict q then s1.conflict c e q
  else
    let x := s1.matmulRows c e q
    (x.1.countDesc c (s1.matmulPoison c q) x.2.1 x.2.2, .done)

/-- MATMUL (R285). -/
def execMatmul (core eng : Nat) (s : State) : Host.Outcome State Fault Refusal :=
  s.runHead (s.engRuns core eng 0 3) core eng 0x21 (runMatmul core eng)

/-! ### EPI (R286, R311 to R313) -/

/-- Kind of the rows of an EPI: none when they do not all hold one kind (R311). -/
def Engine.epiKind (g : Engine) (r0 n : Nat) : Option AccKind :=
  let l := (List.range n).map fun i => (g.accRow (r0 + i)).kind
  if l.contains .floating then (if l.contains .integer then none else some .floating)
  else if l.contains .integer then some .integer else some .either

/-- The value of an accumulator word (R312). -/
def accVal (kind : AccKind) (w : W32) : FVal := if kind = .integer then rne32 (.ofInt w.toInt) else wordNum w

/-- One step of the epilogue when its flag is set; whether it made a NaN (R286). -/
def epiStep (on : Bool) (f : FVal → FVal → FVal) (x : FVal × Bool) (y : FVal) : FVal × Bool :=
  if on then (f x.1 y, x.2 || (decide (f x.1 y = .nan) && x.1 ≠ .nan && y ≠ .nan)) else x

/-- The FP32 at offset i of a scratchpad. -/
def State.spF32 (s : State) (c off : Nat) : FVal := wordNum (BitVec.ofNat 32 (leNat (s.spRead c off 4)))

/-- The values of output row r before conversion, and whether one became NaN (R286). -/
def State.epiVals (s : State) (c e : Nat) (q : QDesc) (r : Nat) : List (FVal × Bool) :=
  let g := s.eng c e
  let a := g.accRow (dB q.d 8 2 + r)
  let b := g.accRow (dB q.d 8 2 + r + 256)
  let flag := d7 q.d
  (List.range 64).map fun j =>
    let x := (accVal a.kind (a.vals.getD j 0), false)
    let x := epiStep (bit (d6 q.d) 7) addF x (accVal b.kind (b.vals.getD j 0))
    let x := epiStep (bit flag 1) mulF x (s.spF32 c (q.off c 20 + 4 * r))
    let x := epiStep (bit flag 2) mulF x (s.spF32 c (q.off c 24 + 4 * j))
    epiStep (bit flag 3) addF x (s.spF32 c (q.off c 28 + 4 * j))

/-- Bytes of an output row and what its conversion counts (R286, R309, R318 to R321). -/
def outRow (fmt rnd : Nat) (ovf fromInt : Bool) (draw : Nat → Nat) (l : List FVal) : List Byte × Count :=
  if isMx fmt then mxRow fmt rnd draw l
  else
    let x := l.zipIdx.map fun v => convOut fmt rnd ovf fromInt (draw v.2) v.1
    (packElems (fmtBits fmt) (x.map (·.1)), x.foldl (fun n v => n.or v.2) .zero)

/-- Draws that a conversion takes. -/
def State.drewIf (s : State) (c e rnd n : Nat) : State := if rnd == 2 then s.drewFrom c e n else s

/-- The engine reads a poisoned row of scales or bias, or a poisoned accumulator row (R297). -/
def State.epiSpPoison (s : State) (c : Nat) (q : QDesc) : Bool :=
  (bit (d7 q.d) 1 && s.spPoison c (q.off c 20) (4 * dB q.d 10 2)) || (bit (d7 q.d) 2 && s.spPoison c (q.off c 24) 256)
    || (bit (d7 q.d) 3 && s.spPoison c (q.off c 28) 256)
def Engine.epiAccPoison (g : Engine) (q : QDesc) : Bool :=
  (List.range (dB q.d 10 2)).any fun i => (g.accRow (dB q.d 8 2 + i)).poison
    || (bit (d6 q.d) 7 && (g.accRow (dB q.d 8 2 + i + 256)).poison)

/-- Row r of an EPI is written; INT32 words go unchanged (R286, R312). -/
def State.epiRowOut (s : State) (c e : Nat) (q : QDesc) (poisoned : Bool) (n : Count) (r : Nat) : State × Count :=
  let fmt := d6 q.d % 16
  let rnd := bits (d6 q.d) 5 4
  let off := q.off c 12 + r * dB q.d 16 4
  if poisoned then (s.engWrite c off (List.replicate (epiRow fmt) 0) true, n)
  else if fmt == 0xC then
    (s.engWrite c off (((s.eng c e).accRow (dB q.d 8 2 + r)).vals.flatMap fun w => leBytes 4 w.toNat) false, n)
  else
    let v := s.epiVals c e q r
    let x := outRow fmt rnd (bit (d7 q.d) 0) false (s.drawAt c e) (v.map (·.1))
    ((s.drewIf c e rnd 64).engWrite c off x.1 false, (n.or x.2).or { Count.zero with invalid := v.any (·.2) })

/-- CLEAR sets the rows to 0, and with COMP their error rows (R285, R313). -/
def Engine.clearRows (g : Engine) (q : QDesc) : Engine :=
  (List.range (dB q.d 10 2)).foldl (fun g i =>
    let g1 := g.setAcc (dB q.d 8 2 + i) AccRow.reset
    if bit (d6 q.d) 7 then g1.setAcc (dB q.d 8 2 + i + 256) AccRow.reset else g1) g

/-- EPI (R285, R286, R311, R620). -/
def runEpi (c e : Nat) (q : QDesc) (s : State) : State × Status :=
  let g := s.eng c e
  match g.epiKind (dB q.d 8 2) (dB q.d 10 2) with
  | none => s.conflict c e q
  | some k =>
    if d6 q.d % 16 == 0xC && decide (k = .floating) then s.conflict c e q
    else
      let sp := s.epiSpPoison c q
      let x := (List.range (dB q.d 10 2)).foldl (fun (y : State × Count) r =>
        y.1.epiRowOut c e q (sp || g.epiAccPoison q) y.2 r) (s, Count.zero)
      let s1 := if bit (d6 q.d) 6 then x.1.modEng c e fun g => g.clearRows q else x.1
      (s1.countDesc c sp x.2 false, .done)

/-- EPI (R285). -/
def execEpi (core eng : Nat) (s : State) : Host.Outcome State Fault Refusal :=
  s.runHead (s.engRuns core eng 0 3) core eng 0x22 (runEpi core eng)

end Sys2Proof.Machine
end

