-- ==== Sys2Proof/Machine/Vector.lean ====
section
/-! DEFINITION. The vector engine (R289 to R292, R297, R307, R315 to R321). -/

namespace Sys2Proof.Machine

open Sys2Proof

/-! ### Operands (R289, R306, R307) -/

def QDesc.n (q : QDesc) : Nat := dB q.d 20 4
def QDesc.r (q : QDesc) : Nat := dB q.d 24 2
def QDesc.ifmt (q : QDesc) : Nat := d6 q.d / 16
def QDesc.ofmt (q : QDesc) : Nat := d6 q.d % 16
def QDesc.rnd (q : QDesc) : Nat := bits (d7 q.d) 1 0
def QDesc.scal (q : QDesc) : Bool := bit (d7 q.d) 2
def QDesc.mode (q : QDesc) : Nat := d7 q.d / 16

/-- The FP32 value that an operand's bytes hold. -/
def QDesc.f32 (q : QDesc) (i : Nat) : FVal := wordNum (BitVec.ofNat 32 (dB q.d i 4))

/-- Values of row r of a vector operand of n elements; Microscaling rows carry their scales after their elements (R306, R307). -/
def State.vecVals (s : State) (c off fmt n r : Nat) : List FVal :=
  if isMx fmt then
    let a := off + r * vecRow fmt n
    scaledVals fmt (s.codes c a fmt n) ((s.spRead c (a + fmtBytes fmt n) (n / 32)).map BitVec.toNat)
  else
    let l := s.spRead c off (fmtBytes fmt ((r + 1) * n))
    (List.range n).map fun j => elemNum fmt (elemAt (fmtBits fmt) l (r * n + j))

/-- An input of arithmetic: integers become FP32, rounded to nearest even (R307, R315). -/
def asF32 (fmt : Nat) (x : FVal) : FVal := if isIntFmt fmt then rne32 x else x

/-- Inputs of row r as the arithmetic takes them. -/
def State.vecIn (s : State) (c off fmt n r : Nat) : List FVal := (s.vecVals c off fmt n r).map (asF32 fmt)

/-- Second operands of row r of a two-operand operation: SRC2, or the one value that SCAL gives (R289). -/
def State.vecIn2 (s : State) (c : Nat) (q : QDesc) (r : Nat) : List FVal :=
  if q.scal then List.replicate q.n (q.f32 12) else s.vecIn c (q.off c 12) q.ifmt q.n r

/-- A result and whether it is a NaN made from operands that hold none (R324). -/
structure VRes where
  val : FVal
  made : Bool
  deriving DecidableEq, Repr

/-- A result of operands. -/
def VRes.of (ops : List FVal) (v : FVal) : VRes := { val := v, made := decide (v = .nan) && !ops.contains .nan }

/-- What an operation makes: rows of results, in its output format. -/
abbrev VOut := List (List VRes)

/-- Output rows as bytes, in order; formats below a byte go on across rows (R289, R306). -/
def vecOut (fmt rnd : Nat) (fromInt : Bool) (draw : Nat → Nat) (rows : VOut) : List Byte × Count :=
  let made := rows.any fun l => l.any VRes.made
  if isMx fmt then
    let x := rows.zipIdx.map fun l => mxRow fmt rnd (fun i => draw (l.2 * l.1.length + i)) (l.1.map VRes.val)
    (x.flatMap (·.1), x.foldl (fun n y => n.or y.2) { Count.zero with invalid := made })
  else
    let x := (rows.flatten.map VRes.val).zipIdx.map fun v => convOut fmt rnd false fromInt (draw v.2) v.1
    (packElems (fmtBits fmt) (x.map (·.1)), x.foldl (fun n y => n.or y.2) { Count.zero with invalid := made })

/-- The engine reads poison among some operands: offset and bytes of each (R297). -/
def State.vecPoison (s : State) (c : Nat) (l : List (Nat × Nat)) : Bool := l.any fun e => e.2 != 0 && s.spPoison c e.1 e.2

/-- Results of a vector operation are written at DST and counted (R297, R318, R324). -/
def State.vecWrite (s : State) (c e : Nat) (q : QDesc) (fromInt poisoned : Bool) (rows : VOut) : State :=
  let len := (rows.map List.length).sum
  let x := vecOut q.ofmt q.rnd fromInt (s.drawAt c e) rows
  ((s.drewIf c e q.rnd len).engWrite c (q.off c 16) x.1 poisoned).countDesc c poisoned (if poisoned then .zero else x.2) false

/-- Rows of a descriptor. -/
def QDesc.rows (q : QDesc) : List Nat := List.range q.r

/-- Bytes of the first operand. -/
def QDesc.src1 (q : QDesc) (c : Nat) : Nat × Nat := (q.off c 8, vecBytes q.ifmt q.r q.n)

/-- Bytes of DST as an operand. -/
def QDesc.dstIn (q : QDesc) (c : Nat) : Nat × Nat := (q.off c 16, vecBytes q.ofmt q.r q.n)

/-- Bytes of the second operand of a two-operand operation. -/
def QDesc.src2 (q : QDesc) (c : Nat) : Nat × Nat := (q.off c 12, if q.scal then 0 else vecBytes q.ifmt q.r q.n)

/-! ### Two operands (R290, R315, R316) -/

/-- A two-operand operation on every element. -/
def runBinary (f : FVal → FVal → FVal) (c e : Nat) (q : QDesc) (s : State) : State × Status :=
  let rows := q.rows.map fun r =>
    ((s.vecIn c (q.off c 8) q.ifmt q.n r).zip (s.vecIn2 c q r)).map fun x => VRes.of [x.1, x.2] (f x.1 x.2)
  (s.vecWrite c e q false (s.vecPoison c [q.src1 c, q.src2 c]) rows, .done)

/-- VFMA: SRC1 × SRC2 + DST, rounded once (R290, R315). -/
def runVfma (c e : Nat) (q : QDesc) (s : State) : State × Status :=
  let rows := q.rows.map fun r =>
    ((s.vecIn c (q.off c 8) q.ifmt q.n r).zip ((s.vecIn2 c q r).zip (s.vecIn c (q.off c 16) q.ofmt q.n r))).map fun x =>
      VRes.of [x.1, x.2.1, x.2.2] (fmaF x.1 x.2.1 x.2.2)
  (s.vecWrite c e q false (s.vecPoison c [q.src1 c, q.src2 c, q.dstIn c]) rows, .done)

/-- A vector row runs in VE0 or VE1. -/
def State.runVec (s : State) (c e op : Nat) (run : QDesc → State → State × Status) : Host.Outcome State Fault Refusal :=
  s.runHead (s.engRuns c e 4 5) c e op run

def execVadd (core eng : Nat) (s : State) : Host.Outcome State Fault Refusal := s.runVec core eng 0x40 (runBinary addF core eng)
def execVsub (core eng : Nat) (s : State) : Host.Outcome State Fault Refusal := s.runVec core eng 0x41 (runBinary subF core eng)
def execVmul (core eng : Nat) (s : State) : Host.Outcome State Fault Refusal := s.runVec core eng 0x42 (runBinary mulF core eng)
def execVfma (core eng : Nat) (s : State) : Host.Outcome State Fault Refusal := s.runVec core eng 0x43 (runVfma core eng)
def execVmax (core eng : Nat) (s : State) : Host.Outcome State Fault Refusal := s.runVec core eng 0x44 (runBinary maxF core eng)
def execVmin (core eng : Nat) (s : State) : Host.Outcome State Fault Refusal := s.runVec core eng 0x45 (runBinary minF core eng)

/-! ### VCVT and the special functions (R290, R317, R321) -/

/-- VCVT: the value itself is converted; integer inputs are not rounded to FP32 first (R307, R321). -/
def runVcvt (c e : Nat) (q : QDesc) (s : State) : State × Status :=
  let rows := q.rows.map fun r => (s.vecVals c (q.off c 8) q.ifmt q.n r).map fun x => ({ val := x, made := false } : VRes)
  (s.vecWrite c e q (isIntFmt q.ifmt) (s.vecPoison c [q.src1 c]) rows, .done)

/-- VCVT (R290). -/
def execVcvt (core eng : Nat) (s : State) : Host.Outcome State Fault Refusal := s.runVec core eng 0x46 (runVcvt core eng)

/-- A special function of every element; each result takes a free value within its bound (R317; log entry 30). -/
def runFn (f : Fn) (c e : Nat) (q : QDesc) (s : State) : State × Status :=
  let rows := q.rows.map fun r =>
    (s.vecIn c (q.off c 8) q.ifmt q.n r).zipIdx.map fun x => VRes.of [x.1] (f.eval x.1 (Config.free (s.drawn + r * q.n + x.2)))
  (({ s with drawn := s.drawn + q.r * q.n } : State).vecWrite c e q false (s.vecPoison c [q.src1 c]) rows, .done)

def execVexp2 (core eng : Nat) (s : State) : Host.Outcome State Fault Refusal := s.runVec core eng 0x48 (runFn .exp2 core eng)
def execVlog2 (core eng : Nat) (s : State) : Host.Outcome State Fault Refusal := s.runVec core eng 0x49 (runFn .log2 core eng)
def execVrcp (core eng : Nat) (s : State) : Host.Outcome State Fault Refusal := s.runVec core eng 0x4A (runFn .rcp core eng)
def execVrsqrt (core eng : Nat) (s : State) : Host.Outcome State Fault Refusal := s.runVec core eng 0x4B (runFn .rsqrt core eng)
def execVtanh (core eng : Nat) (s : State) : Host.Outcome State Fault Refusal := s.runVec core eng 0x4C (runFn .tanh core eng)
def execVerf (core eng : Nat) (s : State) : Host.Outcome State Fault Refusal := s.runVec core eng 0x4D (runFn .erf core eng)

/-! ### Rows: softmax, scaling, normalisers (R290, R317) -/

/-- An FP32 row of SRC1. -/
def State.rowF32 (s : State) (c : Nat) (q : QDesc) (r : Nat) : List FVal := s.vecVals c (q.off c 8) 0 q.n r

/-- The state of row r: m and l, and writing it (R290). -/
def State.mOf (s : State) (c : Nat) (q : QDesc) (r : Nat) : FVal := s.spF32 c (q.off c 28 + 8 * r)
def State.lOf (s : State) (c : Nat) (q : QDesc) (r : Nat) : FVal := s.spF32 c (q.off c 28 + 8 * r + 4)
def State.setML (s : State) (c : Nat) (q : QDesc) (poisoned : Bool) (l : List (FVal × FVal)) : State :=
  s.engWrite c (q.off c 28) (l.flatMap fun x => leBytes 4 (f32Word x.1).toNat ++ leBytes 4 (f32Word x.2).toNat) poisoned

/-- Operands of VSMAX and VSEXP. -/
def QDesc.softIn (q : QDesc) (c : Nat) : List (Nat × Nat) := [(q.off c 8, 4 * q.r * q.n), (q.off c 28, 8 * q.r)]

/-- VSMAX: the new maximum, the factor exp2(m - m'), and the sum scaled by it (R290, R316, R317). -/
def runVsmax (c e : Nat) (q : QDesc) (s : State) : State × Status :=
  let step (r : Nat) : FVal × FVal × VRes :=
    let x := s.rowF32 c q r
    let m := s.mOf c q r
    let m' := x.foldl maxF m
    let a := Fn.eval .exp2 (subF m m') (Config.free (s.drawn + r))
    (m', mulF (s.lOf c q r) a, VRes.of (m :: x) a)
  let l := q.rows.map step
  let p := s.vecPoison c (q.softIn c)
  let s1 := ({ s with drawn := s.drawn + q.r } : State).vecWrite c e q false p (l.map fun y => [y.2.2])
  (s1.setML c q p (l.map fun y => (y.1, y.2.1)), .done)

/-- VSMAX (R290). -/
def execVsmax (core eng : Nat) (s : State) : Host.Outcome State Fault Refusal := s.runVec core eng 0x50 (runVsmax core eng)

/-- VSEXP: exp2(x - m) of each element, and the sum with them in an order the spec leaves open (R290, R317; log entry 31). -/
def runVsexp (c e : Nat) (q : QDesc) (s : State) : State × Status :=
  let k := q.n + q.n + 1
  let step (r : Nat) : FVal × FVal × List VRes :=
    let m := s.mOf c q r
    let y := (s.rowF32 c q r).zipIdx.map fun x => VRes.of [x.1, m] (Fn.eval .exp2 (subF x.1 m) (Config.free (s.drawn + r * k + x.2)))
    let pick (i : Nat) : Nat := Config.free (s.drawn + r * k + q.n + i)
    (m, sumFree pick (q.n + 1) (s.lOf c q r :: y.map VRes.val), y)
  let l := q.rows.map step
  let p := s.vecPoison c (q.softIn c)
  let s1 := ({ s with drawn := s.drawn + q.r * k } : State).vecWrite c e q false p (l.map fun y => y.2.2)
  (s1.setML c q p (l.map fun y => (y.1, y.2.1)), .done)

/-- VSEXP (R290). -/
def execVsexp (core eng : Nat) (s : State) : Host.Outcome State Fault Refusal := s.runVec core eng 0x51 (runVsexp core eng)

/-- Factor of row r in VROW (R289, R290). -/
def State.rowFactor (s : State) (c : Nat) (q : QDesc) (r : Nat) : FVal :=
  if q.scal then q.f32 12 else s.spF32 c (q.off c 12 + 4 * r)

/-- VROW: rows scaled by a factor, in MODE 0 those of DST with SRC1 added, each step rounded once (R290, R315). -/
def runVrow (c e : Nat) (q : QDesc) (s : State) : State × Status :=
  let rows := q.rows.map fun r =>
    let f := s.rowFactor c q r
    let x := s.vecIn c (q.off c 8) q.ifmt q.n r
    if q.mode == 0 then
      ((s.vecIn c (q.off c 16) q.ofmt q.n r).zip x).map fun y => VRes.of [y.1, y.2, f] (addF (mulF y.1 f) y.2)
    else x.map fun y => VRes.of [y, f] (mulF y f)
  let ins := [q.src1 c, (q.off c 12, if q.scal then 0 else 4 * q.r)] ++ if q.mode == 0 then [q.dstIn c] else []
  (s.vecWrite c e q false (s.vecPoison c ins) rows, .done)

/-- VROW (R290). -/
def execVrow (core eng : Nat) (s : State) : Host.Outcome State Fault Refusal := s.runVec core eng 0x52 (runVrow core eng)

/-- A value over a count, rounded once to FP32. -/
def overF (x : FVal) (n : Nat) : FVal :=
  match x with
  | .fin neg m e => rne32 (.fin neg (m * 2 ^ 64 / n * 2 + b2n (m * 2 ^ 64 % n != 0)) (e - 65))
  | y => y

/-- The mean of a row, its sum in an order that the spec leaves open (R290; log entry 31). -/
def meanF (pick : Nat → Nat) (l : List FVal) : FVal := overF (sumFree pick l.length l) l.length

/-- The variance of a row: the mean square of what its values differ from the mean by, or the mean square less the square of the mean, which the spec leaves open (R290; log entry 31). -/
def varF (pick : Nat → Nat) (l : List FVal) (mean : FVal) : FVal :=
  if pick 0 % 2 = 0 then meanF (fun i => pick (i + 1)) (l.map fun x => mulF (subF x mean) (subF x mean))
  else subF (meanF (fun i => pick (i + 1)) (l.map fun x => mulF x x)) (mulF mean mean)

/-- The normaliser of a row: 1/√(mean(x²) + ε) in MODE 0, else the mean and 1/√(var + ε), each step rounded once (R290, R317; log entry 31). -/
def normRow (mode : Nat) (pick : Nat → Nat) (l : List FVal) (eps : FVal) : List FVal :=
  let n := l.length + 2
  if mode == 0 then [Fn.eval .rsqrt (addF (meanF (fun i => pick (i + 1)) (l.map fun x => mulF x x)) eps) (pick 0)]
  else
    let mean := meanF (fun i => pick (i + 1)) l
    [mean, Fn.eval .rsqrt (addF (varF (fun i => pick (i + n)) l mean) eps) (pick 0)]

/-- VNORM (R290; log entry 31). -/
def runVnorm (c e : Nat) (q : QDesc) (s : State) : State × Status :=
  let k := 2 * q.n + 4
  let rows := q.rows.map fun r =>
    let x := s.vecIn c (q.off c 8) q.ifmt q.n r
    (normRow q.mode (fun i => Config.free (s.drawn + r * k + i)) x (q.f32 28)).map fun v => VRes.of (q.f32 28 :: x) v
  (({ s with drawn := s.drawn + q.r * k } : State).vecWrite c e q false (s.vecPoison c [q.src1 c]) rows, .done)

/-- VNORM (R290). -/
def execVnorm (core eng : Nat) (s : State) : Host.Outcome State Fault Refusal := s.runVec core eng 0x53 (runVnorm core eng)

/-! ### VTOPK (R291) -/

/-- a at lane i ranks before b at lane j: numbers before NaN, larger first, ties by the lower lane (R291). -/
def ranksBefore (a b : Nat × FVal) : Bool :=
  if a.2 = .nan then b.2 = .nan && decide (a.1 < b.1)
  else if b.2 = .nan then true
  else if a.2.eqNum b.2 then decide (a.1 < b.1)
  else b.2.lt a.2

/-- Insert in rank order. -/
def rankInsert (x : Nat × FVal) : List (Nat × FVal) → List (Nat × FVal)
  | [] => [x]
  | y :: l => if ranksBefore x y then x :: y :: l else y :: rankInsert x l

/-- The K first of a row by rank; lanes past N count as minus infinity (R291). -/
def topK (k : Nat) (l : List FVal) : List (Nat × FVal) :=
  (((List.range 64).map fun i => (i, l.getD i (.inf true))).foldl (fun r x => rankInsert x r) []).take k

/-- VTOPK: values as FP32 to DST, lanes as 16-bit integers to AUX (R290, R291). -/
def runVtopk (c _e : Nat) (q : QDesc) (s : State) : State × Status :=
  let k := dB q.d 26 2
  let l := q.rows.flatMap fun r => topK k (s.vecIn c (q.off c 8) q.ifmt q.n r)
  let p := s.vecPoison c [q.src1 c]
  let s1 := s.engWrite c (q.off c 16) (l.flatMap fun x => leBytes 4 (f32Word x.2).toNat) p
  ((s1.engWrite c (q.off c 28) (l.flatMap fun x => leBytes 2 x.1) p).countDesc c p .zero false, .done)

/-- VTOPK (R291). -/
def execVtopk (core eng : Nat) (s : State) : Host.Outcome State Fault Refusal := s.runVec core eng 0x54 (runVtopk core eng)

/-! ### VGATHER and VSCATTER (R292) -/

/-- Index number i: an INT32 of SRC2, or the one that SCAL gives (R289, R290). -/
def State.vecIndex (s : State) (c : Nat) (q : QDesc) (i : Nat) : Int :=
  (if q.scal then BitVec.ofNat 32 (dB q.d 12 4) else BitVec.ofNat 32 (leNat (s.spRead c (q.off c 12 + 4 * i) 4))).toInt

/-- Offset of a table element; none when it does not lie in the scratchpad (R292). -/
def tableElem (base w : Nat) (i : Int) : Option Nat :=
  let a : Int := base + i * w
  if 0 ≤ a ∧ a + w ≤ spSize then some a.toNat else none

/-- Operands of the index moves that poison governs. -/
def QDesc.indexIn (q : QDesc) (c : Nat) : Nat × Nat := (q.off c 12, if q.scal then 0 else 4 * q.r * q.n)

/-- Bytes of an element of IFMT. -/
def QDesc.width (q : QDesc) : Nat := fmtBits q.ifmt / 8

/-- VGATHER: elements are moved bit for bit; an index outside the scratchpad reads poison, and poisons every row in which its element lies (R292, R307). -/
def runVgather (c _e : Nat) (q : QDesc) (s : State) : State × Status :=
  let w := q.width
  let n := q.r * q.n
  let at' (i : Nat) : Option Nat := tableElem (q.off c 8) w (s.vecIndex c q i)
  let p := s.vecPoison c (q.indexIn c :: (List.range n).filterMap fun i => (at' i).map fun a => (a, w))
  let dst := q.off c 16
  let bytes := (List.range n).flatMap fun i => match at' i with
    | some a => s.spRead c a w
    | none => poisonBytes (dst + i * w) w
  let s1 := s.engWrite c dst bytes p
  let s2 := each ((List.range n).filter fun i => (at' i).isNone) (fun i s =>
    (s.setPoison (spPlace c (dst + i * w)) true).setPoison (spPlace c (dst + i * w + (w - 1))) true) s1
  (s2.countDesc c p .zero false, .done)

/-- VGATHER (R292). -/
def execVgather (core eng : Nat) (s : State) : Host.Outcome State Fault Refusal := s.runVec core eng 0x58 (runVgather core eng)

/-- Of the elements of VSCATTER that name one place, the one whose value is left: which is not defined (R292). -/
def scatterPick (from' : Nat) (l : List Nat) (i : Nat) : Nat :=
  let same := l.zipIdx.filter fun x => x.1 == l.getD i 0
  (same.getD (Config.free (from' + l.getD i 0) % same.length) (0, i)).2

/-- VSCATTER: elements are moved bit for bit; an index outside the scratchpad writes nothing (R292, R307). -/
def runVscatter (c _e : Nat) (q : QDesc) (s : State) : State × Status :=
  let w := q.width
  let n := q.r * q.n
  let src := s.spRead c (q.off c 8) (n * w)
  let hits := (List.range n).filterMap fun i => (tableElem (q.off c 16) w (s.vecIndex c q i)).map fun a => (i, a)
  let places := hits.map (·.2)
  let p := s.vecPoison c [q.src1 c, q.indexIn c]
  let s1 := each hits.zipIdx (fun x s' =>
    let k := scatterPick s.drawn places x.2
    s'.engWrite c x.1.2 (sliceB src ((hits.getD k (0, 0)).1 * w) w) p) { s with drawn := s.drawn + spSize }
  (s1.countDesc c p .zero false, .done)

/-- VSCATTER (R292). -/
def execVscatter (core eng : Nat) (s : State) : Host.Outcome State Fault Refusal := s.runVec core eng 0x59 (runVscatter core eng)

end Sys2Proof.Machine
end

