-- ==== Sys2Proof/Machine/Transfer.lean ====
section
/-! DEFINITION. The transfer engine, completion of descriptors, NOP, and the write that loads a random source's seed
(R212, R274, R280, R293 to R296, R322). -/

namespace Sys2Proof.Machine

open Sys2Proof

/-! ### The head of the transfer engine's queue -/

/-- The descriptor that the transfer engine runs, or would begin. -/
def State.teHead (s : State) (c : Nat) : Option QDesc := (s.eng c 6).queue.head?

/-- Change the running descriptor. -/
def State.modTe (s : State) (c : Nat) (f : QDesc → QDesc) : State := s.modEng c 6 fun g => g.modQ 0 f

/-- A row of the transfer engine: the head of its opcode begins when its tokens allow, and goes on with its packets (R281, R295). -/
def State.runTe (s : State) (c op : Nat) (go : QDesc → State → State) : Host.Outcome State Fault Refusal :=
  match s.teHead c with
  | none => .next s
  | some q => act (s.engRuns c 6 6 6 && dOp q.d == op && (q.begun || s.tokensReady c (dTokens q.d)) && q.result.isNone) s
      fun s => go q (if q.begun then s else s.beginAt c 6 0 q)

/-! ### Packets (R192, R295) -/

/-- Bytes from an address that one packet may hold: to the next 4 KiB boundary of HBM, and one line where the cache is looked up (R192, R210, R295). -/
def State.reachOf (s : State) (ep a hint : Nat) : Nat :=
  match placeOf a with
  | .hbm _ => if s.isSelf ep && hint ≤ 1 then 128 - a % 128 else 4096 - a % 4096
  | _ => 4096

/-- A transfer between two places: endpoints, addresses, opcode of its packets to the destination, mask and hint. -/
structure Move where
  sep : Nat
  src : Nat
  dep : Nat
  dst : Nat
  code : Nat
  mask : Byte
  hint : Nat
  deriving DecidableEq, Repr

/-- Bytes of the next packet of a transfer with n bytes left. -/
def State.chunk (s : State) (m : Move) (n : Nat) : Nat := min n (min (s.reachOf m.sep m.src m.hint) (s.reachOf m.dep m.dst m.hint))

/-- A transfer from a number of bytes on. -/
def Move.from' (m : Move) (n : Nat) : Move := { m with src := (m.src + n) % 2 ^ 44, dst := (m.dst + n) % 2 ^ 44 }

/-- A request of the transfer engine for a context. -/
def teReq (c x : Nat) (kind : OpKind) (code ep laddr : Nat) : Req :=
  { owner := .engine c x, st := coreDie c, kind := kind, code := code, ep := ep, laddr := laddr, data := [], rlen := 0
    retAddr := spOf c, dest := .none, sig := 0, aseq := 0, poison := false, mask := 0 }

/-- Bytes go to a destination at once (R203, R235, R295). -/
def State.putBytes (s : State) (c x : Nat) (m : Move) (data : List Byte) (poison : Bool) : State :=
  s.access { teReq c x (kindOf m.code) m.code m.dep m.dst with data := data, poison := poison, mask := m.mask, retAddr := 0 } m.hint

/-- One packet of a transfer: from the own scratchpad, to it, or by the staging buffer (R295). -/
def State.movePacket (s : State) (c x : Nat) (m : Move) (n : Nat) : State :=
  if s.isSelf m.sep && ownSp c m.src n then
    let d := s.stRead (coreDie c) m.src n
    s.putBytes c x m d.1 d.2
  else
    let r := { teReq c x .load 0x01 m.sep m.src with rlen := n, retAddr := s.freshRet }
    if m.code == 0x10 && s.isSelf m.dep && ownSp c m.dst n then s.access { r with retAddr := m.dst, dest := .scratch } m.hint
    else s.access { r with dest := .stage m.code m.dep m.dst m.hint m.mask } m.hint

/-- The engine may send so many more packets: at most 64 are outstanding, with the core's collected operations at most 2,048, and the context has no fence of its sequencer pending (R238, R240, R295; log entry 82). -/
def State.teRoomFor (s : State) (c n : Nat) : Bool :=
  match s.teHead c with
  | some q => decide (q.ops.length + n ≤ 64) && s.roomFor c n && (s.ctxFence c q.ctx).isNone
  | none => false

/-- The engine may send one more packet. -/
def State.teRoom (s : State) (c : Nat) : Bool := s.teRoomFor c 1

/-- Packets of a transfer of total bytes, from where the descriptor stands. -/
def State.moveOn (c x : Nat) (m : Move) (total : Nat) : Nat → State → State
  | 0, s => s
  | k + 1, s =>
    let done := match s.teHead c with | some q => q.progress | none => total
    if total ≤ done || !s.teRoom c then s
    else
      let n := s.chunk (m.from' done) (total - done)
      State.moveOn c x m total k ((s.modTe c fun q => { q with progress := q.progress + n }).movePacket c x (m.from' done) n)

/-- COPY (R293, R295). -/
def runCopy (c : Nat) (q : QDesc) (s : State) : State :=
  State.moveOn c q.ctx { sep := dB q.d 20 3, src := q.addr 8, dep := dB q.d 23 3, dst := q.addr 12, code := 0x10, mask := 0, hint := dHint q.d }
    (dB q.d 16 4) 64 s

/-- COPY; bad holds the bad words that its reads find in the cache die, by their addresses (R214, R293). -/
def execCopy (core : Nat) (bad : List (Nat × Nat)) (s : State) : Host.Outcome State Fault Refusal :=
  s.runTe core 0x80 fun q s => runCopy core q (s.ownBads (coreDie core) bad)

/-! ### Multicast and reduction (R176, R293) -/

/-- An operation that ends before a packet leaves. -/
def State.failPacket (s : State) (r : Req) (st : Status) : State :=
  let x := s.newOp r s.rem.nextId
  x.2.settle x.1 st 0

/-- The window that MCAST_STORE names: its base and size (R176, R190, R293). -/
def mcastWindow (c : Nat) (q : QDesc) : Nat × Nat :=
  if dB q.d 21 1 == 0 then (kdBase + coreDie c * kdWindow, kdWindow) else (spOf c, spWindow)

/-- Packets of MCAST_STORE; one that passes the end of the window ends with OUT_OF_RANGE (R192, R229). -/
def State.mcastOn (c : Nat) (q : QDesc) : Nat → State → State
  | 0, s => s
  | k + 1, s =>
    let done := match s.teHead c with | some q => q.progress | none => dB q.d 16 4
    let total := dB q.d 16 4
    if total ≤ done || !s.teRoom c then s
    else
      let w := mcastWindow c q
      let off := dB q.d 12 4 + done
      let m : Move := { sep := 0, src := (q.addr 8 + done) % 2 ^ 44, dep := 0, dst := w.1 + off, code := 0x60
                        mask := BitVec.ofNat 8 (dB q.d 20 1), hint := 2 }
      let n := min (total - done) (s.reachOf 0 m.src 2)
      let s1 := s.modTe c fun q => { q with progress := q.progress + n }
      State.mcastOn c q k (if w.2 < off + n then s1.failPacket (teReq c q.ctx .mcast 0x60 0 m.dst) .outOfRange
        else s1.movePacket c q.ctx m n)

/-- MCAST_STORE (R293). -/
def execMcastStore (core : Nat) (s : State) : Host.Outcome State Fault Refusal :=
  s.runTe core 0x83 fun q s => State.mcastOn core q 64 s

/-- Bytes at a local address as the station that performs there sees them now, and the status of reading them (R204, R229, R254). -/
def State.readNow (s : State) (a n : Nat) : List Byte × Status :=
  match s.opStatus 0x01 a 8 n false with
  | some e => ([], e)
  | none => match s.performer a with
    | none => ([], .badField)
    | some t =>
      if !s.stServes t || (blocksOf a n).any fun b => s.deadMem b.1 then ([], .deadTarget)
      else
        let r := s.stRead t a n
        (r.1, if r.2 then .poisoned else .done)

/-- Packets of REDUCE_INTO, whole elements each; an element of the source that crosses a 4 KiB boundary of HBM is read whole (R192, R232, R295). -/
def State.reduceOn (c : Nat) (q : QDesc) : Nat → State → State
  | 0, s => s
  | k + 1, s =>
    let done := match s.teHead c with | some q => q.progress | none => dB q.d 16 4
    let total := dB q.d 16 4
    if total ≤ done || !s.teRoom c then s
    else
      let w := (redSize (d6 q.d)).getD 1
      let m : Move := Move.from' { sep := 0, src := q.addr 8, dep := dB q.d 23 3, dst := q.addr 12, code := d6 q.d, mask := 0, hint := 2 } done
      let n0 := s.chunk m (total - done)
      let n := if n0 < w then min w (total - done) else n0 / w * w
      let s1 := s.modTe c fun q => { q with progress := q.progress + n }
      let s2 :=
        if n0 < w ∧ n ≠ n0 then
          let d := s1.readNow m.src n
          if d.2 = .done ∨ d.2 = .poisoned then s1.putBytes c q.ctx m d.1 (decide (d.2 = .poisoned))
          else s1.failPacket { teReq c q.ctx .load 0x01 0 m.src with rlen := n } d.2
        else s1.movePacket c q.ctx m n
      State.reduceOn c q k s2

/-- REDUCE_INTO (R293). -/
def execReduceInto (core : Nat) (s : State) : Host.Outcome State Fault Refusal :=
  s.runTe core 0x84 fun q s => State.reduceOn core q 64 s

/-! ### GATHER and SCATTER (R294) -/

/-- The read of a list entry sets out: a load of its own, by the cache of the die as the descriptor's hint says (R210, R227, R294). -/
def State.readEntry (s : State) (c x a hint : Nat) : State :=
  (s.modTe c fun q => { q with reading := true, got := [], gotWorst := .done }).access
    { teReq c x .load 0x01 0 a with rlen := 8, retAddr := s.freshRet, dest := .entry c 0 } hint

/-- The entry that a read has brought, once all of it has come, with the status of the read (R294). -/
def QDesc.readDone (q : QDesc) : Option (Nat × Status) :=
  if q.reading && decide (8 ≤ q.got.length) then
    some (leNat ((List.range 8).map fun i => tget q.got 0 i), q.gotWorst)
  else none

/-- What becomes of a list entry: its page, nothing for a hole, or the status with which it is skipped (R294). -/
def pageOf (q : QDesc) (e : Nat × Status) : Option Nat × Status :=
  let size := 4096 * 2 ^ d6 q.d
  if e.2 ≠ .done then (none, e.2)
  else if e.1 = 2 ^ 64 - 1 then (none, .done)
  else if e.1 % size ≠ 0 ∨ size < dB q.d 16 4 + dB q.d 20 4 then (none, .outOfRange)
  else (some e.1, .done)

/-- One entry's transfer: between the page and entry i's place in the stride (R294). -/
def pageMove (q : QDesc) (page i : Nat) : Move :=
  let e := page / 2 ^ 44
  let a := (page % 2 ^ 44 + dB q.d 16 4) % 2 ^ 44
  let b := (q.addr 24 + i * dB q.d 28 4) % 2 ^ 44
  if dOp q.d == 0x81 then { sep := e, src := a, dep := 0, dst := b, code := 0x10, mask := 0, hint := dHint q.d }
  else { sep := 0, src := b, dep := e, dst := a, code := 0x10, mask := 0, hint := dHint q.d }

/-- The next entry or packet of a GATHER or SCATTER; its progress counts LEN + 1 for each entry (R294). -/
def State.pagesOn (c : Nat) : Nat → State → State
  | 0, s => s
  | k + 1, s =>
    match s.teHead c with
    | none => s
    | some q =>
      let len := dB q.d 20 4
      let i := q.progress / (len + 1)
      let done := q.progress % (len + 1)
      if dB q.d 14 2 ≤ i || !s.teRoom c then s
      else
        let skip (st : Status) (s : State) : State :=
          s.modTe c fun q =>
            { q with progress := (i + 1) * (len + 1), entry := none, reading := false, got := [], worst := q.worst.worse st }
        match q.entry, q.readDone with
        | none, none =>
          if q.reading then s
          else State.pagesOn c k (s.readEntry c q.ctx ((q.addr 8 + 8 * (dB q.d 12 2 + i)) % 2 ^ 44) (dHint q.d))
        | none, some r =>
          let e := pageOf q r
          State.pagesOn c k (match e.1 with
            | none => skip e.2 s
            | some p => if len = 0 then skip .done s
              else s.modTe c fun q => { q with entry := some p, reading := false, got := [] })
        | some p, _ =>
          let m := (pageMove q p i).from' done
          let n := s.chunk m (len - done)
          let s1 := if done + n = len then skip .done s else s.modTe c fun q => { q with progress := q.progress + n }
          State.pagesOn c k (s1.movePacket c q.ctx m n)

/-- GATHER (R294). -/
def execGather (core : Nat) (s : State) : Host.Outcome State Fault Refusal := s.runTe core 0x81 fun _ s => State.pagesOn core 192 s

/-- SCATTER (R294). -/
def execScatter (core : Nat) (s : State) : Host.Outcome State Fault Refusal := s.runTe core 0x82 fun _ s => State.pagesOn core 192 s

/-! ### KD_FLUSH, KD_INVALIDATE, FENCE (R212, R237) -/

/-- A line lies in the range of a descriptor (R212). -/
def QDesc.covers (q : QDesc) (line : Nat) : Bool :=
  decide (q.addr 8 / 128 ≤ line) && decide (line ≤ (q.addr 8 + dB q.d 16 4 - 1) / 128)

/-- The first dirty line of a range from a line on. -/
def CacheDie.nextDirty (k : CacheDie) (q : QDesc) (from' : Nat) : Option CacheLine :=
  (k.lines.filter fun l => q.covers l.line && l.isDirty && decide (from' ≤ l.line)).foldl (fun b l => match b with
    | none => some l
    | some m => if l.line < m.line then some l else some m) none

/-- The write-backs of KD_FLUSH: a line is clean once it is written back; progress counts lines from 1 (R212). -/
def State.flushOn (c : Nat) (q : QDesc) : Nat → State → State
  | 0, s => s
  | k + 1, s =>
    let n := coreDie c
    let from' := match s.teHead c with | some h => h.progress | none => 0
    match (s.kd n).nextDirty q from' with
      | none => s.modTe c fun h => { h with progress := 2 ^ 44 }
      | some l =>
        if !s.teRoomFor c l.runs.length then s
        else
        let s1 := (s.modTe c fun h => { h with progress := l.line + 1 }).modKd n fun d => { d with
          lines := d.lines.map fun (m : CacheLine) => if m.line == l.line then { m with dirty := [] } else m }
        State.flushOn c q k (s1.writeBackLine n (.engine c q.ctx) l false)

/-- KD_FLUSH; a halted cache die is dead (R212, R448). -/
def execKdFlush (core : Nat) (s : State) : Host.Outcome State Fault Refusal :=
  s.runTe core 0x85 fun q s =>
    if (s.kd (coreDie core)).halted then s.setResult core 6 0 .deadTarget else State.flushOn core q 64 s

/-- KD_INVALIDATE removes every line of the range without writing it back (R212). -/
def execKdInvalidate (core : Nat) (s : State) : Host.Outcome State Fault Refusal :=
  s.runTe core 0x86 fun q s =>
    if (s.kd (coreDie core)).halted then s.setResult core 6 0 .deadTarget
    else (s.modKd (coreDie core) fun k => { k with lines := k.lines.filter fun l => !q.covers l.line }).setResult core 6 0 .done

/-- FENCE of the transfer engine starts once; later descriptors wait for it (R237, R293). -/
def execTeFence (core : Nat) (s : State) : Host.Outcome State Fault Refusal :=
  s.runTe core 0x87 fun q s => if q.begun then s else s.startFence core q.ctx (d6 q.d) true

/-! ### Descriptors complete (R280, R296) -/

/-- Progress at which a transfer descriptor has sent everything. -/
def QDesc.total (q : QDesc) : Nat :=
  match dOp q.d with
  | 0x81 => dB q.d 14 2 * (dB q.d 20 4 + 1)
  | 0x82 => dB q.d 14 2 * (dB q.d 20 4 + 1)
  | 0x85 => 2 ^ 44
  | _ => dB q.d 16 4

/-- The fence of the running FENCE of the transfer engine. -/
def State.teFence (s : State) (c x : Nat) : Option Fence := s.rem.fences.find? fun f => f.core == c && f.ctx == x && f.engine

/-- The status with which the running transfer descriptor can complete: every packet answered or failed (R296). -/
def State.teStatus (s : State) (c : Nat) (q : QDesc) : Option Status :=
  match q.result with
  | some st => some st
  | none =>
    if !q.begun then none
    else if dOp q.d == 0x87 then
      match s.teFence c q.ctx with
      | some f => if f.ops.isEmpty && (s.ctx c q.ctx).sheafOut == 0 then some f.worst else none
      | none => none
    else if q.ops.isEmpty && decide (q.total ≤ q.progress) then some q.worst else none

/-- A descriptor of an engine that can complete: its place, itself, its status. -/
def State.completable (s : State) (c e : Nat) : Option (Nat × QDesc × Status) :=
  if e == 6 then match s.teHead c with
    | some q => (s.teStatus c q).map fun st => (0, q, st)
    | none => none
  else
    match (s.eng c e).queue.findIdx? fun q => q.result.isSome with
    | none => none
    | some i => match (s.eng c e).queue[i]? with
      | some q => q.result.map fun st => (i, q, st)
      | none => none

/-- DESCRIPTOR_COMPLETE: it leaves its queue, its status reaches its context's END, its token is signalled (R269, R280). -/
def execDescriptorComplete (core eng : Nat) (s : State) : Host.Outcome State Fault Refusal :=
  match s.completable core eng with
  | none => .next s
  | some (i, q, st) => act (s.engRuns core eng 0 6) s fun s =>
    let s1 := if eng == 6 && dOp q.d == 0x87 then
        match s.teFence core q.ctx with
        | some f => s.dropFence f
        | none => s
      else s
    (((s1.modEng core eng fun g => { g with queue := g.queue.eraseIdx i }).ctxWorst core q.ctx st).signal core q.ctx (dSig q.d)
      (eng + 1) (dOp q.d))

/-! ### NOP (R274, R424) -/

/-- NOP as a control operation, an engine descriptor, or a command (R274, R282, R424). -/
def execNop (at' : NopAt) (s : State) : Host.Outcome State Fault Refusal :=
  match at' with
  | .ctx c x => s.issueOp c x 0x00
  | .engine c e => s.runHead (s.engRuns c e 0 6) c e 0x00 fun _ s => (s, .done)
  | .host o => .next (s.command o 0x00 [] fun s => (s, []))

end Sys2Proof.Machine
end

