-- ==== Sys2Proof/Machine/Nets.lean ====
section
/-! DEFINITION. What travels inside the base apart from the lane groups: the port ring (R70 to R73), the narrow net (R66,
R228, R356, R362, R444), and descriptors on their way to a prefetch buffer (R272). -/

namespace Sys2Proof.Machine

open Sys2Proof

/-! ### The port ring -/

/-- The next stop of a packet (R72). -/
def RingPkt.next (r : RingPkt) : Nat := if r.clockwise then (r.here + 1) % ringStops else (r.here + ringStops - 1) % ringStops

/-- A packet one stop further; over the headland between P15 and P0 it moves to class B (R73). -/
def RingPkt.hop (r : RingPkt) : RingPkt :=
  { r with here := r.next, classB := r.classB || (r.here == 19 && r.next == 0) || (r.here == 0 && r.next == 19) }

/-- Credits of the packets for a reader and channel that a station has queued. -/
def State.queuedCredits (s : State) (st rd vc : Nat) : Nat :=
  (((s.sta st).sendq.filter fun q => (hdr q.pkt).vc == vc && q.readers == [rd]).map fun q => pktCredits q.pkt).sum

/-- A request can leave the ring at an exchange station: the station that performs it will accept it, because credit for it
is at hand; one that will not be sent to a station leaves at once (R168, R256). -/
def State.accepted (s : State) (x : Nat) (p : Packet) : Bool :=
  let h := hdr p
  malformed p || isReply h.op || h.dmp || (match s.performer h.laddr with
    | none => true
    | some t => (s.opStatus h.op h.laddr h.len (rlenOf p) true).isSome || !s.stServes t || s.closed x t h.vc
      || decide (s.queuedCredits x t h.vc + pktCredits p ≤ s.held t x h.vc))

/-- Station of an exchange station's stop. -/
def stopXs (i : Nat) : Option Nat := if i = 4 then some 12 else if i = 15 then some 13 else none

/-- A packet at its stop can leave the ring. -/
def State.canLeave (s : State) (r : RingPkt) : Bool :=
  match stopXs r.dst with
  | some x => !s.stServes x || s.accepted x r.q.pkt
  | none => true

/-- A packet leaves the ring at its stop: at a port it waits for a slot, or goes to another when that one has left service; at the host bridge it waits for its row; at an exchange
station it enters the fabric, unless it is malformed, or goes on to the other exchange station (R71, R163). With both exchange stations out of service it is lost, of which the spec says nothing (log entry 76). -/
def State.leaveRing (s : State) (r : RingPkt) : State :=
  match stopPort r.dst, stopXs r.dst with
  | some p, _ =>
    let s1 := s.outPut r.q
    if s.portServes p then s1 else s1.moveQueue p fun q => q = r.q
  | none, some x =>
    if s.stServes x then
      if malformed r.q.pkt then
        (s.modSta x fun y => { y with malformed := inc 16 y.malformed }).raise (ntPktMalformed x)
      else s.fabricIn x r.q.pkt
    else if s.stServes (25 - x) then s.ringIn r.dst (xsStop (25 - x)) r.src r.ft r.q
    else s
  | none, none =>
    if r.dst = bridgeStop ∧ !malformed r.q.pkt then
      { s with bridge := { s.bridge with inbox := s.bridge.inbox ++ [(r.src, r.q.pkt, r.ft)] } }
    else s

/-- A packet that can move at a stop, with none before it in its buffer, which is that of its channel and class, for the same stop (R72, R73). The spec orders neither the buffers nor the packets for different stops: the model takes the first listed, and keeps the order of one buffer's packets for one stop (log entry 76). -/
def State.mover (s : State) (stop : Nat) : Option RingPkt :=
  let l := s.fab.ring.filter fun r => r.here == stop
  l.zipIdx.findSome? fun e =>
    let before := (l.take e.2).any fun q => q.dst == e.1.dst && (hdr q.q.pkt).vc == (hdr e.1.q.pkt).vc && q.classB == e.1.classB
    if !before && (e.1.here != e.1.dst || s.canLeave e.1) then some e.1 else none

/-- RING_HOP: a packet moves one stop, and leaves the ring at its own (R72). -/
def execRingHop (stop : Nat) (s : State) : Host.Outcome State Fault Refusal :=
  match s.mover stop with
  | none => .next s
  | some r => act (decide (stop < ringStops)) s fun s =>
    let s1 := { s with fab := { s.fab with ring := s.fab.ring.erase r } }
    if r.here = r.dst then s1.leaveRing r
    else
      let m := r.hop
      if m.here = m.dst ∧ s1.canLeave m then s1.leaveRing m
      else { s1 with fab := { s1.fab with ring := s1.fab.ring ++ [m] } }

/-! ### The narrow net -/

/-- The message that a node takes first: the strictest class (R66), and of that the oldest, an order the spec does not give (log entry 76). -/
def State.firstMsg (s : State) (node : Nat) : Option NetMsg :=
  let l := tget s.fab.net [] node
  (List.range 5).findSome? fun c => l.find? fun m => m.cls == c

/-- A sheaf operation comes to its bank; while the field is out of service it fails as dead (R254, R359, R362). -/
def State.atBank (s : State) (r : BankReq) : State :=
  if s.fieldUp (sheafBank r.sheaf) then s.modBank (sheafBank r.sheaf) fun b => { b with inbox := b.inbox ++ [r] }
  else match r.pkt with
    | some (st, p) => s.replyFault st p .deadTarget
    | none => s.bankReply r .deadTarget []

/-- A load or store of sheaf space as the bank's operation: READ or ADD (R356). -/
def sheafAccess (st : Nat) (p : Packet) : BankReq :=
  let i := ((hdr p).laddr - sheafBase) / 4
  { op := if (hdr p).op == 0x01 then .read else .add, sheaf := i, n := fieldB p.data 0 4, from? := none, sig := 0, pkt := some (st, p) }

/-- A load or store of a register by a core (R228, R443 to R445). -/
def State.coreRegister (s : State) (st : Nat) (p : Packet) : State :=
  let h := hdr p
  if h.op = 0x01 then
    let r := s.regRead h.laddr
    r.2.2.reply st p 0x70 (leBytes 4 r.2.1.toNat) r.1 false
  else
    let r := s.regWrite .coreStore .p0 h.laddr (BitVec.ofNat 32 (fieldB p.data 0 4))
    r.1.reply st p 0x71 [] r.2 false

/-- 256 B of register space, word by word. -/
def State.fetchRegs (s : State) (b : Nat) : List Byte × Status :=
  let l := (List.range 64).map fun i => s.regRead (b + 4 * i)
  (l.flatMap fun r => leBytes 4 r.2.1.toNat, worst (l.map fun r => r.1))

/-- What a message does at its node. -/
def State.message (s : State) (m : NetMsg) : State :=
  match m.body with
  | .sheaf r => s.atBank r
  | .wake a => { s with sheaves := { s.sheaves with answers := s.sheaves.answers ++ [a] } }
  | .fetch c x b =>
    let r := s.fetchRegs b
    s.modCtx c x fun t => if t.fetching then { t with fetched := some (b, r) } else t
  | .access st p => match placeOf (hdr p).laddr with
    | .sheaf _ => s.atBank (sheafAccess st p)
    | _ => s.coreRegister st p

/-- NARROW_NET_MESSAGE: the message reaches its node, which takes the strictest class first (R66). -/
def execNarrowNetMessage (node : Nat) (s : State) : Host.Outcome State Fault Refusal :=
  match s.firstMsg node with
  | none => .next s
  | some m => act true s fun s =>
    ({ s with fab := { s.fab with net := tmod s.fab.net [] node fun l => l.erase m } } : State).message m

/-! ### Prefetch (R272) -/

/-- The bytes of a block that the sequencer reads itself, and the status of that (R204, R216, R229, R234, R254, R272). -/
def State.fetchBytes (s : State) (c b : Nat) : List Byte × Status :=
  match placeOf b with
  | .sp _ off =>
    if spSize < off + 256 then ([], .notPresent)
    else (s.spRead c off 256, if s.spPoison c off 256 then .poisoned else .done)
  | _ => match s.opStatus 0x01 b 8 256 false with
    | some e => ([], e)
    | none =>
      if s.deadMem b then ([], .deadTarget)
      else
        let r := s.stRead (coreDie c) b 256
        (r.1, if r.2 then .poisoned else .done)

/-- The descriptor in 32 bytes. -/
def descOf (l : List Byte) : BitVec 256 := BitVec.ofNat 256 (leNat l)

/-- The buffer takes a block: it holds 32 descriptors, the newest (R272). -/
def Ctx.takeBlock (t : Ctx) (b : Nat) (l : List Byte) : Ctx :=
  let new := (List.range 8).map fun i => (b + 32 * i, descOf (sliceB l (32 * i) 32))
  let old := t.buf.filter fun e => !(new.any fun n => n.1 == e.1)
  let all := old ++ new
  { t with fetching := false, buf := all.drop (all.length - 32) }

/-- The block that has come for a context: what a load or the narrow net brought, or what the sequencer reads itself (R272). -/
def State.arrived (s : State) (c x : Nat) : Option (Nat × List Byte × Status) :=
  match (s.ctx c x).fetched, (s.ctx c x).fetchBlock with
  | some f, _ => some f
  | none, some b => if nearBlock c b then some (b, s.fetchBytes c b) else none
  | none, none => none

/-- FETCH_ARRIVE: the block joins the buffer; a failure faults the context once it has nothing at its pc (R272, R277). -/
def execFetchArrive (core ctx : Nat) (s : State) : Host.Outcome State Fault Refusal :=
  let t := s.ctx core ctx
  act (t.fetching && decide (core < 64) && s.coreUp core && (t.fetched.isSome || !s.fetchOut core ctx)) s fun s =>
    let s1 := s.modCtx core ctx fun t => { t with fetching := false, fetched := none }
    match s.arrived core ctx with
    | none => s1
    | some (b, l, st) =>
      if st = .done then (s1.modCtx core ctx fun t => t.takeBlock b l).refresh core
      else if (t.descAt t.pc.toNat).isNone && t.issuing then s1.ctxFault core ctx 6 0 0 st else s1

end Sys2Proof.Machine
end

