-- ==== Sys2Proof/Machine/Links.lean ====
section
/-! DEFINITION. The short electrical links (14): bond links with their trained widths and records, coil groups of the cache
dies, and sill links of the ports; and the writing of a record area of the store (R567 to R570). -/

namespace Sys2Proof.Machine

open Sys2Proof

/-! ### Record areas of the store (R567 to R570) -/

/-- One SEQ is newer than another (R568). -/
def newerSeq (a b : BitVec 32) : Bool := 1 ≤ (a - b).toNat && decide ((a - b).toNat < 2 ^ 31)

/-- Bank and SEQ of the present record of an area (R568). -/
def Area.present (x : Area) : Option (Bool × BitVec 32) :=
  match x.seq0, x.seq1 with
  | some a, some b => if newerSeq b a then some (true, b) else some (false, a)
  | some a, none => some (false, a)
  | none, some b => some (true, b)
  | none, none => none

/-- An area after a write that its check confirms: the other bank holds the record, one SEQ on (R569). -/
def Area.written (x : Area) : Area :=
  match x.present with
  | some (false, q) => { x with seq1 := some (q + 1), dirty := false }
  | some (true, q) => { x with seq0 := some (q + 1), dirty := false }
  | none => { x with seq0 := some 0, dirty := false }

/-- An area after a write whose repeat failed too: the bank that was to take the record is not valid (R569). -/
def Area.failed (x : Area) : Area :=
  match x.present with
  | some (false, _) => { x with seq1 := none }
  | some (true, _) => { x with seq0 := none }
  | none => x

/-- One bit of the eight areas' masks. -/
def setBit8 (m : Byte) (i : Nat) (b : Bool) : Byte := if b then m ||| (1#8 <<< i) else m &&& ~~~(1#8 <<< i)

/-- A record area is written, or keeps its record because the write and its repeat failed; STORE_FAULT follows WFAIL and MISSING (R569, R587, R588). -/
def State.writeArea (s : State) (a : Nat) (ok : Bool) : State :=
  if ok then
    ({ (s.modArea a Area.written) with
        warden := { (s.modArea a Area.written).warden with
          wfail := setBit8 s.warden.wfail a false, missing := setBit8 s.warden.missing a false
          writes := inc 16 s.warden.writes } } : State).sense ntStoreFault s
  else
    let bank : Byte := match (s.area a).present with | some (false, _) => 1 | _ => 0
    (({ (s.modArea a Area.failed) with
        warden := { (s.modArea a Area.failed).warden with wfail := setBit8 s.warden.wfail a true } } : State).sense ntStoreFault s).log
      0x0070 2 0xFFFF [BitVec.ofNat 8 a, bank, 1]

/-! ### Bond links (R468 to R478) -/

/-- Bad lanes of a quarter, and of the spares (R468). -/
def badIn (bad : BitVec 136) (q : Nat) : Nat := ((List.range 32).filter fun i => bad.getLsbD (32 * q + i)).length
def badSpares (bad : BitVec 136) : Nat := ((List.range 8).filter fun i => bad.getLsbD (128 + i)).length

/-- Bad data lanes of the quarters in a set (R471). -/
def badOf (bad : BitVec 136) (kept : Nat) : Nat :=
  (((List.range 4).filter (bit kept)).map (badIn bad)).sum

/-- The set of n quarters that a link keeps: one whose bad lanes the good spares cover, the fewest of them, then with the highest quarters dropped (R471). -/
def keptOf (bad : BitVec 136) (n : Nat) : Option Nat :=
  ((List.range 16).filter fun m => popcount m == n && decide (badOf bad m + badSpares bad ≤ 8)).foldl (fun b m => match b with
    | none => some m
    | some k => if badOf bad m < badOf bad k then some m else some k) none

/-- The quarters kept at training: the largest set within a limit that the spares can cover (R471). -/
def bestKept (bad : BitVec 136) : Nat → Nat
  | 0 => 0
  | n + 1 => match keptOf bad (n + 1) with
    | some m => m
    | none => bestKept bad n

/-- The record on which two sides settle, with the lanes that fail the test (R476). -/
def resolveWidth (a b : WidthRec) (failing : List Nat) : WidthRec :=
  let bad := a.bad ||| b.bad ||| BitVec.ofNat 136 (maskOf 136 fun i => failing.contains i)
  let limit := min (popcount a.qmask.toNat) (popcount b.qmask.toNat)
  { qmask := BitVec.ofNat 4 (bestKept bad limit)
    epoch := BitVec.ofNat 16 (max a.epoch.toNat b.epoch.toNat + 1), bad := bad }

/-- The record a side brings to a training: its live one, or the stored one when it has none (R492). -/
def Bond.dieRec (b : Bond) : WidthRec := b.dieLive.getD b.dieStored
def Bond.baseRec (b : Bond) : WidthRec := b.baseLive.getD b.baseStored

/-- A link takes the record its training resolves; with no quarter kept it is OUT (R471, R476). -/
def Bond.train (b : Bond) (failing : List Nat) : Bond :=
  let r := resolveWidth b.dieRec b.baseRec failing
  { b with
    state := if r.qmask = 0 then .out else .train
    dieLive := some r, baseLive := some r, spares := badOf r.bad r.qmask.toNat, resolved := true
    trains := inc 8 b.trains, dirty := true }

/-- A bond link changes; the capacity descriptor follows (R438). -/
def State.setBond (s : State) (d i : Nat) (f : Bond → Bond) : State := (s.modBond d i f).capSense [0, d + 1] s

/-- The power of both sides of a die's bond links is up: its die is not gated or is rejoining, and its field runs or comes up (R470, R492). -/
def State.bondsPowered (s : State) (d : Nat) : Bool :=
  !s.power.tripped && (s.dieUp d || decide ((s.die d).state = .rejoining))
    && decide ((s.field (d / 2)).state ≠ .reset)

/-- BOND_LINK_TRAIN: the link is tested and its width resolved, once in each training (R470, R476, R492). -/
def execBondLinkTrain (die link : Nat) (failing : List Nat) (s : State) : Host.Outcome State Fault Refusal :=
  let b := s.bond die link
  act (decide (die < 8) && decide (link < 36) && s.bondsPowered die
      && (decide (b.state = .off) || decide (b.state = .hold) || (decide (b.state = .train) && !b.resolved))
      && !(s.test.runs.any fun r => r.p.target == 4 && r.p.index == die && r.p.sub == link)) s fun s =>
    (s.setBond die link fun b => b.train failing).markArea areaWidth

/-- BOND_LINK_TRAIN_COMPLETE: the link enters service (R470, R476). -/
def execBondLinkTrainComplete (die link : Nat) (s : State) : Host.Outcome State Fault Refusal :=
  act (decide (die < 8) && decide (link < 36) && decide ((s.bond die link).state = .train) && (s.bond die link).resolved
      && !(s.test.runs.any fun r => r.p.target == 4 && r.p.index == die && r.p.sub == link)) s fun s =>
    s.setBond die link fun b => { b with state := .up, seq := 0, resolved := false }

/-- LINK of a width record (R475). -/
def linkByte (link : Nat) : Byte := BitVec.ofNat 8 (if link < 12 then link else 0x80 + (link - 12))

/-- QMASK and EPOCH of a record as a log entry holds them (R562). -/
def WidthRec.logBytes (r : WidthRec) : List Byte := BitVec.ofNat 8 r.qmask.toNat :: leBytes 2 r.epoch.toNat

/-- A side that receives a frame of another width or epoch holds the link; the third time in a row it is OUT (R477). -/
def State.holdBond (s : State) (d i : Nat) : State :=
  let b := s.bond d i
  let s1 := s.setBond d i fun b =>
    { b with state := if 2 ≤ b.holds3 then .out else .hold, holds := inc 8 b.holds, holds3 := b.holds3 + 1, resolved := false }
  if 2 ≤ b.holds3 then
    s1.log 0x0041 2 0xFFFF ([BitVec.ofNat 8 d, linkByte i] ++ b.dieRec.logBytes ++ b.baseRec.logBytes)
  else s1

/-- BOND_FRAME_RECEIVE: the base receives on transmit links, the die on the others (R468, R469, R477). -/
def execBondFrameReceive (die link : Nat) (f : BondFrame) (s : State) : Host.Outcome State Fault Refusal :=
  let b := s.bond die link
  act (decide (die < 8) && decide (link < 36) && decide (b.state = .up)) s fun s =>
    let r := if link < 12 then b.baseRec else b.dieRec
    if !f.crcOk then s.modBond die link fun b => { b with crcErr := inc 16 b.crcErr }
    else if f.width ≠ popcount r.qmask.toNat ∨ f.epoch4 ≠ r.epoch.toNat % 16 then s.holdBond die link
    else if f.seq = b.seq then s.modBond die link fun b => { b with seq := (b.seq + 1) % 256, holds3 := 0 }
    else s

/-- BOND_CRC_RETRAIN: more than 16 failures in 100 µs retrain the link (R470). -/
def execBondCrcRetrain (die link : Nat) (s : State) : Host.Outcome State Fault Refusal :=
  act (decide (die < 8) && decide (link < 36) && decide ((s.bond die link).state = .up)) s fun s =>
    s.setBond die link fun b => { b with state := .train, resolved := false }

/-- Some width record is not yet in the store. -/
def State.widthsDirty (s : State) : Bool := s.power.bonds.any fun e => e.2.dirty

/-- The stored records of a link take its live ones; a side that has lost its live record keeps what it stored (R478, R492). -/
def Bond.store (b : Bond) : Bond := { b with dieStored := b.dieRec, baseStored := b.baseRec, dirty := false }

/-- WIDTH_RECORD_WRITE: both sides' records of a link reach the store (R478, R569). -/
def execWidthRecordWrite (die link : Nat) (s : State) : Host.Outcome State Fault Refusal :=
  act (decide (die < 8) && decide (link < 36) && (s.bond die link).dirty && s.warden.serving) s fun s =>
    let s1 := (s.modBond die link Bond.store).writeArea areaWidth true
    s1.modArea areaWidth fun x => { x with dirty := s1.widthsDirty }

/-! ### Coil groups (R479 to R483) -/

/-- A range of a descriptor reaches a slice of the cache (R208, R212). -/
def QDesc.reaches (q : QDesc) (slice : Nat) : Bool :=
  (List.range 64).any fun i => let line := q.addr 8 / 128 + i
    q.covers line && lineSlice line == slice

/-- A running KD_FLUSH that covers a slice whose lines are lost ends POISONED (R223). -/
def State.spoilFlush (s : State) (n slice : Nat) : State :=
  each (List.range 8) (fun i s => match s.teHead (8 * n + i) with
    | some q =>
      if dOp q.d == 0x85 && q.begun && q.reaches slice then
        s.modTe (8 * n + i) fun q => { q with worst := q.worst.worse .poisoned }
      else s
    | none => s) s

/-- The cache-die controller gives up the lines of a fenced slice, by the tags in its partner (R213). -/
def State.dropSlice (s : State) (n g : Nat) : State :=
  let mine := (s.kd n).lines.filter fun l => lineSlice l.line == g
  let s1 := s.modKd n fun k => { k with lines := k.lines.filter fun l => lineSlice l.line != g }
  let s2 := if (s.kd n).fenced.getLsbD (g ^^^ 32) then s1.modKd n fun k => { k with lostUnknown := true }
    else
      let dirty := mine.filter CacheLine.isDirty
      each dirty (fun l s => s.writeBackLine n .evict l true)
        (s1.modKd n fun k => { k with lostLines := sat 31 (k.lostLines + dirty.length) })
  (s2.raise (ntKdLost n)).spoilFlush n g

/-- A coil group is fenced (R481). -/
def State.fenceCoil (s : State) (n g : Nat) : State :=
  (((s.modKd n fun k => { k with fenced := k.fenced ||| (1#64 <<< g) }).dropSlice n g).capSense [0, n + 1] s).markArea areaRepair

/-- COIL_TRANSFER: a transfer that fails is sent again, four times at most (R480). -/
def execCoilTransfer (n g : Nat) (crcOk : Bool) (s : State) : Host.Outcome State Fault Refusal :=
  act (decide (n < 8) && decide (g < 64) && s.dieUp n && !(s.kd n).fenced.getLsbD g && decide ((s.coil n g).failures < 5)) s fun s =>
    if crcOk then s.modCoil n g fun c => { c with failures := 0 }
    else s.modCoil n g fun c =>
      { c with failures := c.failures + 1, retry := if c.failures < 4 then inc 16 c.retry else c.retry }

/-- COIL_RETRAIN: every coil is tested, spares replace the failed ones of each direction, and a direction that lacks spares fences the group (R480, R481, R483). -/
def execCoilRetrain (n g failedDown failedUp : Nat) (s : State) : Host.Outcome State Fault Refusal :=
  act (decide (n < 8) && decide (g < 64) && !(s.kd n).fenced.getLsbD g
      && (decide ((s.die n).state = .rejoining) || (s.dieUp n && (decide ((s.coil n g).failures = 5) || decide (s.resets.phase ≠ .ready))))) s fun s =>
    let s1 := s.modCoil n g fun c => { c with failures := 0, dnsp := min 4 failedDown, upsp := min 4 failedUp }
    if 4 < failedDown ∨ 4 < failedUp then s1.fenceCoil n g
    else if (s.coil n g).dnsp ≠ failedDown ∨ (s.coil n g).upsp ≠ failedUp then s1.markArea areaRepair else s1

/-! ### Sill links (R484 to R486) -/

/-- SILL_BLOCK_RECEIVE: a block that fails is sent again (R485). -/
def execSillBlockReceive (p : Nat) (crcOk : Bool) (s : State) : Host.Outcome State Fault Refusal :=
  act (decide (p < 16) && decide ((s.port p).sill = .up)) s fun s => s.modPort p fun q =>
    if crcOk then { q with sillTries := 0 } else { q with sillRetry := inc 24 q.sillRetry, sillTries := q.sillTries + 1 }

/-- SILL_PERSISTENT_ERROR: the link and its port leave service; it retrains once, and a second such error within 1 s leaves it FAILED (R485, R486). -/
def execSillPersistentError (p : Nat) (within1s : Bool) (s : State) : Host.Outcome State Fault Refusal :=
  act (decide (p < 16) && decide ((s.port p).sill = .up)) s fun s => s.takePort p fun q =>
    { q with sill := if within1s then .failed else .train, sillPersist := inc 4 q.sillPersist, sillTries := 0 }

/-- SILL_RETRAIN_COMPLETE: the link is UP, after a retrain or its training at bring-up and port reset (R486, R526). -/
def execSillRetrainComplete (p : Nat) (s : State) : Host.Outcome State Fault Refusal :=
  act (decide (p < 16) && !s.power.tripped && (decide ((s.port p).sill = .train) || decide ((s.port p).sill = .off))) s fun s =>
    s.setPort p fun q => { q with sill := .up }

end Sys2Proof.Machine
end

