-- ==== Sys2Proof/Machine/Teardown.lean ====
section
/-! DEFINITION. What a reset takes from the units it acts on, as operations that the resets share: erasing memory, clearing
cores, stations, bank and links, ending the operations that cross the boundary, gating a die and taking down a field
(R44, R189, R263, R303, R353, R368, R525, R530 to R535, R539 to R541, R619). -/

namespace Sys2Proof.Machine

open Sys2Proof

/-! ### Levels after many units have changed -/

/-- Every condition source after a change of many units (R459, R460, R462). -/
def State.senseAll (s1 s0 : State) : State := each ((List.range 512).filter isCond) (fun src s => s.sense src s0) s1

/-! ### Memory (R214, R219, R525) -/

/-- The bytes at some places, and their poison, read as memory that nothing has written. -/
def Memory.erase (m : Memory) (p : Nat → Bool) : Memory :=
  { m with cells := m.cells.filter fun e => !p e.1, poison := m.poison.filter fun b => !p (64 * b) }

/-- A place in the scratchpad of a core. -/
def inScratch (c a : Nat) : Bool := decide (spPlace c 0 ≤ a) && decide (a < spPlace (c + 1) 0)

/-- A place in the SRAM of a cache die, as any change of rows may number it. -/
def inKd (n a : Nat) : Bool :=
  decide (kdPlace n 0 0 0 ≤ a % kdEra) && decide (a % kdEra < kdPlace (n + 1) 0 0 0)

/-- The scratchpads of a die are zeroed (R219). -/
def State.zeroScratch (s : State) (d : Nat) : State :=
  { s with mem := s.mem.erase fun a => (List.range 8).any fun i => inScratch (8 * d + i) a }

/-- A cache die at its reset: zeroed, its cache portion empty, its fences as they were (R214, R481, R525). -/
def CacheDie.cleared (k : CacheDie) : CacheDie :=
  { CacheDie.reset with fenced := k.fenced, era := k.era, rate := k.rate }

/-- A cache die is reset (R214, R525). -/
def State.clearKd (s : State) (n : Nat) : State :=
  ({ s with mem := s.mem.erase (inKd n) } : State).modKd n CacheDie.cleared

/-! ### Self-test runs on a unit that is reset (R605) -/

/-- Runs on some units end with DEAD_TARGET. -/
def State.dropRuns (s : State) (p : BistHold → Bool) : State :=
  each (s.test.runs.filter p) (fun r s => s.complete r.o 0xC0 .deadTarget [])
    { s with test := { s.test with runs := s.test.runs.filter fun r => !p r } }

/-- Loopback runs of some stations end with DEAD_TARGET. -/
def State.dropLoops (s : State) (p : Nat → Bool) : State :=
  each (s.test.loops.filter fun r => p r.st) (fun r s => s.complete r.o 0xC2 .deadTarget [])
    { s with test := { s.test with loops := s.test.loops.filter fun r => !p r.st } }

/-! ### Cores (R227, R303, R353, R368, R539) -/

/-- An operation on its way to a bank, of a core that is cleared: its answer finds no context. -/
def BankReq.orphan (r : BankReq) (c : Nat) : BankReq :=
  { r with from? := r.from?.map fun i => if i.1 == c && decide (i.2 < 16) then (c, i.2 + 16) else i }

/-- The sheaf operations of a core: its TAKEs leave without effect, what it added or drained is still done, and no answer comes back (R303, R368). -/
def State.forgetSheaf (s : State) (c : Nat) : State :=
  let s1 := each (List.range 16) (fun x s => s.dropTake c x) s
  { s1 with
    sheaves := { s1.sheaves with
      bank := s1.sheaves.bank.map fun e => (e.1, { e.2 with inbox := e.2.inbox.map fun r => r.orphan c })
      answers := s1.sheaves.answers.filter fun a => a.core != c }
    fab := { s1.fab with
      net := s1.fab.net.map fun e => (e.1, (e.2.filter fun m => match m.body with
        | .wake a => a.core != c
        | .fetch k _ _ => k != c
        | _ => true).map fun m => match m.body with
        | .sheaf r => { m with body := .sheaf (r.orphan c) }
        | _ => m) } }

/-- A core's contexts, tokens, engines, fences, sow table and registers clear; its scratchpad stays (R303, R353, R525, R539). -/
def State.clearCore (s : State) (c : Nat) : State :=
  let s1 := (s.forgetSheaf c).clearSows .core c
  let s2 : State := { s1 with rem := { s1.rem with fences := s1.rem.fences.filter fun f => f.core != c } }
  s2.modCore c fun _ => CoreUnit.reset

/-- Contexts of a core whose end record has not been written (R534). -/
def State.openRecords (s : State) (c : Nat) : List Nat :=
  (List.range 16).filter fun x => decide ((s.ctx c x).state ≠ .idle) && !(s.ctx c x).noend

/-- The replies to a core's operations are to be discarded (R533, R539). -/
def State.orphanOps (s : State) (c : Nat) : State :=
  { s with rem := { s.rem with
    ops := s.rem.ops.map fun o => if o.owner.issuer.map (·.1) == some c then { o with orphan := true } else o } }

/-! ### Stations (R44, R48, R189, R525) -/

/-- A transmit group whose station has left service: empty, its ENABLE and lane marks kept. -/
def TxGroup.down (t : TxGroup) : TxGroup :=
  { t.clear with
    state := if t.enable then .off else match t.state with | .draining => .drained | .drained => .drained | _ => .off
    gseq := 0, auto := false, held := none, hinged := false, window := false, loopback := false, waking := false, lateFault := false }

/-- A map entry whose compute station has been gated: TUNING entries are cleared, the others kept (R525). -/
def RxGroup.gated (r : RxGroup) (st g : Nat) : RxGroup :=
  let q := RxGroup.reset st g
  if r.state = .tuning then
    { r with valid := q.valid, wst := q.wst, wlg := q.wlg, state := .dark, share := 0, expect := 0, unacked := false
             words := [], change := none, calBusy := false, calDue := [], rejoin := false }
  else { r with expect := 0, unacked := false, words := [], change := none, calBusy := false, rejoin := false }

/-- A compute station whose die has been gated: its settings, counters and bolt stay (R525). -/
def Station.gated (x : Station) : Station :=
  { x with up := false, inbox := [], sendq := [], pseq := [], remnants := [], merge := [], lastRr := 0 }

/-- What a station that is out of service no longer holds; full for a reset of its field, where its registers and the state of its rings clear too (R12, R132). What it had sent over the narrow net goes on there (R69). -/
def State.clearStation (s : State) (st : Nat) (full : Bool) : State :=
  let s1 := each (List.range (numTx st)) (fun g s => s.modTx st g fun t => if full then TxGroup.reset g else t.down) s
  let s2 := each (List.range (numRx st)) (fun g s =>
    s.modRx st g fun r => if full then RxGroup.reset st g else r.gated st g) s1
  let s3 := if full then s2.resetRings (stationRings st) else s2.setRings (stationRings st) .parked
  s3.modSta st fun x => if full then Station.reset else x.gated

/-- A station leaves service: it is out of every reader set, its waiting map changes end, what it held is gone (R44, R52, R253, R353). -/
def State.stationDown (s : State) (st : Nat) (full : Bool) : State :=
  let s1 := each (List.range (numRx st)) (fun rg s => s.dropChange st rg .deadTarget) s
  let s2 := (s1.modSta st fun x => { x with up := false }).stationGone st
  (s2.clearStation st full).clearSows .station st

/-- Allocations of a reader are the reset ones again (R171, R525). -/
def State.resetAlloc (s : State) (st : Nat) : State :=
  { s with credit := { s.credit with
    alloc := s.credit.alloc.filter fun e => e.1 / 128 != st
    pend := s.credit.pend.filter fun e => e.1 / 128 != st } }

/-- A station writes back every open block of its merge queue (R540, R619). -/
def State.flushMerge (s : State) (st : Nat) : State := each (s.sta st).merge (fun b s => s.writeBack st b) s

/-! ### Gating a die (R530 to R535, R619) -/

/-- One byte of a lost block: any of the values that it took from the block's opening on (R619). -/
def State.leaveByte (s : State) (b : MergeBlk) (e : Nat × Byte) : State :=
  let a := 64 * b.blk + e.1
  let l := s.mem.rd a :: e.2 :: tget b.past [] e.1
  { s.draw with mem := s.mem.wr a (l.getD (s.freeVal % l.length) 0) }

/-- An open block that targets the cache die is lost and counted; its bytes, and a change of its poison, are left open (R552, R619). -/
def State.loseBlock (s : State) (b : MergeBlk) : State :=
  let s1 := each b.bytes (fun e s => s.leaveByte b e) s
  let s2 := if b.poisonSet then
      (s1.draw.when (s1.freeVal % 2 == 1) fun s => s.setPoison (64 * b.blk) b.poison) else s1
  { s2 with resets := { s2.resets with mergeLost := inc 16 s2.resets.mergeLost } }

/-- The merge queue of a compute station at a gate: written back before a command's gate, else lost (R619). -/
def State.gateMerge (s : State) (d cause : Nat) : State :=
  if cause = 1 ∨ cause = 6 then s.flushMerge d
  else each ((s.sta d).merge.filter fun b => inKd d (64 * b.blk)) (fun b s => s.loseBlock b) s

/-- The records of a gated die's contexts: written by the bridge with DEAD_TARGET and bytes 18 to 23 zero, and counted (R534). -/
def State.deadRecords (s : State) (d : Nat) : State :=
  each (List.range 8) (fun i s => each (s.openRecords (8 * d + i)) (fun x s =>
    let s1 := s.sendRecord (s.endRecord (8 * d + i) x .deadTarget 0 true)
    { s1 with resets := { s1.resets with endDead := inc 16 s1.resets.endDead } }) s) s

/-- The operations of a gated die end: those that fences of other dies collected with DEAD_TARGET for them, and no reply finds its issuer (R533). -/
def State.dropDieOps (s : State) (d : Nat) : State :=
  let mine := s.rem.ops.filter fun o => o.issuerSt == d
  let s1 := each mine (fun o s => s.redirty o .deadTarget) s
  { s1 with rem := { s1.rem with
    ops := s1.rem.ops.filter fun o => o.issuerSt != d
    fences := (s1.rem.fences.filter fun f => coreDie f.core != d).map fun f =>
      mine.foldl (fun (f : Fence) (o : Op) => f.opDone o.id .deadTarget) f
    rack := s1.rem.rack.map fun r => if r.st == d then { r with orphan := true } else r } }

/-- The bond links of a die stop; the die side loses its live records, or the base side when its field is reset (R492, R531). -/
def State.stopBonds (s : State) (d : Nat) (field : Bool) : State :=
  each (List.range 36) (fun i s => s.modBond d i fun b =>
    { b with
      state := .off, seq := 0, holds3 := 0, resolved := false
      dieLive := if field then b.dieLive else none, baseLive := if field then none else b.baseLive }) s

/-- Clocks of a gated die stand still and its issue level is 0 (R125, R333, R531). -/
def State.stopDie (s : State) (d : Nat) : State :=
  let s1 := each (List.range 4) (fun i s => s.modRegion (4 * d + i) fun x => { x with state := 1, pllLost := false, jitterOver := false })
    (s.dropCopies d)
  s1.modDiePower d fun p => { p with level := 0, demand := 0, acc := 0, ballast := false, asleep := false, waking := false }

/-- Commands that wait for a core of the die, or for its return, end (R553). -/
def State.endWaits (s : State) (d : Nat) : State :=
  let s1 := each (List.range 8) (fun i s => match (s.core (8 * d + i)).resetBy with
    | some o => s.complete o 0x0D .wrongState []
    | none => s) s
  match (s1.die d).rejoining with
  | some o => (s1.modDie d fun x => { x with rejoining := none }).complete o 0x0C .wrongState []
  | none => s1

/-- Entries of a station's remnants are lost with it, and counted (R189, R533). -/
def State.loseRemnants (s : State) (st : Nat) : State :=
  let n := ((s.sta st).remnants.filter fun r => r.entry).length
  { s with resets := { s.resets with mcLost := sat 16 (s.resets.mcLost + n) } }

/-- The base gates a die that is not gated (R530 to R535, R550, R619). -/
def State.gateDie (s : State) (d cause : Nat) : State :=
  if (s.die d).state = .gated then s
  else
    let kept := decide (cause ≤ 4)
    let s1 := ((s.endWaits d).gateMerge d cause).deadRecords d
    let s2 := each (List.range 8) (fun i s => s.clearCore (8 * d + i)) (s1.loseRemnants d)
    let s3 := ((s2.modDie d fun x => { x with state := .gated, gcause := cause, kdKept := kept, gates := inc 16 x.gates }).dropDieOps d).stationDown d false
    let s4 := (((s3.stopBonds d false).stopDie d).zeroScratch d).when (!kept) fun s => s.clearKd d
    let s5 := (s4.dropRuns fun r => (r.p.target == 0 && coreDie r.p.index == d)
      || ((r.p.target == 1 || r.p.target == 4 || r.p.target == 5) && r.p.index == d)).dropLoops fun st => st == d
    ((s5.log 0x0040 2 0xFFFF [0, BitVec.ofNat 8 d, BitVec.ofNat 8 cause]).senseAll s).capSense (List.range 15) s

/-! ### Taking down a field (R540, R541) -/

/-- Sheaf bank k clears: TAKEs that wait and operations it has not performed end with DEAD_TARGET (R354, R359, R540). -/
def State.clearBank (s : State) (k : Nat) : State :=
  let waiting := (s.sheaves.sheaf.filter fun e => sheafBank e.1 == k).flatMap fun e => e.2.waiters
  let reqs := (s.bank k).inbox
  let s1 : State := { s with sheaves := { s.sheaves with
    sheaf := s.sheaves.sheaf.filter fun e => sheafBank e.1 != k, bank := tdel s.sheaves.bank k } }
  let s2 := each waiting (fun w s => s.bankAnswer w.core w.ctx 0x10 .deadTarget w.sig) s1
  each reqs (fun r s => match r.pkt with
    | some (st, p) => s.replyFault st p .deadTarget
    | none => s.bankReply r .deadTarget []) s2

/-- Jobs of an exchange station end with DEAD_TARGET; of what the Warden reads, FW_STAGE_DONE makes the end (R576). -/
def State.dropJobs (s : State) (p : Nat → Bool) : State :=
  let gone := s.rem.jobs.filter fun j => p j.xs
  let ids := gone.flatMap fun j => j.ops
  each (gone.filter fun j => decide (j.kind ≠ .take)) (fun j s => s.complete j.o j.opcode .deadTarget [])
    { s with rem := { s.rem with
      jobs := (s.rem.jobs.filter fun j => !p j.xs || decide (j.kind = .take)).map fun j =>
        if p j.xs then { j with done := j.len, ops := [], worst := .deadTarget } else j
      ops := s.rem.ops.filter fun o => !ids.contains o.id } }

/-- Operations that the stations of a field had under way end: those of its own cores with PATH_LOST at once, and what they
held across the rack is no longer held (R263, R533, R541). -/
def State.fieldOps (s : State) (l : List Nat) : State :=
  let mine := s.rem.ops.filter fun o => l.contains o.issuerSt
  let held := s.rem.rack.filter fun r => l.contains r.xs
  let s1 := each held (fun r s => s.dropRack r.id) (s.dropJobs l.contains)
  let s2 := each mine (fun o s => s.endOp (some o.id) .pathLost 0) s1
  { s2 with rem := { s2.rem with rack := s2.rem.rack.map fun r => if l.contains r.st then { r with orphan := true } else r } }

/-- The stacks of a memory station enter self-refresh (R196, R540). -/
def State.restStacks (s : State) (k : Nat) : State :=
  each ((List.range 3).map (3 * k + ·)) (fun h s =>
    if (s.hbm h).state = .ready then s.modHbm h fun x => { x with state := .selfref } else s) s

/-- FIELD_RESET takes effect: everything that the field's stations acknowledged has been written back (R525, R540, R541, R549). -/
def State.fieldDown (s : State) (k : Nat) : State :=
  let l := fieldStations k
  let dies := [2 * k, 2 * k + 1]
  let s1 := each l (fun st s => s.flushMerge st) s
  let s2 := each dies (fun d s =>
    if (s.die d).state = .rejoining then (s.endWaits d).modDie d fun x => { x with state := .gated } else s) s1
  let s3 := (each l (fun st s => s.loseRemnants st) s2).modField k fun f =>
    { state := .reset, resets := inc 16 f.resets, cold := false, enabling := none }
  let s4 := (each l (fun st s => s.modSta st fun x => { x with up := false }) s3).clearBank k
  let s5 := each l (fun st s => (s.stationDown st true).resetAlloc st) (s4.fieldOps l)
  let s6 := ((s5.modMs k fun _ => MemStation.reset).restStacks k)
  let s7 := each dies (fun d s => s.stopBonds d true) s6
  let s8 := ((s7.dropRuns fun r => (r.p.target == 2 && r.p.index == k) || (r.p.target == 4 && dies.contains r.p.index)).dropLoops l.contains)
  ((s8.log 0x0040 2 0xFFFF [1, BitVec.ofNat 8 k, 0]).senseAll s).capSense (List.range 15) s

end Sys2Proof.Machine
end

