-- ==== Sys2Proof/Machine/Resets.lean ====
section
/-! DEFINITION. Reset, bring-up, gating and rejoining of dies, field, core and port resets, thermal shutdown, and the sweep of
configuration parity (R112, R145, R448, R513, R515, R522 to R553). No reset has an effect on a tripped package (R515). -/

namespace Sys2Proof.Machine

open Sys2Proof

/-! ### Stations come into service (R145, R166, R174, R543) -/

/-- The field of a station is in service. -/
def State.stField (s : State) (st : Nat) : Bool := s.fieldUp (Sys2Proof.Machine.stField st)

/-- An entry of a station that enters service locks, and its link is calibrated before its group enters service (R145, R536, R543). -/
def State.lockEntry (s : State) (st g : Nat) : State :=
  ((s.setRings (rxRings st g) .locked).modRx st g fun r => { r with state := .locked }).calibrateNow st g

/-- Standing entries of a station that no ring has locked, whose writer is in service: they lock (R145). -/
def State.lockStanding (s : State) (st : Nat) : State :=
  each ((List.range 13).filter fun g =>
      decide ((s.rxg st g).state = .dark) && s.stUp (s.rxg st g).wst && !(s.rxg st g).badParity) (fun g s => s.lockEntry st g) s

/-- Entries that were LOCKED when their station went down lock again (R133, R536). -/
def State.relock (s : State) (st : Nat) : State :=
  each ((List.range (numRx st)).filter fun g => (s.rxg st g).valid && decide ((s.rxg st g).state = .locked)) (fun g s => s.lockEntry st g) s

/-- Lanes of a group that have no light now: on a feed that is HARD or DARK, or whose hinge has narrowed them away (R90, R98, R100). -/
def State.unlitLanes (s : State) (st g : Nat) : Byte :=
  BitVec.ofNat 8 (maskOf 8 fun l =>
    let f := s.feed (busFeed st (laneBus st g l))
    decide (f.state = .hard) || decide (f.state = .dark) || f.relocking)

/-- Modulator rings of the groups that a station is to run lock on the lanes with light (R145). -/
def State.lockWriters (s : State) (st : Nat) : State :=
  each ((List.range (numTx st)).filter fun g => (s.txg st g).enable) (fun g s =>
    let dark := s.unlitLanes st g
    (s.setRings ((txRings st g).filter fun r => !dark.getLsbD r.lane) .locked).modTx st g fun t => { t with dark := dark }) s

/-- Transmit groups of a station enter service by their ENABLE; one with fewer than four lanes that work stays out until it has more (R35, R43, R145). -/
def State.startGroups (s : State) (st : Nat) : State :=
  each ((List.range (numTx st)).filter fun g => (s.txg st g).enable) (fun g s =>
    if (s.txg st g).lanes < 4 then s.setTxState st g .fault else s.returnGroup st g) s

/-- Some stations enter service together: writers and entries lock, their links are calibrated, then groups, numbers and the credit of every channel (R145, R166, R174, R536). -/
def State.stationsUp (s : State) (l : List Nat) : State :=
  let s1 := each l (fun st s => (s.modSta st fun x => { x with up := true }).lockWriters st) s
  let s2 := each l (fun st s => (s.relock st).lockStanding st) s1
  let s3 := each (otherStations nSt) (fun st s => if s.stUp st then s.lockStanding st else s) s2
  let s4 := each l (fun st s => s.startGroups st) s3
  each l (fun st s => s.stationBack st) s4

/-- Stations of a field that can enter service: a compute station only with its die (R531, R543). -/
def State.readyStations (s : State) (k : Nat) : List Nat := (fieldStations k).filter fun st => !isCS st || s.dieUp st

/-- The receipt share of a memory station returns (R249). -/
def State.shareReturn (s : State) (k : Nat) : State := s.modMs k fun m => { m with shareUp := true, evft := s.now }

/-- Every bond link of a die has trained (R476, R543). -/
def State.bondsSettled (s : State) (d : Nat) : Bool :=
  (List.range 36).all fun i => decide ((s.bond d i).state = .up) || decide ((s.bond d i).state = .out)

/-- Every link of one direction of a die is OUT (R474). -/
def State.bondsOut (s : State) (d : Nat) : Bool :=
  ((List.range 12).all fun i => decide ((s.bond d i).state = .out))
    || (List.range 24).all fun i => decide ((s.bond d (12 + i)).state = .out)

/-! ### Dies (R530, R536 to R538) -/

/-- DIE_GATE: a cause of R530 holds; in DECOMMISSIONED the Warden holds every die gated (R582). -/
def execDieGate (d cause : Nat) (s : State) : Host.Outcome State Fault Refusal :=
  act (decide (d < 8) && decide ((s.die d).state ≠ .gated) && ((cause == 1 && s.warden.lifecycle == 4)
      || (cause == 2 && (s.die d).refMissing) || (cause == 3 && s.bondsOut d) || (cause == 4 && (s.die d).railOut))) s fun s =>
    s.gateDie d cause

/-- REFERENCE_MISSING (R530). -/
def execReferenceMissing (d : Nat) (s : State) : Host.Outcome State Fault Refusal :=
  act (decide (d < 8)) s fun s => (s.modDie d fun x => { x with refMissing := true }).gateDie d 2

/-- RAIL_OUT_OF_WINDOW (R530). -/
def execRailOutOfWindow (d millivolts : Nat) (s : State) : Host.Outcome State Fault Refusal :=
  act (decide (d < 8) && (decide (millivolts < 700) || decide (800 < millivolts))) s fun s =>
    (s.modDie d fun x => { x with railOut := true }).gateDie d 4

/-- DIE_RESET takes effect; a die already gated may still lose its cache die (R530, R538). -/
def State.resetDie (s : State) (d : Nat) (cache : Bool) : State :=
  if (s.die d).state = .gated then
    if cache then (s.clearKd d).modDie d fun x => { x with gcause := 6, kdKept := false } else s
  else s.gateDie d (if cache then 6 else 1)

/-- DIE_RESET: the record is queued first (R523, R524, R538). -/
def execDieReset (o : Origin) (d : Nat) (cache : Bool) (s : State) : Host.Outcome State Fault Refusal :=
  act (!s.power.tripped) s fun s =>
    match firstFail [(decide (d < 8) && !s.fieldUp (d / 2), .wrongState), (decide (8 ≤ d), .outOfRange)] with
    | some st => s.complete o 0x0B st []
    | none => (s.complete o 0x0B .done []).resetDie d cache

/-- DIE_REJOIN: the checks of R537, and the return begins (R536); the operands are what the detectors find. -/
def execDieRejoin (o : Origin) (d : Nat) (refMissing railOut : Bool) (s : State) : Host.Outcome State Fault Refusal :=
  act (!s.power.tripped) s fun s =>
    let ok := decide (d < 8)
    s.commandLong o 0x0C
      [ (ok && decide ((s.die d).state ≠ .gated), .wrongState),
        (ok && !s.fieldUp (d / 2), .wrongState),
        (ok && (refMissing || railOut), .notPresent),
        (!ok, .outOfRange),
        (s.warden.lifecycle == 4, .wrongState) ]
      fun s => (s.modDie d fun x =>
        { x with state := .rejoining, rejoining := some o, refMissing := false, railOut := false }).zeroScratch d

/-- A rejoined die runs again: its clocks, its station, its capacity (R133, R166, R174, R536). -/
def State.dieBack (s : State) (d : Nat) : State :=
  let s1 := each (List.range 4) (fun i s => s.modRegion (4 * d + i) fun x => { x with state := 0 })
    (s.modDie d fun x => { x with state := .up, rejoining := none })
  ((s1.stationsUp [d]).spreadLevel d).log 0x0040 2 0xFFFF [2, BitVec.ofNat 8 d, BitVec.ofNat 8 (s.die d).gcause]

/-- DIE_REJOIN_COMPLETE: every bond link has trained; with all of one direction OUT the die stays gated (R536, R537). -/
def execDieRejoinComplete (d : Nat) (s : State) : Host.Outcome State Fault Refusal :=
  match (s.die d).rejoining with
  | none => .next s
  | some o => act (decide (d < 8) && decide ((s.die d).state = .rejoining) && s.bondsSettled d) s fun s =>
    let s1 :=
      if s.bondsOut d then
        ((s.modDie d fun x => { x with state := .gated, gcause := 3, rejoining := none }).stopBonds d false).complete o 0x0C .pathLost []
      else (s.dieBack d).complete o 0x0C .done []
    (s1.senseAll s).capSense (List.range 15) s

/-! ### Cores and ports (R522, R524, R539) -/

/-- CORE_RESET takes effect (R303, R539). -/
def State.resetCore (s : State) (o : Origin) (c : Nat) : State :=
  let s1 := each (s.openRecords c) (fun x s => s.sendRecord (s.endRecord c x .wrongState (s.ctx c x).pc.toNat true)) s
  let s2 := ((s1.orphanOps c).clearCore c).modCore c fun u => { u with resetBy := some o }
  let s3 := s2.dropRuns fun r => r.p.target == 0 && r.p.index == c
  ((((s3.sense (ntCtxFault c) s).sense (ntCtxPause c) s).sense ntCfgParity s).capSense [0] s)

/-- CORE_RESET: it completes at its end (R422, R524, R539). -/
def execCoreReset (o : Origin) (c : Nat) (s : State) : Host.Outcome State Fault Refusal :=
  .next (s.commandLong o 0x0D (s.coreChecks c 0) fun s => s.resetCore o c)

/-- CORE_RESET_COMPLETE (R539). -/
def execCoreResetComplete (c : Nat) (s : State) : Host.Outcome State Fault Refusal :=
  match (s.core c).resetBy with
  | none => .next s
  | some o => act (decide (c < 64)) s fun s =>
    let s1 := (s.modCore c fun u => { u with resetBy := none }).spreadLevel (coreDie c)
    (s1.complete o 0x0D .done []).capSense [0] s

/-- A port and its sill link are reset: registers, calendar and sow table clear, and training starts (R353, R372, R397, R525). -/
def State.resetPort (s : State) (p : Nat) : State :=
  let s1 : State := { s with ports := { s.ports with ctlq := s.ports.ctlq.filter fun e => e.1 != p } }
  ((s1.takePort p fun _ => Port.reset.startTrain).clearSows .port p).sense ntCfgParity s

/-- PORT_RESET: the record is queued first (R422, R523, R524). -/
def execPortReset (o : Origin) (p : Nat) (s : State) : Host.Outcome State Fault Refusal :=
  act (!s.power.tripped) s fun s =>
    match firstFail [(decide (16 ≤ p), .outOfRange), ((s.port p).halted, .parity)] with
    | some st => s.complete o 0x0E st []
    | none => (s.complete o 0x0E .done []).resetPort p

/-! ### Fields (R524, R540 to R543) -/

/-- A field holds the only exchange station in service. -/
def State.lastXs (s : State) (k : Nat) : Bool :=
  ((fieldStations k).any fun st => isXS st && s.stUp st) && (List.range nSt).all fun st =>
    !isXS st || !s.stUp st || (fieldStations k).contains st

/-- FIELD_RESET: the record is queued first (R523, R524, R540). -/
def execFieldReset (o : Origin) (k : Nat) (s : State) : Host.Outcome State Fault Refusal :=
  act (!s.power.tripped) s fun s =>
    let ok := decide (k < 4)
    match firstFail [(ok && !s.fieldUp k, .wrongState), (ok && s.lastXs k, .wrongState), (!ok, .outOfRange)] with
    | some st => s.complete o 0x09 st []
    | none => (s.complete o 0x09 .done []).fieldDown k

/-- The stacks of a field leave self-refresh (R196, R543). -/
def State.wakeStacks (s : State) (k : Nat) : State :=
  each ((List.range 3).map (3 * k + ·)) (fun h s =>
    if (s.hbm h).state = .selfref then s.modHbm h fun x => { x with state := .ready } else s) s

/-- A warm field's standing rings acquire; with the package in service its stacks and its receipt share return before its bond links train (R112, R145, R249, R543; log entry 89). -/
def State.fieldStarts (s : State) (k : Nat) : State :=
  let s1 := s.acquireField k
  if s.resets.phase = .ready then (s1.wakeStacks k).shareReturn k else s1

/-- A field starts: it warms up when a ring-site sensor reads below 30 °C (R112). -/
def State.startField (s : State) (k : Nat) (o : Option Origin) : State :=
  if s.fieldWarm k then (s.modField k fun f => { f with state := .enabling, cold := false, enabling := o }).fieldStarts k
  else s.modField k fun f => { f with state := .warmup, cold := false, enabling := o }

/-- WARM_UP_END (R112, R145). -/
def execWarmUpEnd (k : Nat) (s : State) : Host.Outcome State Fault Refusal :=
  act (decide (k < 4) && decide ((s.field k).state = .warmup) && s.fieldWarm k) s fun s =>
    ((s.modField k fun f => { f with state := .enabling, cold := false }).fieldStarts k).sense (ntLockCold k) s

/-- FIELD_ENABLE: a field that is on its way back already is turned away like one in service (R524, R543). -/
def execFieldEnable (o : Origin) (k : Nat) (s : State) : Host.Outcome State Fault Refusal :=
  act (!s.power.tripped) s fun s =>
    let f := s.field k
    let busy := decide (f.state = .up) || decide (f.state = .enabling) || (decide (f.state = .warmup) && !f.cold) || f.enabling.isSome
    s.commandLong o 0x0A [(decide (k < 4) && busy, .wrongState), (decide (4 ≤ k), .outOfRange)] fun s =>
      (s.startField k (some o)).sense (ntLockCold k) s

/-- The units of a field are in service again (R543). -/
def State.fieldBack (s : State) (k : Nat) : State :=
  let s1 := s.modField k fun f => { f with state := .up, enabling := none }
  s1.stationsUp (s1.readyStations k)

/-- FIELD_ENABLE_COMPLETE: the bond links of the field's dies have trained (R543). -/
def execFieldEnableComplete (k : Nat) (s : State) : Host.Outcome State Fault Refusal :=
  act (decide (k < 4) && decide ((s.field k).state = .enabling) && decide (s.resets.phase = .ready)
      && [2 * k, 2 * k + 1].all fun d => !s.dieUp d || s.bondsSettled d) s fun s =>
    let s1 := s.fieldBack k
    let s2 := match (s.field k).enabling with
      | some o => s1.complete o 0x0A .done []
      | none => s1
    (s2.senseAll s).capSense (List.range 15) s

/-! ### Package warm reset and bring-up (R526, R527, R145) -/

/-- A die at a package warm reset: it returns unless its cause persists, or the life cycle holds it (R553, R582). -/
def State.dieStays (s : State) (d : Nat) : Bool :=
  decide ((s.die d).state = .gated) && ((s.die d).refMissing || (s.die d).railOut || s.warden.lifecycle == 4)

/-- Bond links, clocks and levels of a die at a package reset: links OFF, no live record, clocks stopped until bring-up ends. -/
def State.restDie (s : State) (d : Nat) : State :=
  let s1 := each (List.range 36) (fun i s => s.modBond d i fun b =>
    { b with state := .off, seq := 0, holds3 := 0, resolved := false, dieLive := none, baseLive := none }) s
  let s2 := each (List.range 4) (fun i s => s.modRegion (4 * d + i) fun x =>
    { x with state := 1, nextFreq := x.freq, pllLost := false, jitterOver := false }) s1
  let s3 := s2.modDiePower d fun p => { p with level := 0, demand := 0, acc := 0, ballast := false, asleep := false, waking := false }
  if s.dieStays d then s3 else s3.modDie d fun x => { x with state := .up, rejoining := none }

/-- Memory at a package warm reset: HBM keeps its contents in self-refresh; cache dies and scratchpads are zeroed (R196, R525). -/
def Memory.warm (m : Memory) : Memory :=
  { m.erase (fun a => decide (2 ^ 41 ≤ a)) with
    hbm := m.hbm.map fun e => (e.1, if e.2.state = .ready then { e.2 with state := .selfref } else e.2)
    ms := []
    kd := (List.range 8).foldl (fun t n => tmod t CacheDie.reset n CacheDie.cleared) m.kd }

/-- What a package warm reset leaves: the always-on domain, the Warden, the store, HBM contents, the light supply (R154, R201, R329, R392, R412, R441, R466, R522, R525, R596). -/
def State.warmed (s : State) : State :=
  { State.reset with
    pending := s.pending
    light := { s.light with feeds := s.light.feeds.map fun e => (e.1, { e.2 with asker := none }) }
    mem := s.mem.warm
    sheaves := { State.reset.sheaves with forceVal := s.sheaves.forceVal, forceSheaf := s.sheaves.forceSheaf }
    group := { Group.reset with inc := s.warden.incStored + 1 }
    power := s.power
    resets := { s.resets with phase := .warm, cause := 1, warmCnt := inc 16 s.resets.warmCnt }
    warden := { s.warden with
      incStored := s.warden.incStored + 1, staging := none, attest := none
      slotA := if s.warden.slotA.state = .staging then Slot.reset else s.warden.slotA
      slotB := if s.warden.slotB.state = .staging then Slot.reset else s.warden.slotB }
    test := { SelfTest.reset with sparesUsed := s.test.sparesUsed }
    out := s.out
    drawn := s.drawn }

/-- The effect of WARM_RESET (R522 to R529, R540). -/
def State.warmReset (s : State) : State :=
  let s1 := (each (List.range nSt) (fun st s => s.flushMerge st) s).warmed
  let s2 := each (List.range 8) (fun d s => s.restDie d) s1
  let s3 := each (List.range 4) (fun k s => s.startField k none) s2
  (s3.markArea areaCounters).senseAll s

/-- WARM_RESET: its record leaves before the reset takes effect (R441, R522, R523, R615). -/
def execWarmReset (o : Origin) (s : State) : Host.Outcome State Fault Refusal :=
  act (!s.power.tripped) s fun s =>
    let r := s.cmdRecord o 0x08 .done []
    (if o.mbox || o.quiet then s else s.emit (.record r)).warmReset

/-- Fields that come up when bring-up ends: not one that warm-up keeps out of service (R112, R145). -/
def State.bringFields (s : State) : List Nat := (List.range 4).filter fun k => decide ((s.field k).state ≠ .warmup)

/-- A stack at the end of bring-up: FAILED when its training or repair failed; else READY, with the lanes that its repair map and its training at power-on have repaired, or as it was before a warm reset (R195, R196, R527). -/
def Hbm.bringUp (x : Hbm) (failed : Bool) (repairs : Nat) : Hbm :=
  if failed || decide (x.state = .failed) then { x with state := .failed }
  else { x with state := .ready, gone := false, repairs := if x.state = .selfref ∨ x.state = .ready then x.repairs else repairs }

/-- Bring-up of one stack: how many lanes its training repairs beyond its map is open, and new repairs wait for the store (R195, R571; log entry 86). -/
def State.bringStack (s : State) (h : Nat) (failed : Bool) : State :=
  let n := min 255 (tget s.warden.laneRepairs 0 h + s.freeVal % 256)
  let s1 := s.draw.modHbm h fun x => x.bringUp failed n
  if (s1.hbm h).state = .ready ∧ (s1.hbm h).repairs ≠ tget s.warden.laneRepairs 0 h then s1.markArea areaRepair else s1

/-- BRING_UP_READY: fields, stacks, stations and receipt shares are in service, and PHASE reads READY (R195, R249, R526, R527). -/
def execBringUpReady (failedStacks : List Nat) (s : State) : Host.Outcome State Fault Refusal :=
  act (decide (s.resets.phase ≠ .ready) && s.warden.serving && !s.power.tripped
      && (List.range 4).all fun k => decide ((s.field k).state ≠ .warmup) || (s.field k).cold) s fun s =>
    let l := s.bringFields
    let s1 := each l (fun k s => s.modField k fun f => { f with state := .up, enabling := none }) s
    let s2 := each (List.range 12) (fun h s => s.bringStack h (failedStacks.contains h)) s1
    let s3 := each ((List.range 8).filter s.dieUp) (fun d s => each (List.range 4) (fun i s =>
      s.modRegion (4 * d + i) fun x => { x with state := 0 }) s) s2
    let s4 := s3.stationsUp (l.flatMap s3.readyStations)
    let s5 := if s4.synced then each l (fun k s => s.shareReturn k) s4 else s4
    let s6 : State := { s5 with resets := { s5.resets with phase := .ready } }
    (s6.senseAll s).capSense (List.range 15) s

/-! ### Thermal shutdown (R513 to R515) -/

/-- Number of a location within its kind (R520). -/
def thermIndex : ThermLoc → Nat
  | .cd n => n
  | .kd n => n
  | .field k => k
  | .hbm h => h

/-- THM_TRIP records a trip (R513, R520). -/
def State.recordTrip (s : State) (loc : ThermLoc) (t : Nat) : State :=
  { s with power := { s.power with
    thermtrip := true, tripped := true, tripValid := true, tripKind := loc.ctorIdx, tripIndex := thermIndex loc, tripTemp := t
    tripCount := inc 16 s.power.tripCount } }

/-- Whatever is under way is lost and every memory loses its contents (R513). -/
def State.emptied (s : State) : State :=
  { s with
    fab := { s.fab with net := [], ring := [] }
    rem := { s.rem with ops := [], fences := [], rack := [], jobs := [] }
    mem := { s.mem.erase (fun _ => true) with hbm := s.mem.hbm.map fun e => (e.1, { e.2 with state := .off }) }
    sheaves := { s.sheaves with answers := [] }
    ports := { s.ports with outq := [], ctlq := [], sent := [], backoff := [] }
    bridge := { s.bridge with waiting := [], inbox := [], proxies := [], posted := [] } }

/-- What no longer runs on a tripped package: every PLL but the Warden's is stopped, and nothing in flight or in memory is kept (R513). -/
def State.tripAll (s : State) : State :=
  let s1 := each (List.range 8) (fun d s => s.gateDie d 5) s
  let s2 := each (List.range 4) (fun k s => s.modField k fun f => { f with state := .off, cold := false, enabling := none }) s1
  let s3 := each (List.range nSt) (fun st s => (s.modSta st fun x => { x with up := false }).clearStation st false) s2
  s3.emptied

/-- THERMAL_SHUTDOWN: the location has reached Shutdown (R511, R513, R562, R571). -/
def execThermalShutdown (loc : ThermLoc) (halfDegrees : Nat) (s : State) : Host.Outcome State Fault Refusal :=
  act (thermOk loc && !s.power.tripped && decide ((thresholds loc).2.2 ≤ halfDegrees)) s fun s =>
    let t := min halfDegrees 255
    let s1 := s.modTherm loc fun x => { x with temp := t, peak := max x.peak t, level := 2 }
    let s2 := ((s1.recordTrip loc t).emit (.thermtrip true)).markArea areaCounters
    let word := 2 ^ 31 + loc.ctorIdx * 2 ^ 28 + thermIndex loc * 2 ^ 24 + t * 2 ^ 16 + s2.power.tripCount
    ((s2.log 0x0050 2 0xFFFF (leBytes 4 word)).tripAll).senseAll s

/-! ### Configuration parity (R448 to R450) -/

/-- A mismatch is logged with its address (R448, R562). -/
def State.logParity (s : State) (addr : Nat) : State := s.log 0x0030 2 0xFFFF (leBytes 4 addr)

/-- A mismatch in a register of a unit: which register it was is open, and the unit halts (R448). -/
def State.parityHalt (s : State) (u : Unit') : State :=
  if s.haltedAt u then s else ((s.draw.logParity (s.freeVal % 2 ^ 32)).haltUnit u)

/-- A mismatch in a table entry: logged, CFG_PARITY raised, the entry out of use (R448). -/
def State.parityEntry (s : State) (addr : Nat) (f : State → State) : State := ((f s).logParity addr).latchPend ntCfgParity

/-- PARITY_SWEEP: a mismatch is found (R448). -/
def execParitySweep (at' : ParityAt) (s : State) : Host.Outcome State Fault Refusal :=
  match at' with
  | .station st => act (decide (st < nSt)) s fun s => s.parityHalt (.station st)
  | .kd n => act (decide (n < 8)) s fun s => s.parityHalt (.kd n)
  | .port p => act (decide (p < 16)) s fun s => s.parityHalt (.port p)
  | .core c => act (decide (c < 64)) s fun s => s.parityHalt (.core c)
  | .warden addr => .next (s.parityEntry addr id)
  | .mapEntry st rg => act (isRx st rg) s fun s =>
      s.parityEntry (stReg st (0x100 + 4 * rg)) fun s =>
        let r := s.rxg st rg
        let s1 := (s.modRx st rg fun r => { r with badParity := true }).settleAcks r.wst r.wlg
        (s1.sense (ntRmapFault st) s).capSense [stPart st] s
  | .plat e => act (decide (e < 2 ^ 16)) s fun s => s.parityEntry e fun s =>
      { s with plat := { s.plat with bad := insSorted s.plat.bad e } }
  | .calendar p slot => act (decide (p < 16) && decide (slot < 4096)) s fun s => s.parityEntry slot fun s =>
      s.modPort p fun q => { q with calBad := insSorted q.calBad slot }
  | .dset p i => act (decide (p < 16) && decide (i < 64)) s fun s => s.parityEntry i fun s =>
      s.modPort p fun q => { q with dsetBad := insSorted q.dsetBad i }
  | .sow t u idx => match (s.sowTab (sowKey t u))[idx]? with
      | none => .next s
      | some e => act (decide (u < sowUnits t)) s fun s => s.parityEntry idx fun s =>
          s.sowDrop (sowKey t u) (fun x => decide (x = e)) .parity

end Sys2Proof.Machine
end

