-- ==== Sys2Proof/Machine/SelfTest.lean ====
section
/-! DEFINITION. Built-in self-test of memories, bond links and coil groups, and the optical loopback (R590 to R600, R605). -/

namespace Sys2Proof.Machine

open Sys2Proof

/-! ### The unit of a run (R590 to R592) -/

/-- Bytes of the save buffer by TARGET (R592). -/
def saveSize (target : Nat) : Nat := ([spSize, 2 ^ 31, 2 ^ 16, 2 ^ 19] : List Nat).getD target 0

/-- INDEX and SUB name a unit (R590). -/
def bistUnit (p : BistParams) : Bool :=
  match p.target with
  | 0 => decide (p.index < 64)
  | 1 => decide (p.index < 8)
  | 2 => decide (p.index < 4)
  | 3 => p.index == 0
  | 4 => decide (p.index < 8) && decide (p.sub < 36)
  | _ => decide (p.index < 8) && decide (p.sub < 64)

/-- The contexts of a core are all IDLE or FAULT (R591). -/
def State.coreQuiet (s : State) (c : Nat) : Bool :=
  (List.range 16).all fun x => decide ((s.ctx c x).state = .idle) || decide ((s.ctx c x).state = .fault)

/-- Links of a link's direction, by their numbers (R468, R488). -/
def sameWay (link : Nat) : List Nat := if link < 12 then List.range 12 else (List.range 24).map (12 + ·)

/-- A bond link is the last one of its direction that is UP (R591). -/
def State.lastUp (s : State) (d link : Nat) : Bool :=
  decide ((s.bond d link).state = .up) && (sameWay link).all fun i => i == link || decide ((s.bond d i).state ≠ .up)

/-- The unit's state forbids a run (R591). -/
def State.bistBad (s : State) (p : BistParams) : Bool :=
  match p.target with
  | 0 => !s.coreQuiet p.index
  | 1 => (List.range 8).any fun i => !s.coreQuiet (8 * p.index + i)
  | 2 => (s.sheaves.sheaf.filter fun e => sheafBank e.1 == p.index).any fun e => !e.2.waiters.isEmpty
  | 3 => false
  | 4 => s.lastUp p.index p.sub
  | _ => !(s.kd p.index).fenced.getLsbD p.sub || !(s.kd p.index).lines.isEmpty

/-- The unit is gated, held in reset or on a field out of service (R422). -/
def State.bistOut (s : State) (p : BistParams) : Bool :=
  match p.target with
  | 0 => !s.coreUp p.index
  | 1 => !s.dieUp p.index
  | 2 => !s.fieldUp p.index
  | 3 => false
  | 4 => !s.dieUp p.index || !s.fieldUp (p.index / 2)
  | _ => !s.dieUp p.index

/-- The unit has halted on parity (R422). -/
def State.bistHalted (s : State) (p : BistParams) : Bool :=
  match p.target with
  | 0 => (s.core p.index).halted
  | 1 => (s.kd p.index).halted
  | 5 => (s.kd p.index).halted
  | _ => false

/-- A run already holds the unit (R591). -/
def State.bistHeld (s : State) (p : BistParams) : Bool :=
  s.test.runs.any fun r => r.p.target == p.target && r.p.index == p.index && (decide (p.target < 4) || r.p.sub == p.sub)

/-- The checks of BIST_RUN: reserved codes, the table of R591, then R422. -/
def State.bistChecks (s : State) (p : BistParams) : List (Bool × Status) :=
  let mem := decide (p.target < 4)
  let ok := bistUnit p
  [ (decide (5 < p.target) || (mem && (p.sub != 0 || p.clear)), .badField),
    (mem && (p.save % 4096 != 0 || decide (s.hash.capacity < p.save + saveSize p.target)), .outOfRange),
    (mem && !s.hash.bolt, .wrongState),
    (ok && s.bistBad p, .wrongState),
    (ok && s.bistHeld p, .busy),
    (!ok, .outOfRange),
    (s.bistOut p, .wrongState),
    (s.bistHalted p, .parity) ]

/-! ### Save and restore (R592, R594) -/

/-- Bytes of a region as they are saved: a scratchpad's, the plat entries' in order; how a cache die with its tags and a sheaf bank lie in the buffer is open (R592; log entry 54). -/
def State.saveByte (s : State) (p : BistParams) (i : Nat) : Byte :=
  match p.target with
  | 0 => s.mem.rd (spPlace p.index i)
  | 3 => BitVec.ofNat 8 ((tget s.plat.entries 0 (i / 8)).toNat / 2 ^ (8 * (i % 8)))
  | _ => BitVec.ofNat 8 (Config.free (s.drawn + i))

/-- A page of the save buffer is dead (R254). -/
def State.deadPage (s : State) (a : Nat) : Bool :=
  s.deadMem a || match s.performer a with
    | some t => !s.stServes t
    | none => true

/-- The pages of a save buffer. -/
def savePages (p : BistParams) : List Nat := (List.range (saveSize p.target / 4096)).map fun i => p.save + 4096 * i

/-- The region goes to its buffer, unless a write fails: the status of that write (R592). -/
def State.saveRegion (s : State) (p : BistParams) : State × Option Status :=
  let r := (savePages p).foldl (fun (r : State × Option Status) a =>
    if r.2.isSome then r
    else if r.1.deadPage a then (r.1, some Status.deadTarget)
    else (r.1.stWrite ((r.1.performer a).getD 8) a ((List.range 4096).map fun i => s.saveByte p (a - p.save + i)) false, none)) (s, none)
  ({ r.1 with drawn := s.drawn + saveSize p.target }, r.2)

/-- A run begins: a bond link leaves service as for training; a memory is saved (R592, R597). -/
def State.beginRun (s : State) (o : Origin) (p : BistParams) : State :=
  let r := if p.target < 4 then s.saveRegion p else (s, none)
  let s1 : State := { r.1 with test := { r.1.test with runs := r.1.test.runs ++ [{ o := o, p := p, saveStatus := r.2 }] } }
  if p.target = 4 then s1.setBond p.index p.sub fun b => { b with state := .train, resolved := false } else s1

/-- BIST_RUN (R590 to R592, R597, R598). -/
def execBistRun (o : Origin) (p : BistParams) (s : State) : Host.Outcome State Fault Refusal :=
  .next (s.commandLong o 0xC0 (s.bistChecks p) fun s => s.beginRun o p)

/-- Places poisoned from one on: n blocks of 64 B. -/
def Memory.poisonAll (m : Memory) (b n : Nat) : Memory :=
  { m with poison := m.poison.filter (fun x => decide (x < b)) ++ (List.range n).map (b + ·)
      ++ m.poison.filter fun x => decide (b + n ≤ x) }

/-- The region as a failed restore leaves it: zeros, poisoned rows and half-lines, reset sheaves, plat entries without VALID (R594; log entry 54). -/
def State.fillRegion (s : State) (p : BistParams) : State :=
  match p.target with
  | 0 =>
    let m := s.mem.erase (inScratch p.index)
    { s with mem := m.poisonAll (spPlace p.index 0 / 64) (spSize / 64) }
  | 1 =>
    let m := s.mem.erase (inKd p.index)
    let s1 : State := { s with mem := (List.range ((s.kd p.index).era + 1)).foldl (fun (m : Memory) (e : Nat) =>
      m.poisonAll ((kdEra * e + kdPlace p.index 0 0 0) / 64) (2 ^ 25)) m }
    s1.modKd p.index fun k => { k with lines := k.lines.map fun l =>
      { l with bytes := (List.range 128).map fun i => (i, 0), poisonLo := true, poisonHi := true } }
  | 2 => { s with sheaves := { s.sheaves with sheaf := s.sheaves.sheaf.filter fun e => sheafBank e.1 != p.index } }
  | _ => { s with plat := { s.plat with entries := [] } }

/-- A page of the buffer back in its place: scratchpad bytes, plat entries; the others stand as they stood (R592; log entry 54). -/
def State.restorePage (s : State) (p : BistParams) (a : Nat) : State :=
  let l := (s.stRead ((s.performer a).getD 8) a 4096).1
  match p.target with
  | 0 => s.wrMem (spPlace p.index (a - p.save)) l
  | 3 => { s with plat := { s.plat with entries := (List.range 512).foldl (fun t i =>
      tset t 0 ((a - p.save) / 8 + i) (BitVec.ofNat 64 (fieldB l (8 * i) 8))) s.plat.entries } }
  | _ => s

/-- The region is restored, or filled when a read fails: the status (R592, R594). -/
def State.restoreRegion (s : State) (p : BistParams) (ok : Bool) : State × Status :=
  if (savePages p).any s.deadPage then (s.fillRegion p, .deadTarget)
  else if !ok then (s.fillRegion p, .poisoned)
  else ((savePages p).foldl (fun s a => s.restorePage p a) s, .done)

/-! ### Failures and repairs (R593, R595, R596) -/

/-- Bank or slice that holds the row of a failure, and the row: 24 banks of 64 B rows, 64 slices of 128 B rows, entries (R209, R215, R592). -/
def bistRow (target addr : Nat) : Nat × Nat :=
  match target with
  | 0 => (addr % spWindow / 64 % 24, addr % spWindow / 64)
  | 1 => (addr % kdWindow / 128 % 64, addr % kdWindow / 128)
  | _ => (0, addr)

/-- Spare rows of one bank, slice or table, and how many of them a region has (R592). -/
def sparesEach (target : Nat) : Nat := ([16, 64, 32, 64] : List Nat).getD target 0
def sparesBanks (target : Nat) : Nat := ([24, 64, 1, 1] : List Nat).getD target 0

/-- Key of the spares of a bank, slice or table. -/
def spareKey (target index bank : Nat) : Nat := target * 65536 + index * 256 + bank

/-- Spares of a region that no repair has used. -/
def sparesLeft (used : Tbl Nat) (target index : Nat) : Nat :=
  ((List.range (sparesBanks target)).map fun b => sparesEach target - tget used 0 (spareKey target index b)).sum

/-- Failing rows are replaced while spares last: the spares used after it, and which failures are repaired (R592, R595). -/
def repairAll (target index : Nat) : List BistFail → List Nat → Tbl Nat → Tbl Nat × List (BistFail × Bool)
  | [], _, used => (used, [])
  | f :: r, done, used =>
    let row := bistRow target f.addr
    let k := spareKey target index row.1
    if done.contains row.2 then
      let x := repairAll target index r done used
      (x.1, (f, true) :: x.2)
    else if tget used 0 k < sparesEach target then
      let x := repairAll target index r (row.2 :: done) (tset used 0 k (tget used 0 k + 1))
      (x.1, (f, true) :: x.2)
    else
      let x := repairAll target index r done used
      (x.1, (f, false) :: x.2)

/-- The result of a run (R593). -/
def bistResultBytes (l : List (BistFail × Bool)) (spares : Nat) : List Byte :=
  let fixed := (l.filter (·.2)).length
  let verdict := if l.isEmpty then 0 else if fixed = l.length then 1 else 2
  leBytes 2 (sat 16 l.length) ++ leBytes 2 (sat 16 fixed) ++ leBytes 2 spares ++ [BitVec.ofNat 8 verdict]
    ++ leBytes 6 ((l.head?.map fun f => f.1.addr).getD 0) ++ [BitVec.ofNat 8 ((l.head?.map fun f => f.1.bitNo).getD 0)]

/-- A run ends: its unit is free, its first 64 failures are held, BIST_FAIL is raised for one left unrepaired, and its record is written (R593, R596, R604). -/
def State.endRun (s : State) (r : BistHold) (l : List (BistFail × Bool)) (spares : Nat) (st : Status) : State :=
  let p := r.p
  let s1 : State := { s with test := { s.test with
    runs := s.test.runs.erase r
    last := { target := p.target, index := p.index, sub := p.sub, fails := l.take 64 }
      :: s.test.last.filter fun x => !(x.target == p.target && x.index == p.index && x.sub == p.sub) } }
  (s1.when (l.any fun f => !f.2) fun s => s.raise ntBistFail).complete r.o 0xC0 st (bistResultBytes l spares)

/-- A memory's run after its march test (R592 to R595). -/
def State.endMemory (s : State) (r : BistHold) (fails : List BistFail) (restoreOk : Bool) : State :=
  match r.saveStatus with
  | some st => s.endRun r [] (sparesLeft s.test.sparesUsed r.p.target r.p.index) st
  | none =>
    let x := if r.p.repair then repairAll r.p.target r.p.index fails [] s.test.sparesUsed
      else (s.test.sparesUsed, fails.map fun f => (f, false))
    let y := s.restoreRegion r.p restoreOk
    let s1 : State := { y.1 with test := { y.1.test with sparesUsed := x.1 } }
    (s1.when (x.2.any (·.2)) fun s => s.markArea areaRepair).endRun r x.2 (sparesLeft x.1 r.p.target r.p.index) y.2

/-- Lanes of a width record that stay marked when a run clears those without an error (R597). -/
def WidthRec.clear (r : WidthRec) (failing : List Nat) : WidthRec :=
  { r with bad := r.bad &&& BitVec.ofNat 136 (maskOf 136 fun i => failing.contains i) }

/-- A bond link after its pattern: marks cleared when asked, and the link trained on the lanes that failed (R476, R597). -/
def Bond.tested (b : Bond) (clear : Bool) (failing : List Nat) : Bond :=
  let b1 := if clear then { b with dieLive := some (b.dieRec.clear failing), baseLive := some (b.baseRec.clear failing) } else b
  let b2 := b1.train failing
  { b2 with state := if b2.state = .out then .out else .up, seq := 0, resolved := false }

/-- A bond link's run: bitNo of a failure is its lane; one in a quarter that is kept is repaired by a spare (R597). -/
def State.endBond (s : State) (r : BistHold) (fails : List BistFail) : State :=
  let b := (s.bond r.p.index r.p.sub).tested r.p.clear (fails.map (·.bitNo))
  let kept := (b.dieRec.qmask).toNat
  let l := fails.map fun f => (f, decide (f.bitNo < 128) && bit kept (f.bitNo / 32))
  ((s.setBond r.p.index r.p.sub fun _ => b).markArea areaWidth).endRun r l (8 - badSpares b.dieRec.bad - b.spares) .done

/-- A coil group's run: addr of a failure is 0 for down and 1 for up, bitNo its coil; with CLEAR the fence is lifted when the spares suffice (R598). -/
def State.endCoil (s : State) (r : BistHold) (fails : List BistFail) : State :=
  let n := r.p.index
  let dn := (fails.filter fun f => f.addr == 0).length
  let up := (fails.filter fun f => f.addr != 0).length
  let lift := r.p.clear && decide (dn ≤ 4) && decide (up ≤ 4)
  let s1 := if lift then
      let s2 := (s.modKd n fun k => { k with fenced := k.fenced &&& ~~~(1#64 <<< r.p.sub) }).modCoil n r.p.sub fun c =>
        { c with dnsp := dn, upsp := up, failures := 0 }
      (s2.capSense [0, n + 1] s).markArea areaRepair
    else s
  s1.endRun r (fails.map fun f => (f, lift)) (8 - min 4 dn - min 4 up) .done

/-- BIST_RUN_COMPLETE: what the test found (R592 to R598). -/
def execBistRunComplete (target index sub : Nat) (fails : List BistFail) (restoreOk : Bool) (s : State) :
    Host.Outcome State Fault Refusal :=
  match s.test.runs.find? fun r => r.p.target == target && r.p.index == index && r.p.sub == sub with
  | none => .next s
  | some r => act true s fun s =>
    if target < 4 then s.endMemory r fails restoreOk else if target = 4 then s.endBond r fails else s.endCoil r fails

/-- BIST_RESULT (R596). -/
def execBistResult (o : Origin) (target index sub n : Nat) (s : State) : Host.Outcome State Fault Refusal :=
  let p : BistParams := { target := target, index := index, sub := sub, repair := false, clear := false, save := 0 }
  let found := ((s.test.last.find? fun x => x.target == target && x.index == index && x.sub == sub).map (·.fails)).getD []
  .next (s.command o 0xC1
    [ (decide (5 < target) || (decide (target < 4) && sub != 0), .badField),
      (!bistUnit p, .outOfRange),
      (decide (found.length ≤ n), .notPresent) ]
    fun s => (s, match found[n]? with
      | some f => leBytes 6 f.1.addr ++ [BitVec.ofNat 8 f.1.bitNo, BitVec.ofNat 8 (b2n f.1.expected + 2 * b2n f.2)]
      | none => []))

/-! ### Optical loopback (R599, R600) -/

/-- The checks of LOOPBACK_RUN (R422, R599). -/
def State.loopChecks (s : State) (st g dur : Nat) : List (Bool × Status) :=
  let t := s.txg st g
  [ (decide (nSt ≤ st) || !isSownTx st g || decide (dur = 0) || decide (15 < dur), .outOfRange),
    (decide (s.readerCount st g ≠ 0) || (decide (t.state ≠ .off) && decide (t.state ≠ .drained)), .wrongState),
    (t.loopback, .busy),
    (!s.stUp st, .wrongState),
    ((s.sta st).halted, .parity) ]

/-- LOOPBACK_RUN: STATE reads OFF during the run, and the station's loopback rings acquire for it (R599). -/
def execLoopbackRun (o : Origin) (st g dur : Nat) (s : State) : Host.Outcome State Fault Refusal :=
  .next (s.commandLong o 0xC2 (s.loopChecks st g dur) fun s =>
    let s1 : State := { s with test := { s.test with
      loops := s.test.loops ++ [{ o := o, st := st, g := g, before := (s.txg st g).state }] } }
    (s1.modTx st g fun t => { t with state := .off, loopback := true }).setRings (loopRings st) .acquire)

/-- Loopback rings that no run of their station uses any more park (R110, R599). -/
def State.parkLoops (s : State) (st : Nat) : State :=
  if s.test.loops.any fun r => r.st == st then s else s.setRings (loopRings st) .parked

/-- Lanes that fail the loopback: a narrow eye or a bit error (R600). -/
def badLanes (eyes : List Nat) (bitErr : Byte) : Byte :=
  bitErr ||| BitVec.ofNat 8 (maskOf 8 fun i => decide (eyes.getD i 0 < 45))

/-- Every check of a loopback run passed (R600). -/
def loopPassed (eyes : List Nat) (bitErr : Byte) (dacInl : Nat) (tia adc : Int) : Bool :=
  decide (badLanes eyes bitErr = 0) && decide (dacInl ≤ 4) && decide (tia.natAbs ≤ 500) && decide (adc.natAbs ≤ 2)

/-- LOOPBACK_RUN_COMPLETE: the group returns to its earlier state, lanes that failed are marked bad, and the record is written (R599, R600, R604). -/
def execLoopbackRunComplete (st g : Nat) (eyes : List Nat) (bitErr : Byte) (dacInl : Nat) (tia adc : Int) (s : State) :
    Host.Outcome State Fault Refusal :=
  match s.test.loops.find? fun r => r.st == st && r.g == g with
  | none => .next s
  | some r => act true s fun s =>
    let s1 : State := { s with test := { s.test with loops := s.test.loops.erase r } }
    let s2 := (s1.parkLoops st).modTx st g fun t =>
      { t with state := r.before, loopback := false, bad := t.bad ||| badLanes eyes bitErr }
    let ok := loopPassed eyes bitErr dacInl tia adc
    (s2.when (!ok) fun s => s.raise ntBistFail).complete r.o 0xC2 .done
      ((List.range 8).map (fun i => BitVec.ofNat 8 (min 255 (eyes.getD i 0))) ++ [bitErr, BitVec.ofNat 8 (min 255 dacInl)]
        ++ leBytes 2 (BitVec.ofInt 16 tia).toNat ++ [BitVec.ofInt 8 adc, BitVec.ofNat 8 (b2n ok)])

end Sys2Proof.Machine
end

