-- ==== Sys2Proof/Machine/Warden.lean ====
section
/-! DEFINITION. The Warden (17): its restarts, the event log, the record areas, sensors, power mode, firmware, identity and
attestation, life cycle and tamper. -/

namespace Sys2Proof.Machine

open Sys2Proof

/-! ### Restarts (R101, R556, R585, R589) -/

/-- The slot that runs, and the other. -/
def Warden.active (w : Warden) : Slot := if w.activeB then w.slotB else w.slotA
def Warden.spare (w : Warden) : Slot := if w.activeB then w.slotA else w.slotB

/-- The running slot, or the other one, changed. -/
def Warden.setActive (w : Warden) (f : Slot → Slot) : Warden :=
  if w.activeB then { w with slotB := f w.slotB } else { w with slotA := f w.slotA }
def Warden.setSpare (w : Warden) (f : Slot → Slot) : Warden :=
  if w.activeB then { w with slotA := f w.slotA } else { w with slotB := f w.slotB }

/-- The Warden changed. -/
def State.setWarden (s : State) (f : Warden → Warden) : State := { s with warden := f s.warden }

/-- A hinge in step 2 ends with a Warden reset: the groups resume on the old input, their windows close at their bound (R101). -/
def State.resumeHinge (s : State) (f : Nat) : State :=
  let s1 := each (s.heldGroups f) (fun x s =>
    let t := s.txg x.1 x.2
    let s1 := (s.modTx x.1 x.2 fun t => { t with hinged := false, held := none }).setTxState x.1 x.2 (if t.enable then .active else t.state)
    match t.held with
    | none => s1
    | some true => s1.enable x.1 x.2
    | some false => s1.disable x.1 x.2) s
  each (feedStanding f) (fun x s => s.modTx x.1 x.2 fun t => { t with dark := t.dark &&& ~~~feedLanes f x.1 x.2 }) s1

/-- Hinges at a Warden reset: in steps 1 and 2 they are aborted, in steps 3 to 5 the base completes them (R101). -/
def State.hingesLeft (s : State) : State :=
  each (List.range 10) (fun f s =>
    let d := s.feed f
    if d.state = .hinge ∧ d.step = 1 then s.abortHinge f .deadTarget
    else if d.state = .hinge ∧ d.step = 2 then (s.resumeHinge f).abortHinge f .deadTarget
    else s) s

/-- A FW_STAGE under way ends with a Warden restart: its slot is EMPTY, its command DEAD_TARGET (R589). -/
def State.endStage (s : State) : State :=
  match s.warden.staging with
  | none => s
  | some o =>
    let s1 : State := { s with rem := { s.rem with jobs := s.rem.jobs.filter fun j => j.opcode != 0xE2 } }
    (s1.setWarden fun w => { (w.setSpare fun _ => Slot.reset) with staging := none }).complete o 0xE2 .deadTarget []

/-- A signing under way ends without a report; its leaf stays used (R589). -/
def State.endAttest (s : State) (st : Status) : State :=
  match s.warden.attest with
  | none => s
  | some a => (s.setWarden fun w => { w with attest := none }).complete a.1 0xE4 st []

/-- The Warden's restart begins: its SRAM clears, with what it was doing (R556, R596); the cause is counted as log code 0x0001 names it. -/
def State.restartWarden (s : State) (cause : Nat) : State :=
  let s1 := ((s.endStage).endAttest .deadTarget).hingesLeft
  { s1 with
    warden := { s1.warden with serving := false, restartCause := cause }
    test := { s1.test with last := [] } }

/-- WATCHDOG_RESTART (R556). -/
def execWatchdogRestart (s : State) : Host.Outcome State Fault Refusal :=
  act s.warden.serving s fun s => s.restartWarden 1

/-- A state of the life cycle in which the identity signs (R582). -/
def canSign (lifecycle : Nat) : Bool := decide (1 ≤ lifecycle) && decide (lifecycle ≤ 3)

/-- WARDEN_RESTART: the Warden serves again; it logs the restart and a tamper, and after a life-cycle change the boot ROM derives the seed where the state allows (R556, R562, R584, R585). -/
def execWardenRestart (s : State) : Host.Outcome State Fault Refusal :=
  act (!s.warden.serving && decide (s.warden.restartCause ≠ 0)) s fun s =>
    let c := s.warden.restartCause
    let s1 := s.setWarden fun w =>
      { w with
        serving := true, restartCause := 0, restarts := inc 16 w.restarts
        seed := if c = 4 then canSign w.lifecycle && !w.tampered else w.seed }
    let s2 := (s1.log 0x0001 0 0xFFFF ([BitVec.ofNat 8 (b2n s1.warden.activeB), BitVec.ofNat 8 c, 0, 0]
      ++ leBytes 4 s1.warden.active.version.toNat)).raise ntWardenRestart
    if c = 3 then (s2.log 0x00A0 3 ntTamper [BitVec.ofNat 8 s.warden.lastKind]).raise ntTamper else s2

/-! ### The log (R563 to R565) -/

/-- Entries that one sector of the log area holds, and its sectors (R564). -/
def sectorEntries : Nat := 2047
def logSectors : Nat := 512

/-- Entries reach flash; a full area has lost its oldest sector, and seconds that dropped entries are counted (R563, R564). -/
def State.flushLog (s : State) : State :=
  let s1 := each (s.warden.perSecond.map (·.1)) (fun c s => s.logDropped c) s
  s1.setWarden fun w =>
    { w with
      flushed := w.logNext
      log := w.log.filter fun e => decide ((w.logNext - 1) / sectorEntries < e.no / sectorEntries + logSectors) }

/-- LOG_FLUSH (R564). -/
def execLogFlush (s : State) : Host.Outcome State Fault Refusal := act s.warden.serving s State.flushLog

/-- The bytes of an entry (R561). -/
def LogEntry.bytes (e : LogEntry) : List Byte :=
  leBytes 6 e.no ++ leBytes 2 e.code ++ leBytes 8 e.ft.toNat ++ [BitVec.ofNat 8 e.sev, 0] ++ leBytes 2 e.unitNo ++ sliceB e.data 0 12

/-- LOG_READ (R565). -/
def execLogRead (o : Origin) (entry count : Nat) (dst : W64) (s : State) : Host.Outcome State Fault Refusal :=
  proxy o 0xE0 false s fun s =>
    s.commandLong o 0xE0 [(decide (count = 0) || decide (8192 < count), .outOfRange)] fun s =>
      let l := (s.warden.log.filter fun e => decide (entry ≤ e.no)).take count
      let oldest := (s.warden.log.head?.map (·.no)).getD s.warden.logNext
      s.startJob { s.newJob o 0xE0 .give (32 * l.length) with
        dst := dst.toNat, data := l.flatMap LogEntry.bytes
        res := leBytes 6 oldest ++ leBytes 6 s.warden.logNext ++ leBytes 2 l.length }

/-! ### Record areas (R569, R571, R595) -/

/-- What a written area holds: the set points, the repair maps, the width records (R475, R481, R571, R595). -/
def State.stored (s : State) (a : Nat) : State :=
  if a = areaLaser then { s with light := { s.light with storedPoints := s.light.setPoints } }
  else if a = areaRepair then
    s.setWarden fun w =>
      { w with
        fences := (List.range 8).foldl (fun t n => tset t 0 n (s.kd n).fenced) w.fences
        storedSpares := s.test.sparesUsed
        laneRepairs := (List.range 12).foldl (fun t h => tset t 0 h (s.hbm h).repairs) w.laneRepairs }
  else if a = areaCalibration then s.setWarden fun w => { w with storedTables := w.tables }
  else if a = areaWidth then { s with power := { s.power with bonds := s.power.bonds.map fun e => (e.1, e.2.store) } }
  else s

/-- STORE_WRITE: a write that fails its check is repeated once (R569). -/
def execStoreWrite (area : Nat) (firstOk secondOk : Bool) (s : State) : Host.Outcome State Fault Refusal :=
  act (s.warden.serving && decide (area < 7) && (s.area area).dirty) s fun s =>
    if firstOk || secondOk then (s.stored area).writeArea area true else s.writeArea area false

/-- REPAIR_RECORD: the repair maps are written (R571, R595). -/
def execRepairRecord (s : State) : Host.Outcome State Fault Refusal :=
  act (s.warden.serving && (s.area areaRepair).dirty) s fun s => (s.stored areaRepair).writeArea areaRepair true

/-! ### Sensors and power mode (R559, R560) -/

/-- Sensors that exist (R559). -/
def sensorOk (kind index : Nat) : Bool :=
  match kind with
  | 0 => decide (index < 512)
  | 1 => decide (index < 18)
  | 2 => decide (index < 18)
  | 3 => decide (index < 10)
  | 4 => decide (index / 16 < nSt) && decide (index % 16 < numBus (index / 16))
  | 5 => decide (index / 512 < nSt) && decide (index % 512 / 8 < numRx (index / 512))
  | _ => decide (index < 20)

/-- VALUE of a sensor and the Field Time of its sample; the reading of a temperature sensor outside the dies and the fields, which no row samples, is open (R559; log entry 62). -/
def State.sensor (s : State) (kind index : Nat) : Int × W64 × State :=
  let at' (i : Nat) : W64 := tget s.warden.sampleFt 0 (65536 * kind + i)
  match kind with
  | 0 =>
    if index < 480 then ((tget s.power.sensors 0 index : Nat), at' index, s)
    else ((s.freeVal : Int), BitVec.ofNat 64 s.draw.freeVal, s.draw.draw)
  | 1 => ((tget s.power.railMv 0 index : Nat), at' index, s)
  | 2 => ((tget s.power.railMa 0 index : Nat), at' index, s)
  | 3 => (tget s.light.feedTap 0 index, at' index, s)
  | 4 => (tget s.light.busTap 0 (busKey (index / 16) (index % 16)), at' (busKey (index / 16) (index % 16)), s)
  | 5 => ((tget s.light.photo 0 index : Nat), at' index, s)
  | _ => (tget s.light.elsPwr 0 index, at' index, s)

/-- SENSOR_READ (R559). -/
def execSensorRead (o : Origin) (kind index : Nat) (s : State) : Host.Outcome State Fault Refusal :=
  proxy o 0xE1 (decide (6 < kind)) s fun s =>
    s.command o 0xE1 [(!sensorOk kind index, .outOfRange)] fun s =>
      let r := s.sensor kind index
      (r.2.2, leBytes 4 (BitVec.ofInt 32 r.1).toNat ++ leBytes 8 r.2.1.toNat)

/-- POWER_MODE (R560). -/
def execPowerMode (o : Origin) (mode : Nat) (setLimit setCap : Bool) (limit cap : Nat) (s : State) :
    Host.Outcome State Fault Refusal :=
  proxy o 0xE6 (mode == 2 || decide (4 ≤ mode)) s fun s =>
    s.command o 0xE6
      [ (setLimit && (decide (limit < 400) || decide (2000 < limit)), .outOfRange),
        (setCap && (decide (cap < 50) || decide (150 < cap)), .outOfRange) ]
      fun s =>
        let s1 : State := { s with power := { s.power with
          mode := if mode = 3 then s.power.mode else mode
          limit := if setLimit then limit else s.power.limit
          dieCap := if setCap then cap else s.power.dieCap } }
        (s1, [BitVec.ofNat 8 (s1.power.mode + 128 * b2n s1.power.fallback), 0] ++ leBytes 2 s1.power.limit ++ leBytes 2 s1.power.dieCap)

/-! ### Firmware (R573 to R577) -/

/-- Fields of an image's header (R573). -/
def imgVersion (l : List Byte) : Nat := fieldB l 4 4
def imgSvn (l : List Byte) : Nat := fieldB l 8 4
def imgBlen (l : List Byte) : Nat := fieldB l 12 4
def imgKey (l : List Byte) : Nat := fieldB l 16 4

/-- An image verifies (R574). -/
def imageOk (svnMin : Nat) (l : List Byte) : Bool :=
  let body := (l.drop 4096).take (imgBlen l)
  decide (imgKey l < 4) && !Config.keyRevoked (imgKey l) && Config.hssVerify (imgKey l) (l.take 64) (sliceB l 64 2964)
    && decide (body.length = imgBlen l) && decide (Config.sha256 body = sliceB l 20 32) && decide (svnMin ≤ imgSvn l)

/-- Log a firmware event (R562). -/
def State.logFw (s : State) (event slot : Nat) (st : Status) (version : Nat) : State :=
  s.log 0x0080 (if st = .done then 0 else 2) 0xFFFF
    ([Config.fwAction event, BitVec.ofNat 8 slot, BitVec.ofNat 8 st.code, 0] ++ leBytes 4 version)

/-- FW_STAGE: the inactive slot takes the image in the background (R557, R576). -/
def execFwStage (o : Origin) (src : W64) (len : Nat) (s : State) : Host.Outcome State Fault Refusal :=
  proxy o 0xE2 false s fun s =>
    s.commandLong o 0xE2 [(decide (len < 4097) || decide (2 ^ 23 < len), .outOfRange), (s.warden.staging.isSome, .busy)] fun s =>
      let s1 := s.setWarden fun w =>
        { (w.setSpare fun _ => { state := .staging, version := 0, svn := 0, image := [] }) with staging := some o }
      s1.startJob { s1.newJob o 0xE2 .take len with src := src.toNat, data := List.replicate len 0 }

/-- The slot and the status that a read of an image gives (R576). -/
def stagedSlot (svnMin : Nat) (worst : Status) (l : List Byte) : Slot × Status :=
  if worst ≠ .done then (Slot.reset, worst)
  else
    let ok := imageOk svnMin l
    ({ state := if ok then .valid else .rejected, version := BitVec.ofNat 32 (imgVersion l), svn := imgSvn l, image := l },
      if ok then .done else .authFail)

/-- FW_STAGE_DONE: the image has been read, or a read has failed (R576). -/
def execFwStageDone (s : State) : Host.Outcome State Fault Refusal :=
  match s.warden.staging, s.rem.jobs.find? fun j => j.opcode == 0xE2 with
  | some o, some j => act (s.warden.serving && decide (j.len ≤ j.done) && j.ops.isEmpty) s fun s =>
    let r := stagedSlot s.warden.svnMin j.worst j.data
    let s1 : State := { s with rem := { s.rem with jobs := s.rem.jobs.filter fun i => i.no != j.no } }
    let s2 := s1.setWarden fun w => { (w.setSpare fun _ => r.1) with staging := none }
    ((s2.writeArea areaBoot true).logFw 0 (b2n !s2.warden.activeB) r.2 r.1.version.toNat).complete o 0xE2 r.2 []
  | _, _ => .next s

/-- The Warden runs the other slot (R576). -/
def Warden.swap (w : Warden) : Warden :=
  let w1 := (w.setActive fun x => { x with state := .valid }).setSpare fun x => { x with state := .active }
  { w1 with activeB := !w.activeB, switchPending := false, trial := true, failedBoots := 0 }

/-- FW_SWITCH (R556, R557, R576, R577). -/
def execFwSwitch (o : Origin) (action : Nat) (s : State) : Host.Outcome State Fault Refusal :=
  proxy o 0xE3 (decide (2 < action)) s fun s =>
    match firstFail
      [ (s.warden.staging.isSome, .busy),
        (decide (action ≤ 1) && decide (s.warden.spare.state ≠ .valid), .notPresent) ] with
    | some st => s.complete o 0xE3 st []
    | none =>
      if action = 2 then
        let s1 := s.setWarden fun w => { w with svnMin := max w.svnMin w.active.svn, trial := false }
        (s1.logFw 2 (b2n s.warden.activeB) .done s.warden.active.version.toNat).complete o 0xE3 .done []
      else
        let s1 := (s.setWarden fun w => { w with switchPending := true }).writeArea areaBoot true
        let s2 := (s1.logFw 1 (b2n !s.warden.activeB) .done s.warden.spare.version.toNat).complete o 0xE3 .done []
        if action = 0 then s2 else (s2.setWarden Warden.swap).restartWarden 2

/-- Areas that hold no valid record at a boot: MISSING shows them, each is logged, and STORE_FAULT is raised (R570). -/
def State.checkAreas (s : State) : State :=
  let gone := (List.range 7).filter fun a => (s.area a).present.isNone
  let s1 := s.setWarden fun w => { w with missing := BitVec.ofNat 8 (maskOf 8 gone.contains) }
  each gone (fun a s => s.log 0x0070 2 ntStoreFault [BitVec.ofNat 8 a, 0, 0]) (s1.sense ntStoreFault s)

/-- The slot a boot takes: the selected one when it verifies, else the other (R575). -/
def Warden.boots (w : Warden) : Option Bool :=
  let first := if w.switchPending then !w.activeB else w.activeB
  let ok (b : Bool) : Bool :=
    let x := if b then w.slotB else w.slotA
    imageOk w.svnMin x.image && decide (x.state ≠ .failed) && decide (x.state ≠ .empty) && decide (x.state ≠ .rejected)
  if ok first then some first else if ok (!first) then some !first else none

/-- The Warden with a slot booted; a first boot of a selected slot is on trial (R575, R588). -/
def Warden.booted (w : Warden) (b : Bool) : Warden :=
  let w1 := if b = w.activeB then w
    else (w.setActive fun x => { x with state := if x.state = .active then .valid else x.state })
  let w2 : Warden := { w1 with activeB := b, switchPending := false, trial := if b = w.activeB then w.trial else w.switchPending }
  w2.setActive fun x => { x with state := .active }

/-- A trial slot has failed twice in a row: FAILED, and the other slot is to boot (R575). -/
def Warden.trialFailed (w : Warden) : Warden :=
  if !w.trial then w
  else if w.failedBoots = 0 then { w with failedBoots := 1 }
  else
    let w1 := w.setActive fun x => { x with state := .failed }
    { w1 with activeB := !w.activeB, trial := false, failedBoots := 0 }

/-- FIRMWARE_BOOT: the boot ROM boots a slot that verifies, and the operand says whether its firmware reports ready within 1 s; with none, both read FAILED or EMPTY and the Warden serves nothing (R570, R575, R578, R612). -/
def execFirmwareBoot (ready : Bool) (s : State) : Host.Outcome State Fault Refusal :=
  act (!s.warden.serving && decide (s.warden.restartCause = 0) && !s.resets.flashOwn) s fun s =>
    match s.warden.boots with
    | none => s.setWarden fun w =>
        let fail (x : Slot) : Slot := if x.state = .empty then x else { x with state := .failed }
        { w with slotA := fail w.slotA, slotB := fail w.slotB }
    | some b =>
      let s1 := s.setWarden fun w => { w.booted b with seed := canSign w.lifecycle && !w.tampered }
      if ready then
        let s2 := s1.setWarden fun w => { w with serving := true, failedBoots := 0 }
        (s2.log 0x0001 0 0xFFFF ([BitVec.ofNat 8 (b2n b), 0, 0, 0] ++ leBytes 4 s2.warden.active.version.toNat)).checkAreas
      else (s1.logFw 3 (b2n b) .timedOut s1.warden.active.version.toNat).setWarden Warden.trialFailed

/-! ### Identity (R578 to R581) -/

/-- Leaves that one reservation takes (R579). -/
def leafBlock : Nat := 256

/-- A reservation of the next leaves, written before any of them signs (R579). -/
def State.reserve (s : State) : State :=
  if s.warden.leafNext < s.warden.leafEnd then s
  else
    let n := s.warden.nextFree
    let s1 := s.setWarden fun w => { w with nextFree := n + leafBlock, leafNext := n, leafEnd := n + leafBlock }
    (s1.writeArea areaCounters true).sense ntLeafLow s

/-- ATTEST: accepted, with the leaf it will use (R579 to R581). -/
def execAttest (o : Origin) (dst : W64) (nonce : List Byte) (s : State) : Host.Outcome State Fault Refusal :=
  proxy o 0xE4 false s fun s =>
    s.commandLong o 0xE4 [(!s.signs, .authFail), (decide (2 ^ 25 ≤ s.warden.nextFree), .outOfRange)] fun s =>
      s.reserve.setWarden fun w => { w with attest := some (o, dst, nonce, w.leafNext), leafNext := w.leafNext + 1 }

/-- The signed part of a report (R580). -/
def State.reportBody (s : State) (nonce : List Byte) : List Byte :=
  let w := s.warden
  leBytes 4 1 ++ leBytes 4 ((s.regVal 0).getD 0) ++ leBytes 8 Config.serial.toNat
    ++ [BitVec.ofNat 8 w.lifecycle, BitVec.ofNat 8 (b2n w.activeB), 0, 0] ++ leBytes 4 w.svnMin ++ leBytes 4 w.active.version.toNat
    ++ sliceB w.active.image 20 32
    ++ (if w.missing.getLsbD areaConfig then List.replicate 32 0 else sliceB (Config.sha256 Config.configBody) 0 32)
    ++ sliceB nonce 0 32 ++ leBytes 8 s.now.toNat ++ leBytes 4 0 ++ sliceB Config.identityKey 0 60

/-- ATTEST_COMPLETE: the report is signed and set out for DST (R580, R581). -/
def execAttestComplete (s : State) : Host.Outcome State Fault Refusal :=
  match s.warden.attest with
  | none => .next s
  | some (o, dst, nonce, leaf) => act (s.warden.serving && s.signs) s fun s =>
    let body := s.reportBody nonce
    let s1 := s.setWarden fun w => { w with attest := none }
    s1.startJob { s1.newJob o 0xE4 .give 5432 with
      dst := dst.toNat, data := body ++ sliceB (Config.identitySign leaf body) 0 5236
      res := leBytes 2 5432 ++ leBytes 4 leaf ++ leBytes 4 (2 ^ 25 - s.warden.nextFree) }

/-! ### Life cycle and tamper (R582 to R585) -/

/-- Secure SRAM is wiped: keys, seed and reservation are gone, and the device leaves its group (R555, R579, R584, R585). -/
def State.wipe (s : State) : State :=
  s.leaveGroup.setWarden fun w => { w with seed := false, leafNext := 0, leafEnd := 0 }

/-- A transition of R583: whether it exists, whether it needs a token, and the paths it takes. -/
def transition (from' to' : Nat) : Option (Bool × (Via → Bool → Bool)) :=
  if from' = 0 ∧ to' = 1 then some (false, fun v _ => decide (v = .smbus))
  else if from' = 1 ∧ to' = 2 then some (false, fun _ _ => true)
  else if (from' = 2 ∧ to' = 3) ∨ (from' = 3 ∧ to' = 2) then some (true, fun _ _ => true)
  else if from' ≠ 0 ∧ to' = 4 then some (false, fun v p2p =>
    decide (v = .smbus) || ((decide (v = .p0) || decide (v = .regacc)) && p2p))
  else none

/-- A token holds (R583). -/
def State.tokenOk (s : State) (target : Nat) (l : List Byte) : Bool :=
  fieldB l 0 4 == 1 && fieldB l 4 8 == Config.serial.toNat && fieldB l 12 1 == s.warden.lifecycle && fieldB l 13 1 == target
    && fieldB l 14 2 == s.warden.lifecycleChanges && decide (fieldB l 16 4 < 4) && !Config.keyRevoked (fieldB l 16 4)
    && Config.hssVerify (fieldB l 16 4) (sliceB l 0 20) (sliceB l 20 2964)

/-- Bytes of a token: those of this device at its address, by pieces that no boundary cuts; what another device holds is open, and so is whether it answers (R583; log entry 53). -/
def State.readToken (s : State) (a : Nat) : List Byte × Status × State :=
  if s.isSelf (a / 2 ^ 44) then
    let r := (cutPieces (a % 2 ^ 44) 2984 4 0).map fun p => s.readNow (a % 2 ^ 44 + p.1) p.2
    (r.flatMap (·.1), worst (r.map (·.2)), s)
  else
    let t := s.route (a / 2 ^ 44)
    let bytes := (List.range 2984).map fun i => BitVec.ofNat 8 (Config.free (s.drawn + 1 + i))
    let st := if t.1 = .done then (if s.freeVal % 2 = 0 then .done else Status.deadTarget) else t.1
    (bytes, st, { s with drawn := s.drawn + 2985 })

/-- The life-cycle state changes (R571, R582, R583, R585). -/
def State.changeLife (s : State) (o : Origin) (target : Nat) : State :=
  let s1 := s.log 0x0090 3 0xFFFF [BitVec.ofNat 8 s.warden.lifecycle, BitVec.ofNat 8 target, BitVec.ofNat 8 (pathCode (viaPath o.via))]
  let s2 := (s1.setWarden fun w => { w with lifecycle := target, lifecycleChanges := w.lifecycleChanges + 1 }).wipe
  let s3 := (s2.complete o 0xE5 .done []).restartWarden 4
  if target = 4 then
    each (List.range 8) (fun d s => s.gateDie d 1) (each (List.range 7) (fun a s =>
      s.modArea a fun _ => { seq0 := none, seq1 := none, dirty := false }) s3)
  else s3.markArea areaConfig

/-- LIFECYCLE_SET (R583, R585). -/
def execLifecycleSet (o : Origin) (target : Nat) (token : W64) (s : State) : Host.Outcome State Fault Refusal :=
  proxy o 0xE5 (decide (4 < target)) s fun s =>
    match transition s.warden.lifecycle target with
      | none => s.complete o 0xE5 .wrongState []
      | some (needs, path) =>
        if !path o.via (s.port 0).p2p then s.complete o 0xE5 .authFail []
        else if !needs then s.changeLife o target
        else
          let r := s.readToken token.toNat
          if r.2.1 ≠ Status.done then r.2.2.complete o 0xE5 r.2.1 []
          else if s.tokenOk target r.1 then r.2.2.changeLife o target
          else r.2.2.complete o 0xE5 .authFail []

/-- TAMPER: secure SRAM is wiped, SIGN is 0 until power-on reset, and the Warden restarts (R584, R585, R589). -/
def execTamper (kind : Nat) (s : State) : Host.Outcome State Fault Refusal :=
  act (decide (1 ≤ kind) && decide (kind ≤ 4) && (kind != 4 || !(s.warden.lifecycle == 0 || s.warden.lifecycle == 3))) s fun s =>
    let s1 := (s.endAttest .authFail).wipe.setWarden fun w =>
      { w with tampered := true, tampers := inc 8 w.tampers, lastKind := kind }
    s1.restartWarden 3

end Sys2Proof.Machine
end

