-- ==== Sys2Proof/Machine/Drill.lean ====
section
/-! DEFINITION. The bridge drill (12, 13): commands as 64 bytes, their header and reserved bits, hoppers, the mailbox, and the
register accesses of commands, of the P0 peer and of other paths (R410 to R422, R424 to R426, R435, R444 to R446, R528, R560,
R565, R576, R580, R583, R586, R590, R596, R599). -/

namespace Sys2Proof.Machine

open Sys2Proof

/-! ### The layout of a command (R418, R424) -/

/-- The bits that a command's parameters may set, as fields of (byte, bits of a little-endian number); none for a reserved opcode (R424). -/
def cmdFields (b : List Byte) : Option (List (Nat × Nat)) :=
  let w8 := 2 ^ 8 - 1
  let w16 := 2 ^ 16 - 1
  let w20 := 2 ^ 20 - 1
  let w32 := 2 ^ 32 - 1
  let w44 := 2 ^ 44 - 1
  let w64 := 2 ^ 64 - 1
  let w256 := 2 ^ 256 - 1
  match fieldB b 0 1 with
  | 0x00 => some []
  | 0x01 => some [(8, w8), (9, 0x9F), (12, w20), (16, w44)]
  | 0x02 => some [(8, w16), (10, 1), (12, w16)]
  | 0x03 => some [(8, w8), (12, w16)]
  | 0x04 => some [(8, w8)]
  | 0x05 => some [(8, w44)]
  | 0x06 => some [(8, w44), (16, w32)]
  | 0x08 => some []
  | 0x09 => some [(8, w8)]
  | 0x0A => some [(8, w8)]
  | 0x0B => some [(8, 0x87)]
  | 0x0C => some [(8, w8)]
  | 0x0D => some [(8, w8)]
  | 0x0E => some [(8, w8)]
  | 0x0F => some []
  | 0x20 => some [(8, w64), (16, w64), (24, w32)]
  | 0x21 => some [(8, w44), (16, w64), (24, w32)]
  | 0x40 => some [(8, w8), (9, 0x3F), (10, 0xBF), (16, w44), (24, w44)]
  | 0x41 => some [(8, w16)]
  | 0x42 => some [(8, w16)]
  | 0x60 => some [(8, w16), (12, w32), (16, w32), (20, w16)]
  | 0x61 => some [(8, w16)]
  | 0x62 => some [(8, w16), (12, w32)]
  | 0x80 => some [(8, w32), (12, 7)]
  | 0x81 => some [(8, w8)]
  | 0x82 => some [(8, w20), (16, w64)]
  | 0x83 => some [(8, w20)]
  | 0x84 => some []
  | 0x85 => some [(16, w64), (24, 0x0F), (25, w8)]
  | 0x86 => some []
  | 0xA0 => some [(8, w8), (10, w16), (12, 3), (13, 0x3F)]
  | 0xA1 => some [(8, w16), (16, w64)]
  | 0xA2 => some [(8, w8), (10, w16)]
  | 0xA3 => some [(8, w32), (12, w8), (13, 0x3F), (16, w64), (24, w256)]
  | 0xA4 => some [(8, w32)]
  | 0xA5 => some []
  | 0xC0 => some ([(8, w16), (10, w8), (11, 3)] ++ if fieldB b 8 1 < 4 then [(16, w44)] else [])
  | 0xC1 => some [(8, w16), (10, w8), (12, w16)]
  | 0xC2 => some [(8, w16), (10, w8)]
  | 0xE0 => some [(8, 2 ^ 48 - 1), (14, w16), (16, w64)]
  | 0xE1 => some [(8, w8), (10, w16)]
  | 0xE2 => some [(8, w64), (16, w32)]
  | 0xE3 => some [(8, w8)]
  | 0xE4 => some [(8, w64), (16, w256)]
  | 0xE5 => some [(8, w8), (16, w64)]
  | 0xE6 => some [(8, 3), (9, 3), (12, w32)]
  | 0xE8 => some [(8, w8), (9, 1)]
  | 0xE9 => some [(8, w8)]
  | 0xEA => some [(8, w16), (12, w32)]
  | 0xEB => some (if bit (fieldB b 8 1) 0 then [(8, 1), (16, w64), (32, w256)]
      else [(8, 7), (9, 0x3F), (10, w16), (12, w20), (16, w20), (20, w20), (24, w20), (32, w256)])
  | 0xEC => some []
  | _ => none

/-- The number that fields of (byte, bits) make of the 56 bytes of parameters. -/
def fieldsMask (l : List (Nat × Nat)) : Nat := (l.map fun f => f.2 * 2 ^ (8 * (f.1 - 8))).sum

/-- A reserved bit of the header or of the parameters is set (R418). -/
def strayBits (b : List Byte) (l : List (Nat × Nat)) : Bool :=
  bits (fieldB b 1 1) 7 6 != 0 || bits (fieldB b 6 1) 7 1 != 0 || fieldB b 7 1 != 0
    || (fieldB b 8 56 ||| fieldsMask l) != fieldsMask l

/-- A field holds a reserved code (R380, R559, R560, R576, R582, R586, R590). -/
def strayCode (b : List Byte) : Bool :=
  let p := fieldB b 8 1
  match fieldB b 0 1 with
  | 0xA0 => fieldB b 12 1 == 3
  | 0xC0 => decide (5 < p)
  | 0xC1 => decide (5 < p)
  | 0xE1 => decide (6 < p)
  | 0xE3 => decide (2 < p)
  | 0xE5 => decide (4 < p)
  | 0xE6 => p == 2
  | 0xEB => !bit p 0 && bits p 2 1 == 3
  | _ => false

/-- Steps 1 and 2 of R422. -/
def cmdBad (b : List Byte) : Option Status :=
  match cmdFields b with
  | none => some .badOpcode
  | some l => if strayBits b l || strayCode b then some .badField else none

/-! ### What a command does (R422, R424) -/

/-- The state that a meaning answers. -/
def ran (s : State) : Host.Outcome State Fault Refusal → State
  | .next t => t
  | _ => s

/-- A write of a register by a command, which completes with what becomes of the write (R425, R435, R445). -/
def State.regwrCmd (s : State) (o : Origin) (addr : Nat) (data : W32) : State :=
  let r := s.regWrite (viaPath o.via) o.via addr data
  r.1.complete o 0x06 r.2 []

/-- The kind of table that TABLE names (R426). -/
def tableOf : Nat → Option SowTable
  | 0 => some .core
  | 1 => some .station
  | 2 => some .port
  | _ => none

/-- A command of an opcode that the drill or a unit other than the Warden carries out, with its parameters read from its bytes (R424). -/
def State.runCommand (s : State) (o : Origin) (b : List Byte) : State :=
  let p8 := fieldB b 8 1
  let p9 := fieldB b 9 1
  let p8w := fieldB b 8 2
  let p10w := fieldB b 10 2
  let p12w := fieldB b 12 2
  match fieldB b 0 1 with
  | 0x00 => ran s (execNop (.host o) s)
  | 0x01 => ran s (execRingSet o p8 (p9 % 32) (bit p9 7) (fieldB b 12 3) (BitVec.ofNat 44 (fieldB b 16 6)) s)
  | 0x02 => ran s (execHopperSet o p8 p9 (bit (fieldB b 10 1) 0) (BitVec.ofNat 16 p12w) s)
  | 0x03 => ran s (execHopperClear o p8 (BitVec.ofNat 16 p12w) s)
  | 0x04 => ran s (execCapRead o p8 s)
  | 0x05 => ran s (execRegrd o (fieldB b 8 6) s)
  | 0x06 => s.regwrCmd o (fieldB b 8 6) (BitVec.ofNat 32 (fieldB b 16 4))
  | 0x08 => ran s (execWarmReset o s)
  | 0x09 => ran s (execFieldReset o p8 s)
  | 0x0A => ran s (execFieldEnable o p8 s)
  | 0x0B => ran s (execDieReset o (p8 % 8) (bit p8 7) s)
  | 0x0C => ran s.draw (execDieRejoin o p8 ((s.die p8).refMissing && s.freeVal % 2 == 1) ((s.die p8).railOut && s.freeVal / 2 % 2 == 1) s.draw)
  | 0x0D => ran s (execCoreReset o p8 s)
  | 0x0E => ran s (execPortReset o p8 s)
  | 0x0F => ran s (execMasterTakeover o s)
  | 0x20 => ran s (execMemCopy o (BitVec.ofNat 64 (fieldB b 8 8)) (BitVec.ofNat 64 (fieldB b 16 8)) (fieldB b 24 4) s)
  | 0x21 => ran s (execMemFill o (fieldB b 8 6) (BitVec.ofNat 64 (fieldB b 16 8)) (fieldB b 24 4) s)
  | 0x40 => match launchOf b with
    | some p => ran s (execCtxLaunch o p s)
    | none => s.complete o 0x40 .badField []
  | 0x41 => ran s (execCtxStop o p8 p9 s)
  | 0x42 => ran s (execCtxResume o p8 p9 s)
  | 0x60 => ran s (execSheafInit o p8w (BitVec.ofNat 32 (fieldB b 12 4)) (BitVec.ofNat 32 (fieldB b 16 4)) (BitVec.ofNat 16 (fieldB b 20 2)) s)
  | 0x61 => ran s (execSheafRead o p8w s)
  | 0x62 => ran s (execSheafAdd o p8w (BitVec.ofNat 32 (fieldB b 12 4)) s)
  | 0x80 => match rmapOf b with
    | some p => ran s (execRmapSet o p s)
    | none => s.complete o 0x80 .badField []
  | 0x81 => ran s (execRmapBolt o p8 s)
  | 0x82 => ran s (execPlatSet o (fieldB b 8 3) (BitVec.ofNat 64 (fieldB b 16 8)) s)
  | 0x83 => ran s (execPlatGet o (fieldB b 8 3) s)
  | 0x84 => ran s (execPlatBolt o s)
  | 0x85 => ran s (execHashSet o (BitVec.ofNat 64 (fieldB b 16 8)) (BitVec.ofNat 4 (fieldB b 24 1)) (BitVec.ofNat 8 (fieldB b 25 1)) s)
  | 0x86 => ran s (execHashBolt o s)
  | 0xA0 => ran s (execCalSet o p8 p10w (fieldB b 12 1) (fieldB b 13 1) s)
  | 0xA1 => ran s (execCalDset o p8 p9 (BitVec.ofNat 64 (fieldB b 16 8)) s)
  | 0xA2 => ran s (execCalGet o p8 p10w s)
  | 0xA3 => match tableOf p8 with
    | some t => ran s (execSowSet o { table := t, unitNo := p9, sowid := BitVec.ofNat 16 p10w, kind := fieldB b 12 1, ring := fieldB b 13 1
                                      ft := BitVec.ofNat 64 (fieldB b 16 8), action := sliceB b 24 32 } s)
    | none => s.complete o 0xA3 .outOfRange []
  | 0xA4 => match tableOf p8 with
    | some t => ran s (execSowCancel o t p9 (BitVec.ofNat 16 p10w) s)
    | none => s.complete o 0xA4 .outOfRange []
  | 0xA5 => ran s (execFtResync o s)
  | 0xC0 => ran s (execBistRun o { target := p8, index := p9, sub := fieldB b 10 1, repair := bit (fieldB b 11 1) 0
                                   clear := bit (fieldB b 11 1) 1, save := fieldB b 16 6 } s)
  | 0xC1 => ran s (execBistResult o p8 p9 (fieldB b 10 1) p12w s)
  | _ => ran s (execLoopbackRun o p8 p9 (fieldB b 10 1) s)

/-- A command starts: steps 1 and 2 of R422, then its unit or, for a proxy command, the Warden's queue (R422, R423). -/
def State.perform (s : State) (o : Origin) (b : List Byte) : State :=
  match cmdBad b with
  | some st => s.complete o (fieldB b 0 1) st []
  | none =>
    if 0xE0 ≤ fieldB b 0 1 then { s with bridge := { s.bridge with proxies := s.bridge.proxies ++ [(o, b)] } }
    else s.runCommand o b

/-- The 64 bytes that the mailbox holds (R439). -/
def State.mboxBytes (s : State) : List Byte := (List.range 16).flatMap fun i => leBytes 4 (tget s.bridge.mboxCmd 0 i).toNat

/-- After a write of GO the mailbox command starts; it arrives by the path that wrote GO, and QUIET has no effect (R435). -/
def State.startMbox (s : State) : State :=
  match s.bridge.mboxGo with
  | none => s
  | some via =>
    let b := s.mboxBytes
    ({ s with bridge := { s.bridge with mboxGo := none } } : State).perform
      { mbox := true, hopper := fieldB b 1 1 % 64, tag := BitVec.ofNat 16 (fieldB b 2 2), quiet := false, via := via } b

/-! ### Register writes by every path (R424, R435, R444 to R446) -/

/-- REGWR (R424, R425). -/
def execRegwr (o : Origin) (addr : Nat) (data : W32) (s : State) : Host.Outcome State Fault Refusal :=
  .next (s.regwrCmd o addr data).startMbox

/-- The path of the mailbox that a write of GO sets (R435). -/
def pathVia : Path → Via
  | .regacc => .regacc
  | .command => .p0
  | _ => .smbus

/-- REGISTER_WRITE (R444 to R446). -/
def execRegisterWrite (via : Path) (addr : Nat) (data : W32) (s : State) : Host.Outcome State Fault Refusal :=
  act (via != .unitLate) s fun s => (s.regWrite via (pathVia via) addr data).1.startMbox

/-- CMD_MBOX_GO (R435). -/
def execCmdMboxGo (via : Via) (s : State) : Host.Outcome State Fault Refusal :=
  .next (s.regWrite (viaPath via) via (regBase + 0x50040) 0x80000000).1.startMbox

/-- REGDATA sets out for the P0 peer (R417). -/
def State.sendRegData (s : State) (st : Status) (data : W32) : State :=
  let p := withHdr (s.ctlPacket 0 0x84 (List.replicate 8 0 ++ leBytes 4 data.toNat ++ List.replicate 4 0)) fun h =>
    { h with status := st.code }
  s.toPort bridgeStop 0 0 p none

/-- An address lies in the WD_ block. -/
def inWd (a : Nat) : Bool := decide (regBase ≤ a) && decide (a < regBase + 0x10000)

/-- REGACC: from the P0 peer alone; until PHASE reads READY only the WD_ block is read (R417, R444, R446, R528). -/
def execRegacc (s : State) : Host.Outcome State Fault Refusal :=
  match s.takeCtl 0x83 with
  | none => .next s
  | some (e, s1) => act true s fun s =>
    let a := fieldB e.2.1.data 0 6
    let write := bit (fieldB e.2.1.data 6 1) 0
    if e.1 ≠ 0 ∨ !(s.port 0).p2p then s1
    else if s.resets.phase ≠ .ready ∧ (write || !inWd a) then s1.sendRegData .notPresent 0
    else if write then
      let r := s1.regWrite .regacc .regacc a (BitVec.ofNat 32 (fieldB e.2.1.data 8 4))
      (r.1.sendRegData r.2 0).startMbox
    else
      let r := s1.regRead a
      r.2.2.sendRegData r.1 r.2.1

/-! ### Commands arrive (R410, R411, R415, R416, R419, R421, R528) -/

/-- A COMMAND packet is discarded and counted in PORT_FRM MISADDR. -/
def State.misaddressed (s : State) (p : Nat) : State := s.modPort p fun q => { q with misaddr := inc 10 q.misaddr }

/-- A hopper holds a command with an HSEQ, waiting or running (R419). -/
def Hopper.holds (h : Hopper) (q : BitVec 16) : Bool :=
  (h.held.any fun c => hseqOf c.bytes == q) || (h.running.isSome && !h.cleared && h.next == q)

/-- HOPPER_APPEND: a command joins its hopper or is discarded (R419, R421). -/
def State.append (s : State) (c : HeldCmd) : State :=
  let i := c.origin.hopper
  let h := s.hopper i
  let d := (hseqOf c.bytes - h.next).toNat
  if !h.bound then s.modHopper i fun h => { h with dropped := inc 16 h.dropped }
  else if (d < 128 ∧ h.holds (hseqOf c.bytes)) ∨ 65408 ≤ d then s.modHopper i fun h => { h with dup := inc 16 h.dup }
  else if d < 128 then s.modHopper i fun h => { h with held := h.held ++ [c] }
  else (s.modHopper i fun h => { h with dropped := inc 16 h.dropped }).raise ntHopperDrop

/-- A command turned away for its epoch changes nothing but writes its record, if its hopper has a ring (R410, R411, R421, R441). -/
def State.turnAway (s : State) (c : HeldCmd) (st : Status) : State :=
  if (s.hopper c.origin.hopper).bound then s.sendRecord (s.cmdRecord c.origin (fieldB c.bytes 0 1) st [])
  else s.modHopper c.origin.hopper fun h => { h with dropped := inc 16 h.dropped }

/-- A command that came from another device of the group (R410, R414, R415). -/
def State.groupCommand (s : State) (p src : Nat) (e : BitVec 16) (b : List Byte) : State :=
  let c : HeldCmd := { bytes := b, via := .relayed }
  let g := s.group
  if !(g.valid && (g.master == some src || g.backup == some src || g.prevMaster == some src)) then s.misaddressed p
  else if e = g.epoch then s.append c
  else if newerEpoch e g.epoch then
    if g.backup = some src then (s.adoptEpoch e src).append c else s.turnAway c .wrongState
  else if g.overlap && e == g.prevEpoch then s.append c
  else s.turnAway c .staleEpoch

/-- A command from the adapter of P0 (R411, R415, R416, R183). -/
def State.adapterCommand (s : State) (pkt : Packet) (b : List Byte) : State :=
  let dest := (hdr pkt).dest
  if dest = 0xFFFFF then s.misaddressed 0
  else if s.isSelf dest then
    let c : HeldCmd := { bytes := b, via := .p0 }
    if s.group.demoted then s.turnAway c .staleEpoch else s.append c
  else if s.group.role = 1 then
    s.relay 0 bridgeStop { pkt with ext := ({ extOf pkt.ext with epoch := s.group.epoch.toNat } : Ext).enc }
  else s.relay 0 bridgeStop pkt

/-- COMMAND: the oldest COMMAND packet at the host bridge (R415, R528). -/
def execCommand (s : State) : Host.Outcome State Fault Refusal :=
  match s.takeCtl 0x80 with
  | none => .next s
  | some (e, s1) => act true s fun s =>
    let b := sliceB e.2.1.data 0 64
    if s.resets.phase ≠ .ready then s1
    else if e.1 = 0 && (s.port 0).p2p then s1.adapterCommand e.2.1 b
    else s1.groupCommand e.1 (srcOf e.2.1) (BitVec.ofNat 16 (extOf e.2.1.ext).epoch) b

/-! ### Hoppers start commands (R419, R420, R430, R431) -/

/-- The command that a hopper would start next. -/
def Hopper.nextCmd (h : Hopper) : Option HeldCmd := h.held.find? fun c => hseqOf c.bytes == h.first

/-- HOPPER_START: bound, nothing running, the lowest HSEQ held, and a place for its record (R420, R421, R430, R431). -/
def execHopperStart (h : Nat) (s : State) : Host.Outcome State Fault Refusal :=
  match (s.hopper h).nextCmd with
  | none => .next s
  | some c => act (decide (h < 64) && (s.hopper h).bound && (s.hopper h).running.isNone && s.ringRoom (s.hopper h).ring && s.placeFree) s
      fun s =>
    let o : Origin := { c.origin with hopper := h }
    ((s.modHopper h fun x => { x with held := x.held.erase c, running := some o, cleared := false }).perform o c.bytes).startMbox

end Sys2Proof.Machine
end

