-- ==== Sys2Proof/Machine/Pins.lean ====
section
/-! DEFINITION. The pins and the rails: orderly power-down, power-on reset, and loss of power (R513 to R515, R522, R525, R526,
R548, R564, R568 to R572, R579, R582, R589, R612, R613, R615). -/

namespace Sys2Proof.Machine

open Sys2Proof

/-! ### What outlives a power-on reset -/

/-- A slot as the boot header holds it: one that a stage was filling is EMPTY (R589). -/
def Slot.kept (x : Slot) : Slot := if x.state = .staging then Slot.reset else x

/-- What the fuses, the flash and the log hold of the Warden; a reservation of leaves is discarded (R564, R571, R577, R579, R582). -/
def Warden.kept (w : Warden) : Warden :=
  { Warden.reset with
    serving := false
    log := w.log, logNext := w.logNext, flushed := w.flushed
    slotA := w.slotA.kept, slotB := w.slotB.kept
    activeB := w.activeB, switchPending := w.switchPending, trial := w.trial, failedBoots := w.failedBoots
    svnMin := w.svnMin, lifecycle := w.lifecycle, lifecycleChanges := w.lifecycleChanges
    nextFree := w.nextFree
    areas := w.areas.map fun e => (e.1, { e.2 with dirty := false })
    fences := w.fences, storedSpares := w.storedSpares, laneRepairs := w.laneRepairs
    tables := w.storedTables, storedTables := w.storedTables
    incStored := w.incStored }

/-- An area has a valid record (R570). -/
def State.holds (s : State) (a : Nat) : Bool := (s.area a).present.isSome

/-- Set points as the boot finds them (R79, R570). -/
def State.bootPoints (s : State) : Tbl (Option Settle) := if s.holds areaLaser then s.light.storedPoints else []

/-- A feed as it comes up: input A passes, an input left by a swing stays used, and the reference is the one its record holds (R78, R79, R105). -/
def State.bootFeed (s : State) (f : Nat) : Feed :=
  { Feed.reset with
    usableA := (s.feed f).usableA, usableB := (s.feed f).usableB
    reference := ((tget s.bootPoints none (feedOutput f false)).map (·.power)).getD 0 }

/-- A bond link as it comes up: both sides' stored records, or none (R475, R570). -/
def State.bootBond (s : State) (b : Bond) : Bond :=
  if s.holds areaWidth then { Bond.reset with dieStored := b.dieStored, baseStored := b.baseStored } else Bond.reset

/-- The incarnation of a power-on: one more than the stored one, or open when no counters record is valid (R392, R570). -/
def State.bootInc (s : State) : Byte := if s.holds areaCounters then s.warden.incStored + 1 else BitVec.ofNat 8 s.freeVal

/-- Everything a power-on reset begins anew, and what it takes from the store (R154, R392, R521, R571). -/
def State.fresh (s : State) (inc : Byte) : State :=
  { State.reset with
    pending := s.pending
    light := { State.reset.light with
      feeds := (List.range 10).foldl (fun t f => tset t Feed.reset f (s.bootFeed f)) []
      setPoints := s.bootPoints, storedPoints := s.bootPoints }
    group := { Group.reset with inc := inc }
    power := { Power.reset with
      bonds := (s.power.bonds.map fun e => (e.1, s.bootBond e.2)).filter fun e => decide (e.2 ≠ Bond.reset)
      tripValid := s.power.tripValid, tripKind := s.power.tripKind, tripIndex := s.power.tripIndex
      tripTemp := s.power.tripTemp, tripCount := s.power.tripCount }
    resets := { Resets.reset with cause := if s.power.tripped then 2 else 0 }
    warden := { s.warden.kept with
      incStored := inc
      tables := if s.holds areaCalibration then s.warden.storedTables else []
      laneRepairs := if s.holds areaRepair then s.warden.laneRepairs else [] }
    test := { SelfTest.reset with sparesUsed := if s.holds areaRepair then s.warden.storedSpares else [] }
    out := s.out
    drawn := s.drawn + 1 }

/-- The package right after a power-on reset, from what outlives it (R392, R481, R513, R520, R525, R548, R570, R571, R582, R595). -/
def State.poweredOn (s : State) : State :=
  let inc := s.bootInc
  let s1 := s.fresh inc
  let s2 := if s.holds areaRepair then
      each (List.range 8) (fun n s => s.modKd n fun k => { k with fenced := tget s.warden.fences 0 n }) s1
    else s1
  let s3 := if s.warden.lifecycle = 4 then
      each (List.range 8) (fun d s => s.modDie d fun x => { x with state := .gated, gcause := 1, gates := 1 }) s2
    else s2
  s3.markArea areaCounters

/-! ### Orderly power-down and loss of power -/

/-- The Warden writes every pending record and log entry (R144, R571, R572). -/
def State.writeAll (s : State) : State :=
  let due := (List.range 7).filter fun a => (s.area a).dirty || (a == areaCalibration && s.warden.tablesRefined)
  (each due (fun a s => (s.stored a).writeArea a true) s).flushLog

/-- The memory stations begin to bring up their stacks: how far each has come before bring-up ends, training or zeroing, is open (R195; log entry 86). -/
def State.startStacks (s : State) : State :=
  each (List.range 12) (fun h s =>
    s.draw.modHbm h fun x => { x with state := if s.freeVal % 2 = 0 then .train else .zero }) s

/-- A field starts as the package comes up: it warms up when it is cold, else its standing rings acquire (R112, R145). -/
def State.powerField (s : State) (k : Nat) (cold : Bool) : State :=
  if cold then s.modField k fun f => { f with state := .warmup }
  else (s.modField k fun f => { f with state := .enabling }).acquireField k

/-- PORESET: a pulse of 1 µs or more, unless THERMTRIP# is low: the Warden writes what waits when the flash is its own, and power-on reset takes hold; the straps are sampled and the fields start (R112, R515, R525, R526, R572, R612, R613, R615). -/
def execPoreset (widthNs straps : Nat) (cold : List Nat) (s : State) : Host.Outcome State Fault Refusal :=
  act (decide (1000 ≤ widthNs) && !s.power.thermtrip) s fun s =>
    let s1 := (s.when (!s.resets.flashOwn) State.writeAll).poweredOn
    let s2 : State := { s1 with resets := { s1.resets with smbAddr := straps % 8, flashOwn := bit straps 3 } }
    (each (List.range 4) (fun k s => s.powerField k (cold.contains k)) s2).startStacks

/-- The log as the flash holds it (R564). -/
def Warden.unflushed (w : Warden) : Warden := { w with log := w.log.filter fun e => decide (e.no < w.flushed), flushed := w.logNext }

/-- POWER_LOSS: what waited to be written is lost, and power returns (R522, R564, R568, R569, R579, R589). -/
def execPowerLoss (s : State) : Host.Outcome State Fault Refusal :=
  .next ((s.setWarden Warden.unflushed).poweredOn)

end Sys2Proof.Machine
end

