-- ==== Sys2Proof/Machine/Dispatch.lean ====
section
/-! DEFINITION. One arm for each command: a direct call of its meaning. -/

namespace Sys2Proof.Machine

open Sys2Proof

/-- The effect of a command on everything but the queue of commands. -/
def exec (i : Instr) (s : State) : Host.Outcome State Fault Refusal :=
  match i with
  | .grainReceive st rg g => Sys2Proof.Machine.execGrainReceive st rg g s
  | .ackSend st rg => Sys2Proof.Machine.execAckSend st rg s
  | .ackReceive st rd rec => Sys2Proof.Machine.execAckReceive st rd rec s
  | .nakReceive st rd rec => Sys2Proof.Machine.execNakReceive st rd rec s
  | .replayTimeout st g => Sys2Proof.Machine.execReplayTimeout st g s
  | .grainSend st g => Sys2Proof.Machine.execGrainSend st g s
  | .groupLeaveService st g => Sys2Proof.Machine.execGroupLeaveService st g s
  | .laneMarkedBad st g lane => Sys2Proof.Machine.execLaneMarkedBad st g lane s
  | .groupRetrainEnd st g => Sys2Proof.Machine.execGroupRetrainEnd st g s
  | .groupFaultRecover st g => Sys2Proof.Machine.execGroupFaultRecover st g s
  | .rmapSet o p => Sys2Proof.Machine.execRmapSet o p s
  | .rmapChangeStart st rg => Sys2Proof.Machine.execRmapChangeStart st rg s
  | .rmapDrainTimeout st rg => Sys2Proof.Machine.execRmapDrainTimeout st rg s
  | .groupDrained st g => Sys2Proof.Machine.execGroupDrained st g s
  | .entryLocked st rg => Sys2Proof.Machine.execEntryLocked st rg s
  | .rmapFault st rg => Sys2Proof.Machine.execRmapFault st rg s
  | .autoEnable st g => Sys2Proof.Machine.execAutoEnable st g s
  | .lgTxcfgWrite via st g data => Sys2Proof.Machine.execLgTxcfgWrite via st g data s
  | .narrowNetMessage node => Sys2Proof.Machine.execNarrowNetMessage node s
  | .ringHop stop => Sys2Proof.Machine.execRingHop stop s
  | .feedCommission o feed inputB m unlocked => Sys2Proof.Machine.execFeedCommission o feed inputB m unlocked s
  | .feedTapSample f sample avg => Sys2Proof.Machine.execFeedTapSample f sample avg s
  | .hardFailRecover f unlocked => Sys2Proof.Machine.execHardFailRecover f unlocked s
  | .hingeStart o f => Sys2Proof.Machine.execHingeStart o f s
  | .hingeDrain f => Sys2Proof.Machine.execHingeDrain f s
  | .hingeSwing f => Sys2Proof.Machine.execHingeSwing f s
  | .hingeRestore f unlocked => Sys2Proof.Machine.execHingeRestore f unlocked s
  | .hingeRelease f => Sys2Proof.Machine.execHingeRelease f s
  | .elsPresenceCheck m answers ident factory => Sys2Proof.Machine.execElsPresenceCheck m answers ident factory s
  | .warmUpEnd k => Sys2Proof.Machine.execWarmUpEnd k s
  | .lockCold k => Sys2Proof.Machine.execLockCold k s
  | .temperatureSample loc readings => Sys2Proof.Machine.execTemperatureSample loc readings s
  | .lockLoopUpdate r errMilliK => Sys2Proof.Machine.execLockLoopUpdate r errMilliK s
  | .lockLossTrip r => Sys2Proof.Machine.execLockLossTrip r s
  | .ringRelock r => Sys2Proof.Machine.execRingRelock r s
  | .ringBad r => Sys2Proof.Machine.execRingBad r s
  | .calibrationStart st rg cause => Sys2Proof.Machine.execCalibrationStart st rg cause s
  | .calibrationApply st rg r => Sys2Proof.Machine.execCalibrationApply st rg r s
  | .lgCalcfgForce via st data => Sys2Proof.Machine.execLgCalcfgForce via st data s
  | .packetArrive st rg => Sys2Proof.Machine.execPacketArrive st rg s
  | .packetSend st rd vc => Sys2Proof.Machine.execPacketSend st rd vc s
  | .creditRecordSend st w vc => Sys2Proof.Machine.execCreditRecordSend st w vc s
  | .creditRepeat st => Sys2Proof.Machine.execCreditRepeat st s
  | .creditRecordReceive st rd rec => Sys2Proof.Machine.execCreditRecordReceive st rd rec s
  | .baseCrallocWrite via st w vc data => Sys2Proof.Machine.execBaseCrallocWrite via st w vc data s
  | .platSet o id entry => Sys2Proof.Machine.execPlatSet o id entry s
  | .platGet o id => Sys2Proof.Machine.execPlatGet o id s
  | .platBolt o => Sys2Proof.Machine.execPlatBolt o s
  | .mcastFirstAttempt st => Sys2Proof.Machine.execMcastFirstAttempt st s
  | .remnantRetransmit st id => Sys2Proof.Machine.execRemnantRetransmit st id s
  | .mcastComplete st id => Sys2Proof.Machine.execMcastComplete st id s
  | .mcastPartial st id => Sys2Proof.Machine.execMcastPartial st id s
  | .selfRefreshEnter h => Sys2Proof.Machine.execSelfRefreshEnter h s
  | .selfRefreshExit h => Sys2Proof.Machine.execSelfRefreshExit h s
  | .hashSet o key msmask stksel => Sys2Proof.Machine.execHashSet o key msmask stksel s
  | .hashBolt o => Sys2Proof.Machine.execHashBolt o s
  | .scrub h blk badSymbols => Sys2Proof.Machine.execScrub h blk badSymbols s
  | .kdSplitWrite n data => Sys2Proof.Machine.execKdSplitWrite n data s
  | .kdRemapWrite n slice data => Sys2Proof.Machine.execKdRemapWrite n slice data s
  | .spUe core row correctable => Sys2Proof.Machine.execSpUe core row correctable s
  | .remoteOpPerform st bad => Sys2Proof.Machine.execRemoteOpPerform st bad s
  | .load st bad => Sys2Proof.Machine.execLoad st bad s
  | .store st bad => Sys2Proof.Machine.execStore st bad s
  | .atomic st bad => Sys2Proof.Machine.execAtomic st bad s
  | .reduction st bad => Sys2Proof.Machine.execReduction st bad s
  | .mcastStorePacket st => Sys2Proof.Machine.execMcastStorePacket st s
  | .loadData st => Sys2Proof.Machine.execLoadData st s
  | .ack st => Sys2Proof.Machine.execAck st s
  | .atomicResult st => Sys2Proof.Machine.execAtomicResult st s
  | .atomicReplayed st => Sys2Proof.Machine.execAtomicReplayed st s
  | .fault st => Sys2Proof.Machine.execFault st s
  | .dead st => Sys2Proof.Machine.execDead st s
  | .receiptFilled share => Sys2Proof.Machine.execReceiptFilled share s
  | .receiptExpire share => Sys2Proof.Machine.execReceiptExpire share s
  | .rackOpResend id => Sys2Proof.Machine.execRackOpResend id s
  | .rackOpGiveup id => Sys2Proof.Machine.execRackOpGiveup id s
  | .deadTargetTimeout id => Sys2Proof.Machine.execDeadTargetTimeout id s
  | .refusalBackoffEnd fdst => Sys2Proof.Machine.execRefusalBackoffEnd fdst s
  | .fenceComplete core ctx => Sys2Proof.Machine.execFenceComplete core ctx s
  | .ctxLaunch o p => Sys2Proof.Machine.execCtxLaunch o p s
  | .ctxStop o core ctx => Sys2Proof.Machine.execCtxStop o core ctx s
  | .ctxResume o core ctx => Sys2Proof.Machine.execCtxResume o core ctx s
  | .stoppingEnd core ctx => Sys2Proof.Machine.execStoppingEnd core ctx s
  | .sequencerIssue core => Sys2Proof.Machine.execSequencerIssue core s
  | .prefetchRefill core ctx => Sys2Proof.Machine.execPrefetchRefill core ctx s
  | .fetchArrive core ctx => Sys2Proof.Machine.execFetchArrive core ctx s
  | .nop at' => Sys2Proof.Machine.execNop at' s
  | .endList core ctx => Sys2Proof.Machine.execEndList core ctx s
  | .contextEntersIdle core ctx => Sys2Proof.Machine.execContextEntersIdle core ctx s
  | .loop core ctx => Sys2Proof.Machine.execLoop core ctx s
  | .endloop core ctx => Sys2Proof.Machine.execEndloop core ctx s
  | .call core ctx => Sys2Proof.Machine.execCall core ctx s
  | .ret core ctx => Sys2Proof.Machine.execRet core ctx s
  | .branch core ctx => Sys2Proof.Machine.execBranch core ctx s
  | .setb core ctx => Sys2Proof.Machine.execSetb core ctx s
  | .addb core ctx => Sys2Proof.Machine.execAddb core ctx s
  | .ldb core ctx => Sys2Proof.Machine.execLdb core ctx s
  | .tokclr core ctx => Sys2Proof.Machine.execTokclr core ctx s
  | .shTake core ctx => Sys2Proof.Machine.execShTake core ctx s
  | .shAdd core ctx => Sys2Proof.Machine.execShAdd core ctx s
  | .shDrain core ctx => Sys2Proof.Machine.execShDrain core ctx s
  | .sheafAnswer core ctx => Sys2Proof.Machine.execSheafAnswer core ctx s
  | .waitt core ctx => Sys2Proof.Machine.execWaitt core ctx s
  | .waittEnd core ctx => Sys2Proof.Machine.execWaittEnd core ctx s
  | .waitc core ctx => Sys2Proof.Machine.execWaitc core ctx s
  | .waitcEnd core ctx => Sys2Proof.Machine.execWaitcEnd core ctx s
  | .fence core ctx => Sys2Proof.Machine.execFence core ctx s
  | .pause core ctx => Sys2Proof.Machine.execPause core ctx s
  | .rload core ctx bad => Sys2Proof.Machine.execRload core ctx bad s
  | .rstore core ctx => Sys2Proof.Machine.execRstore core ctx s
  | .ratom core ctx => Sys2Proof.Machine.execRatom core ctx s
  | .parkedReplyWritten core ctx => Sys2Proof.Machine.execParkedReplyWritten core ctx s
  | .loadw core eng => Sys2Proof.Machine.execLoadw core eng s
  | .matmul core eng => Sys2Proof.Machine.execMatmul core eng s
  | .epi core eng => Sys2Proof.Machine.execEpi core eng s
  | .vadd core eng => Sys2Proof.Machine.execVadd core eng s
  | .vsub core eng => Sys2Proof.Machine.execVsub core eng s
  | .vmul core eng => Sys2Proof.Machine.execVmul core eng s
  | .vfma core eng => Sys2Proof.Machine.execVfma core eng s
  | .vmax core eng => Sys2Proof.Machine.execVmax core eng s
  | .vmin core eng => Sys2Proof.Machine.execVmin core eng s
  | .vcvt core eng => Sys2Proof.Machine.execVcvt core eng s
  | .vexp2 core eng => Sys2Proof.Machine.execVexp2 core eng s
  | .vlog2 core eng => Sys2Proof.Machine.execVlog2 core eng s
  | .vrcp core eng => Sys2Proof.Machine.execVrcp core eng s
  | .vrsqrt core eng => Sys2Proof.Machine.execVrsqrt core eng s
  | .vtanh core eng => Sys2Proof.Machine.execVtanh core eng s
  | .verf core eng => Sys2Proof.Machine.execVerf core eng s
  | .vsmax core eng => Sys2Proof.Machine.execVsmax core eng s
  | .vsexp core eng => Sys2Proof.Machine.execVsexp core eng s
  | .vrow core eng => Sys2Proof.Machine.execVrow core eng s
  | .vnorm core eng => Sys2Proof.Machine.execVnorm core eng s
  | .vtopk core eng => Sys2Proof.Machine.execVtopk core eng s
  | .vgather core eng => Sys2Proof.Machine.execVgather core eng s
  | .vscatter core eng => Sys2Proof.Machine.execVscatter core eng s
  | .copy core bad => Sys2Proof.Machine.execCopy core bad s
  | .gather core => Sys2Proof.Machine.execGather core s
  | .scatter core => Sys2Proof.Machine.execScatter core s
  | .mcastStore core => Sys2Proof.Machine.execMcastStore core s
  | .reduceInto core => Sys2Proof.Machine.execReduceInto core s
  | .kdFlush core => Sys2Proof.Machine.execKdFlush core s
  | .kdInvalidate core => Sys2Proof.Machine.execKdInvalidate core s
  | .teFence core => Sys2Proof.Machine.execTeFence core s
  | .descriptorComplete core eng => Sys2Proof.Machine.execDescriptorComplete core eng s
  | .xcTokenSignal core => Sys2Proof.Machine.execXcTokenSignal core s
  | .coreRngseedWrite via core data => Sys2Proof.Machine.execCoreRngseedWrite via core data s
  | .beacon peer => Sys2Proof.Machine.execBeacon peer s
  | .ftResync o => Sys2Proof.Machine.execFtResync o s
  | .sowSet o p => Sys2Proof.Machine.execSowSet o p s
  | .sowCancel o t unitNo sowid => Sys2Proof.Machine.execSowCancel o t unitNo sowid s
  | .sowEntryFire t unitNo late => Sys2Proof.Machine.execSowEntryFire t unitNo late s
  | .sowCompletion t unitNo sowid => Sys2Proof.Machine.execSowCompletion t unitNo sowid s
  | .bankAdd k => Sys2Proof.Machine.execBankAdd k s
  | .bankTake k => Sys2Proof.Machine.execBankTake k s
  | .bankDrain k => Sys2Proof.Machine.execBankDrain k s
  | .bankRead k => Sys2Proof.Machine.execBankRead k s
  | .takeTimeout k core ctx => Sys2Proof.Machine.execTakeTimeout k core ctx s
  | .sheafInit o sheaf value limit wlim => Sys2Proof.Machine.execSheafInit o sheaf value limit wlim s
  | .sheafRead o sheaf => Sys2Proof.Machine.execSheafRead o sheaf s
  | .sheafAdd o sheaf n => Sys2Proof.Machine.execSheafAdd o sheaf n s
  | .sheafForce o sheaf value => Sys2Proof.Machine.execSheafForce o sheaf value s
  | .portTrain p peerGenMax peerHost => Sys2Proof.Machine.execPortTrain p peerGenMax peerHost s
  | .gen2TrainTimeout p => Sys2Proof.Machine.execGen2TrainTimeout p s
  | .portTrainTimeout p => Sys2Proof.Machine.execPortTrainTimeout p s
  | .peerLightDetect p => Sys2Proof.Machine.execPeerLightDetect p s
  | .portDown p why => Sys2Proof.Machine.execPortDown p why s
  | .frameReceive p f => Sys2Proof.Machine.execFrameReceive p f s
  | .dataFrame p => Sys2Proof.Machine.execDataFrame p s
  | .ackFrame p => Sys2Proof.Machine.execAckFrame p s
  | .nakFrame p => Sys2Proof.Machine.execNakFrame p s
  | .refuse p => Sys2Proof.Machine.execRefuse p s
  | .resync p => Sys2Proof.Machine.execResync p s
  | .calendarSlot p slot => Sys2Proof.Machine.execCalendarSlot p slot s
  | .frameSend p => Sys2Proof.Machine.execFrameSend p s
  | .ackFrameTimer fsrc => Sys2Proof.Machine.execAckFrameTimer fsrc s
  | .nakGapTimer fsrc => Sys2Proof.Machine.execNakGapTimer fsrc s
  | .frameResendTimer fdst fseq => Sys2Proof.Machine.execFrameResendTimer fdst fseq s
  | .pathFail p fdst => Sys2Proof.Machine.execPathFail p fdst s
  | .pathProbe p fdst => Sys2Proof.Machine.execPathProbe p fdst s
  | .mirrorHandover p => Sys2Proof.Machine.execMirrorHandover p s
  | .calSet o p slot type dset => Sys2Proof.Machine.execCalSet o p slot type dset s
  | .calDset o p idx mask => Sys2Proof.Machine.execCalDset o p idx mask s
  | .calGet o p slot => Sys2Proof.Machine.execCalGet o p slot s
  | .groupEnrol o p => Sys2Proof.Machine.execGroupEnrol o p s
  | .groupLeave o => Sys2Proof.Machine.execGroupLeave o s
  | .masterTakeover o => Sys2Proof.Machine.execMasterTakeover o s
  | .portCfgWrite p data => Sys2Proof.Machine.execPortCfgWrite p data s
  | .hopperStart h => Sys2Proof.Machine.execHopperStart h s
  | .ringSet o ring log2 peer ep base => Sys2Proof.Machine.execRingSet o ring log2 peer ep base s
  | .hopperSet o h ring unbind first => Sys2Proof.Machine.execHopperSet o h ring unbind first s
  | .hopperClear o h first => Sys2Proof.Machine.execHopperClear o h first s
  | .capRead o part => Sys2Proof.Machine.execCapRead o part s
  | .regrd o addr => Sys2Proof.Machine.execRegrd o addr s
  | .regwr o addr data => Sys2Proof.Machine.execRegwr o addr data s
  | .memCopy o src dst len => Sys2Proof.Machine.execMemCopy o src dst len s
  | .memFill o addr pattern len => Sys2Proof.Machine.execMemFill o addr pattern len s
  | .rmapBolt o st => Sys2Proof.Machine.execRmapBolt o st s
  | .completion ring => Sys2Proof.Machine.execCompletion ring s
  | .cmdRingciWrite via r data => Sys2Proof.Machine.execCmdRingciWrite via r data s
  | .cmdMboxGo via => Sys2Proof.Machine.execCmdMboxGo via s
  | .registerWrite via addr data => Sys2Proof.Machine.execRegisterWrite via addr data s
  | .postedWriteApply u => Sys2Proof.Machine.execPostedWriteApply u s
  | .paritySweep at' => Sys2Proof.Machine.execParitySweep at' s
  | .noticeEoi via data => Sys2Proof.Machine.execNoticeEoi via data s
  | .noticeMaskSet via idx data => Sys2Proof.Machine.execNoticeMaskSet via idx data s
  | .noticeMaskClr via idx data => Sys2Proof.Machine.execNoticeMaskClr via idx data s
  | .noticePendSet via idx data => Sys2Proof.Machine.execNoticePendSet via idx data s
  | .noticePendClr via idx data => Sys2Proof.Machine.execNoticePendClr via idx data s
  | .bondLinkTrain die link failing => Sys2Proof.Machine.execBondLinkTrain die link failing s
  | .bondFrameReceive die link f => Sys2Proof.Machine.execBondFrameReceive die link f s
  | .bondCrcRetrain die link => Sys2Proof.Machine.execBondCrcRetrain die link s
  | .coilRetrain n g failedDown failedUp => Sys2Proof.Machine.execCoilRetrain n g failedDown failedUp s
  | .thermalShutdown loc halfDegrees => Sys2Proof.Machine.execThermalShutdown loc halfDegrees s
  | .warmReset o => Sys2Proof.Machine.execWarmReset o s
  | .fieldReset o k => Sys2Proof.Machine.execFieldReset o k s
  | .fieldEnable o k => Sys2Proof.Machine.execFieldEnable o k s
  | .dieReset o d cache => Sys2Proof.Machine.execDieReset o d cache s
  | .dieGate d cause => Sys2Proof.Machine.execDieGate d cause s
  | .referenceMissing d => Sys2Proof.Machine.execReferenceMissing d s
  | .railOutOfWindow d millivolts => Sys2Proof.Machine.execRailOutOfWindow d millivolts s
  | .dieRejoin o d refMissing railOut => Sys2Proof.Machine.execDieRejoin o d refMissing railOut s
  | .coreReset o c => Sys2Proof.Machine.execCoreReset o c s
  | .portReset o p => Sys2Proof.Machine.execPortReset o p s
  | .poreset widthNs straps cold => Sys2Proof.Machine.execPoreset widthNs straps cold s
  | .bringUpReady failedStacks => Sys2Proof.Machine.execBringUpReady failedStacks s
  | .sensorRead o kind index => Sys2Proof.Machine.execSensorRead o kind index s
  | .powerMode o mode setLimit setCap limit cap => Sys2Proof.Machine.execPowerMode o mode setLimit setCap limit cap s
  | .logRead o entry count dst => Sys2Proof.Machine.execLogRead o entry count dst s
  | .fwStage o src len => Sys2Proof.Machine.execFwStage o src len s
  | .fwSwitch o action => Sys2Proof.Machine.execFwSwitch o action s
  | .firmwareBoot ready => Sys2Proof.Machine.execFirmwareBoot ready s
  | .attest o dst nonce => Sys2Proof.Machine.execAttest o dst nonce s
  | .lifecycleSet o target token => Sys2Proof.Machine.execLifecycleSet o target token s
  | .tamper kind => Sys2Proof.Machine.execTamper kind s
  | .bistRun o p => Sys2Proof.Machine.execBistRun o p s
  | .bistResult o target index sub n => Sys2Proof.Machine.execBistResult o target index sub n s
  | .loopbackRun o st g dur => Sys2Proof.Machine.execLoopbackRun o st g dur s
  | .testEnWrite via data => Sys2Proof.Machine.execTestEnWrite via data s
  | .stackLeavesService h => Sys2Proof.Machine.execStackLeavesService h s
  | .mergeBlockLeave st blk => Sys2Proof.Machine.execMergeBlockLeave st blk s
  | .portTrainComplete p => Sys2Proof.Machine.execPortTrainComplete p s
  | .bondLinkTrainComplete die link => Sys2Proof.Machine.execBondLinkTrainComplete die link s
  | .dieRejoinComplete d => Sys2Proof.Machine.execDieRejoinComplete d s
  | .fieldEnableComplete k => Sys2Proof.Machine.execFieldEnableComplete k s
  | .coreResetComplete c => Sys2Proof.Machine.execCoreResetComplete c s
  | .moduleOutputRead m powers temp alarms => Sys2Proof.Machine.execModuleOutputRead m powers temp alarms s
  | .busTapSample st bus power => Sys2Proof.Machine.execBusTapSample st bus power s
  | .receiverSample st rg lane current => Sys2Proof.Machine.execReceiverSample st rg lane current s
  | .hingeWindowClose st g => Sys2Proof.Machine.execHingeWindowClose st g s
  | .hingeAbort f => Sys2Proof.Machine.execHingeAbort f s
  | .elsLinkFail m => Sys2Proof.Machine.execElsLinkFail m s
  | .rampStep die demand => Sys2Proof.Machine.execRampStep die demand s
  | .starve core => Sys2Proof.Machine.execStarve core s
  | .ftCorrectionPulse node reading => Sys2Proof.Machine.execFtCorrectionPulse node reading s
  | .clockStretch region percent => Sys2Proof.Machine.execClockStretch region percent s
  | .noticeRedeliver src => Sys2Proof.Machine.execNoticeRedeliver src s
  | .widthRecordWrite die link => Sys2Proof.Machine.execWidthRecordWrite die link s
  | .coilTransfer n g crcOk => Sys2Proof.Machine.execCoilTransfer n g crcOk s
  | .sillBlockReceive p crcOk => Sys2Proof.Machine.execSillBlockReceive p crcOk s
  | .sillPersistentError p within1s => Sys2Proof.Machine.execSillPersistentError p within1s s
  | .frequencyChoice region best => Sys2Proof.Machine.execFrequencyChoice region best s
  | .frequencyRestart region => Sys2Proof.Machine.execFrequencyRestart region s
  | .clkFault region why => Sys2Proof.Machine.execClkFault region why s
  | .pllRelock region => Sys2Proof.Machine.execPllRelock region s
  | .sleepEnter u => Sys2Proof.Machine.execSleepEnter u s
  | .wake u => Sys2Proof.Machine.execWake u s
  | .wakeComplete u => Sys2Proof.Machine.execWakeComplete u s
  | .sowAheadWake die => Sys2Proof.Machine.execSowAheadWake die s
  | .railReading milliamps millivolts => Sys2Proof.Machine.execRailReading milliamps millivolts s
  | .powerWindow others power idle issue avg => Sys2Proof.Machine.execPowerWindow others power idle issue avg s
  | .thermalThrottleStep loc => Sys2Proof.Machine.execThermalThrottleStep loc s
  | .storeWrite area firstOk secondOk => Sys2Proof.Machine.execStoreWrite area firstOk secondOk s
  | .sillRetrainComplete p => Sys2Proof.Machine.execSillRetrainComplete p s
  | .bistRunComplete target index sub fails restoreOk => Sys2Proof.Machine.execBistRunComplete target index sub fails restoreOk s
  | .loopbackRunComplete st g eyes bitErr dacInl tia adc => Sys2Proof.Machine.execLoopbackRunComplete st g eyes bitErr dacInl tia adc s
  | .jitterWithinLimit region => Sys2Proof.Machine.execJitterWithinLimit region s
  | .heaterTableWriteback => Sys2Proof.Machine.execHeaterTableWriteback s
  | .delayReq => Sys2Proof.Machine.execDelayReq s
  | .delayRsp => Sys2Proof.Machine.execDelayRsp s
  | .ftHold => Sys2Proof.Machine.execFtHold s
  | .ftUnsync => Sys2Proof.Machine.execFtUnsync s
  | .rekeyInstant => Sys2Proof.Machine.execRekeyInstant s
  | .rekeyWindowEnd => Sys2Proof.Machine.execRekeyWindowEnd s
  | .groupSave => Sys2Proof.Machine.execGroupSave s
  | .takeoverAnnounce => Sys2Proof.Machine.execTakeoverAnnounce s
  | .takeoverFence => Sys2Proof.Machine.execTakeoverFence s
  | .epochAnnounce => Sys2Proof.Machine.execEpochAnnounce s
  | .masterFence => Sys2Proof.Machine.execMasterFence s
  | .command => Sys2Proof.Machine.execCommand s
  | .proxyTimeout => Sys2Proof.Machine.execProxyTimeout s
  | .regacc => Sys2Proof.Machine.execRegacc s
  | .notice => Sys2Proof.Machine.execNotice s
  | .powerFallback => Sys2Proof.Machine.execPowerFallback s
  | .thermtripRelease => Sys2Proof.Machine.execThermtripRelease s
  | .watchdogRestart => Sys2Proof.Machine.execWatchdogRestart s
  | .wardenRestart => Sys2Proof.Machine.execWardenRestart s
  | .logFlush => Sys2Proof.Machine.execLogFlush s
  | .fwStageDone => Sys2Proof.Machine.execFwStageDone s
  | .repairRecord => Sys2Proof.Machine.execRepairRecord s
  | .powerLoss => Sys2Proof.Machine.execPowerLoss s
  | .attestComplete => Sys2Proof.Machine.execAttestComplete s

end Sys2Proof.Machine
end

