-- ==== Sys2Proof/Safety.lean ====
section
/-! DEFINITION. What counts as a safe step, and the terms that claims use to say what a command leaves unchanged. -/

namespace Sys2Proof.Safety

open Sys2Proof.Machine

/-- The block goes on: a step answers a next state. -/
def Goes (s : State) : Prop := ∃ t, step s = .next t

/-- A property that every step of the block keeps, from every state. -/
def Kept (Inv : State → Prop) : Prop := ∀ s t, Inv s → step s = .next t → Inv t

/-- t is s but for what notices leave behind: the sources pending with the times they became so, the log with its numbers
and its counts of dropped entries, and the count of free values drawn (R460, R462, R561, R563). -/
def SameButSignals (s t : State) : Prop :=
  t = { s with
    notices := { s.notices with pend := t.notices.pend, pendFt := t.notices.pendFt }
    warden := { s.warden with log := t.warden.log, logNext := t.warden.logNext, perSecond := t.warden.perSecond }
    drawn := t.drawn }

/-- A bank's answer to a sequencer on the narrow net: a class 1 message to the drill of its core's cluster (R10, R66, R359). -/
def wakeMsg (a : SheafAns) : NetMsg := { cls := 1, dst := 18 + a.core / 4, body := .wake a }

/-- Between s and t one answer of a bank has set out over the narrow net, and nothing but the sheaf banks has changed beside. -/
def Answered (s t : State) (a : SheafAns) : Prop :=
  (∀ n, tget t.fab.net [] n = tget s.fab.net [] n ++ if n = 18 + a.core / 4 then [wakeMsg a] else []) ∧
  t = { s with sheaves := t.sheaves, fab := { s.fab with net := t.fab.net } }

/-- t is s but for the host bridge and for what notices leave behind: a command has completed (R420, R429). -/
def SameButRecord (s t : State) : Prop :=
  t = { s with
    bridge := { s.bridge with
      hoppers := t.bridge.hoppers, waiting := t.bridge.waiting
      mboxState := t.bridge.mboxState, mboxResult := t.bridge.mboxResult }
    notices := { s.notices with pend := t.notices.pend, pendFt := t.notices.pendFt }
    warden := { s.warden with log := t.warden.log, logNext := t.warden.logNext, perSecond := t.warden.perSecond }
    drawn := t.drawn }

/-- t is s after lane group g of station st has left service: its state is FAULT, or OFF under a hinge, its replay buffer is
empty, and the packets it held are placed again (R42, R92, R97). -/
def LeftService (s : State) (st g : Nat) (t : State) : Prop :=
  t = each (s.txg st g).packets (fun q s => s.place st q)
    ((s.modTx st g fun x => { x.clear with waking := false, window := false, lateFault := x.lateFault || x.hinged }).setTxState st g
      (if (s.txg st g).hinged then .off else .fault)) ∧
  (t.txg st g).state = (if (s.txg st g).hinged then .off else .fault) ∧ (t.txg st g).replay = []

/-- The status that a reply carries, and the mask of readers that remain that a PARTIAL one carries (R182, R226, R252). -/
def answerStatus (p : Packet) : Status := (Status.ofCode (hdr p).status).getD .badField
def answerMask (p : Packet) : Byte := if answerStatus p = .partialDone then BitVec.ofNat 8 (fieldB p.data 0 8) else 0

end Sys2Proof.Safety
end

