-- ==== Sys2Proof/Certificates/Slice0/Obligations.lean ====
section
/-! DEFINITION. The statements about the block, each a proposition for the provers. A clause says of one row of the command
table when its command completes, what the next state holds and what it leaves unchanged; the rules of spec/ that a
statement rests on stand in its docstring. -/

open Sys2Proof Sys2Proof.Machine Sys2Proof.Safety

/-- R34: a grain that does not match the entry is discarded and counted, MISROUTE is raised, and nothing is sent. -/
def Obligations.MisroutedGrainIsCounted : Prop :=
  ∀ (st rg : Nat) (g : Grain) (s : State),
    s.stUp st = true → isRx st rg = true → (s.rxg st rg).valid = true → (s.rxg st rg).state = .locked →
    (s.rxg st rg).badParity = false → (gWst g ≠ (s.rxg st rg).wst ∨ gWlg g ≠ (s.rxg st rg).wlg) →
    ∃ t, exec (.grainReceive st rg g) s = .next t ∧
      SameButSignals (s.modRx st rg fun r => { r with misroute := inc 16 r.misroute }) t ∧
      t.notices.pend.getLsbD (ntMisroute st) = true

/-- R36, R38, R39: the expected grain is kept, one beyond it and one that fails its CRC are answered with a NAK, which no group
in service leaves unsent (log entry 74), and one held already is discarded and acknowledged again (that it is acknowledged again
is the model's reading, log entry 20). R37: a LINK grain gives its records to the writer they name. R36, R38, R41: what a
reader's acknowledgement and a writer's replay put on the links, and all they change. -/
def Obligations.GrainsAreKeptAndAcknowledged : Prop :=
  (∀ (st rg : Nat) (g : Grain) (s : State),
    s.stUp st = true → isRx st rg = true → (s.rxg st rg).valid = true → (s.rxg st rg).state = .locked →
    (s.rxg st rg).badParity = false → gWst g = (s.rxg st rg).wst → gWlg g = (s.rxg st rg).wlg →
    (grainOk g = true → gType g = 0 → gSeq g = (s.rxg st rg).expect →
      exec (.grainReceive st rg g) s = .next (s.modRx st rg fun r => { r with
        expect := r.expect + 1
        unacked := true
        words := if r.words = [] then (if gStart g = 15 then [] else grainWords g (gStart g))
          else r.words ++ grainWords g 0 })) ∧
    (grainOk g = true → gType g = 0 → gSeq g ≠ (s.rxg st rg).expect → (gSeq g - (s.rxg st rg).expect).toNat < 2048 →
      (∀ k, s.linkGroup st (s.rxg st rg).wst = some k →
        exec (.grainReceive st rg g) s = .next (s.draw.emit (.grain st k
          (linkGrain (BitVec.ofNat 12 s.freeVal) st k [ackRecord 2 (s.rxg st rg).wlg (s.rxg st rg).expect])))) ∧
      (s.linkGroup st (s.rxg st rg).wst = none → exec (.grainReceive st rg g) s = .next s)) ∧
    (grainOk g = true → gType g = 0 → 2048 ≤ (gSeq g - (s.rxg st rg).expect).toNat →
      exec (.grainReceive st rg g) s = .next (s.modRx st rg fun r => { r with unacked := true })) ∧
    (grainOk g = true → gType g = 2 →
      exec (.grainReceive st rg g) s
        = .next (each (grainRecords g) (fun x s => s.takeRecord st (s.rxg st rg).wst x) s)) ∧
    (grainOk g = false → gType g = 0 →
      (∀ k, (s.modRx st rg fun r => { r with crcErr := inc 16 r.crcErr }).linkGroup st (s.rxg st rg).wst = some k →
        exec (.grainReceive st rg g) s
          = .next ((s.modRx st rg fun r => { r with crcErr := inc 16 r.crcErr }).draw.emit (.grain st k
              (linkGrain (BitVec.ofNat 12 s.freeVal) st k [ackRecord 2 (s.rxg st rg).wlg (s.rxg st rg).expect])))) ∧
      ((s.modRx st rg fun r => { r with crcErr := inc 16 r.crcErr }).linkGroup st (s.rxg st rg).wst = none →
        exec (.grainReceive st rg g) s = .next (s.modRx st rg fun r => { r with crcErr := inc 16 r.crcErr })))) ∧
  (∀ (st rg k : Nat) (s : State),
    s.stUp st = true → isRx st rg = true → (s.rxg st rg).unacked = true → s.linkGroup st (s.rxg st rg).wst = some k →
    ∃ t q, exec (.ackSend st rg) s = .next t ∧
      t = { s.modRx st rg (fun r => { r with unacked := false }) with out := t.out, drawn := t.drawn } ∧
      (s.oneIn (s.ackDropRate st rg) = false →
        t.out = s.out ++ [.grain st k (linkGrain q st k [ackRecord 1 (s.rxg st rg).wlg ((s.rxg st rg).expect - 1)])]) ∧
      (s.oneIn (s.ackDropRate st rg) = true → t.out = s.out)) ∧
  (∀ (st rd i : Nat) (rec : W64) (s : State),
    s.stUp st = true → isTx st (recGroup rec) = true → recKind rec = 2 → rd ∈ s.readers st (recGroup rec) →
    replayIndex (s.txg st (recGroup rec)).replay (recSeq rec) = some i →
    ∃ t, exec (.nakReceive st rd rec) s = .next t ∧
      t = { s.modTx st (recGroup rec) (fun x => { x with rplcnt := sat 32 (x.rplcnt + (x.replay.drop i).length) }) with
            out := t.out } ∧
      t.out = s.out ++ ((s.txg st (recGroup rec)).replay.drop i).map fun x =>
        .grain st (recGroup rec) (asReplay x.grain)) ∧
  (∀ (st g : Nat) (s : State),
    isTx st g = true → (s.txg st g).carries = true → (s.txg st g).replay ≠ [] → (s.txg st g).timeouts < 4 →
    ∃ t, exec (.replayTimeout st g) s = .next t ∧
      t = { s.modTx st g (fun x => { x with
              timeouts := x.timeouts + 1, rplcnt := sat 32 (x.rplcnt + x.replay.length) }) with out := t.out } ∧
      t.out = s.out ++ (s.txg st g).replay.map fun x => .grain st g (asReplay x.grain))

/-- R40: a grain leaves the replay buffer only when every reader has acknowledged it; with 512 grains unacknowledged nothing new
is sent on the group, and nothing is lost. -/
def Obligations.ReplayBufferWaitsForEveryReader : Prop :=
  (∀ (st rd i : Nat) (rec : W64) (s : State),
    s.stUp st = true → isTx st (recGroup rec) = true → recKind rec = 1 → rd ∈ s.readers st (recGroup rec) →
    replayIndex (s.txg st (recGroup rec)).replay (recSeq rec) = some i →
    tget (s.txg st (recGroup rec)).acked 0 rd < i + 1 →
    ∃ t n, exec (.ackReceive st rd rec) s = .next t ∧
      (t.txg st (recGroup rec)).replay = (s.txg st (recGroup rec)).replay.drop n ∧
      (∀ r ∈ s.readers st (recGroup rec), n ≤ if r = rd then i + 1 else tget (s.txg st (recGroup rec)).acked 0 r) ∧
      (∀ m, (∀ r ∈ s.readers st (recGroup rec), m ≤ if r = rd then i + 1 else tget (s.txg st (recGroup rec)).acked 0 r) →
        min m (s.txg st (recGroup rec)).replay.length ≤ n) ∧
      t = s.modTx st (recGroup rec) fun x => { x with
        replay := x.replay.drop n, acked := (t.txg st (recGroup rec)).acked, timeouts := 0 }) ∧
  (∀ (st g : Nat) (s : State),
    s.stUp st = true → isTx st g = true → (s.txg st g).carries = true → 512 ≤ (s.txg st g).replay.length →
    exec (.grainSend st g) s
      = .next (s.emit (.grain st g (mkGrain (List.replicate 120 0) (s.txg st g).gseq 1 15 false false st g))))

/-- R32, R33, R36: a group with something to send puts one DATA grain with the next GSEQ and its own station and group on its
lanes, keeps it for replay until its readers have it, and counts on. R35, R41, R42, R43, R53, R92: how a lane group loses lanes,
leaves service, comes back and drains. -/
def Obligations.LaneGroupsKeepLeaveAndReturn : Prop :=
  (∀ (st g : Nat) (s : State),
    s.stUp st = true → isTx st g = true → (s.txg st g).carries = true → (s.txg st g).replay.length < 512 →
    (s.txg st g).words ≠ [] ∨ (s.txg st g).queue ≠ [] →
    ∃ t k, exec (.grainSend st g) s = .next t ∧
      gSeq k.grain = (s.txg st g).gseq ∧ gType k.grain = 0 ∧ gWst k.grain = st ∧ gWlg k.grain = g ∧ gRpl k.grain = false ∧
      grainOk k.grain = true ∧
      (t.txg st g).gseq = (s.txg st g).gseq + 1 ∧
      ((∃ r ∈ s.readers st g, tget (s.txg st g).acked 0 r = 0) → (t.txg st g).replay = (s.txg st g).replay ++ [k]) ∧
      (s.readers st g = [] → (t.txg st g).replay = []) ∧
      (s.oneIn (s.laneErrRate st g) = false → t.out = s.out ++ [.grain st g k.grain]) ∧
      (s.oneIn (s.laneErrRate st g) = true → t.out = s.out ++ [.grain st g (spoilCrc k.grain)]) ∧
      t = { s.modTx st g (fun x => TxGroup.free { x with
              gseq := x.gseq + 1, replay := x.replay ++ [k], words := (t.txg st g).words
              current := (t.txg st g).current, queue := (t.txg st g).queue } (s.readers st g)) with
            out := t.out, drawn := t.drawn }) ∧
  (∀ (st g : Nat) (s : State), isTx st g = true → (s.txg st g).inService = true →
    ¬((s.txg st g).hinged = true ∧ (s.txg st g).state = .draining) →
    ∃ t, exec (.groupLeaveService st g) s = .next t ∧ LeftService s st g t) ∧
  (∀ (st g : Nat) (s : State), isTx st g = true → (s.txg st g).hinged = true → (s.txg st g).state = .draining →
    exec (.groupLeaveService st g) s = .next (s.modTx st g TxGroup.clear)) ∧
  (∀ (st g : Nat) (s : State),
    isTx st g = true → (s.txg st g).carries = true → (s.txg st g).replay ≠ [] → 4 ≤ (s.txg st g).timeouts →
    ¬((s.txg st g).hinged = true ∧ (s.txg st g).state = .draining) →
    ∃ t, exec (.replayTimeout st g) s = .next t ∧ LeftService s st g t) ∧
  (∀ (st g lane : Nat) (s : State),
    isTx st g = true → lane < 8 → (s.txg st g).bad.getLsbD lane = false → (s.txg st g).inService = true →
    4 ≤ ((s.modTx st g fun x => { x with bad := x.bad ||| (1#8 <<< lane) }).txg st g).lanes →
    ((s.txg st g).state ≠ .asleep → ∃ t, exec (.laneMarkedBad st g lane) s = .next t ∧
      SameButSignals (s.modTx st g fun x => { x with bad := x.bad ||| (1#8 <<< lane), state := .retrain }) t) ∧
    ((s.txg st g).state = .asleep →
      exec (.laneMarkedBad st g lane) s = .next (s.modTx st g fun x => { x with bad := x.bad ||| (1#8 <<< lane) }))) ∧
  (∀ (st g lane : Nat) (s : State),
    isTx st g = true → lane < 8 → (s.txg st g).bad.getLsbD lane = false → (s.txg st g).inService = true →
    ¬((s.txg st g).hinged = true ∧ (s.txg st g).state = .draining) →
    ((s.modTx st g fun x => { x with bad := x.bad ||| (1#8 <<< lane) }).txg st g).lanes < 4 →
    ∃ t, exec (.laneMarkedBad st g lane) s = .next t ∧
      LeftService (s.modTx st g fun x => { x with bad := x.bad ||| (1#8 <<< lane) }) st g t) ∧
  (∀ (st g : Nat) (s : State), isTx st g = true → (s.txg st g).state = .retrain →
    ∃ t, exec (.groupRetrainEnd st g) s = .next t ∧
      SameButSignals (s.modTx st g fun x => { x with state := if x.enable then .active else .draining }) t) ∧
  (∀ (st g : Nat) (s : State),
    s.stUp st = true → isTx st g = true → (s.txg st g).isOut = true → 4 ≤ (s.txg st g).lanes →
    s.ringsSettled st g = true → s.linksCalibrated st g = true →
    ∃ t, exec (.groupFaultRecover st g) s = .next t ∧
      (t.txg st g).state = (if (s.txg st g).enable then .active else .off) ∧ (t.txg st g).gseq = 0 ∧
      (t.txg st g).replay = [] ∧ (t.txg st g).queue = (s.txg st g).queue ∧
      t.light = s.light ∧ t.mem = s.mem ∧ t.bridge = s.bridge) ∧
  (∀ (st g : Nat) (s : State), s.linksCalibrated st g = false →
    exec (.groupFaultRecover st g) s = .next s) ∧
  (∀ (st g : Nat) (s : State),
    isTx st g = true → (s.txg st g).state = .draining → (s.txg st g).enable = false → (s.txg st g).packets = [] →
    (s.txg st g).replay = [] →
    ∃ t, exec (.groupDrained st g) s = .next t ∧
      SameButSignals (s.modTx st g fun x => { x with state := .drained }) t)

/-- R51, R52: RMAP_SET turned away changes nothing but its record; accepted with DRAIN 1 it disables the groups concerned and
waits; with DRAIN 0 the entry names its new writer group and tunes. R50, R52, R55, R56: a waiting change starts when its groups
are drained, ends with TIMED_OUT when they are not, and its entry locks or faults; AUTO_ENABLE then enables the group. -/
def Obligations.MapChangesAreCheckedAndRun : Prop :=
  (∀ (o : Origin) (p : RmapParams) (st : Status) (s : State), firstFail (rmapChecks p s) = some st →
    exec (.rmapSet o p) s = .next (s.complete o 0x80 st [])) ∧
  (∀ (o : Origin) (p : RmapParams) (s : State), firstFail (rmapChecks p s) = none → p.drain = true →
    exec (.rmapSet o p) s = .next ((each (s.changeGroups p) (fun w s => s.disable w.1 w.2) s).modRx p.reader p.rgroup
      fun r => { r with change := some { asker := .host o, p := p } })) ∧
  (∀ (o : Origin) (p : RmapParams) (s : State), firstFail (rmapChecks p s) = none → p.drain = false → p.valid = true →
    ∃ t, exec (.rmapSet o p) s = .next t ∧
      (t.rxg p.reader p.rgroup).valid = true ∧ (t.rxg p.reader p.rgroup).wst = p.wst ∧
      (t.rxg p.reader p.rgroup).wlg = p.wlg ∧ (t.rxg p.reader p.rgroup).state = .tuning) ∧
  (∀ (st rg : Nat) (c : MapChange) (s : State), (s.rxg st rg).change = some c → s.stUp st = true →
    (∀ w ∈ s.changeGroups c.p, s.drained w.1 w.2 = true) →
    exec (.rmapChangeStart st rg) s = .next (s.startChange c.asker c.p)) ∧
  (∀ (st rg : Nat) (o : Origin) (p : RmapParams) (s : State), (s.rxg st rg).change = some { asker := .host o, p := p } →
    (∃ w ∈ s.changeGroups p, s.drained w.1 w.2 = false) →
    exec (.rmapDrainTimeout st rg) s
      = .next ((s.modRx st rg fun r => { r with change := none }).complete o 0x80 .timedOut [])) ∧
  (∀ (st rg : Nat) (s : State), isRx st rg = true → (s.rxg st rg).state = .tuning → s.entryHeld st rg = false →
    ∃ t, exec (.entryLocked st rg) s = .next t ∧
      (t.rxg st rg).state = .locked ∧
      (∃ e ∈ (t.rxg st rg).calDue, e.1 = if (s.rxg st rg).calCount = 0 then 0 else 4) ∧
      (t.rxg st rg).expect = (s.txg (s.rxg st rg).wst (s.rxg st rg).wlg).gseq ∧
      (∀ q ∈ rxRings st rg, (t.ringAt q).state = .locked) ∧
      t.light = s.light ∧ t.mem = s.mem ∧ t.bridge = s.bridge ∧ t.credit = s.credit) ∧
  (∀ (st rg : Nat) (s : State), isRx st rg = true → (s.rxg st rg).state = .tuning → s.entryHeld st rg = false →
    ∃ t, exec (.rmapFault st rg) s = .next t ∧ (t.rxg st rg).state = .fault ∧
      (∀ q ∈ s.acquiring st rg, (t.ringAt q).state = .bad) ∧ t.light = s.light ∧ t.mem = s.mem ∧ t.bridge = s.bridge) ∧
  (∀ (st rg : Nat) (s : State), s.entryHeld st rg = true →
    exec (.entryLocked st rg) s = .next s ∧ exec (.rmapFault st rg) s = .next s) ∧
  (∀ (st g : Nat) (s : State), isSownTx st g = true → (s.txg st g).auto = true → s.liveEntries st g ≠ [] →
    (∀ e ∈ s.liveEntries st g, (s.rxg e.1 e.2).state = .locked) → s.drained st g = true →
    (s.txg st g).loopback = false → (s.txg st g).hinged = false →
    ∃ t, exec (.autoEnable st g) s = .next t ∧ (t.txg st g).enable = true ∧ (t.txg st g).auto = false ∧
      (4 ≤ (s.txg st g).lanes →
        SameButSignals (s.modTx st g fun x => { x with auto := false, enable := true, state := .active }) t) ∧
      ((s.txg st g).lanes < 4 → (t.txg st g).state = .fault)) ∧
  (∀ (st g : Nat) (s : State), isSownTx st g = true → (s.txg st g).auto = true → s.liveEntries st g ≠ [] →
    (∀ e ∈ s.liveEntries st g, (s.rxg e.1 e.2).state = .locked) → (s.txg st g).hinged = true →
    exec (.autoEnable st g) s = .next (s.modTx st g fun x => { x with auto := false, held := some true }))

/-- R77, R90, R92, R94, R95: a hinge runs in six steps; HINGE_START lights the standby and waits, or is turned away while another
feed's hinge would hold it up too long, which the model leaves open (log entry 84); step 2 puts the feed's groups in DRAINING
with their window open, step 3 moves the coupler and takes them out, step 5 brings them back, and step 6 swaps the roles. The
time at which capacity was reduced, which the log entry of step 6 carries, is left open (log entry 26). R96, R98, R99, R100: an
aborted hinge leaves the feed on its input at its level; a hard-failed feed swings to a ready standby or goes dark. -/
def Obligations.HingesRunOrAreAborted : Prop :=
  (∀ (o : Origin) (f : Nat) (s : State),
    s.warden.serving = true → s.warden.attest = none → s.lifeRefuses 0xE9 = false → f < 10 → s.spareOk f = true →
    (s.feed f).state ≠ .hinge → (s.feed f).state ≠ .hard → (s.feed f).state ≠ .dark →
    (s.otherHinge f = false ∨ s.freeVal % 2 = 0) →
    ∃ t, exec (.hingeStart o f) s = .next t ∧
      SameButSignals (((s.takeProxy o).modFeed f fun d => { d with
        state := .hinge, before := d.state, step := 1, standbyLit := true, tried := true, asker := some o }).setLit
          (feedOutput f (!(s.feed f).activeB)) true) t) ∧
  (∀ (o : Origin) (f : Nat) (s : State),
    s.warden.serving = true → s.warden.attest = none → s.lifeRefuses 0xE9 = false → f < 10 →
    s.otherHinge f = true → s.freeVal % 2 = 1 →
    exec (.hingeStart o f) s = .next ((s.takeProxy o).draw.complete o 0xE9 .busy [])) ∧
  (∀ (f : Nat) (s : State), f < 10 → (s.feed f).state = .hinge → (s.feed f).step = 1 → s.otherHinge f = false →
    ∃ t, exec (.hingeDrain f) s = .next t ∧
      t = each (s.hingedGroups f) (fun x s => s.copyGroup x.1 x.2) (each (s.hingedGroups f) (fun x s => s.hingeGroup x.1 x.2)
        (each (feedStanding f) (fun x s => s.narrow x.1 x.2 (feedLanes f x.1 x.2) false)
          (s.modFeed f fun d => { d with step := 2 }))) ∧
      (∀ x ∈ s.hingedGroups f, (t.txg x.1 x.2).state = .draining ∧ (t.txg x.1 x.2).hinged = true ∧
        (t.txg x.1 x.2).window = true) ∧
      t.light = (s.modFeed f fun d => { d with step := 2 }).light ∧ t.mem = s.mem) ∧
  (∀ (f : Nat) (s : State), s.otherHinge f = true → exec (.hingeDrain f) s = .next s) ∧
  (∀ (f : Nat) (s : State), f < 10 → (s.feed f).state = .hinge → (s.feed f).step = 2 →
    ∃ t, exec (.hingeSwing f) s = .next t ∧
      (∀ x ∈ s.heldGroups f, (t.txg x.1 x.2).state = .off ∧ (t.txg x.1 x.2).replay = [] ∧ (t.txg x.1 x.2).queue = [] ∧
        (t.txg x.1 x.2).window = false) ∧
      (∀ r ∈ s.busRings (feedBuses f) .locked, (t.ringAt r).state = .acquire) ∧
      t.light = (s.modFeed f fun d => { d with
        step := 4, couplerB := !d.activeB, lowRun := 0, trips := [] }).light ∧
      t = { s with fab := t.fab, light := t.light, notices := t.notices, warden := t.warden, drawn := t.drawn }) ∧
  (∀ (f : Nat) (unlocked : List Nat) (s : State), f < 10 → (s.feed f).state = .hinge → (s.feed f).step = 4 →
    ∃ t, exec (.hingeRestore f unlocked) s = .next t ∧
      t.light = (s.modFeed f fun d => { d with step := 5 }).light ∧
      t = { s with fab := t.fab, light := t.light, notices := t.notices, warden := t.warden, drawn := t.drawn }) ∧
  (∀ (st g : Nat) (s : State), (s.txg st g).window = true → (s.txg st g).state = .active ∨ (s.txg st g).hinged = false →
    exec (.hingeWindowClose st g) s = .next (s.modTx st g fun t => { t with window := false })) ∧
  (∀ (f : Nat) (s : State), f < 10 → (s.feed f).state = .hinge → (s.feed f).step = 5 → s.warden.serving = true →
    ∃ t, exec (.hingeRelease f) s = .next t ∧
      (t.feed f).state = .normal ∧ (t.feed f).step = 0 ∧ (t.feed f).activeB = !(s.feed f).activeB ∧
      (t.feed f).couplerB = !(s.feed f).activeB ∧
      (t.feed f).usable (s.feed f).activeB = false ∧ (t.feed f).hinges = inc 8 (s.feed f).hinges ∧
      t.notices.pend.getLsbD (ntHingeDone f) = true) ∧
  (∀ (f : Nat) (s : State), f < 10 → (s.feed f).state = .hinge → (s.feed f).step = 1 →
    ∃ t, exec (.hingeAbort f) s = .next t ∧
      (t.feed f).state = (s.feed f).before ∧ (t.feed f).step = 0 ∧ (t.feed f).activeB = (s.feed f).activeB ∧
      (t.feed f).standbyLit = false ∧ t.fab = s.fab ∧ t.notices.pend.getLsbD (ntHingeAbort f) = true) ∧
  (∀ (f : Nat) (unlocked : List Nat) (s : State),
    (s.feed f).state = .hard → s.warden.serving = true → s.spareOk f = true →
    ∃ t, exec (.hardFailRecover f unlocked) s = .next t ∧
      (t.feed f).state = .normal ∧ (t.feed f).activeB = !(s.feed f).activeB ∧
      (t.feed f).couplerB = !(s.feed f).activeB ∧ (t.feed f).usable (s.feed f).activeB = false) ∧
  (∀ (f : Nat) (unlocked : List Nat) (s : State),
    (s.feed f).state = .hard → s.warden.serving = true → s.spareOk f = false →
    ∃ t, exec (.hardFailRecover f unlocked) s = .next t ∧
      (t.feed f).state = .dark ∧ (t.feed f).step = 0 ∧ t.fab = s.fab)

/-- R84, R87, R89: a reading is kept; two samples in a row at or below -4.0 dB put a feed in service in HARD or DARK, whether or
not the Warden serves, and a reading that finds the light where the last one did, and leaves the feed's level as it was, changes
the reading alone; in Fade Act it also starts no second hinge (log entry 83). R80, R103, R104: a module that comes or goes
raises ELS_CHANGE and its outputs are dark; its link's failure marks it; FEED_COMMISSION on the active input of a feed in NORMAL
records the reference, in the feed and in its record. -/
def Obligations.FeedsAndModulesAreWatched : Prop :=
  (∀ (f : Nat) (sample avg : Int) (s : State), f < 10 → sample ≤ -400 →
    1 ≤ (s.feed f).lowRun → (s.feed f).state = .normal ∨ (s.feed f).state = .watch ∨ (s.feed f).state = .act →
    ∃ t, exec (.feedTapSample f sample avg) s = .next t ∧
      ((t.feed f).state = .hard ∨ (t.feed f).state = .dark) ∧ (t.feed f).hards = inc 8 (s.feed f).hards ∧
      tget t.light.feedTap 0 f = sample) ∧
  (∀ (f : Nat) (sample avg : Int) (s : State), f < 10 → s.warden.serving = true → -400 < sample →
    (s.feed f).state = .normal ∨ (s.feed f).state = .watch ∨ (s.feed f).state = .act →
    fadeLevel (s.feed f).state avg (s.eyeLow f 55) (s.eyeLow f 70) (s.eyeLow f 75) = (s.feed f).state →
    Config.isLow 1 sample = Config.isLow 1 (tget s.light.feedTap 0 f) →
    ((s.feed f).state = .act → (s.feed f).hold = true ∨ (s.feed f).tried = true ∨ s.spareOk f = false) →
    ∃ t, exec (.feedTapSample f sample avg) s = .next t ∧
      (t.feed f) = { s.feed f with power := avg, lowRun := 0, trips := [] } ∧ tget t.light.feedTap 0 f = sample ∧
      t = { s with light := t.light, warden := { s.warden with sampleFt := t.warden.sampleFt } }) ∧
  (∀ (m temp : Nat) (powers : List Int) (alarms : W32) (s : State),
    m < 5 → (s.elsAt m).present = true → (s.elsAt m).linkOk = true → s.warden.serving = true →
    (∀ o < 4, Config.isLow 0 (powers.getD o 0) = Config.isLow 0 (tget s.light.elsPwr 0 (4 * m + o))) →
    ∃ t, exec (.moduleOutputRead m powers temp alarms) s = .next t ∧
      (∀ o < 4, tget t.light.elsPwr 0 (4 * m + o) = powers.getD o 0) ∧
      (t.elsAt m) = { s.elsAt m with temp := temp, alarms := alarms } ∧
      t = { s with light := t.light, warden := { s.warden with sampleFt := t.warden.sampleFt } }) ∧
  (∀ (st bus : Nat) (power : Int) (s : State), st < 14 → bus < numBus st → s.warden.serving = true →
    Config.isLow 2 power = Config.isLow 2 (tget s.light.busTap 0 (busKey st bus)) →
    ∃ t, exec (.busTapSample st bus power) s = .next t ∧ tget t.light.busTap 0 (busKey st bus) = power ∧
      SameButSignals { s with
        fab := { s.fab with tx := t.fab.tx }, light := { s.light with busTap := t.light.busTap }
        warden := { s.warden with sampleFt := t.warden.sampleFt } } t ∧
      (Config.isLow 2 power = true → t.fab.tx = s.fab.tx)) ∧
  (∀ (st rg lane current : Nat) (s : State), isRx st rg = true → lane < 8 → s.warden.serving = true →
    Config.isLow 3 current = Config.isLow 3 (tget s.light.photo 0 (rxKey st rg * 8 + lane) : Nat) →
    ∃ t, exec (.receiverSample st rg lane current) s = .next t ∧
      tget t.light.photo 0 (rxKey st rg * 8 + lane) = current ∧
      t = { s with light := { s.light with photo := t.light.photo }
                   warden := { s.warden with sampleFt := t.warden.sampleFt } }) ∧
  (∀ (m : Nat) (answers : Bool) (ident : W64) (factory : List Settle) (s : State), m < 5 → s.warden.serving = true →
    (s.elsAt m).present ≠ answers →
    ∃ t, exec (.elsPresenceCheck m answers ident factory) s = .next t ∧
      (t.elsAt m).present = answers ∧ (t.elsAt m).lit = 0 ∧ t.notices.pend.getLsbD ntElsChange = true ∧
      (answers = true → (t.elsAt m).ident = ident ∧ (t.elsAt m).factory = factory ∧
        ∀ o < 4, t.setPoint (4 * m + o) = factory[o]?) ∧
      t.fab = s.fab) ∧
  (∀ (m : Nat) (s : State), m < 5 →
    exec (.elsLinkFail m) s = .next (s.modEls m fun e => { e with linkOk := false })) ∧
  (∀ (o : Origin) (f : Nat) (b : Bool) (m : Settle) (unlocked : List Nat) (s : State),
    s.warden.serving = true → s.warden.attest = none → s.lifeRefuses 0xE8 = false → f < 10 →
    (s.elsAt (feedOutput f b / 4)).present = true → (s.feed f).state = .normal → (s.feed f).activeB = b →
    exec (.feedCommission o f b m unlocked) s
      = .next ((((s.takeProxy o).recordSet (feedOutput f b)
          (some { (s.setPoint (feedOutput f b)).getD m with power := m.power })).modFeed f fun d => { d.setUsable b true with
            reference := m.power, power := 0, lowRun := 0, tried := false }).complete o 0xE8 .done []))

/-- R110, R116, R117: one update of a ring's lock loop keeps the bias trim in its 8 bits, moves the heater by one code at most
from where the feed-forward has brought it, and changes no other ring. Gain and sign of the correction are the model's (log
entry 27). R120 to R124, R130: a ring that has lost its lock acquires again, and its transmit group leaves service, or the
reader alone when the group has others; one that locks again makes its links due for calibration, and its entry, once all its
rings are locked, waits to rejoin; one found bad takes its lane out. -/
def Obligations.LoopsStayInRangeAndRingsRelock : Prop :=
  (∀ (r : RingId) (err : Int) (s : State), ringOk r = true → (s.ringAt r).state = .locked →
    ∃ t, exec (.lockLoopUpdate r err) s = .next t ∧
      -128 ≤ (t.ringAt r).bias ∧ (t.ringAt r).bias ≤ 127 ∧ (t.ringAt r).err = err ∧ (t.ringAt r).state = .locked ∧
      (t.ringAt r).heater ≤ 4095 ∧ (t.ringAt r).heater ≤ s.heaterOf r + 1 ∧ s.heaterOf r ≤ (t.ringAt r).heater + 1 ∧
      (∀ q, ringKey q ≠ ringKey r → t.ringAt q = s.ringAt q) ∧
      t = { s with fab := { s.fab with rings := t.fab.rings } }) ∧
  (∀ (r : RingId) (s : State),
    ringOk r = true → r.kind = .modulator → (s.ringAt r).state = .locked → 4 ≤ (s.ringAt r).overCnt →
    (s.txg r.st r.grp).inService = true →
    ((s.feed (busFeed r.st (laneBus r.st r.grp r.lane))).lit = false ∨
      lossAcross (busKey r.st (laneBus r.st r.grp r.lane) ::
        (s.feed (busFeed r.st (laneBus r.st r.grp r.lane))).trips) = false) →
    ∃ t, exec (.lockLossTrip r) s = .next t ∧ (t.ringAt r).state = .acquire ∧
      (t.txg r.st r.grp).state = (if (s.txg r.st r.grp).hinged then
        (if (s.txg r.st r.grp).state = .draining then .draining else .off) else .fault) ∧
      (t.txg r.st r.grp).replay = [] ∧ t.mem = s.mem ∧ t.credit = s.credit) ∧
  (∀ (r : RingId) (s : State),
    ringOk r = true → r.kind = .selector → (s.ringAt r).state = .locked → 4 ≤ (s.ringAt r).overCnt →
    (s.rxg r.st r.grp).valid = true →
    (r.st, r.grp) ∈ s.readerSet (s.rxg r.st r.grp).wst (s.rxg r.st r.grp).wlg →
    ((s.feed (busFeed (s.ringBus r).1 (s.ringBus r).2)).lit = false ∨
      lossAcross (busKey (s.ringBus r).1 (s.ringBus r).2 ::
        (s.feed (busFeed (s.ringBus r).1 (s.ringBus r).2)).trips) = false) →
    ∃ t, exec (.lockLossTrip r) s = .next t ∧ (t.ringAt r).state = .acquire ∧ t.mem = s.mem ∧ t.credit = s.credit ∧
      (1 < (s.readerSet (s.rxg r.st r.grp).wst (s.rxg r.st r.grp).wlg).length →
        (t.rxg r.st r.grp).state = .fault ∧
        (t.txg (s.rxg r.st r.grp).wst (s.rxg r.st r.grp).wlg).state
          = (s.txg (s.rxg r.st r.grp).wst (s.rxg r.st r.grp).wlg).state) ∧
      ((s.readerSet (s.rxg r.st r.grp).wst (s.rxg r.st r.grp).wlg).length = 1 →
        (s.txg (s.rxg r.st r.grp).wst (s.rxg r.st r.grp).wlg).inService = true →
        (s.txg (s.rxg r.st r.grp).wst (s.rxg r.st r.grp).wlg).hinged = false →
        (t.txg (s.rxg r.st r.grp).wst (s.rxg r.st r.grp).wlg).state = .fault)) ∧
  (∀ (r : RingId) (s : State),
    ringOk r = true → s.ringLinked r = false → (s.ringAt r).state = .locked → 4 ≤ (s.ringAt r).overCnt →
    exec (.lockLossTrip r) s = .next (s.modRing r fun q => { q with state := .acquire, overCnt := 0 })) ∧
  (∀ (r : RingId) (s : State), ringOk r = true → r.kind = .modulator → (s.ringAt r).state = .acquire →
    ∃ t, exec (.ringRelock r) s = .next t ∧ (t.ringAt r).state = .locked ∧ (t.ringAt r).overCnt = 0 ∧
      (∀ e ∈ s.entriesOf r.st r.grp, (s.rxg e.1 e.2).valid = true → (s.rxg e.1 e.2).state ≠ .tuning →
        ∃ x ∈ (t.rxg e.1 e.2).calDue, x.1 = if (s.rxg e.1 e.2).calCount = 0 then 0 else 3) ∧
      SameButSignals { s with fab := { s.fab with rings := t.fab.rings, rx := t.fab.rx, tx := t.fab.tx } } t) ∧
  (∀ (r : RingId) (s : State), ringOk r = true → r.kind = .selector → (s.ringAt r).state = .acquire →
    (s.rxg r.st r.grp).valid = true → (s.rxg r.st r.grp).state = .fault →
    (∀ q ∈ rxRings r.st r.grp, q ≠ r → (s.ringAt q).state ≠ .acquire ∧ (s.ringAt q).state ≠ .lost) →
    ∃ t, exec (.ringRelock r) s = .next t ∧ (t.ringAt r).state = .locked ∧
      (t.rxg r.st r.grp).state = .locked ∧ (t.rxg r.st r.grp).rejoin = true ∧ t.mem = s.mem) ∧
  (∀ (r : RingId) (s : State), ringOk r = true → r.kind = .modulator → (s.ringAt r).state = .acquire →
    ∃ t, exec (.ringBad r) s = .next t ∧ (t.ringAt r).state = .bad ∧ (t.txg r.st r.grp).bad.getLsbD r.lane = true ∧
      t.mem = s.mem ∧ t.light = s.light)

/-- R125, R126, R505, R506: a ramp step moves the permitted level of a die by 255 over RAMP, with the part of a level left over
from the last step, runs ballast while what it issues is below it, and passes the levels to the die's cores. R133 to R137, R141,
R144: a calibration begins for a cause that holds, in its turn, and its result corrects each ring that is LOCKED within the
limits, is recorded with its cause and time, and refines the tables, which wait to be written to the store. R112: when a field's
warm-up ends its rings acquire; a warm-up of 5 s raises LOCK_COLD. -/
def Obligations.RampsCalibrationAndWarmUp : Prop :=
  (∀ (die demand : Nat) (s : State), die < 8 → s.dieUp die = true →
    ∃ t, exec (.rampStep die demand) s = .next t ∧
      (t.diePower die).level ≤ (s.diePower die).level
        + (min (s.diePower die).acc (max 1 (s.diePower die).ramp - 1) + 255) / max 1 (s.diePower die).ramp ∧
      (s.diePower die).level ≤ (t.diePower die).level
        + (min (s.diePower die).acc (max 1 (s.diePower die).ramp - 1) + 255) / max 1 (s.diePower die).ramp ∧
      (t.diePower die).acc < max 1 (s.diePower die).ramp ∧
      (t.diePower die).ballast = decide (min (min demand 255) (s.diePower die).throttle < (t.diePower die).level) ∧
      (∀ i < 8, (t.core (8 * die + i)).throttle = (s.diePower die).throttle ∧
        (t.core (8 * die + i)).level = min (t.diePower die).level (s.diePower die).throttle) ∧
      t = { s with power := { s.power with dies := t.power.dies }, cores := t.cores }) ∧
  (∀ (st rg cause : Nat) (s : State),
    s.stUp st = true → isRx st rg = true → (s.rxg st rg).valid = true → (s.rxg st rg).state = .locked →
    (s.rxg st rg).calBusy = false →
    s.calsRunning st < 8 → s.calCauseHolds st rg cause = true → s.calFirst st rg = false →
    exec (.calibrationStart st rg cause) s
      = .next (s.modRx st rg fun r => { r with calBusy := true, calNow := cause, calDue := [] })) ∧
  (∀ (st rg : Nat) (r : CalResult) (s : State),
    isRx st rg = true → (s.rxg st rg).calBusy = true → isTx (s.rxg st rg).wst (s.rxg st rg).wlg = true →
    (s.txg (s.rxg st rg).wst (s.rxg st rg).wlg).bad = 0 → (∀ l < 8, 45 ≤ r.eyeW.getD l 0) → (s.rxg st rg).rejoin = false →
    (∀ k, (s.therm (.field k)).band < 4) →
    (∀ l < 8, Config.isLow 3 ((r.photo.getD l 0 : Nat) : Int)
      = Config.isLow 3 (tget s.light.photo 0 (rxKey st rg * 8 + l) : Nat)) →
    ∃ t, exec (.calibrationApply st rg r) s = .next t ∧
      (∀ l < 8, ∀ q ∈ [({ st := (s.rxg st rg).wst, kind := .modulator, grp := (s.rxg st rg).wlg, lane := l }, l),
          ({ st := st, kind := .selector, grp := rg, lane := l }, 8 + l)],
        (t.ringAt q.1) = if (s.ringAt q.1).state = .locked then
            { s.ringAt q.1 with heater := s.heaterOf q.1, site := s.siteTemp q.1 : Ring }.correct
              (r.heater.getD q.2 0) (r.bias.getD q.2 0)
          else s.ringAt q.1) ∧
      (t.rxg st rg).calBusy = false ∧ (t.rxg st rg).calTemp = min 255 (s.readerTemp st rg) ∧
      (t.rxg st rg).calWTemp = s.writerTemp st rg ∧
      (t.rxg st rg).calCount = inc 16 (s.rxg st rg).calCount ∧ (t.rxg st rg).calFt = s.now ∧
      (t.rxg st rg).calCause = (s.rxg st rg).calNow ∧
      ((∃ q ∈ rxRings st rg, (s.ringAt q).state = .locked) → t.warden.tablesRefined = true) ∧ t.fab.tx = s.fab.tx) ∧
  (∀ (s : State), s.warden.serving = true → s.warden.tablesRefined = true → s.warden.tablesAt = none →
    exec .heaterTableWriteback s
      = .next (({ s with warden := { s.warden with tablesRefined := false, tablesAt := some s.now } } : State).markArea
          areaCalibration)) ∧
  (∀ (k : Nat) (s : State), k < 4 → (s.field k).state = .warmup → s.fieldWarm k = true →
    ∃ t, exec (.warmUpEnd k) s = .next t ∧
      (t.field k).state = .enabling ∧ (t.field k).cold = false ∧
      (∀ st ∈ fieldStations k, ∀ g < 13, ∀ l < 8,
        (t.ringAt { st := st, kind := .modulator, grp := g, lane := l }).state = .acquire ∧
        (t.ringAt { st := st, kind := .selector, grp := g, lane := l }).state = .acquire) ∧
      t.fab.tx = s.fab.tx ∧ t.fab.rx = s.fab.rx) ∧
  (∀ (k : Nat) (s : State), (s.field k).state = .warmup → s.fieldWarm k = false →
    exec (.warmUpEnd k) s = .next s) ∧
  (∀ (k : Nat) (s : State), k < 4 → (s.field k).state = .warmup → (s.field k).cold = false →
    ∃ t, exec (.lockCold k) s = .next t ∧ SameButSignals (s.modField k fun f => { f with cold := true }) t ∧
      t.notices.pend.getLsbD (ntLockCold k) = true)

/-- R70 to R73: a packet on the port ring goes one stop in its direction, passes to class B between P15 and P0, and leaves at its
stop when it can: at a port, at an exchange station, or at the host bridge, where it waits for its row; a malformed one ends at
its exchange station. R66, R272, R356, R359, R444: a message of the narrow net leaves its node, strictest class first, and does
there what it is for: a sheaf operation joins its bank's queue, or fails where the bank is out of service, a bank's answer comes
to its context, a register is read or written, and a fetch brings its block; a block that arrives joins the prefetch buffer,
which holds 32 descriptors at most, and one that failed faults the context that has nothing else to issue. -/
def Obligations.PortRingAndNarrowNetCarryMessages : Prop :=
  (∀ (stop : Nat) (r : RingPkt) (s : State),
    s.mover stop = some r → stop < ringStops → r.here ≠ r.dst → ¬(r.hop.here = r.dst ∧ s.canLeave r.hop = true) →
    exec (.ringHop stop) s = .next { s with fab := { s.fab with ring := s.fab.ring.erase r ++ [r.hop] } } ∧
    r.hop.here = (if r.clockwise then (r.here + 1) % ringStops else (r.here + ringStops - 1) % ringStops) ∧
    (r.classB = true → r.hop.classB = true)) ∧
  (∀ (stop : Nat) (r : RingPkt) (s s1 : State),
    s.mover stop = some r → stop < ringStops → (r.here = r.dst ∨ (r.hop.here = r.dst ∧ s.canLeave r.hop = true)) →
    s1 = { s with fab := { s.fab with ring := s.fab.ring.erase r } } →
    (r.dst = bridgeStop → malformed r.q.pkt = false →
      exec (.ringHop stop) s = .next { s1 with
        bridge := { s.bridge with inbox := s.bridge.inbox ++ [(r.src, r.q.pkt, r.ft)] } }) ∧
    (∀ p, stopPort r.dst = some p → s.portServes p = true → exec (.ringHop stop) s = .next (s1.outPut r.q)) ∧
    (∀ x, stopPort r.dst = none → stopXs r.dst = some x → s.stServes x = true →
      (malformed r.q.pkt = false → exec (.ringHop stop) s = .next (s1.fabricIn x r.q.pkt)) ∧
      (malformed r.q.pkt = true → ∃ t, exec (.ringHop stop) s = .next t ∧
        SameButSignals (s1.modSta x fun y => { y with malformed := inc 16 y.malformed }) t ∧
        t.notices.pend.getLsbD (ntPktMalformed x) = true))) ∧
  (∀ (node : Nat) (m : NetMsg) (s s1 : State), s.firstMsg node = some m →
    s1 = { s with fab := { s.fab with net := tmod s.fab.net [] node fun l => l.erase m } } →
    (∀ r, m.body = .sheaf r → s.fieldUp (sheafBank r.sheaf) = true →
      exec (.narrowNetMessage node) s
        = .next (s1.modBank (sheafBank r.sheaf) fun b => { b with inbox := b.inbox ++ [r] })) ∧
    (∀ r, m.body = .sheaf r → s.fieldUp (sheafBank r.sheaf) = false → r.pkt = none →
      exec (.narrowNetMessage node) s = .next (s1.bankReply r .deadTarget [])) ∧
    (∀ a, m.body = .wake a → exec (.narrowNetMessage node) s
      = .next { s1 with sheaves := { s.sheaves with answers := s.sheaves.answers ++ [a] } }) ∧
    (∀ c x b, m.body = .fetch c x b → (s.ctx c x).fetching = true → ∃ t, exec (.narrowNetMessage node) s = .next t ∧
      t.ctx c x = { s.ctx c x with fetched := some (b, s1.fetchRegs b) } ∧ t = { s1 with cores := t.cores }) ∧
    (∀ st p i, m.body = .access st p → placeOf (hdr p).laddr = .sheaf i →
      exec (.narrowNetMessage node) s = .next (s1.atBank (sheafAccess st p))) ∧
    (∀ st p i, m.body = .access st p → placeOf (hdr p).laddr = .reg i →
      ((hdr p).op = 0x01 → exec (.narrowNetMessage node) s = .next ((s1.regRead (hdr p).laddr).2.2.reply st p 0x70
        (leBytes 4 (s1.regRead (hdr p).laddr).2.1.toNat) (s1.regRead (hdr p).laddr).1 false)) ∧
      ((hdr p).op ≠ 0x01 → exec (.narrowNetMessage node) s
        = .next ((s1.regWrite .coreStore .p0 (hdr p).laddr (BitVec.ofNat 32 (fieldB p.data 0 4))).1.reply st p 0x71 []
            (s1.regWrite .coreStore .p0 (hdr p).laddr (BitVec.ofNat 32 (fieldB p.data 0 4))).2 false)))) ∧
  (∀ (node : Nat) (m : NetMsg) (s : State), s.firstMsg node = some m →
    m ∈ tget s.fab.net [] node ∧ ∀ x ∈ tget s.fab.net [] node, m.cls ≤ x.cls) ∧
  (∀ (core ctx b : Nat) (l : List Byte) (st : Status) (s : State),
    core < 64 → s.coreUp core = true → (s.ctx core ctx).fetching = true →
    ((s.ctx core ctx).fetched = some (b, l, st) ∨
      ((s.ctx core ctx).fetched = none ∧ s.fetchOut core ctx = false ∧ (s.ctx core ctx).fetchBlock = some b ∧
        nearBlock core b = true ∧ s.fetchBytes core b = (l, st))) →
    (st = .done →
      exec (.fetchArrive core ctx) s
        = .next ((s.modCtx core ctx fun t => { t with fetched := none }.takeBlock b l).refresh core) ∧
      ((s.ctx core ctx).takeBlock b l).buf.length ≤ 32 ∧
      (∀ i < 8, ((s.ctx core ctx).takeBlock b l).descAt (b + 32 * i) = some (descOf (sliceB l (32 * i) 32)))) ∧
    (st ≠ .done → (s.ctx core ctx).descAt (s.ctx core ctx).pc.toNat = none → (s.ctx core ctx).issuing = true →
      exec (.fetchArrive core ctx) s = .next ((s.modCtx core ctx fun t =>
        { t with fetching := false, fetched := none }).ctxFault core ctx 6 0 0 st)) ∧
    (st ≠ .done → ((s.ctx core ctx).descAt (s.ctx core ctx).pc.toNat).isSome = true →
      exec (.fetchArrive core ctx) s = .next (s.modCtx core ctx fun t =>
        { t with fetching := false, fetched := none })))

/-- R163, R164, R169: a malformed packet is counted and its notice raised, a duplicate is discarded, a stale one is discarded
and its credit returned, and an accepted one moves the window and comes to its station. R157, R165, R168, R173, R253: a packet
that may go takes the next number of its channel and its credits; to a dead reader or over a closed channel it does not go, and
an operation that it belongs to ends. -/
def Obligations.PacketsAreNumberedPaidForAndChecked : Prop :=
  (∀ (st rg : Nat) (p : Packet) (rest : List StreamWord) (s : State),
    s.stUp st = true → isRx st rg = true → (s.rxg st rg).valid = true →
    takePacket (s.rxg st rg).words = some (p, rest) →
    (malformed p = true → 6 ≤ (hdr p).vc →
      ∃ t, exec (.packetArrive st rg) s = .next t ∧ t.notices.pend.getLsbD (ntPktMalformed st) = true ∧
        SameButSignals ((s.modRx st rg fun r => { r with words := rest }).modSta st fun x =>
          { x with malformed := inc 16 x.malformed }) t) ∧
    (malformed p = true → (hdr p).vc < 6 →
      ∃ t u, exec (.packetArrive st rg) s = .next t ∧ t = u.returnCredit st (s.rxg st rg).wst (hdr p).vc (pktCredits p) ∧
        u.notices.pend.getLsbD (ntPktMalformed st) = true ∧
        SameButSignals ((s.modRx st rg fun r => { r with words := rest }).modSta st fun x =>
          { x with malformed := inc 16 x.malformed }) u) ∧
    (malformed p = false → 1 < (s.entriesOf (s.rxg st rg).wst (s.rxg st rg).wlg).length →
      s.namesStation st (s.rxg st rg).wst p = false →
      exec (.packetArrive st rg) s = .next (s.modRx st rg fun r => { r with words := rest })) ∧
    (malformed p = false →
      ((s.entriesOf (s.rxg st rg).wst (s.rxg st rg).wlg).length ≤ 1 ∨ s.namesStation st (s.rxg st rg).wst p = true) →
      (seqCheck (tget s.credit.win (none, []) (creditKey st (s.rxg st rg).wst (hdr p).vc)) (BitVec.ofNat 14 (hdr p).pseq)
          = .duplicate →
        exec (.packetArrive st rg) s = .next ((s.modRx st rg fun r => { r with words := rest }).modSta st fun x =>
          { x with dup := inc 32 x.dup })) ∧
      (seqCheck (tget s.credit.win (none, []) (creditKey st (s.rxg st rg).wst (hdr p).vc)) (BitVec.ofNat 14 (hdr p).pseq)
          = .stale →
        exec (.packetArrive st rg) s = .next (((s.modRx st rg fun r => { r with words := rest }).modSta st fun x =>
          { x with stale := inc 16 x.stale }).returnCredit st (s.rxg st rg).wst (hdr p).vc (pktCredits p))) ∧
      (∀ win, (isXS st = false ∨ s.isSelf (hdr p).dest = true) →
        seqCheck (tget s.credit.win (none, []) (creditKey st (s.rxg st rg).wst (hdr p).vc))
          (BitVec.ofNat 14 (hdr p).pseq) = .accept win →
        ∃ t, exec (.packetArrive st rg) s = .next t ∧
          tget t.credit.win (none, []) (creditKey st (s.rxg st rg).wst (hdr p).vc) = win ∧
          (t.sta st).inbox = (s.sta st).inbox ++ [((s.rxg st rg).wst, p)] ∧ (t.rxg st rg).words = rest ∧
          t = { s with fab := { s.fab with rx := t.fab.rx, st := t.fab.st }
                       credit := { s.credit with win := t.credit.win } }))) ∧
  (∀ (st rd vc : Nat) (q : QPacket) (s : State),
    s.firstFor st rd vc = some q → s.stUp st = true → (s.sta st).halted = false →
    (s.stServes rd = false →
      exec (.packetSend st rd vc) s = .next ((s.unqueue st q).refusePacket st rd q .deadTarget)) ∧
    (s.stServes rd = true → s.closed st rd vc = true →
      exec (.packetSend st rd vc) s = .next ((s.unqueue st q).refusePacket st rd q .refused)) ∧
    (∀ i status, q.op = some i → (s.unqueue st q).refusePacket st rd q status = (s.unqueue st q).endOp q.op status 0) ∧
    (∀ status, q.op = none → isRequest (hdr q.pkt).op = true → (hdr q.pkt).xt = true →
      (s.unqueue st q).refusePacket st rd q status = (s.unqueue st q).replyFault st q.pkt status) ∧
    (s.stServes rd = true → s.closed st rd vc = false → s.sendReady st rd vc = true → s.vcTurn st vc = true →
      ∃ t, exec (.packetSend st rd vc) s = .next t ∧
        tget (t.sta st).pseq 0 vc = tget (s.sta st).pseq 0 vc + 1 ∧
        t.held rd st vc + pktCredits q.pkt = s.held rd st vc ∧
        (t.sta st).sendq = (s.sta st).sendq.erase q ∧
        (∀ v, v ≠ vc → tget (t.sta st).pseq 0 v = tget (s.sta st).pseq 0 v) ∧
        t = { s with fab := { s.fab with tx := t.fab.tx, st := t.fab.st }
                     credit := { s.credit with held := t.credit.held }, rem := t.rem }))

/-- R169, R170, R172: a reader sends its running total, and a writer gains what the total has grown by; an allocation changed by
BASE_CRALLOC is granted at once when it grows and withheld as PEND when it shrinks. R176 to R182: the first attempt of a
multicast packet takes a number when it reaches anyone and keeps the readers left; a later one reaches readers of those; it ends
when nobody remains, or as partial with the readers left counted. -/
def Obligations.CreditsAndMulticastsTravel : Prop :=
  (∀ (st w vc k : Nat) (s : State),
    s.stUp st = true → validPair st w vc = true → tget s.credit.owed false (creditKey st w vc) = true →
    s.linkGroup st w = some k → s.backp st w vc = false →
    ∃ t, exec (.creditRecordSend st w vc) s = .next t ∧
      t.out = s.out ++ [.grain st k (linkGrain (BitVec.ofNat 12 s.freeVal) st k
        [creditRecord vc (tget s.credit.total 0 (creditKey st w vc))])] ∧
      tget t.credit.owed false (creditKey st w vc) = false ∧
      t = { s with credit := { s.credit with owed := t.credit.owed }, out := t.out, drawn := t.drawn }) ∧
  (∀ (st : Nat) (s : State), s.stUp st = true →
    exec (.creditRepeat st) s = .next (each ((List.range nSt).filter (· != st)) (fun w s =>
      s.creditRecords st w (List.range 6)) s)) ∧
  (∀ (st rd : Nat) (rec : W64) (s : State), s.stUp st = true → recKind rec = 3 → validPair rd st (recVc rec) = true →
    ∃ t, exec (.creditRecordReceive st rd rec) s = .next t ∧
      t.held rd st (recVc rec) = s.held rd st (recVc rec)
        + (recTotal rec - tget s.credit.seen 0 (creditKey rd st (recVc rec))).toNat ∧
      tget t.credit.seen 0 (creditKey rd st (recVc rec)) = recTotal rec ∧
      t = { s with credit := { s.credit with held := t.credit.held, seen := t.credit.seen } }) ∧
  (∀ (st w vc : Nat) (data : W32) (s : State),
    validPair st w vc = true → (data.toNat % 2 ^ 16 = 0 ∨ allocMin vc ≤ data.toNat % 2 ^ 16) →
    s.poolUsed st w vc + data.toNat % 2 ^ 16 + (s.alloc st w vc - data.toNat % 2 ^ 16) ≤ creditPool st →
    ∃ t, s.crallocWrite st w vc data = (t, .done) ∧ t.alloc st w vc = data.toNat % 2 ^ 16 ∧
      t.pendOf st w vc = s.pendOf st w vc + (s.alloc st w vc - data.toNat % 2 ^ 16) ∧
      tget t.credit.total 0 (creditKey st w vc) = tget s.credit.total 0 (creditKey st w vc)
        + BitVec.ofNat 16 (data.toNat % 2 ^ 16 - s.alloc st w vc) ∧
      t.credit.held = s.credit.held) ∧
  (∀ (st : Nat) (q : QPacket) (s : State),
    s.mcWaiting st = some q → s.stUp st = true → (s.sta st).halted = false → s.seqRoom st 3 = true →
    s.vcTurn st 3 = true → (s.sta st).entriesUsed < 64 →
    s.mcClosed st (maskStations (BitVec.ofNat 8 (hdr q.pkt).status)) = false →
    (∃ r ∈ maskStations (BitVec.ofNat 8 (hdr q.pkt).status), s.mcServed st (s.sta st).remnants q.pkt [r] = [r]) →
    ∃ t r, exec (.mcastFirstAttempt st) s = .next t ∧
      (t.sta st).sendq = (s.sta st).sendq.erase q ∧ (t.sta st).remnants = (s.sta st).remnants ++ [r] ∧
      r.id = s.rem.nextId ∧ r.q = q ∧ r.pseq = some (tget (s.sta st).pseq 0 3) ∧
      (∀ i < 8, r.remaining.getLsbD i = true ↔ i ∈ maskStations (BitVec.ofNat 8 (hdr q.pkt).status) ∧
        i ∉ s.mcServed st (s.sta st).remnants q.pkt (maskStations (BitVec.ofNat 8 (hdr q.pkt).status))) ∧
      tget (t.sta st).pseq 0 3 = tget (s.sta st).pseq 0 3 + 1) ∧
  (∀ (st : Nat) (q : QPacket) (s : State),
    s.mcWaiting st = some q → s.stUp st = true → (s.sta st).halted = false → s.seqRoom st 3 = true →
    s.vcTurn st 3 = true → s.mcClosed st (maskStations (BitVec.ofNat 8 (hdr q.pkt).status)) = true →
    exec (.mcastFirstAttempt st) s = .next ((s.unqueue st q).tellMc st q .refused 0)) ∧
  (∀ (st id : Nat) (r : Remnant) (served : List Nat) (s : State),
    (s.sta st).remnants.find? (fun r => r.id == id) = some r → s.stUp st = true → (s.sta st).halted = false →
    r.pseq.isSome = true → r.entry = true → s.vcTurn st 3 = true → s.mcClosed st (maskStations r.remaining) = false →
    s.mcServed st ((s.sta st).olderThan id) r.q.pkt (maskStations r.remaining) = served → served ≠ [] →
    ∃ t, exec (.remnantRetransmit st id) s = .next t ∧
      (∃ y ∈ (t.sta st).remnants, y.id = id ∧ y.pseq = r.pseq ∧ y.entry = true ∧
        ∀ i < 8, y.remaining.getLsbD i = true ↔ r.remaining.getLsbD i = true ∧ i ∉ served) ∧
      (∀ y ∈ (s.sta st).remnants, y.id ≠ id → y ∈ (t.sta st).remnants)) ∧
  (∀ (st id : Nat) (r : Remnant) (s : State),
    (s.sta st).remnants.find? (fun r => r.id == id) = some r → r.remaining = 0 →
    (∀ q ∈ s.inFlight st, (hdr q.pkt).vc = 3 → some (BitVec.ofNat 14 (hdr q.pkt).pseq) ≠ r.pseq) →
    exec (.mcastComplete st id) s = .next (s.endMc st r .done)) ∧
  (∀ (st id : Nat) (r : Remnant) (s : State),
    (s.sta st).remnants.find? (fun r => r.id == id) = some r → r.remaining ≠ 0 →
    exec (.mcastPartial st id) s = .next (s.endMc st r .partialDone)) ∧
  (∀ (st : Nat) (r : Remnant) (status : Status) (s : State), r.q.op = none → (hdr r.q.pkt).xt = false →
    s.endMc st r status = s.modSta st fun x => { x with
      remnants := x.remnants.filter fun y => y.id != r.id
      partials := if status = .partialDone then inc 16 x.partials else x.partials })

/-- R149, R152, R154: PLAT_SET writes one whole entry and PLAT_GET returns it; once PLAT_BOLT has bolted the table PLAT_SET
completes BOLTED and a second PLAT_BOLT too. R200, R201: HASH_SET puts the key and the layout in force at once, HASH_BOLT fixes
them, and both complete BUSY while a station is still zeroing its stacks. R197, R198, R203, R205, R217, R219: what self-refresh,
a stack that leaves service, the scrub, starvation and an uncorrectable scratchpad error do, and that they store no byte. R243:
a block that leaves a station's merge queue is written back: its bytes are in memory, every other byte reads as before, and the
queue holds the block no longer. -/
def Obligations.MemoryIsSetUpBoltedAndReported : Prop :=
  (∀ (o : Origin) (id : Nat) (entry : W64) (s : State), firstFail (platChecks id entry s) = none →
    ∃ t, exec (.platSet o id entry) s = .next t ∧ tget t.plat.entries 0 (id % 2 ^ 16) = entry ∧
      (∀ k, k ≠ id % 2 ^ 16 → tget t.plat.entries 0 k = tget s.plat.entries 0 k) ∧ t.plat.bolt = s.plat.bolt ∧
      SameButRecord { s with plat := t.plat } t) ∧
  (∀ (o : Origin) (id : Nat) (s : State), id < 2 ^ 20 → reservedId id = false →
    exec (.platGet o id) s
      = .next (s.complete o 0x83 .done (leBytes 8 (tget s.plat.entries 0 (id % 2 ^ 16)).toNat))) ∧
  (∀ (o : Origin) (s : State), s.plat.bolt = false →
    exec (.platBolt o) s = .next (({ s with plat := { s.plat with bolt := true } } : State).complete o 0x84 .done [])) ∧
  (∀ (o : Origin) (s : State), s.plat.bolt = true → exec (.platBolt o) s = .next (s.complete o 0x84 .bolted [])) ∧
  (∀ (o : Origin) (id : Nat) (entry : W64) (s : State), s.plat.bolt = true →
    ∃ st, st ≠ .done ∧ exec (.platSet o id entry) s = .next (s.complete o 0x82 st [])) ∧
  (∀ (o : Origin) (key : W64) (msmask : BitVec 4) (stksel : Byte) (s : State),
    firstFail (hashChecks { key := key, msmask := msmask, stksel := stksel, bolt := false } s) = none →
    exec (.hashSet o key msmask stksel) s = .next (({ s with hash :=
      { key := key, msmask := msmask, stksel := stksel, bolt := false } } : State).complete o 0x85 .done [])) ∧
  (∀ (o : Origin) (s : State), s.zeroing = false → s.hash.bolt = false →
    ∃ t, exec (.hashBolt o) s = .next t ∧ SameButRecord { s with hash := { s.hash with bolt := true } } t) ∧
  (∀ (o : Origin) (s : State), s.zeroing = true → exec (.hashBolt o) s = .next (s.complete o 0x86 .busy [])) ∧
  (∀ (o : Origin) (key : W64) (msmask : BitVec 4) (stksel : Byte) (s : State), s.hash.bolt = true →
    ∃ st, st ≠ .done ∧ exec (.hashSet o key msmask stksel) s = .next (s.complete o 0x85 st [])) ∧
  (∀ (h : Nat) (s : State), h < 12 → (s.hbm h).state = .ready →
    ∃ t, exec (.selfRefreshEnter h) s = .next t ∧ SameButSignals (s.modHbm h fun x => { x with state := .selfref }) t) ∧
  (∀ (h : Nat) (s : State), h < 12 → (s.hbm h).state = .selfref → s.msUp (h / 3) = true →
    ∃ t, exec (.selfRefreshExit h) s = .next t ∧ SameButSignals (s.modHbm h fun x => { x with state := .ready }) t) ∧
  (∀ (h : Nat) (s : State), h < 12 → s.stackReady h = true →
    ∃ t, exec (.stackLeavesService h) s = .next t ∧ (t.hbm h).state = .failed ∧ (t.hbm h).gone = true ∧
      (∀ b ∈ (t.sta (8 + h / 3)).merge, b.blk * 64 / 2 ^ 36 ≠ h) ∧ t.mem.cells = s.mem.cells) ∧
  (∀ (h blk k : Nat) (s : State),
    h < 12 → (s.hbm h).state = .ready → s.stackReady h = true → s.msUp (h / 3) = true → blk < 2 ^ 30 →
    s.openBlock (8 + h / 3) (h * 2 ^ 36 + blk * 64) = none → s.lastBlock h (h * 2 ^ 36 + blk * 64) = false →
    s.mem.isPoison (h * 2 ^ 36 + blk * 64) = false → 2 ≤ k →
    exec (.scrub h blk 0) s = .next s ∧
    exec (.scrub h blk 1) s = .next (s.modMs (h / 3) fun m => { m with ce := inc 16 m.ce }) ∧
    (∀ a, s.hash.addrOf h (blk / 2 ^ 24) (blk % 2 ^ 24 * 64) = some a →
      ∃ t, exec (.scrub h blk k) s = .next t ∧ t.notices.pend.getLsbD (ntMemUe (h / 3)) = true ∧
        SameButSignals ((s.setPoison (h * 2 ^ 36 + blk * 64) true).modMs (h / 3) fun m => { m with
          ue := inc 16 m.ue, ueAddr := a / 64 * 64, ueValid := true }) t)) ∧
  (∀ (c : Nat) (s : State), c < 64 → s.coreUp c = true →
    exec (.starve c) s = .next (s.modCore c fun u => { u with starve := inc 16 u.starve })) ∧
  (∀ (c row : Nat) (s : State), c < 64 → row < spSize / 64 → s.dieUp (coreDie c) = true →
    exec (.spUe c row true) s = .next (s.modCore c fun u => { u with spCe := inc 16 u.spCe }) ∧
    ∃ t, exec (.spUe c row false) s = .next t ∧ t.mem.isPoison (spPlace c (64 * row)) = true ∧
      t.core c = { s.core c with spUe := inc 16 (s.core c).spUe } ∧ t.mem.cells = s.mem.cells ∧
      t.notices.pend.getLsbD (ntSpUe (coreDie c)) = true) ∧
  (∀ (st blk : Nat) (b : MergeBlk) (s : State),
    (s.sta st).merge.find? (fun b => b.blk == blk) = some b → s.stUp st = true →
    (∀ e ∈ (s.sta st).inbox, s.pendsOn st e.2 blk = false) →
    (∀ e ∈ b.bytes, e.1 < 64) → b.bytes.Pairwise (fun x y => x.1 < y.1) →
    ∃ t, exec (.mergeBlockLeave st blk) s = .next t ∧
      (∀ i < 64, t.mem.rd (blk * 64 + i) = tget b.bytes (s.mem.rd (blk * 64 + i)) i) ∧
      (∀ a, a < blk * 64 ∨ blk * 64 + 64 ≤ a → t.mem.rd a = s.mem.rd a) ∧
      (∀ y ∈ (t.sta st).merge, y.blk ≠ blk) ∧ (∀ y ∈ (s.sta st).merge, y.blk ≠ blk → y ∈ (t.sta st).merge) ∧
      t = { s with fab := { s.fab with st := t.fab.st }, mem := t.mem })

/-- R61, R64, R140, R172: a write of LG_TXCFG enables or disables a sown group and is dropped while the group drains, retrains
or is in FAULT; LG_CALCFG sets the calibration interval and starts calibrations when FORCE is set. R207, R209, R322, R325, R440:
a cache die applies KD_SPLIT and KD_REMAP only while its cache holds no line; CORE_RNGSEED reaches the engines that take the
seed; the consumer index of a ring moves no further than its producer index. -/
def Obligations.UnitRegistersTakeEffect : Prop :=
  (∀ (via : Path) (st g : Nat) (data : W32) (s : State),
    st < 14 → isSownTx st g = true → (s.txg st g).hinged = false → (s.sta st).halted = false → (s.txg st g).state = .active →
    data.getLsbD 0 = false →
    ∃ t, exec (.lgTxcfgWrite via st g data) s = .next t ∧
      SameButSignals (s.modTx st g fun x => { x with enable := false, state := .draining }) t) ∧
  (∀ (via : Path) (st g : Nat) (data : W32) (s : State),
    st < 14 → isSownTx st g = true → (s.txg st g).hinged = false → (s.sta st).halted = false → s.drained st g = true →
    (s.txg st g).loopback = false → data.getLsbD 0 = true →
    ∃ t, exec (.lgTxcfgWrite via st g data) s = .next t ∧
      (4 ≤ (s.txg st g).lanes → SameButSignals (s.modTx st g fun x => { x with enable := true, state := .active }) t) ∧
      ((s.txg st g).lanes < 4 → LeftService (s.modTx st g fun x => { x with enable := true }) st g t)) ∧
  (∀ (via : Path) (st g : Nat) (data : W32) (s : State),
    st < 14 → isTx st g = true → (s.txg st g).hinged = false →
    (s.txg st g).state = .draining ∨ (s.txg st g).state = .retrain ∨ (s.txg st g).state = .fault →
    exec (.lgTxcfgWrite via st g data) s = .next (s.dropWrite via (stReg st (4 * g)) .wrongState)) ∧
  (∀ (via : Path) (st : Nat) (data : W32) (s : State),
    st < 14 → (s.sta st).halted = false → 5 ≤ bits data.toNat 6 0 → bits data.toNat 6 0 ≤ 100 →
    bits data.toNat 23 16 ≠ 0 →
    ∃ t, exec (.lgCalcfgForce via st data) s = .next t ∧
      (t.sta st) = { s.sta st with maxint := bits data.toNat 23 16, calDelta := bits data.toNat 6 0 } ∧
      (bit data.toNat 31 = true → ∀ j < numRx st, (s.rxg st j).valid = true → ∃ e ∈ (t.rxg st j).calDue, e.1 = 6) ∧
      (bit data.toNat 31 = false → t.fab.rx = s.fab.rx) ∧
      t = { s with fab := { s.fab with st := t.fab.st, rx := t.fab.rx } }) ∧
  (∀ (via : Path) (st w vc : Nat) (data : W32) (s : State),
    st < 14 → (s.sta st).halted = false → (s.crallocWrite st w vc data).2 = .done →
    exec (.baseCrallocWrite via st w vc data) s = .next (s.crallocWrite st w vc data).1) ∧
  (∀ (n : Nat) (data : W32) (s : State),
    n < 8 → (s.kd n).halted = false → (s.kd n).lines = [] → data.toNat % 16 ≤ 8 →
    ((s.kd n).withAddr (data.toNat % 16)).valid = true →
    ∃ t, exec (.kdSplitWrite n data) s = .next t ∧ (t.kd n).addr = data.toNat % 16 ∧
      SameButSignals ((s.unpost (.kd n)).modKd n fun k => k.withAddr (data.toNat % 16)) t) ∧
  (∀ (n i : Nat) (data : W32) (s : State),
    n < 8 → i < 64 → (s.kd n).halted = false → (s.kd n).lines = [] → (s.kd n).addr ≤ 8 →
    ((s.kd n).withRemap i (bits data.toNat 10 8, bits data.toNat 5 0)).valid = true →
    ∃ t, exec (.kdRemapWrite n i data) s = .next t ∧
      (t.kd n).remapAt i = (bits data.toNat 10 8, bits data.toNat 5 0) ∧
      (∀ j, j ≠ i → (t.kd n).remapAt j = (s.kd n).remapAt j)) ∧
  (∀ (n : Nat) (data : W32) (s : State), n < 8 → (s.kd n).lines ≠ [] →
    exec (.kdSplitWrite n data) s = .next ((s.unpost (.kd n)).dropWrite .unitLate (kdReg n 0) .wrongState)) ∧
  (∀ (via : Path) (core : Nat) (data : W32) (s : State), core < 64 → (s.core core).halted = false →
    ∃ t, exec (.coreRngseedWrite via core data) s = .next t ∧
      (∀ e < 6, (t.eng core e).seedNext = if (s.core core).seedSrc.getLsbD e then some data else (s.eng core e).seedNext) ∧
      t = { s with cores := t.cores }) ∧
  (∀ (via : Path) (r : Nat) (data : W32) (s : State),
    r < 64 → via ≠ .coreStore →
    ((s.cring r).pi + 2 ^ 17 - data.toNat % 2 ^ 17) % 2 ^ 17 ≤ ((s.cring r).pi + 2 ^ 17 - (s.cring r).ci) % 2 ^ 17 →
    ∃ t, exec (.cmdRingciWrite via r data) s = .next t ∧
      SameButSignals (s.modCring r fun c => { c with ci := data.toNat % 2 ^ 17 }) t) ∧
  (∀ (via : Path) (r : Nat) (data : W32) (s : State),
    r < 64 → via ≠ .coreStore →
    ((s.cring r).pi + 2 ^ 17 - (s.cring r).ci) % 2 ^ 17 < ((s.cring r).pi + 2 ^ 17 - data.toNat % 2 ^ 17) % 2 ^ 17 →
    exec (.cmdRingciWrite via r data) s = .next (s.dropWrite via (0x00050300 + 4 * r) .outOfRange))

/-- R458, R460, R461, R463 to R465: the mask and pending bits of the sources that a word names, the end of service, and the
delivery of the lowest source that can be delivered. -/
def Obligations.NoticeRegistersAndDelivery : Prop :=
  (∀ (via : Path) (i : Nat) (data : W32) (s : State), i < 16 → via ≠ .coreStore →
    ∃ t, exec (.noticeMaskSet via i data) s = .next t ∧
      (∀ j < 512, t.notices.mask.getLsbD j
        = (s.notices.mask.getLsbD j || (decide (j / 32 = i) && data.getLsbD (j % 32)))) ∧
      t = { s with notices := { s.notices with mask := t.notices.mask } }) ∧
  (∀ (via : Path) (i : Nat) (data : W32) (s : State), i < 16 → via ≠ .coreStore →
    ∃ t, exec (.noticeMaskClr via i data) s = .next t ∧
      (∀ j < 512, t.notices.mask.getLsbD j
        = (s.notices.mask.getLsbD j && !(decide (j / 32 = i) && data.getLsbD (j % 32)))) ∧
      t = { s with notices := { s.notices with mask := t.notices.mask } }) ∧
  (∀ (via : Path) (i : Nat) (data : W32) (s : State), i < 16 → via ≠ .coreStore →
    ∃ t, exec (.noticePendSet via i data) s = .next t ∧ SameButSignals s t ∧
      (∀ b < 32, data.getLsbD b = true → isSource (32 * i + b) = true →
        t.notices.pend.getLsbD (32 * i + b) = true) ∧
      (∀ j < 512, (j / 32 ≠ i ∨ isSource j = false) → t.notices.pend.getLsbD j = s.notices.pend.getLsbD j)) ∧
  (∀ (via : Path) (i : Nat) (data : W32) (s : State), i < 16 → via ≠ .coreStore →
    ∃ t, exec (.noticePendClr via i data) s = .next t ∧
      (∀ b < 32, data.getLsbD b = true →
        (isCond (32 * i + b) && s.cause (32 * i + b) && !s.ntActive (32 * i + b)) = false →
        t.notices.pend.getLsbD (32 * i + b) = false) ∧
      t = { s with notices := { s.notices with pend := t.notices.pend, pendFt := t.notices.pendFt } }) ∧
  (∀ (via : Path) (data : W32) (s : State), via ≠ .coreStore → s.ntActive (data.toNat % 512) = true →
    ∃ t, exec (.noticeEoi via data) s = .next t ∧
      t.notices.active.getLsbD (data.toNat % 512) = false ∧
      ((isCond (data.toNat % 512) && s.cause (data.toNat % 512)) = true →
        t.notices.pend.getLsbD (data.toNat % 512) = true) ∧
      t = { s with notices := { s.notices with
        active := t.notices.active, pend := t.notices.pend, pendFt := t.notices.pendFt } }) ∧
  (∀ (via : Path) (data : W32) (s : State), via ≠ .coreStore → s.ntActive (data.toNat % 512) = false →
    exec (.noticeEoi via data) s = .next (s.dropWrite via (noticeReg 0x200) .wrongState)) ∧
  (∀ (src : Nat) (s : State), s.firstNotice = some src → (s.cring 0).enable = true → (∀ ft, (s.sendNotice src ft).1 = .done) →
    ∃ t, exec .notice s = .next t ∧ t.notices.active.getLsbD src = true ∧ t.notices.pend.getLsbD src = false ∧
      (∀ j < src, s.deliverable j = false) ∧ s.deliverable src = true) ∧
  (∀ (src : Nat) (s t : State), src < 512 → s.ntActive src = true → s.notices.redeliver ≠ 0 → (s.cring 0).enable = true →
    s.sendNotice src (tget s.notices.activeFt 0 src) = (.done, t) →
    exec (.noticeRedeliver src) s = .next { t with notices := { t.notices with
      resent := inc 16 t.notices.resent, sent := inc 16 t.notices.sent } })

/-- R435, R444 to R446, R453 to R455, R457, R601: a write by any path is dropped with the first status that holds or takes
effect; a posted write waits for its unit; a read changes nothing but what it latches. R448, R459: a parity mismatch halts the
unit that holds the register, and one in an entry of a table ends that entry's use; every mismatch raises CFG_PARITY. -/
def Obligations.RegistersAreReachedAndGuarded : Prop :=
  (∀ (via : Path) (addr : Nat) (data : W32) (s : State), via ≠ .unitLate → s.bridge.mboxGo = none →
    (addr < regBase ∨ regBase + 2 ^ 32 ≤ addr →
      exec (.registerWrite via addr data) s = .next (s.dropWrite via (addr % 2 ^ 32) .outOfRange)) ∧
    (regBase ≤ addr → addr < regBase + 2 ^ 32 → addr % 4 ≠ 0 →
      exec (.registerWrite via addr data) s = .next (s.dropWrite via (addr % 2 ^ 32) .badField)) ∧
    (∀ u b r, regBase ≤ addr → addr < regBase + 2 ^ 32 → addr % 4 = 0 → blockOf (addr - regBase) = some (b, r) →
      (findReg (s.map b) r).isSome = true → pathMay via b = true → slowOf b r = some u → s.unitBusy u = false →
      postRange b r data = true →
      exec (.registerWrite via addr data) s
        = .next { s with bridge := { s.bridge with posted := s.bridge.posted ++ [(u, addr - regBase, data)] } })) ∧
  (∀ (via : Path) (addr : Nat) (data : W32) (t : State) (s : State), via ≠ .unitLate →
    s.tryWrite via (pathVia via) addr data = (t, .done) →
    (∀ b r, blockOf (addr - regBase) = some (b, r) → slowOf b r = none) →
    exec (.registerWrite via addr data) s = .next (t.reload (addr - regBase)).startMbox) ∧
  (∀ (u : SlowUnit) (s : State), s.unitBusy u = true →
    ∃ t e, exec (.postedWriteApply u) s = .next t ∧ e ∈ s.bridge.posted ∧ e.1 = u ∧
      t = State.wroteReg ((s.unpost u).applyWrite e.2.1 e.2.2) (latePath u) e.2.1) ∧
  (∀ (o : Origin) (addr v : Nat) (s : State),
    regBase ≤ addr → addr < regBase + 2 ^ 32 → addr % 4 = 0 → s.regVal (addr - regBase) = some v →
    exec (.regrd o addr) s = .next ((s.latch (addr - regBase)).complete o 0x05 .done (leBytes 4 (BitVec.ofNat 32 v).toNat))) ∧
  (∀ (o : Origin) (addr : Nat) (s : State), (addr < regBase ∨ regBase + 2 ^ 32 ≤ addr) →
    exec (.regrd o addr) s = .next (s.complete o 0x05 .outOfRange [])) ∧
  (∀ (o : Origin) (addr : Nat) (data : W32) (t : State) (st : Status) (s : State),
    s.regWrite (viaPath o.via) o.via addr data = (t, st) → (t.complete o 0x06 st []).bridge.mboxGo = none →
    exec (.regwr o addr data) s = .next (t.complete o 0x06 st [])) ∧
  (∀ (via : Via) (s : State), s.bridge.mboxState = 1 → s.bridge.mboxGo = none →
    exec (.cmdMboxGo via) s = .next (s.dropWrite (viaPath via) ((regBase + 0x50040) % 2 ^ 32) .busy)) ∧
  (∀ (via : Via) (s : State), s.bridge.mboxState ≠ 1 →
    exec (.cmdMboxGo via) s
      = .next (({ s with bridge := { s.bridge with mboxState := 1, mboxGo := some via } } : State).startMbox)) ∧
  (∀ (via : Path) (data : W32) (s : State), s.test.bolt = false →
    ∃ t, exec (.testEnWrite via data) s = .next t ∧ t.test.en = data.getLsbD 0 ∧ t.test.bolt = data.getLsbD 31 ∧
      SameButSignals { s with test := t.test } t) ∧
  (∀ (via : Path) (data : W32) (s : State), s.test.bolt = true →
    exec (.testEnWrite via data) s = .next (s.dropWrite via 0x00080000 .bolted)) ∧
  (∀ (n : Nat) (s : State), n < 8 → (s.kd n).halted = false →
    ∃ t, exec (.paritySweep (.kd n)) s = .next t ∧ (t.kd n).halted = true ∧
      (∀ k, k ≠ n → t.kd k = s.kd k) ∧ t.fab = s.fab ∧ t.cores = s.cores) ∧
  (∀ (c : Nat) (s : State), c < 64 → (s.core c).halted = false →
    ∃ t, exec (.paritySweep (.core c)) s = .next t ∧ t.core c = { s.core c with halted := true } ∧ t.fab = s.fab) ∧
  (∀ (e : Nat) (s : State), e < 2 ^ 16 →
    ∃ t, exec (.paritySweep (.plat e)) s = .next t ∧ e ∈ t.plat.bad ∧ t.notices.pend.getLsbD ntCfgParity = true ∧
      (∀ id, id % 2 ^ 16 = e → t.platMatch id = none) ∧ SameButSignals { s with plat := t.plat } t) ∧
  (∀ (addr : Nat) (s : State),
    ∃ t, exec (.paritySweep (.warden addr)) s = .next t ∧ t.notices.pend.getLsbD ntCfgParity = true ∧ SameButSignals s t)

/-- R229, R230, R233, R235: the request that arrived first is performed; a load stores no byte, and a store within a block
changes the bytes it names as the station performs on them, and no other byte, of any station. R176, R231 to R233, R235: an
atomic answers the value that it found and leaves the new one, a reduction combines its payload with memory, and a multicast
stores at the station's own window. -/
def Obligations.OperationsReachTheirBytes : Prop :=
  (∀ (st w q : Nat) (p : Packet) (bad : List Nat) (s s1 s2 : State),
    s.stServes st = true → (isCS st = true ∨ isMS st = true) →
    (s.sta st).inbox.find? (fun e => isRequest (hdr e.2).op && !s.requestWaits st e.2) = some (w, p) →
    s.takeInbox st (fun p => isRequest (hdr p).op && !s.requestWaits st p) = some ((w, p), s1) →
    s1.opStatus (hdr p).op (hdr p).laddr (hdr p).len (rlenOf p) ((hdr p).xt || (hdr p).sys) = none →
    s1.deadSpan (hdr p).laddr (opSpan (hdr p).op (hdr p).len (rlenOf p)) = false →
    ((hdr p).op = 0x01 → (s.sta st).merge.length ≤ 256 →
      s2 = (s1.openUp st (hdr p).laddr (rlenOf p)).eccSpan st (hdr p).laddr (rlenOf p) bad →
      ∃ t, exec (.load st bad) s = .next t ∧ t.mem.cells = s.mem.cells ∧ (∀ x a, t.stByte x a = s.stByte x a) ∧
        (bad = [] → s2.stRead st (hdr p).laddr (rlenOf p) = s.stRead st (hdr p).laddr (rlenOf p)) ∧
        t = s2.reply st p 0x70 (s2.stRead st (hdr p).laddr (rlenOf p)).1
          (if (s2.stRead st (hdr p).laddr (rlenOf p)).2 then .poisoned else .done) (s2.stRead st (hdr p).laddr (rlenOf p)).2) ∧
    ((hdr p).op = 0x10 → (hdr p).poison = false → s.phys (hdr p).laddr = some q → p.data ≠ [] →
      (hdr p).laddr % 64 + p.data.length ≤ 64 → q % 64 + p.data.length ≤ 64 → (s.sta st).merge.length < 256 →
      ∃ t, exec (.store st bad) s = .next t ∧
        (∀ i, i < p.data.length → t.stByte st (q + i) = p.data.getD i 0) ∧
        (∀ a, a < q ∨ q + p.data.length ≤ a → t.stByte st a = s.stByte st a) ∧
        (∀ x a, x ≠ st → t.stByte x a = s.stByte x a) ∧ t.mem.cells = s.mem.cells)) ∧
  (∀ (st w : Nat) (p : Packet) (bad : List Nat) (s s1 s2 : State),
    s.stServes st = true → (isCS st = true ∨ isMS st = true) →
    (s.sta st).inbox.find? (fun e => isRequest (hdr e.2).op && !s.requestWaits st e.2) = some (w, p) →
    s.takeInbox st (fun p => isRequest (hdr p).op && !s.requestWaits st p) = some ((w, p), s1) →
    exec (.remoteOpPerform st bad) s = .next (s1.performReq st p bad) ∧
    ((hdr p).op = 0x60 → exec (.mcastStorePacket st) s = .next (s1.performReq st p [])) ∧
    (∀ k size, atomicOf (hdr p).op = some (k, size) →
      s1.opStatus (hdr p).op (hdr p).laddr (hdr p).len (rlenOf p) ((hdr p).xt || (hdr p).sys) = none →
      s1.deadSpan (hdr p).laddr size = false → (hdr p).xt = false →
      s2 = (s1.openUp st (hdr p).laddr size).eccSpan st (hdr p).laddr size bad → s2.atomicPoisoned st p size = false →
      exec (.atomic st bad) s = .next ((s2.stWrite st (hdr p).laddr
          (atomicNew k size (s2.stRead st (hdr p).laddr size).1 (p.data.drop 16)) false).reply st p 0x72
          (s2.stRead st (hdr p).laddr size).1 .done false)) ∧
    ((redSize (hdr p).op).isSome = true →
      s1.opStatus (hdr p).op (hdr p).laddr (hdr p).len (rlenOf p) ((hdr p).xt || (hdr p).sys) = none →
      s1.deadSpan (hdr p).laddr (hdr p).len = false → (hdr p).poison = false →
      s2 = (s1.openUp st (hdr p).laddr (hdr p).len).eccSpan st (hdr p).laddr (hdr p).len bad →
      (s2.stRead st (hdr p).laddr (hdr p).len).2 = false →
      exec (.reduction st bad) s = .next ((s2.stWrite st (hdr p).laddr
          (redNew (hdr p).op (s2.stRead st (hdr p).laddr (hdr p).len).1 p.data) false).reply st p 0x71 [] .done false)) ∧
    ((hdr p).op = 0x60 → s1.opStatus 0x60 (mcastAddr st (hdr p).laddr) (hdr p).len (rlenOf p) false = none →
      s1.deadSpan (mcastAddr st (hdr p).laddr) (hdr p).len = false →
      s1.performReq st p bad = ((s1.openUp st (mcastAddr st (hdr p).laddr) (hdr p).len).eccParts st
        (mcastAddr st (hdr p).laddr) (hdr p).len bad).stWrite st (mcastAddr st (hdr p).laddr) p.data (hdr p).poison)) ∧
  (∀ (st : Nat) (bad : List Nat) (s : State), isCS st = true →
    (∀ i < 12, (s.bond st i).state ≠ .up) → (∀ e ∈ (s.sta st).inbox, (redSize (hdr e.2).op).isSome = true) →
    exec (.remoteOpPerform st bad) s = .next s)

/-- R226, R247, R252, R253: the first reply of its kind is taken and ends the operation that it answers; a reply to nothing
outstanding is discarded. Replies match oldest first (log entry 35). R238, R241, R245 to R248, R253, R258, R269: receipts are
filled and expire, operations across the rack are sent again and given up, one to a dead station ends, and a fence ends when
everything it collected has. -/
def Obligations.OperationsEnd : Prop :=
  (∀ (st : Nat) (e : Nat × Packet) (o : Op) (s s1 : State), s.stUp st = true →
    (s.takeInbox st (fun p => (hdr p).op == 0x70) = some (e, s1) →
      (s1.opFor st e.2 = some o → exec (.loadData st) s
        = .next (s1.finish o (answerStatus e.2) e.2.data (answerMask e.2))) ∧
      (s1.opFor st e.2 = none → exec (.loadData st) s = .next s1)) ∧
    (s.takeInbox st (fun p => (hdr p).op == 0x71) = some (e, s1) →
      s1.opFor st e.2 = some o → exec (.ack st) s
        = .next (s1.finish o (answerStatus e.2) e.2.data (answerMask e.2))) ∧
    (s.takeInbox st (fun p => (hdr p).op == 0x72) = some (e, s1) →
      s1.opFor st e.2 = some o → exec (.atomicResult st) s
        = .next (s1.finish o (answerStatus e.2) e.2.data (answerMask e.2))) ∧
    (s.takeInbox st (fun p => (hdr p).op == 0x73) = some (e, s1) →
      s1.opFor st e.2 = some o → exec (.atomicReplayed st) s
        = .next (s1.finish o (answerStatus e.2) e.2.data (answerMask e.2))) ∧
    (s.takeInbox st (fun p => (hdr p).op == 0x90) = some (e, s1) →
      s1.opFor st e.2 = some o → exec (.fault st) s
        = .next (s1.finish o (answerStatus e.2) e.2.data (answerMask e.2))) ∧
    (s.takeInbox st (fun p => (hdr p).op == 0x91) = some (e, s1) →
      s1.opFor st e.2 = some o → exec (.dead st) s = .next (s1.finish o .deadTarget e.2.data 0))) ∧
  (∀ (share w : Nat) (p : Packet) (e : Receipt) (s : State),
    share < 4 → (s.ms share).receipts.find? (fun e => e.pending) = some e → e.waiting = [(w, p)] →
    exec (.receiptFilled share) s = .next ((s.modMs share fun m => { m with
      receipts := m.receipts.map fun x => if x = e then { x with pending := false, waiting := [] } else x
      hit := sat 16 m.hit }).reply w p 0x72 e.old .done false)) ∧
  (∀ (share : Nat) (s : State), share < 4 →
    ∃ t, exec (.receiptExpire share) s = .next t ∧
      (∀ e, e ∈ (t.ms share).receipts ↔ e ∈ (s.ms share).receipts ∧
        (e.pending = true ∨ (s.now - e.ft).toNat < (s.ms share).retain * ticksPerMs)) ∧
      t = { s with mem := { s.mem with ms := t.mem.ms } }) ∧
  (∀ (id : Nat) (r : RackOp) (s : State),
    s.rem.rack.find? (fun r => r.id == id) = some r → ((hdr r.pkt).op = 0x01 ∨ (atomicOf (hdr r.pkt).op).isSome = true) →
    r.resends < 3 → s.stServes r.xs = true →
    ∃ t, exec (.rackOpResend id) s = .next t ∧ t.rem.resent = inc 16 s.rem.resent ∧
      (∃ y ∈ t.rem.rack, y.id = id ∧ y.resends = r.resends + 1 ∧ y.pkt = r.pkt) ∧ t.mem = s.mem ∧ t.bridge = s.bridge) ∧
  (∀ (id : Nat) (r : RackOp) (s : State), s.rem.rack.find? (fun r => r.id == id) = some r →
    ∃ t, exec (.rackOpGiveup id) s = .next t ∧ (∀ y ∈ t.rem.rack, y.id ≠ id) ∧ t.rem.gaveUp = inc 8 s.rem.gaveUp ∧
      t.mem = s.mem) ∧
  (∀ (id tgt : Nat) (o : Op) (s : State),
    s.rem.ops.find? (fun o => o.id == id) = some o → o.sent = true → o.target = some tgt → s.stServes tgt = false →
    exec (.deadTargetTimeout id) s = .next (s.finish o .deadTarget [] 0)) ∧
  (∀ (c x : Nat) (f : Fence) (s : State),
    s.ctxFence c x = some f → f.ops = [] → (s.ctx c x).sheafOut = 0 → (s.ctx c x).state = .wait → (s.ctx c x).why = .fence →
    (s.ctx c x).sig.getLsbD 15 = false →
    ∃ t, exec (.fenceComplete c x) s = .next t ∧ (t.ctx c x).state = .ready ∧ (t.ctx c x).sigOp = 0 ∧
      (t.ctx c x).worst = (s.ctx c x).worst.worse f.worst ∧ t.rem = { s.rem with fences := s.rem.fences.erase f }) ∧
  (∀ (c x : Nat) (s : State),
    (s.ctx c x).parked = [] → ((s.ctx c x).sigOp = 0x18 ∨ (s.ctx c x).sigOp = 0x1A) → (s.ctx c x).state = .parked →
    (s.ctx c x).sig.getLsbD 15 = false →
    ∃ t, exec (.parkedReplyWritten c x) s = .next t ∧ (t.ctx c x).state = .ready ∧ (t.ctx c x).sigOp = 0 ∧ t.mem = s.mem)

/-- R268, R270, R271: a launch that its checks pass makes the context READY at the list with its registers as given; a stop ends
its waits and a resume makes a paused context READY; a launch of a context at work is turned away. R266, R272, R279, R282: a
control operation that its checks pass issues when its context's turn comes: the other contexts take the states that their next
operations give them, its tokens are taken, its pc passes it, and it executes. R266, R277: a descriptor that fails a check
faults its context with the cause and status of the first one, and one for an engine takes its place in the engine's queue with
its addresses resolved. -/
def Obligations.ContextsAreLaunchedAndTheirDescriptorsDispatched : Prop :=
  (∀ (o : Origin) (p : LaunchParams) (s : State), firstFail (s.launchChecks p) = none →
    ∃ t, exec (.ctxLaunch o p) s = .next t ∧
      t.ctx p.core p.ctx = { (s.ctx p.core p.ctx).launch p (if o.mbox then 0 else o.hopper) o.tag with
        state := .ready, why := .none } ∧
      (t.ctx p.core p.ctx).pc = BitVec.ofNat 44 p.list ∧ (t.ctx p.core p.ctx).loops = [] ∧
      (∀ c x, (c, x) ≠ (p.core, p.ctx) → t.ctx c x = s.ctx c x) ∧
      SameButRecord { s with cores := t.cores, rem := t.rem, fab := { s.fab with net := t.fab.net } } t) ∧
  (∀ (o : Origin) (p : LaunchParams) (s : State),
    (s.ctx p.core p.ctx).state ≠ .idle → (s.ctx p.core p.ctx).state ≠ .fault →
    exec (.ctxLaunch o p) s = .next (s.complete o 0x40 .wrongState [])) ∧
  (∀ (o : Origin) (c x : Nat) (s : State), firstFail (s.coreChecks c x) = none → s.stopped c x = false →
    ∃ t, exec (.ctxStop o c x) s = .next t ∧ t.ctx c x = { s.ctx c x with state := .stopping, why := .none } ∧
      t.mem = s.mem ∧ t.sheaves.answers = s.sheaves.answers ∧
      (∀ i, ∀ w ∈ (t.sheaf i).waiters, ¬(w.core = c ∧ w.ctx = x))) ∧
  (∀ (o : Origin) (c x : Nat) (s : State), firstFail (s.coreChecks c x) = none → s.stopped c x = true →
    exec (.ctxStop o c x) s = .next (s.complete o 0x41 .done [])) ∧
  (∀ (o : Origin) (c x : Nat) (s : State), firstFail (s.coreChecks c x) = none → (s.ctx c x).state = .paused →
    ∃ t, exec (.ctxResume o c x) s = .next t ∧ t.ctx c x = { s.ctx c x with state := .ready, why := .none } ∧
      SameButRecord { s with cores := t.cores } t) ∧
  (∀ (c x : Nat) (s : State),
    (s.ctx c x).state = .stopping → (s.ctx c x).parked = [] → s.queued c x = 0 → s.answerComes c x = false →
    s.endRoom c x = true →
    ∃ t, exec (.stoppingEnd c x) s = .next t ∧ t.ctx c x = { s.ctx c x with state := .idle, why := .none } ∧
      t.bridge.waiting = s.bridge.waiting ++ (if (s.ctx c x).noend then [] else
        [s.endRecord c x .wrongState (s.ctx c x).pc.toNat false]) ∧
      SameButRecord { s with cores := t.cores } t) ∧
  (∀ (c x : Nat) (d : BitVec 256) (s s1 : State),
    s.seqRuns c = true → s.pick c = some x → s.nextOp c x = some d → (s.refresh c).descBad c x d = none → dEng d = 0 →
    s1 = (((s.refresh c).tookTurn c x).takeTokens c (dTokens d)).modCtx c x (fun t => { t with pc := t.pc + 32 }) →
    exec (.sequencerIssue c) s = .next (s1.control c x d) ∧
    ∀ e ∈ [(Instr.nop (.ctx c x), 0x00), (.endList c x, 0x01), (.loop c x, 0x02), (.endloop c x, 0x03), (.call c x, 0x04),
        (.ret c x, 0x05), (.branch c x, 0x06), (.setb c x, 0x08), (.addb c x, 0x09), (.ldb c x, 0x0A), (.tokclr c x, 0x0B),
        (.shTake c x, 0x10), (.shAdd c x, 0x11), (.shDrain c x, 0x12), (.waitt c x, 0x13), (.waitc c x, 0x14),
        (.fence c x, 0x15), (.pause c x, 0x16), (.rload c x [], 0x18), (.rstore c x, 0x19), (.ratom c x, 0x1A)],
      dOp d = e.2 → exec e.1 s = .next (s1.control c x d)) ∧
  (∀ (c x cause : Nat) (st : Status) (d : BitVec 256) (s : State),
    s.seqRuns c = true → s.pick c = some x → s.nextOp c x = some d → (s.refresh c).descBad c x d = some (cause, st) →
    (s.refresh c).ctx c x = { s.ctx c x with state := .ready, why := .none } →
    ∃ t, exec (.sequencerIssue c) s = .next t ∧ (t.ctx c x).state = .fault ∧ (t.ctx c x).pc = (s.ctx c x).pc ∧
      (t.core c).seqFault = seqFaultWord x cause (dEng d) (dOp d) st ∧ t.mem = s.mem) ∧
  (∀ (c x : Nat) (d : BitVec 256) (s : State),
    s.seqRuns c = true → s.pick c = some x → s.nextOp c x = some d → (s.refresh c).descBad c x d = none → dEng d ≠ 0 →
    ∃ t, exec (.sequencerIssue c) s = .next t ∧ (t.ctx c x).pc = (s.ctx c x).pc + 32 ∧
      (t.eng c (dEng d - 1)).queue = (s.eng c (dEng d - 1)).queue ++
        [{ d := d, ctx := x, addrs := (addrBytes d).map (fun i => (s.refresh c).operand c x d i), begun := false
           result := none, progress := 0, entry := none, reading := false, got := [], gotWorst := .done
           ops := [], worst := .done }] ∧ t.mem = s.mem) ∧
  (∀ (c : Nat) (s : State), s.seqRuns c = true → s.pick c = none → exec (.sequencerIssue c) s = .next (s.refresh c))

/-- R267, R269, R278, R282, R284, R359: what each control operation does to its context, its pc already past it. -/
def Obligations.ControlOperationsHaveTheirEffects : Prop :=
  ∀ (c x : Nat) (d : BitVec 256) (s : State),
    (dOp d = 0x00 → ((s.control c x d).ctx c x).pc = (s.ctx c x).pc) ∧
    (dOp d = 0x01 → ((s.control c x d).ctx c x).state = .wait ∧ ((s.control c x d).ctx c x).why = .endRec ∧
      ((s.control c x d).ctx c x).endAddr = (s.ctx c x).pc - 32 ∧
      (s.control c x d).rem.fences = s.rem.fences ++
        [{ core := c, ctx := x, engine := false, ops := s.fenceOps c x 0, worst := .done }]) ∧
    (dOp d = 0x02 → ((s.control c x d).ctx c x).loops = ((s.ctx c x).pc, dB d 8 4) :: (s.ctx c x).loops ∧
      ((s.control c x d).ctx c x).pc = (s.ctx c x).pc) ∧
    (∀ a n r, dOp d = 0x03 → (s.ctx c x).loops = (a, n) :: r →
      (1 < n → ((s.control c x d).ctx c x).pc = a ∧ ((s.control c x d).ctx c x).loops = (a, n - 1) :: r) ∧
      (n ≤ 1 → ((s.control c x d).ctx c x).pc = (s.ctx c x).pc ∧ ((s.control c x d).ctx c x).loops = r)) ∧
    (dOp d = 0x04 → ((s.control c x d).ctx c x).calls = (s.ctx c x).pc :: (s.ctx c x).calls ∧
      ((s.control c x d).ctx c x).pc = BitVec.ofNat 44 (s.operand c x d 8)) ∧
    (∀ a r, dOp d = 0x05 → (s.ctx c x).calls = a :: r →
      ((s.control c x d).ctx c x).pc = a ∧ ((s.control c x d).ctx c x).calls = r) ∧
    (dOp d = 0x06 → ((s.control c x d).ctx c x).pc =
      if decide (s.token c (d6 d) ≠ 0) = (d7 d == 1) then
        (s.ctx c x).pc - 32 + BitVec.ofInt 44 (32 * sNat 32 (dB d 8 4)) else (s.ctx c x).pc) ∧
    (dOp d = 0x08 → ((s.control c x d).ctx c x).bases = tset (s.ctx c x).bases 0 (d6 d) (BitVec.ofNat 44 (dB d 8 6))) ∧
    (dOp d = 0x09 → ((s.control c x d).ctx c x).bases = tset (s.ctx c x).bases 0 (d6 d)
      (BitVec.ofNat 44 (s.base c x (d6 d)) + BitVec.ofNat 44 (dB d 8 8))) ∧
    (dOp d = 0x0A → s.spPoison c (s.operand c x d 8 - spOf c) 8 = false →
      ((s.control c x d).ctx c x).bases = tset (s.ctx c x).bases 0 (d6 d)
        (BitVec.ofNat 44 (leNat (s.spRead c (s.operand c x d 8 - spOf c) 8)))) ∧
    (dOp d = 0x0A → s.spPoison c (s.operand c x d 8 - spOf c) 8 = true →
      ((s.control c x d).ctx c x).bases = (s.ctx c x).bases ∧
      ((s.control c x d).core c).seqFault = seqFaultWord x 8 0 0x0A .poisoned) ∧
    (dOp d = 0x0B → (dSig d).getLsbD 15 = false → ∀ i < 64,
      (s.control c x d).token c i = if bit (dB d 8 8) i then 0 else s.token c i) ∧
    (dOp d = 0x10 → ((s.control c x d).ctx c x).state = .wait ∧ ((s.control c x d).ctx c x).why = .sheaf) ∧
    (dOp d = 0x11 ∨ dOp d = 0x12 → ((s.control c x d).ctx c x).sheafOut = (s.ctx c x).sheafOut + 1 ∧
      ((s.control c x d).ctx c x).state = (s.ctx c x).state) ∧
    (dOp d = 0x13 → dB d 8 8 < s.ftCopy (coreRegion c) → ((s.control c x d).ctx c x).late = true) ∧
    (dOp d = 0x13 → s.ftCopy (coreRegion c) ≤ dB d 8 8 → ((s.control c x d).ctx c x).state = .wait ∧
      ((s.control c x d).ctx c x).why = .waitt ∧ ((s.control c x d).ctx c x).waitFt = BitVec.ofNat 64 (dB d 8 8)) ∧
    (dOp d = 0x14 → ((s.control c x d).ctx c x).state = .wait ∧ ((s.control c x d).ctx c x).why = .waitc ∧
      ((s.control c x d).ctx c x).waitCycles = dB d 8 4) ∧
    (dOp d = 0x15 → ((s.control c x d).ctx c x).state = .wait ∧ ((s.control c x d).ctx c x).why = .fence ∧
      (s.control c x d).rem.fences = s.rem.fences ++
        [{ core := c, ctx := x, engine := false, ops := s.fenceOps c x (d6 d), worst := .done }]) ∧
    (dOp d = 0x16 → (dSig d).getLsbD 15 = false → ((s.control c x d).ctx c x).state = .paused)

/-- R242, R280, R282: RLOAD and RATOM park their context, whatever comes of the operation, until PARKED_REPLY_WRITTEN; a
context's atomics are numbered in turn; RSTORE does not park it. R269, R272, R280, R343, R344, R359: the waits of a context end,
and END's end record is queued when its fence, its descriptors and its sheaf operations are done. -/
def Obligations.ContextsParkAndTheirWaitsEnd : Prop :=
  (∀ (c x : Nat) (d : BitVec 256) (s : State),
    (dOp d = 0x18 → ((s.control c x d).ctx c x).state = .parked ∧ ((s.control c x d).ctx c x).sigOp = 0x18 ∧
      ((s.control c x d).ctx c x).aseq = (s.ctx c x).aseq) ∧
    (dOp d = 0x1A → ((s.control c x d).ctx c x).state = .parked ∧ ((s.control c x d).ctx c x).sigOp = 0x1A ∧
      ((s.control c x d).ctx c x).aseq = (s.ctx c x).aseq + 1) ∧
    (dOp d = 0x19 → (dSig d).getLsbD 15 = false → ((s.control c x d).ctx c x).state = (s.ctx c x).state ∧
      ((s.control c x d).ctx c x).pc = (s.ctx c x).pc)) ∧
  (∀ (c x : Nat) (s : State),
    (s.ctx c x).state = .wait → (s.ctx c x).why = .waitt → s.ftValid (coreRegion c) = true →
    (s.ctx c x).waitFt.toNat ≤ s.ftCopy (coreRegion c) → (s.ctx c x).sig.getLsbD 15 = false →
    ∃ t, exec (.waittEnd c x) s = .next t ∧
      t.ctx c x = { s.ctx c x with state := .ready, why := .none, sigOp := 0 } ∧ SameButSignals { s with cores := t.cores } t) ∧
  (∀ (c x : Nat) (s : State),
    (s.ctx c x).state = .wait → (s.ctx c x).why = .waitc → (s.region (coreRegion c)).state = 0 →
    (s.ctx c x).sig.getLsbD 15 = false →
    ∃ t, exec (.waitcEnd c x) s = .next t ∧
      t.ctx c x = { s.ctx c x with state := .ready, why := .none, sigOp := 0, waitCycles := 0 } ∧
      SameButSignals { s with cores := t.cores } t) ∧
  (∀ (c x : Nat) (s : State), s.endDone c x = true → (s.ctx c x).sig.getLsbD 15 = false →
    ∃ t, exec (.contextEntersIdle c x) s = .next t ∧
      t.ctx c x = { s.ctx c x with state := .idle, why := .none, sigOp := 0 } ∧
      t.bridge.waiting = s.bridge.waiting ++ (if (s.ctx c x).noend then [] else
        [s.endRecord c x (s.ctx c x).worst (s.ctx c x).endAddr.toNat false])) ∧
  (∀ (c x : Nat) (a : SheafAns) (s : State),
    s.sheaves.answers.find? (fun a => a.core == c && a.ctx == x) = some a → a.status = .done → a.sig.getLsbD 15 = false →
    ∃ t, exec (.sheafAnswer c x) s = .next t ∧ t.sheaves.answers = s.sheaves.answers.erase a ∧
      (a.op = 0x10 → (s.ctx c x).state = .wait → (s.ctx c x).why = .sheaf → (t.ctx c x).state = .ready) ∧
      (a.op ≠ 0x10 → (t.ctx c x).sheafOut = (s.ctx c x).sheafOut - 1 ∧ (t.ctx c x).state = (s.ctx c x).state)) ∧
  (∀ (c : Nat) (m : MeshSignal) (r : List MeshSignal) (s : State),
    (s.core c).meshIn = m :: r → s.coreUp c = true → s.token c m.token < 15 →
    ∃ t, exec (.xcTokenSignal c) s = .next t ∧ (t.core c).meshIn = r ∧ t.token c m.token = s.token c m.token + 1 ∧
      (∀ i, i ≠ m.token → t.token c i = s.token c i) ∧ t = { s with cores := t.cores }) ∧
  (∀ (c x b : Nat) (s : State),
    s.seqRuns c = true → x < 16 → (s.ctx c x).fetching = false → (s.ctx c x).descAt (s.ctx c x).pc.toNat = none →
    (s.ctx c x).issuing = true → (s.ctx c x).fetchBlock = some b →
    (nearBlock c b = true → exec (.prefetchRefill c x) s
      = .next (s.modCtx c x fun t => { t with fetching := true, fetched := none })) ∧
    (nearBlock c b = false → s.fetchOut c x = false → exec (.prefetchRefill c x) s
      = .next ((s.modCtx c x fun t => { t with fetching := true, fetched := none }).sendFetch c x b)))

/-- R279, R285, R286, R288, R297, R310 to R313, R620: a matrix engine's LOADW fills the shadow tile, MATMUL leaves each row's
sum in its accumulators unless formats or kinds conflict, and EPI clears its rows when asked; none ends without a status. -/
def Obligations.MatrixDescriptorsRun : Prop :=
  (∀ (c e i : Nat) (q : QDesc) (s : State), s.startable c e 0x20 = some (i, q) → s.engRuns c e 0 3 = true →
    ∃ t, exec (.loadw c e) s = .next t ∧ (t.eng c e).shadow = some ((s.beginAt c e i q).loadTile c q) ∧
      (t.eng c e).queue[i]? = some { q with begun := true, result := some .done } ∧
      (t.eng c e).acc = (s.eng c e).acc ∧ t.mem = s.mem) ∧
  (∀ (c e i : Nat) (q : QDesc) (g : Engine) (s : State), s.startable c e 0x21 = some (i, q) → s.engRuns c e 0 3 = true →
    g = (if bit (d6 q.d) 4 then (s.eng c e).swap else s.eng c e) →
    (g.active.fits (d6 q.d % 16) = false ∨ g.kindConflict q = true) →
    ∃ t, exec (.matmul c e) s = .next t ∧ (t.eng c e).acc = (s.eng c e).acc ∧
      (t.eng c e).queue[i]? = some { q with begun := true, result := some .badField } ∧
      (t.core c).seqFault = seqFaultWord q.ctx 2 (e + 1) (dOp q.d) .badField ∧ t.mem = s.mem) ∧
  (∀ (c e i r : Nat) (q : QDesc) (g : Engine) (s : State), s.startable c e 0x21 = some (i, q) →
    s.engRuns c e 0 3 = true → g = (if bit (d6 q.d) 4 then (s.eng c e).swap else s.eng c e) →
    g.active.fits (d6 q.d % 16) = true → g.kindConflict q = false → s.matmulPoison c q = false → g.active.poison = false →
    dB q.d 16 2 = 1 → dB q.d 18 2 = r → isMx (d6 q.d % 16) = false → bit (d6 q.d) 6 = false → (g.accRow r).poison = false →
    ∃ t, exec (.matmul c e) s = .next t ∧
      (t.eng c e).accRow r = (matRow g.active (d6 q.d % 16) (bit (d6 q.d) 5) false (g.accRow r) (g.accRow (r + 256))
        (scaledVals (d6 q.d % 16) (s.codes c (q.off c 8) (d6 q.d % 16) (fmtK (d6 q.d % 16))) [])).1 ∧
      (∀ k, k ≠ r → (t.eng c e).accRow k = (s.eng c e).accRow k) ∧
      (t.eng c e).queue[i]? = some { q with begun := true, result := some .done } ∧ t.mem = s.mem) ∧
  (∀ (c e i : Nat) (q : QDesc) (s : State), s.startable c e 0x22 = some (i, q) → s.engRuns c e 0 3 = true →
    (s.eng c e).epiKind (dB q.d 8 2) (dB q.d 10 2) = none →
    ∃ t, exec (.epi c e) s = .next t ∧ (t.eng c e).acc = (s.eng c e).acc ∧
      (t.eng c e).queue[i]? = some { q with begun := true, result := some .badField } ∧ t.mem = s.mem) ∧
  (∀ (c e i : Nat) (k : AccKind) (q : QDesc) (s : State), s.startable c e 0x22 = some (i, q) → s.engRuns c e 0 3 = true →
    (s.eng c e).epiKind (dB q.d 8 2) (dB q.d 10 2) = some k → (d6 q.d % 16 = 0xC → k ≠ .floating) →
    ∃ t, exec (.epi c e) s = .next t ∧
      (bit (d6 q.d) 6 = true → ∀ r < dB q.d 10 2, (t.eng c e).accRow (dB q.d 8 2 + r) = AccRow.reset) ∧
      (bit (d6 q.d) 6 = false → (t.eng c e).acc = (s.eng c e).acc) ∧
      (t.eng c e).queue[i]? = some { q with begun := true, result := some .done })

/-- R281, R289, R290, R297: each vector row begins the engine's next descriptor of its opcode, does all its work and completes
DONE; results go to DST and no other byte of memory changes. R212, R237, R280, R281, R293 to R296, R424: a row of the transfer
engine begins its descriptor when its tokens are there and goes on with it; a completed descriptor leaves its queue, and its
status reaches its context. -/
def Obligations.VectorAndTransferDescriptorsRun : Prop :=
  (∀ (c e i : Nat) (q : QDesc) (s : State), s.engRuns c e 4 5 = true →
    ∀ v ∈ ([(.vadd c e, 0x40, runBinary addF c e), (.vsub c e, 0x41, runBinary subF c e),
        (.vmul c e, 0x42, runBinary mulF c e), (.vfma c e, 0x43, runVfma c e), (.vmax c e, 0x44, runBinary maxF c e),
        (.vmin c e, 0x45, runBinary minF c e), (.vcvt c e, 0x46, runVcvt c e), (.vexp2 c e, 0x48, runFn .exp2 c e),
        (.vlog2 c e, 0x49, runFn .log2 c e), (.vrcp c e, 0x4A, runFn .rcp c e), (.vrsqrt c e, 0x4B, runFn .rsqrt c e),
        (.vtanh c e, 0x4C, runFn .tanh c e), (.verf c e, 0x4D, runFn .erf c e), (.vsmax c e, 0x50, runVsmax c e),
        (.vsexp c e, 0x51, runVsexp c e), (.vrow c e, 0x52, runVrow c e), (.vnorm c e, 0x53, runVnorm c e),
        (.vtopk c e, 0x54, runVtopk c e), (.vgather c e, 0x58, runVgather c e),
        (.vscatter c e, 0x59, runVscatter c e)] : List (Instr × Nat × (QDesc → State → State × Status))),
      s.startable c e v.2.1 = some (i, q) →
      ∃ t, exec v.1 s = .next t ∧ t = (v.2.2 q (s.beginAt c e i q)).1.setResult c e i .done ∧
        (t.eng c e).queue[i]? = some { q with begun := true, result := some .done } ∧ t.fab = s.fab) ∧
  (∀ (c e : Nat) (q : QDesc) (fromInt : Bool) (rows : VOut) (s : State),
    ((s.vecWrite c e q fromInt false rows).spRead c (q.off c 16)
        (vecOut q.ofmt q.rnd fromInt (s.drawAt c e) rows).1.length
      = (vecOut q.ofmt q.rnd fromInt (s.drawAt c e) rows).1) ∧
    (∀ a, a < spPlace c (q.off c 16) ∨
        spPlace c (q.off c 16) + (vecOut q.ofmt q.rnd fromInt (s.drawAt c e) rows).1.length ≤ a →
      (s.vecWrite c e q fromInt false rows).mem.rd a = s.mem.rd a)) ∧
  (∀ (c e : Nat) (q : QDesc) (f : FVal → FVal → FVal) (s : State),
    s.vecPoison c [q.src1 c, q.src2 c] = false →
    (runBinary f c e q s).1 = s.vecWrite c e q false false (q.rows.map fun r =>
      ((s.vecIn c (q.off c 8) q.ifmt q.n r).zip (s.vecIn2 c q r)).map fun x => VRes.of [x.1, x.2] (f x.1 x.2))) ∧
  (∀ (c : Nat) (q : QDesc) (s s0 : State),
    s.teHead c = some q → s.engRuns c 6 6 6 = true → (q.begun = true ∨ s.tokensReady c (dTokens q.d) = true) →
    q.result = none → s0 = (if q.begun then s else s.beginAt c 6 0 q) →
    (dOp q.d = 0x80 → ∀ bad, exec (.copy c bad) s = .next (runCopy c q (s0.ownBads (coreDie c) bad))) ∧
    (dOp q.d = 0x81 → exec (.gather c) s = .next (State.pagesOn c 192 s0)) ∧
    (dOp q.d = 0x82 → exec (.scatter c) s = .next (State.pagesOn c 192 s0)) ∧
    (dOp q.d = 0x83 → exec (.mcastStore c) s = .next (State.mcastOn c q 64 s0)) ∧
    (dOp q.d = 0x84 → exec (.reduceInto c) s = .next (State.reduceOn c q 64 s0)) ∧
    (dOp q.d = 0x85 → (s.kd (coreDie c)).halted = false → exec (.kdFlush c) s = .next (State.flushOn c q 64 s0)) ∧
    (dOp q.d = 0x86 → (s.kd (coreDie c)).halted = false →
      ∃ t, exec (.kdInvalidate c) s = .next t ∧
        (∀ l, l ∈ (t.kd (coreDie c)).lines ↔ l ∈ (s.kd (coreDie c)).lines ∧ q.covers l.line = false) ∧
        (∀ n, n ≠ coreDie c → t.kd n = s.kd n) ∧ t.mem.cells = s.mem.cells) ∧
    (dOp q.d = 0x87 → q.begun = false →
      ∃ t, exec (.teFence c) s = .next t ∧ t.rem = { s.rem with fences := s.rem.fences ++
        [{ core := c, ctx := q.ctx, engine := true, ops := s.fenceOps c q.ctx (d6 q.d), worst := .done }] } ∧
        t.mem = s.mem)) ∧
  (∀ (c e i : Nat) (q : QDesc) (st : Status) (s : State),
    s.completable c e = some (i, q, st) → s.engRuns c e 0 6 = true → (e = 6 → dOp q.d ≠ 0x87) → (dSig q.d).getLsbD 15 = false →
    ∃ t, exec (.descriptorComplete c e) s = .next t ∧ (t.eng c e).queue = (s.eng c e).queue.eraseIdx i ∧
      (t.ctx c q.ctx).worst = (s.ctx c q.ctx).worst.worse st ∧ t = { s with cores := t.cores }) ∧
  (∀ (c e i : Nat) (q : QDesc) (s : State), s.startable c e 0x00 = some (i, q) → s.engRuns c e 0 6 = true →
    exec (.nop (.engine c e)) s = .next ((s.beginAt c e i q).setResult c e i .done)) ∧
  (∀ (o : Origin) (s : State), exec (.nop (.host o)) s = .next (s.complete o 0x00 .done []))

/-- R347, R352: a SOW_SET that its checks pass loads one entry behind those of its table, under the next load index of its sow
(from 0, the model's reading); one that they turn away changes nothing but its record. A SOW_CANCEL removes the entries of its
sow that have not fired, whose sow then reports WRONG_STATE, and NOT_PRESENT where there are none. R346, R348, R349, R351: the
entry that fires is due, none of its table is due before it, and of those due at its instant it was loaded first. A RELEASE
within LIMIT is freed, adds to its sheaf and counts LATE where it is; a sow with nothing armed and nothing running writes its
completion and is gone. -/
def Obligations.SowsAreLoadedFiredAndCancelled : Prop :=
  (∀ (o : Origin) (p : SowParams) (s : State), firstFail (s.sowChecks p) = none →
    ∃ t, exec (.sowSet o p) s = .next t ∧
      t.sowTab (sowKey p.table p.unitNo) = s.sowTab (sowKey p.table p.unitNo) ++
        [{ sowid := p.sowid, kind := p.kind, ft := p.ft, ring := p.ring, action := p.action
           idx := ((s.sowRun (sowKey p.table p.unitNo) p.sowid).map SowRun.loaded).getD 0
           lateLoad := decide (p.ft.toNat < s.ftCopy (sowNode p.table p.unitNo)) }] ∧
      (∀ k, k ≠ sowKey p.table p.unitNo → t.sowTab k = s.sowTab k) ∧
      (s.sowRun (sowKey p.table p.unitNo) p.sowid = none →
        t.sows.runs = s.sows.runs ++ [{ table := sowKey p.table p.unitNo, sowid := p.sowid, ring := p.ring, loaded := 1
                                        running := 0, ran := 0, doneCount := 0, first := none, late := false }]) ∧
      SameButRecord { s with sows := t.sows } t) ∧
  (∀ (o : Origin) (p : SowParams) (st : Status) (s : State), firstFail (s.sowChecks p) = some st →
    exec (.sowSet o p) s = .next (s.complete o 0xA3 st [])) ∧
  (∀ (o : Origin) (u : SowTable) (n : Nat) (id : BitVec 16) (s : State),
    n < sowUnits u → s.sowUnitUp u n = true → s.sowUnitHalted u n = false →
    ((∃ e ∈ s.sowTab (sowKey u n), e.sowid = id) →
      ∃ t, exec (.sowCancel o u n id) s = .next t ∧
        t.sowTab (sowKey u n) = (s.sowTab (sowKey u n)).filter (fun e => !(e.sowid == id)) ∧
        (∀ k, k ≠ sowKey u n → t.sowTab k = s.sowTab k) ∧
        (∀ r, s.sowRun (sowKey u n) id = some r → r.first = none →
          ∃ r' i, t.sowRun (sowKey u n) id = some r' ∧ r'.first = some (i, .wrongState) ∧ r'.ran = r.ran) ∧
        SameButRecord { s with sows := t.sows } t) ∧
    ((∀ e ∈ s.sowTab (sowKey u n), e.sowid ≠ id) →
      exec (.sowCancel o u n id) s = .next (s.complete o 0xA4 .notPresent []))) ∧
  (∀ (u : SowTable) (n : Nat) (e : SowEntry) (s : State), s.sowDue u n = some e →
    ∃ a b, s.sowTab (sowKey u n) = a ++ e :: b ∧ e.ft.toNat ≤ s.ftCopy (sowNode u n) ∧
      (∀ x ∈ a, x.ft.toNat ≤ s.ftCopy (sowNode u n) → e.ft.toNat < x.ft.toNat) ∧
      (∀ x ∈ b, e.ft.toNat ≤ x.ft.toNat)) ∧
  (∀ (u : SowTable) (n : Nat) (late : Bool) (e : SowEntry) (s : State),
    s.sowDue u n = some e → n < sowUnits u → s.ftValid (sowNode u n) = true → s.sowUnitUp u n = true →
    s.sowUnitHalted u n = false → (u = .core → (s.core n).asleep = false) →
    exec (.sowEntryFire u n late) s = .next (s.sowFire u n e late)) ∧
  (∀ (n i m : Nat) (late : Bool) (e : SowEntry) (s : State),
    s.sowDue .station n = some e → n < 14 → s.ftValid (32 + n) = true → s.stUp n = true → (s.sta n).halted = false →
    e.kind = 4 → sheafAddOf (actionCmd e.action) = some (i, m) → i < 16384 → s.fieldUp (sheafBank i) = true →
    (s.sheaf i).value + m ≤ (s.sheaf i).limit → (s.sheaf i).waiters = [] →
    ∃ t, exec (.sowEntryFire .station n late) s = .next t ∧
      t.sowTab (64 + n) = (s.sowTab (64 + n)).erase e ∧ (∀ k, k ≠ 64 + n → t.sowTab k = s.sowTab k) ∧
      t.sheaf i = { s.sheaf i with value := (s.sheaf i).value + m } ∧ (∀ j, j ≠ i → t.sheaf j = s.sheaf j) ∧
      (t.sta n).sowLate = (if e.lateLoad || late || decide (e.ft.toNat + 3 ≤ s.now.toNat) then inc 16 (s.sta n).sowLate
        else (s.sta n).sowLate) ∧
      t = { s with sows := t.sows, sheaves := { s.sheaves with sheaf := t.sheaves.sheaf }
                   fab := { s.fab with st := t.fab.st } }) ∧
  (∀ (u : SowTable) (n : Nat) (id : BitVec 16) (r : SowRun) (s : State),
    s.sowRun (sowKey u n) id = some r → r.running = 0 → (∀ e ∈ s.sowTab (sowKey u n), e.sowid ≠ id) → s.placeFree = true →
    ∃ t, exec (.sowCompletion u n id) s = .next t ∧
      t.sows = { s.sows with runs := s.sows.runs.erase r } ∧
      t.bridge.waiting = s.bridge.waiting ++ [s.sowRecord r] ∧
      SameButRecord { s with sows := t.sows } t)

/-- R357, R359: waiting TAKEs are completed from the oldest onward, each one's N taken from VALUE, until one's N exceeds VALUE;
each one's answer sets out over the narrow net for the drill of its core's cluster. -/
def Obligations.WaitersAreServedFromTheOldest : Prop :=
  (∀ (v : Nat) (l : List Waiter),
    (serveList v l).1 ++ (serveList v l).2.2 = l ∧
    (serveList v l).2.1 + ((serveList v l).1.map Waiter.n).sum = v ∧
    (∀ w, (serveList v l).2.2.head? = some w → (serveList v l).2.1 < w.n)) ∧
  (∀ (i : Nat) (s : State),
    (s.serve i).sheaf i = { s.sheaf i with
      value := (serveList (s.sheaf i).value (s.sheaf i).waiters).2.1
      waiters := (serveList (s.sheaf i).value (s.sheaf i).waiters).2.2 } ∧
    (∀ j, j ≠ i → (s.serve i).sheaf j = s.sheaf j) ∧
    (∀ n, tget (s.serve i).fab.net [] n = tget s.fab.net [] n ++
      ((serveList (s.sheaf i).value (s.sheaf i).waiters).1.filter fun w => 18 + w.core / 4 == n).map fun w =>
        wakeMsg { core := w.core, ctx := w.ctx, op := 0x10, status := .done, sig := w.sig }) ∧
    s.serve i = { s with sheaves := { s.sheaves with sheaf := (s.serve i).sheaves.sheaf }
                         fab := { s.fab with net := (s.serve i).fab.net } })

/-- R355, R356, R358, R359, R367: the operation that arrived first at a bank is performed on its sheaf and answered: ADD and
DRAIN within their bounds move VALUE, and beyond them fault and leave it; a TAKE that finds none ahead and enough in VALUE takes
it at once, one above LIMIT faults, any other waits; READ changes no sheaf. A TAKE that has waited too long leaves the queue
without subtracting. An answer sets out over the narrow net for the drill of its core's cluster. -/
def Obligations.BanksPerformOperations : Prop :=
  (∀ (k c x : Nat) (r : BankReq) (l : List BankReq) (s : State),
    (s.bank k).inbox = r :: l → s.bistHolds 2 k = false → s.fieldUp k = true → r.from? = some (c, x) → x < 16 →
    sheafBank r.sheaf = k →
    (r.op = .add → (s.sheaf r.sheaf).value + r.n ≤ (s.sheaf r.sheaf).limit →
      ∃ t, exec (.bankAdd k) s = .next t ∧ t.bank k = { s.bank k with inbox := l } ∧
        t.sheaves.sheaf = ((s.modSheaf r.sheaf fun h => { h with value := h.value + r.n }).serve r.sheaf).sheaves.sheaf ∧
        (tget t.fab.net [] (18 + c / 4)).getLast? = some
          (wakeMsg { core := c, ctx := x, op := 0x11, status := .done, sig := r.sig }) ∧
        t = { s with sheaves := t.sheaves, fab := { s.fab with net := t.fab.net } }) ∧
    (r.op = .add → (s.sheaf r.sheaf).limit < (s.sheaf r.sheaf).value + r.n →
      ∃ t, exec (.bankAdd k) s = .next t ∧ t.sheaves.sheaf = s.sheaves.sheaf ∧
        t.bank k = { s.bank k with inbox := l, fvalid := true, fkind := 1, fremote := false, fsheaf := r.sheaf, fcore := c
                                   fcount := inc 7 (s.bank k).fcount } ∧
        Answered s t { core := c, ctx := x, op := 0x11, status := .outOfRange, sig := r.sig }) ∧
    (r.op = .drain → r.n ≤ (s.sheaf r.sheaf).value →
      ∃ t, exec (.bankDrain k) s = .next t ∧ t.bank k = { s.bank k with inbox := l } ∧
        t.sheaf r.sheaf = { s.sheaf r.sheaf with value := (s.sheaf r.sheaf).value - r.n } ∧
        (∀ j, j ≠ r.sheaf → t.sheaf j = s.sheaf j) ∧
        Answered s t { core := c, ctx := x, op := 0x12, status := .done, sig := r.sig }) ∧
    (r.op = .drain → (s.sheaf r.sheaf).value < r.n →
      ∃ t, exec (.bankDrain k) s = .next t ∧ t.sheaves.sheaf = s.sheaves.sheaf ∧ (t.bank k).fkind = 2 ∧
        Answered s t { core := c, ctx := x, op := 0x12, status := .outOfRange, sig := r.sig }) ∧
    (r.op = .take → (s.sheaf r.sheaf).limit < r.n →
      ∃ t, exec (.bankTake k) s = .next t ∧ t.sheaves.sheaf = s.sheaves.sheaf ∧ (t.bank k).fkind = 4 ∧
        Answered s t { core := c, ctx := x, op := 0x10, status := .outOfRange, sig := r.sig }) ∧
    (r.op = .take → 0 < r.n → r.n ≤ (s.sheaf r.sheaf).limit → (s.sheaf r.sheaf).waiters = [] →
      r.n ≤ (s.sheaf r.sheaf).value →
      ∃ t, exec (.bankTake k) s = .next t ∧ t.bank k = { s.bank k with inbox := l } ∧
        t.sheaf r.sheaf = { s.sheaf r.sheaf with value := (s.sheaf r.sheaf).value - r.n } ∧
        (∀ j, j ≠ r.sheaf → t.sheaf j = s.sheaf j) ∧
        Answered s t { core := c, ctx := x, op := 0x10, status := .done, sig := r.sig }) ∧
    (r.op = .take → r.n = 0 →
      ∃ t, exec (.bankTake k) s = .next t ∧ t.sheaves.sheaf = s.sheaves.sheaf ∧
        Answered s t { core := c, ctx := x, op := 0x10, status := .done, sig := r.sig }) ∧
    (r.op = .take → 0 < r.n → r.n ≤ (s.sheaf r.sheaf).limit →
      ((s.sheaf r.sheaf).waiters ≠ [] ∨ (s.sheaf r.sheaf).value < r.n) →
      ∃ t, exec (.bankTake k) s = .next t ∧ t.bank k = { s.bank k with inbox := l } ∧
        t.sheaf r.sheaf = { s.sheaf r.sheaf with waiters := (s.sheaf r.sheaf).waiters ++
          [{ core := c, ctx := x, n := r.n, sig := r.sig }] } ∧
        (∀ j, j ≠ r.sheaf → t.sheaf j = s.sheaf j) ∧ t.sheaves.answers = s.sheaves.answers ∧
        t = { s with sheaves := t.sheaves })) ∧
  (∀ (k w : Nat) (p : Packet) (r : BankReq) (l : List BankReq) (s : State),
    (s.bank k).inbox = r :: l → s.bistHolds 2 k = false → s.fieldUp k = true → r.op = .read → r.from? = none →
    r.pkt = some (w, p) → (hdr p).op = 0x01 →
    exec (.bankRead k) s = .next ((s.modBank k fun b => { b with inbox := l }).reply w p 0x70
      (leBytes 4 (s.sheaf r.sheaf).value) .done false)) ∧
  (∀ (k c x i : Nat) (w : Waiter) (s : State), s.waitsAt k c x = some (i, w) → (s.sheaf i).wlim ≠ 0 → sheafBank i = k →
    ∃ t, exec (.takeTimeout k c x) s = .next t ∧
      t.sheaf i = { s.sheaf i with waiters := (s.sheaf i).waiters.erase w } ∧ (∀ j, j ≠ i → t.sheaf j = s.sheaf j) ∧
      (t.bank k).stalls = inc 16 (s.bank k).stalls ∧ (t.bank k).fkind = 3 ∧
      (∀ n, tget t.fab.net [] n = tget s.fab.net [] n ++ if n = 18 + c / 4 then
        [wakeMsg { core := c, ctx := x, op := 0x10, status := .timedOut, sig := w.sig }] else []) ∧
      SameButSignals { s with sheaves := t.sheaves, fab := { s.fab with net := t.fab.net } } t)

/-- R363, R364, R424, R425: the commands that set, read, add to and force a sheaf, and the writes of SHEAF_FORCE GO. -/
def Obligations.SheafCommandsTakeEffect : Prop :=
  (∀ (o : Origin) (i : Nat) (v m : W32) (w : BitVec 16) (s : State), i < 16384 → s.fieldUp (sheafBank i) = true →
    (v.toNat ≤ m.toNat → (s.sheaf i).waiters = [] →
      exec (.sheafInit o i v m w) s = .next ((s.modSheaf i fun h =>
        { h with value := v.toNat, limit := m.toNat, wlim := w.toNat }).complete o 0x60 .done [])) ∧
    (m.toNat < v.toNat → exec (.sheafInit o i v m w) s = .next (s.complete o 0x60 .badField [])) ∧
    (v.toNat ≤ m.toNat → (s.sheaf i).waiters ≠ [] →
      exec (.sheafInit o i v m w) s = .next (s.complete o 0x60 .wrongState [])) ∧
    exec (.sheafRead o i) s = .next (s.complete o 0x61 .done
      (leBytes 4 (s.sheaf i).value ++ leBytes 4 (s.sheaf i).limit ++ leBytes 2 (s.sheaf i).wlim
        ++ leBytes 2 (s.sheaf i).waiters.length)) ∧
    ((s.sheaf i).value + v.toNat ≤ (s.sheaf i).limit →
      exec (.sheafAdd o i v) s = .next (((s.modSheaf i fun h => { h with value := (s.sheaf i).value + v.toNat }).serve i).complete
        o 0x62 .done [])) ∧
    ((s.sheaf i).limit < (s.sheaf i).value + v.toNat →
      exec (.sheafAdd o i v) s = .next ((s.bankFault i 1 none).complete o 0x62 .outOfRange [])) ∧
    (s.warden.serving = true → s.warden.attest = none → s.lifeRefuses 0xEA = false →
      ∃ t, exec (.sheafForce o i v) s = .next t ∧ t.sheaves.forceVal = v ∧ t.sheaves.forceSheaf = i ∧
        t.sheaf i = { s.sheaf i with
          value := (serveList v.toNat (s.sheaf i).waiters).2.1, waiters := (serveList v.toNat (s.sheaf i).waiters).2.2 } ∧
        (∀ j, j ≠ i → t.sheaf j = s.sheaf j) ∧ t.notices.pend.getLsbD ntSheafForced = true ∧
        SameButRecord { s with sheaves := t.sheaves, bridge := (s.takeProxy o).bridge
                               fab := { s.fab with net := t.fab.net } } t)) ∧
  (∀ (i : Nat) (d : W32) (off : Nat) (s : State), blockOf off = some (.wd, 0x300) → d.getLsbD 31 = true →
    i = d.toNat % 16384 →
    (s.fieldUp (sheafBank i) = false →
      State.wroteReg (s.applyWrite off d) .warden off = s.dropWrite .warden off .wrongState) ∧
    (s.fieldUp (sheafBank i) = true →
      ((s.applyWrite off d).1.sheaf i).value = (serveList s.sheaves.forceVal.toNat (s.sheaf i).waiters).2.1 ∧
      (s.applyWrite off d).2 = .done))

/-- R337, R338, R340: an exchange uses the one of the last eight with the smallest delay; a member in SYNC never steps its root
without FT_RESYNC; its rate correction stays within 100 ppm (how much it is within that, free: log entry 42); an exchange with
an offset of at most 16 ns ends HOLD, and FT_RESYNC steps the root at the next exchange. R336, R338, R340, R406: the master's
BEACON, the member's DELAY_REQ that answers it and the master's DELAY_RSP carry their times and the exchange's number; a
completed exchange steers the member's root; HOLD, FREE and FT_RESYNC. -/
def Obligations.ExchangesSteerTheRoot : Prop :=
  (∀ (x : Time) (offset delay : Int) (free : Nat),
    ((x.sync = .sync → x.resync = false → (x.exchange offset delay free).root = x.root) ∧
    (x.sync = .sync → x.resync = false → (x.exchange offset delay free).sync = .sync) ∧
    (x.slew.natAbs ≤ 1000 → (x.exchange offset delay free).slew.natAbs ≤ 1000) ∧
    ((x.exchange offset delay free).offset, (x.exchange offset delay free).delay) ∈ ((offset, delay) :: x.history).take 8 ∧
    (∀ y ∈ ((offset, delay) :: x.history).take 8, (x.exchange offset delay free).delay ≤ y.2) ∧
    (x.sync = .hold → x.resync = false → (x.exchange offset delay free).offset.natAbs ≤ 16 →
      (x.exchange offset delay free).sync = .sync ∧ (x.exchange offset delay free).root = x.root) ∧
    (x.resync = true → (x.exchange offset delay free).resync = false ∧
      (x.exchange offset delay free).root =
        x.root - BitVec.ofInt 64 ((bestExchange (((offset, delay) :: x.history).take 8)).1 * 4 / 5)) ∧
    (x.sync = .free → x.resync = false → x.freePhase = 0 → x.history.length < 3 →
      (x.exchange offset delay free).root = x.root ∧ (x.exchange offset delay free).sync = .free))) ∧
  (∀ (peer : Nat) (s : State), s.time.role = .master → s.plat.valid = true → s.isSelf peer = false →
    exec (.beacon peer) s = .next (s.sendGroup peer 0x88 (exchPayload s.now (s.now.toNat / 65536 % 65536)))) ∧
  (∀ (peer n : Nat) (p : Packet) (ft : W64) (s s1 : State),
    s.time.role = .member → s.takeCtl 0x88 = some ((n, p, ft), s1) → s.group.master = some (srcOf p) →
    exec (.beacon peer) s = .next (({ s1 with time := { s1.time with
      t1 := some (exchNs p), t2 := nsOf ft, exNo := exchNo p } } : State).sendGroup (srcOf p) 0x89 (exchPayload 0 (exchNo p)))) ∧
  (∀ (n : Nat) (p : Packet) (ft : W64) (s s1 : State),
    s.time.role = .master → s.takeCtl 0x89 = some ((n, p, ft), s1) →
    exec .delayReq s = .next (s1.sendGroup (srcOf p) 0x8A (exchPayload ft (exchNo p)))) ∧
  (∀ (n : Nat) (p : Packet) (ft : W64) (a b : Int) (s s1 : State),
    s.time.role = .member → s.takeCtl 0x8A = some ((n, p, ft), s1) → s.group.master = some (srcOf p) →
    s.time.t1 = some a → s.time.exNo = exchNo p → b = exchNs p - s.time.t3 →
    ∃ t, exec .delayRsp s = .next t ∧
      t.time = s.time.exchange ((s.time.t2 - a - b) / 2) ((s.time.t2 - a + b) / 2) s.freeVal ∧
      t.cores = s.cores ∧ t.fab = s.fab ∧ t.group = s.group) ∧
  (∀ (s : State), s.time.role = .member →
    (s.time.sync = .sync → ∃ t, exec .ftHold s = .next t ∧ t.time = { s.time with sync := .hold } ∧
      SameButSignals { s with time := t.time, mem := t.mem } t) ∧
    (s.time.sync = .hold → ∃ t, exec .ftUnsync s = .next t ∧ t.time = s.time.toFree ∧ t.time.sync = .free ∧
      t.notices.pend.getLsbD ntFtUnsync = true ∧ SameButSignals { s with time := t.time, mem := t.mem } t) ∧
    (∀ o, exec (.ftResync o) s
      = .next (({ s with time := { s.time with resync := true } } : State).complete o 0xA5 .done []))) ∧
  (∀ (o : Origin) (s : State), s.time.role ≠ .member → exec (.ftResync o) s = .next (s.complete o 0xA5 .wrongState []))

/-- R330 to R333, R342, R365: at a correction pulse a copy that reads ahead of the root holds at its reading, another follows
the root; the copy is valid, and the largest error and the errors above two ticks are counted, FT_SKEW raised for one of these.
A stretched period is counted for its region and moves no Field Time. R333, R342, R494 to R497: a region's controller moves by
at most one step of 50 MHz and stays within FMIN and FMAX; a change stops its clock, whose Field Time copy is then not valid; at
the restart it runs at the new frequency; a PLL that loses lock stops it until it relocks; CLK_FAULT is raised. -/
def Obligations.ClocksAreCorrectedAndChange : Prop :=
  (∀ (node reading err : Nat) (s : State),
    node < 67 → (32 ≤ node ∨ (s.region node).state = 0) → err = max (reading - s.now.toNat * 65536) (s.now.toNat * 65536 - reading) →
    ∃ t, exec (.ftCorrectionPulse node reading) s = .next t ∧
      t.time = { s.time with
        held := tset s.time.held 0 node (if s.now.toNat * 65536 < reading then reading else 0)
        invalid := s.time.invalid.filter (· != node)
        maxErr := max s.time.maxErr (sat 8 (err / 65536))
        skewErr := if 2 * 65536 < err then inc 16 s.time.skewErr else s.time.skewErr } ∧
      (2 * 65536 < err → t.notices.pend.getLsbD ntFtSkew = true) ∧
      (err ≤ 2 * 65536 → t.notices = s.notices) ∧ SameButSignals { s with time := t.time } t) ∧
  (∀ (region percent : Nat) (s : State), region < 32 → (s.region region).state = 0 → 1 ≤ percent → percent ≤ 50 →
    exec (.clockStretch region percent) s
      = .next { s with time := { s.time with stretch := tmod s.time.stretch 0 region (inc 32) } }) ∧
  (∀ (x : Region) (best : Nat), x.fmin % 5 = 0 → x.fmax % 5 = 0 → x.freq % 5 = 0 → x.fmin ≤ x.freq → x.freq ≤ x.fmax →
    x.fmin ≤ x.choose best ∧ x.choose best ≤ x.fmax ∧ x.choose best ≤ x.freq + 5 ∧ x.freq ≤ x.choose best + 5 ∧
    x.choose best % 5 = 0) ∧
  (∀ (r best : Nat) (s : State), r < 32 → (s.region r).state = 0 → (s.region r).fmin < (s.region r).fmax →
    s.dieUp (r / 4) = true →
    ((s.region r).choose best ≠ (s.region r).freq →
      ∃ t, exec (.frequencyChoice r best) s = .next t ∧
        t.region r = { s.region r with state := 1, nextFreq := (s.region r).choose best } ∧ t.ftValid r = false ∧
        t = { s with power := { s.power with regions := t.power.regions }
                     time := { s.time with invalid := t.time.invalid } }) ∧
    ((s.region r).choose best = (s.region r).freq → exec (.frequencyChoice r best) s = .next s)) ∧
  (∀ (r : Nat) (s : State), r < 32 → (s.region r).state = 1 → (s.region r).pllLost = false → s.dieUp (r / 4) = true →
    exec (.frequencyRestart r) s = .next (s.modRegion r fun x => { x with
      state := 0, freq := x.nextFreq, changes := if x.nextFreq = x.freq then x.changes else inc 16 x.changes })) ∧
  (∀ (r : Nat) (s : State), r < 32 → (s.region r).state ≠ 2 → s.dieUp (r / 4) = true →
    (∃ t, exec (.clkFault r .unlock) s = .next t ∧ (t.region r).state = 1 ∧ (t.region r).pllLost = true ∧
      t.ftValid r = false ∧ t.notices.pend.getLsbD ntClkFault = (s.notices.pend.getLsbD ntClkFault ||
        !s.cause ntClkFault || !s.ntActive ntClkFault) ∧
      SameButSignals { s with power := { s.power with regions := t.power.regions }
                              time := { s.time with invalid := t.time.invalid } } t) ∧
    (∃ t, exec (.clkFault r .jitter) s = .next t ∧ (t.region r).jitterOver = true ∧ 12 < (t.region r).jitter ∧
      (t.region r).state = (s.region r).state ∧ (t.region r).freq = (s.region r).freq ∧
      SameButSignals { s with power := { s.power with regions := t.power.regions } } t)) ∧
  (∀ (r : Nat) (s : State), r < 32 → (s.region r).pllLost = true → s.dieUp (r / 4) = true →
    ∃ t, exec (.pllRelock r) s = .next t ∧ (t.region r).state = 0 ∧ (t.region r).pllLost = false ∧
      (t.region r).freq = (s.region r).nextFreq ∧
      SameButSignals { s with power := { s.power with regions := t.power.regions } } t) ∧
  (∀ (r : Nat) (s : State), r < 32 → (s.region r).jitterOver = true →
    ∃ t, exec (.jitterWithinLimit r) s = .next t ∧ (t.region r).jitterOver = false ∧ (t.region r).jitter ≤ 12 ∧
      (t.region r).state = (s.region r).state ∧
      SameButSignals { s with power := { s.power with regions := t.power.regions } } t)

/-- R402, R403, R406, R407, R585: a device that GROUP_ENROL enrols holds its ID, epoch, role and key; a rekey takes over at its
instant and the old key ends with its window; a device that leaves keeps neither key nor ID; GROUP_SAVE carries the record. -/
def Obligations.DevicesJoinRekeyAndLeave : Prop :=
  (∀ (o : Origin) (p : EnrolParams) (s : State),
    s.warden.serving = true → s.warden.attest = none → s.lifeRefuses 0xEB = false → o.via ≠ .relayed →
    (p.rekey = false → p.role < 3 → p.sidx < 64 → reservedId p.id = false → s.group.valid = false →
      ∃ t, exec (.groupEnrol o p) s = .next t ∧ t.plat = { s.plat with valid := true, id := p.id } ∧
        t.group.valid = true ∧ t.group.role = p.role ∧ t.group.epoch = p.epoch ∧ t.group.key = some p.key ∧
        t.group.nextKey = none ∧ t.group.sidx = p.sidx ∧ t.group.master = idOpt p.master ∧
        t.time.role = (if p.role = 1 then .master else .member) ∧ t.time.sync = .free ∧
        t.cores = s.cores ∧ t.fab = s.fab ∧ t.ports = s.ports) ∧
    (p.rekey = true → s.group.valid = true →
      ∃ t, exec (.groupEnrol o p) s = .next t ∧
        t.group = { s.group with nextKey := some p.key, instant := p.instant, rekey := true } ∧
        SameButRecord { s with group := t.group, bridge := (s.takeProxy o).bridge } t) ∧
    (p.rekey = false → p.role < 3 → p.sidx < 64 → reservedId p.id = false → s.group.valid = true →
      exec (.groupEnrol o p) s = .next ((s.takeProxy o).complete o 0xEB .wrongState []))) ∧
  (∀ (o : Origin) (s : State), s.warden.serving = true → s.warden.attest = none → s.lifeRefuses 0xEC = false →
    ∃ t, exec (.groupLeave o) s = .next t ∧ t.plat.valid = false ∧ t.group.valid = false ∧ t.group.role = 3 ∧
      t.group.key = none ∧ t.group.nextKey = none ∧ t.group.members = [] ∧ t.time.role = .alone ∧
      t.cores = s.cores ∧ t.fab = s.fab ∧ t.ports = s.ports) ∧
  (∀ (s : State), s.group.rekey = true → s.group.window = false → s.group.nextKey ≠ none →
    s.group.instant.toNat ≤ s.now.toNat →
    exec .rekeyInstant s = .next { s with group := { s.group with window := true } }) ∧
  (∀ (s : State), s.group.window = true →
    exec .rekeyWindowEnd s = .next { s with
      group := { s.group with key := s.group.nextKey, nextKey := none, window := false, rekey := false } }) ∧
  (∀ (s : State), s.group.role = 1 → s.group.saveDue = true →
    exec .groupSave s = .next (each (s.otherMembers s.group.members) (fun e s => s.sendGroup e 0x8D s.groupRec.bytes)
      { s with group := { s.group with saveDue := false } })) ∧
  (∀ (n : Nat) (p : Packet) (ft : W64) (s s1 : State),
    s.group.role ≠ 1 → s.takeCtl 0x8D = some ((n, p, ft), s1) → s.group.master = some (srcOf p) →
    exec .groupSave s = .next { s1 with group := s1.group.takeSave s.plat.id (srcOf p) (groupRecOf p.data) } ∧
    ((groupRecOf p.data).backup = s.plat.id →
      (s1.group.takeSave s.plat.id (srcOf p) (groupRecOf p.data)).saved = some (groupRecOf p.data)))

/-- R341, R408 to R411: of two epochs at most one is newer; a backup that takes over becomes master under the next epoch and
announces it, then fences the old one; a device adopts a newer epoch and its master, an old master becoming a member whose root
does not step (that it is in SYNC is the model's reading, log entry 43); an older epoch changes nothing. -/
def Obligations.MastersTakeOver : Prop :=
  (∀ a b : BitVec 16, newerEpoch a b = true → newerEpoch b a = false) ∧
  (∀ (o : Origin) (s : State), s.group.role = 2 → (s.port 0).state = .up → (s.port 0).p2p = true →
    (s.group.saved ≠ none →
      exec (.masterTakeover o) s = .next (({ s with group := { s.group with takeover := 1 } } : State).complete o 0x0F .done [])) ∧
    (s.group.saved = none → exec (.masterTakeover o) s = .next (s.complete o 0x0F .notPresent []))) ∧
  (∀ (r : GroupRec) (s : State), s.group.saved = some r → s.group.takeover = 1 →
    exec .takeoverAnnounce s = .next (each (((s.becomeMaster r).otherMembers r.members ++ s.group.master.toList).filter
        (fun e => !(s.becomeMaster r).isSelf e)).dedup
      (fun e u => u.sendGroup e 0x8B (epochPayload (s.group.epoch + 1))) (s.becomeMaster r)) ∧
    (s.becomeMaster r).group.role = 1 ∧ (s.becomeMaster r).group.epoch = s.group.epoch + 1 ∧
    (s.becomeMaster r).time.role = .master ∧ (s.becomeMaster r).time.root = s.time.root) ∧
  (∀ (s : State), s.group.takeover = 2 →
    exec .takeoverFence s = .next (each (s.otherMembers s.group.members)
      (fun e u => u.sendGroup e 0x8C (epochPayload s.group.epoch)) { s with group := { s.group with takeover := 0 } })) ∧
  (∀ (n : Nat) (p : Packet) (ft : W64) (s s1 : State),
    s.takeCtl 0x8B = some ((n, p, ft), s1) → s.group.backup = some (srcOf p) →
    (newerEpoch (BitVec.ofNat 16 (fieldB p.data 0 2)) s.group.epoch = true →
      ∃ t, exec .epochAnnounce s = .next t ∧ t.group.epoch = BitVec.ofNat 16 (fieldB p.data 0 2) ∧
        t.group.prevEpoch = s.group.epoch ∧ t.group.master = some (srcOf p) ∧ t.group.overlap = true ∧
        t.group.role = (if s.group.role = 1 then 0 else s.group.role) ∧ t.time.root = s.time.root ∧
        t.notices.pend.getLsbD ntEpochChange = true ∧ t.cores = s.cores ∧ t.fab = s.fab) ∧
    (newerEpoch (BitVec.ofNat 16 (fieldB p.data 0 2)) s.group.epoch = false → exec .epochAnnounce s = .next s1)) ∧
  (∀ (n : Nat) (p : Packet) (ft : W64) (s s1 : State),
    s.takeCtl 0x8C = some ((n, p, ft), s1) → s.group.master = some (srcOf p) →
    BitVec.ofNat 16 (fieldB p.data 0 2) = s.group.epoch →
    exec .masterFence s = .next { s1 with group := { s1.group with overlap := false, fenced := true } })

/-- R333, R498 to R502: a unit that may sleep does, and keeps what it holds; it wakes when something wakes it; a die that sleeps
stops its regions, whose Field Time copies are not valid until a correction pulse, and wakes ahead of what is due; a lane group
with fewer than four lanes that work leaves service as it wakes. -/
def Obligations.UnitsSleepAndWake : Prop :=
  (∀ (c : Nat) (s : State),
    (s.maySleep (.core c) = true → exec (.sleepEnter (.core c)) s = .next (s.modCore c fun x => { x with asleep := true })) ∧
    (c < 64 → (s.core c).asleep = true → (s.core c).waking = false →
      exec (.wake (.core c)) s = .next (s.modCore c fun x => { x with waking := true })) ∧
    (c < 64 → (s.core c).asleep = true → (s.core c).waking = true → (s.diePower (c / 8)).asleep = false →
      exec (.wakeComplete (.core c)) s = .next (s.modCore c fun x => { x with asleep := false, waking := false }))) ∧
  (∀ (d : Nat) (s : State),
    (s.maySleep (.die d) = true → ∃ t, exec (.sleepEnter (.die d)) s = .next t ∧
      t.diePower d = { s.diePower d with asleep := true } ∧
      (∀ i < 4, t.region (4 * d + i) = { s.region (4 * d + i) with state := 2 } ∧ t.ftValid (4 * d + i) = false) ∧
      t = { s with power := { s.power with dies := t.power.dies, regions := t.power.regions }
                   time := { s.time with invalid := t.time.invalid } }) ∧
    (s.sleeping (.die d) = true →
      exec (.wake (.die d)) s = .next (s.modDiePower d fun p => { p with waking := true }) ∧
      (s.dueSoon d = true →
        exec (.sowAheadWake d) s = .next (s.modDiePower d fun p => { p with waking := true }))) ∧
    (d < 8 → (s.diePower d).asleep = true → (s.diePower d).waking = true →
      ∃ t, exec (.wakeComplete (.die d)) s = .next t ∧
        t.diePower d = { s.diePower d with asleep := false, waking := false } ∧
        (∀ i < 4, t.region (4 * d + i) = { s.region (4 * d + i) with state := 0 }) ∧
        t = { s with power := { s.power with dies := t.power.dies, regions := t.power.regions } })) ∧
  (∀ (st g : Nat) (s : State),
    (s.maySleep (.group st g) = true → ∃ t, exec (.sleepEnter (.group st g)) s = .next t ∧
      t.txg st g = { s.txg st g with state := .asleep } ∧
      SameButSignals { s with fab := { s.fab with tx := t.fab.tx } } t) ∧
    (isSownTx st g = true → (s.txg st g).state = .asleep → (s.txg st g).waking = false →
      exec (.wake (.group st g)) s = .next (s.modTx st g fun x => { x with waking := true })) ∧
    (isSownTx st g = true → (s.txg st g).state = .asleep → (s.txg st g).waking = true →
      ∃ t, exec (.wakeComplete (.group st g)) s = .next t ∧
        (4 ≤ (s.txg st g).lanes → t.txg st g = { s.txg st g with state := .active, waking := false } ∧
          SameButSignals { s with fab := { s.fab with tx := t.fab.tx } } t) ∧
        ((s.txg st g).lanes < 4 → LeftService (s.modTx st g fun x => { x with waking := false }) st g t))) ∧
  (∀ (p : Nat) (s : State),
    (s.maySleep (.port p) = true → ∃ t, exec (.sleepEnter (.port p)) s = .next t ∧
      t.port p = { s.port p with state := .asleep } ∧
      SameButSignals { s with ports := { s.ports with port := t.ports.port } } t) ∧
    (p < 16 → (s.port p).state = .asleep → (s.port p).waking = false →
      exec (.wake (.port p)) s = .next (s.modPort p fun x => { x with waking := true })) ∧
    (p < 16 → (s.port p).state = .asleep → (s.port p).waking = true →
      ∃ t, exec (.wakeComplete (.port p)) s = .next t ∧ t.port p = { s.port p with state := .up, waking := false } ∧
        SameButSignals { s with ports := { s.ports with port := t.ports.port } } t))

/-- R503 to R510: every rail is read; a reading above 2,300 W halves every die's throttle level at once, at most once in 100 us;
at the end of a window a die above its share takes the highest level whose estimate is within it, one below rises by 16, and in
LOCAL mode each die's cap is its share; the lowest of its levels is the die's throttle, which reaches its cores. -/
def Obligations.PowerStaysWithinItsLimit : Prop :=
  (∀ (ma mv : List Nat) (s : State),
    ∃ t, exec (.railReading ma mv) s = .next t ∧
      (∀ i < 18, tget t.power.railMa 0 i = ma.getD i 0 ∧ tget t.power.railMv 0 i = mv.getD i 0) ∧
      (2300000000 < railPower ma mv → (∀ a, s.power.cutAt = some a → 80000 ≤ (s.now - a).toNat) →
        t.power.cuts = inc 16 s.power.cuts ∧ t.power.cutAt = some s.now ∧ t.notices.pend.getLsbD ntPwrExcur = true ∧
        (∀ d < 8, (t.diePower d).throttle ≤ (s.diePower d).throttle / 2 ∧
          (t.diePower d).level ≤ (t.diePower d).throttle ∧
          (∀ i < 8, (t.core (8 * d + i)).throttle = (t.diePower d).throttle))) ∧
      ((railPower ma mv ≤ 2300000000 ∨ ∃ a, s.power.cutAt = some a ∧ (s.now - a).toNat < 80000) →
        t.power.dies = s.power.dies ∧ t.cores = s.cores ∧ t.notices = s.notices) ∧
      t.mem = s.mem ∧ t.fab = s.fab ∧ t.bridge = s.bridge) ∧
  (∀ (others avg d : Nat) (power idle issue : List Nat) (s : State), d < 8 → s.dieUp d = true → issue.getD d 0 ≠ 0 →
    ∃ t, exec (.powerWindow others power idle issue avg) s = .next t ∧
      t.power.pkgWin = others + ((List.range 8).map fun d => power.getD d 0).sum ∧ t.power.pkgAvg = avg ∧
      (s.power.mode = 0 → s.power.fallback = false →
        ((t.diePower d).manager =
          (if dieShare (1000 * s.power.limit) others ((List.range 8).filter s.dieUp) (fun e => power.getD e 0) d < power.getD d 0 then
            shareLevel (dieShare (1000 * s.power.limit) others ((List.range 8).filter s.dieUp) (fun e => power.getD e 0) d)
              (power.getD d 0) (idle.getD d 0) (issue.getD d 0)
          else if power.getD d 0 < dieShare (1000 * s.power.limit) others ((List.range 8).filter s.dieUp)
              (fun e => power.getD e 0) d then
            min 255 (min (s.diePower d).manager (s.diePower d).cap + 16)
          else min (s.diePower d).manager (s.diePower d).cap) ∧ (t.diePower d).cap = 255)) ∧
      (s.power.mode = 1 →
        (t.diePower d).cap = shareLevel (1000 * s.power.dieCap) (power.getD d 0) (idle.getD d 0) (issue.getD d 0) ∧
        (t.diePower d).manager = 255) ∧
      (s.power.mode = 0 → s.power.fallback = true → s.warden.serving = true → t.power.fallback = false) ∧
      (∀ i < 8, (t.core (8 * d + i)).throttle = (t.diePower d).throttle) ∧
      t.mem = s.mem ∧ t.fab = s.fab ∧ t.bridge = s.bridge) ∧
  (∀ (limit others d : Nat) (dies : List Nat) (power : Nat → Nat), dieShare limit others dies power d ≤ 150000) ∧
  (∀ (share power idle issue : Nat), shareLevel share power idle issue ≤ 255) ∧
  (∀ (s : State), s.power.mode = 0 → s.power.fallback = false →
    exec .powerFallback s = .next { s with power := { s.power with fallback := true } })

/-- R113, R197, R511, R512, R515 to R518: a temperature's level is entered at its threshold and left 5 degrees below it; a
location that reaches Throttle throttles its dies at once, by steps while it stays there, and no more when it leaves; a cache
die at Throttle halves its rate, then quarters it; THERMTRIP# is released. A location's temperature is the highest of its
sensors, each of which keeps its reading; a change of band makes the links of the field due for calibration. -/
def Obligations.TemperaturesThrottle : Prop :=
  (∀ (loc : ThermLoc) (was t : Nat),
    ((thresholds loc).2.1 ≤ t → thermLevel loc was t = 2) ∧
    (t + 10 ≤ (thresholds loc).2.1 → thermLevel loc was t < 2) ∧
    (t < (thresholds loc).2.1 → (thresholds loc).2.1 < t + 10 → was = 2 → thermLevel loc was t = 2) ∧
    (t < (thresholds loc).2.1 → was < 2 → thermLevel loc was t < 2) ∧
    ((thresholds loc).1 ≤ t → 1 ≤ thermLevel loc was t) ∧
    (t < (thresholds loc).1 → was = 0 → (thresholds loc).1 ≤ (thresholds loc).2.1 → thermLevel loc was t = 0)) ∧
  (∀ (n t : Nat) (l : List Nat) (s : State), n < 8 → t = (l.take 32).foldl max 0 →
    ∃ u, exec (.temperatureSample (.cd n) l) s = .next u ∧
      (u.therm (.cd n)).temp = min 255 t ∧ (u.therm (.cd n)).level = thermLevel (.cd n) (s.therm (.cd n)).level (min 255 t) ∧
      (u.therm (.cd n)).peak = max (s.therm (.cd n)).peak (min 255 t) ∧
      (∀ i < 32, tget u.power.sensors 0 (firstSensor (.cd n) + i) = min 255 (l.getD i 0)) ∧
      ((s.therm (.cd n)).level < 2 → 206 ≤ t →
        (u.diePower n).thermal = min (s.diePower n).thermal 128 ∧ (u.diePower n).level ≤ (u.diePower n).throttle ∧
        (∀ i < 8, (u.core (8 * n + i)).throttle = (u.diePower n).throttle)) ∧
      (2 ≤ (s.therm (.cd n)).level → t ≤ 196 → (s.therm (.field (n / 2))).level < 2 → (u.diePower n).thermal = 255) ∧
      (thermLevel (.cd n) (s.therm (.cd n)).level (min 255 t) = (s.therm (.cd n)).level → u.power.dies = s.power.dies) ∧
      u.mem = s.mem ∧ u.fab = s.fab ∧ u.bridge = s.bridge) ∧
  (∀ (n t : Nat) (l : List Nat) (s : State), n < 8 → t = (l.take 4).foldl max 0 →
    ∃ u, exec (.temperatureSample (.kd n) l) s = .next u ∧
      (u.therm (.kd n)).level = thermLevel (.kd n) (s.therm (.kd n)).level (min 255 t) ∧
      ((s.therm (.kd n)).level < 2 → 196 ≤ t → (u.kd n).rate = 2) ∧
      (2 ≤ (s.therm (.kd n)).level → t ≤ 186 → (u.kd n).rate = 1) ∧ u.power.dies = s.power.dies ∧ u.cores = s.cores) ∧
  (∀ (k t : Nat) (l : List Nat) (s : State), k < 4 → t = (l.take 48).foldl max 0 →
    ∃ u, exec (.temperatureSample (.field k) l) s = .next u ∧
      (u.therm (.field k)).level = thermLevel (.field k) (s.therm (.field k)).level (min 255 t) ∧
      (u.therm (.field k)).band = bandOf (s.therm (.field k)).band (min 255 t) ∧
      (∀ i < 48, tget u.power.sensors 0 (firstSensor (.field k) + i) = min 255 (l.getD i 0)) ∧
      ((s.therm (.field k)).level < 2 → 180 ≤ t → ∀ d, d / 2 = k → d < 8 →
        (u.diePower d).thermal = min (s.diePower d).thermal 128) ∧
      (bandOf (s.therm (.field k)).band (min 255 t) ≠ (s.therm (.field k)).band →
        ∀ st rg, (st, rg) ∈ s.fieldLinks k → (u.rxg st rg).calBusy = false ∧ ∃ e ∈ (u.rxg st rg).calDue, e.1 = 5) ∧
      (bandOf (s.therm (.field k)).band (min 255 t) = (s.therm (.field k)).band → u.fab = s.fab) ∧
      u.mem = s.mem ∧ u.bridge = s.bridge) ∧
  (∀ (h t : Nat) (s : State), h < 12 →
    ∃ u, exec (.temperatureSample (.hbm h) [t]) s = .next u ∧ (u.hbm h).temp = min 255 t ∧
      (Config.hbmThrottle ≤ min 255 t → (u.hbm h).throttled = true) ∧ u.cores = s.cores ∧ u.power = s.power) ∧
  (∀ (n : Nat) (s : State), n < 8 → 2 ≤ (s.therm (.cd n)).level →
    ∃ u, exec (.thermalThrottleStep (.cd n)) s = .next u ∧
      (u.diePower n).thermal = max 16 ((s.diePower n).thermal - 32) ∧ (u.diePower n).level ≤ (u.diePower n).throttle ∧
      u = { s with power := u.power, cores := u.cores }) ∧
  (∀ (n : Nat) (s : State), n < 8 → 2 ≤ (s.therm (.kd n)).level →
    exec (.thermalThrottleStep (.kd n)) s = .next (s.modKd n fun k => { k with rate := 4 })) ∧
  (∀ (s : State), s.power.thermtrip = true →
    exec .thermtripRelease s = .next (({ s with power := { s.power with thermtrip := false } } : State).emit (.thermtrip false)))

/-- R372, R373, R386, R413: a port trains at Gen-1, and at Gen-2 when both ends allow it; a Gen-2 training that does not
complete sets GEN2_FAIL and falls back; one that never completes is a FAULT that light from a peer ends; a port that leaves
service retrains, or stays in FAULT when it left for uncorrectable codewords at Gen-1; a PORT_CFG write is dropped while it
trains. -/
def Obligations.PortsTrainAndLeave : Prop :=
  (∀ (p g : Nat) (host : Bool) (s : State), p < 16 → (s.port p).trainStep = 0 →
    ((s.port p).state = .train ∨ ((s.port p).state = .off ∧ (s.port p).enable = true ∧ s.power.tripped = false)) →
    ∃ t, exec (.portTrain p g host) s = .next t ∧
      t.port p = { s.port p with
        state := .train, peerGenMax := g, peerHost := host
        trainStep := if 2 ≤ g ∧ 2 ≤ (s.port p).genMax ∧ (s.port p).gen2Fail = false then 2 else 1 } ∧
      SameButSignals { s with ports := { s.ports with port := t.ports.port } } t) ∧
  (∀ (p : Nat) (s : State), p < 16 → (s.port p).state = .train →
    ((s.port p).trainStep = 2 → ∃ t, exec (.gen2TrainTimeout p) s = .next t ∧
      t.port p = { s.port p with gen2Fail := true, trainStep := 1 } ∧
      ((s.port p).gen2Fail = false → t.notices.pend.getLsbD (ntPortGen1 p) = true) ∧
      SameButSignals { s with ports := { s.ports with port := t.ports.port } } t) ∧
    (∃ t, exec (.portTrainTimeout p) s = .next t ∧ t.port p = { s.port p with state := .fault, trainStep := 0 } ∧
      SameButSignals { s with ports := { s.ports with port := t.ports.port } } t) ∧
    ((s.port p).trainStep ≠ 0 → ∃ t, exec (.portTrainComplete p) s = .next t ∧ (t.port p).state = .up ∧
      (t.port p).gen = (s.port p).trainStep ∧
      (t.port p).p2p = ((s.port p).p2pWritten || (p == 0 && (s.port p).peerHost)) ∧
      SameButSignals { s with ports := { s.ports with port := t.ports.port } } t)) ∧
  (∀ (p : Nat) (s : State), p < 16 → (s.port p).enable = true → (s.port p).state = .fault → (s.port p).stuck = false →
    ∃ t, exec (.peerLightDetect p) s = .next t ∧ t.port p = (s.port p).startTrain ∧ (t.port p).state = .train ∧
      SameButSignals { s with ports := { s.ports with port := t.ports.port } } t) ∧
  (∀ (p : Nat) (why : PortCause) (s : State), p < 16 → (s.port p).state = .up →
    ∃ t, exec (.portDown p why) s = .next t ∧
      (why = .alignment ∨ (s.port p).gen = 2 → (t.port p).state = .train ∧ (t.port p).trainStep = 0) ∧
      (why = .uncorrectable → (s.port p).gen = 2 → (t.port p).gen2Fail = true) ∧
      (why = .uncorrectable → (s.port p).gen ≠ 2 → (t.port p).state = .fault ∧ (t.port p).stuck = true) ∧
      ((s.port p).enable = true → t.notices.pend.getLsbD (ntPortDown p) = true) ∧
      (∀ i, i ≠ p → t.port i = s.port i) ∧ t.rem.rack.map (·.id) = s.rem.rack.map (·.id) ∧
      SameButSignals { s with ports := t.ports, rem := { s.rem with rack := t.rem.rack } } t) ∧
  (∀ (p : Nat) (d : W32) (s : State), p < 16 →
    ((s.port p).state = .train →
      exec (.portCfgWrite p d) s = .next ((s.unpost (.port p)).dropWrite .unitLate (portCfgReg p) .wrongState)) ∧
    ((s.port p).state ≠ .train → bits d.toNat 30 29 ≠ 1 → bits d.toNat 30 29 ≠ 2 →
      exec (.portCfgWrite p d) s = .next ((s.unpost (.port p)).dropWrite .unitLate (portCfgReg p) .outOfRange)) ∧
    ((s.port p).state ≠ .train → bits d.toNat 30 29 = 1 ∨ bits d.toNat 30 29 = 2 → (s.port p).halted = false →
      ∃ t, exec (.portCfgWrite p d) s = .next t ∧ (t.port p).enable = d.getLsbD 31 ∧
        (t.port p).genMax = bits d.toNat 30 29 ∧ (t.port p).p2pWritten = d.getLsbD 28 ∧ (t.port p).p2p = (s.port p).p2p ∧
        (d.getLsbD 31 = false → (t.port p).state = .off) ∧
        (d.getLsbD 31 = true → (s.port p).enable = false → (t.port p).state = .train) ∧
        (d.getLsbD 31 = true → (s.port p).enable = true → (t.port p).state = (s.port p).state) ∧
        SameButSignals { s with ports := t.ports, bridge := (s.unpost (.port p)).bridge
                                rem := { s.rem with rack := t.rem.rack } } t))

/-- R379 to R384: calendar commands are written 2 us ahead, the entry and its set are read back, and no run of 64 slots loses
its last OPEN one; a slot takes up the changes that touch it, and no other entry changes. -/
def Obligations.CalendarsChangeAtTheirSlots : Prop :=
  (∀ (o : Origin) (p slot type dset : Nat) (s : State), type ≠ 3 → firstFail (s.calChecks p slot type dset) = none →
    exec (.calSet o p slot type dset) s = .next ((s.modPort p fun q => { q with
      calPending := q.calPending ++ [(slot, { type := type, dset := dset }, s.now + 1600)] }).complete o 0xA0 .done [])) ∧
  (∀ (p slot type dset : Nat) (at' : W64) (s : State), firstFail (s.calChecks p slot type dset) = none →
    ∀ i, ∃ k < 64, (((s.calWrite p slot type dset at').port p).writtenCal ((i + k) % 4096)).type = 2) ∧
  (∀ (o : Origin) (p i : Nat) (mask : W64) (s : State), p < 16 → i < 64 → s.plat.valid = true → (s.port p).halted = false →
    ((mask ≠ 0 ∨ (s.port p).ownNames i = false) →
      exec (.calDset o p i mask) s = .next ((s.modPort p fun q => { q with
        dsetPending := q.dsetPending ++ [(i, mask, s.now + 1600)] }).complete o 0xA1 .done [])) ∧
    (mask = 0 → (s.port p).ownNames i = true → exec (.calDset o p i mask) s = .next (s.complete o 0xA1 .badField []))) ∧
  (∀ (o : Origin) (p slot : Nat) (s : State), p < 16 → slot < 4096 → (s.port p).halted = false →
    exec (.calGet o p slot) s = .next (s.complete o 0xA2 .done
      (BitVec.ofNat 8 (((s.port p).writtenCal slot).type * 64 + ((s.port p).writtenCal slot).dset) ::
        leBytes 8 ((s.port p).writtenSet ((s.port p).writtenCal slot).dset).toNat))) ∧
  (∀ (p : Nat) (s : State), p < 16 →
    ∃ t, exec (.calendarSlot p s.slotNow) s = .next t ∧ (t.port p).slot = s.slotNow ∧
      (∀ i, i ≠ s.slotNow % 4096 → tget (t.port p).cal CalEntry.reset i = tget (s.port p).cal CalEntry.reset i) ∧
      (∀ e, (s.port p).calPending.filter (fun e => e.1 == s.slotNow % 4096) = [e] → e.2.2.toNat ≤ s.now.toNat →
        tget (t.port p).cal CalEntry.reset (s.slotNow % 4096) = e.2.1) ∧
      (∀ e ∈ (s.port p).calPending, s.now.toNat < e.2.2.toNat → e ∈ (t.port p).calPending) ∧
      t.cores = s.cores ∧ t.mem = s.mem ∧ t.fab = s.fab ∧ t.bridge = s.bridge)

/-- R378, R387, R388, R392, R399, R400: the checks of a frame in their order, each counted, and what passes: a frame for another
incarnation is answered with RESYNC, a new incarnation of the sender empties its window, and the frame waits for its kind. -/
def Obligations.FramesAreCheckedInOrder : Prop :=
  (∀ (p : Nat) (f : Frame) (s : State), (s.port p).p2p = false → s.group.key = none → s.group.window = false →
    s.tagOk p f = false) ∧
  (∀ (p : Nat) (f : Frame) (s : State), p < 16 → s.portRuns p = true →
    (frameCrc f ≠ f.crc →
      exec (.frameReceive p f) s = .next (s.modPort p fun q => { q with crcErr := inc 11 q.crcErr })) ∧
    (frameCrc f = f.crc → s.tagOk p f = false →
      ∃ t, exec (.frameReceive p f) s = .next t ∧ (t.port p).stranger = inc 11 (s.port p).stranger ∧
        (t.port p).rxq = (s.port p).rxq ∧ ((s.port p).strangerAt = none → t.notices.pend.getLsbD (ntStranger p) = true) ∧
        SameButSignals { s with ports := { s.ports with port := t.ports.port } } t) ∧
    (frameCrc f = f.crc → s.tagOk p f = true → (s.port p).p2p = false →
      ¬(s.plat.valid = true ∧ (fhdrOf f.hdr).fdst = s.plat.id ∧ (s.platMatch (fhdrOf f.hdr).fsrc).isSome = true) →
      exec (.frameReceive p f) s = .next (s.modPort p fun q => { q with misaddr := inc 10 q.misaddr })) ∧
    (frameCrc f = f.crc → s.tagOk p f = true → s.plat.valid = true → (fhdrOf f.hdr).fdst = s.plat.id →
      (s.platMatch (fhdrOf f.hdr).fsrc).isSome = true → 1 ≤ (fhdrOf f.hdr).kind → (fhdrOf f.hdr).kind ≤ 5 →
      ((fhdrOf f.hdr).dinc ≠ s.group.inc → (fhdrOf f.hdr).kind ≠ 5 →
        exec (.frameReceive p f) s = .next (s.sendCtl p (s.peerKey p (fhdrOf f.hdr).fsrc) 5 [])) ∧
      ((fhdrOf f.hdr).dinc = s.group.inc → (s.peerWin (s.peerKey p (fhdrOf f.hdr).fsrc)).sinc = some (fhdrOf f.hdr).sinc →
        exec (.frameReceive p f) s = .next (s.modPort p fun q => { q with rxq := q.rxq ++ [(f, s.now)] })) ∧
      ((fhdrOf f.hdr).dinc = s.group.inc → (s.peerWin (s.peerKey p (fhdrOf f.hdr).fsrc)).sinc ≠ some (fhdrOf f.hdr).sinc →
        ∃ t, exec (.frameReceive p f) s = .next t ∧
          t.peerWin (s.peerKey p (fhdrOf f.hdr).fsrc) = { PeerWin.reset with sinc := some (fhdrOf f.hdr).sinc } ∧
          (t.port p).rxq = (s.port p).rxq ++ [(f, s.now)])))

/-- R256, R257, R388, R391, R393: a DATA frame is delivered when its window takes it and no station refuses it, a duplicate is
acknowledged again and a stale one is dropped; a refused one is answered with REFUSE; acknowledged and refused frames leave
their sender's buffer, and a refused packet waits out its backoff; RESYNC ends every frame to the peer that restarted. -/
def Obligations.FramesAreDeliveredOnce : Prop :=
  (∀ (p key : Nat) (f : Frame) (ft : W64) (pkt : Packet) (s s1 : State),
    s.headFrame p 1 = some (f, ft, key) → bodyPacket f = some pkt → s1 = (s.popFrame p).takeAckSeq key (fhdrOf f.hdr) →
    ((s1.peerWin key).check (fhdrOf f.hdr).fseq = .stale → exec (.dataFrame p) s = .next s1) ∧
    ((s1.peerWin key).check (fhdrOf f.hdr).fseq = .duplicate → (fhdrOf f.hdr).fseq ∉ (s1.peerWin key).refused →
      exec (.dataFrame p) s = .next ((s1.modPort p fun q => { q with dup := inc 8 q.dup }).modWin key fun w =>
        { w with owesAck := true, port := p })) ∧
    (∀ x, (s1.peerWin key).check (fhdrOf f.hdr).fseq = .accept x → s1.noEntry p pkt = false →
      (s1.refuseAt p pkt = none →
        exec (.dataFrame p) s = .next ((s1.modWin key fun w => w.take (fhdrOf f.hdr).fseq p false).packetIn p ft pkt)) ∧
      (∀ st, s1.refuseAt p pkt = some st →
        exec (.dataFrame p) s = .next (({ s1.modWin key (fun w => w.take (fhdrOf f.hdr).fseq p true) with
          rem := { s1.rem with refuseSent := inc 16 s1.rem.refuseSent } } : State).sendRefuse p key (fhdrOf f.hdr).fseq st
            (hdr pkt).vc)))) ∧
  (∀ (w : PeerWin) (h q : BitVec 24), w.highest = some h →
    (1 ≤ (q - h).toNat → (q - h).toNat < 2 ^ 23 → w.check q = .accept (none, [])) ∧
    (2 ^ 23 ≤ (q - h).toNat → 4096 ≤ (h - q).toNat → w.check q = .stale) ∧
    (q ∈ w.ahead → (h - q).toNat < 4096 → w.check q = .duplicate)) ∧
  (∀ (p key : Nat) (f : Frame) (ft : W64) (s : State),
    s.headFrame p 2 = some (f, ft, key) → s.portAckRate p = 0 →
    ∃ t, exec (.ackFrame p) s = .next t ∧ (t.port p).rxq = (s.port p).rxq.drop 1 ∧
      ((fhdrOf f.hdr).av = true → t.ports.sent = s.ports.sent.filter fun x =>
        !(x.fdst == key && decide (((fhdrOf f.hdr).ackseq - x.fseq).toNat < 2 ^ 23))) ∧
      ((fhdrOf f.hdr).av = false → t.ports.sent = s.ports.sent)) ∧
  (∀ (p key : Nat) (f : Frame) (ft : W64) (s : State), s.headFrame p 4 = some (f, ft, key) → (fhdrOf f.hdr).av = false →
    ∃ t, exec (.refuse p) s = .next t ∧
      t.ports.sent = s.ports.sent.filter (fun x => !(x.fdst == key && x.fseq == BitVec.ofNat 24 (bits (bodyWord f) 63 40))) ∧
      t.ports.backoff = s.ports.backoff ++
        (s.ports.sent.filter fun x => (x.fdst == key && x.fseq == BitVec.ofNat 24 (bits (bodyWord f) 63 40)) &&
            x.q.op.all fun id => s.rem.rack.any fun r => r.id == id).map
          (fun x => (x.q, key, x.refusals + 1))) ∧
  (∀ (p key : Nat) (f : Frame) (ft : W64) (s : State), s.headFrame p 5 = some (f, ft, key) →
    ∃ t, exec (.resync p) s = .next t ∧ t.ports.sent = s.ports.sent.filter (fun x => x.fdst != key) ∧
      t.peerSend key = { dinc := (fhdrOf f.hdr).sinc, fseq := 0 } ∧ t.notices.pend.getLsbD ntPeerResync = true) ∧
  (∀ (fdst : Nat) (b : QPacket × Nat × Nat) (s : State),
    s.ports.backoff.find? (fun b => b.2.1 == fdst) = some b → isPeerKey fdst = false → (s.route fdst).1 = .done →
    ∃ t, exec (.refusalBackoffEnd fdst) s = .next t ∧ t.ports.backoff = s.ports.backoff.erase b ∧
      (∀ i, tget t.ports.outq [] i =
        if i = (s.route fdst).2.1 * 32 + (hdr b.1.pkt).vc % 8 * 4 + (hdr b.1.pkt).hc % 4 then
          tget s.ports.outq [] i ++ [{ b.1 with readers := [(s.route fdst).2.1, (s.route fdst).2.2, b.2.2] }]
        else tget s.ports.outq [] i) ∧
      t = { s with ports := { s.ports with backoff := t.ports.backoff, outq := t.ports.outq } })

/-- R384, R388, R389, R395: a port resends first, then sends a new frame under its peer's next FSEQ, kept until acknowledged; a
NAK and the timers resend under the same FSEQ; an ACK and a NAK frame say what the window holds. R394, R396, R397: a failed
path's frames move with their FSEQ unchanged and none is lost; a probe goes on the failed path with one of them; a port out of
service has its frames handed over from its partner's mirror half. -/
def Obligations.FramesAreSentResentAndFailOver : Prop :=
  (∀ (p : Nat) (s : State), p < 16 → s.portRuns p = true →
    (∀ f, s.ports.sent.find? (fun f => f.port == p && s.resendable f) = some f → exec (.frameSend p) s = .next (s.transmit f)) ∧
    (∀ q, s.ports.sent.find? (fun f => f.port == p && s.resendable f) = none →
      (s.outBuffers p).find? (fun q => s.outReady p q) = some q →
      ∃ t, exec (.frameSend p) s = .next t ∧
        (∀ i, tget t.ports.outq [] i = if i = outKey q then (tget s.ports.outq [] i).erase q else tget s.ports.outq [] i) ∧
        (t.peerSend (s.peerKey p (q.readers.getD 1 0))).fseq = (s.peerSend (s.peerKey p (q.readers.getD 1 0))).fseq + 1 ∧
        (∃ f ∈ t.ports.sent, f.fdst = s.peerKey p (q.readers.getD 1 0) ∧ f.port = p ∧ f.sends = 1 ∧
          f.fseq = (s.peerSend (s.peerKey p (q.readers.getD 1 0))).fseq) ∧
        t.out.length = s.out.length + 1)) ∧
  (∀ (fdst : Nat) (q : BitVec 24) (f : SentFrame) (s : State),
    s.ports.sent.find? (fun f => f.fdst == fdst && f.fseq == q) = some f → f.due = false → s.portServes f.port = true →
    fdst ∉ (s.port f.port).failed →
    ∃ t, exec (.frameResendTimer fdst q) s = .next t ∧ t = s.resend f ∧
      (t.port f.port).resent = inc 16 (s.port f.port).resent ∧
      t.ports.sent.map (fun x => (x.fdst, x.fseq)) = s.ports.sent.map fun x => (x.fdst, x.fseq)) ∧
  (∀ (p key : Nat) (f : Frame) (ft : W64) (s s1 : State), s.headFrame p 3 = some (f, ft, key) →
    s1 = (s.popFrame p).takeAckSeq key (fhdrOf f.hdr) →
    exec (.nakFrame p) s = .next (each (s1.ports.sent.filter fun x => x.fdst == key && !x.due &&
        decide ((x.fseq - BitVec.ofNat 24 (bits (bodyWord f) 63 40)).toNat < bits (bodyWord f) 39 32))
      (fun x s => s.resend x) s1)) ∧
  (∀ (fsrc : Nat) (s : State), (s.peerWin fsrc).owesAck = true →
    exec (.ackFrameTimer fsrc) s = .next (s.sendCtl (s.peerWin fsrc).port fsrc 2 [])) ∧
  (∀ (fsrc n : Nat) (b : BitVec 24) (s : State), (s.peerWin fsrc).gap = some (b, n) →
    exec (.nakGapTimer fsrc) s = .next (s.sendCtl (s.peerWin fsrc).port fsrc 3
      (wordBytes (BitVec.ofNat 64 (b.toNat * 2 ^ 40 + n * 2 ^ 32))))) ∧
  (∀ (p key kind q : Nat) (body : List Byte) (s : State), s.answerPort p key = some q →
    s.canBegin q key (40 + body.length) = true →
    (s.sendCtl p key kind body).out = s.out ++ [.frame q (s.frameTo key kind 0 body)]) ∧
  (∀ (p fdst : Nat) (s : State), p < 16 → isPeerKey fdst = false → fdst ∉ (s.port p).failed →
    (∃ f ∈ s.ports.sent, f.port = p ∧ f.fdst = fdst) →
    ∃ t, exec (.pathFail p fdst) s = .next t ∧
      t.port p = { s.port p with failed := (s.port p).failed ++ [fdst], pathFailCnt := inc 8 (s.port p).pathFailCnt } ∧
      t.ports.sent.map (fun x => (x.fdst, x.fseq)) = s.ports.sent.map (fun x => (x.fdst, x.fseq)) ∧
      ((∀ e ∈ s.ports.outq, ∀ q ∈ e.2, outKey q = e.1) → (s.ports.outq.map (·.1)).Nodup →
        (t.ports.outq.map fun e => e.2.length).sum = (s.ports.outq.map fun e => e.2.length).sum) ∧
      ((s.port p).failed = [] → t.notices.pend.getLsbD (ntPathFail p) = true) ∧ SameButSignals { s with ports := t.ports } t) ∧
  (∀ (p fdst : Nat) (f : SentFrame) (s : State), s.ports.sent.find? (fun f => f.fdst == fdst) = some f →
    fdst ∈ (s.port p).failed → s.canBegin p fdst (lineBytes (packetBody f.q.pkt).length) = true →
    ∃ t x, exec (.pathProbe p fdst) s = .next t ∧ t.out = s.out ++ [.frame p x] ∧
      (∃ g ∈ t.ports.sent, g.fdst = fdst ∧ g.fseq = f.fseq ∧ p ∈ g.probed) ∧ t.port p = s.port p ∧
      t.ports.sent.map (fun x => (x.fdst, x.fseq)) = s.ports.sent.map fun x => (x.fdst, x.fseq)) ∧
  (∀ (p : Nat) (s : State), p < 16 → s.portServes p = false → s.portServes (partner p) = true →
    ∃ t, exec (.mirrorHandover p) s = .next t ∧
      t = each (s.ports.sent.filter fun f => f.port == p && !isPeerKey f.fdst) (fun f s => s.moveFrame f) s ∧
      t.ports.sent.map (fun x => (x.fdst, x.fseq)) = s.ports.sent.map (fun x => (x.fdst, x.fseq)) ∧
      t = { s with ports := { s.ports with sent := t.ports.sent } })

/-- R415, R416, R419 to R421: a COMMAND from the adapter of P0 or from the master joins its hopper within the window of 128; one
appended already and one outside the window are counted and dropped; one that no rule accepts is counted in PORT_FRM and writes
no record. -/
def Obligations.CommandsJoinTheirHoppers : Prop :=
  (∀ (p : Packet) (ft : W64) (s s1 : State), s.takeCtl 0x80 = some ((0, p, ft), s1) → s.resets.phase = .ready →
    (s.port 0).p2p = true → (hdr p).dest ≠ 0xFFFFF →
    (s.isSelf (hdr p).dest = true → s.group.demoted = false →
      exec .command s = .next (s1.append { bytes := sliceB p.data 0 64, via := .p0 })) ∧
    (s.isSelf (hdr p).dest = false → s.group.role = 1 →
      exec .command s = .next (s1.relay 0 bridgeStop
        { p with ext := ({ extOf p.ext with epoch := s.group.epoch.toNat } : Ext).enc }))) ∧
  (∀ (n : Nat) (p : Packet) (ft : W64) (s s1 : State), s.takeCtl 0x80 = some ((n, p, ft), s1) → s.resets.phase = .ready →
    n ≠ 0 →
    (s.group.valid = true → s.group.master = some (srcOf p) → BitVec.ofNat 16 (extOf p.ext).epoch = s.group.epoch →
      exec .command s = .next (s1.append { bytes := sliceB p.data 0 64, via := .relayed })) ∧
    (s.group.valid = true → s.group.master = some (srcOf p) → s.group.overlap = false →
      BitVec.ofNat 16 (extOf p.ext).epoch ≠ s.group.epoch →
      newerEpoch (BitVec.ofNat 16 (extOf p.ext).epoch) s.group.epoch = false →
      exec .command s = .next (s1.turnAway { bytes := sliceB p.data 0 64, via := .relayed } .staleEpoch)) ∧
    (s.group.valid = false → exec .command s = .next (s1.modPort n fun q => { q with misaddr := inc 10 q.misaddr }))) ∧
  (∀ (i d : Nat) (c : HeldCmd) (s : State), i = c.origin.hopper → d = (hseqOf c.bytes - (s.hopper i).next).toNat →
    ((s.hopper i).bound = false → s.append c = s.modHopper i fun h => { h with dropped := inc 16 h.dropped }) ∧
    ((s.hopper i).bound = true → d < 128 → (s.hopper i).holds (hseqOf c.bytes) = false →
      s.append c = s.modHopper i fun h => { h with held := h.held ++ [c] }) ∧
    ((s.hopper i).bound = true → (d < 128 ∧ (s.hopper i).holds (hseqOf c.bytes) = true ∨ 65408 ≤ d) →
      s.append c = s.modHopper i fun h => { h with dup := inc 16 h.dup }) ∧
    ((s.hopper i).bound = true → 128 ≤ d → d < 65408 →
      (s.append c).notices.pend.getLsbD ntHopperDrop = true ∧
      SameButSignals (s.modHopper i fun h => { h with dropped := inc 16 h.dropped }) (s.append c)))

/-- R420, R422, R423, R430, R431: a hopper starts the command of its lowest HSEQ when nothing of it runs, its ring has room and
a place is free; a reserved opcode and a reserved bit turn the command away first; a proxy command waits for the Warden, which
has 100 ms; hoppers and rings are set and cleared as their checks allow. -/
def Obligations.HoppersStartCommands : Prop :=
  (∀ (h : Nat) (c : HeldCmd) (s : State), h < 64 → (s.hopper h).nextCmd = some c → (s.hopper h).bound = true →
    (s.hopper h).running = none → s.ringRoom (s.hopper h).ring = true → s.placeFree = true →
    exec (.hopperStart h) s = .next (((s.modHopper h fun x => { x with
      held := x.held.erase c, running := some { c.origin with hopper := h }, cleared := false }).perform
        { c.origin with hopper := h } c.bytes).startMbox)) ∧
  (∀ (h : Nat) (c : HeldCmd) (s : State), (s.hopper h).nextCmd = some c →
    ((s.hopper h).running ≠ none ∨ s.ringRoom (s.hopper h).ring = false ∨ s.placeFree = false) →
    exec (.hopperStart h) s = .next s) ∧
  (∀ (o : Origin) (b : List Byte) (s : State),
    (cmdFields b = none → s.perform o b = s.complete o (fieldB b 0 1) .badOpcode []) ∧
    (∀ l, cmdFields b = some l → strayBits b l = true → s.perform o b = s.complete o (fieldB b 0 1) .badField []) ∧
    (cmdBad b = none → 0xE0 ≤ fieldB b 0 1 →
      s.perform o b = { s with bridge := { s.bridge with proxies := s.bridge.proxies ++ [(o, b)] } }) ∧
    (cmdBad b = none → fieldB b 0 1 = 0 → s.perform o b = s.complete o 0x00 .done [])) ∧
  (∀ (o : Origin) (b : List Byte) (r : List (Origin × List Byte)) (s : State), s.bridge.proxies = (o, b) :: r →
    exec .proxyTimeout s
      = .next (({ s with bridge := { s.bridge with proxies := r } } : State).complete o (fieldB b 0 1) .timedOut [])) ∧
  (∀ (o : Origin) (ring log2 ep : Nat) (peer : Bool) (base : BitVec 44) (s : State),
    firstFail (s.ringChecks ring log2 peer ep base) = none → log2 ≠ 0 →
    exec (.ringSet o ring log2 peer ep base) s = .next ((s.modCring ring fun _ =>
      { enable := true, peer := peer, log2 := log2, ep := ep, base := base, pi := 0, ci := 0 }).complete o 0x01 .done [])) ∧
  (∀ (o : Origin) (h ring : Nat) (first : BitVec 16) (s : State), h < 64 → ring < 64 → (s.hopper h).held = [] →
    ((s.hopper h).running = none ∨ (s.hopper h).running = some o) →
    ((s.cring ring).enable = true → exec (.hopperSet o h ring false first) s = .next ((s.modHopper h fun x =>
      { x with bound := true, ring := ring, next := first, cleared := x.running.isSome }).complete o 0x02 .done [])) ∧
    ((s.cring ring).enable = false → exec (.hopperSet o h ring false first) s = .next (s.complete o 0x02 .wrongState []))) ∧
  (∀ (o : Origin) (h : Nat) (first : BitVec 16) (s : State), h < 64 →
    ∃ t l, exec (.hopperClear o h first) s = .next t ∧ (t.hopper h).held = [] ∧ (t.hopper h).next = first ∧
      t.bridge.waiting = s.bridge.waiting ++ ((s.hopper h).held.map fun c =>
        s.cmdRecord c.origin (fieldB c.bytes 0 1) .wrongState []) ++ l ∧ l.length ≤ 1 ∧ t.cores = s.cores ∧ t.mem = s.mem) ∧
  (∀ (o : Origin) (part : Nat) (s : State), part ≤ 14 →
    exec (.capRead o part) s = .next (s.complete o 0x04 .done (leBytes 15 (s.capPart part))))

/-- R428 to R430, R441: a record's bytes; a record leaves for the slot of its number when its ring has room, and waits without;
a command's record says what ran and how it ended, and QUIET leaves out that of a command that ended DONE. R425, R427, R444,
R446, R451, R616, R618: copies and fills that their checks pass become a job of their exchange station; the reception maps of
the stations named are bolted; the P0 peer alone reads and writes registers by REGACC. -/
def Obligations.RecordsCopiesAndPeerAccesses : Prop :=
  (∀ (r : Record) (phase : Bool),
    (r.bytes phase).length = 32 ∧ fieldB (r.bytes phase) 0 1 = r.opcode % 256 ∧ fieldB (r.bytes phase) 2 2 = r.tag.toNat ∧
    fieldB (r.bytes phase) 4 1 = r.status.code ∧ fieldB (r.bytes phase) 5 3 = r.src % 2 ^ 24 ∧
    fieldB (r.bytes phase) 8 8 = r.ft.toNat ∧ sliceB (r.bytes phase) 16 15 = sliceB r.result 0 15 ∧
    bit (fieldB (r.bytes phase) 31 1) 7 = phase) ∧
  (∀ (ring : Nat) (r : Record) (s u : State) (c : CmdRing), s.bridge.waiting.find? (fun r => r.ring == ring) = some r →
    c = s.cring ring → c.enable = true → s.ringRoom ring = true →
    (s.toRing c 0x81 (c.base.toNat + 32 * (c.pi % 2 ^ c.log2)) (r.bytes (c.pi / 2 ^ c.log2 % 2 == 0)) = (.done, u) →
      ∃ t, exec (.completion ring) s = .next t ∧ t.bridge.waiting = u.bridge.waiting.erase r ∧
        (t.cring ring).pi = ((u.cring ring).pi + 1) % 2 ^ 17 ∧
        SameButSignals { u with bridge := { u.bridge with waiting := t.bridge.waiting, rings := t.bridge.rings } } t) ∧
    (∀ st, s.toRing c 0x81 (c.base.toNat + 32 * (c.pi % 2 ^ c.log2)) (r.bytes (c.pi / 2 ^ c.log2 % 2 == 0)) = (st, u) →
      st ≠ .done → exec (.completion ring) s = .next s)) ∧
  (∀ (ring : Nat) (r : Record) (s : State), s.bridge.waiting.find? (fun r => r.ring == ring) = some r →
    s.ringRoom ring = false → exec (.completion ring) s = .next s) ∧
  (∀ (o : Origin) (op : Nat) (st : Status) (res : List Byte) (s : State),
    (o.mbox = true → s.complete o op st res = { s with bridge := { s.bridge with
      mboxState := 2, mboxResult := (s.cmdRecord o op st res).bytes true } }) ∧
    (o.mbox = false → (o.quiet = false ∨ st ≠ .done) →
      (s.complete o op st res).bridge.waiting = s.bridge.waiting ++ [s.cmdRecord o op st res]) ∧
    (o.mbox = false → o.quiet = true → st = .done → (s.complete o op st res).bridge.waiting = s.bridge.waiting) ∧
    (o.mbox = false → (s.hopper o.hopper).running = some o → (s.hopper o.hopper).cleared = false →
      ((s.complete o op st res).hopper o.hopper).running = none ∧
      ((s.complete o op st res).hopper o.hopper).next = (s.hopper o.hopper).next + 1)) ∧
  (∀ (o : Origin) (src dst : W64) (len : Nat) (s : State), firstFail (s.jobChecks o) = none →
    (len = 0 → exec (.memCopy o src dst len) s = .next (s.complete o 0x20 .badField [])) ∧
    (len ≠ 0 → (s.isSelf (src.toNat / 2 ^ 44) = true ∨ s.isSelf (dst.toNat / 2 ^ 44) = true) →
      touchesRegs src.toNat len = false → touchesRegs dst.toNat len = false →
      exec (.memCopy o src dst len) s
        = .next (s.startJob { s.newJob o 0x20 .copy len with src := src.toNat, dst := dst.toNat })) ∧
    (len ≠ 0 → s.isSelf (src.toNat / 2 ^ 44) = false → s.isSelf (dst.toNat / 2 ^ 44) = false →
      exec (.memCopy o src dst len) s = .next (s.complete o 0x20 .badField []))) ∧
  (∀ (o : Origin) (addr len : Nat) (pat : W64) (s : State), firstFail (s.jobChecks o) = none → len ≠ 0 →
    (addr % 8 = 0 → len % 8 = 0 → touchesRegs addr len = false →
      exec (.memFill o addr pat len) s
        = .next (s.startJob { s.newJob o 0x21 .fill len with src := addr, dst := addr, pattern := pat })) ∧
    (addr % 8 ≠ 0 ∨ len % 8 ≠ 0 → exec (.memFill o addr pat len) s = .next (s.complete o 0x21 .badField []))) ∧
  (∀ (o : Origin) (st : Nat) (s : State), st < 14 → s.stUp st = true →
    ((s.sta st).rmapBolt = false → (s.sta st).halted = false →
      exec (.rmapBolt o st) s = .next ((s.modSta st fun y => { y with rmapBolt := true }).complete o 0x81 .done
        (leBytes 2 (2 ^ st)))) ∧
    ((s.sta st).rmapBolt = true → exec (.rmapBolt o st) s = .next (s.complete o 0x81 .bolted []))) ∧
  (∀ (p : Packet) (ft : W64) (s s1 : State), s.takeCtl 0x83 = some ((0, p, ft), s1) → (s.port 0).p2p = true →
    (s.resets.phase = .ready → bit (fieldB p.data 6 1) 0 = false →
      exec .regacc s = .next ((s1.regRead (fieldB p.data 0 6)).2.2.sendRegData (s1.regRead (fieldB p.data 0 6)).1
        (s1.regRead (fieldB p.data 0 6)).2.1)) ∧
    (s.resets.phase = .ready → bit (fieldB p.data 6 1) 0 = true →
      exec .regacc s = .next (((s1.regWrite .regacc .regacc (fieldB p.data 0 6) (BitVec.ofNat 32 (fieldB p.data 8 4))).1.sendRegData
        (s1.regWrite .regacc .regacc (fieldB p.data 0 6) (BitVec.ofNat 32 (fieldB p.data 8 4))).2 0).startMbox)) ∧
    (s.resets.phase ≠ .ready → (bit (fieldB p.data 6 1) 0 = true ∨ inWd (fieldB p.data 0 6) = false) →
      exec .regacc s = .next (s1.sendRegData .notPresent 0)))

/-- R470, R471, R476: the quarters a link keeps at training: a set that the good spares cover, as large as the limit allows, and
of that size with the fewest bad lanes; the two sides settle on one record, an epoch beyond both, where bad lanes stay bad.
R470, R471, R476 to R478, R492: a link that trains takes the record its sides settle on, and is OUT with no quarter kept; it
enters service when its training completes; a frame of its width and epoch passes, one that fails its CRC is counted, one of
another width or epoch holds the link, the third time for good; both records reach the store. -/
def Obligations.BondLinksResolveTrainAndHold : Prop :=
  (∀ (bad : BitVec 136) (n m : Nat), n ≤ 4 → bestKept bad n < 16 ∧ popcount (bestKept bad n) ≤ n ∧
    (bestKept bad n ≠ 0 → badOf bad (bestKept bad n) + badSpares bad ≤ 8) ∧
    (m < 16 → popcount m ≤ n → badOf bad m + badSpares bad ≤ 8 → popcount m ≤ popcount (bestKept bad n) ∧
      (popcount m = popcount (bestKept bad n) → badOf bad (bestKept bad n) ≤ badOf bad m))) ∧
  (∀ (a b : WidthRec) (failing : List Nat),
    (resolveWidth a b failing).epoch = BitVec.ofNat 16 (max a.epoch.toNat b.epoch.toNat + 1) ∧
    popcount (resolveWidth a b failing).qmask.toNat ≤ popcount a.qmask.toNat ∧
    popcount (resolveWidth a b failing).qmask.toNat ≤ popcount b.qmask.toNat ∧
    (∀ i, a.bad.getLsbD i = true ∨ b.bad.getLsbD i = true ∨ (i < 136 ∧ i ∈ failing) →
      (resolveWidth a b failing).bad.getLsbD i = true)) ∧
  (∀ (d l : Nat) (failing : List Nat) (s : State), d < 8 → l < 36 → s.bondsPowered d = true →
    ((s.bond d l).state = .off ∨ (s.bond d l).state = .hold ∨ (s.bond d l).state = .train ∧ (s.bond d l).resolved = false) →
    s.test.runs = [] →
    ∃ t, exec (.bondLinkTrain d l failing) s = .next t ∧
      (t.bond d l).dieLive = some (resolveWidth (s.bond d l).dieRec (s.bond d l).baseRec failing) ∧
      (t.bond d l).baseLive = some (resolveWidth (s.bond d l).dieRec (s.bond d l).baseRec failing) ∧
      (t.bond d l).state = (if (resolveWidth (s.bond d l).dieRec (s.bond d l).baseRec failing).qmask = 0 then .out else .train) ∧
      (t.bond d l).trains = inc 8 (s.bond d l).trains ∧ (t.area areaWidth).dirty = true ∧
      t.mem = s.mem ∧ t.fab = s.fab ∧ t.cores = s.cores ∧ t.bridge = s.bridge) ∧
  (∀ (d l : Nat) (s : State), d < 8 → l < 36 → (s.bond d l).state = .train → (s.bond d l).resolved = true → s.test.runs = [] →
    ∃ t, exec (.bondLinkTrainComplete d l) s = .next t ∧
      t.bond d l = { s.bond d l with state := .up, seq := 0, resolved := false } ∧
      SameButSignals { s with power := { s.power with bonds := t.power.bonds } } t) ∧
  (∀ (d l : Nat) (f : BondFrame) (r : WidthRec) (s : State), d < 8 → l < 36 → (s.bond d l).state = .up →
    r = (if l < 12 then (s.bond d l).baseRec else (s.bond d l).dieRec) →
    (f.crcOk = false → exec (.bondFrameReceive d l f) s = .next (s.modBond d l fun b => { b with crcErr := inc 16 b.crcErr })) ∧
    (f.crcOk = true → f.width = popcount r.qmask.toNat → f.epoch4 = r.epoch.toNat % 16 → f.seq = (s.bond d l).seq →
      exec (.bondFrameReceive d l f) s = .next (s.modBond d l fun b => { b with seq := (b.seq + 1) % 256, holds3 := 0 })) ∧
    (f.crcOk = true → (f.width ≠ popcount r.qmask.toNat ∨ f.epoch4 ≠ r.epoch.toNat % 16) →
      ∃ t, exec (.bondFrameReceive d l f) s = .next t ∧
        t.bond d l = { s.bond d l with
          state := if 2 ≤ (s.bond d l).holds3 then .out else .hold, holds := inc 8 (s.bond d l).holds
          holds3 := (s.bond d l).holds3 + 1, resolved := false } ∧
        SameButSignals { s with power := { s.power with bonds := t.power.bonds } } t)) ∧
  (∀ (d l : Nat) (s : State), d < 8 → l < 36 → (s.bond d l).state = .up →
    ∃ t, exec (.bondCrcRetrain d l) s = .next t ∧ t.bond d l = { s.bond d l with state := .train, resolved := false } ∧
      SameButSignals { s with power := { s.power with bonds := t.power.bonds } } t) ∧
  (∀ (d l : Nat) (s : State), d < 8 → l < 36 → (s.bond d l).dirty = true → s.warden.serving = true →
    ∃ t, exec (.widthRecordWrite d l) s = .next t ∧ (t.bond d l).dieStored = (s.bond d l).dieRec ∧
      (t.bond d l).baseStored = (s.bond d l).baseRec ∧ (t.bond d l).dirty = false ∧
      t.warden.writes = inc 16 s.warden.writes ∧ t.mem = s.mem ∧ t.fab = s.fab ∧ t.bridge = s.bridge)

/-- R480, R481, R485, R486: a coil transfer or a sill block that fails is counted and sent again; a retrain replaces failed
coils by spares of their direction and fences a group that lacks one, whose slice holds no line afterwards; a persistent error
takes a sill link and its port out of service, the second within a second until PORT_RESET. -/
def Obligations.CoilsAndSillsRetrain : Prop :=
  (∀ (n g : Nat) (s : State), n < 8 → g < 64 → s.dieUp n = true → (s.kd n).fenced.getLsbD g = false →
    (s.coil n g).failures < 5 →
    exec (.coilTransfer n g true) s = .next (s.modCoil n g fun c => { c with failures := 0 }) ∧
    ((s.coil n g).failures < 4 → exec (.coilTransfer n g false) s = .next (s.modCoil n g fun c =>
      { c with failures := (s.coil n g).failures + 1, retry := inc 16 (s.coil n g).retry })) ∧
    ((s.coil n g).failures = 4 → exec (.coilTransfer n g false) s = .next (s.modCoil n g fun c => { c with failures := 5 }))) ∧
  (∀ (n g down up : Nat) (s : State), n < 8 → g < 64 → (s.kd n).fenced.getLsbD g = false → s.dieUp n = true →
    (s.coil n g).failures = 5 →
    (down ≤ 4 → up ≤ 4 → ∃ t, exec (.coilRetrain n g down up) s = .next t ∧
      t.coil n g = { s.coil n g with failures := 0, dnsp := down, upsp := up } ∧ (t.kd n).fenced = (s.kd n).fenced ∧
      (((s.coil n g).dnsp ≠ down ∨ (s.coil n g).upsp ≠ up) → (t.area areaRepair).dirty = true) ∧
      t = { s with mem := { s.mem with kd := t.mem.kd }, warden := t.warden }) ∧
    (4 < down ∨ 4 < up → ∃ t, exec (.coilRetrain n g down up) s = .next t ∧
      (t.kd n).fenced = (s.kd n).fenced ||| (1#64 <<< g) ∧ (∀ x ∈ (t.kd n).lines, lineSlice x.line ≠ g) ∧
      (t.area areaRepair).dirty = true ∧ t.notices.pend.getLsbD (ntKdLost n) = true)) ∧
  (∀ (p : Nat) (s : State), p < 16 → (s.port p).sill = .up →
    exec (.sillBlockReceive p true) s = .next (s.modPort p fun q => { q with sillTries := 0 }) ∧
    exec (.sillBlockReceive p false) s = .next (s.modPort p fun q =>
      { q with sillRetry := inc 24 q.sillRetry, sillTries := q.sillTries + 1 }) ∧
    (∀ w, ∃ t, exec (.sillPersistentError p w) s = .next t ∧
      t.port p = { s.port p with sill := if w then .failed else .train, sillPersist := inc 4 (s.port p).sillPersist
                                 sillTries := 0 } ∧
      t.portServes p = false ∧ SameButSignals { s with ports := t.ports, rem := { s.rem with rack := t.rem.rack } } t)) ∧
  (∀ (p : Nat) (s : State), p < 16 → s.power.tripped = false → ((s.port p).sill = .train ∨ (s.port p).sill = .off) →
    ∃ t, exec (.sillRetrainComplete p) s = .next t ∧ t.port p = { s.port p with sill := .up } ∧
      SameButSignals { s with ports := { s.ports with port := t.ports.port } } t)

/-- R219, R353, R522, R525, R530 to R534, R551: whatever gates a die, the die reads GATED with its cause, its gates and whether
its cache die keeps its contents; its station is out of service, its clocks and bond links stop, its scratchpads read zero, its
cores' sow tables are empty, and every context that was launched with NOEND 0 and has written no end record gets one with
DEAD_TARGET. What the detectors find gates it, and DIE_RESET does after its record. -/
def Obligations.DiesAreGated : Prop :=
  (∀ (d cause : Nat) (s t : State), d < 8 → 1 ≤ cause → cause ≤ 6 → (s.die d).state ≠ .gated → t = s.gateDie d cause →
    t.die d = { s.die d with
      state := .gated, gcause := cause, kdKept := decide (cause ≤ 4), gates := inc 16 (s.die d).gates, rejoining := none } ∧
    (t.sta d).up = false ∧ (t.sta d).merge = [] ∧ (t.sta d).remnants = [] ∧ t.sowTab (sowKey .station d) = [] ∧
    (∀ i < 8, t.sowTab (sowKey .core (8 * d + i)) = []) ∧
    (∀ i < 36, (t.bond d i).state = .off) ∧ (∀ i < 4, (t.region (4 * d + i)).state = 1) ∧
    (∀ i < 8, ∀ a, inScratch (8 * d + i) a = true → t.mem.rd a = 0) ∧
    (5 ≤ cause → ∀ a < kdEra, inKd d a = true → t.mem.rd a = 0) ∧
    (∀ i < 8, ∀ x < 16, (s.ctx (8 * d + i) x).state ≠ .idle → (s.ctx (8 * d + i) x).noend = false →
      ∃ r ∈ t.bridge.waiting, r.kind = 1 ∧ r.status = .deadTarget ∧ r.tag = (s.ctx (8 * d + i) x).tag ∧
        r.ring = (s.ctx (8 * d + i) x).ring ∧
        r.result = [BitVec.ofNat 8 (8 * d + i), BitVec.ofNat 8 x, 0, 0, 0, 0, 0, 0]) ∧
    (∀ e, e ≠ d → t.die e = s.die e) ∧ (∀ k, t.field k = s.field k) ∧ t.hash = s.hash ∧ t.group = s.group ∧
    t.mem.hbm = s.mem.hbm) ∧
  (∀ (d : Nat) (s : State), d < 8 → (s.die d).state ≠ .gated →
    (s.warden.lifecycle = 4 → exec (.dieGate d 1) s = .next (s.gateDie d 1)) ∧
    ((s.die d).refMissing = true → exec (.dieGate d 2) s = .next (s.gateDie d 2)) ∧
    (s.bondsOut d = true → exec (.dieGate d 3) s = .next (s.gateDie d 3)) ∧
    ((s.die d).railOut = true → exec (.dieGate d 4) s = .next (s.gateDie d 4)) ∧
    exec (.referenceMissing d) s = .next ((s.modDie d fun x => { x with refMissing := true }).gateDie d 2) ∧
    (∀ mv, mv < 700 ∨ 800 < mv →
      exec (.railOutOfWindow d mv) s = .next ((s.modDie d fun x => { x with railOut := true }).gateDie d 4)) ∧
    (∀ mv, 700 ≤ mv → mv ≤ 800 → exec (.railOutOfWindow d mv) s = .next s)) ∧
  (∀ (o : Origin) (d : Nat) (cache : Bool) (s u : State), s.power.tripped = false → d < 8 →
    u = s.complete o 0x0B .done [] →
    (s.fieldUp (d / 2) = true → (s.die d).state ≠ .gated →
      exec (.dieReset o d cache) s = .next (u.gateDie d (if cache then 6 else 1))) ∧
    (s.fieldUp (d / 2) = false → exec (.dieReset o d cache) s = .next (s.complete o 0x0B .wrongState [])))

/-- R538: DIE_RESET on a die that is gated already completes DONE; with CACHE 0 nothing else changes, with CACHE 1 its cache die
is reset at once and GCAUSE reads 0x6. (A die whose field is out of service is turned away by R524.) -/
def Obligations.AGatedDieIsResetAgain : Prop :=
  ∀ (o : Origin) (d : Nat) (s u : State), s.power.tripped = false → d < 8 → s.fieldUp (d / 2) = true →
    (s.die d).state = .gated → u = s.complete o 0x0B .done [] →
    exec (.dieReset o d false) s = .next u ∧
    ∃ t, exec (.dieReset o d true) s = .next t ∧
      t.die d = { s.die d with gcause := 6, kdKept := false } ∧ t.kd d = CacheDie.cleared (s.kd d) ∧
      (∀ a < kdEra, inKd d a = true → t.mem.rd a = 0) ∧
      (∀ a, inKd d a = false → t.mem.rd a = s.mem.rd a) ∧
      t = { u with mem := t.mem, resets := { u.resets with dies := t.resets.dies } }

/-- R219, R353, R372, R397, R524, R525, R536, R537, R539: a gated die whose field is in service rejoins: its scratchpads are
zeroed, and once its bond links have trained it is UP again, unless one direction is OUT; while a detector still finds its fault
it does not begin. CORE_RESET clears one core and holds it until it ends, with an end record for each of its contexts, and keeps
its scratchpad; PORT_RESET clears one port, which trains. -/
def Obligations.DiesRejoinAndUnitsAreReset : Prop :=
  (∀ (o : Origin) (d : Nat) (refMissing railOut : Bool) (s : State), s.power.tripped = false → d < 8 →
    s.warden.lifecycle ≠ 4 →
    ((s.die d).state = .gated → s.fieldUp (d / 2) = true → refMissing = false → railOut = false →
      ∃ t, exec (.dieRejoin o d refMissing railOut) s = .next t ∧
        t.die d = { s.die d with state := .rejoining, rejoining := some o, refMissing := false, railOut := false } ∧
        (∀ i < 8, ∀ a, inScratch (8 * d + i) a = true → t.mem.rd a = 0) ∧
        t = { s with resets := { s.resets with dies := t.resets.dies }
                     mem := { s.mem with cells := t.mem.cells, poison := t.mem.poison } }) ∧
    ((s.die d).state = .gated → s.fieldUp (d / 2) = true → (refMissing = true ∨ railOut = true) →
      exec (.dieRejoin o d refMissing railOut) s = .next (s.complete o 0x0C .notPresent [])) ∧
    (((s.die d).state ≠ .gated ∨ s.fieldUp (d / 2) = false) →
      exec (.dieRejoin o d refMissing railOut) s = .next (s.complete o 0x0C .wrongState []))) ∧
  (∀ (o : Origin) (d : Nat) (s : State), d < 8 → (s.die d).rejoining = some o → (s.die d).state = .rejoining →
    s.bondsSettled d = true →
    (s.bondsOut d = false → ∃ t, exec (.dieRejoinComplete d) s = .next t ∧
      t.die d = { s.die d with state := .up, rejoining := none } ∧ (t.sta d).up = true ∧
      (∀ i < 4, (t.region (4 * d + i)).state = 0)) ∧
    (s.bondsOut d = true → ∃ t, exec (.dieRejoinComplete d) s = .next t ∧
      t.die d = { s.die d with state := .gated, gcause := 3, rejoining := none } ∧
      (o.mbox = false → s.cmdRecord o 0x0C .pathLost [] ∈ t.bridge.waiting) ∧ t.mem = s.mem ∧ t.cores = s.cores)) ∧
  (∀ (d : Nat) (s : State), s.bondsSettled d = false → exec (.dieRejoinComplete d) s = .next s) ∧
  (∀ (o : Origin) (c : Nat) (s : State), c < 64 → s.coreUp c = true → (s.core c).halted = false →
    ∃ t, exec (.coreReset o c) s = .next t ∧ t.core c = { CoreUnit.reset with resetBy := some o } ∧
      t.sowTab (sowKey .core c) = [] ∧
      (∀ x < 16, (s.ctx c x).state ≠ .idle → (s.ctx c x).noend = false →
        ∃ r ∈ t.bridge.waiting, r.kind = 1 ∧ r.status = .wrongState ∧ r.tag = (s.ctx c x).tag ∧
          fieldB r.result 2 6 = (s.ctx c x).pc.toNat % 2 ^ 48) ∧
      t.mem = s.mem ∧ (∀ e, e ≠ c → t.core e = s.core e) ∧ t.ports = s.ports ∧ t.hash = s.hash) ∧
  (∀ (o : Origin) (c : Nat) (s : State), c < 64 → (s.core c).resetBy = some o → o.mbox = false → o.quiet = false →
    ∃ t, exec (.coreResetComplete c) s = .next t ∧ (t.core c).resetBy = none ∧ s.cmdRecord o 0x0D .done [] ∈ t.bridge.waiting ∧
      t.mem = s.mem ∧ t.fab = s.fab) ∧
  (∀ (o : Origin) (p : Nat) (s : State), s.power.tripped = false → p < 16 →
    ((s.port p).halted = false → ∃ t, exec (.portReset o p) s = .next t ∧ t.port p = Port.reset.startTrain ∧
      t.sowTab (sowKey .port p) = [] ∧ (∀ e, e ≠ p → t.port e = s.port e) ∧ t.cores = s.cores ∧ t.mem = s.mem ∧
      t.hash = s.hash ∧ t.plat = s.plat) ∧
    ((s.port p).halted = true → exec (.portReset o p) s = .next (s.complete o 0x0E .parity [])))

/-- R44, R196, R249, R354, R524, R525, R540, R543: FIELD_RESET takes the field's stations down, clears its sheaf bank and its
memory station and leaves the other fields, every die's state and the hash as they were; the last exchange station's field and
one that is down already are turned away; FIELD_ENABLE begins the return, in warm-up while a ring-site sensor reads below 30
degrees; a warm field's stacks and its receipt share are back at once, and the return completes with the stations of the dies
that run. (That the share counts as back then is the model's, log entry 89.) -/
def Obligations.FieldsGoDownAndReturn : Prop :=
  (∀ (o : Origin) (k : Nat) (s : State), s.power.tripped = false → k < 4 →
    (s.fieldUp k = true → s.lastXs k = false →
      ∃ t, exec (.fieldReset o k) s = .next t ∧
        t.field k = { state := .reset, resets := inc 16 (s.field k).resets, cold := false, enabling := none } ∧
        (∀ st ∈ fieldStations k, (t.sta st).up = false ∧ (t.sta st).merge = [] ∧ (t.sta st).rmapBolt = false ∧
          t.sowTab (sowKey .station st) = []) ∧
        (∀ n, sheafBank n = k → t.sheaf n = Sheaf.reset) ∧ t.ms k = MemStation.reset ∧
        (∀ h, h / 3 = k → (s.hbm h).state = .ready → (t.hbm h).state = .selfref) ∧
        (∀ j, j ≠ k → t.field j = s.field j) ∧ t.hash = s.hash) ∧
    ((s.fieldUp k = false ∨ s.lastXs k = true) →
      exec (.fieldReset o k) s = .next (s.complete o 0x09 .wrongState []))) ∧
  (∀ (o : Origin) (k : Nat) (s : State), s.power.tripped = false → k < 4 →
    ((s.field k).state = .up → exec (.fieldEnable o k) s = .next (s.complete o 0x0A .wrongState [])) ∧
    ((s.field k).state = .reset → (s.field k).enabling = none →
      (∀ i < 48, 60 ≤ tget s.power.sensors 0 (firstSensor (.field k) + i)) →
      ∃ t, exec (.fieldEnable o k) s = .next t ∧ (t.field k).state = .enabling ∧ (t.field k).enabling = some o ∧
        (s.resets.phase = .ready → (t.ms k).shareUp = true ∧ (t.ms k).evft = s.now ∧
          ∀ h, h / 3 = k → (s.hbm h).state = .selfref → (t.hbm h).state = .ready) ∧
        (s.resets.phase ≠ .ready → t.mem = s.mem) ∧
        t.cores = s.cores ∧ t.mem.cells = s.mem.cells ∧ t.hash = s.hash) ∧
    ((s.field k).state = .reset → (s.field k).enabling = none →
      (∃ i < 48, tget s.power.sensors 0 (firstSensor (.field k) + i) < 60) →
      ∃ t, exec (.fieldEnable o k) s = .next t ∧ (t.field k).state = .warmup ∧ (t.field k).enabling = some o ∧
        t.cores = s.cores ∧ t.mem = s.mem ∧ t.light = s.light)) ∧
  (∀ (k : Nat) (s : State), k < 4 → (s.field k).state = .enabling → s.resets.phase = .ready →
    ([2 * k, 2 * k + 1].all fun d => !s.dieUp d || s.bondsSettled d) = true →
    ∃ t, exec (.fieldEnableComplete k) s = .next t ∧ t.field k = { s.field k with state := .up, enabling := none } ∧
      (∀ st ∈ fieldStations k, (isCS st = false ∨ s.dieUp st = true) → (t.sta st).up = true) ∧
      (∀ j, j ≠ k → t.field j = s.field j) ∧ t.hash = s.hash) ∧
  (∀ (k : Nat) (s : State), k < 4 → (s.field k).state = .warmup →
    (∀ i < 48, 60 ≤ tget s.power.sensors 0 (firstSensor (.field k) + i)) →
    ∃ t, exec (.warmUpEnd k) s = .next t ∧ (t.field k).state = .enabling ∧
      (s.resets.phase = .ready → (t.ms k).shareUp = true ∧ (t.ms k).evft = s.now) ∧ t.cores = s.cores ∧ t.hash = s.hash)

/-- R154, R195, R196, R201, R329, R392, R412, R441, R466, R513 to R515, R522 to R528, R548, R571, R579, R582, R589: what a
package warm reset, a power-on reset, a loss of power and a thermal trip clear and keep; when bring-up ends the package reads
READY. That power returns at once after a loss, and what the log and the store hold of a loss, are the model's (log entries 1
and 3). -/
def Obligations.PackageIsResetAndBroughtUp : Prop :=
  (∀ (o : Origin) (s : State), s.power.tripped = false →
    ∃ t, exec (.warmReset o) s = .next t ∧ t.resets.phase = .warm ∧ t.resets.cause = 1 ∧
      t.resets.warmCnt = inc 16 s.resets.warmCnt ∧ t.hash = State.reset.hash ∧ t.time.root = 0 ∧
      t.group = { Group.reset with inc := s.warden.incStored + 1 } ∧ t.warden.incStored = s.warden.incStored + 1 ∧
      t.cores = [] ∧ t.plat = Plat.reset ∧ t.ports = State.reset.ports ∧ (∀ h, t.hopper h = Hopper.reset) ∧
      t.warden.lifecycle = s.warden.lifecycle ∧ t.warden.serving = s.warden.serving ∧
      ((∀ st, (s.sta st).merge = []) → ∀ a < 2 ^ 41, t.mem.rd a = s.mem.rd a) ∧
      (∀ a, 2 ^ 41 ≤ a → a < kdEra → t.mem.rd a = 0) ∧
      (o.mbox = false → o.quiet = false → Out.record (s.cmdRecord o 0x08 .done []) ∈ t.out)) ∧
  (∀ (w straps : Nat) (cold : List Nat) (s : State),
    (1000 ≤ w → s.power.thermtrip = false →
      ∃ t, exec (.poreset w straps cold) s = .next t ∧ t.resets.phase = .poweron ∧
        t.resets.cause = (if s.power.tripped then 2 else 0) ∧ t.resets.smbAddr = straps % 8 ∧
        t.resets.flashOwn = straps.testBit 3 ∧ t.power.tripped = false ∧
        t.hash = State.reset.hash ∧ t.time.root = 0 ∧ t.cores = [] ∧ t.mem.cells = [] ∧ t.warden.serving = false ∧
        t.warden.lifecycle = s.warden.lifecycle ∧
        (∀ k < 4, (t.field k).state = (if k ∈ cold then .warmup else .enabling)) ∧
        t.power.tripValid = s.power.tripValid ∧ t.power.tripCount = s.power.tripCount) ∧
    ((w < 1000 ∨ s.power.thermtrip = true) → exec (.poreset w straps cold) s = .next s)) ∧
  (∀ (s : State), ∃ t, exec .powerLoss s = .next t ∧ t.warden.log = s.warden.log.filter (fun e => decide (e.no < s.warden.flushed)) ∧
    t.warden.lifecycle = s.warden.lifecycle ∧ t.warden.serving = false ∧ t.resets.phase = .poweron ∧ t.mem.cells = [] ∧
    t.hash = State.reset.hash ∧ t.warden.leafNext = t.warden.leafEnd ∧ t.power.tripCount = s.power.tripCount) ∧
  (∀ (failed : List Nat) (s : State), s.resets.phase ≠ .ready → s.warden.serving = true → s.power.tripped = false →
    (∀ k < 4, (s.field k).state ≠ .warmup ∨ (s.field k).cold = true) →
    ∃ t, exec (.bringUpReady failed) s = .next t ∧ t.resets.phase = .ready ∧
      (∀ k < 4, (s.field k).state ≠ .warmup → (t.field k).state = .up ∧
        (∀ st ∈ fieldStations k, (isCS st = false ∨ s.dieUp st = true) → (t.sta st).up = true) ∧
        (∀ h, h / 3 = k → (s.hbm h).state ≠ .failed →
          (t.hbm h).state = (if h ∈ failed then .failed else .ready))) ∧
      (∀ k < 4, (s.field k).state = .warmup → (t.field k).state = .warmup)) ∧
  (∀ (loc : ThermLoc) (temp : Nat) (s : State), thermOk loc = true → s.power.tripped = false →
    (thresholds loc).2.2 ≤ temp →
    ∃ t, exec (.thermalShutdown loc temp) s = .next t ∧ t.power.thermtrip = true ∧ t.power.tripped = true ∧
      t.power.tripValid = true ∧ t.power.tripKind = loc.ctorIdx ∧ t.power.tripIndex = thermIndex loc ∧
      t.power.tripTemp = min temp 255 ∧ t.power.tripCount = inc 16 s.power.tripCount ∧ Out.thermtrip true ∈ t.out ∧
      t.mem.cells = [] ∧ (∀ d < 8, (t.die d).state = .gated) ∧ (∀ st < 14, (t.sta st).up = false) ∧
      t.rem.ops = [] ∧ t.bridge.waiting = [] ∧ t.warden.lifecycle = s.warden.lifecycle) ∧
  (∀ (o : Origin) (s : State) (k d p : Nat) (cache : Bool), s.power.tripped = true →
    exec (.warmReset o) s = .next s ∧ exec (.fieldReset o k) s = .next s ∧ exec (.fieldEnable o k) s = .next s ∧
    exec (.dieReset o d cache) s = .next s ∧ exec (.portReset o p) s = .next s)

/-- R422, R590 to R593, R595 to R600, R604: BIST_RUN takes its unit when its checks pass; when it ends the first 64 failures are
held for BIST_RESULT, BIST_FAIL is raised for one left unrepaired, and the unit is free; a bond link trains again; a coil
group's fence is lifted with CLEAR when each direction has at most four failures; a loopback returns its group to its earlier
state with the lanes that failed marked bad. Which kept byte stands where in the save buffer is the model's (log entry 54). -/
def Obligations.SelfTestsRunAndReport : Prop :=
  (∀ (o : Origin) (p : BistParams) (s : State),
    (firstFail (s.bistChecks p) = none → ∃ t, exec (.bistRun o p) s = .next t ∧
      (∃ st, t.test.runs = s.test.runs ++ [{ o := o, p := p, saveStatus := st }]) ∧
      (p.target = 4 → (t.bond p.index p.sub).state = .train ∧ t.mem = s.mem) ∧ t.cores = s.cores ∧ t.plat = s.plat ∧
      t.sheaves = s.sheaves ∧ t.bridge = s.bridge) ∧
    (∀ st, firstFail (s.bistChecks p) = some st → exec (.bistRun o p) s = .next (s.complete o 0xC0 st []))) ∧
  (∀ (target index sub : Nat) (fails : List BistFail) (ok : Bool) (r : BistHold) (s : State),
    s.test.runs.find? (fun r => r.p.target == target && r.p.index == index && r.p.sub == sub) = some r →
    ∃ t l, exec (.bistRunComplete target index sub fails ok) s = .next t ∧ t.test.runs = s.test.runs.erase r ∧
      t.test.last.head? = some { target := target, index := index, sub := sub, fails := l } ∧ l.length ≤ 64 ∧
      (target < 4 → r.saveStatus = none → l.map (·.1) = fails.take 64) ∧
      (target < 4 → r.saveStatus = none → r.p.repair = false → fails ≠ [] → t.notices.pend.getLsbD ntBistFail = true) ∧
      (target < 4 → ∀ st, r.saveStatus = some st → l = [] ∧ t.mem = s.mem ∧ t.test.sparesUsed = s.test.sparesUsed) ∧
      (target = 5 → r.p.clear = true → (fails.filter fun f => f.addr == 0).length ≤ 4 →
        (fails.filter fun f => f.addr != 0).length ≤ 4 →
        (t.kd index).fenced = (s.kd index).fenced &&& ~~~(1#64 <<< sub) ∧
        (t.coil index sub).dnsp = (fails.filter fun f => f.addr == 0).length ∧
        (t.coil index sub).upsp = (fails.filter fun f => f.addr != 0).length) ∧
      (target = 5 → r.p.clear = false → t.kd index = s.kd index) ∧
      (target = 4 → (t.bond index sub).state = .up ∨ (t.bond index sub).state = .out) ∧ t.hash = s.hash ∧ t.cores = s.cores) ∧
  (∀ (target index : Nat) (fails : List BistFail) (used : Tbl Nat) (k : Nat),
    (tget used 0 k ≤ sparesEach target → tget (repairAll target index fails [] used).1 0 k ≤ sparesEach target) ∧
    tget used 0 k ≤ tget (repairAll target index fails [] used).1 0 k ∧
    (repairAll target index fails [] used).2.map (·.1) = fails) ∧
  (∀ (o : Origin) (target index sub n : Nat) (x : BistLast) (f : BistFail × Bool) (s : State),
    target ≤ 5 → (target < 4 → sub = 0) →
    bistUnit { target := target, index := index, sub := sub, repair := false, clear := false, save := 0 } = true →
    s.test.last.find? (fun x => x.target == target && x.index == index && x.sub == sub) = some x →
    (x.fails[n]? = some f → exec (.bistResult o target index sub n) s = .next (s.complete o 0xC1 .done
      (leBytes 6 f.1.addr ++ [BitVec.ofNat 8 f.1.bitNo, BitVec.ofNat 8 (b2n f.1.expected + 2 * b2n f.2)]))) ∧
    (x.fails.length ≤ n → exec (.bistResult o target index sub n) s = .next (s.complete o 0xC1 .notPresent []))) ∧
  (∀ (o : Origin) (st g dur : Nat) (s : State), isSownTx st g = true → st < nSt → 1 ≤ dur → dur ≤ 15 →
    s.readerCount st g = 0 → ((s.txg st g).state = .off ∨ (s.txg st g).state = .drained) →
    (s.txg st g).loopback = false → s.stUp st = true → (s.sta st).halted = false →
    ∃ t, exec (.loopbackRun o st g dur) s = .next t ∧ t.txg st g = { s.txg st g with state := .off, loopback := true } ∧
      (∀ r ∈ loopRings st, (t.ringAt r).state = .acquire) ∧
      t.test = { s.test with loops := s.test.loops ++ [{ o := o, st := st, g := g, before := (s.txg st g).state }] } ∧
      t = { s with fab := { s.fab with tx := t.fab.tx, rings := t.fab.rings }, test := t.test }) ∧
  (∀ (st g : Nat) (eyes : List Nat) (bitErr : Byte) (inl : Nat) (tia adc : Int) (r : LoopHold) (s : State),
    s.test.loops.find? (fun r => r.st == st && r.g == g) = some r →
    ∃ t, exec (.loopbackRunComplete st g eyes bitErr inl tia adc) s = .next t ∧
      t.txg st g = { s.txg st g with
        state := r.before, loopback := false, bad := (s.txg st g).bad ||| badLanes eyes bitErr } ∧
      t.test = { s.test with loops := s.test.loops.erase r } ∧
      (loopPassed eyes bitErr inl tia adc = false → t.notices.pend.getLsbD ntBistFail = true) ∧
      SameButRecord { s with fab := { s.fab with tx := t.fab.tx, rings := t.fab.rings }, test := t.test } t)

/-- R556, R562 to R565, R569, R571, R585, R588, R595, R596: a restart of the Warden stops its service, clears what its SRAM held
of self-test results and of a firmware stage, and is counted and raised when it serves again; the log reaches flash, a record
area is written or, when it fails twice, keeps its record and WFAIL shows it. -/
def Obligations.WardenRestartsAndWritesItsStore : Prop :=
  (∀ (s : State),
    (s.warden.serving = true → ∃ t, exec .watchdogRestart s = .next t ∧ t.warden.serving = false ∧ t.warden.restartCause = 1 ∧
      t.test = { s.test with last := [] } ∧ t.warden.staging = none ∧ t.warden.attest = none ∧
      t.warden.log.take s.warden.log.length = s.warden.log ∧ t.hash = s.hash ∧ t.group = s.group ∧
      ((∀ f < 10, (s.feed f).state ≠ .hinge) → t.mem = s.mem ∧ t.cores = s.cores ∧ t.light = s.light)) ∧
    (s.warden.serving = false → exec .watchdogRestart s = .next s)) ∧
  (∀ (s : State), s.warden.serving = false → s.warden.restartCause ≠ 0 →
    ∃ t, exec .wardenRestart s = .next t ∧ t.warden.serving = true ∧ t.warden.restartCause = 0 ∧
      t.warden.restarts = inc 16 s.warden.restarts ∧ t.notices.pend.getLsbD ntWardenRestart = true ∧
      (s.warden.restartCause = 3 → t.notices.pend.getLsbD ntTamper = true) ∧
      SameButSignals { s with warden := { s.warden with
        serving := true, restartCause := 0, restarts := inc 16 s.warden.restarts, seed := t.warden.seed } } t) ∧
  (∀ (s : State), s.warden.serving = true → ∃ t, exec .logFlush s = .next t ∧ t.warden.flushed = t.warden.logNext ∧
    t.warden.areas = s.warden.areas ∧ t.mem = s.mem ∧ t.bridge = s.bridge) ∧
  (∀ (a : Nat) (first second : Bool) (s : State), s.warden.serving = true → a < 7 → (s.area a).dirty = true →
    ((first || second) = true → ∃ t, exec (.storeWrite a first second) s = .next t ∧
      t.area a = (s.area a).written ∧ t.warden.wfail.getLsbD a = false ∧ t.warden.missing.getLsbD a = false ∧
      t.warden.writes = inc 16 s.warden.writes ∧ (∀ b, b ≠ a → t.area b = s.area b) ∧ t.mem = s.mem) ∧
    ((first || second) = false → ∃ t, exec (.storeWrite a first second) s = .next t ∧
      (t.area a).present = (s.area a).present ∧ t.warden.wfail.getLsbD a = true ∧ (∀ b, b ≠ a → t.area b = s.area b) ∧
      t.warden.writes = s.warden.writes ∧ t.mem = s.mem)) ∧
  (∀ (s : State), s.warden.serving = true → (s.area areaRepair).dirty = true →
    ∃ t, exec .repairRecord s = .next t ∧ t.area areaRepair = (s.area areaRepair).written ∧
      t.warden.storedSpares = s.test.sparesUsed ∧ t.mem = s.mem) ∧
  (∀ (o : Origin) (entry count : Nat) (dst : W64) (s u : State), s.warden.serving = true → s.warden.attest = none →
    s.lifeRefuses 0xE0 = false → u = s.takeProxy o →
    (1 ≤ count → count ≤ 8192 → ∃ l, l = (s.warden.log.filter fun e => decide (entry ≤ e.no)).take count ∧
      exec (.logRead o entry count dst) s = .next (u.startJob { u.newJob o 0xE0 .give (32 * l.length) with
        dst := dst.toNat, data := l.flatMap LogEntry.bytes
        res := leBytes 6 ((s.warden.log.head?.map (·.no)).getD s.warden.logNext) ++ leBytes 6 s.warden.logNext ++
          leBytes 2 l.length })) ∧
    ((count = 0 ∨ 8192 < count) → exec (.logRead o entry count dst) s = .next (u.complete o 0xE0 .outOfRange [])))

/-- R423, R559, R560, R582: SENSOR_READ answers the value and the time of a sensor's last sample, POWER_MODE writes the mode and
the limits that its flags select; a proxy command waits while the Warden does not serve, and a life-cycle state refuses those of
its row. -/
def Obligations.WardenAnswersSensorsAndPowerMode : Prop :=
  (∀ (o : Origin) (kind index : Nat) (s u : State), s.warden.serving = true → s.warden.attest = none →
    s.lifeRefuses 0xE1 = false → u = s.takeProxy o →
    (kind = 0 → index < 480 → exec (.sensorRead o kind index) s = .next (u.complete o 0xE1 .done
      (leBytes 4 (BitVec.ofInt 32 (tget s.power.sensors 0 index : Nat)).toNat ++
        leBytes 8 (tget s.warden.sampleFt 0 index).toNat))) ∧
    (kind = 1 → index < 18 → exec (.sensorRead o kind index) s = .next (u.complete o 0xE1 .done
      (leBytes 4 (BitVec.ofInt 32 (tget s.power.railMv 0 index : Nat)).toNat ++
        leBytes 8 (tget s.warden.sampleFt 0 (65536 * kind + index)).toNat))) ∧
    (kind = 2 → index < 18 → exec (.sensorRead o kind index) s = .next (u.complete o 0xE1 .done
      (leBytes 4 (BitVec.ofInt 32 (tget s.power.railMa 0 index : Nat)).toNat ++
        leBytes 8 (tget s.warden.sampleFt 0 (65536 * kind + index)).toNat))) ∧
    (kind = 3 → index < 10 → exec (.sensorRead o kind index) s = .next (u.complete o 0xE1 .done
      (leBytes 4 (BitVec.ofInt 32 (tget s.light.feedTap 0 index)).toNat ++
        leBytes 8 (tget s.warden.sampleFt 0 (65536 * kind + index)).toNat))) ∧
    (kind ≤ 6 → sensorOk kind index = false → exec (.sensorRead o kind index) s = .next (u.complete o 0xE1 .outOfRange [])) ∧
    (7 ≤ kind → exec (.sensorRead o kind index) s = .next (u.complete o 0xE1 .badField []))) ∧
  (∀ (o : Origin) (mode limit cap : Nat) (setLimit setCap : Bool) (s u : State), s.warden.serving = true →
    s.warden.attest = none → s.lifeRefuses 0xE6 = false → u = s.takeProxy o → mode ≤ 3 → mode ≠ 2 →
    ((setLimit = true → 400 ≤ limit ∧ limit ≤ 2000) → (setCap = true → 50 ≤ cap ∧ cap ≤ 150) →
      ∃ p, p = { s.power with
          mode := if mode = 3 then s.power.mode else mode
          limit := if setLimit then limit else s.power.limit
          dieCap := if setCap then cap else s.power.dieCap } ∧
        exec (.powerMode o mode setLimit setCap limit cap) s
          = .next (({ u with power := p } : State).complete o 0xE6 .done
            ([BitVec.ofNat 8 (p.mode + 128 * b2n p.fallback), 0] ++ leBytes 2 p.limit ++ leBytes 2 p.dieCap))) ∧
    (setLimit = true → (limit < 400 ∨ 2000 < limit) →
      exec (.powerMode o mode setLimit setCap limit cap) s = .next (u.complete o 0xE6 .outOfRange []))) ∧
  (∀ (o : Origin) (kind index : Nat) (s : State), s.warden.serving = false → exec (.sensorRead o kind index) s = .next s) ∧
  (∀ (o : Origin) (mode limit cap : Nat) (a b : Bool) (s : State), s.warden.serving = true → s.warden.attest = none →
    mode ≤ 3 → mode ≠ 2 → s.warden.lifecycle = 4 →
    exec (.powerMode o mode a b limit cap) s = .next ((s.takeProxy o).complete o 0xE6 .wrongState []))

/-- R556, R557, R569, R573 to R577: an image that verifies makes its slot VALID, one that does not REJECTED with AUTH_FAIL;
SELECT and RESTART need a VALID slot, COMMIT raises the rollback counter to the active image's SVN and never lowers it; the boot
ROM boots a slot that verifies, a trial slot that fails twice in a row reads FAILED, and with no slot that verifies the Warden
serves nothing. -/
def Obligations.FirmwareIsStagedSwitchedAndBooted : Prop :=
  (∀ (o : Origin) (src : W64) (len : Nat) (s u : State), s.warden.serving = true → s.warden.attest = none →
    s.lifeRefuses 0xE2 = false → u = s.takeProxy o →
    (4097 ≤ len → len ≤ 2 ^ 23 → s.warden.staging = none →
      ∃ v, v = u.setWarden (fun w => { (w.setSpare fun _ => { state := .staging, version := 0, svn := 0, image := [] }) with
          staging := some o }) ∧
        exec (.fwStage o src len) s
          = .next (v.startJob { v.newJob o 0xE2 .take len with src := src.toNat, data := List.replicate len 0 })) ∧
    ((len < 4097 ∨ 2 ^ 23 < len) → exec (.fwStage o src len) s = .next (u.complete o 0xE2 .outOfRange [])) ∧
    (4097 ≤ len → len ≤ 2 ^ 23 → s.warden.staging ≠ none →
      exec (.fwStage o src len) s = .next (u.complete o 0xE2 .busy []))) ∧
  (∀ (o : Origin) (j : Job) (s : State), s.warden.serving = true → s.warden.staging = some o →
    s.rem.jobs.find? (fun j => j.opcode == 0xE2) = some j → j.len ≤ j.done → j.ops = [] →
    ∃ t, exec .fwStageDone s = .next t ∧ t.warden.staging = none ∧
      t.warden.spare = (stagedSlot s.warden.svnMin j.worst j.data).1 ∧ t.warden.active = s.warden.active ∧
      (o.mbox = false → s.cmdRecord o 0xE2 (stagedSlot s.warden.svnMin j.worst j.data).2 [] ∈ t.bridge.waiting ∨
        (o.quiet = true ∧ (stagedSlot s.warden.svnMin j.worst j.data).2 = .done)) ∧ t.mem = s.mem) ∧
  (∀ (svn : Nat) (l : List Byte),
    (imageOk svn l = true → stagedSlot svn .done l =
      ({ state := .valid, version := BitVec.ofNat 32 (imgVersion l), svn := imgSvn l, image := l }, .done)) ∧
    (imageOk svn l = false → (stagedSlot svn .done l).1.state = .rejected ∧ (stagedSlot svn .done l).2 = .authFail) ∧
    (imageOk svn l = true → svn ≤ imgSvn l)) ∧
  (∀ (o : Origin) (s : State), s.warden.serving = true → s.warden.attest = none → s.lifeRefuses 0xE3 = false →
    s.warden.staging = none →
    (∃ t, exec (.fwSwitch o 2) s = .next t ∧ t.warden.svnMin = max s.warden.svnMin s.warden.active.svn ∧
      t.warden.trial = false ∧ t.warden.slotA = s.warden.slotA ∧ t.warden.slotB = s.warden.slotB ∧
      t.warden.serving = true ∧ t.mem = s.mem) ∧
    (s.warden.spare.state = .valid →
      (∃ t, exec (.fwSwitch o 0) s = .next t ∧ t.warden.switchPending = true ∧ t.warden.activeB = s.warden.activeB ∧
        t.warden.serving = true ∧ t.warden.svnMin = s.warden.svnMin ∧ t.mem = s.mem) ∧
      (∃ t, exec (.fwSwitch o 1) s = .next t ∧ t.warden.activeB = !s.warden.activeB ∧ t.warden.trial = true ∧
        t.warden.active.state = .active ∧ t.warden.serving = false ∧ t.warden.restartCause = 2 ∧
        t.warden.svnMin = s.warden.svnMin ∧ t.hash = s.hash ∧ t.group = s.group)) ∧
    (s.warden.spare.state ≠ .valid → ∀ a < 2,
      exec (.fwSwitch o a) s = .next ((s.takeProxy o).complete o 0xE3 .notPresent []))) ∧
  (∀ (s : State), s.warden.serving = false → s.warden.restartCause = 0 → s.resets.flashOwn = false →
    (∀ b, s.warden.boots = some b →
      (∃ t, exec (.firmwareBoot true) s = .next t ∧ t.warden.serving = true ∧ t.warden.activeB = b ∧
        t.warden.active.state = .active ∧ t.warden.failedBoots = 0 ∧ t.mem = s.mem) ∧
      (∃ t, exec (.firmwareBoot false) s = .next t ∧ t.warden.serving = false ∧
        ((s.warden.booted b).trial = true → s.warden.failedBoots = 0 → t.warden.failedBoots = 1 ∧ t.warden.activeB = b) ∧
        ((s.warden.booted b).trial = true → s.warden.failedBoots ≠ 0 →
          t.warden.activeB = !b ∧ t.warden.spare.state = .failed) ∧ t.mem = s.mem)) ∧
    (s.warden.boots = none → ∀ ready, ∃ t, exec (.firmwareBoot ready) s = .next t ∧ t.warden.serving = false ∧
      (t.warden.slotA.state = .failed ∨ t.warden.slotA.state = .empty) ∧
      (t.warden.slotB.state = .failed ∨ t.warden.slotB.state = .empty) ∧
      t = { s with warden := { s.warden with slotA := t.warden.slotA, slotB := t.warden.slotB } }))

/-- R403, R530, R571, R578 to R585, R589: ATTEST takes the next leaf of a reservation that is written first, and no leaf twice;
the report is signed and set out for DST; the life-cycle state moves along its table only, wipes the keys and leaves the group;
a tamper wipes them and no report is signed until power-on reset. How a token of another device is answered is open (log entry
53). -/
def Obligations.IdentityLifeCycleAndTamper : Prop :=
  (∀ (o : Origin) (dst : W64) (nonce : List Byte) (s u : State), s.warden.serving = true → s.warden.attest = none →
    s.lifeRefuses 0xE4 = false → u = s.takeProxy o →
    (s.signs = true → s.warden.nextFree < 2 ^ 25 →
      ∃ t leaf, exec (.attest o dst nonce) s = .next t ∧ t.warden.attest = some (o, dst, nonce, leaf) ∧
        t.warden.leafNext = leaf + 1 ∧
        (s.warden.leafNext < s.warden.leafEnd → leaf = s.warden.leafNext ∧ t.warden.nextFree = s.warden.nextFree ∧
          t.warden.areas = s.warden.areas) ∧
        (s.warden.leafEnd ≤ s.warden.leafNext → leaf = s.warden.nextFree ∧ t.warden.leafEnd = s.warden.nextFree + 256 ∧
          t.warden.nextFree = s.warden.nextFree + 256 ∧ t.area areaCounters = (s.area areaCounters).written) ∧
        t.mem = s.mem ∧ t.group = s.group) ∧
    (s.signs = false → exec (.attest o dst nonce) s = .next (u.complete o 0xE4 .authFail [])) ∧
    (s.signs = true → 2 ^ 25 ≤ s.warden.nextFree →
      exec (.attest o dst nonce) s = .next (u.complete o 0xE4 .outOfRange []))) ∧
  (∀ (o : Origin) (dst : W64) (nonce : List Byte) (leaf : Nat) (s v : State), s.warden.serving = true → s.signs = true →
    s.warden.attest = some (o, dst, nonce, leaf) → v = (s.setWarden fun w => { w with attest := none }) →
    exec .attestComplete s = .next (v.startJob { v.newJob o 0xE4 .give 5432 with
      dst := dst.toNat, data := s.reportBody nonce ++ sliceB (Config.identitySign leaf (s.reportBody nonce)) 0 5236
      res := leBytes 2 5432 ++ leBytes 4 leaf ++ leBytes 4 (2 ^ 25 - s.warden.nextFree) })) ∧
  (∀ (a b : Nat), (transition a b).isSome = true →
    (a = 0 ∧ b = 1) ∨ (a = 1 ∧ b = 2) ∨ (a = 2 ∧ b = 3) ∨ (a = 3 ∧ b = 2) ∨ (a ≠ 0 ∧ b = 4)) ∧
  (∀ (o : Origin) (token : W64) (target : Nat) (path : Via → Bool → Bool) (s u : State), s.warden.serving = true →
    s.warden.attest = none → target ≤ 4 → u = s.takeProxy o →
    (transition s.warden.lifecycle target = some (false, path) → path o.via (s.port 0).p2p = true →
      exec (.lifecycleSet o target token) s = .next (u.changeLife o target)) ∧
    (transition s.warden.lifecycle target = some (false, path) → path o.via (s.port 0).p2p = false →
      exec (.lifecycleSet o target token) s = .next (u.complete o 0xE5 .authFail [])) ∧
    (transition s.warden.lifecycle target = none →
      exec (.lifecycleSet o target token) s = .next (u.complete o 0xE5 .wrongState [])) ∧
    (∀ l, transition s.warden.lifecycle target = some (true, path) → path o.via (s.port 0).p2p = true →
      u.readToken token.toNat = (l, .done, u) →
      (u.tokenOk target l = true → exec (.lifecycleSet o target token) s = .next (u.changeLife o target)) ∧
      (u.tokenOk target l = false → exec (.lifecycleSet o target token) s = .next (u.complete o 0xE5 .authFail [])))) ∧
  (∀ (o : Origin) (target : Nat) (s t : State), t = s.changeLife o target →
    t.warden.lifecycle = target ∧ t.warden.lifecycleChanges = s.warden.lifecycleChanges + 1 ∧ t.warden.seed = false ∧
    t.group.valid = false ∧ t.warden.leafNext = t.warden.leafEnd ∧ t.warden.serving = false ∧ t.warden.restartCause = 4 ∧
    (target = 4 → (∀ d < 8, (t.die d).state = .gated) ∧ ∀ a < 7, (t.area a).present = none)) ∧
  (∀ (kind : Nat) (s : State), 1 ≤ kind → kind ≤ 4 → (kind = 4 → s.warden.lifecycle = 1 ∨ s.warden.lifecycle = 2 ∨ s.warden.lifecycle = 4) →
    ∃ t, exec (.tamper kind) s = .next t ∧ t.warden.tampered = true ∧ t.signs = false ∧ t.warden.seed = false ∧
      t.warden.tampers = inc 8 s.warden.tampers ∧ t.warden.lastKind = kind ∧ t.warden.attest = none ∧
      t.group.valid = false ∧ t.warden.leafNext = t.warden.leafEnd ∧ t.warden.serving = false ∧ t.warden.restartCause = 3 ∧
      t.warden.nextFree = s.warden.nextFree ∧ t.hash = s.hash)

/-- R568: when both banks of an area are valid the newer SEQ is its record, where newer counts modulo 2^32; when one bank is
valid, that one is. -/
def Obligations.TheNewerBankIsTheRecord : Prop :=
  (∀ (x : Area) (a b : BitVec 32), x.seq0 = some a → x.seq1 = some b →
    (1 ≤ (a - b).toNat → (a - b).toNat ≤ 2 ^ 31 - 1 → x.present = some (false, a)) ∧
    (1 ≤ (b - a).toNat → (b - a).toNat ≤ 2 ^ 31 - 1 → x.present = some (true, b))) ∧
  (∀ (x : Area) (a : BitVec 32),
    (x.seq0 = some a → x.seq1 = none → x.present = some (false, a)) ∧
    (x.seq0 = none → x.seq1 = some a → x.present = some (true, a)) ∧
    (x.seq0 = none → x.seq1 = none → x.present = none))

/-- A step runs exec of the command at the front of the queue, with the rest of the queue; with none waiting one tick of Field
Time passes, which is the model's choice (log entry 13). -/
def Obligations.StepRunsTheFrontCommand : Prop :=
  (∀ (c : Instr) (r : List Instr) (s : State), s.pending = c :: r → step s = exec c { s with pending := r }) ∧
  (∀ (s : State), s.pending = [] → step s = .next s.tick)

/-- R201, R214, R219, R329, R354, R441, R548 to R550: what a power-on reset leaves, as the spec's reset values give it. -/
def Obligations.ResetLeavesTheSpecsValues : Prop :=
  State.reset.pending = [] ∧ State.reset.resets.phase = .poweron ∧ State.reset.resets.cause = 0 ∧
  State.reset.resets.warmCnt = 0 ∧ State.reset.time.root = 0 ∧ State.reset.time.sync = .free ∧ State.reset.hash.bolt = false ∧
  State.reset.plat.valid = false ∧ State.reset.plat.bolt = false ∧ State.reset.group.valid = false ∧
  State.reset.notices.pend = 0 ∧ State.reset.mem.wf = true ∧
  (∀ k, (State.reset.field k).state = .off ∧ (State.reset.field k).resets = 0) ∧
  (∀ d, (State.reset.die d).state = .up ∧ (State.reset.die d).gcause = 0 ∧ (State.reset.die d).gates = 0) ∧
  (∀ c x, (State.reset.ctx c x).state = .idle) ∧ (∀ c x, State.reset.token c x = 0) ∧
  (∀ n, (State.reset.sheaf n).value = 0 ∧ (State.reset.sheaf n).limit = 0xFFFFFFFF ∧ (State.reset.sheaf n).wlim = 0 ∧
    (State.reset.sheaf n).waiters = []) ∧ (∀ p, (State.reset.port p).state = .off) ∧
  (∀ h, (State.reset.hopper h).bound = false ∧ (State.reset.hopper h).held = []) ∧
  (∀ r, (State.reset.cring r).enable = false) ∧ (∀ k, State.reset.sowTab k = []) ∧
  (∀ a < kdEra, State.reset.mem.rd a = 0)

/-- The memory's list keeps its one form through every step, from every state that has it. -/
def Obligations.MemoryStaysCanonical : Prop :=
  Kept fun s => s.mem.wf = true

/-- Every command completes in every state, with a fault and a refusal nowhere; no command touches the queue of those that wait.
-/
def Obligations.CommandsCompleteAndLeaveTheQueue : Prop :=
  (∀ (c : Instr) (s : State), ∃ t, exec c s = .next t) ∧
  (∀ (c : Instr) (s t : State), s.mem.wf = true → exec c s = .next t → t.pending = s.pending)

/-- R155, R158, R375: a header, an extension and a frame header whose fields are within their widths are read back from their
bits; a packet laid out as words, with whatever follows it, is read back whole, one with an opcode also where no word is marked
as a header's. -/
def Obligations.HeadersAndPacketsRoundTrip : Prop :=
  (∀ h : Hdr, h.dest < 2 ^ 20 → h.laddr < 2 ^ 44 → h.op < 256 → h.vc < 8 → h.hc < 4 → h.len < 2 ^ 13 → h.issuer < 1024 →
    h.pseq < 2 ^ 14 → h.status < 256 → hdrOf h.enc = h) ∧
  (∀ x : Ext, x.src < 2 ^ 20 → x.epoch < 2 ^ 16 → x.sidx < 64 → x.gmask < 2 ^ 64 → extOf x.enc = x) ∧
  (∀ h : FHdr, h.fdst < 2 ^ 20 → h.fsrc < 2 ^ 20 → h.kind < 16 → h.blen < 2 ^ 13 → fhdrOf h.enc = h) ∧
  (∀ (p : Packet) (r : List StreamWord), p.data.length = (hdr p).len → ((hdr p).xt = false → p.ext = 0) →
    takePacket (pktWords p ++ r) = some (p, r) ∧
    ((hdr p).op ≠ 0 → takePacket ((pktWords p ++ r).map fun w => { w with hdr := false })
      = some (p, r.map fun w => { w with hdr := false })))
end

