-- ==== Sys2Proof/Laws/Tables.lean ====
section
/-! SUPPORT. Laws of the sparse tables: what a key reads as after a change of a table. -/

namespace Sys2Proof.Machine

variable {β : Type}

theorem tget_tdel (t : Tbl β) (d : β) (k i : Nat) :
    tget (tdel t k) d i = if i = k then d else tget t d i := by
  induction t with
  | nil => simp [tdel, tget]
  | cons e r ih =>
    obtain ⟨k', v⟩ := e
    simp only [tdel] at ih
    by_cases h : k' = k
    · subst h
      by_cases h2 : i = k'
      · subst h2; simpa [tdel] using ih
      · simpa [tdel, tget, h2, Ne.symm h2] using ih
    · by_cases h2 : k' = i
      · subst h2; simp [tdel, tget, h]
      · simp [tdel, tget, h, h2, ih]

theorem tget_tins (t : Tbl β) (d : β) (k : Nat) (v : β) (i : Nat) :
    tget (tins (tdel t k) k v) d i = if i = k then v else tget t d i := by
  have key : ∀ u : Tbl β, (∀ e ∈ u, e.1 ≠ k) → tget (tins u k v) d i = if i = k then v else tget u d i := by
    intro u hu
    induction u with
    | nil =>
      by_cases h : i = k
      · simp [tins, tget, h]
      · simp [tins, tget, h, Ne.symm h]
    | cons e r ih =>
      obtain ⟨k', v'⟩ := e
      have hk : k' ≠ k := hu (k', v') (by simp)
      have ih' := ih fun e he => hu e (by simp [he])
      by_cases hlt : k < k'
      · by_cases h : i = k
        · subst h; simp [tins, tget, hlt]
        · simp [tins, tget, hlt, h, Ne.symm h]
      · by_cases h : k' = i
        · subst h; simp [tins, tget, hlt, hk]
        · simp [tins, tget, hlt, h, ih']
  rw [key _ (by simp [tdel]), tget_tdel]
  by_cases h : i = k <;> simp [h]

/-- A key reads as what was last put there, and every other key as before. -/
theorem tget_tset [DecidableEq β] (t : Tbl β) (d : β) (k : Nat) (v : β) (i : Nat) :
    tget (tset t d k v) d i = if i = k then v else tget t d i := by
  by_cases h : v = d
  · simp [tset, h, tget_tdel]
  · simp [tset, h, tget_tins]

@[simp] theorem tget_tset_self [DecidableEq β] (t : Tbl β) (d : β) (k : Nat) (v : β) :
    tget (tset t d k v) d k = v := by simp [tget_tset]

theorem tget_tset_ne [DecidableEq β] (t : Tbl β) (d : β) {k i : Nat} (v : β) (h : i ≠ k) :
    tget (tset t d k v) d i = tget t d i := by simp [tget_tset, h]

/-- Another key reads as before whatever default it is read with. -/
theorem tget_tset_ne' [DecidableEq β] (t : Tbl β) (d d' : β) {k i : Nat} (v : β) (h : i ≠ k) :
    tget (tset t d k v) d' i = tget t d' i := by
  by_cases hv : v = d
  · simp [tset, hv, tget_tdel, h]
  · simp [tset, hv, tget_tins, h]

@[simp] theorem tget_tmod_self [DecidableEq β] (t : Tbl β) (d : β) (k : Nat) (f : β → β) :
    tget (tmod t d k f) d k = f (tget t d k) := by simp [tmod]

theorem tget_tmod_ne [DecidableEq β] (t : Tbl β) (d d' : β) {k i : Nat} (f : β → β) (h : i ≠ k) :
    tget (tmod t d k f) d' i = tget t d' i := by simp [tmod, tget_tset_ne' _ _ _ _ h]

@[simp] theorem tget_nil (d : β) (i : Nat) : tget ([] : Tbl β) d i = d := rfl

/-- Keys of a table strictly rising. -/
def Rising (t : Tbl β) : Prop := t.Pairwise fun a b => a.1 < b.1

theorem rising_tdel {t : Tbl β} (h : Rising t) (k : Nat) : Rising (tdel t k) :=
  List.Pairwise.sublist List.filter_sublist h

theorem mem_tins {t : Tbl β} {k : Nat} {v : β} {e : Nat × β} (h : e ∈ tins t k v) : e = (k, v) ∨ e ∈ t := by
  induction t with
  | nil => simpa [tins] using h
  | cons x r ih =>
    obtain ⟨k', v'⟩ := x
    by_cases hlt : k < k'
    · simpa [tins, hlt] using h
    · simp only [tins, hlt, if_false, List.mem_cons] at h
      rcases h with h | h
      · exact .inr (by simp [h])
      · rcases ih h with h | h
        · exact .inl h
        · exact .inr (by simp [h])

theorem rising_tins {t : Tbl β} (h : Rising t) (k : Nat) (v : β) (hk : ∀ e ∈ t, e.1 ≠ k) : Rising (tins t k v) := by
  induction t with
  | nil => simp [tins, Rising]
  | cons x r ih =>
    obtain ⟨k', v'⟩ := x
    have hx : k' ≠ k := hk (k', v') (by simp)
    have hr := List.pairwise_cons.1 h
    by_cases hlt : k < k'
    · rw [show tins ((k', v') :: r) k v = (k, v) :: (k', v') :: r by simp [tins, hlt]]
      refine List.pairwise_cons.2 ⟨fun e he => ?_, h⟩
      rcases List.mem_cons.1 he with rfl | he
      · exact hlt
      · exact lt_trans hlt (hr.1 e he)
    · rw [show tins ((k', v') :: r) k v = (k', v') :: tins r k v by simp [tins, hlt]]
      refine List.pairwise_cons.2 ⟨fun e he => ?_, ih hr.2 fun e he => hk e (by simp [he])⟩
      rcases mem_tins he with rfl | he
      · simp; omega
      · exact hr.1 e he

theorem rising_tset [DecidableEq β] {t : Tbl β} (h : Rising t) (d : β) (k : Nat) (v : β) : Rising (tset t d k v) := by
  by_cases hv : v = d
  · simpa [tset, hv] using rising_tdel h k
  · simpa [tset, hv] using rising_tins (rising_tdel h k) k v (by simp [tdel])

theorem tdel_tins {t : Tbl β} {k : Nat} (h : ∀ e ∈ t, e.1 ≠ k) (v : β) : tdel (tins t k v) k = t := by
  induction t with
  | nil => simp [tins, tdel]
  | cons x r ih =>
    obtain ⟨k', v'⟩ := x
    have hx : k' ≠ k := h (k', v') (by simp)
    have hr : ∀ e ∈ r, e.1 ≠ k := fun e he => h e (by simp [he])
    have hd : r.filter (fun e => e.1 != k) = r := List.filter_eq_self.2 fun e he => by simpa using hr e he
    by_cases hlt : k < k'
    · simp [tins, hlt, tdel, hx, hd]
    · have hi := ih hr
      simp only [tdel] at hi
      simp [tins, hlt, tdel, hx, hi]

/-- The last of two changes of one key stands. -/
@[simp] theorem tset_tset [DecidableEq β] (t : Tbl β) (d : β) (k : Nat) (v w : β) :
    tset (tset t d k v) d k w = tset t d k w := by
  have h1 : ∀ e ∈ tdel t k, e.1 ≠ k := by simp [tdel]
  have h2 : tdel (tset t d k v) k = tdel t k := by
    by_cases hv : v = d
    · simp [tset, hv, tdel]
    · simp [tset, hv, tdel_tins h1]
  by_cases hw : w = d
  · rw [tset, if_pos hw, h2, tset, if_pos hw]
  · rw [tset, if_neg hw, h2, tset, if_neg hw]

@[simp] theorem tmod_tmod [DecidableEq β] (t : Tbl β) (d : β) (k : Nat) (f g : β → β) :
    tmod (tmod t d k f) d k g = tmod t d k fun x => g (f x) := by simp [tmod]

/-- A key that does not read as the default is listed, so it reads the same whatever the default. -/
theorem tget_listed {t : Tbl β} {d : β} {k : Nat} (h : tget t d k ≠ d) (d' : β) : tget t d' k = tget t d k := by
  induction t with
  | nil => exact absurd rfl h
  | cons x r ih =>
    obtain ⟨k', v⟩ := x
    by_cases hk : k' = k
    · simp [tget, hk]
    · have h' : tget r d k ≠ d := by simpa [tget, hk] using h
      simpa [tget, hk] using ih h'

/-- A value that is not the default it is put there with reads the same whatever the default. -/
theorem tget_tset_listed [DecidableEq β] (t : Tbl β) {d v : β} (h : v ≠ d) (d' : β) (k i : Nat) :
    tget (tset t d k v) d' i = if i = k then v else tget t d' i := by simp [tset, h, tget_tins]

end Sys2Proof.Machine
end

