-- ==== Sys2Proof/Laws/Memory.lean ====
section
/-! SUPPORT. Laws of the memory: a byte reads as it was last written, every other byte as before, and every operation
keeps the list's one form. -/

namespace Sys2Proof.Machine

/-- The one form of a memory's list, as a statement about the list alone. -/
def cellsWf (l : List Host.Cell) : Bool :=
  decide (l.Pairwise fun a b => a.1 < b.1) && l.all fun e => e.2 != memDefault e.1

theorem Memory.wf_eq (m : Memory) : m.wf = cellsWf m.cells := rfl

theorem cellsWf_tset {l : List Host.Cell} (h : cellsWf l = true) (a : Nat) (b : Byte) :
    cellsWf (tset l (memDefault a) a b) = true := by
  simp only [cellsWf, Bool.and_eq_true, decide_eq_true_eq, List.all_eq_true] at h ⊢
  refine ⟨rising_tset h.1 _ a b, fun e he => ?_⟩
  by_cases hv : b = memDefault a
  · simp only [tset, hv, if_true, tdel, List.mem_filter] at he
    exact h.2 e he.1
  · simp only [tset, hv, if_false] at he
    rcases mem_tins he with rfl | he
    · simpa using hv
    · exact h.2 e (List.mem_filter.1 he).1

@[simp] theorem Memory.rd_wr (m : Memory) (a : Nat) (b : Byte) : (m.wr a b).rd a = b := by
  simp [Memory.rd, Memory.wr]

theorem Memory.rd_wr_ne (m : Memory) {a i : Nat} (b : Byte) (h : i ≠ a) : (m.wr a b).rd i = m.rd i := by
  simp [Memory.rd, Memory.wr, tget_tset_ne' _ _ _ _ h]

theorem Memory.wr_wf {m : Memory} (h : m.wf = true) (a : Nat) (b : Byte) : (m.wr a b).wf = true :=
  cellsWf_tset h a b

theorem Memory.wrN_wf (l : List Byte) : ∀ {m : Memory} (a : Nat), m.wf = true → (m.wrN a l).wf = true := by
  induction l with
  | nil => intro m a h; exact h
  | cons b r ih => intro m a h; exact ih (a + 1) (Memory.wr_wf h a b)

@[simp] theorem Memory.setPoison_wf (m : Memory) (a : Nat) (p : Bool) : (m.setPoison a p).wf = m.wf := rfl

@[simp] theorem Memory.setPoison_rd (m : Memory) (a : Nat) (p : Bool) (i : Nat) : (m.setPoison a p).rd i = m.rd i := rfl

/-- Bytes written from a place on: the places they cover read as they were written. -/
theorem Memory.rd_wrN (l : List Byte) : ∀ (m : Memory) (a i : Nat),
    (m.wrN a l).rd i = if a ≤ i ∧ i < a + l.length then l.getD (i - a) 0 else m.rd i := by
  induction l with
  | nil => intro m a i; simp [Memory.wrN]
  | cons b r ih =>
    intro m a i
    rw [Memory.wrN, ih]
    by_cases h1 : i = a
    · subst h1; simp
    · rw [Memory.rd_wr_ne _ _ h1]
      by_cases h2 : a + 1 ≤ i ∧ i < a + 1 + r.length
      · have h3 : a ≤ i ∧ i < a + (b :: r).length := by simp; omega
        rw [if_pos h2, if_pos h3, show i - a = (i - (a + 1)) + 1 by omega]
        rfl
      · have h3 : ¬(a ≤ i ∧ i < a + (b :: r).length) := by simp; omega
        rw [if_neg h2, if_neg h3]

theorem Memory.rdN_length (m : Memory) (n : Nat) : ∀ a, (m.rdN a n).length = n := by
  induction n with
  | zero => intro a; rfl
  | succ n ih => intro a; simp [Memory.rdN, ih]

theorem reset_mem_wf : State.reset.mem.wf = true := rfl

theorem State.wrMem_wf {s : State} (h : s.mem.wf = true) (a : Nat) (l : List Byte) : (s.wrMem a l).mem.wf = true :=
  Memory.wrN_wf l a h

end Sys2Proof.Machine
end

