-- ==== Sys2Proof/Laws/State.lean ====
section
/-! SUPPORT. Laws of the state: for each change of a part, every other part (and every other table of the part it changes)
stands as before, and the entry it names reads as changed. No later proof unfolds a record update. -/

namespace Sys2Proof.Machine

variable (s : State)

/-! ### modTx -/

@[simp] theorem State.modTx_pending (a b : Nat) (f : TxGroup → TxGroup) : (s.modTx a b f).pending = s.pending := rfl
@[simp] theorem State.modTx_credit (a b : Nat) (f : TxGroup → TxGroup) : (s.modTx a b f).credit = s.credit := rfl
@[simp] theorem State.modTx_light (a b : Nat) (f : TxGroup → TxGroup) : (s.modTx a b f).light = s.light := rfl
@[simp] theorem State.modTx_hash (a b : Nat) (f : TxGroup → TxGroup) : (s.modTx a b f).hash = s.hash := rfl
@[simp] theorem State.modTx_mem (a b : Nat) (f : TxGroup → TxGroup) : (s.modTx a b f).mem = s.mem := rfl
@[simp] theorem State.modTx_rem (a b : Nat) (f : TxGroup → TxGroup) : (s.modTx a b f).rem = s.rem := rfl
@[simp] theorem State.modTx_cores (a b : Nat) (f : TxGroup → TxGroup) : (s.modTx a b f).cores = s.cores := rfl
@[simp] theorem State.modTx_time (a b : Nat) (f : TxGroup → TxGroup) : (s.modTx a b f).time = s.time := rfl
@[simp] theorem State.modTx_sows (a b : Nat) (f : TxGroup → TxGroup) : (s.modTx a b f).sows = s.sows := rfl
@[simp] theorem State.modTx_sheaves (a b : Nat) (f : TxGroup → TxGroup) : (s.modTx a b f).sheaves = s.sheaves := rfl
@[simp] theorem State.modTx_ports (a b : Nat) (f : TxGroup → TxGroup) : (s.modTx a b f).ports = s.ports := rfl
@[simp] theorem State.modTx_plat (a b : Nat) (f : TxGroup → TxGroup) : (s.modTx a b f).plat = s.plat := rfl
@[simp] theorem State.modTx_group (a b : Nat) (f : TxGroup → TxGroup) : (s.modTx a b f).group = s.group := rfl
@[simp] theorem State.modTx_bridge (a b : Nat) (f : TxGroup → TxGroup) : (s.modTx a b f).bridge = s.bridge := rfl
@[simp] theorem State.modTx_notices (a b : Nat) (f : TxGroup → TxGroup) : (s.modTx a b f).notices = s.notices := rfl
@[simp] theorem State.modTx_power (a b : Nat) (f : TxGroup → TxGroup) : (s.modTx a b f).power = s.power := rfl
@[simp] theorem State.modTx_resets (a b : Nat) (f : TxGroup → TxGroup) : (s.modTx a b f).resets = s.resets := rfl
@[simp] theorem State.modTx_warden (a b : Nat) (f : TxGroup → TxGroup) : (s.modTx a b f).warden = s.warden := rfl
@[simp] theorem State.modTx_test (a b : Nat) (f : TxGroup → TxGroup) : (s.modTx a b f).test = s.test := rfl
@[simp] theorem State.modTx_out (a b : Nat) (f : TxGroup → TxGroup) : (s.modTx a b f).out = s.out := rfl
@[simp] theorem State.modTx_reloaded (a b : Nat) (f : TxGroup → TxGroup) : (s.modTx a b f).reloaded = s.reloaded := rfl
@[simp] theorem State.modTx_drawn (a b : Nat) (f : TxGroup → TxGroup) : (s.modTx a b f).drawn = s.drawn := rfl
@[simp] theorem State.modTx_fab_rx (a b : Nat) (f : TxGroup → TxGroup) : (s.modTx a b f).fab.rx = s.fab.rx := rfl
@[simp] theorem State.modTx_fab_rings (a b : Nat) (f : TxGroup → TxGroup) : (s.modTx a b f).fab.rings = s.fab.rings := rfl
@[simp] theorem State.modTx_fab_st (a b : Nat) (f : TxGroup → TxGroup) : (s.modTx a b f).fab.st = s.fab.st := rfl
@[simp] theorem State.modTx_fab_net (a b : Nat) (f : TxGroup → TxGroup) : (s.modTx a b f).fab.net = s.fab.net := rfl
@[simp] theorem State.modTx_fab_ring (a b : Nat) (f : TxGroup → TxGroup) : (s.modTx a b f).fab.ring = s.fab.ring := rfl

/-! ### modRx -/

@[simp] theorem State.modRx_pending (a b : Nat) (f : RxGroup → RxGroup) : (s.modRx a b f).pending = s.pending := rfl
@[simp] theorem State.modRx_credit (a b : Nat) (f : RxGroup → RxGroup) : (s.modRx a b f).credit = s.credit := rfl
@[simp] theorem State.modRx_light (a b : Nat) (f : RxGroup → RxGroup) : (s.modRx a b f).light = s.light := rfl
@[simp] theorem State.modRx_hash (a b : Nat) (f : RxGroup → RxGroup) : (s.modRx a b f).hash = s.hash := rfl
@[simp] theorem State.modRx_mem (a b : Nat) (f : RxGroup → RxGroup) : (s.modRx a b f).mem = s.mem := rfl
@[simp] theorem State.modRx_rem (a b : Nat) (f : RxGroup → RxGroup) : (s.modRx a b f).rem = s.rem := rfl
@[simp] theorem State.modRx_cores (a b : Nat) (f : RxGroup → RxGroup) : (s.modRx a b f).cores = s.cores := rfl
@[simp] theorem State.modRx_time (a b : Nat) (f : RxGroup → RxGroup) : (s.modRx a b f).time = s.time := rfl
@[simp] theorem State.modRx_sows (a b : Nat) (f : RxGroup → RxGroup) : (s.modRx a b f).sows = s.sows := rfl
@[simp] theorem State.modRx_sheaves (a b : Nat) (f : RxGroup → RxGroup) : (s.modRx a b f).sheaves = s.sheaves := rfl
@[simp] theorem State.modRx_ports (a b : Nat) (f : RxGroup → RxGroup) : (s.modRx a b f).ports = s.ports := rfl
@[simp] theorem State.modRx_plat (a b : Nat) (f : RxGroup → RxGroup) : (s.modRx a b f).plat = s.plat := rfl
@[simp] theorem State.modRx_group (a b : Nat) (f : RxGroup → RxGroup) : (s.modRx a b f).group = s.group := rfl
@[simp] theorem State.modRx_bridge (a b : Nat) (f : RxGroup → RxGroup) : (s.modRx a b f).bridge = s.bridge := rfl
@[simp] theorem State.modRx_notices (a b : Nat) (f : RxGroup → RxGroup) : (s.modRx a b f).notices = s.notices := rfl
@[simp] theorem State.modRx_power (a b : Nat) (f : RxGroup → RxGroup) : (s.modRx a b f).power = s.power := rfl
@[simp] theorem State.modRx_resets (a b : Nat) (f : RxGroup → RxGroup) : (s.modRx a b f).resets = s.resets := rfl
@[simp] theorem State.modRx_warden (a b : Nat) (f : RxGroup → RxGroup) : (s.modRx a b f).warden = s.warden := rfl
@[simp] theorem State.modRx_test (a b : Nat) (f : RxGroup → RxGroup) : (s.modRx a b f).test = s.test := rfl
@[simp] theorem State.modRx_out (a b : Nat) (f : RxGroup → RxGroup) : (s.modRx a b f).out = s.out := rfl
@[simp] theorem State.modRx_reloaded (a b : Nat) (f : RxGroup → RxGroup) : (s.modRx a b f).reloaded = s.reloaded := rfl
@[simp] theorem State.modRx_drawn (a b : Nat) (f : RxGroup → RxGroup) : (s.modRx a b f).drawn = s.drawn := rfl
@[simp] theorem State.modRx_fab_tx (a b : Nat) (f : RxGroup → RxGroup) : (s.modRx a b f).fab.tx = s.fab.tx := rfl
@[simp] theorem State.modRx_fab_rings (a b : Nat) (f : RxGroup → RxGroup) : (s.modRx a b f).fab.rings = s.fab.rings := rfl
@[simp] theorem State.modRx_fab_st (a b : Nat) (f : RxGroup → RxGroup) : (s.modRx a b f).fab.st = s.fab.st := rfl
@[simp] theorem State.modRx_fab_net (a b : Nat) (f : RxGroup → RxGroup) : (s.modRx a b f).fab.net = s.fab.net := rfl
@[simp] theorem State.modRx_fab_ring (a b : Nat) (f : RxGroup → RxGroup) : (s.modRx a b f).fab.ring = s.fab.ring := rfl

/-! ### modSta -/

@[simp] theorem State.modSta_pending (a : Nat) (f : Station → Station) : (s.modSta a f).pending = s.pending := rfl
@[simp] theorem State.modSta_credit (a : Nat) (f : Station → Station) : (s.modSta a f).credit = s.credit := rfl
@[simp] theorem State.modSta_light (a : Nat) (f : Station → Station) : (s.modSta a f).light = s.light := rfl
@[simp] theorem State.modSta_hash (a : Nat) (f : Station → Station) : (s.modSta a f).hash = s.hash := rfl
@[simp] theorem State.modSta_mem (a : Nat) (f : Station → Station) : (s.modSta a f).mem = s.mem := rfl
@[simp] theorem State.modSta_rem (a : Nat) (f : Station → Station) : (s.modSta a f).rem = s.rem := rfl
@[simp] theorem State.modSta_cores (a : Nat) (f : Station → Station) : (s.modSta a f).cores = s.cores := rfl
@[simp] theorem State.modSta_time (a : Nat) (f : Station → Station) : (s.modSta a f).time = s.time := rfl
@[simp] theorem State.modSta_sows (a : Nat) (f : Station → Station) : (s.modSta a f).sows = s.sows := rfl
@[simp] theorem State.modSta_sheaves (a : Nat) (f : Station → Station) : (s.modSta a f).sheaves = s.sheaves := rfl
@[simp] theorem State.modSta_ports (a : Nat) (f : Station → Station) : (s.modSta a f).ports = s.ports := rfl
@[simp] theorem State.modSta_plat (a : Nat) (f : Station → Station) : (s.modSta a f).plat = s.plat := rfl
@[simp] theorem State.modSta_group (a : Nat) (f : Station → Station) : (s.modSta a f).group = s.group := rfl
@[simp] theorem State.modSta_bridge (a : Nat) (f : Station → Station) : (s.modSta a f).bridge = s.bridge := rfl
@[simp] theorem State.modSta_notices (a : Nat) (f : Station → Station) : (s.modSta a f).notices = s.notices := rfl
@[simp] theorem State.modSta_power (a : Nat) (f : Station → Station) : (s.modSta a f).power = s.power := rfl
@[simp] theorem State.modSta_resets (a : Nat) (f : Station → Station) : (s.modSta a f).resets = s.resets := rfl
@[simp] theorem State.modSta_warden (a : Nat) (f : Station → Station) : (s.modSta a f).warden = s.warden := rfl
@[simp] theorem State.modSta_test (a : Nat) (f : Station → Station) : (s.modSta a f).test = s.test := rfl
@[simp] theorem State.modSta_out (a : Nat) (f : Station → Station) : (s.modSta a f).out = s.out := rfl
@[simp] theorem State.modSta_reloaded (a : Nat) (f : Station → Station) : (s.modSta a f).reloaded = s.reloaded := rfl
@[simp] theorem State.modSta_drawn (a : Nat) (f : Station → Station) : (s.modSta a f).drawn = s.drawn := rfl
@[simp] theorem State.modSta_fab_tx (a : Nat) (f : Station → Station) : (s.modSta a f).fab.tx = s.fab.tx := rfl
@[simp] theorem State.modSta_fab_rx (a : Nat) (f : Station → Station) : (s.modSta a f).fab.rx = s.fab.rx := rfl
@[simp] theorem State.modSta_fab_rings (a : Nat) (f : Station → Station) : (s.modSta a f).fab.rings = s.fab.rings := rfl
@[simp] theorem State.modSta_fab_net (a : Nat) (f : Station → Station) : (s.modSta a f).fab.net = s.fab.net := rfl
@[simp] theorem State.modSta_fab_ring (a : Nat) (f : Station → Station) : (s.modSta a f).fab.ring = s.fab.ring := rfl

/-! ### modRing -/

@[simp] theorem State.modRing_pending (a : RingId) (f : Ring → Ring) : (s.modRing a f).pending = s.pending := rfl
@[simp] theorem State.modRing_credit (a : RingId) (f : Ring → Ring) : (s.modRing a f).credit = s.credit := rfl
@[simp] theorem State.modRing_light (a : RingId) (f : Ring → Ring) : (s.modRing a f).light = s.light := rfl
@[simp] theorem State.modRing_hash (a : RingId) (f : Ring → Ring) : (s.modRing a f).hash = s.hash := rfl
@[simp] theorem State.modRing_mem (a : RingId) (f : Ring → Ring) : (s.modRing a f).mem = s.mem := rfl
@[simp] theorem State.modRing_rem (a : RingId) (f : Ring → Ring) : (s.modRing a f).rem = s.rem := rfl
@[simp] theorem State.modRing_cores (a : RingId) (f : Ring → Ring) : (s.modRing a f).cores = s.cores := rfl
@[simp] theorem State.modRing_time (a : RingId) (f : Ring → Ring) : (s.modRing a f).time = s.time := rfl
@[simp] theorem State.modRing_sows (a : RingId) (f : Ring → Ring) : (s.modRing a f).sows = s.sows := rfl
@[simp] theorem State.modRing_sheaves (a : RingId) (f : Ring → Ring) : (s.modRing a f).sheaves = s.sheaves := rfl
@[simp] theorem State.modRing_ports (a : RingId) (f : Ring → Ring) : (s.modRing a f).ports = s.ports := rfl
@[simp] theorem State.modRing_plat (a : RingId) (f : Ring → Ring) : (s.modRing a f).plat = s.plat := rfl
@[simp] theorem State.modRing_group (a : RingId) (f : Ring → Ring) : (s.modRing a f).group = s.group := rfl
@[simp] theorem State.modRing_bridge (a : RingId) (f : Ring → Ring) : (s.modRing a f).bridge = s.bridge := rfl
@[simp] theorem State.modRing_notices (a : RingId) (f : Ring → Ring) : (s.modRing a f).notices = s.notices := rfl
@[simp] theorem State.modRing_power (a : RingId) (f : Ring → Ring) : (s.modRing a f).power = s.power := rfl
@[simp] theorem State.modRing_resets (a : RingId) (f : Ring → Ring) : (s.modRing a f).resets = s.resets := rfl
@[simp] theorem State.modRing_warden (a : RingId) (f : Ring → Ring) : (s.modRing a f).warden = s.warden := rfl
@[simp] theorem State.modRing_test (a : RingId) (f : Ring → Ring) : (s.modRing a f).test = s.test := rfl
@[simp] theorem State.modRing_out (a : RingId) (f : Ring → Ring) : (s.modRing a f).out = s.out := rfl
@[simp] theorem State.modRing_reloaded (a : RingId) (f : Ring → Ring) : (s.modRing a f).reloaded = s.reloaded := rfl
@[simp] theorem State.modRing_drawn (a : RingId) (f : Ring → Ring) : (s.modRing a f).drawn = s.drawn := rfl
@[simp] theorem State.modRing_fab_tx (a : RingId) (f : Ring → Ring) : (s.modRing a f).fab.tx = s.fab.tx := rfl
@[simp] theorem State.modRing_fab_rx (a : RingId) (f : Ring → Ring) : (s.modRing a f).fab.rx = s.fab.rx := rfl
@[simp] theorem State.modRing_fab_st (a : RingId) (f : Ring → Ring) : (s.modRing a f).fab.st = s.fab.st := rfl
@[simp] theorem State.modRing_fab_net (a : RingId) (f : Ring → Ring) : (s.modRing a f).fab.net = s.fab.net := rfl
@[simp] theorem State.modRing_fab_ring (a : RingId) (f : Ring → Ring) : (s.modRing a f).fab.ring = s.fab.ring := rfl

/-! ### modFeed -/

@[simp] theorem State.modFeed_pending (a : Nat) (f : Feed → Feed) : (s.modFeed a f).pending = s.pending := rfl
@[simp] theorem State.modFeed_fab (a : Nat) (f : Feed → Feed) : (s.modFeed a f).fab = s.fab := rfl
@[simp] theorem State.modFeed_credit (a : Nat) (f : Feed → Feed) : (s.modFeed a f).credit = s.credit := rfl
@[simp] theorem State.modFeed_hash (a : Nat) (f : Feed → Feed) : (s.modFeed a f).hash = s.hash := rfl
@[simp] theorem State.modFeed_mem (a : Nat) (f : Feed → Feed) : (s.modFeed a f).mem = s.mem := rfl
@[simp] theorem State.modFeed_rem (a : Nat) (f : Feed → Feed) : (s.modFeed a f).rem = s.rem := rfl
@[simp] theorem State.modFeed_cores (a : Nat) (f : Feed → Feed) : (s.modFeed a f).cores = s.cores := rfl
@[simp] theorem State.modFeed_time (a : Nat) (f : Feed → Feed) : (s.modFeed a f).time = s.time := rfl
@[simp] theorem State.modFeed_sows (a : Nat) (f : Feed → Feed) : (s.modFeed a f).sows = s.sows := rfl
@[simp] theorem State.modFeed_sheaves (a : Nat) (f : Feed → Feed) : (s.modFeed a f).sheaves = s.sheaves := rfl
@[simp] theorem State.modFeed_ports (a : Nat) (f : Feed → Feed) : (s.modFeed a f).ports = s.ports := rfl
@[simp] theorem State.modFeed_plat (a : Nat) (f : Feed → Feed) : (s.modFeed a f).plat = s.plat := rfl
@[simp] theorem State.modFeed_group (a : Nat) (f : Feed → Feed) : (s.modFeed a f).group = s.group := rfl
@[simp] theorem State.modFeed_bridge (a : Nat) (f : Feed → Feed) : (s.modFeed a f).bridge = s.bridge := rfl
@[simp] theorem State.modFeed_notices (a : Nat) (f : Feed → Feed) : (s.modFeed a f).notices = s.notices := rfl
@[simp] theorem State.modFeed_power (a : Nat) (f : Feed → Feed) : (s.modFeed a f).power = s.power := rfl
@[simp] theorem State.modFeed_resets (a : Nat) (f : Feed → Feed) : (s.modFeed a f).resets = s.resets := rfl
@[simp] theorem State.modFeed_warden (a : Nat) (f : Feed → Feed) : (s.modFeed a f).warden = s.warden := rfl
@[simp] theorem State.modFeed_test (a : Nat) (f : Feed → Feed) : (s.modFeed a f).test = s.test := rfl
@[simp] theorem State.modFeed_out (a : Nat) (f : Feed → Feed) : (s.modFeed a f).out = s.out := rfl
@[simp] theorem State.modFeed_reloaded (a : Nat) (f : Feed → Feed) : (s.modFeed a f).reloaded = s.reloaded := rfl
@[simp] theorem State.modFeed_drawn (a : Nat) (f : Feed → Feed) : (s.modFeed a f).drawn = s.drawn := rfl
@[simp] theorem State.modFeed_light_els (a : Nat) (f : Feed → Feed) : (s.modFeed a f).light.els = s.light.els := rfl
@[simp] theorem State.modFeed_light_elsPwr (a : Nat) (f : Feed → Feed) : (s.modFeed a f).light.elsPwr = s.light.elsPwr := rfl
@[simp] theorem State.modFeed_light_setPoints (a : Nat) (f : Feed → Feed) : (s.modFeed a f).light.setPoints = s.light.setPoints := rfl
@[simp] theorem State.modFeed_light_storedPoints (a : Nat) (f : Feed → Feed) : (s.modFeed a f).light.storedPoints = s.light.storedPoints := rfl
@[simp] theorem State.modFeed_light_feedTap (a : Nat) (f : Feed → Feed) : (s.modFeed a f).light.feedTap = s.light.feedTap := rfl
@[simp] theorem State.modFeed_light_busTap (a : Nat) (f : Feed → Feed) : (s.modFeed a f).light.busTap = s.light.busTap := rfl
@[simp] theorem State.modFeed_light_photo (a : Nat) (f : Feed → Feed) : (s.modFeed a f).light.photo = s.light.photo := rfl

/-! ### modEls -/

@[simp] theorem State.modEls_pending (a : Nat) (f : Els → Els) : (s.modEls a f).pending = s.pending := rfl
@[simp] theorem State.modEls_fab (a : Nat) (f : Els → Els) : (s.modEls a f).fab = s.fab := rfl
@[simp] theorem State.modEls_credit (a : Nat) (f : Els → Els) : (s.modEls a f).credit = s.credit := rfl
@[simp] theorem State.modEls_hash (a : Nat) (f : Els → Els) : (s.modEls a f).hash = s.hash := rfl
@[simp] theorem State.modEls_mem (a : Nat) (f : Els → Els) : (s.modEls a f).mem = s.mem := rfl
@[simp] theorem State.modEls_rem (a : Nat) (f : Els → Els) : (s.modEls a f).rem = s.rem := rfl
@[simp] theorem State.modEls_cores (a : Nat) (f : Els → Els) : (s.modEls a f).cores = s.cores := rfl
@[simp] theorem State.modEls_time (a : Nat) (f : Els → Els) : (s.modEls a f).time = s.time := rfl
@[simp] theorem State.modEls_sows (a : Nat) (f : Els → Els) : (s.modEls a f).sows = s.sows := rfl
@[simp] theorem State.modEls_sheaves (a : Nat) (f : Els → Els) : (s.modEls a f).sheaves = s.sheaves := rfl
@[simp] theorem State.modEls_ports (a : Nat) (f : Els → Els) : (s.modEls a f).ports = s.ports := rfl
@[simp] theorem State.modEls_plat (a : Nat) (f : Els → Els) : (s.modEls a f).plat = s.plat := rfl
@[simp] theorem State.modEls_group (a : Nat) (f : Els → Els) : (s.modEls a f).group = s.group := rfl
@[simp] theorem State.modEls_bridge (a : Nat) (f : Els → Els) : (s.modEls a f).bridge = s.bridge := rfl
@[simp] theorem State.modEls_notices (a : Nat) (f : Els → Els) : (s.modEls a f).notices = s.notices := rfl
@[simp] theorem State.modEls_power (a : Nat) (f : Els → Els) : (s.modEls a f).power = s.power := rfl
@[simp] theorem State.modEls_resets (a : Nat) (f : Els → Els) : (s.modEls a f).resets = s.resets := rfl
@[simp] theorem State.modEls_warden (a : Nat) (f : Els → Els) : (s.modEls a f).warden = s.warden := rfl
@[simp] theorem State.modEls_test (a : Nat) (f : Els → Els) : (s.modEls a f).test = s.test := rfl
@[simp] theorem State.modEls_out (a : Nat) (f : Els → Els) : (s.modEls a f).out = s.out := rfl
@[simp] theorem State.modEls_reloaded (a : Nat) (f : Els → Els) : (s.modEls a f).reloaded = s.reloaded := rfl
@[simp] theorem State.modEls_drawn (a : Nat) (f : Els → Els) : (s.modEls a f).drawn = s.drawn := rfl
@[simp] theorem State.modEls_light_feeds (a : Nat) (f : Els → Els) : (s.modEls a f).light.feeds = s.light.feeds := rfl
@[simp] theorem State.modEls_light_elsPwr (a : Nat) (f : Els → Els) : (s.modEls a f).light.elsPwr = s.light.elsPwr := rfl
@[simp] theorem State.modEls_light_setPoints (a : Nat) (f : Els → Els) : (s.modEls a f).light.setPoints = s.light.setPoints := rfl
@[simp] theorem State.modEls_light_storedPoints (a : Nat) (f : Els → Els) : (s.modEls a f).light.storedPoints = s.light.storedPoints := rfl
@[simp] theorem State.modEls_light_feedTap (a : Nat) (f : Els → Els) : (s.modEls a f).light.feedTap = s.light.feedTap := rfl
@[simp] theorem State.modEls_light_busTap (a : Nat) (f : Els → Els) : (s.modEls a f).light.busTap = s.light.busTap := rfl
@[simp] theorem State.modEls_light_photo (a : Nat) (f : Els → Els) : (s.modEls a f).light.photo = s.light.photo := rfl

/-! ### modHbm -/

@[simp] theorem State.modHbm_pending (a : Nat) (f : Hbm → Hbm) : (s.modHbm a f).pending = s.pending := rfl
@[simp] theorem State.modHbm_fab (a : Nat) (f : Hbm → Hbm) : (s.modHbm a f).fab = s.fab := rfl
@[simp] theorem State.modHbm_credit (a : Nat) (f : Hbm → Hbm) : (s.modHbm a f).credit = s.credit := rfl
@[simp] theorem State.modHbm_light (a : Nat) (f : Hbm → Hbm) : (s.modHbm a f).light = s.light := rfl
@[simp] theorem State.modHbm_hash (a : Nat) (f : Hbm → Hbm) : (s.modHbm a f).hash = s.hash := rfl
@[simp] theorem State.modHbm_rem (a : Nat) (f : Hbm → Hbm) : (s.modHbm a f).rem = s.rem := rfl
@[simp] theorem State.modHbm_cores (a : Nat) (f : Hbm → Hbm) : (s.modHbm a f).cores = s.cores := rfl
@[simp] theorem State.modHbm_time (a : Nat) (f : Hbm → Hbm) : (s.modHbm a f).time = s.time := rfl
@[simp] theorem State.modHbm_sows (a : Nat) (f : Hbm → Hbm) : (s.modHbm a f).sows = s.sows := rfl
@[simp] theorem State.modHbm_sheaves (a : Nat) (f : Hbm → Hbm) : (s.modHbm a f).sheaves = s.sheaves := rfl
@[simp] theorem State.modHbm_ports (a : Nat) (f : Hbm → Hbm) : (s.modHbm a f).ports = s.ports := rfl
@[simp] theorem State.modHbm_plat (a : Nat) (f : Hbm → Hbm) : (s.modHbm a f).plat = s.plat := rfl
@[simp] theorem State.modHbm_group (a : Nat) (f : Hbm → Hbm) : (s.modHbm a f).group = s.group := rfl
@[simp] theorem State.modHbm_bridge (a : Nat) (f : Hbm → Hbm) : (s.modHbm a f).bridge = s.bridge := rfl
@[simp] theorem State.modHbm_notices (a : Nat) (f : Hbm → Hbm) : (s.modHbm a f).notices = s.notices := rfl
@[simp] theorem State.modHbm_power (a : Nat) (f : Hbm → Hbm) : (s.modHbm a f).power = s.power := rfl
@[simp] theorem State.modHbm_resets (a : Nat) (f : Hbm → Hbm) : (s.modHbm a f).resets = s.resets := rfl
@[simp] theorem State.modHbm_warden (a : Nat) (f : Hbm → Hbm) : (s.modHbm a f).warden = s.warden := rfl
@[simp] theorem State.modHbm_test (a : Nat) (f : Hbm → Hbm) : (s.modHbm a f).test = s.test := rfl
@[simp] theorem State.modHbm_out (a : Nat) (f : Hbm → Hbm) : (s.modHbm a f).out = s.out := rfl
@[simp] theorem State.modHbm_reloaded (a : Nat) (f : Hbm → Hbm) : (s.modHbm a f).reloaded = s.reloaded := rfl
@[simp] theorem State.modHbm_drawn (a : Nat) (f : Hbm → Hbm) : (s.modHbm a f).drawn = s.drawn := rfl
@[simp] theorem State.modHbm_mem_cells (a : Nat) (f : Hbm → Hbm) : (s.modHbm a f).mem.cells = s.mem.cells := rfl
@[simp] theorem State.modHbm_mem_poison (a : Nat) (f : Hbm → Hbm) : (s.modHbm a f).mem.poison = s.mem.poison := rfl
@[simp] theorem State.modHbm_mem_ms (a : Nat) (f : Hbm → Hbm) : (s.modHbm a f).mem.ms = s.mem.ms := rfl
@[simp] theorem State.modHbm_mem_kd (a : Nat) (f : Hbm → Hbm) : (s.modHbm a f).mem.kd = s.mem.kd := rfl

/-! ### modMs -/

@[simp] theorem State.modMs_pending (a : Nat) (f : MemStation → MemStation) : (s.modMs a f).pending = s.pending := rfl
@[simp] theorem State.modMs_fab (a : Nat) (f : MemStation → MemStation) : (s.modMs a f).fab = s.fab := rfl
@[simp] theorem State.modMs_credit (a : Nat) (f : MemStation → MemStation) : (s.modMs a f).credit = s.credit := rfl
@[simp] theorem State.modMs_light (a : Nat) (f : MemStation → MemStation) : (s.modMs a f).light = s.light := rfl
@[simp] theorem State.modMs_hash (a : Nat) (f : MemStation → MemStation) : (s.modMs a f).hash = s.hash := rfl
@[simp] theorem State.modMs_rem (a : Nat) (f : MemStation → MemStation) : (s.modMs a f).rem = s.rem := rfl
@[simp] theorem State.modMs_cores (a : Nat) (f : MemStation → MemStation) : (s.modMs a f).cores = s.cores := rfl
@[simp] theorem State.modMs_time (a : Nat) (f : MemStation → MemStation) : (s.modMs a f).time = s.time := rfl
@[simp] theorem State.modMs_sows (a : Nat) (f : MemStation → MemStation) : (s.modMs a f).sows = s.sows := rfl
@[simp] theorem State.modMs_sheaves (a : Nat) (f : MemStation → MemStation) : (s.modMs a f).sheaves = s.sheaves := rfl
@[simp] theorem State.modMs_ports (a : Nat) (f : MemStation → MemStation) : (s.modMs a f).ports = s.ports := rfl
@[simp] theorem State.modMs_plat (a : Nat) (f : MemStation → MemStation) : (s.modMs a f).plat = s.plat := rfl
@[simp] theorem State.modMs_group (a : Nat) (f : MemStation → MemStation) : (s.modMs a f).group = s.group := rfl
@[simp] theorem State.modMs_bridge (a : Nat) (f : MemStation → MemStation) : (s.modMs a f).bridge = s.bridge := rfl
@[simp] theorem State.modMs_notices (a : Nat) (f : MemStation → MemStation) : (s.modMs a f).notices = s.notices := rfl
@[simp] theorem State.modMs_power (a : Nat) (f : MemStation → MemStation) : (s.modMs a f).power = s.power := rfl
@[simp] theorem State.modMs_resets (a : Nat) (f : MemStation → MemStation) : (s.modMs a f).resets = s.resets := rfl
@[simp] theorem State.modMs_warden (a : Nat) (f : MemStation → MemStation) : (s.modMs a f).warden = s.warden := rfl
@[simp] theorem State.modMs_test (a : Nat) (f : MemStation → MemStation) : (s.modMs a f).test = s.test := rfl
@[simp] theorem State.modMs_out (a : Nat) (f : MemStation → MemStation) : (s.modMs a f).out = s.out := rfl
@[simp] theorem State.modMs_reloaded (a : Nat) (f : MemStation → MemStation) : (s.modMs a f).reloaded = s.reloaded := rfl
@[simp] theorem State.modMs_drawn (a : Nat) (f : MemStation → MemStation) : (s.modMs a f).drawn = s.drawn := rfl
@[simp] theorem State.modMs_mem_cells (a : Nat) (f : MemStation → MemStation) : (s.modMs a f).mem.cells = s.mem.cells := rfl
@[simp] theorem State.modMs_mem_poison (a : Nat) (f : MemStation → MemStation) : (s.modMs a f).mem.poison = s.mem.poison := rfl
@[simp] theorem State.modMs_mem_hbm (a : Nat) (f : MemStation → MemStation) : (s.modMs a f).mem.hbm = s.mem.hbm := rfl
@[simp] theorem State.modMs_mem_kd (a : Nat) (f : MemStation → MemStation) : (s.modMs a f).mem.kd = s.mem.kd := rfl

/-! ### modKd -/

@[simp] theorem State.modKd_pending (a : Nat) (f : CacheDie → CacheDie) : (s.modKd a f).pending = s.pending := rfl
@[simp] theorem State.modKd_fab (a : Nat) (f : CacheDie → CacheDie) : (s.modKd a f).fab = s.fab := rfl
@[simp] theorem State.modKd_credit (a : Nat) (f : CacheDie → CacheDie) : (s.modKd a f).credit = s.credit := rfl
@[simp] theorem State.modKd_light (a : Nat) (f : CacheDie → CacheDie) : (s.modKd a f).light = s.light := rfl
@[simp] theorem State.modKd_hash (a : Nat) (f : CacheDie → CacheDie) : (s.modKd a f).hash = s.hash := rfl
@[simp] theorem State.modKd_rem (a : Nat) (f : CacheDie → CacheDie) : (s.modKd a f).rem = s.rem := rfl
@[simp] theorem State.modKd_cores (a : Nat) (f : CacheDie → CacheDie) : (s.modKd a f).cores = s.cores := rfl
@[simp] theorem State.modKd_time (a : Nat) (f : CacheDie → CacheDie) : (s.modKd a f).time = s.time := rfl
@[simp] theorem State.modKd_sows (a : Nat) (f : CacheDie → CacheDie) : (s.modKd a f).sows = s.sows := rfl
@[simp] theorem State.modKd_sheaves (a : Nat) (f : CacheDie → CacheDie) : (s.modKd a f).sheaves = s.sheaves := rfl
@[simp] theorem State.modKd_ports (a : Nat) (f : CacheDie → CacheDie) : (s.modKd a f).ports = s.ports := rfl
@[simp] theorem State.modKd_plat (a : Nat) (f : CacheDie → CacheDie) : (s.modKd a f).plat = s.plat := rfl
@[simp] theorem State.modKd_group (a : Nat) (f : CacheDie → CacheDie) : (s.modKd a f).group = s.group := rfl
@[simp] theorem State.modKd_bridge (a : Nat) (f : CacheDie → CacheDie) : (s.modKd a f).bridge = s.bridge := rfl
@[simp] theorem State.modKd_notices (a : Nat) (f : CacheDie → CacheDie) : (s.modKd a f).notices = s.notices := rfl
@[simp] theorem State.modKd_power (a : Nat) (f : CacheDie → CacheDie) : (s.modKd a f).power = s.power := rfl
@[simp] theorem State.modKd_resets (a : Nat) (f : CacheDie → CacheDie) : (s.modKd a f).resets = s.resets := rfl
@[simp] theorem State.modKd_warden (a : Nat) (f : CacheDie → CacheDie) : (s.modKd a f).warden = s.warden := rfl
@[simp] theorem State.modKd_test (a : Nat) (f : CacheDie → CacheDie) : (s.modKd a f).test = s.test := rfl
@[simp] theorem State.modKd_out (a : Nat) (f : CacheDie → CacheDie) : (s.modKd a f).out = s.out := rfl
@[simp] theorem State.modKd_reloaded (a : Nat) (f : CacheDie → CacheDie) : (s.modKd a f).reloaded = s.reloaded := rfl
@[simp] theorem State.modKd_drawn (a : Nat) (f : CacheDie → CacheDie) : (s.modKd a f).drawn = s.drawn := rfl
@[simp] theorem State.modKd_mem_cells (a : Nat) (f : CacheDie → CacheDie) : (s.modKd a f).mem.cells = s.mem.cells := rfl
@[simp] theorem State.modKd_mem_poison (a : Nat) (f : CacheDie → CacheDie) : (s.modKd a f).mem.poison = s.mem.poison := rfl
@[simp] theorem State.modKd_mem_hbm (a : Nat) (f : CacheDie → CacheDie) : (s.modKd a f).mem.hbm = s.mem.hbm := rfl
@[simp] theorem State.modKd_mem_ms (a : Nat) (f : CacheDie → CacheDie) : (s.modKd a f).mem.ms = s.mem.ms := rfl

/-! ### modCoil -/

@[simp] theorem State.modCoil_pending (a b : Nat) (f : Coil → Coil) : (s.modCoil a b f).pending = s.pending := rfl
@[simp] theorem State.modCoil_fab (a b : Nat) (f : Coil → Coil) : (s.modCoil a b f).fab = s.fab := rfl
@[simp] theorem State.modCoil_credit (a b : Nat) (f : Coil → Coil) : (s.modCoil a b f).credit = s.credit := rfl
@[simp] theorem State.modCoil_light (a b : Nat) (f : Coil → Coil) : (s.modCoil a b f).light = s.light := rfl
@[simp] theorem State.modCoil_hash (a b : Nat) (f : Coil → Coil) : (s.modCoil a b f).hash = s.hash := rfl
@[simp] theorem State.modCoil_rem (a b : Nat) (f : Coil → Coil) : (s.modCoil a b f).rem = s.rem := rfl
@[simp] theorem State.modCoil_cores (a b : Nat) (f : Coil → Coil) : (s.modCoil a b f).cores = s.cores := rfl
@[simp] theorem State.modCoil_time (a b : Nat) (f : Coil → Coil) : (s.modCoil a b f).time = s.time := rfl
@[simp] theorem State.modCoil_sows (a b : Nat) (f : Coil → Coil) : (s.modCoil a b f).sows = s.sows := rfl
@[simp] theorem State.modCoil_sheaves (a b : Nat) (f : Coil → Coil) : (s.modCoil a b f).sheaves = s.sheaves := rfl
@[simp] theorem State.modCoil_ports (a b : Nat) (f : Coil → Coil) : (s.modCoil a b f).ports = s.ports := rfl
@[simp] theorem State.modCoil_plat (a b : Nat) (f : Coil → Coil) : (s.modCoil a b f).plat = s.plat := rfl
@[simp] theorem State.modCoil_group (a b : Nat) (f : Coil → Coil) : (s.modCoil a b f).group = s.group := rfl
@[simp] theorem State.modCoil_bridge (a b : Nat) (f : Coil → Coil) : (s.modCoil a b f).bridge = s.bridge := rfl
@[simp] theorem State.modCoil_notices (a b : Nat) (f : Coil → Coil) : (s.modCoil a b f).notices = s.notices := rfl
@[simp] theorem State.modCoil_power (a b : Nat) (f : Coil → Coil) : (s.modCoil a b f).power = s.power := rfl
@[simp] theorem State.modCoil_resets (a b : Nat) (f : Coil → Coil) : (s.modCoil a b f).resets = s.resets := rfl
@[simp] theorem State.modCoil_warden (a b : Nat) (f : Coil → Coil) : (s.modCoil a b f).warden = s.warden := rfl
@[simp] theorem State.modCoil_test (a b : Nat) (f : Coil → Coil) : (s.modCoil a b f).test = s.test := rfl
@[simp] theorem State.modCoil_out (a b : Nat) (f : Coil → Coil) : (s.modCoil a b f).out = s.out := rfl
@[simp] theorem State.modCoil_reloaded (a b : Nat) (f : Coil → Coil) : (s.modCoil a b f).reloaded = s.reloaded := rfl
@[simp] theorem State.modCoil_drawn (a b : Nat) (f : Coil → Coil) : (s.modCoil a b f).drawn = s.drawn := rfl
@[simp] theorem State.modCoil_mem_cells (a b : Nat) (f : Coil → Coil) : (s.modCoil a b f).mem.cells = s.mem.cells := rfl
@[simp] theorem State.modCoil_mem_poison (a b : Nat) (f : Coil → Coil) : (s.modCoil a b f).mem.poison = s.mem.poison := rfl
@[simp] theorem State.modCoil_mem_hbm (a b : Nat) (f : Coil → Coil) : (s.modCoil a b f).mem.hbm = s.mem.hbm := rfl
@[simp] theorem State.modCoil_mem_ms (a b : Nat) (f : Coil → Coil) : (s.modCoil a b f).mem.ms = s.mem.ms := rfl

/-! ### modCore -/

@[simp] theorem State.modCore_pending (a : Nat) (f : CoreUnit → CoreUnit) : (s.modCore a f).pending = s.pending := rfl
@[simp] theorem State.modCore_fab (a : Nat) (f : CoreUnit → CoreUnit) : (s.modCore a f).fab = s.fab := rfl
@[simp] theorem State.modCore_credit (a : Nat) (f : CoreUnit → CoreUnit) : (s.modCore a f).credit = s.credit := rfl
@[simp] theorem State.modCore_light (a : Nat) (f : CoreUnit → CoreUnit) : (s.modCore a f).light = s.light := rfl
@[simp] theorem State.modCore_hash (a : Nat) (f : CoreUnit → CoreUnit) : (s.modCore a f).hash = s.hash := rfl
@[simp] theorem State.modCore_mem (a : Nat) (f : CoreUnit → CoreUnit) : (s.modCore a f).mem = s.mem := rfl
@[simp] theorem State.modCore_rem (a : Nat) (f : CoreUnit → CoreUnit) : (s.modCore a f).rem = s.rem := rfl
@[simp] theorem State.modCore_time (a : Nat) (f : CoreUnit → CoreUnit) : (s.modCore a f).time = s.time := rfl
@[simp] theorem State.modCore_sows (a : Nat) (f : CoreUnit → CoreUnit) : (s.modCore a f).sows = s.sows := rfl
@[simp] theorem State.modCore_sheaves (a : Nat) (f : CoreUnit → CoreUnit) : (s.modCore a f).sheaves = s.sheaves := rfl
@[simp] theorem State.modCore_ports (a : Nat) (f : CoreUnit → CoreUnit) : (s.modCore a f).ports = s.ports := rfl
@[simp] theorem State.modCore_plat (a : Nat) (f : CoreUnit → CoreUnit) : (s.modCore a f).plat = s.plat := rfl
@[simp] theorem State.modCore_group (a : Nat) (f : CoreUnit → CoreUnit) : (s.modCore a f).group = s.group := rfl
@[simp] theorem State.modCore_bridge (a : Nat) (f : CoreUnit → CoreUnit) : (s.modCore a f).bridge = s.bridge := rfl
@[simp] theorem State.modCore_notices (a : Nat) (f : CoreUnit → CoreUnit) : (s.modCore a f).notices = s.notices := rfl
@[simp] theorem State.modCore_power (a : Nat) (f : CoreUnit → CoreUnit) : (s.modCore a f).power = s.power := rfl
@[simp] theorem State.modCore_resets (a : Nat) (f : CoreUnit → CoreUnit) : (s.modCore a f).resets = s.resets := rfl
@[simp] theorem State.modCore_warden (a : Nat) (f : CoreUnit → CoreUnit) : (s.modCore a f).warden = s.warden := rfl
@[simp] theorem State.modCore_test (a : Nat) (f : CoreUnit → CoreUnit) : (s.modCore a f).test = s.test := rfl
@[simp] theorem State.modCore_out (a : Nat) (f : CoreUnit → CoreUnit) : (s.modCore a f).out = s.out := rfl
@[simp] theorem State.modCore_reloaded (a : Nat) (f : CoreUnit → CoreUnit) : (s.modCore a f).reloaded = s.reloaded := rfl
@[simp] theorem State.modCore_drawn (a : Nat) (f : CoreUnit → CoreUnit) : (s.modCore a f).drawn = s.drawn := rfl

/-! ### modCtx -/

@[simp] theorem State.modCtx_pending (a b : Nat) (f : Ctx → Ctx) : (s.modCtx a b f).pending = s.pending := rfl
@[simp] theorem State.modCtx_fab (a b : Nat) (f : Ctx → Ctx) : (s.modCtx a b f).fab = s.fab := rfl
@[simp] theorem State.modCtx_credit (a b : Nat) (f : Ctx → Ctx) : (s.modCtx a b f).credit = s.credit := rfl
@[simp] theorem State.modCtx_light (a b : Nat) (f : Ctx → Ctx) : (s.modCtx a b f).light = s.light := rfl
@[simp] theorem State.modCtx_hash (a b : Nat) (f : Ctx → Ctx) : (s.modCtx a b f).hash = s.hash := rfl
@[simp] theorem State.modCtx_mem (a b : Nat) (f : Ctx → Ctx) : (s.modCtx a b f).mem = s.mem := rfl
@[simp] theorem State.modCtx_rem (a b : Nat) (f : Ctx → Ctx) : (s.modCtx a b f).rem = s.rem := rfl
@[simp] theorem State.modCtx_time (a b : Nat) (f : Ctx → Ctx) : (s.modCtx a b f).time = s.time := rfl
@[simp] theorem State.modCtx_sows (a b : Nat) (f : Ctx → Ctx) : (s.modCtx a b f).sows = s.sows := rfl
@[simp] theorem State.modCtx_sheaves (a b : Nat) (f : Ctx → Ctx) : (s.modCtx a b f).sheaves = s.sheaves := rfl
@[simp] theorem State.modCtx_ports (a b : Nat) (f : Ctx → Ctx) : (s.modCtx a b f).ports = s.ports := rfl
@[simp] theorem State.modCtx_plat (a b : Nat) (f : Ctx → Ctx) : (s.modCtx a b f).plat = s.plat := rfl
@[simp] theorem State.modCtx_group (a b : Nat) (f : Ctx → Ctx) : (s.modCtx a b f).group = s.group := rfl
@[simp] theorem State.modCtx_bridge (a b : Nat) (f : Ctx → Ctx) : (s.modCtx a b f).bridge = s.bridge := rfl
@[simp] theorem State.modCtx_notices (a b : Nat) (f : Ctx → Ctx) : (s.modCtx a b f).notices = s.notices := rfl
@[simp] theorem State.modCtx_power (a b : Nat) (f : Ctx → Ctx) : (s.modCtx a b f).power = s.power := rfl
@[simp] theorem State.modCtx_resets (a b : Nat) (f : Ctx → Ctx) : (s.modCtx a b f).resets = s.resets := rfl
@[simp] theorem State.modCtx_warden (a b : Nat) (f : Ctx → Ctx) : (s.modCtx a b f).warden = s.warden := rfl
@[simp] theorem State.modCtx_test (a b : Nat) (f : Ctx → Ctx) : (s.modCtx a b f).test = s.test := rfl
@[simp] theorem State.modCtx_out (a b : Nat) (f : Ctx → Ctx) : (s.modCtx a b f).out = s.out := rfl
@[simp] theorem State.modCtx_reloaded (a b : Nat) (f : Ctx → Ctx) : (s.modCtx a b f).reloaded = s.reloaded := rfl
@[simp] theorem State.modCtx_drawn (a b : Nat) (f : Ctx → Ctx) : (s.modCtx a b f).drawn = s.drawn := rfl

/-! ### modEng -/

@[simp] theorem State.modEng_pending (a b : Nat) (f : Engine → Engine) : (s.modEng a b f).pending = s.pending := rfl
@[simp] theorem State.modEng_fab (a b : Nat) (f : Engine → Engine) : (s.modEng a b f).fab = s.fab := rfl
@[simp] theorem State.modEng_credit (a b : Nat) (f : Engine → Engine) : (s.modEng a b f).credit = s.credit := rfl
@[simp] theorem State.modEng_light (a b : Nat) (f : Engine → Engine) : (s.modEng a b f).light = s.light := rfl
@[simp] theorem State.modEng_hash (a b : Nat) (f : Engine → Engine) : (s.modEng a b f).hash = s.hash := rfl
@[simp] theorem State.modEng_mem (a b : Nat) (f : Engine → Engine) : (s.modEng a b f).mem = s.mem := rfl
@[simp] theorem State.modEng_rem (a b : Nat) (f : Engine → Engine) : (s.modEng a b f).rem = s.rem := rfl
@[simp] theorem State.modEng_time (a b : Nat) (f : Engine → Engine) : (s.modEng a b f).time = s.time := rfl
@[simp] theorem State.modEng_sows (a b : Nat) (f : Engine → Engine) : (s.modEng a b f).sows = s.sows := rfl
@[simp] theorem State.modEng_sheaves (a b : Nat) (f : Engine → Engine) : (s.modEng a b f).sheaves = s.sheaves := rfl
@[simp] theorem State.modEng_ports (a b : Nat) (f : Engine → Engine) : (s.modEng a b f).ports = s.ports := rfl
@[simp] theorem State.modEng_plat (a b : Nat) (f : Engine → Engine) : (s.modEng a b f).plat = s.plat := rfl
@[simp] theorem State.modEng_group (a b : Nat) (f : Engine → Engine) : (s.modEng a b f).group = s.group := rfl
@[simp] theorem State.modEng_bridge (a b : Nat) (f : Engine → Engine) : (s.modEng a b f).bridge = s.bridge := rfl
@[simp] theorem State.modEng_notices (a b : Nat) (f : Engine → Engine) : (s.modEng a b f).notices = s.notices := rfl
@[simp] theorem State.modEng_power (a b : Nat) (f : Engine → Engine) : (s.modEng a b f).power = s.power := rfl
@[simp] theorem State.modEng_resets (a b : Nat) (f : Engine → Engine) : (s.modEng a b f).resets = s.resets := rfl
@[simp] theorem State.modEng_warden (a b : Nat) (f : Engine → Engine) : (s.modEng a b f).warden = s.warden := rfl
@[simp] theorem State.modEng_test (a b : Nat) (f : Engine → Engine) : (s.modEng a b f).test = s.test := rfl
@[simp] theorem State.modEng_out (a b : Nat) (f : Engine → Engine) : (s.modEng a b f).out = s.out := rfl
@[simp] theorem State.modEng_reloaded (a b : Nat) (f : Engine → Engine) : (s.modEng a b f).reloaded = s.reloaded := rfl
@[simp] theorem State.modEng_drawn (a b : Nat) (f : Engine → Engine) : (s.modEng a b f).drawn = s.drawn := rfl

/-! ### setToken -/

@[simp] theorem State.setToken_pending (a b v : Nat) : (s.setToken a b v).pending = s.pending := rfl
@[simp] theorem State.setToken_fab (a b v : Nat) : (s.setToken a b v).fab = s.fab := rfl
@[simp] theorem State.setToken_credit (a b v : Nat) : (s.setToken a b v).credit = s.credit := rfl
@[simp] theorem State.setToken_light (a b v : Nat) : (s.setToken a b v).light = s.light := rfl
@[simp] theorem State.setToken_hash (a b v : Nat) : (s.setToken a b v).hash = s.hash := rfl
@[simp] theorem State.setToken_mem (a b v : Nat) : (s.setToken a b v).mem = s.mem := rfl
@[simp] theorem State.setToken_rem (a b v : Nat) : (s.setToken a b v).rem = s.rem := rfl
@[simp] theorem State.setToken_time (a b v : Nat) : (s.setToken a b v).time = s.time := rfl
@[simp] theorem State.setToken_sows (a b v : Nat) : (s.setToken a b v).sows = s.sows := rfl
@[simp] theorem State.setToken_sheaves (a b v : Nat) : (s.setToken a b v).sheaves = s.sheaves := rfl
@[simp] theorem State.setToken_ports (a b v : Nat) : (s.setToken a b v).ports = s.ports := rfl
@[simp] theorem State.setToken_plat (a b v : Nat) : (s.setToken a b v).plat = s.plat := rfl
@[simp] theorem State.setToken_group (a b v : Nat) : (s.setToken a b v).group = s.group := rfl
@[simp] theorem State.setToken_bridge (a b v : Nat) : (s.setToken a b v).bridge = s.bridge := rfl
@[simp] theorem State.setToken_notices (a b v : Nat) : (s.setToken a b v).notices = s.notices := rfl
@[simp] theorem State.setToken_power (a b v : Nat) : (s.setToken a b v).power = s.power := rfl
@[simp] theorem State.setToken_resets (a b v : Nat) : (s.setToken a b v).resets = s.resets := rfl
@[simp] theorem State.setToken_warden (a b v : Nat) : (s.setToken a b v).warden = s.warden := rfl
@[simp] theorem State.setToken_test (a b v : Nat) : (s.setToken a b v).test = s.test := rfl
@[simp] theorem State.setToken_out (a b v : Nat) : (s.setToken a b v).out = s.out := rfl
@[simp] theorem State.setToken_reloaded (a b v : Nat) : (s.setToken a b v).reloaded = s.reloaded := rfl
@[simp] theorem State.setToken_drawn (a b v : Nat) : (s.setToken a b v).drawn = s.drawn := rfl

/-! ### modSow -/

@[simp] theorem State.modSow_pending (a : Nat) (f : List SowEntry → List SowEntry) : (s.modSow a f).pending = s.pending := rfl
@[simp] theorem State.modSow_fab (a : Nat) (f : List SowEntry → List SowEntry) : (s.modSow a f).fab = s.fab := rfl
@[simp] theorem State.modSow_credit (a : Nat) (f : List SowEntry → List SowEntry) : (s.modSow a f).credit = s.credit := rfl
@[simp] theorem State.modSow_light (a : Nat) (f : List SowEntry → List SowEntry) : (s.modSow a f).light = s.light := rfl
@[simp] theorem State.modSow_hash (a : Nat) (f : List SowEntry → List SowEntry) : (s.modSow a f).hash = s.hash := rfl
@[simp] theorem State.modSow_mem (a : Nat) (f : List SowEntry → List SowEntry) : (s.modSow a f).mem = s.mem := rfl
@[simp] theorem State.modSow_rem (a : Nat) (f : List SowEntry → List SowEntry) : (s.modSow a f).rem = s.rem := rfl
@[simp] theorem State.modSow_cores (a : Nat) (f : List SowEntry → List SowEntry) : (s.modSow a f).cores = s.cores := rfl
@[simp] theorem State.modSow_time (a : Nat) (f : List SowEntry → List SowEntry) : (s.modSow a f).time = s.time := rfl
@[simp] theorem State.modSow_sheaves (a : Nat) (f : List SowEntry → List SowEntry) : (s.modSow a f).sheaves = s.sheaves := rfl
@[simp] theorem State.modSow_ports (a : Nat) (f : List SowEntry → List SowEntry) : (s.modSow a f).ports = s.ports := rfl
@[simp] theorem State.modSow_plat (a : Nat) (f : List SowEntry → List SowEntry) : (s.modSow a f).plat = s.plat := rfl
@[simp] theorem State.modSow_group (a : Nat) (f : List SowEntry → List SowEntry) : (s.modSow a f).group = s.group := rfl
@[simp] theorem State.modSow_bridge (a : Nat) (f : List SowEntry → List SowEntry) : (s.modSow a f).bridge = s.bridge := rfl
@[simp] theorem State.modSow_notices (a : Nat) (f : List SowEntry → List SowEntry) : (s.modSow a f).notices = s.notices := rfl
@[simp] theorem State.modSow_power (a : Nat) (f : List SowEntry → List SowEntry) : (s.modSow a f).power = s.power := rfl
@[simp] theorem State.modSow_resets (a : Nat) (f : List SowEntry → List SowEntry) : (s.modSow a f).resets = s.resets := rfl
@[simp] theorem State.modSow_warden (a : Nat) (f : List SowEntry → List SowEntry) : (s.modSow a f).warden = s.warden := rfl
@[simp] theorem State.modSow_test (a : Nat) (f : List SowEntry → List SowEntry) : (s.modSow a f).test = s.test := rfl
@[simp] theorem State.modSow_out (a : Nat) (f : List SowEntry → List SowEntry) : (s.modSow a f).out = s.out := rfl
@[simp] theorem State.modSow_reloaded (a : Nat) (f : List SowEntry → List SowEntry) : (s.modSow a f).reloaded = s.reloaded := rfl
@[simp] theorem State.modSow_drawn (a : Nat) (f : List SowEntry → List SowEntry) : (s.modSow a f).drawn = s.drawn := rfl
@[simp] theorem State.modSow_sows_runs (a : Nat) (f : List SowEntry → List SowEntry) : (s.modSow a f).sows.runs = s.sows.runs := rfl

/-! ### modSheaf -/

@[simp] theorem State.modSheaf_pending (a : Nat) (f : Sheaf → Sheaf) : (s.modSheaf a f).pending = s.pending := rfl
@[simp] theorem State.modSheaf_fab (a : Nat) (f : Sheaf → Sheaf) : (s.modSheaf a f).fab = s.fab := rfl
@[simp] theorem State.modSheaf_credit (a : Nat) (f : Sheaf → Sheaf) : (s.modSheaf a f).credit = s.credit := rfl
@[simp] theorem State.modSheaf_light (a : Nat) (f : Sheaf → Sheaf) : (s.modSheaf a f).light = s.light := rfl
@[simp] theorem State.modSheaf_hash (a : Nat) (f : Sheaf → Sheaf) : (s.modSheaf a f).hash = s.hash := rfl
@[simp] theorem State.modSheaf_mem (a : Nat) (f : Sheaf → Sheaf) : (s.modSheaf a f).mem = s.mem := rfl
@[simp] theorem State.modSheaf_rem (a : Nat) (f : Sheaf → Sheaf) : (s.modSheaf a f).rem = s.rem := rfl
@[simp] theorem State.modSheaf_cores (a : Nat) (f : Sheaf → Sheaf) : (s.modSheaf a f).cores = s.cores := rfl
@[simp] theorem State.modSheaf_time (a : Nat) (f : Sheaf → Sheaf) : (s.modSheaf a f).time = s.time := rfl
@[simp] theorem State.modSheaf_sows (a : Nat) (f : Sheaf → Sheaf) : (s.modSheaf a f).sows = s.sows := rfl
@[simp] theorem State.modSheaf_ports (a : Nat) (f : Sheaf → Sheaf) : (s.modSheaf a f).ports = s.ports := rfl
@[simp] theorem State.modSheaf_plat (a : Nat) (f : Sheaf → Sheaf) : (s.modSheaf a f).plat = s.plat := rfl
@[simp] theorem State.modSheaf_group (a : Nat) (f : Sheaf → Sheaf) : (s.modSheaf a f).group = s.group := rfl
@[simp] theorem State.modSheaf_bridge (a : Nat) (f : Sheaf → Sheaf) : (s.modSheaf a f).bridge = s.bridge := rfl
@[simp] theorem State.modSheaf_notices (a : Nat) (f : Sheaf → Sheaf) : (s.modSheaf a f).notices = s.notices := rfl
@[simp] theorem State.modSheaf_power (a : Nat) (f : Sheaf → Sheaf) : (s.modSheaf a f).power = s.power := rfl
@[simp] theorem State.modSheaf_resets (a : Nat) (f : Sheaf → Sheaf) : (s.modSheaf a f).resets = s.resets := rfl
@[simp] theorem State.modSheaf_warden (a : Nat) (f : Sheaf → Sheaf) : (s.modSheaf a f).warden = s.warden := rfl
@[simp] theorem State.modSheaf_test (a : Nat) (f : Sheaf → Sheaf) : (s.modSheaf a f).test = s.test := rfl
@[simp] theorem State.modSheaf_out (a : Nat) (f : Sheaf → Sheaf) : (s.modSheaf a f).out = s.out := rfl
@[simp] theorem State.modSheaf_reloaded (a : Nat) (f : Sheaf → Sheaf) : (s.modSheaf a f).reloaded = s.reloaded := rfl
@[simp] theorem State.modSheaf_drawn (a : Nat) (f : Sheaf → Sheaf) : (s.modSheaf a f).drawn = s.drawn := rfl
@[simp] theorem State.modSheaf_sheaves_bank (a : Nat) (f : Sheaf → Sheaf) : (s.modSheaf a f).sheaves.bank = s.sheaves.bank := rfl
@[simp] theorem State.modSheaf_sheaves_answers (a : Nat) (f : Sheaf → Sheaf) : (s.modSheaf a f).sheaves.answers = s.sheaves.answers := rfl
@[simp] theorem State.modSheaf_sheaves_forceVal (a : Nat) (f : Sheaf → Sheaf) : (s.modSheaf a f).sheaves.forceVal = s.sheaves.forceVal := rfl
@[simp] theorem State.modSheaf_sheaves_forceSheaf (a : Nat) (f : Sheaf → Sheaf) : (s.modSheaf a f).sheaves.forceSheaf = s.sheaves.forceSheaf := rfl

/-! ### modBank -/

@[simp] theorem State.modBank_pending (a : Nat) (f : Bank → Bank) : (s.modBank a f).pending = s.pending := rfl
@[simp] theorem State.modBank_fab (a : Nat) (f : Bank → Bank) : (s.modBank a f).fab = s.fab := rfl
@[simp] theorem State.modBank_credit (a : Nat) (f : Bank → Bank) : (s.modBank a f).credit = s.credit := rfl
@[simp] theorem State.modBank_light (a : Nat) (f : Bank → Bank) : (s.modBank a f).light = s.light := rfl
@[simp] theorem State.modBank_hash (a : Nat) (f : Bank → Bank) : (s.modBank a f).hash = s.hash := rfl
@[simp] theorem State.modBank_mem (a : Nat) (f : Bank → Bank) : (s.modBank a f).mem = s.mem := rfl
@[simp] theorem State.modBank_rem (a : Nat) (f : Bank → Bank) : (s.modBank a f).rem = s.rem := rfl
@[simp] theorem State.modBank_cores (a : Nat) (f : Bank → Bank) : (s.modBank a f).cores = s.cores := rfl
@[simp] theorem State.modBank_time (a : Nat) (f : Bank → Bank) : (s.modBank a f).time = s.time := rfl
@[simp] theorem State.modBank_sows (a : Nat) (f : Bank → Bank) : (s.modBank a f).sows = s.sows := rfl
@[simp] theorem State.modBank_ports (a : Nat) (f : Bank → Bank) : (s.modBank a f).ports = s.ports := rfl
@[simp] theorem State.modBank_plat (a : Nat) (f : Bank → Bank) : (s.modBank a f).plat = s.plat := rfl
@[simp] theorem State.modBank_group (a : Nat) (f : Bank → Bank) : (s.modBank a f).group = s.group := rfl
@[simp] theorem State.modBank_bridge (a : Nat) (f : Bank → Bank) : (s.modBank a f).bridge = s.bridge := rfl
@[simp] theorem State.modBank_notices (a : Nat) (f : Bank → Bank) : (s.modBank a f).notices = s.notices := rfl
@[simp] theorem State.modBank_power (a : Nat) (f : Bank → Bank) : (s.modBank a f).power = s.power := rfl
@[simp] theorem State.modBank_resets (a : Nat) (f : Bank → Bank) : (s.modBank a f).resets = s.resets := rfl
@[simp] theorem State.modBank_warden (a : Nat) (f : Bank → Bank) : (s.modBank a f).warden = s.warden := rfl
@[simp] theorem State.modBank_test (a : Nat) (f : Bank → Bank) : (s.modBank a f).test = s.test := rfl
@[simp] theorem State.modBank_out (a : Nat) (f : Bank → Bank) : (s.modBank a f).out = s.out := rfl
@[simp] theorem State.modBank_reloaded (a : Nat) (f : Bank → Bank) : (s.modBank a f).reloaded = s.reloaded := rfl
@[simp] theorem State.modBank_drawn (a : Nat) (f : Bank → Bank) : (s.modBank a f).drawn = s.drawn := rfl
@[simp] theorem State.modBank_sheaves_sheaf (a : Nat) (f : Bank → Bank) : (s.modBank a f).sheaves.sheaf = s.sheaves.sheaf := rfl
@[simp] theorem State.modBank_sheaves_answers (a : Nat) (f : Bank → Bank) : (s.modBank a f).sheaves.answers = s.sheaves.answers := rfl
@[simp] theorem State.modBank_sheaves_forceVal (a : Nat) (f : Bank → Bank) : (s.modBank a f).sheaves.forceVal = s.sheaves.forceVal := rfl
@[simp] theorem State.modBank_sheaves_forceSheaf (a : Nat) (f : Bank → Bank) : (s.modBank a f).sheaves.forceSheaf = s.sheaves.forceSheaf := rfl

/-! ### modPort -/

@[simp] theorem State.modPort_pending (a : Nat) (f : Port → Port) : (s.modPort a f).pending = s.pending := rfl
@[simp] theorem State.modPort_fab (a : Nat) (f : Port → Port) : (s.modPort a f).fab = s.fab := rfl
@[simp] theorem State.modPort_credit (a : Nat) (f : Port → Port) : (s.modPort a f).credit = s.credit := rfl
@[simp] theorem State.modPort_light (a : Nat) (f : Port → Port) : (s.modPort a f).light = s.light := rfl
@[simp] theorem State.modPort_hash (a : Nat) (f : Port → Port) : (s.modPort a f).hash = s.hash := rfl
@[simp] theorem State.modPort_mem (a : Nat) (f : Port → Port) : (s.modPort a f).mem = s.mem := rfl
@[simp] theorem State.modPort_rem (a : Nat) (f : Port → Port) : (s.modPort a f).rem = s.rem := rfl
@[simp] theorem State.modPort_cores (a : Nat) (f : Port → Port) : (s.modPort a f).cores = s.cores := rfl
@[simp] theorem State.modPort_time (a : Nat) (f : Port → Port) : (s.modPort a f).time = s.time := rfl
@[simp] theorem State.modPort_sows (a : Nat) (f : Port → Port) : (s.modPort a f).sows = s.sows := rfl
@[simp] theorem State.modPort_sheaves (a : Nat) (f : Port → Port) : (s.modPort a f).sheaves = s.sheaves := rfl
@[simp] theorem State.modPort_plat (a : Nat) (f : Port → Port) : (s.modPort a f).plat = s.plat := rfl
@[simp] theorem State.modPort_group (a : Nat) (f : Port → Port) : (s.modPort a f).group = s.group := rfl
@[simp] theorem State.modPort_bridge (a : Nat) (f : Port → Port) : (s.modPort a f).bridge = s.bridge := rfl
@[simp] theorem State.modPort_notices (a : Nat) (f : Port → Port) : (s.modPort a f).notices = s.notices := rfl
@[simp] theorem State.modPort_power (a : Nat) (f : Port → Port) : (s.modPort a f).power = s.power := rfl
@[simp] theorem State.modPort_resets (a : Nat) (f : Port → Port) : (s.modPort a f).resets = s.resets := rfl
@[simp] theorem State.modPort_warden (a : Nat) (f : Port → Port) : (s.modPort a f).warden = s.warden := rfl
@[simp] theorem State.modPort_test (a : Nat) (f : Port → Port) : (s.modPort a f).test = s.test := rfl
@[simp] theorem State.modPort_out (a : Nat) (f : Port → Port) : (s.modPort a f).out = s.out := rfl
@[simp] theorem State.modPort_reloaded (a : Nat) (f : Port → Port) : (s.modPort a f).reloaded = s.reloaded := rfl
@[simp] theorem State.modPort_drawn (a : Nat) (f : Port → Port) : (s.modPort a f).drawn = s.drawn := rfl
@[simp] theorem State.modPort_ports_outq (a : Nat) (f : Port → Port) : (s.modPort a f).ports.outq = s.ports.outq := rfl
@[simp] theorem State.modPort_ports_ctlq (a : Nat) (f : Port → Port) : (s.modPort a f).ports.ctlq = s.ports.ctlq := rfl
@[simp] theorem State.modPort_ports_sent (a : Nat) (f : Port → Port) : (s.modPort a f).ports.sent = s.ports.sent := rfl
@[simp] theorem State.modPort_ports_backoff (a : Nat) (f : Port → Port) : (s.modPort a f).ports.backoff = s.ports.backoff := rfl
@[simp] theorem State.modPort_ports_win (a : Nat) (f : Port → Port) : (s.modPort a f).ports.win = s.ports.win := rfl
@[simp] theorem State.modPort_ports_send (a : Nat) (f : Port → Port) : (s.modPort a f).ports.send = s.ports.send := rfl

/-! ### modWin -/

@[simp] theorem State.modWin_pending (a : Nat) (f : PeerWin → PeerWin) : (s.modWin a f).pending = s.pending := rfl
@[simp] theorem State.modWin_fab (a : Nat) (f : PeerWin → PeerWin) : (s.modWin a f).fab = s.fab := rfl
@[simp] theorem State.modWin_credit (a : Nat) (f : PeerWin → PeerWin) : (s.modWin a f).credit = s.credit := rfl
@[simp] theorem State.modWin_light (a : Nat) (f : PeerWin → PeerWin) : (s.modWin a f).light = s.light := rfl
@[simp] theorem State.modWin_hash (a : Nat) (f : PeerWin → PeerWin) : (s.modWin a f).hash = s.hash := rfl
@[simp] theorem State.modWin_mem (a : Nat) (f : PeerWin → PeerWin) : (s.modWin a f).mem = s.mem := rfl
@[simp] theorem State.modWin_rem (a : Nat) (f : PeerWin → PeerWin) : (s.modWin a f).rem = s.rem := rfl
@[simp] theorem State.modWin_cores (a : Nat) (f : PeerWin → PeerWin) : (s.modWin a f).cores = s.cores := rfl
@[simp] theorem State.modWin_time (a : Nat) (f : PeerWin → PeerWin) : (s.modWin a f).time = s.time := rfl
@[simp] theorem State.modWin_sows (a : Nat) (f : PeerWin → PeerWin) : (s.modWin a f).sows = s.sows := rfl
@[simp] theorem State.modWin_sheaves (a : Nat) (f : PeerWin → PeerWin) : (s.modWin a f).sheaves = s.sheaves := rfl
@[simp] theorem State.modWin_plat (a : Nat) (f : PeerWin → PeerWin) : (s.modWin a f).plat = s.plat := rfl
@[simp] theorem State.modWin_group (a : Nat) (f : PeerWin → PeerWin) : (s.modWin a f).group = s.group := rfl
@[simp] theorem State.modWin_bridge (a : Nat) (f : PeerWin → PeerWin) : (s.modWin a f).bridge = s.bridge := rfl
@[simp] theorem State.modWin_notices (a : Nat) (f : PeerWin → PeerWin) : (s.modWin a f).notices = s.notices := rfl
@[simp] theorem State.modWin_power (a : Nat) (f : PeerWin → PeerWin) : (s.modWin a f).power = s.power := rfl
@[simp] theorem State.modWin_resets (a : Nat) (f : PeerWin → PeerWin) : (s.modWin a f).resets = s.resets := rfl
@[simp] theorem State.modWin_warden (a : Nat) (f : PeerWin → PeerWin) : (s.modWin a f).warden = s.warden := rfl
@[simp] theorem State.modWin_test (a : Nat) (f : PeerWin → PeerWin) : (s.modWin a f).test = s.test := rfl
@[simp] theorem State.modWin_out (a : Nat) (f : PeerWin → PeerWin) : (s.modWin a f).out = s.out := rfl
@[simp] theorem State.modWin_reloaded (a : Nat) (f : PeerWin → PeerWin) : (s.modWin a f).reloaded = s.reloaded := rfl
@[simp] theorem State.modWin_drawn (a : Nat) (f : PeerWin → PeerWin) : (s.modWin a f).drawn = s.drawn := rfl
@[simp] theorem State.modWin_ports_port (a : Nat) (f : PeerWin → PeerWin) : (s.modWin a f).ports.port = s.ports.port := rfl
@[simp] theorem State.modWin_ports_outq (a : Nat) (f : PeerWin → PeerWin) : (s.modWin a f).ports.outq = s.ports.outq := rfl
@[simp] theorem State.modWin_ports_ctlq (a : Nat) (f : PeerWin → PeerWin) : (s.modWin a f).ports.ctlq = s.ports.ctlq := rfl
@[simp] theorem State.modWin_ports_sent (a : Nat) (f : PeerWin → PeerWin) : (s.modWin a f).ports.sent = s.ports.sent := rfl
@[simp] theorem State.modWin_ports_backoff (a : Nat) (f : PeerWin → PeerWin) : (s.modWin a f).ports.backoff = s.ports.backoff := rfl
@[simp] theorem State.modWin_ports_send (a : Nat) (f : PeerWin → PeerWin) : (s.modWin a f).ports.send = s.ports.send := rfl

/-! ### modSend -/

@[simp] theorem State.modSend_pending (a : Nat) (f : PeerSend → PeerSend) : (s.modSend a f).pending = s.pending := rfl
@[simp] theorem State.modSend_fab (a : Nat) (f : PeerSend → PeerSend) : (s.modSend a f).fab = s.fab := rfl
@[simp] theorem State.modSend_credit (a : Nat) (f : PeerSend → PeerSend) : (s.modSend a f).credit = s.credit := rfl
@[simp] theorem State.modSend_light (a : Nat) (f : PeerSend → PeerSend) : (s.modSend a f).light = s.light := rfl
@[simp] theorem State.modSend_hash (a : Nat) (f : PeerSend → PeerSend) : (s.modSend a f).hash = s.hash := rfl
@[simp] theorem State.modSend_mem (a : Nat) (f : PeerSend → PeerSend) : (s.modSend a f).mem = s.mem := rfl
@[simp] theorem State.modSend_rem (a : Nat) (f : PeerSend → PeerSend) : (s.modSend a f).rem = s.rem := rfl
@[simp] theorem State.modSend_cores (a : Nat) (f : PeerSend → PeerSend) : (s.modSend a f).cores = s.cores := rfl
@[simp] theorem State.modSend_time (a : Nat) (f : PeerSend → PeerSend) : (s.modSend a f).time = s.time := rfl
@[simp] theorem State.modSend_sows (a : Nat) (f : PeerSend → PeerSend) : (s.modSend a f).sows = s.sows := rfl
@[simp] theorem State.modSend_sheaves (a : Nat) (f : PeerSend → PeerSend) : (s.modSend a f).sheaves = s.sheaves := rfl
@[simp] theorem State.modSend_plat (a : Nat) (f : PeerSend → PeerSend) : (s.modSend a f).plat = s.plat := rfl
@[simp] theorem State.modSend_group (a : Nat) (f : PeerSend → PeerSend) : (s.modSend a f).group = s.group := rfl
@[simp] theorem State.modSend_bridge (a : Nat) (f : PeerSend → PeerSend) : (s.modSend a f).bridge = s.bridge := rfl
@[simp] theorem State.modSend_notices (a : Nat) (f : PeerSend → PeerSend) : (s.modSend a f).notices = s.notices := rfl
@[simp] theorem State.modSend_power (a : Nat) (f : PeerSend → PeerSend) : (s.modSend a f).power = s.power := rfl
@[simp] theorem State.modSend_resets (a : Nat) (f : PeerSend → PeerSend) : (s.modSend a f).resets = s.resets := rfl
@[simp] theorem State.modSend_warden (a : Nat) (f : PeerSend → PeerSend) : (s.modSend a f).warden = s.warden := rfl
@[simp] theorem State.modSend_test (a : Nat) (f : PeerSend → PeerSend) : (s.modSend a f).test = s.test := rfl
@[simp] theorem State.modSend_out (a : Nat) (f : PeerSend → PeerSend) : (s.modSend a f).out = s.out := rfl
@[simp] theorem State.modSend_reloaded (a : Nat) (f : PeerSend → PeerSend) : (s.modSend a f).reloaded = s.reloaded := rfl
@[simp] theorem State.modSend_drawn (a : Nat) (f : PeerSend → PeerSend) : (s.modSend a f).drawn = s.drawn := rfl
@[simp] theorem State.modSend_ports_port (a : Nat) (f : PeerSend → PeerSend) : (s.modSend a f).ports.port = s.ports.port := rfl
@[simp] theorem State.modSend_ports_outq (a : Nat) (f : PeerSend → PeerSend) : (s.modSend a f).ports.outq = s.ports.outq := rfl
@[simp] theorem State.modSend_ports_ctlq (a : Nat) (f : PeerSend → PeerSend) : (s.modSend a f).ports.ctlq = s.ports.ctlq := rfl
@[simp] theorem State.modSend_ports_sent (a : Nat) (f : PeerSend → PeerSend) : (s.modSend a f).ports.sent = s.ports.sent := rfl
@[simp] theorem State.modSend_ports_backoff (a : Nat) (f : PeerSend → PeerSend) : (s.modSend a f).ports.backoff = s.ports.backoff := rfl
@[simp] theorem State.modSend_ports_win (a : Nat) (f : PeerSend → PeerSend) : (s.modSend a f).ports.win = s.ports.win := rfl

/-! ### modHopper -/

@[simp] theorem State.modHopper_pending (a : Nat) (f : Hopper → Hopper) : (s.modHopper a f).pending = s.pending := rfl
@[simp] theorem State.modHopper_fab (a : Nat) (f : Hopper → Hopper) : (s.modHopper a f).fab = s.fab := rfl
@[simp] theorem State.modHopper_credit (a : Nat) (f : Hopper → Hopper) : (s.modHopper a f).credit = s.credit := rfl
@[simp] theorem State.modHopper_light (a : Nat) (f : Hopper → Hopper) : (s.modHopper a f).light = s.light := rfl
@[simp] theorem State.modHopper_hash (a : Nat) (f : Hopper → Hopper) : (s.modHopper a f).hash = s.hash := rfl
@[simp] theorem State.modHopper_mem (a : Nat) (f : Hopper → Hopper) : (s.modHopper a f).mem = s.mem := rfl
@[simp] theorem State.modHopper_rem (a : Nat) (f : Hopper → Hopper) : (s.modHopper a f).rem = s.rem := rfl
@[simp] theorem State.modHopper_cores (a : Nat) (f : Hopper → Hopper) : (s.modHopper a f).cores = s.cores := rfl
@[simp] theorem State.modHopper_time (a : Nat) (f : Hopper → Hopper) : (s.modHopper a f).time = s.time := rfl
@[simp] theorem State.modHopper_sows (a : Nat) (f : Hopper → Hopper) : (s.modHopper a f).sows = s.sows := rfl
@[simp] theorem State.modHopper_sheaves (a : Nat) (f : Hopper → Hopper) : (s.modHopper a f).sheaves = s.sheaves := rfl
@[simp] theorem State.modHopper_ports (a : Nat) (f : Hopper → Hopper) : (s.modHopper a f).ports = s.ports := rfl
@[simp] theorem State.modHopper_plat (a : Nat) (f : Hopper → Hopper) : (s.modHopper a f).plat = s.plat := rfl
@[simp] theorem State.modHopper_group (a : Nat) (f : Hopper → Hopper) : (s.modHopper a f).group = s.group := rfl
@[simp] theorem State.modHopper_notices (a : Nat) (f : Hopper → Hopper) : (s.modHopper a f).notices = s.notices := rfl
@[simp] theorem State.modHopper_power (a : Nat) (f : Hopper → Hopper) : (s.modHopper a f).power = s.power := rfl
@[simp] theorem State.modHopper_resets (a : Nat) (f : Hopper → Hopper) : (s.modHopper a f).resets = s.resets := rfl
@[simp] theorem State.modHopper_warden (a : Nat) (f : Hopper → Hopper) : (s.modHopper a f).warden = s.warden := rfl
@[simp] theorem State.modHopper_test (a : Nat) (f : Hopper → Hopper) : (s.modHopper a f).test = s.test := rfl
@[simp] theorem State.modHopper_out (a : Nat) (f : Hopper → Hopper) : (s.modHopper a f).out = s.out := rfl
@[simp] theorem State.modHopper_reloaded (a : Nat) (f : Hopper → Hopper) : (s.modHopper a f).reloaded = s.reloaded := rfl
@[simp] theorem State.modHopper_drawn (a : Nat) (f : Hopper → Hopper) : (s.modHopper a f).drawn = s.drawn := rfl
@[simp] theorem State.modHopper_bridge_rings (a : Nat) (f : Hopper → Hopper) : (s.modHopper a f).bridge.rings = s.bridge.rings := rfl
@[simp] theorem State.modHopper_bridge_waiting (a : Nat) (f : Hopper → Hopper) : (s.modHopper a f).bridge.waiting = s.bridge.waiting := rfl
@[simp] theorem State.modHopper_bridge_inbox (a : Nat) (f : Hopper → Hopper) : (s.modHopper a f).bridge.inbox = s.bridge.inbox := rfl
@[simp] theorem State.modHopper_bridge_mboxCmd (a : Nat) (f : Hopper → Hopper) : (s.modHopper a f).bridge.mboxCmd = s.bridge.mboxCmd := rfl
@[simp] theorem State.modHopper_bridge_mboxState (a : Nat) (f : Hopper → Hopper) : (s.modHopper a f).bridge.mboxState = s.bridge.mboxState := rfl
@[simp] theorem State.modHopper_bridge_mboxResult (a : Nat) (f : Hopper → Hopper) : (s.modHopper a f).bridge.mboxResult = s.bridge.mboxResult := rfl
@[simp] theorem State.modHopper_bridge_proxies (a : Nat) (f : Hopper → Hopper) : (s.modHopper a f).bridge.proxies = s.bridge.proxies := rfl
@[simp] theorem State.modHopper_bridge_errValid (a : Nat) (f : Hopper → Hopper) : (s.modHopper a f).bridge.errValid = s.bridge.errValid := rfl
@[simp] theorem State.modHopper_bridge_errPath (a : Nat) (f : Hopper → Hopper) : (s.modHopper a f).bridge.errPath = s.bridge.errPath := rfl
@[simp] theorem State.modHopper_bridge_errStatus (a : Nat) (f : Hopper → Hopper) : (s.modHopper a f).bridge.errStatus = s.bridge.errStatus := rfl
@[simp] theorem State.modHopper_bridge_errCount (a : Nat) (f : Hopper → Hopper) : (s.modHopper a f).bridge.errCount = s.bridge.errCount := rfl
@[simp] theorem State.modHopper_bridge_errAddr (a : Nat) (f : Hopper → Hopper) : (s.modHopper a f).bridge.errAddr = s.bridge.errAddr := rfl
@[simp] theorem State.modHopper_bridge_errAddrLatch (a : Nat) (f : Hopper → Hopper) : (s.modHopper a f).bridge.errAddrLatch = s.bridge.errAddrLatch := rfl
@[simp] theorem State.modHopper_bridge_mboxGo (a : Nat) (f : Hopper → Hopper) : (s.modHopper a f).bridge.mboxGo = s.bridge.mboxGo := rfl
@[simp] theorem State.modHopper_bridge_posted (a : Nat) (f : Hopper → Hopper) : (s.modHopper a f).bridge.posted = s.bridge.posted := rfl

/-! ### modCring -/

@[simp] theorem State.modCring_pending (a : Nat) (f : CmdRing → CmdRing) : (s.modCring a f).pending = s.pending := rfl
@[simp] theorem State.modCring_fab (a : Nat) (f : CmdRing → CmdRing) : (s.modCring a f).fab = s.fab := rfl
@[simp] theorem State.modCring_credit (a : Nat) (f : CmdRing → CmdRing) : (s.modCring a f).credit = s.credit := rfl
@[simp] theorem State.modCring_light (a : Nat) (f : CmdRing → CmdRing) : (s.modCring a f).light = s.light := rfl
@[simp] theorem State.modCring_hash (a : Nat) (f : CmdRing → CmdRing) : (s.modCring a f).hash = s.hash := rfl
@[simp] theorem State.modCring_mem (a : Nat) (f : CmdRing → CmdRing) : (s.modCring a f).mem = s.mem := rfl
@[simp] theorem State.modCring_rem (a : Nat) (f : CmdRing → CmdRing) : (s.modCring a f).rem = s.rem := rfl
@[simp] theorem State.modCring_cores (a : Nat) (f : CmdRing → CmdRing) : (s.modCring a f).cores = s.cores := rfl
@[simp] theorem State.modCring_time (a : Nat) (f : CmdRing → CmdRing) : (s.modCring a f).time = s.time := rfl
@[simp] theorem State.modCring_sows (a : Nat) (f : CmdRing → CmdRing) : (s.modCring a f).sows = s.sows := rfl
@[simp] theorem State.modCring_sheaves (a : Nat) (f : CmdRing → CmdRing) : (s.modCring a f).sheaves = s.sheaves := rfl
@[simp] theorem State.modCring_ports (a : Nat) (f : CmdRing → CmdRing) : (s.modCring a f).ports = s.ports := rfl
@[simp] theorem State.modCring_plat (a : Nat) (f : CmdRing → CmdRing) : (s.modCring a f).plat = s.plat := rfl
@[simp] theorem State.modCring_group (a : Nat) (f : CmdRing → CmdRing) : (s.modCring a f).group = s.group := rfl
@[simp] theorem State.modCring_notices (a : Nat) (f : CmdRing → CmdRing) : (s.modCring a f).notices = s.notices := rfl
@[simp] theorem State.modCring_power (a : Nat) (f : CmdRing → CmdRing) : (s.modCring a f).power = s.power := rfl
@[simp] theorem State.modCring_resets (a : Nat) (f : CmdRing → CmdRing) : (s.modCring a f).resets = s.resets := rfl
@[simp] theorem State.modCring_warden (a : Nat) (f : CmdRing → CmdRing) : (s.modCring a f).warden = s.warden := rfl
@[simp] theorem State.modCring_test (a : Nat) (f : CmdRing → CmdRing) : (s.modCring a f).test = s.test := rfl
@[simp] theorem State.modCring_out (a : Nat) (f : CmdRing → CmdRing) : (s.modCring a f).out = s.out := rfl
@[simp] theorem State.modCring_reloaded (a : Nat) (f : CmdRing → CmdRing) : (s.modCring a f).reloaded = s.reloaded := rfl
@[simp] theorem State.modCring_drawn (a : Nat) (f : CmdRing → CmdRing) : (s.modCring a f).drawn = s.drawn := rfl
@[simp] theorem State.modCring_bridge_hoppers (a : Nat) (f : CmdRing → CmdRing) : (s.modCring a f).bridge.hoppers = s.bridge.hoppers := rfl
@[simp] theorem State.modCring_bridge_waiting (a : Nat) (f : CmdRing → CmdRing) : (s.modCring a f).bridge.waiting = s.bridge.waiting := rfl
@[simp] theorem State.modCring_bridge_inbox (a : Nat) (f : CmdRing → CmdRing) : (s.modCring a f).bridge.inbox = s.bridge.inbox := rfl
@[simp] theorem State.modCring_bridge_mboxCmd (a : Nat) (f : CmdRing → CmdRing) : (s.modCring a f).bridge.mboxCmd = s.bridge.mboxCmd := rfl
@[simp] theorem State.modCring_bridge_mboxState (a : Nat) (f : CmdRing → CmdRing) : (s.modCring a f).bridge.mboxState = s.bridge.mboxState := rfl
@[simp] theorem State.modCring_bridge_mboxResult (a : Nat) (f : CmdRing → CmdRing) : (s.modCring a f).bridge.mboxResult = s.bridge.mboxResult := rfl
@[simp] theorem State.modCring_bridge_proxies (a : Nat) (f : CmdRing → CmdRing) : (s.modCring a f).bridge.proxies = s.bridge.proxies := rfl
@[simp] theorem State.modCring_bridge_errValid (a : Nat) (f : CmdRing → CmdRing) : (s.modCring a f).bridge.errValid = s.bridge.errValid := rfl
@[simp] theorem State.modCring_bridge_errPath (a : Nat) (f : CmdRing → CmdRing) : (s.modCring a f).bridge.errPath = s.bridge.errPath := rfl
@[simp] theorem State.modCring_bridge_errStatus (a : Nat) (f : CmdRing → CmdRing) : (s.modCring a f).bridge.errStatus = s.bridge.errStatus := rfl
@[simp] theorem State.modCring_bridge_errCount (a : Nat) (f : CmdRing → CmdRing) : (s.modCring a f).bridge.errCount = s.bridge.errCount := rfl
@[simp] theorem State.modCring_bridge_errAddr (a : Nat) (f : CmdRing → CmdRing) : (s.modCring a f).bridge.errAddr = s.bridge.errAddr := rfl
@[simp] theorem State.modCring_bridge_errAddrLatch (a : Nat) (f : CmdRing → CmdRing) : (s.modCring a f).bridge.errAddrLatch = s.bridge.errAddrLatch := rfl
@[simp] theorem State.modCring_bridge_mboxGo (a : Nat) (f : CmdRing → CmdRing) : (s.modCring a f).bridge.mboxGo = s.bridge.mboxGo := rfl
@[simp] theorem State.modCring_bridge_posted (a : Nat) (f : CmdRing → CmdRing) : (s.modCring a f).bridge.posted = s.bridge.posted := rfl

/-! ### queueRecord -/

@[simp] theorem State.queueRecord_pending (r : Record) : (s.queueRecord r).pending = s.pending := rfl
@[simp] theorem State.queueRecord_fab (r : Record) : (s.queueRecord r).fab = s.fab := rfl
@[simp] theorem State.queueRecord_credit (r : Record) : (s.queueRecord r).credit = s.credit := rfl
@[simp] theorem State.queueRecord_light (r : Record) : (s.queueRecord r).light = s.light := rfl
@[simp] theorem State.queueRecord_hash (r : Record) : (s.queueRecord r).hash = s.hash := rfl
@[simp] theorem State.queueRecord_mem (r : Record) : (s.queueRecord r).mem = s.mem := rfl
@[simp] theorem State.queueRecord_rem (r : Record) : (s.queueRecord r).rem = s.rem := rfl
@[simp] theorem State.queueRecord_cores (r : Record) : (s.queueRecord r).cores = s.cores := rfl
@[simp] theorem State.queueRecord_time (r : Record) : (s.queueRecord r).time = s.time := rfl
@[simp] theorem State.queueRecord_sows (r : Record) : (s.queueRecord r).sows = s.sows := rfl
@[simp] theorem State.queueRecord_sheaves (r : Record) : (s.queueRecord r).sheaves = s.sheaves := rfl
@[simp] theorem State.queueRecord_ports (r : Record) : (s.queueRecord r).ports = s.ports := rfl
@[simp] theorem State.queueRecord_plat (r : Record) : (s.queueRecord r).plat = s.plat := rfl
@[simp] theorem State.queueRecord_group (r : Record) : (s.queueRecord r).group = s.group := rfl
@[simp] theorem State.queueRecord_notices (r : Record) : (s.queueRecord r).notices = s.notices := rfl
@[simp] theorem State.queueRecord_power (r : Record) : (s.queueRecord r).power = s.power := rfl
@[simp] theorem State.queueRecord_resets (r : Record) : (s.queueRecord r).resets = s.resets := rfl
@[simp] theorem State.queueRecord_warden (r : Record) : (s.queueRecord r).warden = s.warden := rfl
@[simp] theorem State.queueRecord_test (r : Record) : (s.queueRecord r).test = s.test := rfl
@[simp] theorem State.queueRecord_out (r : Record) : (s.queueRecord r).out = s.out := rfl
@[simp] theorem State.queueRecord_reloaded (r : Record) : (s.queueRecord r).reloaded = s.reloaded := rfl
@[simp] theorem State.queueRecord_drawn (r : Record) : (s.queueRecord r).drawn = s.drawn := rfl
@[simp] theorem State.queueRecord_bridge_hoppers (r : Record) : (s.queueRecord r).bridge.hoppers = s.bridge.hoppers := rfl
@[simp] theorem State.queueRecord_bridge_rings (r : Record) : (s.queueRecord r).bridge.rings = s.bridge.rings := rfl
@[simp] theorem State.queueRecord_bridge_inbox (r : Record) : (s.queueRecord r).bridge.inbox = s.bridge.inbox := rfl
@[simp] theorem State.queueRecord_bridge_mboxCmd (r : Record) : (s.queueRecord r).bridge.mboxCmd = s.bridge.mboxCmd := rfl
@[simp] theorem State.queueRecord_bridge_mboxState (r : Record) : (s.queueRecord r).bridge.mboxState = s.bridge.mboxState := rfl
@[simp] theorem State.queueRecord_bridge_mboxResult (r : Record) : (s.queueRecord r).bridge.mboxResult = s.bridge.mboxResult := rfl
@[simp] theorem State.queueRecord_bridge_proxies (r : Record) : (s.queueRecord r).bridge.proxies = s.bridge.proxies := rfl
@[simp] theorem State.queueRecord_bridge_errValid (r : Record) : (s.queueRecord r).bridge.errValid = s.bridge.errValid := rfl
@[simp] theorem State.queueRecord_bridge_errPath (r : Record) : (s.queueRecord r).bridge.errPath = s.bridge.errPath := rfl
@[simp] theorem State.queueRecord_bridge_errStatus (r : Record) : (s.queueRecord r).bridge.errStatus = s.bridge.errStatus := rfl
@[simp] theorem State.queueRecord_bridge_errCount (r : Record) : (s.queueRecord r).bridge.errCount = s.bridge.errCount := rfl
@[simp] theorem State.queueRecord_bridge_errAddr (r : Record) : (s.queueRecord r).bridge.errAddr = s.bridge.errAddr := rfl
@[simp] theorem State.queueRecord_bridge_errAddrLatch (r : Record) : (s.queueRecord r).bridge.errAddrLatch = s.bridge.errAddrLatch := rfl
@[simp] theorem State.queueRecord_bridge_mboxGo (r : Record) : (s.queueRecord r).bridge.mboxGo = s.bridge.mboxGo := rfl
@[simp] theorem State.queueRecord_bridge_posted (r : Record) : (s.queueRecord r).bridge.posted = s.bridge.posted := rfl

/-! ### dropWrite -/

@[simp] theorem State.dropWrite_pending (p : Path) (a : Nat) (st : Status) : (s.dropWrite p a st).pending = s.pending := rfl
@[simp] theorem State.dropWrite_fab (p : Path) (a : Nat) (st : Status) : (s.dropWrite p a st).fab = s.fab := rfl
@[simp] theorem State.dropWrite_credit (p : Path) (a : Nat) (st : Status) : (s.dropWrite p a st).credit = s.credit := rfl
@[simp] theorem State.dropWrite_light (p : Path) (a : Nat) (st : Status) : (s.dropWrite p a st).light = s.light := rfl
@[simp] theorem State.dropWrite_hash (p : Path) (a : Nat) (st : Status) : (s.dropWrite p a st).hash = s.hash := rfl
@[simp] theorem State.dropWrite_mem (p : Path) (a : Nat) (st : Status) : (s.dropWrite p a st).mem = s.mem := rfl
@[simp] theorem State.dropWrite_rem (p : Path) (a : Nat) (st : Status) : (s.dropWrite p a st).rem = s.rem := rfl
@[simp] theorem State.dropWrite_cores (p : Path) (a : Nat) (st : Status) : (s.dropWrite p a st).cores = s.cores := rfl
@[simp] theorem State.dropWrite_time (p : Path) (a : Nat) (st : Status) : (s.dropWrite p a st).time = s.time := rfl
@[simp] theorem State.dropWrite_sows (p : Path) (a : Nat) (st : Status) : (s.dropWrite p a st).sows = s.sows := rfl
@[simp] theorem State.dropWrite_sheaves (p : Path) (a : Nat) (st : Status) : (s.dropWrite p a st).sheaves = s.sheaves := rfl
@[simp] theorem State.dropWrite_ports (p : Path) (a : Nat) (st : Status) : (s.dropWrite p a st).ports = s.ports := rfl
@[simp] theorem State.dropWrite_plat (p : Path) (a : Nat) (st : Status) : (s.dropWrite p a st).plat = s.plat := rfl
@[simp] theorem State.dropWrite_group (p : Path) (a : Nat) (st : Status) : (s.dropWrite p a st).group = s.group := rfl
@[simp] theorem State.dropWrite_notices (p : Path) (a : Nat) (st : Status) : (s.dropWrite p a st).notices = s.notices := rfl
@[simp] theorem State.dropWrite_power (p : Path) (a : Nat) (st : Status) : (s.dropWrite p a st).power = s.power := rfl
@[simp] theorem State.dropWrite_resets (p : Path) (a : Nat) (st : Status) : (s.dropWrite p a st).resets = s.resets := rfl
@[simp] theorem State.dropWrite_warden (p : Path) (a : Nat) (st : Status) : (s.dropWrite p a st).warden = s.warden := rfl
@[simp] theorem State.dropWrite_test (p : Path) (a : Nat) (st : Status) : (s.dropWrite p a st).test = s.test := rfl
@[simp] theorem State.dropWrite_out (p : Path) (a : Nat) (st : Status) : (s.dropWrite p a st).out = s.out := rfl
@[simp] theorem State.dropWrite_reloaded (p : Path) (a : Nat) (st : Status) : (s.dropWrite p a st).reloaded = s.reloaded := rfl
@[simp] theorem State.dropWrite_drawn (p : Path) (a : Nat) (st : Status) : (s.dropWrite p a st).drawn = s.drawn := rfl
@[simp] theorem State.dropWrite_bridge_hoppers (p : Path) (a : Nat) (st : Status) : (s.dropWrite p a st).bridge.hoppers = s.bridge.hoppers := rfl
@[simp] theorem State.dropWrite_bridge_rings (p : Path) (a : Nat) (st : Status) : (s.dropWrite p a st).bridge.rings = s.bridge.rings := rfl
@[simp] theorem State.dropWrite_bridge_waiting (p : Path) (a : Nat) (st : Status) : (s.dropWrite p a st).bridge.waiting = s.bridge.waiting := rfl
@[simp] theorem State.dropWrite_bridge_inbox (p : Path) (a : Nat) (st : Status) : (s.dropWrite p a st).bridge.inbox = s.bridge.inbox := rfl
@[simp] theorem State.dropWrite_bridge_mboxCmd (p : Path) (a : Nat) (st : Status) : (s.dropWrite p a st).bridge.mboxCmd = s.bridge.mboxCmd := rfl
@[simp] theorem State.dropWrite_bridge_mboxState (p : Path) (a : Nat) (st : Status) : (s.dropWrite p a st).bridge.mboxState = s.bridge.mboxState := rfl
@[simp] theorem State.dropWrite_bridge_mboxResult (p : Path) (a : Nat) (st : Status) : (s.dropWrite p a st).bridge.mboxResult = s.bridge.mboxResult := rfl
@[simp] theorem State.dropWrite_bridge_proxies (p : Path) (a : Nat) (st : Status) : (s.dropWrite p a st).bridge.proxies = s.bridge.proxies := rfl
@[simp] theorem State.dropWrite_bridge_errAddrLatch (p : Path) (a : Nat) (st : Status) : (s.dropWrite p a st).bridge.errAddrLatch = s.bridge.errAddrLatch := rfl
@[simp] theorem State.dropWrite_bridge_mboxGo (p : Path) (a : Nat) (st : Status) : (s.dropWrite p a st).bridge.mboxGo = s.bridge.mboxGo := rfl
@[simp] theorem State.dropWrite_bridge_posted (p : Path) (a : Nat) (st : Status) : (s.dropWrite p a st).bridge.posted = s.bridge.posted := rfl

/-! ### takeProxy -/

@[simp] theorem State.takeProxy_pending (o : Origin) : (s.takeProxy o).pending = s.pending := rfl
@[simp] theorem State.takeProxy_fab (o : Origin) : (s.takeProxy o).fab = s.fab := rfl
@[simp] theorem State.takeProxy_credit (o : Origin) : (s.takeProxy o).credit = s.credit := rfl
@[simp] theorem State.takeProxy_light (o : Origin) : (s.takeProxy o).light = s.light := rfl
@[simp] theorem State.takeProxy_hash (o : Origin) : (s.takeProxy o).hash = s.hash := rfl
@[simp] theorem State.takeProxy_mem (o : Origin) : (s.takeProxy o).mem = s.mem := rfl
@[simp] theorem State.takeProxy_rem (o : Origin) : (s.takeProxy o).rem = s.rem := rfl
@[simp] theorem State.takeProxy_cores (o : Origin) : (s.takeProxy o).cores = s.cores := rfl
@[simp] theorem State.takeProxy_time (o : Origin) : (s.takeProxy o).time = s.time := rfl
@[simp] theorem State.takeProxy_sows (o : Origin) : (s.takeProxy o).sows = s.sows := rfl
@[simp] theorem State.takeProxy_sheaves (o : Origin) : (s.takeProxy o).sheaves = s.sheaves := rfl
@[simp] theorem State.takeProxy_ports (o : Origin) : (s.takeProxy o).ports = s.ports := rfl
@[simp] theorem State.takeProxy_plat (o : Origin) : (s.takeProxy o).plat = s.plat := rfl
@[simp] theorem State.takeProxy_group (o : Origin) : (s.takeProxy o).group = s.group := rfl
@[simp] theorem State.takeProxy_notices (o : Origin) : (s.takeProxy o).notices = s.notices := rfl
@[simp] theorem State.takeProxy_power (o : Origin) : (s.takeProxy o).power = s.power := rfl
@[simp] theorem State.takeProxy_resets (o : Origin) : (s.takeProxy o).resets = s.resets := rfl
@[simp] theorem State.takeProxy_warden (o : Origin) : (s.takeProxy o).warden = s.warden := rfl
@[simp] theorem State.takeProxy_test (o : Origin) : (s.takeProxy o).test = s.test := rfl
@[simp] theorem State.takeProxy_out (o : Origin) : (s.takeProxy o).out = s.out := rfl
@[simp] theorem State.takeProxy_reloaded (o : Origin) : (s.takeProxy o).reloaded = s.reloaded := rfl
@[simp] theorem State.takeProxy_drawn (o : Origin) : (s.takeProxy o).drawn = s.drawn := rfl
@[simp] theorem State.takeProxy_bridge_hoppers (o : Origin) : (s.takeProxy o).bridge.hoppers = s.bridge.hoppers := rfl
@[simp] theorem State.takeProxy_bridge_rings (o : Origin) : (s.takeProxy o).bridge.rings = s.bridge.rings := rfl
@[simp] theorem State.takeProxy_bridge_waiting (o : Origin) : (s.takeProxy o).bridge.waiting = s.bridge.waiting := rfl
@[simp] theorem State.takeProxy_bridge_inbox (o : Origin) : (s.takeProxy o).bridge.inbox = s.bridge.inbox := rfl
@[simp] theorem State.takeProxy_bridge_mboxCmd (o : Origin) : (s.takeProxy o).bridge.mboxCmd = s.bridge.mboxCmd := rfl
@[simp] theorem State.takeProxy_bridge_mboxState (o : Origin) : (s.takeProxy o).bridge.mboxState = s.bridge.mboxState := rfl
@[simp] theorem State.takeProxy_bridge_mboxResult (o : Origin) : (s.takeProxy o).bridge.mboxResult = s.bridge.mboxResult := rfl
@[simp] theorem State.takeProxy_bridge_errValid (o : Origin) : (s.takeProxy o).bridge.errValid = s.bridge.errValid := rfl
@[simp] theorem State.takeProxy_bridge_errPath (o : Origin) : (s.takeProxy o).bridge.errPath = s.bridge.errPath := rfl
@[simp] theorem State.takeProxy_bridge_errStatus (o : Origin) : (s.takeProxy o).bridge.errStatus = s.bridge.errStatus := rfl
@[simp] theorem State.takeProxy_bridge_errCount (o : Origin) : (s.takeProxy o).bridge.errCount = s.bridge.errCount := rfl
@[simp] theorem State.takeProxy_bridge_errAddr (o : Origin) : (s.takeProxy o).bridge.errAddr = s.bridge.errAddr := rfl
@[simp] theorem State.takeProxy_bridge_errAddrLatch (o : Origin) : (s.takeProxy o).bridge.errAddrLatch = s.bridge.errAddrLatch := rfl
@[simp] theorem State.takeProxy_bridge_mboxGo (o : Origin) : (s.takeProxy o).bridge.mboxGo = s.bridge.mboxGo := rfl
@[simp] theorem State.takeProxy_bridge_posted (o : Origin) : (s.takeProxy o).bridge.posted = s.bridge.posted := rfl

/-! ### unpost -/

@[simp] theorem State.unpost_pending (u : SlowUnit) : (s.unpost u).pending = s.pending := rfl
@[simp] theorem State.unpost_fab (u : SlowUnit) : (s.unpost u).fab = s.fab := rfl
@[simp] theorem State.unpost_credit (u : SlowUnit) : (s.unpost u).credit = s.credit := rfl
@[simp] theorem State.unpost_light (u : SlowUnit) : (s.unpost u).light = s.light := rfl
@[simp] theorem State.unpost_hash (u : SlowUnit) : (s.unpost u).hash = s.hash := rfl
@[simp] theorem State.unpost_mem (u : SlowUnit) : (s.unpost u).mem = s.mem := rfl
@[simp] theorem State.unpost_rem (u : SlowUnit) : (s.unpost u).rem = s.rem := rfl
@[simp] theorem State.unpost_cores (u : SlowUnit) : (s.unpost u).cores = s.cores := rfl
@[simp] theorem State.unpost_time (u : SlowUnit) : (s.unpost u).time = s.time := rfl
@[simp] theorem State.unpost_sows (u : SlowUnit) : (s.unpost u).sows = s.sows := rfl
@[simp] theorem State.unpost_sheaves (u : SlowUnit) : (s.unpost u).sheaves = s.sheaves := rfl
@[simp] theorem State.unpost_ports (u : SlowUnit) : (s.unpost u).ports = s.ports := rfl
@[simp] theorem State.unpost_plat (u : SlowUnit) : (s.unpost u).plat = s.plat := rfl
@[simp] theorem State.unpost_group (u : SlowUnit) : (s.unpost u).group = s.group := rfl
@[simp] theorem State.unpost_notices (u : SlowUnit) : (s.unpost u).notices = s.notices := rfl
@[simp] theorem State.unpost_power (u : SlowUnit) : (s.unpost u).power = s.power := rfl
@[simp] theorem State.unpost_resets (u : SlowUnit) : (s.unpost u).resets = s.resets := rfl
@[simp] theorem State.unpost_warden (u : SlowUnit) : (s.unpost u).warden = s.warden := rfl
@[simp] theorem State.unpost_test (u : SlowUnit) : (s.unpost u).test = s.test := rfl
@[simp] theorem State.unpost_out (u : SlowUnit) : (s.unpost u).out = s.out := rfl
@[simp] theorem State.unpost_reloaded (u : SlowUnit) : (s.unpost u).reloaded = s.reloaded := rfl
@[simp] theorem State.unpost_drawn (u : SlowUnit) : (s.unpost u).drawn = s.drawn := rfl
@[simp] theorem State.unpost_bridge_hoppers (u : SlowUnit) : (s.unpost u).bridge.hoppers = s.bridge.hoppers := rfl
@[simp] theorem State.unpost_bridge_rings (u : SlowUnit) : (s.unpost u).bridge.rings = s.bridge.rings := rfl
@[simp] theorem State.unpost_bridge_waiting (u : SlowUnit) : (s.unpost u).bridge.waiting = s.bridge.waiting := rfl
@[simp] theorem State.unpost_bridge_inbox (u : SlowUnit) : (s.unpost u).bridge.inbox = s.bridge.inbox := rfl
@[simp] theorem State.unpost_bridge_mboxCmd (u : SlowUnit) : (s.unpost u).bridge.mboxCmd = s.bridge.mboxCmd := rfl
@[simp] theorem State.unpost_bridge_mboxState (u : SlowUnit) : (s.unpost u).bridge.mboxState = s.bridge.mboxState := rfl
@[simp] theorem State.unpost_bridge_mboxResult (u : SlowUnit) : (s.unpost u).bridge.mboxResult = s.bridge.mboxResult := rfl
@[simp] theorem State.unpost_bridge_proxies (u : SlowUnit) : (s.unpost u).bridge.proxies = s.bridge.proxies := rfl
@[simp] theorem State.unpost_bridge_errValid (u : SlowUnit) : (s.unpost u).bridge.errValid = s.bridge.errValid := rfl
@[simp] theorem State.unpost_bridge_errPath (u : SlowUnit) : (s.unpost u).bridge.errPath = s.bridge.errPath := rfl
@[simp] theorem State.unpost_bridge_errStatus (u : SlowUnit) : (s.unpost u).bridge.errStatus = s.bridge.errStatus := rfl
@[simp] theorem State.unpost_bridge_errCount (u : SlowUnit) : (s.unpost u).bridge.errCount = s.bridge.errCount := rfl
@[simp] theorem State.unpost_bridge_errAddr (u : SlowUnit) : (s.unpost u).bridge.errAddr = s.bridge.errAddr := rfl
@[simp] theorem State.unpost_bridge_errAddrLatch (u : SlowUnit) : (s.unpost u).bridge.errAddrLatch = s.bridge.errAddrLatch := rfl
@[simp] theorem State.unpost_bridge_mboxGo (u : SlowUnit) : (s.unpost u).bridge.mboxGo = s.bridge.mboxGo := rfl

/-! ### modBond -/

@[simp] theorem State.modBond_pending (a b : Nat) (f : Bond → Bond) : (s.modBond a b f).pending = s.pending := rfl
@[simp] theorem State.modBond_fab (a b : Nat) (f : Bond → Bond) : (s.modBond a b f).fab = s.fab := rfl
@[simp] theorem State.modBond_credit (a b : Nat) (f : Bond → Bond) : (s.modBond a b f).credit = s.credit := rfl
@[simp] theorem State.modBond_light (a b : Nat) (f : Bond → Bond) : (s.modBond a b f).light = s.light := rfl
@[simp] theorem State.modBond_hash (a b : Nat) (f : Bond → Bond) : (s.modBond a b f).hash = s.hash := rfl
@[simp] theorem State.modBond_mem (a b : Nat) (f : Bond → Bond) : (s.modBond a b f).mem = s.mem := rfl
@[simp] theorem State.modBond_rem (a b : Nat) (f : Bond → Bond) : (s.modBond a b f).rem = s.rem := rfl
@[simp] theorem State.modBond_cores (a b : Nat) (f : Bond → Bond) : (s.modBond a b f).cores = s.cores := rfl
@[simp] theorem State.modBond_time (a b : Nat) (f : Bond → Bond) : (s.modBond a b f).time = s.time := rfl
@[simp] theorem State.modBond_sows (a b : Nat) (f : Bond → Bond) : (s.modBond a b f).sows = s.sows := rfl
@[simp] theorem State.modBond_sheaves (a b : Nat) (f : Bond → Bond) : (s.modBond a b f).sheaves = s.sheaves := rfl
@[simp] theorem State.modBond_ports (a b : Nat) (f : Bond → Bond) : (s.modBond a b f).ports = s.ports := rfl
@[simp] theorem State.modBond_plat (a b : Nat) (f : Bond → Bond) : (s.modBond a b f).plat = s.plat := rfl
@[simp] theorem State.modBond_group (a b : Nat) (f : Bond → Bond) : (s.modBond a b f).group = s.group := rfl
@[simp] theorem State.modBond_bridge (a b : Nat) (f : Bond → Bond) : (s.modBond a b f).bridge = s.bridge := rfl
@[simp] theorem State.modBond_notices (a b : Nat) (f : Bond → Bond) : (s.modBond a b f).notices = s.notices := rfl
@[simp] theorem State.modBond_resets (a b : Nat) (f : Bond → Bond) : (s.modBond a b f).resets = s.resets := rfl
@[simp] theorem State.modBond_warden (a b : Nat) (f : Bond → Bond) : (s.modBond a b f).warden = s.warden := rfl
@[simp] theorem State.modBond_test (a b : Nat) (f : Bond → Bond) : (s.modBond a b f).test = s.test := rfl
@[simp] theorem State.modBond_out (a b : Nat) (f : Bond → Bond) : (s.modBond a b f).out = s.out := rfl
@[simp] theorem State.modBond_reloaded (a b : Nat) (f : Bond → Bond) : (s.modBond a b f).reloaded = s.reloaded := rfl
@[simp] theorem State.modBond_drawn (a b : Nat) (f : Bond → Bond) : (s.modBond a b f).drawn = s.drawn := rfl
@[simp] theorem State.modBond_power_regions (a b : Nat) (f : Bond → Bond) : (s.modBond a b f).power.regions = s.power.regions := rfl
@[simp] theorem State.modBond_power_dies (a b : Nat) (f : Bond → Bond) : (s.modBond a b f).power.dies = s.power.dies := rfl
@[simp] theorem State.modBond_power_mode (a b : Nat) (f : Bond → Bond) : (s.modBond a b f).power.mode = s.power.mode := rfl
@[simp] theorem State.modBond_power_fallback (a b : Nat) (f : Bond → Bond) : (s.modBond a b f).power.fallback = s.power.fallback := rfl
@[simp] theorem State.modBond_power_limit (a b : Nat) (f : Bond → Bond) : (s.modBond a b f).power.limit = s.power.limit := rfl
@[simp] theorem State.modBond_power_pkgWin (a b : Nat) (f : Bond → Bond) : (s.modBond a b f).power.pkgWin = s.power.pkgWin := rfl
@[simp] theorem State.modBond_power_pkgAvg (a b : Nat) (f : Bond → Bond) : (s.modBond a b f).power.pkgAvg = s.power.pkgAvg := rfl
@[simp] theorem State.modBond_power_excur (a b : Nat) (f : Bond → Bond) : (s.modBond a b f).power.excur = s.power.excur := rfl
@[simp] theorem State.modBond_power_cuts (a b : Nat) (f : Bond → Bond) : (s.modBond a b f).power.cuts = s.power.cuts := rfl
@[simp] theorem State.modBond_power_cutAt (a b : Nat) (f : Bond → Bond) : (s.modBond a b f).power.cutAt = s.power.cutAt := rfl
@[simp] theorem State.modBond_power_sleepLg (a b : Nat) (f : Bond → Bond) : (s.modBond a b f).power.sleepLg = s.power.sleepLg := rfl
@[simp] theorem State.modBond_power_sleepDies (a b : Nat) (f : Bond → Bond) : (s.modBond a b f).power.sleepDies = s.power.sleepDies := rfl
@[simp] theorem State.modBond_power_sleepPorts (a b : Nat) (f : Bond → Bond) : (s.modBond a b f).power.sleepPorts = s.power.sleepPorts := rfl
@[simp] theorem State.modBond_power_dieCap (a b : Nat) (f : Bond → Bond) : (s.modBond a b f).power.dieCap = s.power.dieCap := rfl
@[simp] theorem State.modBond_power_cd (a b : Nat) (f : Bond → Bond) : (s.modBond a b f).power.cd = s.power.cd := rfl
@[simp] theorem State.modBond_power_kd (a b : Nat) (f : Bond → Bond) : (s.modBond a b f).power.kd = s.power.kd := rfl
@[simp] theorem State.modBond_power_field (a b : Nat) (f : Bond → Bond) : (s.modBond a b f).power.field = s.power.field := rfl
@[simp] theorem State.modBond_power_tripValid (a b : Nat) (f : Bond → Bond) : (s.modBond a b f).power.tripValid = s.power.tripValid := rfl
@[simp] theorem State.modBond_power_tripKind (a b : Nat) (f : Bond → Bond) : (s.modBond a b f).power.tripKind = s.power.tripKind := rfl
@[simp] theorem State.modBond_power_tripIndex (a b : Nat) (f : Bond → Bond) : (s.modBond a b f).power.tripIndex = s.power.tripIndex := rfl
@[simp] theorem State.modBond_power_tripTemp (a b : Nat) (f : Bond → Bond) : (s.modBond a b f).power.tripTemp = s.power.tripTemp := rfl
@[simp] theorem State.modBond_power_tripCount (a b : Nat) (f : Bond → Bond) : (s.modBond a b f).power.tripCount = s.power.tripCount := rfl
@[simp] theorem State.modBond_power_thermtrip (a b : Nat) (f : Bond → Bond) : (s.modBond a b f).power.thermtrip = s.power.thermtrip := rfl
@[simp] theorem State.modBond_power_tripped (a b : Nat) (f : Bond → Bond) : (s.modBond a b f).power.tripped = s.power.tripped := rfl
@[simp] theorem State.modBond_power_railMa (a b : Nat) (f : Bond → Bond) : (s.modBond a b f).power.railMa = s.power.railMa := rfl
@[simp] theorem State.modBond_power_railMv (a b : Nat) (f : Bond → Bond) : (s.modBond a b f).power.railMv = s.power.railMv := rfl
@[simp] theorem State.modBond_power_sensors (a b : Nat) (f : Bond → Bond) : (s.modBond a b f).power.sensors = s.power.sensors := rfl

/-! ### modRegion -/

@[simp] theorem State.modRegion_pending (a : Nat) (f : Region → Region) : (s.modRegion a f).pending = s.pending := rfl
@[simp] theorem State.modRegion_fab (a : Nat) (f : Region → Region) : (s.modRegion a f).fab = s.fab := rfl
@[simp] theorem State.modRegion_credit (a : Nat) (f : Region → Region) : (s.modRegion a f).credit = s.credit := rfl
@[simp] theorem State.modRegion_light (a : Nat) (f : Region → Region) : (s.modRegion a f).light = s.light := rfl
@[simp] theorem State.modRegion_hash (a : Nat) (f : Region → Region) : (s.modRegion a f).hash = s.hash := rfl
@[simp] theorem State.modRegion_mem (a : Nat) (f : Region → Region) : (s.modRegion a f).mem = s.mem := rfl
@[simp] theorem State.modRegion_rem (a : Nat) (f : Region → Region) : (s.modRegion a f).rem = s.rem := rfl
@[simp] theorem State.modRegion_cores (a : Nat) (f : Region → Region) : (s.modRegion a f).cores = s.cores := rfl
@[simp] theorem State.modRegion_time (a : Nat) (f : Region → Region) : (s.modRegion a f).time = s.time := rfl
@[simp] theorem State.modRegion_sows (a : Nat) (f : Region → Region) : (s.modRegion a f).sows = s.sows := rfl
@[simp] theorem State.modRegion_sheaves (a : Nat) (f : Region → Region) : (s.modRegion a f).sheaves = s.sheaves := rfl
@[simp] theorem State.modRegion_ports (a : Nat) (f : Region → Region) : (s.modRegion a f).ports = s.ports := rfl
@[simp] theorem State.modRegion_plat (a : Nat) (f : Region → Region) : (s.modRegion a f).plat = s.plat := rfl
@[simp] theorem State.modRegion_group (a : Nat) (f : Region → Region) : (s.modRegion a f).group = s.group := rfl
@[simp] theorem State.modRegion_bridge (a : Nat) (f : Region → Region) : (s.modRegion a f).bridge = s.bridge := rfl
@[simp] theorem State.modRegion_notices (a : Nat) (f : Region → Region) : (s.modRegion a f).notices = s.notices := rfl
@[simp] theorem State.modRegion_resets (a : Nat) (f : Region → Region) : (s.modRegion a f).resets = s.resets := rfl
@[simp] theorem State.modRegion_warden (a : Nat) (f : Region → Region) : (s.modRegion a f).warden = s.warden := rfl
@[simp] theorem State.modRegion_test (a : Nat) (f : Region → Region) : (s.modRegion a f).test = s.test := rfl
@[simp] theorem State.modRegion_out (a : Nat) (f : Region → Region) : (s.modRegion a f).out = s.out := rfl
@[simp] theorem State.modRegion_reloaded (a : Nat) (f : Region → Region) : (s.modRegion a f).reloaded = s.reloaded := rfl
@[simp] theorem State.modRegion_drawn (a : Nat) (f : Region → Region) : (s.modRegion a f).drawn = s.drawn := rfl
@[simp] theorem State.modRegion_power_bonds (a : Nat) (f : Region → Region) : (s.modRegion a f).power.bonds = s.power.bonds := rfl
@[simp] theorem State.modRegion_power_dies (a : Nat) (f : Region → Region) : (s.modRegion a f).power.dies = s.power.dies := rfl
@[simp] theorem State.modRegion_power_mode (a : Nat) (f : Region → Region) : (s.modRegion a f).power.mode = s.power.mode := rfl
@[simp] theorem State.modRegion_power_fallback (a : Nat) (f : Region → Region) : (s.modRegion a f).power.fallback = s.power.fallback := rfl
@[simp] theorem State.modRegion_power_limit (a : Nat) (f : Region → Region) : (s.modRegion a f).power.limit = s.power.limit := rfl
@[simp] theorem State.modRegion_power_pkgWin (a : Nat) (f : Region → Region) : (s.modRegion a f).power.pkgWin = s.power.pkgWin := rfl
@[simp] theorem State.modRegion_power_pkgAvg (a : Nat) (f : Region → Region) : (s.modRegion a f).power.pkgAvg = s.power.pkgAvg := rfl
@[simp] theorem State.modRegion_power_excur (a : Nat) (f : Region → Region) : (s.modRegion a f).power.excur = s.power.excur := rfl
@[simp] theorem State.modRegion_power_cuts (a : Nat) (f : Region → Region) : (s.modRegion a f).power.cuts = s.power.cuts := rfl
@[simp] theorem State.modRegion_power_cutAt (a : Nat) (f : Region → Region) : (s.modRegion a f).power.cutAt = s.power.cutAt := rfl
@[simp] theorem State.modRegion_power_sleepLg (a : Nat) (f : Region → Region) : (s.modRegion a f).power.sleepLg = s.power.sleepLg := rfl
@[simp] theorem State.modRegion_power_sleepDies (a : Nat) (f : Region → Region) : (s.modRegion a f).power.sleepDies = s.power.sleepDies := rfl
@[simp] theorem State.modRegion_power_sleepPorts (a : Nat) (f : Region → Region) : (s.modRegion a f).power.sleepPorts = s.power.sleepPorts := rfl
@[simp] theorem State.modRegion_power_dieCap (a : Nat) (f : Region → Region) : (s.modRegion a f).power.dieCap = s.power.dieCap := rfl
@[simp] theorem State.modRegion_power_cd (a : Nat) (f : Region → Region) : (s.modRegion a f).power.cd = s.power.cd := rfl
@[simp] theorem State.modRegion_power_kd (a : Nat) (f : Region → Region) : (s.modRegion a f).power.kd = s.power.kd := rfl
@[simp] theorem State.modRegion_power_field (a : Nat) (f : Region → Region) : (s.modRegion a f).power.field = s.power.field := rfl
@[simp] theorem State.modRegion_power_tripValid (a : Nat) (f : Region → Region) : (s.modRegion a f).power.tripValid = s.power.tripValid := rfl
@[simp] theorem State.modRegion_power_tripKind (a : Nat) (f : Region → Region) : (s.modRegion a f).power.tripKind = s.power.tripKind := rfl
@[simp] theorem State.modRegion_power_tripIndex (a : Nat) (f : Region → Region) : (s.modRegion a f).power.tripIndex = s.power.tripIndex := rfl
@[simp] theorem State.modRegion_power_tripTemp (a : Nat) (f : Region → Region) : (s.modRegion a f).power.tripTemp = s.power.tripTemp := rfl
@[simp] theorem State.modRegion_power_tripCount (a : Nat) (f : Region → Region) : (s.modRegion a f).power.tripCount = s.power.tripCount := rfl
@[simp] theorem State.modRegion_power_thermtrip (a : Nat) (f : Region → Region) : (s.modRegion a f).power.thermtrip = s.power.thermtrip := rfl
@[simp] theorem State.modRegion_power_tripped (a : Nat) (f : Region → Region) : (s.modRegion a f).power.tripped = s.power.tripped := rfl
@[simp] theorem State.modRegion_power_railMa (a : Nat) (f : Region → Region) : (s.modRegion a f).power.railMa = s.power.railMa := rfl
@[simp] theorem State.modRegion_power_railMv (a : Nat) (f : Region → Region) : (s.modRegion a f).power.railMv = s.power.railMv := rfl
@[simp] theorem State.modRegion_power_sensors (a : Nat) (f : Region → Region) : (s.modRegion a f).power.sensors = s.power.sensors := rfl

/-! ### modDiePower -/

@[simp] theorem State.modDiePower_pending (a : Nat) (f : DiePower → DiePower) : (s.modDiePower a f).pending = s.pending := rfl
@[simp] theorem State.modDiePower_fab (a : Nat) (f : DiePower → DiePower) : (s.modDiePower a f).fab = s.fab := rfl
@[simp] theorem State.modDiePower_credit (a : Nat) (f : DiePower → DiePower) : (s.modDiePower a f).credit = s.credit := rfl
@[simp] theorem State.modDiePower_light (a : Nat) (f : DiePower → DiePower) : (s.modDiePower a f).light = s.light := rfl
@[simp] theorem State.modDiePower_hash (a : Nat) (f : DiePower → DiePower) : (s.modDiePower a f).hash = s.hash := rfl
@[simp] theorem State.modDiePower_mem (a : Nat) (f : DiePower → DiePower) : (s.modDiePower a f).mem = s.mem := rfl
@[simp] theorem State.modDiePower_rem (a : Nat) (f : DiePower → DiePower) : (s.modDiePower a f).rem = s.rem := rfl
@[simp] theorem State.modDiePower_cores (a : Nat) (f : DiePower → DiePower) : (s.modDiePower a f).cores = s.cores := rfl
@[simp] theorem State.modDiePower_time (a : Nat) (f : DiePower → DiePower) : (s.modDiePower a f).time = s.time := rfl
@[simp] theorem State.modDiePower_sows (a : Nat) (f : DiePower → DiePower) : (s.modDiePower a f).sows = s.sows := rfl
@[simp] theorem State.modDiePower_sheaves (a : Nat) (f : DiePower → DiePower) : (s.modDiePower a f).sheaves = s.sheaves := rfl
@[simp] theorem State.modDiePower_ports (a : Nat) (f : DiePower → DiePower) : (s.modDiePower a f).ports = s.ports := rfl
@[simp] theorem State.modDiePower_plat (a : Nat) (f : DiePower → DiePower) : (s.modDiePower a f).plat = s.plat := rfl
@[simp] theorem State.modDiePower_group (a : Nat) (f : DiePower → DiePower) : (s.modDiePower a f).group = s.group := rfl
@[simp] theorem State.modDiePower_bridge (a : Nat) (f : DiePower → DiePower) : (s.modDiePower a f).bridge = s.bridge := rfl
@[simp] theorem State.modDiePower_notices (a : Nat) (f : DiePower → DiePower) : (s.modDiePower a f).notices = s.notices := rfl
@[simp] theorem State.modDiePower_resets (a : Nat) (f : DiePower → DiePower) : (s.modDiePower a f).resets = s.resets := rfl
@[simp] theorem State.modDiePower_warden (a : Nat) (f : DiePower → DiePower) : (s.modDiePower a f).warden = s.warden := rfl
@[simp] theorem State.modDiePower_test (a : Nat) (f : DiePower → DiePower) : (s.modDiePower a f).test = s.test := rfl
@[simp] theorem State.modDiePower_out (a : Nat) (f : DiePower → DiePower) : (s.modDiePower a f).out = s.out := rfl
@[simp] theorem State.modDiePower_reloaded (a : Nat) (f : DiePower → DiePower) : (s.modDiePower a f).reloaded = s.reloaded := rfl
@[simp] theorem State.modDiePower_drawn (a : Nat) (f : DiePower → DiePower) : (s.modDiePower a f).drawn = s.drawn := rfl
@[simp] theorem State.modDiePower_power_bonds (a : Nat) (f : DiePower → DiePower) : (s.modDiePower a f).power.bonds = s.power.bonds := rfl
@[simp] theorem State.modDiePower_power_regions (a : Nat) (f : DiePower → DiePower) : (s.modDiePower a f).power.regions = s.power.regions := rfl
@[simp] theorem State.modDiePower_power_mode (a : Nat) (f : DiePower → DiePower) : (s.modDiePower a f).power.mode = s.power.mode := rfl
@[simp] theorem State.modDiePower_power_fallback (a : Nat) (f : DiePower → DiePower) : (s.modDiePower a f).power.fallback = s.power.fallback := rfl
@[simp] theorem State.modDiePower_power_limit (a : Nat) (f : DiePower → DiePower) : (s.modDiePower a f).power.limit = s.power.limit := rfl
@[simp] theorem State.modDiePower_power_pkgWin (a : Nat) (f : DiePower → DiePower) : (s.modDiePower a f).power.pkgWin = s.power.pkgWin := rfl
@[simp] theorem State.modDiePower_power_pkgAvg (a : Nat) (f : DiePower → DiePower) : (s.modDiePower a f).power.pkgAvg = s.power.pkgAvg := rfl
@[simp] theorem State.modDiePower_power_excur (a : Nat) (f : DiePower → DiePower) : (s.modDiePower a f).power.excur = s.power.excur := rfl
@[simp] theorem State.modDiePower_power_cuts (a : Nat) (f : DiePower → DiePower) : (s.modDiePower a f).power.cuts = s.power.cuts := rfl
@[simp] theorem State.modDiePower_power_cutAt (a : Nat) (f : DiePower → DiePower) : (s.modDiePower a f).power.cutAt = s.power.cutAt := rfl
@[simp] theorem State.modDiePower_power_sleepLg (a : Nat) (f : DiePower → DiePower) : (s.modDiePower a f).power.sleepLg = s.power.sleepLg := rfl
@[simp] theorem State.modDiePower_power_sleepDies (a : Nat) (f : DiePower → DiePower) : (s.modDiePower a f).power.sleepDies = s.power.sleepDies := rfl
@[simp] theorem State.modDiePower_power_sleepPorts (a : Nat) (f : DiePower → DiePower) : (s.modDiePower a f).power.sleepPorts = s.power.sleepPorts := rfl
@[simp] theorem State.modDiePower_power_dieCap (a : Nat) (f : DiePower → DiePower) : (s.modDiePower a f).power.dieCap = s.power.dieCap := rfl
@[simp] theorem State.modDiePower_power_cd (a : Nat) (f : DiePower → DiePower) : (s.modDiePower a f).power.cd = s.power.cd := rfl
@[simp] theorem State.modDiePower_power_kd (a : Nat) (f : DiePower → DiePower) : (s.modDiePower a f).power.kd = s.power.kd := rfl
@[simp] theorem State.modDiePower_power_field (a : Nat) (f : DiePower → DiePower) : (s.modDiePower a f).power.field = s.power.field := rfl
@[simp] theorem State.modDiePower_power_tripValid (a : Nat) (f : DiePower → DiePower) : (s.modDiePower a f).power.tripValid = s.power.tripValid := rfl
@[simp] theorem State.modDiePower_power_tripKind (a : Nat) (f : DiePower → DiePower) : (s.modDiePower a f).power.tripKind = s.power.tripKind := rfl
@[simp] theorem State.modDiePower_power_tripIndex (a : Nat) (f : DiePower → DiePower) : (s.modDiePower a f).power.tripIndex = s.power.tripIndex := rfl
@[simp] theorem State.modDiePower_power_tripTemp (a : Nat) (f : DiePower → DiePower) : (s.modDiePower a f).power.tripTemp = s.power.tripTemp := rfl
@[simp] theorem State.modDiePower_power_tripCount (a : Nat) (f : DiePower → DiePower) : (s.modDiePower a f).power.tripCount = s.power.tripCount := rfl
@[simp] theorem State.modDiePower_power_thermtrip (a : Nat) (f : DiePower → DiePower) : (s.modDiePower a f).power.thermtrip = s.power.thermtrip := rfl
@[simp] theorem State.modDiePower_power_tripped (a : Nat) (f : DiePower → DiePower) : (s.modDiePower a f).power.tripped = s.power.tripped := rfl
@[simp] theorem State.modDiePower_power_railMa (a : Nat) (f : DiePower → DiePower) : (s.modDiePower a f).power.railMa = s.power.railMa := rfl
@[simp] theorem State.modDiePower_power_railMv (a : Nat) (f : DiePower → DiePower) : (s.modDiePower a f).power.railMv = s.power.railMv := rfl
@[simp] theorem State.modDiePower_power_sensors (a : Nat) (f : DiePower → DiePower) : (s.modDiePower a f).power.sensors = s.power.sensors := rfl

/-! ### modField -/

@[simp] theorem State.modField_pending (a : Nat) (f : FieldUnit → FieldUnit) : (s.modField a f).pending = s.pending := rfl
@[simp] theorem State.modField_fab (a : Nat) (f : FieldUnit → FieldUnit) : (s.modField a f).fab = s.fab := rfl
@[simp] theorem State.modField_credit (a : Nat) (f : FieldUnit → FieldUnit) : (s.modField a f).credit = s.credit := rfl
@[simp] theorem State.modField_light (a : Nat) (f : FieldUnit → FieldUnit) : (s.modField a f).light = s.light := rfl
@[simp] theorem State.modField_hash (a : Nat) (f : FieldUnit → FieldUnit) : (s.modField a f).hash = s.hash := rfl
@[simp] theorem State.modField_mem (a : Nat) (f : FieldUnit → FieldUnit) : (s.modField a f).mem = s.mem := rfl
@[simp] theorem State.modField_rem (a : Nat) (f : FieldUnit → FieldUnit) : (s.modField a f).rem = s.rem := rfl
@[simp] theorem State.modField_cores (a : Nat) (f : FieldUnit → FieldUnit) : (s.modField a f).cores = s.cores := rfl
@[simp] theorem State.modField_time (a : Nat) (f : FieldUnit → FieldUnit) : (s.modField a f).time = s.time := rfl
@[simp] theorem State.modField_sows (a : Nat) (f : FieldUnit → FieldUnit) : (s.modField a f).sows = s.sows := rfl
@[simp] theorem State.modField_sheaves (a : Nat) (f : FieldUnit → FieldUnit) : (s.modField a f).sheaves = s.sheaves := rfl
@[simp] theorem State.modField_ports (a : Nat) (f : FieldUnit → FieldUnit) : (s.modField a f).ports = s.ports := rfl
@[simp] theorem State.modField_plat (a : Nat) (f : FieldUnit → FieldUnit) : (s.modField a f).plat = s.plat := rfl
@[simp] theorem State.modField_group (a : Nat) (f : FieldUnit → FieldUnit) : (s.modField a f).group = s.group := rfl
@[simp] theorem State.modField_bridge (a : Nat) (f : FieldUnit → FieldUnit) : (s.modField a f).bridge = s.bridge := rfl
@[simp] theorem State.modField_notices (a : Nat) (f : FieldUnit → FieldUnit) : (s.modField a f).notices = s.notices := rfl
@[simp] theorem State.modField_power (a : Nat) (f : FieldUnit → FieldUnit) : (s.modField a f).power = s.power := rfl
@[simp] theorem State.modField_warden (a : Nat) (f : FieldUnit → FieldUnit) : (s.modField a f).warden = s.warden := rfl
@[simp] theorem State.modField_test (a : Nat) (f : FieldUnit → FieldUnit) : (s.modField a f).test = s.test := rfl
@[simp] theorem State.modField_out (a : Nat) (f : FieldUnit → FieldUnit) : (s.modField a f).out = s.out := rfl
@[simp] theorem State.modField_reloaded (a : Nat) (f : FieldUnit → FieldUnit) : (s.modField a f).reloaded = s.reloaded := rfl
@[simp] theorem State.modField_drawn (a : Nat) (f : FieldUnit → FieldUnit) : (s.modField a f).drawn = s.drawn := rfl
@[simp] theorem State.modField_resets_phase (a : Nat) (f : FieldUnit → FieldUnit) : (s.modField a f).resets.phase = s.resets.phase := rfl
@[simp] theorem State.modField_resets_cause (a : Nat) (f : FieldUnit → FieldUnit) : (s.modField a f).resets.cause = s.resets.cause := rfl
@[simp] theorem State.modField_resets_warmCnt (a : Nat) (f : FieldUnit → FieldUnit) : (s.modField a f).resets.warmCnt = s.resets.warmCnt := rfl
@[simp] theorem State.modField_resets_dies (a : Nat) (f : FieldUnit → FieldUnit) : (s.modField a f).resets.dies = s.resets.dies := rfl
@[simp] theorem State.modField_resets_mcLost (a : Nat) (f : FieldUnit → FieldUnit) : (s.modField a f).resets.mcLost = s.resets.mcLost := rfl
@[simp] theorem State.modField_resets_endDead (a : Nat) (f : FieldUnit → FieldUnit) : (s.modField a f).resets.endDead = s.resets.endDead := rfl
@[simp] theorem State.modField_resets_mergeLost (a : Nat) (f : FieldUnit → FieldUnit) : (s.modField a f).resets.mergeLost = s.resets.mergeLost := rfl
@[simp] theorem State.modField_resets_smbAddr (a : Nat) (f : FieldUnit → FieldUnit) : (s.modField a f).resets.smbAddr = s.resets.smbAddr := rfl
@[simp] theorem State.modField_resets_flashOwn (a : Nat) (f : FieldUnit → FieldUnit) : (s.modField a f).resets.flashOwn = s.resets.flashOwn := rfl

/-! ### modDie -/

@[simp] theorem State.modDie_pending (a : Nat) (f : DieUnit → DieUnit) : (s.modDie a f).pending = s.pending := rfl
@[simp] theorem State.modDie_fab (a : Nat) (f : DieUnit → DieUnit) : (s.modDie a f).fab = s.fab := rfl
@[simp] theorem State.modDie_credit (a : Nat) (f : DieUnit → DieUnit) : (s.modDie a f).credit = s.credit := rfl
@[simp] theorem State.modDie_light (a : Nat) (f : DieUnit → DieUnit) : (s.modDie a f).light = s.light := rfl
@[simp] theorem State.modDie_hash (a : Nat) (f : DieUnit → DieUnit) : (s.modDie a f).hash = s.hash := rfl
@[simp] theorem State.modDie_mem (a : Nat) (f : DieUnit → DieUnit) : (s.modDie a f).mem = s.mem := rfl
@[simp] theorem State.modDie_rem (a : Nat) (f : DieUnit → DieUnit) : (s.modDie a f).rem = s.rem := rfl
@[simp] theorem State.modDie_cores (a : Nat) (f : DieUnit → DieUnit) : (s.modDie a f).cores = s.cores := rfl
@[simp] theorem State.modDie_time (a : Nat) (f : DieUnit → DieUnit) : (s.modDie a f).time = s.time := rfl
@[simp] theorem State.modDie_sows (a : Nat) (f : DieUnit → DieUnit) : (s.modDie a f).sows = s.sows := rfl
@[simp] theorem State.modDie_sheaves (a : Nat) (f : DieUnit → DieUnit) : (s.modDie a f).sheaves = s.sheaves := rfl
@[simp] theorem State.modDie_ports (a : Nat) (f : DieUnit → DieUnit) : (s.modDie a f).ports = s.ports := rfl
@[simp] theorem State.modDie_plat (a : Nat) (f : DieUnit → DieUnit) : (s.modDie a f).plat = s.plat := rfl
@[simp] theorem State.modDie_group (a : Nat) (f : DieUnit → DieUnit) : (s.modDie a f).group = s.group := rfl
@[simp] theorem State.modDie_bridge (a : Nat) (f : DieUnit → DieUnit) : (s.modDie a f).bridge = s.bridge := rfl
@[simp] theorem State.modDie_notices (a : Nat) (f : DieUnit → DieUnit) : (s.modDie a f).notices = s.notices := rfl
@[simp] theorem State.modDie_power (a : Nat) (f : DieUnit → DieUnit) : (s.modDie a f).power = s.power := rfl
@[simp] theorem State.modDie_warden (a : Nat) (f : DieUnit → DieUnit) : (s.modDie a f).warden = s.warden := rfl
@[simp] theorem State.modDie_test (a : Nat) (f : DieUnit → DieUnit) : (s.modDie a f).test = s.test := rfl
@[simp] theorem State.modDie_out (a : Nat) (f : DieUnit → DieUnit) : (s.modDie a f).out = s.out := rfl
@[simp] theorem State.modDie_reloaded (a : Nat) (f : DieUnit → DieUnit) : (s.modDie a f).reloaded = s.reloaded := rfl
@[simp] theorem State.modDie_drawn (a : Nat) (f : DieUnit → DieUnit) : (s.modDie a f).drawn = s.drawn := rfl
@[simp] theorem State.modDie_resets_phase (a : Nat) (f : DieUnit → DieUnit) : (s.modDie a f).resets.phase = s.resets.phase := rfl
@[simp] theorem State.modDie_resets_cause (a : Nat) (f : DieUnit → DieUnit) : (s.modDie a f).resets.cause = s.resets.cause := rfl
@[simp] theorem State.modDie_resets_warmCnt (a : Nat) (f : DieUnit → DieUnit) : (s.modDie a f).resets.warmCnt = s.resets.warmCnt := rfl
@[simp] theorem State.modDie_resets_fields (a : Nat) (f : DieUnit → DieUnit) : (s.modDie a f).resets.fields = s.resets.fields := rfl
@[simp] theorem State.modDie_resets_mcLost (a : Nat) (f : DieUnit → DieUnit) : (s.modDie a f).resets.mcLost = s.resets.mcLost := rfl
@[simp] theorem State.modDie_resets_endDead (a : Nat) (f : DieUnit → DieUnit) : (s.modDie a f).resets.endDead = s.resets.endDead := rfl
@[simp] theorem State.modDie_resets_mergeLost (a : Nat) (f : DieUnit → DieUnit) : (s.modDie a f).resets.mergeLost = s.resets.mergeLost := rfl
@[simp] theorem State.modDie_resets_smbAddr (a : Nat) (f : DieUnit → DieUnit) : (s.modDie a f).resets.smbAddr = s.resets.smbAddr := rfl
@[simp] theorem State.modDie_resets_flashOwn (a : Nat) (f : DieUnit → DieUnit) : (s.modDie a f).resets.flashOwn = s.resets.flashOwn := rfl

/-! ### modArea -/

@[simp] theorem State.modArea_pending (a : Nat) (f : Area → Area) : (s.modArea a f).pending = s.pending := rfl
@[simp] theorem State.modArea_fab (a : Nat) (f : Area → Area) : (s.modArea a f).fab = s.fab := rfl
@[simp] theorem State.modArea_credit (a : Nat) (f : Area → Area) : (s.modArea a f).credit = s.credit := rfl
@[simp] theorem State.modArea_light (a : Nat) (f : Area → Area) : (s.modArea a f).light = s.light := rfl
@[simp] theorem State.modArea_hash (a : Nat) (f : Area → Area) : (s.modArea a f).hash = s.hash := rfl
@[simp] theorem State.modArea_mem (a : Nat) (f : Area → Area) : (s.modArea a f).mem = s.mem := rfl
@[simp] theorem State.modArea_rem (a : Nat) (f : Area → Area) : (s.modArea a f).rem = s.rem := rfl
@[simp] theorem State.modArea_cores (a : Nat) (f : Area → Area) : (s.modArea a f).cores = s.cores := rfl
@[simp] theorem State.modArea_time (a : Nat) (f : Area → Area) : (s.modArea a f).time = s.time := rfl
@[simp] theorem State.modArea_sows (a : Nat) (f : Area → Area) : (s.modArea a f).sows = s.sows := rfl
@[simp] theorem State.modArea_sheaves (a : Nat) (f : Area → Area) : (s.modArea a f).sheaves = s.sheaves := rfl
@[simp] theorem State.modArea_ports (a : Nat) (f : Area → Area) : (s.modArea a f).ports = s.ports := rfl
@[simp] theorem State.modArea_plat (a : Nat) (f : Area → Area) : (s.modArea a f).plat = s.plat := rfl
@[simp] theorem State.modArea_group (a : Nat) (f : Area → Area) : (s.modArea a f).group = s.group := rfl
@[simp] theorem State.modArea_bridge (a : Nat) (f : Area → Area) : (s.modArea a f).bridge = s.bridge := rfl
@[simp] theorem State.modArea_notices (a : Nat) (f : Area → Area) : (s.modArea a f).notices = s.notices := rfl
@[simp] theorem State.modArea_power (a : Nat) (f : Area → Area) : (s.modArea a f).power = s.power := rfl
@[simp] theorem State.modArea_resets (a : Nat) (f : Area → Area) : (s.modArea a f).resets = s.resets := rfl
@[simp] theorem State.modArea_test (a : Nat) (f : Area → Area) : (s.modArea a f).test = s.test := rfl
@[simp] theorem State.modArea_out (a : Nat) (f : Area → Area) : (s.modArea a f).out = s.out := rfl
@[simp] theorem State.modArea_reloaded (a : Nat) (f : Area → Area) : (s.modArea a f).reloaded = s.reloaded := rfl
@[simp] theorem State.modArea_drawn (a : Nat) (f : Area → Area) : (s.modArea a f).drawn = s.drawn := rfl
@[simp] theorem State.modArea_warden_serving (a : Nat) (f : Area → Area) : (s.modArea a f).warden.serving = s.warden.serving := rfl
@[simp] theorem State.modArea_warden_restarts (a : Nat) (f : Area → Area) : (s.modArea a f).warden.restarts = s.warden.restarts := rfl
@[simp] theorem State.modArea_warden_restartCause (a : Nat) (f : Area → Area) : (s.modArea a f).warden.restartCause = s.warden.restartCause := rfl
@[simp] theorem State.modArea_warden_log (a : Nat) (f : Area → Area) : (s.modArea a f).warden.log = s.warden.log := rfl
@[simp] theorem State.modArea_warden_logNext (a : Nat) (f : Area → Area) : (s.modArea a f).warden.logNext = s.warden.logNext := rfl
@[simp] theorem State.modArea_warden_flushed (a : Nat) (f : Area → Area) : (s.modArea a f).warden.flushed = s.warden.flushed := rfl
@[simp] theorem State.modArea_warden_logNextHi (a : Nat) (f : Area → Area) : (s.modArea a f).warden.logNextHi = s.warden.logNextHi := rfl
@[simp] theorem State.modArea_warden_perSecond (a : Nat) (f : Area → Area) : (s.modArea a f).warden.perSecond = s.warden.perSecond := rfl
@[simp] theorem State.modArea_warden_slotA (a : Nat) (f : Area → Area) : (s.modArea a f).warden.slotA = s.warden.slotA := rfl
@[simp] theorem State.modArea_warden_slotB (a : Nat) (f : Area → Area) : (s.modArea a f).warden.slotB = s.warden.slotB := rfl
@[simp] theorem State.modArea_warden_activeB (a : Nat) (f : Area → Area) : (s.modArea a f).warden.activeB = s.warden.activeB := rfl
@[simp] theorem State.modArea_warden_switchPending (a : Nat) (f : Area → Area) : (s.modArea a f).warden.switchPending = s.warden.switchPending := rfl
@[simp] theorem State.modArea_warden_trial (a : Nat) (f : Area → Area) : (s.modArea a f).warden.trial = s.warden.trial := rfl
@[simp] theorem State.modArea_warden_failedBoots (a : Nat) (f : Area → Area) : (s.modArea a f).warden.failedBoots = s.warden.failedBoots := rfl
@[simp] theorem State.modArea_warden_svnMin (a : Nat) (f : Area → Area) : (s.modArea a f).warden.svnMin = s.warden.svnMin := rfl
@[simp] theorem State.modArea_warden_staging (a : Nat) (f : Area → Area) : (s.modArea a f).warden.staging = s.warden.staging := rfl
@[simp] theorem State.modArea_warden_lifecycle (a : Nat) (f : Area → Area) : (s.modArea a f).warden.lifecycle = s.warden.lifecycle := rfl
@[simp] theorem State.modArea_warden_lifecycleChanges (a : Nat) (f : Area → Area) : (s.modArea a f).warden.lifecycleChanges = s.warden.lifecycleChanges := rfl
@[simp] theorem State.modArea_warden_tampered (a : Nat) (f : Area → Area) : (s.modArea a f).warden.tampered = s.warden.tampered := rfl
@[simp] theorem State.modArea_warden_tampers (a : Nat) (f : Area → Area) : (s.modArea a f).warden.tampers = s.warden.tampers := rfl
@[simp] theorem State.modArea_warden_lastKind (a : Nat) (f : Area → Area) : (s.modArea a f).warden.lastKind = s.warden.lastKind := rfl
@[simp] theorem State.modArea_warden_seed (a : Nat) (f : Area → Area) : (s.modArea a f).warden.seed = s.warden.seed := rfl
@[simp] theorem State.modArea_warden_nextFree (a : Nat) (f : Area → Area) : (s.modArea a f).warden.nextFree = s.warden.nextFree := rfl
@[simp] theorem State.modArea_warden_leafNext (a : Nat) (f : Area → Area) : (s.modArea a f).warden.leafNext = s.warden.leafNext := rfl
@[simp] theorem State.modArea_warden_leafEnd (a : Nat) (f : Area → Area) : (s.modArea a f).warden.leafEnd = s.warden.leafEnd := rfl
@[simp] theorem State.modArea_warden_attest (a : Nat) (f : Area → Area) : (s.modArea a f).warden.attest = s.warden.attest := rfl
@[simp] theorem State.modArea_warden_missing (a : Nat) (f : Area → Area) : (s.modArea a f).warden.missing = s.warden.missing := rfl
@[simp] theorem State.modArea_warden_wfail (a : Nat) (f : Area → Area) : (s.modArea a f).warden.wfail = s.warden.wfail := rfl
@[simp] theorem State.modArea_warden_writes (a : Nat) (f : Area → Area) : (s.modArea a f).warden.writes = s.warden.writes := rfl
@[simp] theorem State.modArea_warden_snHi (a : Nat) (f : Area → Area) : (s.modArea a f).warden.snHi = s.warden.snHi := rfl
@[simp] theorem State.modArea_warden_tablesRefined (a : Nat) (f : Area → Area) : (s.modArea a f).warden.tablesRefined = s.warden.tablesRefined := rfl
@[simp] theorem State.modArea_warden_tablesAt (a : Nat) (f : Area → Area) : (s.modArea a f).warden.tablesAt = s.warden.tablesAt := rfl
@[simp] theorem State.modArea_warden_fences (a : Nat) (f : Area → Area) : (s.modArea a f).warden.fences = s.warden.fences := rfl
@[simp] theorem State.modArea_warden_storedSpares (a : Nat) (f : Area → Area) : (s.modArea a f).warden.storedSpares = s.warden.storedSpares := rfl
@[simp] theorem State.modArea_warden_sampleFt (a : Nat) (f : Area → Area) : (s.modArea a f).warden.sampleFt = s.warden.sampleFt := rfl
@[simp] theorem State.modArea_warden_incStored (a : Nat) (f : Area → Area) : (s.modArea a f).warden.incStored = s.warden.incStored := rfl
@[simp] theorem State.modArea_warden_tables (a : Nat) (f : Area → Area) : (s.modArea a f).warden.tables = s.warden.tables := rfl
@[simp] theorem State.modArea_warden_storedTables (a : Nat) (f : Area → Area) : (s.modArea a f).warden.storedTables = s.warden.storedTables := rfl
@[simp] theorem State.modArea_warden_laneRepairs (a : Nat) (f : Area → Area) : (s.modArea a f).warden.laneRepairs = s.warden.laneRepairs := rfl

/-! ### markArea -/

@[simp] theorem State.markArea_pending (a : Nat) : (s.markArea a).pending = s.pending := rfl
@[simp] theorem State.markArea_fab (a : Nat) : (s.markArea a).fab = s.fab := rfl
@[simp] theorem State.markArea_credit (a : Nat) : (s.markArea a).credit = s.credit := rfl
@[simp] theorem State.markArea_light (a : Nat) : (s.markArea a).light = s.light := rfl
@[simp] theorem State.markArea_hash (a : Nat) : (s.markArea a).hash = s.hash := rfl
@[simp] theorem State.markArea_mem (a : Nat) : (s.markArea a).mem = s.mem := rfl
@[simp] theorem State.markArea_rem (a : Nat) : (s.markArea a).rem = s.rem := rfl
@[simp] theorem State.markArea_cores (a : Nat) : (s.markArea a).cores = s.cores := rfl
@[simp] theorem State.markArea_time (a : Nat) : (s.markArea a).time = s.time := rfl
@[simp] theorem State.markArea_sows (a : Nat) : (s.markArea a).sows = s.sows := rfl
@[simp] theorem State.markArea_sheaves (a : Nat) : (s.markArea a).sheaves = s.sheaves := rfl
@[simp] theorem State.markArea_ports (a : Nat) : (s.markArea a).ports = s.ports := rfl
@[simp] theorem State.markArea_plat (a : Nat) : (s.markArea a).plat = s.plat := rfl
@[simp] theorem State.markArea_group (a : Nat) : (s.markArea a).group = s.group := rfl
@[simp] theorem State.markArea_bridge (a : Nat) : (s.markArea a).bridge = s.bridge := rfl
@[simp] theorem State.markArea_notices (a : Nat) : (s.markArea a).notices = s.notices := rfl
@[simp] theorem State.markArea_power (a : Nat) : (s.markArea a).power = s.power := rfl
@[simp] theorem State.markArea_resets (a : Nat) : (s.markArea a).resets = s.resets := rfl
@[simp] theorem State.markArea_test (a : Nat) : (s.markArea a).test = s.test := rfl
@[simp] theorem State.markArea_out (a : Nat) : (s.markArea a).out = s.out := rfl
@[simp] theorem State.markArea_reloaded (a : Nat) : (s.markArea a).reloaded = s.reloaded := rfl
@[simp] theorem State.markArea_drawn (a : Nat) : (s.markArea a).drawn = s.drawn := rfl
@[simp] theorem State.markArea_warden_serving (a : Nat) : (s.markArea a).warden.serving = s.warden.serving := rfl
@[simp] theorem State.markArea_warden_restarts (a : Nat) : (s.markArea a).warden.restarts = s.warden.restarts := rfl
@[simp] theorem State.markArea_warden_restartCause (a : Nat) : (s.markArea a).warden.restartCause = s.warden.restartCause := rfl
@[simp] theorem State.markArea_warden_log (a : Nat) : (s.markArea a).warden.log = s.warden.log := rfl
@[simp] theorem State.markArea_warden_logNext (a : Nat) : (s.markArea a).warden.logNext = s.warden.logNext := rfl
@[simp] theorem State.markArea_warden_flushed (a : Nat) : (s.markArea a).warden.flushed = s.warden.flushed := rfl
@[simp] theorem State.markArea_warden_logNextHi (a : Nat) : (s.markArea a).warden.logNextHi = s.warden.logNextHi := rfl
@[simp] theorem State.markArea_warden_perSecond (a : Nat) : (s.markArea a).warden.perSecond = s.warden.perSecond := rfl
@[simp] theorem State.markArea_warden_slotA (a : Nat) : (s.markArea a).warden.slotA = s.warden.slotA := rfl
@[simp] theorem State.markArea_warden_slotB (a : Nat) : (s.markArea a).warden.slotB = s.warden.slotB := rfl
@[simp] theorem State.markArea_warden_activeB (a : Nat) : (s.markArea a).warden.activeB = s.warden.activeB := rfl
@[simp] theorem State.markArea_warden_switchPending (a : Nat) : (s.markArea a).warden.switchPending = s.warden.switchPending := rfl
@[simp] theorem State.markArea_warden_trial (a : Nat) : (s.markArea a).warden.trial = s.warden.trial := rfl
@[simp] theorem State.markArea_warden_failedBoots (a : Nat) : (s.markArea a).warden.failedBoots = s.warden.failedBoots := rfl
@[simp] theorem State.markArea_warden_svnMin (a : Nat) : (s.markArea a).warden.svnMin = s.warden.svnMin := rfl
@[simp] theorem State.markArea_warden_staging (a : Nat) : (s.markArea a).warden.staging = s.warden.staging := rfl
@[simp] theorem State.markArea_warden_lifecycle (a : Nat) : (s.markArea a).warden.lifecycle = s.warden.lifecycle := rfl
@[simp] theorem State.markArea_warden_lifecycleChanges (a : Nat) : (s.markArea a).warden.lifecycleChanges = s.warden.lifecycleChanges := rfl
@[simp] theorem State.markArea_warden_tampered (a : Nat) : (s.markArea a).warden.tampered = s.warden.tampered := rfl
@[simp] theorem State.markArea_warden_tampers (a : Nat) : (s.markArea a).warden.tampers = s.warden.tampers := rfl
@[simp] theorem State.markArea_warden_lastKind (a : Nat) : (s.markArea a).warden.lastKind = s.warden.lastKind := rfl
@[simp] theorem State.markArea_warden_seed (a : Nat) : (s.markArea a).warden.seed = s.warden.seed := rfl
@[simp] theorem State.markArea_warden_nextFree (a : Nat) : (s.markArea a).warden.nextFree = s.warden.nextFree := rfl
@[simp] theorem State.markArea_warden_leafNext (a : Nat) : (s.markArea a).warden.leafNext = s.warden.leafNext := rfl
@[simp] theorem State.markArea_warden_leafEnd (a : Nat) : (s.markArea a).warden.leafEnd = s.warden.leafEnd := rfl
@[simp] theorem State.markArea_warden_attest (a : Nat) : (s.markArea a).warden.attest = s.warden.attest := rfl
@[simp] theorem State.markArea_warden_missing (a : Nat) : (s.markArea a).warden.missing = s.warden.missing := rfl
@[simp] theorem State.markArea_warden_wfail (a : Nat) : (s.markArea a).warden.wfail = s.warden.wfail := rfl
@[simp] theorem State.markArea_warden_writes (a : Nat) : (s.markArea a).warden.writes = s.warden.writes := rfl
@[simp] theorem State.markArea_warden_snHi (a : Nat) : (s.markArea a).warden.snHi = s.warden.snHi := rfl
@[simp] theorem State.markArea_warden_tablesRefined (a : Nat) : (s.markArea a).warden.tablesRefined = s.warden.tablesRefined := rfl
@[simp] theorem State.markArea_warden_tablesAt (a : Nat) : (s.markArea a).warden.tablesAt = s.warden.tablesAt := rfl
@[simp] theorem State.markArea_warden_fences (a : Nat) : (s.markArea a).warden.fences = s.warden.fences := rfl
@[simp] theorem State.markArea_warden_storedSpares (a : Nat) : (s.markArea a).warden.storedSpares = s.warden.storedSpares := rfl
@[simp] theorem State.markArea_warden_sampleFt (a : Nat) : (s.markArea a).warden.sampleFt = s.warden.sampleFt := rfl
@[simp] theorem State.markArea_warden_incStored (a : Nat) : (s.markArea a).warden.incStored = s.warden.incStored := rfl
@[simp] theorem State.markArea_warden_tables (a : Nat) : (s.markArea a).warden.tables = s.warden.tables := rfl
@[simp] theorem State.markArea_warden_storedTables (a : Nat) : (s.markArea a).warden.storedTables = s.warden.storedTables := rfl
@[simp] theorem State.markArea_warden_laneRepairs (a : Nat) : (s.markArea a).warden.laneRepairs = s.warden.laneRepairs := rfl

/-! ### sampled -/

@[simp] theorem State.sampled_pending (a b : Nat) : (s.sampled a b).pending = s.pending := rfl
@[simp] theorem State.sampled_fab (a b : Nat) : (s.sampled a b).fab = s.fab := rfl
@[simp] theorem State.sampled_credit (a b : Nat) : (s.sampled a b).credit = s.credit := rfl
@[simp] theorem State.sampled_light (a b : Nat) : (s.sampled a b).light = s.light := rfl
@[simp] theorem State.sampled_hash (a b : Nat) : (s.sampled a b).hash = s.hash := rfl
@[simp] theorem State.sampled_mem (a b : Nat) : (s.sampled a b).mem = s.mem := rfl
@[simp] theorem State.sampled_rem (a b : Nat) : (s.sampled a b).rem = s.rem := rfl
@[simp] theorem State.sampled_cores (a b : Nat) : (s.sampled a b).cores = s.cores := rfl
@[simp] theorem State.sampled_time (a b : Nat) : (s.sampled a b).time = s.time := rfl
@[simp] theorem State.sampled_sows (a b : Nat) : (s.sampled a b).sows = s.sows := rfl
@[simp] theorem State.sampled_sheaves (a b : Nat) : (s.sampled a b).sheaves = s.sheaves := rfl
@[simp] theorem State.sampled_ports (a b : Nat) : (s.sampled a b).ports = s.ports := rfl
@[simp] theorem State.sampled_plat (a b : Nat) : (s.sampled a b).plat = s.plat := rfl
@[simp] theorem State.sampled_group (a b : Nat) : (s.sampled a b).group = s.group := rfl
@[simp] theorem State.sampled_bridge (a b : Nat) : (s.sampled a b).bridge = s.bridge := rfl
@[simp] theorem State.sampled_notices (a b : Nat) : (s.sampled a b).notices = s.notices := rfl
@[simp] theorem State.sampled_power (a b : Nat) : (s.sampled a b).power = s.power := rfl
@[simp] theorem State.sampled_resets (a b : Nat) : (s.sampled a b).resets = s.resets := rfl
@[simp] theorem State.sampled_test (a b : Nat) : (s.sampled a b).test = s.test := rfl
@[simp] theorem State.sampled_out (a b : Nat) : (s.sampled a b).out = s.out := rfl
@[simp] theorem State.sampled_reloaded (a b : Nat) : (s.sampled a b).reloaded = s.reloaded := rfl
@[simp] theorem State.sampled_drawn (a b : Nat) : (s.sampled a b).drawn = s.drawn := rfl
@[simp] theorem State.sampled_warden_serving (a b : Nat) : (s.sampled a b).warden.serving = s.warden.serving := rfl
@[simp] theorem State.sampled_warden_restarts (a b : Nat) : (s.sampled a b).warden.restarts = s.warden.restarts := rfl
@[simp] theorem State.sampled_warden_restartCause (a b : Nat) : (s.sampled a b).warden.restartCause = s.warden.restartCause := rfl
@[simp] theorem State.sampled_warden_log (a b : Nat) : (s.sampled a b).warden.log = s.warden.log := rfl
@[simp] theorem State.sampled_warden_logNext (a b : Nat) : (s.sampled a b).warden.logNext = s.warden.logNext := rfl
@[simp] theorem State.sampled_warden_flushed (a b : Nat) : (s.sampled a b).warden.flushed = s.warden.flushed := rfl
@[simp] theorem State.sampled_warden_logNextHi (a b : Nat) : (s.sampled a b).warden.logNextHi = s.warden.logNextHi := rfl
@[simp] theorem State.sampled_warden_perSecond (a b : Nat) : (s.sampled a b).warden.perSecond = s.warden.perSecond := rfl
@[simp] theorem State.sampled_warden_slotA (a b : Nat) : (s.sampled a b).warden.slotA = s.warden.slotA := rfl
@[simp] theorem State.sampled_warden_slotB (a b : Nat) : (s.sampled a b).warden.slotB = s.warden.slotB := rfl
@[simp] theorem State.sampled_warden_activeB (a b : Nat) : (s.sampled a b).warden.activeB = s.warden.activeB := rfl
@[simp] theorem State.sampled_warden_switchPending (a b : Nat) : (s.sampled a b).warden.switchPending = s.warden.switchPending := rfl
@[simp] theorem State.sampled_warden_trial (a b : Nat) : (s.sampled a b).warden.trial = s.warden.trial := rfl
@[simp] theorem State.sampled_warden_failedBoots (a b : Nat) : (s.sampled a b).warden.failedBoots = s.warden.failedBoots := rfl
@[simp] theorem State.sampled_warden_svnMin (a b : Nat) : (s.sampled a b).warden.svnMin = s.warden.svnMin := rfl
@[simp] theorem State.sampled_warden_staging (a b : Nat) : (s.sampled a b).warden.staging = s.warden.staging := rfl
@[simp] theorem State.sampled_warden_lifecycle (a b : Nat) : (s.sampled a b).warden.lifecycle = s.warden.lifecycle := rfl
@[simp] theorem State.sampled_warden_lifecycleChanges (a b : Nat) : (s.sampled a b).warden.lifecycleChanges = s.warden.lifecycleChanges := rfl
@[simp] theorem State.sampled_warden_tampered (a b : Nat) : (s.sampled a b).warden.tampered = s.warden.tampered := rfl
@[simp] theorem State.sampled_warden_tampers (a b : Nat) : (s.sampled a b).warden.tampers = s.warden.tampers := rfl
@[simp] theorem State.sampled_warden_lastKind (a b : Nat) : (s.sampled a b).warden.lastKind = s.warden.lastKind := rfl
@[simp] theorem State.sampled_warden_seed (a b : Nat) : (s.sampled a b).warden.seed = s.warden.seed := rfl
@[simp] theorem State.sampled_warden_nextFree (a b : Nat) : (s.sampled a b).warden.nextFree = s.warden.nextFree := rfl
@[simp] theorem State.sampled_warden_leafNext (a b : Nat) : (s.sampled a b).warden.leafNext = s.warden.leafNext := rfl
@[simp] theorem State.sampled_warden_leafEnd (a b : Nat) : (s.sampled a b).warden.leafEnd = s.warden.leafEnd := rfl
@[simp] theorem State.sampled_warden_attest (a b : Nat) : (s.sampled a b).warden.attest = s.warden.attest := rfl
@[simp] theorem State.sampled_warden_areas (a b : Nat) : (s.sampled a b).warden.areas = s.warden.areas := rfl
@[simp] theorem State.sampled_warden_missing (a b : Nat) : (s.sampled a b).warden.missing = s.warden.missing := rfl
@[simp] theorem State.sampled_warden_wfail (a b : Nat) : (s.sampled a b).warden.wfail = s.warden.wfail := rfl
@[simp] theorem State.sampled_warden_writes (a b : Nat) : (s.sampled a b).warden.writes = s.warden.writes := rfl
@[simp] theorem State.sampled_warden_snHi (a b : Nat) : (s.sampled a b).warden.snHi = s.warden.snHi := rfl
@[simp] theorem State.sampled_warden_tablesRefined (a b : Nat) : (s.sampled a b).warden.tablesRefined = s.warden.tablesRefined := rfl
@[simp] theorem State.sampled_warden_tablesAt (a b : Nat) : (s.sampled a b).warden.tablesAt = s.warden.tablesAt := rfl
@[simp] theorem State.sampled_warden_fences (a b : Nat) : (s.sampled a b).warden.fences = s.warden.fences := rfl
@[simp] theorem State.sampled_warden_storedSpares (a b : Nat) : (s.sampled a b).warden.storedSpares = s.warden.storedSpares := rfl
@[simp] theorem State.sampled_warden_incStored (a b : Nat) : (s.sampled a b).warden.incStored = s.warden.incStored := rfl
@[simp] theorem State.sampled_warden_tables (a b : Nat) : (s.sampled a b).warden.tables = s.warden.tables := rfl
@[simp] theorem State.sampled_warden_storedTables (a b : Nat) : (s.sampled a b).warden.storedTables = s.warden.storedTables := rfl
@[simp] theorem State.sampled_warden_laneRepairs (a b : Nat) : (s.sampled a b).warden.laneRepairs = s.warden.laneRepairs := rfl

/-! ### logAdd -/

@[simp] theorem State.logAdd_pending (c v u : Nat) (l : List Byte) : (s.logAdd c v u l).pending = s.pending := rfl
@[simp] theorem State.logAdd_fab (c v u : Nat) (l : List Byte) : (s.logAdd c v u l).fab = s.fab := rfl
@[simp] theorem State.logAdd_credit (c v u : Nat) (l : List Byte) : (s.logAdd c v u l).credit = s.credit := rfl
@[simp] theorem State.logAdd_light (c v u : Nat) (l : List Byte) : (s.logAdd c v u l).light = s.light := rfl
@[simp] theorem State.logAdd_hash (c v u : Nat) (l : List Byte) : (s.logAdd c v u l).hash = s.hash := rfl
@[simp] theorem State.logAdd_mem (c v u : Nat) (l : List Byte) : (s.logAdd c v u l).mem = s.mem := rfl
@[simp] theorem State.logAdd_rem (c v u : Nat) (l : List Byte) : (s.logAdd c v u l).rem = s.rem := rfl
@[simp] theorem State.logAdd_cores (c v u : Nat) (l : List Byte) : (s.logAdd c v u l).cores = s.cores := rfl
@[simp] theorem State.logAdd_time (c v u : Nat) (l : List Byte) : (s.logAdd c v u l).time = s.time := rfl
@[simp] theorem State.logAdd_sows (c v u : Nat) (l : List Byte) : (s.logAdd c v u l).sows = s.sows := rfl
@[simp] theorem State.logAdd_sheaves (c v u : Nat) (l : List Byte) : (s.logAdd c v u l).sheaves = s.sheaves := rfl
@[simp] theorem State.logAdd_ports (c v u : Nat) (l : List Byte) : (s.logAdd c v u l).ports = s.ports := rfl
@[simp] theorem State.logAdd_plat (c v u : Nat) (l : List Byte) : (s.logAdd c v u l).plat = s.plat := rfl
@[simp] theorem State.logAdd_group (c v u : Nat) (l : List Byte) : (s.logAdd c v u l).group = s.group := rfl
@[simp] theorem State.logAdd_bridge (c v u : Nat) (l : List Byte) : (s.logAdd c v u l).bridge = s.bridge := rfl
@[simp] theorem State.logAdd_notices (c v u : Nat) (l : List Byte) : (s.logAdd c v u l).notices = s.notices := rfl
@[simp] theorem State.logAdd_power (c v u : Nat) (l : List Byte) : (s.logAdd c v u l).power = s.power := rfl
@[simp] theorem State.logAdd_resets (c v u : Nat) (l : List Byte) : (s.logAdd c v u l).resets = s.resets := rfl
@[simp] theorem State.logAdd_test (c v u : Nat) (l : List Byte) : (s.logAdd c v u l).test = s.test := rfl
@[simp] theorem State.logAdd_out (c v u : Nat) (l : List Byte) : (s.logAdd c v u l).out = s.out := rfl
@[simp] theorem State.logAdd_reloaded (c v u : Nat) (l : List Byte) : (s.logAdd c v u l).reloaded = s.reloaded := rfl
@[simp] theorem State.logAdd_drawn (c v u : Nat) (l : List Byte) : (s.logAdd c v u l).drawn = s.drawn := rfl
@[simp] theorem State.logAdd_warden_serving (c v u : Nat) (l : List Byte) : (s.logAdd c v u l).warden.serving = s.warden.serving := rfl
@[simp] theorem State.logAdd_warden_restarts (c v u : Nat) (l : List Byte) : (s.logAdd c v u l).warden.restarts = s.warden.restarts := rfl
@[simp] theorem State.logAdd_warden_restartCause (c v u : Nat) (l : List Byte) : (s.logAdd c v u l).warden.restartCause = s.warden.restartCause := rfl
@[simp] theorem State.logAdd_warden_flushed (c v u : Nat) (l : List Byte) : (s.logAdd c v u l).warden.flushed = s.warden.flushed := rfl
@[simp] theorem State.logAdd_warden_logNextHi (c v u : Nat) (l : List Byte) : (s.logAdd c v u l).warden.logNextHi = s.warden.logNextHi := rfl
@[simp] theorem State.logAdd_warden_perSecond (c v u : Nat) (l : List Byte) : (s.logAdd c v u l).warden.perSecond = s.warden.perSecond := rfl
@[simp] theorem State.logAdd_warden_slotA (c v u : Nat) (l : List Byte) : (s.logAdd c v u l).warden.slotA = s.warden.slotA := rfl
@[simp] theorem State.logAdd_warden_slotB (c v u : Nat) (l : List Byte) : (s.logAdd c v u l).warden.slotB = s.warden.slotB := rfl
@[simp] theorem State.logAdd_warden_activeB (c v u : Nat) (l : List Byte) : (s.logAdd c v u l).warden.activeB = s.warden.activeB := rfl
@[simp] theorem State.logAdd_warden_switchPending (c v u : Nat) (l : List Byte) : (s.logAdd c v u l).warden.switchPending = s.warden.switchPending := rfl
@[simp] theorem State.logAdd_warden_trial (c v u : Nat) (l : List Byte) : (s.logAdd c v u l).warden.trial = s.warden.trial := rfl
@[simp] theorem State.logAdd_warden_failedBoots (c v u : Nat) (l : List Byte) : (s.logAdd c v u l).warden.failedBoots = s.warden.failedBoots := rfl
@[simp] theorem State.logAdd_warden_svnMin (c v u : Nat) (l : List Byte) : (s.logAdd c v u l).warden.svnMin = s.warden.svnMin := rfl
@[simp] theorem State.logAdd_warden_staging (c v u : Nat) (l : List Byte) : (s.logAdd c v u l).warden.staging = s.warden.staging := rfl
@[simp] theorem State.logAdd_warden_lifecycle (c v u : Nat) (l : List Byte) : (s.logAdd c v u l).warden.lifecycle = s.warden.lifecycle := rfl
@[simp] theorem State.logAdd_warden_lifecycleChanges (c v u : Nat) (l : List Byte) : (s.logAdd c v u l).warden.lifecycleChanges = s.warden.lifecycleChanges := rfl
@[simp] theorem State.logAdd_warden_tampered (c v u : Nat) (l : List Byte) : (s.logAdd c v u l).warden.tampered = s.warden.tampered := rfl
@[simp] theorem State.logAdd_warden_tampers (c v u : Nat) (l : List Byte) : (s.logAdd c v u l).warden.tampers = s.warden.tampers := rfl
@[simp] theorem State.logAdd_warden_lastKind (c v u : Nat) (l : List Byte) : (s.logAdd c v u l).warden.lastKind = s.warden.lastKind := rfl
@[simp] theorem State.logAdd_warden_seed (c v u : Nat) (l : List Byte) : (s.logAdd c v u l).warden.seed = s.warden.seed := rfl
@[simp] theorem State.logAdd_warden_nextFree (c v u : Nat) (l : List Byte) : (s.logAdd c v u l).warden.nextFree = s.warden.nextFree := rfl
@[simp] theorem State.logAdd_warden_leafNext (c v u : Nat) (l : List Byte) : (s.logAdd c v u l).warden.leafNext = s.warden.leafNext := rfl
@[simp] theorem State.logAdd_warden_leafEnd (c v u : Nat) (l : List Byte) : (s.logAdd c v u l).warden.leafEnd = s.warden.leafEnd := rfl
@[simp] theorem State.logAdd_warden_attest (c v u : Nat) (l : List Byte) : (s.logAdd c v u l).warden.attest = s.warden.attest := rfl
@[simp] theorem State.logAdd_warden_areas (c v u : Nat) (l : List Byte) : (s.logAdd c v u l).warden.areas = s.warden.areas := rfl
@[simp] theorem State.logAdd_warden_missing (c v u : Nat) (l : List Byte) : (s.logAdd c v u l).warden.missing = s.warden.missing := rfl
@[simp] theorem State.logAdd_warden_wfail (c v u : Nat) (l : List Byte) : (s.logAdd c v u l).warden.wfail = s.warden.wfail := rfl
@[simp] theorem State.logAdd_warden_writes (c v u : Nat) (l : List Byte) : (s.logAdd c v u l).warden.writes = s.warden.writes := rfl
@[simp] theorem State.logAdd_warden_snHi (c v u : Nat) (l : List Byte) : (s.logAdd c v u l).warden.snHi = s.warden.snHi := rfl
@[simp] theorem State.logAdd_warden_tablesRefined (c v u : Nat) (l : List Byte) : (s.logAdd c v u l).warden.tablesRefined = s.warden.tablesRefined := rfl
@[simp] theorem State.logAdd_warden_tablesAt (c v u : Nat) (l : List Byte) : (s.logAdd c v u l).warden.tablesAt = s.warden.tablesAt := rfl
@[simp] theorem State.logAdd_warden_fences (c v u : Nat) (l : List Byte) : (s.logAdd c v u l).warden.fences = s.warden.fences := rfl
@[simp] theorem State.logAdd_warden_storedSpares (c v u : Nat) (l : List Byte) : (s.logAdd c v u l).warden.storedSpares = s.warden.storedSpares := rfl
@[simp] theorem State.logAdd_warden_sampleFt (c v u : Nat) (l : List Byte) : (s.logAdd c v u l).warden.sampleFt = s.warden.sampleFt := rfl
@[simp] theorem State.logAdd_warden_incStored (c v u : Nat) (l : List Byte) : (s.logAdd c v u l).warden.incStored = s.warden.incStored := rfl
@[simp] theorem State.logAdd_warden_tables (c v u : Nat) (l : List Byte) : (s.logAdd c v u l).warden.tables = s.warden.tables := rfl
@[simp] theorem State.logAdd_warden_storedTables (c v u : Nat) (l : List Byte) : (s.logAdd c v u l).warden.storedTables = s.warden.storedTables := rfl
@[simp] theorem State.logAdd_warden_laneRepairs (c v u : Nat) (l : List Byte) : (s.logAdd c v u l).warden.laneRepairs = s.warden.laneRepairs := rfl

/-! ### latchPend -/

@[simp] theorem State.latchPend_pending (a : Nat) : (s.latchPend a).pending = s.pending := rfl
@[simp] theorem State.latchPend_fab (a : Nat) : (s.latchPend a).fab = s.fab := rfl
@[simp] theorem State.latchPend_credit (a : Nat) : (s.latchPend a).credit = s.credit := rfl
@[simp] theorem State.latchPend_light (a : Nat) : (s.latchPend a).light = s.light := rfl
@[simp] theorem State.latchPend_hash (a : Nat) : (s.latchPend a).hash = s.hash := rfl
@[simp] theorem State.latchPend_mem (a : Nat) : (s.latchPend a).mem = s.mem := rfl
@[simp] theorem State.latchPend_rem (a : Nat) : (s.latchPend a).rem = s.rem := rfl
@[simp] theorem State.latchPend_cores (a : Nat) : (s.latchPend a).cores = s.cores := rfl
@[simp] theorem State.latchPend_time (a : Nat) : (s.latchPend a).time = s.time := rfl
@[simp] theorem State.latchPend_sows (a : Nat) : (s.latchPend a).sows = s.sows := rfl
@[simp] theorem State.latchPend_sheaves (a : Nat) : (s.latchPend a).sheaves = s.sheaves := rfl
@[simp] theorem State.latchPend_ports (a : Nat) : (s.latchPend a).ports = s.ports := rfl
@[simp] theorem State.latchPend_plat (a : Nat) : (s.latchPend a).plat = s.plat := rfl
@[simp] theorem State.latchPend_group (a : Nat) : (s.latchPend a).group = s.group := rfl
@[simp] theorem State.latchPend_bridge (a : Nat) : (s.latchPend a).bridge = s.bridge := rfl
@[simp] theorem State.latchPend_power (a : Nat) : (s.latchPend a).power = s.power := rfl
@[simp] theorem State.latchPend_resets (a : Nat) : (s.latchPend a).resets = s.resets := rfl
@[simp] theorem State.latchPend_warden (a : Nat) : (s.latchPend a).warden = s.warden := rfl
@[simp] theorem State.latchPend_test (a : Nat) : (s.latchPend a).test = s.test := rfl
@[simp] theorem State.latchPend_out (a : Nat) : (s.latchPend a).out = s.out := rfl
@[simp] theorem State.latchPend_reloaded (a : Nat) : (s.latchPend a).reloaded = s.reloaded := rfl
@[simp] theorem State.latchPend_drawn (a : Nat) : (s.latchPend a).drawn = s.drawn := rfl
@[simp] theorem State.latchPend_notices_active (a : Nat) : (s.latchPend a).notices.active = s.notices.active := rfl
@[simp] theorem State.latchPend_notices_mask (a : Nat) : (s.latchPend a).notices.mask = s.notices.mask := rfl
@[simp] theorem State.latchPend_notices_redeliver (a : Nat) : (s.latchPend a).notices.redeliver = s.notices.redeliver := rfl
@[simp] theorem State.latchPend_notices_sent (a : Nat) : (s.latchPend a).notices.sent = s.notices.sent := rfl
@[simp] theorem State.latchPend_notices_resent (a : Nat) : (s.latchPend a).notices.resent = s.notices.resent := rfl
@[simp] theorem State.latchPend_notices_activeFt (a : Nat) : (s.latchPend a).notices.activeFt = s.notices.activeFt := rfl

/-! ### sowResult -/

@[simp] theorem State.sowResult_pending (k : Nat) (w : BitVec 16) (i : Nat) (st : Status) : (s.sowResult k w i st).pending = s.pending := rfl
@[simp] theorem State.sowResult_fab (k : Nat) (w : BitVec 16) (i : Nat) (st : Status) : (s.sowResult k w i st).fab = s.fab := rfl
@[simp] theorem State.sowResult_credit (k : Nat) (w : BitVec 16) (i : Nat) (st : Status) : (s.sowResult k w i st).credit = s.credit := rfl
@[simp] theorem State.sowResult_light (k : Nat) (w : BitVec 16) (i : Nat) (st : Status) : (s.sowResult k w i st).light = s.light := rfl
@[simp] theorem State.sowResult_hash (k : Nat) (w : BitVec 16) (i : Nat) (st : Status) : (s.sowResult k w i st).hash = s.hash := rfl
@[simp] theorem State.sowResult_mem (k : Nat) (w : BitVec 16) (i : Nat) (st : Status) : (s.sowResult k w i st).mem = s.mem := rfl
@[simp] theorem State.sowResult_rem (k : Nat) (w : BitVec 16) (i : Nat) (st : Status) : (s.sowResult k w i st).rem = s.rem := rfl
@[simp] theorem State.sowResult_cores (k : Nat) (w : BitVec 16) (i : Nat) (st : Status) : (s.sowResult k w i st).cores = s.cores := rfl
@[simp] theorem State.sowResult_time (k : Nat) (w : BitVec 16) (i : Nat) (st : Status) : (s.sowResult k w i st).time = s.time := rfl
@[simp] theorem State.sowResult_sheaves (k : Nat) (w : BitVec 16) (i : Nat) (st : Status) : (s.sowResult k w i st).sheaves = s.sheaves := rfl
@[simp] theorem State.sowResult_ports (k : Nat) (w : BitVec 16) (i : Nat) (st : Status) : (s.sowResult k w i st).ports = s.ports := rfl
@[simp] theorem State.sowResult_plat (k : Nat) (w : BitVec 16) (i : Nat) (st : Status) : (s.sowResult k w i st).plat = s.plat := rfl
@[simp] theorem State.sowResult_group (k : Nat) (w : BitVec 16) (i : Nat) (st : Status) : (s.sowResult k w i st).group = s.group := rfl
@[simp] theorem State.sowResult_bridge (k : Nat) (w : BitVec 16) (i : Nat) (st : Status) : (s.sowResult k w i st).bridge = s.bridge := rfl
@[simp] theorem State.sowResult_notices (k : Nat) (w : BitVec 16) (i : Nat) (st : Status) : (s.sowResult k w i st).notices = s.notices := rfl
@[simp] theorem State.sowResult_power (k : Nat) (w : BitVec 16) (i : Nat) (st : Status) : (s.sowResult k w i st).power = s.power := rfl
@[simp] theorem State.sowResult_resets (k : Nat) (w : BitVec 16) (i : Nat) (st : Status) : (s.sowResult k w i st).resets = s.resets := rfl
@[simp] theorem State.sowResult_warden (k : Nat) (w : BitVec 16) (i : Nat) (st : Status) : (s.sowResult k w i st).warden = s.warden := rfl
@[simp] theorem State.sowResult_test (k : Nat) (w : BitVec 16) (i : Nat) (st : Status) : (s.sowResult k w i st).test = s.test := rfl
@[simp] theorem State.sowResult_out (k : Nat) (w : BitVec 16) (i : Nat) (st : Status) : (s.sowResult k w i st).out = s.out := rfl
@[simp] theorem State.sowResult_reloaded (k : Nat) (w : BitVec 16) (i : Nat) (st : Status) : (s.sowResult k w i st).reloaded = s.reloaded := rfl
@[simp] theorem State.sowResult_drawn (k : Nat) (w : BitVec 16) (i : Nat) (st : Status) : (s.sowResult k w i st).drawn = s.drawn := rfl
@[simp] theorem State.sowResult_sows_tables (k : Nat) (w : BitVec 16) (i : Nat) (st : Status) : (s.sowResult k w i st).sows.tables = s.sows.tables := rfl

/-! ### wrMem -/

@[simp] theorem State.wrMem_pending (a : Nat) (l : List Byte) : (s.wrMem a l).pending = s.pending := rfl
@[simp] theorem State.wrMem_fab (a : Nat) (l : List Byte) : (s.wrMem a l).fab = s.fab := rfl
@[simp] theorem State.wrMem_credit (a : Nat) (l : List Byte) : (s.wrMem a l).credit = s.credit := rfl
@[simp] theorem State.wrMem_light (a : Nat) (l : List Byte) : (s.wrMem a l).light = s.light := rfl
@[simp] theorem State.wrMem_hash (a : Nat) (l : List Byte) : (s.wrMem a l).hash = s.hash := rfl
@[simp] theorem State.wrMem_rem (a : Nat) (l : List Byte) : (s.wrMem a l).rem = s.rem := rfl
@[simp] theorem State.wrMem_cores (a : Nat) (l : List Byte) : (s.wrMem a l).cores = s.cores := rfl
@[simp] theorem State.wrMem_time (a : Nat) (l : List Byte) : (s.wrMem a l).time = s.time := rfl
@[simp] theorem State.wrMem_sows (a : Nat) (l : List Byte) : (s.wrMem a l).sows = s.sows := rfl
@[simp] theorem State.wrMem_sheaves (a : Nat) (l : List Byte) : (s.wrMem a l).sheaves = s.sheaves := rfl
@[simp] theorem State.wrMem_ports (a : Nat) (l : List Byte) : (s.wrMem a l).ports = s.ports := rfl
@[simp] theorem State.wrMem_plat (a : Nat) (l : List Byte) : (s.wrMem a l).plat = s.plat := rfl
@[simp] theorem State.wrMem_group (a : Nat) (l : List Byte) : (s.wrMem a l).group = s.group := rfl
@[simp] theorem State.wrMem_bridge (a : Nat) (l : List Byte) : (s.wrMem a l).bridge = s.bridge := rfl
@[simp] theorem State.wrMem_notices (a : Nat) (l : List Byte) : (s.wrMem a l).notices = s.notices := rfl
@[simp] theorem State.wrMem_power (a : Nat) (l : List Byte) : (s.wrMem a l).power = s.power := rfl
@[simp] theorem State.wrMem_resets (a : Nat) (l : List Byte) : (s.wrMem a l).resets = s.resets := rfl
@[simp] theorem State.wrMem_warden (a : Nat) (l : List Byte) : (s.wrMem a l).warden = s.warden := rfl
@[simp] theorem State.wrMem_test (a : Nat) (l : List Byte) : (s.wrMem a l).test = s.test := rfl
@[simp] theorem State.wrMem_out (a : Nat) (l : List Byte) : (s.wrMem a l).out = s.out := rfl
@[simp] theorem State.wrMem_reloaded (a : Nat) (l : List Byte) : (s.wrMem a l).reloaded = s.reloaded := rfl
@[simp] theorem State.wrMem_drawn (a : Nat) (l : List Byte) : (s.wrMem a l).drawn = s.drawn := rfl

/-! ### setPoison -/

@[simp] theorem State.setPoison_pending (a : Nat) (p : Bool) : (s.setPoison a p).pending = s.pending := rfl
@[simp] theorem State.setPoison_fab (a : Nat) (p : Bool) : (s.setPoison a p).fab = s.fab := rfl
@[simp] theorem State.setPoison_credit (a : Nat) (p : Bool) : (s.setPoison a p).credit = s.credit := rfl
@[simp] theorem State.setPoison_light (a : Nat) (p : Bool) : (s.setPoison a p).light = s.light := rfl
@[simp] theorem State.setPoison_hash (a : Nat) (p : Bool) : (s.setPoison a p).hash = s.hash := rfl
@[simp] theorem State.setPoison_rem (a : Nat) (p : Bool) : (s.setPoison a p).rem = s.rem := rfl
@[simp] theorem State.setPoison_cores (a : Nat) (p : Bool) : (s.setPoison a p).cores = s.cores := rfl
@[simp] theorem State.setPoison_time (a : Nat) (p : Bool) : (s.setPoison a p).time = s.time := rfl
@[simp] theorem State.setPoison_sows (a : Nat) (p : Bool) : (s.setPoison a p).sows = s.sows := rfl
@[simp] theorem State.setPoison_sheaves (a : Nat) (p : Bool) : (s.setPoison a p).sheaves = s.sheaves := rfl
@[simp] theorem State.setPoison_ports (a : Nat) (p : Bool) : (s.setPoison a p).ports = s.ports := rfl
@[simp] theorem State.setPoison_plat (a : Nat) (p : Bool) : (s.setPoison a p).plat = s.plat := rfl
@[simp] theorem State.setPoison_group (a : Nat) (p : Bool) : (s.setPoison a p).group = s.group := rfl
@[simp] theorem State.setPoison_bridge (a : Nat) (p : Bool) : (s.setPoison a p).bridge = s.bridge := rfl
@[simp] theorem State.setPoison_notices (a : Nat) (p : Bool) : (s.setPoison a p).notices = s.notices := rfl
@[simp] theorem State.setPoison_power (a : Nat) (p : Bool) : (s.setPoison a p).power = s.power := rfl
@[simp] theorem State.setPoison_resets (a : Nat) (p : Bool) : (s.setPoison a p).resets = s.resets := rfl
@[simp] theorem State.setPoison_warden (a : Nat) (p : Bool) : (s.setPoison a p).warden = s.warden := rfl
@[simp] theorem State.setPoison_test (a : Nat) (p : Bool) : (s.setPoison a p).test = s.test := rfl
@[simp] theorem State.setPoison_out (a : Nat) (p : Bool) : (s.setPoison a p).out = s.out := rfl
@[simp] theorem State.setPoison_reloaded (a : Nat) (p : Bool) : (s.setPoison a p).reloaded = s.reloaded := rfl
@[simp] theorem State.setPoison_drawn (a : Nat) (p : Bool) : (s.setPoison a p).drawn = s.drawn := rfl
@[simp] theorem State.setPoison_mem_cells (a : Nat) (p : Bool) : (s.setPoison a p).mem.cells = s.mem.cells := rfl
@[simp] theorem State.setPoison_mem_hbm (a : Nat) (p : Bool) : (s.setPoison a p).mem.hbm = s.mem.hbm := rfl
@[simp] theorem State.setPoison_mem_ms (a : Nat) (p : Bool) : (s.setPoison a p).mem.ms = s.mem.ms := rfl
@[simp] theorem State.setPoison_mem_kd (a : Nat) (p : Bool) : (s.setPoison a p).mem.kd = s.mem.kd := rfl

/-! ### draw -/

@[simp] theorem State.draw_pending : (s.draw).pending = s.pending := rfl
@[simp] theorem State.draw_fab : (s.draw).fab = s.fab := rfl
@[simp] theorem State.draw_credit : (s.draw).credit = s.credit := rfl
@[simp] theorem State.draw_light : (s.draw).light = s.light := rfl
@[simp] theorem State.draw_hash : (s.draw).hash = s.hash := rfl
@[simp] theorem State.draw_mem : (s.draw).mem = s.mem := rfl
@[simp] theorem State.draw_rem : (s.draw).rem = s.rem := rfl
@[simp] theorem State.draw_cores : (s.draw).cores = s.cores := rfl
@[simp] theorem State.draw_time : (s.draw).time = s.time := rfl
@[simp] theorem State.draw_sows : (s.draw).sows = s.sows := rfl
@[simp] theorem State.draw_sheaves : (s.draw).sheaves = s.sheaves := rfl
@[simp] theorem State.draw_ports : (s.draw).ports = s.ports := rfl
@[simp] theorem State.draw_plat : (s.draw).plat = s.plat := rfl
@[simp] theorem State.draw_group : (s.draw).group = s.group := rfl
@[simp] theorem State.draw_bridge : (s.draw).bridge = s.bridge := rfl
@[simp] theorem State.draw_notices : (s.draw).notices = s.notices := rfl
@[simp] theorem State.draw_power : (s.draw).power = s.power := rfl
@[simp] theorem State.draw_resets : (s.draw).resets = s.resets := rfl
@[simp] theorem State.draw_warden : (s.draw).warden = s.warden := rfl
@[simp] theorem State.draw_test : (s.draw).test = s.test := rfl
@[simp] theorem State.draw_out : (s.draw).out = s.out := rfl
@[simp] theorem State.draw_reloaded : (s.draw).reloaded = s.reloaded := rfl

/-! ### emit -/

@[simp] theorem State.emit_pending (o : Out) : (s.emit o).pending = s.pending := rfl
@[simp] theorem State.emit_fab (o : Out) : (s.emit o).fab = s.fab := rfl
@[simp] theorem State.emit_credit (o : Out) : (s.emit o).credit = s.credit := rfl
@[simp] theorem State.emit_light (o : Out) : (s.emit o).light = s.light := rfl
@[simp] theorem State.emit_hash (o : Out) : (s.emit o).hash = s.hash := rfl
@[simp] theorem State.emit_mem (o : Out) : (s.emit o).mem = s.mem := rfl
@[simp] theorem State.emit_rem (o : Out) : (s.emit o).rem = s.rem := rfl
@[simp] theorem State.emit_cores (o : Out) : (s.emit o).cores = s.cores := rfl
@[simp] theorem State.emit_time (o : Out) : (s.emit o).time = s.time := rfl
@[simp] theorem State.emit_sows (o : Out) : (s.emit o).sows = s.sows := rfl
@[simp] theorem State.emit_sheaves (o : Out) : (s.emit o).sheaves = s.sheaves := rfl
@[simp] theorem State.emit_ports (o : Out) : (s.emit o).ports = s.ports := rfl
@[simp] theorem State.emit_plat (o : Out) : (s.emit o).plat = s.plat := rfl
@[simp] theorem State.emit_group (o : Out) : (s.emit o).group = s.group := rfl
@[simp] theorem State.emit_bridge (o : Out) : (s.emit o).bridge = s.bridge := rfl
@[simp] theorem State.emit_notices (o : Out) : (s.emit o).notices = s.notices := rfl
@[simp] theorem State.emit_power (o : Out) : (s.emit o).power = s.power := rfl
@[simp] theorem State.emit_resets (o : Out) : (s.emit o).resets = s.resets := rfl
@[simp] theorem State.emit_warden (o : Out) : (s.emit o).warden = s.warden := rfl
@[simp] theorem State.emit_test (o : Out) : (s.emit o).test = s.test := rfl
@[simp] theorem State.emit_reloaded (o : Out) : (s.emit o).reloaded = s.reloaded := rfl
@[simp] theorem State.emit_drawn (o : Out) : (s.emit o).drawn = s.drawn := rfl

/-! ### The entry a change names, and the others -/

@[simp] theorem State.txg_modTx (a b : Nat) (f : TxGroup → TxGroup) : (s.modTx a b f).txg a b = f (s.txg a b) := by
  simp [State.txg, State.modTx]
theorem State.modTx_twice (a b : Nat) (f h : TxGroup → TxGroup) : (s.modTx a b f).modTx a b h = s.modTx a b fun y => h (f y) := by
  simp [State.modTx]
theorem State.modTx_congr {a b : Nat} {f h : TxGroup → TxGroup} (e : f (s.txg a b) = h (s.txg a b)) : s.modTx a b f = s.modTx a b h := by
  unfold State.txg at e
  simp only [State.modTx, tmod, e]
@[simp] theorem State.rxg_modRx (a b : Nat) (f : RxGroup → RxGroup) : (s.modRx a b f).rxg a b = f (s.rxg a b) := by
  simp [State.rxg, State.modRx]
theorem State.modRx_twice (a b : Nat) (f h : RxGroup → RxGroup) : (s.modRx a b f).modRx a b h = s.modRx a b fun y => h (f y) := by
  simp [State.modRx]
theorem State.modRx_congr {a b : Nat} {f h : RxGroup → RxGroup} (e : f (s.rxg a b) = h (s.rxg a b)) : s.modRx a b f = s.modRx a b h := by
  unfold State.rxg at e
  simp only [State.modRx, tmod, e]
@[simp] theorem State.sta_modSta (a : Nat) (f : Station → Station) : (s.modSta a f).sta a = f (s.sta a) := by
  simp [State.sta, State.modSta]
theorem State.modSta_twice (a : Nat) (f h : Station → Station) : (s.modSta a f).modSta a h = s.modSta a fun y => h (f y) := by
  simp [State.modSta]
theorem State.modSta_congr {a : Nat} {f h : Station → Station} (e : f (s.sta a) = h (s.sta a)) : s.modSta a f = s.modSta a h := by
  unfold State.sta at e
  simp only [State.modSta, tmod, e]
theorem State.sta_modSta_ne {a i : Nat} (f : Station → Station) (h : i ≠ a) : (s.modSta a f).sta i = s.sta i := by
  simp [State.sta, State.modSta, tget_tmod_ne _ _ _ _ h]
@[simp] theorem State.ringAt_modRing (a : RingId) (f : Ring → Ring) : (s.modRing a f).ringAt a = f (s.ringAt a) := by
  simp [State.ringAt, State.modRing]
theorem State.modRing_twice (a : RingId) (f h : Ring → Ring) : (s.modRing a f).modRing a h = s.modRing a fun y => h (f y) := by
  simp [State.modRing]
theorem State.modRing_congr {a : RingId} {f h : Ring → Ring} (e : f (s.ringAt a) = h (s.ringAt a)) : s.modRing a f = s.modRing a h := by
  unfold State.ringAt at e
  simp only [State.modRing, tmod, e]
@[simp] theorem State.feed_modFeed (a : Nat) (f : Feed → Feed) : (s.modFeed a f).feed a = f (s.feed a) := by
  simp [State.feed, State.modFeed]
theorem State.modFeed_twice (a : Nat) (f h : Feed → Feed) : (s.modFeed a f).modFeed a h = s.modFeed a fun y => h (f y) := by
  simp [State.modFeed]
theorem State.modFeed_congr {a : Nat} {f h : Feed → Feed} (e : f (s.feed a) = h (s.feed a)) : s.modFeed a f = s.modFeed a h := by
  unfold State.feed at e
  simp only [State.modFeed, tmod, e]
theorem State.feed_modFeed_ne {a i : Nat} (f : Feed → Feed) (h : i ≠ a) : (s.modFeed a f).feed i = s.feed i := by
  simp [State.feed, State.modFeed, tget_tmod_ne _ _ _ _ h]
@[simp] theorem State.elsAt_modEls (a : Nat) (f : Els → Els) : (s.modEls a f).elsAt a = f (s.elsAt a) := by
  simp [State.elsAt, State.modEls]
theorem State.modEls_twice (a : Nat) (f h : Els → Els) : (s.modEls a f).modEls a h = s.modEls a fun y => h (f y) := by
  simp [State.modEls]
theorem State.modEls_congr {a : Nat} {f h : Els → Els} (e : f (s.elsAt a) = h (s.elsAt a)) : s.modEls a f = s.modEls a h := by
  unfold State.elsAt at e
  simp only [State.modEls, tmod, e]
theorem State.elsAt_modEls_ne {a i : Nat} (f : Els → Els) (h : i ≠ a) : (s.modEls a f).elsAt i = s.elsAt i := by
  simp [State.elsAt, State.modEls, tget_tmod_ne _ _ _ _ h]
@[simp] theorem State.hbm_modHbm (a : Nat) (f : Hbm → Hbm) : (s.modHbm a f).hbm a = f (s.hbm a) := by
  simp [State.hbm, State.modHbm]
theorem State.modHbm_twice (a : Nat) (f h : Hbm → Hbm) : (s.modHbm a f).modHbm a h = s.modHbm a fun y => h (f y) := by
  simp [State.modHbm]
theorem State.modHbm_congr {a : Nat} {f h : Hbm → Hbm} (e : f (s.hbm a) = h (s.hbm a)) : s.modHbm a f = s.modHbm a h := by
  unfold State.hbm at e
  simp only [State.modHbm, tmod, e]
theorem State.hbm_modHbm_ne {a i : Nat} (f : Hbm → Hbm) (h : i ≠ a) : (s.modHbm a f).hbm i = s.hbm i := by
  simp [State.hbm, State.modHbm, tget_tmod_ne _ _ _ _ h]
@[simp] theorem State.ms_modMs (a : Nat) (f : MemStation → MemStation) : (s.modMs a f).ms a = f (s.ms a) := by
  simp [State.ms, State.modMs]
theorem State.modMs_twice (a : Nat) (f h : MemStation → MemStation) : (s.modMs a f).modMs a h = s.modMs a fun y => h (f y) := by
  simp [State.modMs]
theorem State.modMs_congr {a : Nat} {f h : MemStation → MemStation} (e : f (s.ms a) = h (s.ms a)) : s.modMs a f = s.modMs a h := by
  unfold State.ms at e
  simp only [State.modMs, tmod, e]
theorem State.ms_modMs_ne {a i : Nat} (f : MemStation → MemStation) (h : i ≠ a) : (s.modMs a f).ms i = s.ms i := by
  simp [State.ms, State.modMs, tget_tmod_ne _ _ _ _ h]
@[simp] theorem State.kd_modKd (a : Nat) (f : CacheDie → CacheDie) : (s.modKd a f).kd a = f (s.kd a) := by
  simp [State.kd, State.modKd]
theorem State.modKd_twice (a : Nat) (f h : CacheDie → CacheDie) : (s.modKd a f).modKd a h = s.modKd a fun y => h (f y) := by
  simp [State.modKd]
theorem State.modKd_congr {a : Nat} {f h : CacheDie → CacheDie} (e : f (s.kd a) = h (s.kd a)) : s.modKd a f = s.modKd a h := by
  unfold State.kd at e
  simp only [State.modKd, tmod, e]
theorem State.kd_modKd_ne {a i : Nat} (f : CacheDie → CacheDie) (h : i ≠ a) : (s.modKd a f).kd i = s.kd i := by
  simp [State.kd, State.modKd, tget_tmod_ne _ _ _ _ h]
@[simp] theorem State.core_modCore (a : Nat) (f : CoreUnit → CoreUnit) : (s.modCore a f).core a = f (s.core a) := by
  simp [State.core, State.modCore]
theorem State.modCore_twice (a : Nat) (f h : CoreUnit → CoreUnit) : (s.modCore a f).modCore a h = s.modCore a fun y => h (f y) := by
  simp [State.modCore]
theorem State.modCore_congr {a : Nat} {f h : CoreUnit → CoreUnit} (e : f (s.core a) = h (s.core a)) : s.modCore a f = s.modCore a h := by
  unfold State.core at e
  simp only [State.modCore, tmod, e]
theorem State.core_modCore_ne {a i : Nat} (f : CoreUnit → CoreUnit) (h : i ≠ a) : (s.modCore a f).core i = s.core i := by
  simp [State.core, State.modCore, tget_tmod_ne _ _ _ _ h]
@[simp] theorem State.sowTab_modSow (a : Nat) (f : List SowEntry → List SowEntry) : (s.modSow a f).sowTab a = f (s.sowTab a) := by
  simp [State.sowTab, State.modSow]
theorem State.modSow_twice (a : Nat) (f h : List SowEntry → List SowEntry) : (s.modSow a f).modSow a h = s.modSow a fun y => h (f y) := by
  simp [State.modSow]
theorem State.modSow_congr {a : Nat} {f h : List SowEntry → List SowEntry} (e : f (s.sowTab a) = h (s.sowTab a)) : s.modSow a f = s.modSow a h := by
  unfold State.sowTab at e
  simp only [State.modSow, tmod, e]
theorem State.sowTab_modSow_ne {a i : Nat} (f : List SowEntry → List SowEntry) (h : i ≠ a) : (s.modSow a f).sowTab i = s.sowTab i := by
  simp [State.sowTab, State.modSow, tget_tmod_ne _ _ _ _ h]
@[simp] theorem State.sheaf_modSheaf (a : Nat) (f : Sheaf → Sheaf) : (s.modSheaf a f).sheaf a = f (s.sheaf a) := by
  simp [State.sheaf, State.modSheaf]
theorem State.modSheaf_twice (a : Nat) (f h : Sheaf → Sheaf) : (s.modSheaf a f).modSheaf a h = s.modSheaf a fun y => h (f y) := by
  simp [State.modSheaf]
theorem State.modSheaf_congr {a : Nat} {f h : Sheaf → Sheaf} (e : f (s.sheaf a) = h (s.sheaf a)) : s.modSheaf a f = s.modSheaf a h := by
  unfold State.sheaf at e
  simp only [State.modSheaf, tmod, e]
theorem State.sheaf_modSheaf_ne {a i : Nat} (f : Sheaf → Sheaf) (h : i ≠ a) : (s.modSheaf a f).sheaf i = s.sheaf i := by
  simp [State.sheaf, State.modSheaf, tget_tmod_ne _ _ _ _ h]
@[simp] theorem State.bank_modBank (a : Nat) (f : Bank → Bank) : (s.modBank a f).bank a = f (s.bank a) := by
  simp [State.bank, State.modBank]
theorem State.modBank_twice (a : Nat) (f h : Bank → Bank) : (s.modBank a f).modBank a h = s.modBank a fun y => h (f y) := by
  simp [State.modBank]
theorem State.modBank_congr {a : Nat} {f h : Bank → Bank} (e : f (s.bank a) = h (s.bank a)) : s.modBank a f = s.modBank a h := by
  unfold State.bank at e
  simp only [State.modBank, tmod, e]
theorem State.bank_modBank_ne {a i : Nat} (f : Bank → Bank) (h : i ≠ a) : (s.modBank a f).bank i = s.bank i := by
  simp [State.bank, State.modBank, tget_tmod_ne _ _ _ _ h]
@[simp] theorem State.port_modPort (a : Nat) (f : Port → Port) : (s.modPort a f).port a = f (s.port a) := by
  simp [State.port, State.modPort]
theorem State.modPort_twice (a : Nat) (f h : Port → Port) : (s.modPort a f).modPort a h = s.modPort a fun y => h (f y) := by
  simp [State.modPort]
theorem State.modPort_congr {a : Nat} {f h : Port → Port} (e : f (s.port a) = h (s.port a)) : s.modPort a f = s.modPort a h := by
  unfold State.port at e
  simp only [State.modPort, tmod, e]
theorem State.port_modPort_ne {a i : Nat} (f : Port → Port) (h : i ≠ a) : (s.modPort a f).port i = s.port i := by
  simp [State.port, State.modPort, tget_tmod_ne _ _ _ _ h]
@[simp] theorem State.peerWin_modWin (a : Nat) (f : PeerWin → PeerWin) : (s.modWin a f).peerWin a = f (s.peerWin a) := by
  simp [State.peerWin, State.modWin]
theorem State.modWin_twice (a : Nat) (f h : PeerWin → PeerWin) : (s.modWin a f).modWin a h = s.modWin a fun y => h (f y) := by
  simp [State.modWin]
theorem State.modWin_congr {a : Nat} {f h : PeerWin → PeerWin} (e : f (s.peerWin a) = h (s.peerWin a)) : s.modWin a f = s.modWin a h := by
  unfold State.peerWin at e
  simp only [State.modWin, tmod, e]
theorem State.peerWin_modWin_ne {a i : Nat} (f : PeerWin → PeerWin) (h : i ≠ a) : (s.modWin a f).peerWin i = s.peerWin i := by
  simp [State.peerWin, State.modWin, tget_tmod_ne _ _ _ _ h]
@[simp] theorem State.peerSend_modSend (a : Nat) (f : PeerSend → PeerSend) : (s.modSend a f).peerSend a = f (s.peerSend a) := by
  simp [State.peerSend, State.modSend]
theorem State.modSend_twice (a : Nat) (f h : PeerSend → PeerSend) : (s.modSend a f).modSend a h = s.modSend a fun y => h (f y) := by
  simp [State.modSend]
theorem State.modSend_congr {a : Nat} {f h : PeerSend → PeerSend} (e : f (s.peerSend a) = h (s.peerSend a)) : s.modSend a f = s.modSend a h := by
  unfold State.peerSend at e
  simp only [State.modSend, tmod, e]
theorem State.peerSend_modSend_ne {a i : Nat} (f : PeerSend → PeerSend) (h : i ≠ a) : (s.modSend a f).peerSend i = s.peerSend i := by
  simp [State.peerSend, State.modSend, tget_tmod_ne _ _ _ _ h]
@[simp] theorem State.hopper_modHopper (a : Nat) (f : Hopper → Hopper) : (s.modHopper a f).hopper a = f (s.hopper a) := by
  simp [State.hopper, State.modHopper]
theorem State.modHopper_twice (a : Nat) (f h : Hopper → Hopper) : (s.modHopper a f).modHopper a h = s.modHopper a fun y => h (f y) := by
  simp [State.modHopper]
theorem State.modHopper_congr {a : Nat} {f h : Hopper → Hopper} (e : f (s.hopper a) = h (s.hopper a)) : s.modHopper a f = s.modHopper a h := by
  unfold State.hopper at e
  simp only [State.modHopper, tmod, e]
theorem State.hopper_modHopper_ne {a i : Nat} (f : Hopper → Hopper) (h : i ≠ a) : (s.modHopper a f).hopper i = s.hopper i := by
  simp [State.hopper, State.modHopper, tget_tmod_ne _ _ _ _ h]
@[simp] theorem State.cring_modCring (a : Nat) (f : CmdRing → CmdRing) : (s.modCring a f).cring a = f (s.cring a) := by
  simp [State.cring, State.modCring]
theorem State.modCring_twice (a : Nat) (f h : CmdRing → CmdRing) : (s.modCring a f).modCring a h = s.modCring a fun y => h (f y) := by
  simp [State.modCring]
theorem State.modCring_congr {a : Nat} {f h : CmdRing → CmdRing} (e : f (s.cring a) = h (s.cring a)) : s.modCring a f = s.modCring a h := by
  unfold State.cring at e
  simp only [State.modCring, tmod, e]
theorem State.cring_modCring_ne {a i : Nat} (f : CmdRing → CmdRing) (h : i ≠ a) : (s.modCring a f).cring i = s.cring i := by
  simp [State.cring, State.modCring, tget_tmod_ne _ _ _ _ h]
@[simp] theorem State.bond_modBond (a b : Nat) (f : Bond → Bond) : (s.modBond a b f).bond a b = f (s.bond a b) := by
  simp [State.bond, State.modBond]
theorem State.modBond_twice (a b : Nat) (f h : Bond → Bond) : (s.modBond a b f).modBond a b h = s.modBond a b fun y => h (f y) := by
  simp [State.modBond]
theorem State.modBond_congr {a b : Nat} {f h : Bond → Bond} (e : f (s.bond a b) = h (s.bond a b)) : s.modBond a b f = s.modBond a b h := by
  unfold State.bond at e
  simp only [State.modBond, tmod, e]
@[simp] theorem State.region_modRegion (a : Nat) (f : Region → Region) : (s.modRegion a f).region a = f (s.region a) := by
  simp [State.region, State.modRegion]
theorem State.modRegion_twice (a : Nat) (f h : Region → Region) : (s.modRegion a f).modRegion a h = s.modRegion a fun y => h (f y) := by
  simp [State.modRegion]
theorem State.modRegion_congr {a : Nat} {f h : Region → Region} (e : f (s.region a) = h (s.region a)) : s.modRegion a f = s.modRegion a h := by
  unfold State.region at e
  simp only [State.modRegion, tmod, e]
theorem State.region_modRegion_ne {a i : Nat} (f : Region → Region) (h : i ≠ a) : (s.modRegion a f).region i = s.region i := by
  simp [State.region, State.modRegion, tget_tmod_ne _ _ _ _ h]
@[simp] theorem State.diePower_modDiePower (a : Nat) (f : DiePower → DiePower) : (s.modDiePower a f).diePower a = f (s.diePower a) := by
  simp [State.diePower, State.modDiePower]
theorem State.modDiePower_twice (a : Nat) (f h : DiePower → DiePower) : (s.modDiePower a f).modDiePower a h = s.modDiePower a fun y => h (f y) := by
  simp [State.modDiePower]
theorem State.modDiePower_congr {a : Nat} {f h : DiePower → DiePower} (e : f (s.diePower a) = h (s.diePower a)) : s.modDiePower a f = s.modDiePower a h := by
  unfold State.diePower at e
  simp only [State.modDiePower, tmod, e]
theorem State.diePower_modDiePower_ne {a i : Nat} (f : DiePower → DiePower) (h : i ≠ a) : (s.modDiePower a f).diePower i = s.diePower i := by
  simp [State.diePower, State.modDiePower, tget_tmod_ne _ _ _ _ h]
@[simp] theorem State.field_modField (a : Nat) (f : FieldUnit → FieldUnit) : (s.modField a f).field a = f (s.field a) := by
  simp [State.field, State.modField]
theorem State.modField_twice (a : Nat) (f h : FieldUnit → FieldUnit) : (s.modField a f).modField a h = s.modField a fun y => h (f y) := by
  simp [State.modField]
theorem State.modField_congr {a : Nat} {f h : FieldUnit → FieldUnit} (e : f (s.field a) = h (s.field a)) : s.modField a f = s.modField a h := by
  unfold State.field at e
  simp only [State.modField, tmod, e]
theorem State.field_modField_ne {a i : Nat} (f : FieldUnit → FieldUnit) (h : i ≠ a) : (s.modField a f).field i = s.field i := by
  simp [State.field, State.modField, tget_tmod_ne _ _ _ _ h]
@[simp] theorem State.die_modDie (a : Nat) (f : DieUnit → DieUnit) : (s.modDie a f).die a = f (s.die a) := by
  simp [State.die, State.modDie]
theorem State.modDie_twice (a : Nat) (f h : DieUnit → DieUnit) : (s.modDie a f).modDie a h = s.modDie a fun y => h (f y) := by
  simp [State.modDie]
theorem State.modDie_congr {a : Nat} {f h : DieUnit → DieUnit} (e : f (s.die a) = h (s.die a)) : s.modDie a f = s.modDie a h := by
  unfold State.die at e
  simp only [State.modDie, tmod, e]
theorem State.die_modDie_ne {a i : Nat} (f : DieUnit → DieUnit) (h : i ≠ a) : (s.modDie a f).die i = s.die i := by
  simp [State.die, State.modDie, tget_tmod_ne _ _ _ _ h]
@[simp] theorem State.area_modArea (a : Nat) (f : Area → Area) : (s.modArea a f).area a = f (s.area a) := by
  simp [State.area, State.modArea]
theorem State.modArea_twice (a : Nat) (f h : Area → Area) : (s.modArea a f).modArea a h = s.modArea a fun y => h (f y) := by
  simp [State.modArea]
theorem State.modArea_congr {a : Nat} {f h : Area → Area} (e : f (s.area a) = h (s.area a)) : s.modArea a f = s.modArea a h := by
  unfold State.area at e
  simp only [State.modArea, tmod, e]
theorem State.area_modArea_ne {a i : Nat} (f : Area → Area) (h : i ≠ a) : (s.modArea a f).area i = s.area i := by
  simp [State.area, State.modArea, tget_tmod_ne _ _ _ _ h]

theorem State.modCtx_congr {a b : Nat} {f h : Ctx → Ctx} (e : f (s.ctx a b) = h (s.ctx a b)) : s.modCtx a b f = s.modCtx a b h := by
  unfold State.ctx at e
  exact State.modCore_congr s (by simp only [tmod, e])
theorem State.modCtx_twice (a b : Nat) (f h : Ctx → Ctx) :
    (s.modCtx a b f).modCtx a b h = s.modCtx a b fun y => h (f y) := by
  simp [State.modCtx, State.modCore_twice]

@[simp] theorem State.ctx_modCtx (a b : Nat) (f : Ctx → Ctx) : (s.modCtx a b f).ctx a b = f (s.ctx a b) := by
  simp [State.ctx, State.modCtx]
theorem State.ctx_modCtx_ne {a b c x : Nat} (f : Ctx → Ctx) (h : c ≠ a ∨ x ≠ b) : (s.modCtx a b f).ctx c x = s.ctx c x := by
  by_cases hc : c = a
  · subst hc
    have hx : x ≠ b := by simpa using h
    simp [State.ctx, State.modCtx, tget_tmod_ne _ _ _ _ hx]
  · simp [State.ctx, State.modCtx, State.core_modCore_ne _ _ hc]
@[simp] theorem State.eng_modEng (a b : Nat) (f : Engine → Engine) : (s.modEng a b f).eng a b = f (s.eng a b) := by
  simp [State.eng, State.modEng]
@[simp] theorem State.coil_modCoil (a b : Nat) (f : Coil → Coil) : (s.modCoil a b f).coil a b = f (s.coil a b) := by
  simp [State.coil, State.modCoil]
@[simp] theorem State.token_setToken (c i v : Nat) : (s.setToken c i v).token c i = v := by
  simp [State.token, State.setToken]
theorem State.token_setToken_ne {c i j : Nat} (v : Nat) (h : j ≠ i) : (s.setToken c i v).token c j = s.token c j := by
  simp [State.token, State.setToken, tget_tset_ne' _ _ _ _ h]

@[simp] theorem act_true (s : State) (f : State → State) : act true s f = .next (f s) := rfl
@[simp] theorem act_false (s : State) (f : State → State) : act false s f = .next s := rfl
theorem act_goes (c : Bool) (s : State) (f : State → State) : ∃ t, act c s f = .next t := ⟨_, rfl⟩
@[simp] theorem State.when_true (f : State → State) : s.when true f = f s := rfl
@[simp] theorem State.when_false (f : State → State) : s.when false f = s := rfl

end Sys2Proof.Machine
end

