-- ==== Sys2Proof/Laws/Keep.lean ====
section
/-! SUPPORT. What every operation of the block keeps: the queue of the commands that wait is left alone, and the memory's
list keeps its one form. One lemma for each shared operation of Machine/Ops; the files Laws/Keep… say the same of every
other operation and of every command's meaning. -/

namespace Sys2Proof.Machine

/-- The queue is p, and a list of memory cells has its one form. -/
def Fit (qq : List Instr) (s : State) : Prop := s.pending = qq ∧ s.mem.wf = true

/-- An outcome that answers a state answers one that keeps both. -/
def FitO (qq : List Instr) (o : Host.Outcome State Fault Refusal) : Prop := ∀ t, o = .next t → Fit qq t

variable {qq : List Instr}

theorem next_keep {t : State} (h : Fit qq t) : FitO qq (.next t) := by
  intro u e
  cases e
  exact h

theorem act_keep {s : State} {f : State → State} (c : Bool) (h : Fit qq s) (hf : ∀ s : State, Fit qq s → Fit qq (f s)) :
    FitO qq (act c s f) := by
  cases c
  · exact next_keep h
  · exact next_keep (hf s h)

theorem each_keep {α : Type} {f : α → State → State} (l : List α) {s : State} (h : Fit qq s)
    (hf : ∀ (a : α) (s : State), Fit qq s → Fit qq (f a s)) :
    Fit qq (each l f s) := by
  induction l generalizing s with
  | nil => exact h
  | cons a r ih => exact ih (hf a s h)

theorem foldl_keep {α : Type} {f : State → α → State} (l : List α) {s : State} (h : Fit qq s)
    (hf : ∀ (a : α) (s : State), Fit qq s → Fit qq (f s a)) :
    Fit qq (l.foldl f s) := by
  induction l generalizing s with
  | nil => exact h
  | cons a r ih => exact ih (hf a s h)

theorem foldl_keep1 {α β : Type} {f : State × β → α → State × β} (l : List α) {y : State × β}
    (h : Fit qq y.1)
    (hf : ∀ (a : α) (y : State × β), Fit qq y.1 → Fit qq (f y a).1) :
    Fit qq (l.foldl f y).1 := by
  induction l generalizing y with
  | nil => exact h
  | cons a r ih => exact ih (hf a y h)

theorem foldl_keep2 {α β : Type} {f : β × State → α → β × State} (l : List α) {y : β × State}
    (h : Fit qq y.2)
    (hf : ∀ (a : α) (y : β × State), Fit qq y.2 → Fit qq (f y a).2) :
    Fit qq (l.foldl f y).2 := by
  induction l generalizing y with
  | nil => exact h
  | cons a r ih => exact ih (hf a y h)

theorem when_keep {s : State} {f : State → State} (c : Bool) (h : Fit qq s)
    (hf : ∀ s : State, Fit qq s → Fit qq (f s)) :
    Fit qq (s.when c f) := by
  cases c
  · exact h
  · exact hf s h

/-- The same of a queue and a list of cells alone. -/
def FitMem (qq q : List Instr) (l : List Host.Cell) : Prop := q = qq ∧ cellsWf l = true

theorem fit_mk
    (x0 : List Instr) (x1 : Fabric) (x2 : Credit) (x3 : Light) (x4 : HashCfg) (x5 : Memory) (x6 : Remote)
    (x7 : Tbl CoreUnit) (x8 : Time) (x9 : Sows) (x10 : Sheaves) (x11 : Ports) (x12 : Plat) (x13 : Group)
    (x14 : Bridge) (x15 : Notices) (x16 : Power) (x17 : Resets) (x18 : Warden) (x19 : SelfTest) (x20 : List Out)
    (x21 : List Nat) (x22 : Nat) :
    Fit qq ⟨x0, x1, x2, x3, x4, x5, x6, x7, x8, x9, x10, x11, x12, x13, x14, x15, x16, x17, x18, x19, x20, x21, x22⟩
      = FitMem qq x0 x5.cells := rfl

theorem fitMem_of_fit {s : State} (h : Fit qq s) : FitMem qq s.pending s.mem.cells := h

theorem fitMem_wr {q : List Instr} {m : Memory} (a : Nat) (b : Byte) (h : FitMem qq q m.cells) :
    FitMem qq q (m.wr a b).cells := ⟨h.1, Memory.wr_wf h.2 a b⟩

theorem fitMem_wrN {q : List Instr} {m : Memory} (a : Nat) (l : List Byte) (h : FitMem qq q m.cells) :
    FitMem qq q (m.wrN a l).cells := ⟨h.1, Memory.wrN_wf l a h.2⟩

theorem modTx_keep {s : State} (a b : Nat) (f : TxGroup → TxGroup) (h : Fit qq s) :
    Fit qq (s.modTx a b f) := h
theorem modRx_keep {s : State} (a b : Nat) (f : RxGroup → RxGroup) (h : Fit qq s) :
    Fit qq (s.modRx a b f) := h
theorem modSta_keep {s : State} (a : Nat) (f : Station → Station) (h : Fit qq s) :
    Fit qq (s.modSta a f) := h
theorem modRing_keep {s : State} (a : RingId) (f : Ring → Ring) (h : Fit qq s) :
    Fit qq (s.modRing a f) := h
theorem modFeed_keep {s : State} (a : Nat) (f : Feed → Feed) (h : Fit qq s) :
    Fit qq (s.modFeed a f) := h
theorem modEls_keep {s : State} (a : Nat) (f : Els → Els) (h : Fit qq s) :
    Fit qq (s.modEls a f) := h
theorem modHbm_keep {s : State} (a : Nat) (f : Hbm → Hbm) (h : Fit qq s) :
    Fit qq (s.modHbm a f) := h
theorem modMs_keep {s : State} (a : Nat) (f : MemStation → MemStation) (h : Fit qq s) :
    Fit qq (s.modMs a f) := h
theorem modKd_keep {s : State} (a : Nat) (f : CacheDie → CacheDie) (h : Fit qq s) :
    Fit qq (s.modKd a f) := h
theorem modCoil_keep {s : State} (a b : Nat) (f : Coil → Coil) (h : Fit qq s) :
    Fit qq (s.modCoil a b f) := h
theorem modCore_keep {s : State} (a : Nat) (f : CoreUnit → CoreUnit) (h : Fit qq s) :
    Fit qq (s.modCore a f) := h
theorem modCtx_keep {s : State} (a b : Nat) (f : Ctx → Ctx) (h : Fit qq s) :
    Fit qq (s.modCtx a b f) := h
theorem modEng_keep {s : State} (a b : Nat) (f : Engine → Engine) (h : Fit qq s) :
    Fit qq (s.modEng a b f) := h
theorem setToken_keep {s : State} (a b v : Nat) (h : Fit qq s) :
    Fit qq (s.setToken a b v) := h
theorem modSow_keep {s : State} (a : Nat) (f : List SowEntry → List SowEntry) (h : Fit qq s) :
    Fit qq (s.modSow a f) := h
theorem modSheaf_keep {s : State} (a : Nat) (f : Sheaf → Sheaf) (h : Fit qq s) :
    Fit qq (s.modSheaf a f) := h
theorem modBank_keep {s : State} (a : Nat) (f : Bank → Bank) (h : Fit qq s) :
    Fit qq (s.modBank a f) := h
theorem modPort_keep {s : State} (a : Nat) (f : Port → Port) (h : Fit qq s) :
    Fit qq (s.modPort a f) := h
theorem modWin_keep {s : State} (a : Nat) (f : PeerWin → PeerWin) (h : Fit qq s) :
    Fit qq (s.modWin a f) := h
theorem modSend_keep {s : State} (a : Nat) (f : PeerSend → PeerSend) (h : Fit qq s) :
    Fit qq (s.modSend a f) := h
theorem modHopper_keep {s : State} (a : Nat) (f : Hopper → Hopper) (h : Fit qq s) :
    Fit qq (s.modHopper a f) := h
theorem modCring_keep {s : State} (a : Nat) (f : CmdRing → CmdRing) (h : Fit qq s) :
    Fit qq (s.modCring a f) := h
theorem queueRecord_keep {s : State} (r : Record) (h : Fit qq s) :
    Fit qq (s.queueRecord r) := h
theorem dropWrite_keep {s : State} (p : Path) (a : Nat) (st : Status) (h : Fit qq s) :
    Fit qq (s.dropWrite p a st) := h
theorem takeProxy_keep {s : State} (o : Origin) (h : Fit qq s) :
    Fit qq (s.takeProxy o) := h
theorem unpost_keep {s : State} (u : SlowUnit) (h : Fit qq s) :
    Fit qq (s.unpost u) := h
theorem modBond_keep {s : State} (a b : Nat) (f : Bond → Bond) (h : Fit qq s) :
    Fit qq (s.modBond a b f) := h
theorem modRegion_keep {s : State} (a : Nat) (f : Region → Region) (h : Fit qq s) :
    Fit qq (s.modRegion a f) := h
theorem modDiePower_keep {s : State} (a : Nat) (f : DiePower → DiePower) (h : Fit qq s) :
    Fit qq (s.modDiePower a f) := h
theorem modField_keep {s : State} (a : Nat) (f : FieldUnit → FieldUnit) (h : Fit qq s) :
    Fit qq (s.modField a f) := h
theorem modDie_keep {s : State} (a : Nat) (f : DieUnit → DieUnit) (h : Fit qq s) :
    Fit qq (s.modDie a f) := h
theorem modArea_keep {s : State} (a : Nat) (f : Area → Area) (h : Fit qq s) :
    Fit qq (s.modArea a f) := h
theorem markArea_keep {s : State} (a : Nat) (h : Fit qq s) :
    Fit qq (s.markArea a) := h
theorem sampled_keep {s : State} (a b : Nat) (h : Fit qq s) :
    Fit qq (s.sampled a b) := h
theorem logAdd_keep {s : State} (c v u : Nat) (l : List Byte) (h : Fit qq s) :
    Fit qq (s.logAdd c v u l) := h
theorem latchPend_keep {s : State} (a : Nat) (h : Fit qq s) :
    Fit qq (s.latchPend a) := h
theorem sowResult_keep {s : State} (k : Nat) (w : BitVec 16) (i : Nat) (st : Status) (h : Fit qq s) :
    Fit qq (s.sowResult k w i st) := h
theorem setPoison_keep {s : State} (a : Nat) (p : Bool) (h : Fit qq s) :
    Fit qq (s.setPoison a p) := h
theorem draw_keep {s : State} (h : Fit qq s) :
    Fit qq (s.draw) := h
theorem emit_keep {s : State} (o : Out) (h : Fit qq s) :
    Fit qq (s.emit o) := h

theorem id_keep {s : State} (h : Fit qq s) : Fit qq (id s) := h

theorem reloaded_keep {s : State} (l : List Nat) (h : Fit qq s) : Fit qq { s with reloaded := l } := h

theorem logDropped_keep {s : State} (code : Nat) (h : Fit qq s) :
    Fit qq (s.logDropped code) := by
  unfold State.logDropped; dsimp only; split <;> exact h

theorem log_keep {s : State} (code sev u : Nat) (l : List Byte) (h : Fit qq s) :
    Fit qq (s.log code sev u l) := by
  unfold State.log; dsimp only; split <;> exact logDropped_keep code h

theorem wrMem_keep {s : State} (a : Nat) (l : List Byte) (h : Fit qq s) :
    Fit qq (s.wrMem a l) := ⟨h.1, Memory.wrN_wf l a h.2⟩

end Sys2Proof.Machine
end

