-- ==== Sys2Proof/Laws/KeepOps.lean ====
section
/-! SUPPORT. The operations and meanings of Machine/Ops leave the queue alone and keep the memory's one form. -/

namespace Sys2Proof.Machine

set_option linter.unreachableTactic false
set_option linter.unusedTactic false
set_option linter.unusedSimpArgs false

variable {qq : List Instr}

theorem tick_keep (s : State)
    (hk : Fit qq s) :
    Fit qq (State.tick s) := by
  unfold State.tick
  repeat' (first | with_reducible assumption | simp only [fit_mk] | with_reducible apply fitMem_of_fit | split
                 | dsimp only)

theorem modTherm_keep (s : State) (l : ThermLoc) (f : Therm → Therm)
    (hk : Fit qq s) :
    Fit qq (State.modTherm s l f) := by
  unfold State.modTherm
  repeat' (first | with_reducible assumption | with_reducible apply modHbm_keep | simp only [fit_mk]
                 | with_reducible apply fitMem_of_fit | split | dsimp only)

theorem spreadLevel_keep (s : State) (d : ℕ)
    (hk : Fit qq s) :
    Fit qq (State.spreadLevel s d) := by
  unfold State.spreadLevel
  repeat' (first | with_reducible assumption | with_reducible apply modCore_keep | with_reducible apply foldl_keep
                 | with_reducible apply foldl_keep1 | with_reducible apply foldl_keep2 | intro _ | dsimp only)

theorem logRise_keep (s : State) (src : ℕ)
    (hk : Fit qq s) :
    Fit qq (State.logRise s src) := by
  unfold State.logRise
  repeat' (first | with_reducible assumption | with_reducible apply draw_keep | with_reducible apply log_keep
                 | dsimp only)

theorem raise_keep (s : State) (src : ℕ)
    (hk : Fit qq s) :
    Fit qq (State.raise s src) := by
  unfold State.raise
  repeat' (first | with_reducible assumption | with_reducible apply latchPend_keep | with_reducible apply logRise_keep
                 | split | dsimp only)

theorem sense_keep (s1 : State) (src : ℕ) (s0 : State)
    (hk : Fit qq s1) :
    Fit qq (State.sense s1 src s0) := by
  unfold State.sense
  repeat' (first | with_reducible assumption | with_reducible apply latchPend_keep | with_reducible apply logRise_keep
                 | split | dsimp only)

theorem capSense_keep (s1 : State) (parts : List ℕ) (s0 : State)
    (hk : Fit qq s1) :
    Fit qq (State.capSense s1 parts s0) := by
  unfold State.capSense
  repeat' (first | with_reducible assumption | with_reducible apply raise_keep | split | dsimp only)

theorem wrote_keep (r : State × Status) (p : Path) (addr : ℕ)
    (hk : Fit qq r.1) :
    Fit qq (State.wrote r p addr) := by
  unfold State.wrote
  repeat' (first | with_reducible assumption | with_reducible apply dropWrite_keep | split | dsimp only)

theorem freeHopper_keep (s : State) (o : Origin)
    (hk : Fit qq s) :
    Fit qq (State.freeHopper s o) := by
  unfold State.freeHopper
  repeat' (first | with_reducible assumption | with_reducible apply modHopper_keep | split | dsimp only)

theorem complete_keep (s : State) (o : Origin) (opcode : ℕ) (st : Status) (res : List Byte)
    (hk : Fit qq s) :
    Fit qq (State.complete s o opcode st res) := by
  unfold State.complete
  repeat' (first | with_reducible assumption | with_reducible apply sense_keep | with_reducible apply queueRecord_keep
                 | with_reducible apply freeHopper_keep | simp only [fit_mk] | with_reducible apply fitMem_of_fit | split
                 | dsimp only)

theorem answer_keep (s : State) (a : Asker) (opcode : ℕ) (st : Status)
    (hk : Fit qq s) :
    Fit qq (State.answer s a opcode st) := by
  unfold State.answer
  repeat' (first | with_reducible assumption | with_reducible apply complete_keep | with_reducible apply sowResult_keep
                 | split | dsimp only)

theorem proxy_keep (o : Origin) (op : Nat) (reserved : Bool) {s : State} {f : State → State}
    (h : Fit qq s)
    (hf : ∀ s : State, Fit qq s → Fit qq (f s)) :
    FitO qq (proxy o op reserved s f) := by
  refine act_keep _ h fun s h => ?_
  split
  · exact complete_keep _ _ _ _ _ h
  · split
    · exact complete_keep _ _ _ _ _ h
    · exact hf _ h

theorem command_keep {s : State} (o : Origin) (op : Nat) (checks : List (Bool × Status)) {eff : State → State × List Byte}
    (h : Fit qq s)
    (hf : ∀ s : State, Fit qq s → Fit qq (eff s).1) :
    Fit qq (s.command o op checks eff) := by
  unfold State.command
  split
  · exact complete_keep _ _ _ _ _ h
  · exact complete_keep _ _ _ _ _ (hf s h)

theorem commandLong_keep {s : State} (o : Origin) (op : Nat) (checks : List (Bool × Status)) {eff : State → State}
    (h : Fit qq s)
    (hf : ∀ s : State, Fit qq s → Fit qq (eff s)) :
    Fit qq (s.commandLong o op checks eff) := by
  unfold State.commandLong
  split
  · exact complete_keep _ _ _ _ _ h
  · exact hf s h

end Sys2Proof.Machine
end

