-- ==== Sys2Proof/Laws/KeepMemory.lean ====
section
/-! SUPPORT. The operations and meanings of Machine/Memory leave the queue alone and keep the memory's one form. -/

namespace Sys2Proof.Machine

set_option linter.unreachableTactic false
set_option linter.unusedTactic false
set_option linter.unusedSimpArgs false

variable {qq : List Instr}

theorem writeBack_keep (s : State) (st : ℕ) (b : MergeBlk)
    (hk : Fit qq s) :
    Fit qq (State.writeBack s st b) := by
  unfold State.writeBack
  repeat' (first | with_reducible assumption | with_reducible apply each_keep | with_reducible apply wr_keep
                 | with_reducible apply when_keep | with_reducible apply setPoison_keep
                 | with_reducible apply modSta_keep | simp only [fit_mk] | with_reducible apply fitMem_of_fit
                 | with_reducible apply fitMem_wr | intro _ | dsimp only)

theorem touchBlock_keep (s : State) (st : ℕ) (p : ℕ) (f : MergeBlk → MergeBlk)
    (hk : Fit qq s) :
    Fit qq (State.touchBlock s st p f) := by
  unfold State.touchBlock
  repeat' (first | with_reducible assumption | with_reducible apply writeBack_keep | with_reducible apply modSta_keep
                 | split | dsimp only)

theorem memUe_keep (s : State) (a : ℕ)
    (hk : Fit qq s) :
    Fit qq (State.memUe s a) := by
  unfold State.memUe
  repeat' (first | with_reducible assumption | with_reducible apply raise_keep | with_reducible apply modMs_keep | split
                 | dsimp only)

theorem markBlock_keep (s : State) (st : Nat) (p : Nat)
    (hk : Fit qq s) :
    Fit qq (State.markBlock s st p) := by
  unfold State.markBlock
  repeat' (first | with_reducible assumption | with_reducible apply modSta_keep | with_reducible apply setPoison_keep
                 | simp only [fit_mk] | with_reducible apply fitMem_of_fit | split | intro _ | dsimp only)

theorem kdBad_keep (s : State) (n : Nat) (bad : Nat) (poison : State → State)
    (hk : Fit qq s) (hpoison : ∀ s : State, Fit qq s → Fit qq (poison s)) :
    Fit qq (State.kdBad s n bad poison) := by
  unfold State.kdBad
  repeat' (first | with_reducible assumption | with_reducible apply hpoison | with_reducible apply modKd_keep
                 | with_reducible apply raise_keep | simp only [fit_mk] | with_reducible apply fitMem_of_fit | split
                 | intro _ | dsimp only)

theorem spBad_keep (s : State) (c : Nat) (bad : Nat) (poison : State → State)
    (hk : Fit qq s) (hpoison : ∀ s : State, Fit qq s → Fit qq (poison s)) :
    Fit qq (State.spBad s c bad poison) := by
  unfold State.spBad
  repeat' (first | with_reducible assumption | with_reducible apply hpoison | with_reducible apply modCore_keep
                 | with_reducible apply raise_keep | simp only [fit_mk] | with_reducible apply fitMem_of_fit | split
                 | intro _ | dsimp only)

theorem hbmBad_keep (s : State) (a : Nat) (bad : Nat) (poison : State → State)
    (hk : Fit qq s) (hpoison : ∀ s : State, Fit qq s → Fit qq (poison s)) :
    Fit qq (State.hbmBad s a bad poison) := by
  unfold State.hbmBad
  repeat' (first | with_reducible assumption | with_reducible apply hpoison | with_reducible apply modMs_keep
                 | with_reducible apply memUe_keep | simp only [fit_mk] | with_reducible apply fitMem_of_fit | split
                 | intro _ | dsimp only)

theorem eccBlock_keep (s : State) (st : Nat) (a : Nat) (bad : Nat)
    (hk : Fit qq s) :
    Fit qq (State.eccBlock s st a bad) := by
  unfold State.eccBlock
  repeat' (first | with_reducible assumption | with_reducible apply hbmBad_keep | with_reducible apply markBlock_keep
                 | with_reducible apply kdBad_keep | with_reducible apply spBad_keep | split | intro _ | dsimp only)

theorem eccSpan_keep (s : State) (st : Nat) (a : Nat) (n : Nat) (bad : List Nat)
    (hk : Fit qq s) :
    Fit qq (State.eccSpan s st a n bad) := by
  unfold State.eccSpan
  repeat' (first | with_reducible assumption | with_reducible apply each_keep | with_reducible apply eccBlock_keep
                 | intro _ | dsimp only)

theorem eccParts_keep (s : State) (st : Nat) (a : Nat) (n : Nat) (bad : List Nat)
    (hk : Fit qq s) :
    Fit qq (State.eccParts s st a n bad) := by
  unfold State.eccParts
  repeat' (first | with_reducible assumption | with_reducible apply each_keep | with_reducible apply eccBlock_keep
                 | intro _ | dsimp only)

theorem stWriteBlock_keep (s : State) (st : ℕ) (a : ℕ) (l : List Byte) (pois : Option Bool)
    (hk : Fit qq s) :
    Fit qq (State.stWriteBlock s st a l pois) := by
  unfold State.stWriteBlock
  repeat' (first | with_reducible assumption | with_reducible apply touchBlock_keep | with_reducible apply memUe_keep
                 | with_reducible apply foldl_keep | with_reducible apply foldl_keep1 | with_reducible apply foldl_keep2
                 | split | intro _ | dsimp only)

theorem stWrite_keep (s : State) (st : ℕ) (a : ℕ) (l : List Byte) (poisoned : Bool)
    (hk : Fit qq s) :
    Fit qq (State.stWrite s st a l poisoned) := by
  unfold State.stWrite
  repeat' (first | with_reducible assumption | with_reducible apply each_keep | with_reducible apply stWriteBlock_keep
                 | intro _ | dsimp only)

theorem stPoisonBlocks_keep (s : State) (st : ℕ) (a : ℕ) (n : ℕ)
    (hk : Fit qq s) :
    Fit qq (State.stPoisonBlocks s st a n) := by
  unfold State.stPoisonBlocks
  repeat' (first | with_reducible assumption | with_reducible apply each_keep | with_reducible apply stWriteBlock_keep
                 | intro _ | dsimp only)

theorem spWrite_keep (s : State) (c : ℕ) (off : ℕ) (l : List Byte) (poisoned : Bool)
    (hk : Fit qq s) :
    Fit qq (State.spWrite s c off l poisoned) := by
  unfold State.spWrite
  repeat' (first | with_reducible assumption | with_reducible apply each_keep | with_reducible apply setPoison_keep
                 | with_reducible apply wrMem_keep | split | intro _ | dsimp only)

theorem closeBlocks_keep (s : State) (st : ℕ) (a : ℕ) (n : ℕ)
    (hk : Fit qq s) :
    Fit qq (State.closeBlocks s st a n) := by
  unfold State.closeBlocks
  repeat' (first | with_reducible assumption | with_reducible apply each_keep | with_reducible apply writeBack_keep
                 | split | intro _ | dsimp only)

theorem fabWrite_keep (s : State) (a : ℕ) (l : List Byte) (poisoned : Bool)
    (hk : Fit qq s) :
    Fit qq (State.fabWrite s a l poisoned) := by
  unfold State.fabWrite
  repeat' (first | with_reducible assumption | with_reducible apply spWrite_keep | with_reducible apply closeBlocks_keep
                 | split | dsimp only)

end Sys2Proof.Machine
end

