-- ==== Sys2Proof/Laws/KeepContext.lean ====
section
/-! SUPPORT. The operations and meanings of Machine/Context leave the queue alone and keep the memory's one form. -/

namespace Sys2Proof.Machine

set_option linter.unreachableTactic false
set_option linter.unusedTactic false
set_option linter.unusedSimpArgs false

variable {qq : List Instr}

theorem setCtx_keep (s : State) (c : ℕ) (x : ℕ) (st : CtxState) (why : Why)
    (hk : Fit qq s) :
    Fit qq (State.setCtx s c x st why) := by
  unfold State.setCtx
  repeat' (first | with_reducible assumption | with_reducible apply modCtx_keep | with_reducible apply sense_keep
                 | dsimp only)

theorem seqRecord_keep (s : State) (c : ℕ) (x : ℕ) (cause : ℕ) (eng : ℕ) (op : ℕ) (st : Status)
    (hk : Fit qq s) :
    Fit qq (State.seqRecord s c x cause eng op st) := by
  unfold State.seqRecord
  repeat' (first | with_reducible assumption | with_reducible apply modCore_keep | dsimp only)

theorem ctxFault_keep (s : State) (c : ℕ) (x : ℕ) (cause : ℕ) (eng : ℕ) (op : ℕ) (st : Status)
    (hk : Fit qq s) :
    Fit qq (State.ctxFault s c x cause eng op st) := by
  unfold State.ctxFault
  repeat' (first | with_reducible assumption | with_reducible apply seqRecord_keep | with_reducible apply setCtx_keep
                 | split | dsimp only)

theorem ctxWorst_keep (s : State) (c : ℕ) (x : ℕ) (st : Status)
    (hk : Fit qq s) :
    Fit qq (State.ctxWorst s c x st) := by
  unfold State.ctxWorst
  repeat' (first | with_reducible assumption | with_reducible apply modCtx_keep | dsimp only)

theorem takeTokens_keep (s : State) (c : ℕ) (l : List ℕ)
    (hk : Fit qq s) :
    Fit qq (State.takeTokens s c l) := by
  unfold State.takeTokens
  repeat' (first | with_reducible assumption | with_reducible apply each_keep | with_reducible apply setToken_keep
                 | intro _ | dsimp only)

theorem bumpToken_keep (s : State) (c : ℕ) (m : MeshSignal)
    (hk : Fit qq s) :
    Fit qq (State.bumpToken s c m) := by
  unfold State.bumpToken
  repeat' (first | with_reducible assumption | with_reducible apply setToken_keep | with_reducible apply ctxFault_keep
                 | with_reducible apply modCore_keep | split | dsimp only)

theorem signal_keep (s : State) (c : ℕ) (x : ℕ) (sig : BitVec 16) (eng : ℕ) (op : ℕ)
    (hk : Fit qq s) :
    Fit qq (State.signal s c x sig eng op) := by
  unfold State.signal
  repeat' (first | with_reducible assumption | with_reducible apply modCore_keep | with_reducible apply bumpToken_keep
                 | split | dsimp only)

end Sys2Proof.Machine
end

