-- ==== Sys2Proof/Laws/KeepFabric.lean ====
section
/-! SUPPORT. The operations and meanings of Machine/Fabric leave the queue alone and keep the memory's one form. -/

namespace Sys2Proof.Machine

set_option linter.unreachableTactic false
set_option linter.unusedTactic false
set_option linter.unusedSimpArgs false

variable {qq : List Instr}

theorem enqueue_keep (s : State) (st : ℕ) (g : ℕ) (q : QPacket)
    (hk : Fit qq s) :
    Fit qq (State.enqueue s st g q) := by
  unfold State.enqueue
  repeat' (first | with_reducible assumption | with_reducible apply modTx_keep | dsimp only)

theorem enqueueAll_keep (s : State) (st : Nat) (l : List (Nat × QPacket))
    (hk : Fit qq s) :
    Fit qq (State.enqueueAll s st l) := by
  unfold State.enqueueAll
  repeat' (first | with_reducible assumption | with_reducible apply each_keep | with_reducible apply enqueue_keep
                 | intro _ | dsimp only)

theorem place_keep (s : State) (st : Nat) (q : QPacket)
    (hk : Fit qq s) :
    Fit qq (State.place s st q) := by
  unfold State.place
  repeat' (first | with_reducible assumption | with_reducible apply each_keep | with_reducible apply enqueueAll_keep
                 | intro _ | dsimp only)

theorem sendLink_keep (s : State) (st : Nat) (dst : Nat) (recs : List W64)
    (hk : Fit qq s) :
    Fit qq (State.sendLink s st dst recs) := by
  unfold State.sendLink
  repeat' (first | with_reducible assumption | with_reducible apply draw_keep | with_reducible apply emit_keep | split
                 | intro _ | dsimp only)

theorem setTxState_keep (s : State) (st : ℕ) (g : ℕ) (x : LgState)
    (hk : Fit qq s) :
    Fit qq (State.setTxState s st g x) := by
  unfold State.setTxState
  repeat' (first | with_reducible assumption | with_reducible apply modTx_keep | with_reducible apply capSense_keep
                 | with_reducible apply sense_keep | dsimp only)

theorem setRxState_keep (s : State) (st : ℕ) (rg : ℕ) (x : RxState)
    (hk : Fit qq s) :
    Fit qq (State.setRxState s st rg x) := by
  unfold State.setRxState
  repeat' (first | with_reducible assumption | with_reducible apply modRx_keep | with_reducible apply capSense_keep
                 | with_reducible apply sense_keep | dsimp only)

theorem leaveService_keep (s : State) (st : Nat) (g : Nat)
    (hk : Fit qq s) :
    Fit qq (State.leaveService s st g) := by
  unfold State.leaveService
  repeat' (first | with_reducible assumption | with_reducible apply modTx_keep | with_reducible apply setTxState_keep
                 | with_reducible apply each_keep | with_reducible apply place_keep | simp only [fit_mk]
                 | with_reducible apply fitMem_of_fit | split | intro _ | dsimp only)

theorem rebase_keep (s : State) (r : RingId)
    (hk : Fit qq s) :
    Fit qq (State.rebase s r) := by
  unfold State.rebase
  repeat' (first | with_reducible assumption | with_reducible apply modRing_keep | simp only [fit_mk]
                 | with_reducible apply fitMem_of_fit | split | intro _ | dsimp only)

theorem lockRing_keep (s : State) (r : RingId)
    (hk : Fit qq s) :
    Fit qq (State.lockRing s r) := by
  unfold State.lockRing
  repeat' (first | with_reducible assumption | with_reducible apply draw_keep | with_reducible apply modRing_keep
                 | simp only [fit_mk] | with_reducible apply fitMem_of_fit | intro _ | dsimp only)

theorem setRings_keep (s : State) (l : List RingId) (x : RingState)
    (hk : Fit qq s) :
    Fit qq (State.setRings s l x) := by
  unfold State.setRings
  repeat' (first | with_reducible assumption | with_reducible apply each_keep | with_reducible apply lockRing_keep
                 | with_reducible apply modRing_keep | simp only [fit_mk] | with_reducible apply fitMem_of_fit | split
                 | intro _ | dsimp only)

theorem resetRings_keep (s : State) (l : List RingId)
    (hk : Fit qq s) :
    Fit qq (State.resetRings s l) := by
  unfold State.resetRings
  repeat' (first | with_reducible assumption | with_reducible apply each_keep | with_reducible apply modRing_keep
                 | intro _ | dsimp only)

theorem restartSeq_keep (s : State) (st : ℕ) (g : ℕ)
    (hk : Fit qq s) :
    Fit qq (State.restartSeq s st g) := by
  unfold State.restartSeq
  repeat' (first | with_reducible assumption | with_reducible apply each_keep | with_reducible apply modRx_keep
                 | with_reducible apply modTx_keep | intro _ | dsimp only)

theorem returnGroup_keep (s : State) (st : Nat) (g : Nat)
    (hk : Fit qq s) :
    Fit qq (State.returnGroup s st g) := by
  unfold State.returnGroup
  repeat' (first | with_reducible assumption | with_reducible apply restartSeq_keep
                 | with_reducible apply setTxState_keep | with_reducible apply enable_keep
                 | with_reducible apply modTx_keep | simp only [fit_mk] | with_reducible apply fitMem_of_fit | split
                 | intro _ | dsimp only)

theorem settleAcks_keep (s : State) (st : ℕ) (g : ℕ)
    (hk : Fit qq s) :
    Fit qq (State.settleAcks s st g) := by
  unfold State.settleAcks
  repeat' (first | with_reducible assumption | with_reducible apply modTx_keep | dsimp only)

theorem takeAck_keep (s : State) (st : ℕ) (rd : ℕ) (rec : W64)
    (hk : Fit qq s) :
    Fit qq (State.takeAck s st rd rec) := by
  unfold State.takeAck
  repeat' (first | with_reducible assumption | with_reducible apply modTx_keep | split | dsimp only)

theorem execAckReceive_keep (st : ℕ) (rd : ℕ) (rec : W64) (s : State)
    (hk : Fit qq s) :
    FitO qq (execAckReceive st rd rec s) := by
  unfold execAckReceive
  repeat' (first | with_reducible assumption | with_reducible apply next_keep | with_reducible apply act_keep
                 | with_reducible apply takeAck_keep | intro _ | dsimp only)

theorem replayFrom_keep (s : State) (st : ℕ) (g : ℕ) (i : ℕ)
    (hk : Fit qq s) :
    Fit qq (State.replayFrom s st g i) := by
  unfold State.replayFrom
  repeat' (first | with_reducible assumption | with_reducible apply each_keep | with_reducible apply emit_keep
                 | with_reducible apply modTx_keep | intro _ | dsimp only)

theorem takeNak_keep (s : State) (st : Nat) (rec : W64)
    (hk : Fit qq s) :
    Fit qq (State.takeNak s st rec) := by
  unfold State.takeNak
  repeat' (first | with_reducible assumption | with_reducible apply replayFrom_keep | split | intro _ | dsimp only)

theorem execNakReceive_keep (st : Nat) (rd : Nat) (rec : W64) (s : State)
    (hk : Fit qq s) :
    FitO qq (execNakReceive st rd rec s) := by
  unfold execNakReceive
  repeat' (first | with_reducible assumption | with_reducible apply next_keep | with_reducible apply act_keep
                 | with_reducible apply takeNak_keep | intro _ | dsimp only)

theorem execReplayTimeout_keep (st : ℕ) (g : ℕ) (s : State)
    (hk : Fit qq s) :
    FitO qq (execReplayTimeout st g s) := by
  unfold execReplayTimeout
  repeat' (first | with_reducible assumption | with_reducible apply next_keep | with_reducible apply act_keep
                 | with_reducible apply leaveService_keep | with_reducible apply replayFrom_keep
                 | with_reducible apply modTx_keep | split | intro _ | dsimp only)

theorem sendData_keep (s : State) (st : Nat) (g : Nat)
    (hk : Fit qq s) :
    Fit qq (State.sendData s st g) := by
  unfold State.sendData
  repeat' (first | with_reducible assumption | with_reducible apply modTx_keep | with_reducible apply when_keep
                 | with_reducible apply draw_keep | with_reducible apply emit_keep
                 | with_reducible apply settleAcks_keep | simp only [fit_mk] | with_reducible apply fitMem_of_fit
                 | split | intro _ | dsimp only)

theorem execGrainSend_keep (st : ℕ) (g : ℕ) (s : State)
    (hk : Fit qq s) :
    FitO qq (execGrainSend st g s) := by
  unfold execGrainSend
  repeat' (first | with_reducible assumption | with_reducible apply next_keep | with_reducible apply act_keep
                 | with_reducible apply sendData_keep | with_reducible apply emit_keep | split | intro _ | dsimp only)

theorem setHeld_keep (s : State) (r : Nat) (w : Nat) (vc : Nat) (n : Nat)
    (hk : Fit qq s) :
    Fit qq (State.setHeld s r w vc n) := by
  unfold State.setHeld
  repeat' (first | with_reducible assumption | simp only [fit_mk] | with_reducible apply fitMem_of_fit | dsimp only)

theorem takeCredit_keep (s : State) (st : Nat) (rd : Nat) (rec : W64)
    (hk : Fit qq s) :
    Fit qq (State.takeCredit s st rd rec) := by
  unfold State.takeCredit
  repeat' (first | with_reducible assumption | with_reducible apply setHeld_keep | simp only [fit_mk]
                 | with_reducible apply fitMem_of_fit | dsimp only)

theorem takeRecord_keep (s : State) (st : Nat) (rd : Nat) (rec : W64)
    (hk : Fit qq s) :
    Fit qq (State.takeRecord s st rd rec) := by
  unfold State.takeRecord
  repeat' (first | with_reducible assumption | with_reducible apply takeCredit_keep
                 | with_reducible apply takeAck_keep | with_reducible apply takeNak_keep | split | dsimp only)

theorem sendNak_keep (s : State) (st : Nat) (rg : Nat)
    (hk : Fit qq s) :
    Fit qq (State.sendNak s st rg) := by
  unfold State.sendNak
  repeat' (first | with_reducible assumption | with_reducible apply sendLink_keep | split | dsimp only)

theorem receiveGrain_keep (s : State) (st : Nat) (rg : Nat) (g : Grain)
    (hk : Fit qq s) :
    Fit qq (State.receiveGrain s st rg g) := by
  unfold State.receiveGrain
  repeat' (first | with_reducible assumption | with_reducible apply modRx_keep | with_reducible apply raise_keep
                 | with_reducible apply sendNak_keep | with_reducible apply each_keep
                 | with_reducible apply takeRecord_keep | simp only [fit_mk] | with_reducible apply fitMem_of_fit
                 | split | intro _ | dsimp only)

theorem execGrainReceive_keep (st : ℕ) (rg : ℕ) (g : Grain) (s : State)
    (hk : Fit qq s) :
    FitO qq (execGrainReceive st rg g s) := by
  unfold execGrainReceive
  repeat' (first | with_reducible assumption | with_reducible apply next_keep | with_reducible apply act_keep
                 | with_reducible apply receiveGrain_keep | intro _ | dsimp only)

theorem sendAck_keep (s : State) (st : Nat) (rg : Nat)
    (hk : Fit qq s) :
    Fit qq (State.sendAck s st rg) := by
  unfold State.sendAck
  repeat' (first | with_reducible assumption | with_reducible apply modRx_keep | with_reducible apply when_keep
                 | with_reducible apply draw_keep | with_reducible apply sendLink_keep | simp only [fit_mk]
                 | with_reducible apply fitMem_of_fit | split | intro _ | dsimp only)

theorem execAckSend_keep (st : ℕ) (rg : ℕ) (s : State)
    (hk : Fit qq s) :
    FitO qq (execAckSend st rg s) := by
  unfold execAckSend
  repeat' (first | with_reducible assumption | with_reducible apply next_keep | with_reducible apply act_keep
                 | with_reducible apply sendAck_keep | intro _ | dsimp only)

theorem execGroupLeaveService_keep (st : ℕ) (g : ℕ) (s : State)
    (hk : Fit qq s) :
    FitO qq (execGroupLeaveService st g s) := by
  unfold execGroupLeaveService
  repeat' (first | with_reducible assumption | with_reducible apply next_keep | with_reducible apply act_keep
                 | with_reducible apply leaveService_keep | intro _ | dsimp only)

theorem markLane_keep (s : State) (st : Nat) (g : Nat) (lane : Nat)
    (hk : Fit qq s) :
    Fit qq (State.markLane s st g lane) := by
  unfold State.markLane
  repeat' (first | with_reducible assumption | with_reducible apply modTx_keep
                 | with_reducible apply leaveService_keep | with_reducible apply setTxState_keep | simp only [fit_mk]
                 | with_reducible apply fitMem_of_fit | split | intro _ | dsimp only)

theorem execLaneMarkedBad_keep (st : ℕ) (g : ℕ) (lane : ℕ) (s : State)
    (hk : Fit qq s) :
    FitO qq (execLaneMarkedBad st g lane s) := by
  unfold execLaneMarkedBad
  repeat' (first | with_reducible assumption | with_reducible apply next_keep | with_reducible apply act_keep
                 | with_reducible apply markLane_keep | intro _ | dsimp only)

theorem clearLane_keep (s : State) (st : ℕ) (g : ℕ) (lane : ℕ)
    (hk : Fit qq s) :
    Fit qq (State.clearLane s st g lane) := by
  unfold State.clearLane
  repeat' (first | with_reducible assumption | with_reducible apply modTx_keep | with_reducible apply setTxState_keep
                 | split | dsimp only)

theorem execGroupRetrainEnd_keep (st : ℕ) (g : ℕ) (s : State)
    (hk : Fit qq s) :
    FitO qq (execGroupRetrainEnd st g s) := by
  unfold execGroupRetrainEnd
  repeat' (first | with_reducible assumption | with_reducible apply next_keep | with_reducible apply act_keep
                 | with_reducible apply setTxState_keep | split | intro _ | dsimp only)

theorem execGroupFaultRecover_keep (st : Nat) (g : Nat) (s : State)
    (hk : Fit qq s) :
    FitO qq (execGroupFaultRecover st g s) := by
  unfold execGroupFaultRecover
  repeat' (first | with_reducible assumption | with_reducible apply next_keep | with_reducible apply act_keep
                 | with_reducible apply returnGroup_keep | intro _ | dsimp only)

theorem disable_keep (s : State) (st : ℕ) (g : ℕ)
    (hk : Fit qq s) :
    Fit qq (State.disable s st g) := by
  unfold State.disable
  repeat' (first | with_reducible assumption | with_reducible apply modTx_keep | with_reducible apply setTxState_keep
                 | split | dsimp only)

theorem enable_keep (s : State) (st : Nat) (g : Nat)
    (hk : Fit qq s) :
    Fit qq (State.enable s st g) := by
  unfold State.enable
  repeat' (first | with_reducible assumption | with_reducible apply modTx_keep
                 | with_reducible apply leaveService_keep | with_reducible apply setTxState_keep | simp only [fit_mk]
                 | with_reducible apply fitMem_of_fit | split | intro _ | dsimp only)

theorem reshare_keep (s : State) (st : Nat) (g : Nat)
    (hk : Fit qq s) :
    Fit qq (State.reshare s st g) := by
  unfold State.reshare
  repeat' (first | with_reducible assumption | with_reducible apply each_keep | with_reducible apply modRx_keep
                 | simp only [fit_mk] | with_reducible apply fitMem_of_fit | split | intro _ | dsimp only)

theorem startChange_keep (s : State) (a : Asker) (p : RmapParams)
    (hk : Fit qq s) :
    Fit qq (State.startChange s a p) := by
  unfold State.startChange
  repeat' (first | with_reducible assumption | with_reducible apply modRx_keep | with_reducible apply when_keep
                 | with_reducible apply modTx_keep | with_reducible apply each_keep
                 | with_reducible apply reshare_keep | with_reducible apply setRings_keep
                 | with_reducible apply sense_keep | with_reducible apply capSense_keep
                 | with_reducible apply answer_keep | simp only [fit_mk] | with_reducible apply fitMem_of_fit | split
                 | intro _ | dsimp only)

theorem acceptChange_keep (s : State) (a : Asker) (p : RmapParams)
    (hk : Fit qq s) :
    Fit qq (State.acceptChange s a p) := by
  unfold State.acceptChange
  repeat' (first | with_reducible assumption | with_reducible apply modRx_keep | with_reducible apply each_keep
                 | with_reducible apply disable_keep | with_reducible apply startChange_keep | split | intro _
                 | dsimp only)

theorem rmapSet_keep (s : State) (a : Asker) (p : RmapParams)
    (hk : Fit qq s) :
    Fit qq (State.rmapSet s a p) := by
  unfold State.rmapSet
  repeat' (first | with_reducible assumption | with_reducible apply answer_keep | with_reducible apply acceptChange_keep
                 | split | dsimp only)

theorem execRmapSet_keep (o : Origin) (p : RmapParams) (s : State)
    (hk : Fit qq s) :
    FitO qq (execRmapSet o p s) := by
  unfold execRmapSet
  repeat' (first | with_reducible assumption | with_reducible apply next_keep | with_reducible apply rmapSet_keep
                 | dsimp only)

theorem execRmapChangeStart_keep (st : ℕ) (rg : ℕ) (s : State)
    (hk : Fit qq s) :
    FitO qq (execRmapChangeStart st rg s) := by
  unfold execRmapChangeStart
  repeat' (first | with_reducible assumption | with_reducible apply next_keep | with_reducible apply act_keep
                 | with_reducible apply startChange_keep | split | intro _ | dsimp only)

theorem dropChange_keep (s : State) (st : ℕ) (rg : ℕ) (status : Status)
    (hk : Fit qq s) :
    Fit qq (State.dropChange s st rg status) := by
  unfold State.dropChange
  repeat' (first | with_reducible assumption | with_reducible apply answer_keep | with_reducible apply modRx_keep | split
                 | dsimp only)

theorem execRmapDrainTimeout_keep (st : ℕ) (rg : ℕ) (s : State)
    (hk : Fit qq s) :
    FitO qq (execRmapDrainTimeout st rg s) := by
  unfold execRmapDrainTimeout
  repeat' (first | with_reducible assumption | with_reducible apply next_keep | with_reducible apply act_keep
                 | with_reducible apply dropChange_keep | split | intro _ | dsimp only)

theorem execGroupDrained_keep (st : ℕ) (g : ℕ) (s : State)
    (hk : Fit qq s) :
    FitO qq (execGroupDrained st g s) := by
  unfold execGroupDrained
  repeat' (first | with_reducible assumption | with_reducible apply next_keep | with_reducible apply act_keep
                 | with_reducible apply setTxState_keep | intro _ | dsimp only)

theorem joinReader_keep (s : State) (st : Nat) (rg : Nat)
    (hk : Fit qq s) :
    Fit qq (State.joinReader s st rg) := by
  unfold State.joinReader
  repeat' (first | with_reducible assumption | with_reducible apply modRx_keep | with_reducible apply modTx_keep
                 | simp only [fit_mk] | with_reducible apply fitMem_of_fit | intro _ | dsimp only)

theorem execEntryLocked_keep (st : Nat) (rg : Nat) (s : State)
    (hk : Fit qq s) :
    FitO qq (execEntryLocked st rg s) := by
  unfold execEntryLocked
  repeat' (first | with_reducible assumption | with_reducible apply next_keep | with_reducible apply act_keep
                 | with_reducible apply joinReader_keep | with_reducible apply setRings_keep
                 | with_reducible apply setRxState_keep | with_reducible apply modRx_keep | split | intro _
                 | dsimp only)

theorem execAutoEnable_keep (st : ℕ) (g : ℕ) (s : State)
    (hk : Fit qq s) :
    FitO qq (execAutoEnable st g s) := by
  unfold execAutoEnable
  repeat' (first | with_reducible assumption | with_reducible apply next_keep | with_reducible apply act_keep
                 | with_reducible apply modTx_keep | with_reducible apply enable_keep | split | intro _ | dsimp only)

theorem txcfgWrite_keep (s : State) (st : ℕ) (g : ℕ) (data : W32)
    (hk : Fit qq s) :
    Fit qq (State.txcfgWrite s st g data).1 := by
  unfold State.txcfgWrite
  repeat' (first | with_reducible assumption | with_reducible apply modTx_keep | with_reducible apply enable_keep
                 | with_reducible apply disable_keep | split | dsimp only)

end Sys2Proof.Machine
end

