-- ==== Sys2Proof/Laws/KeepRemote.lean ====
section
/-! SUPPORT. The operations and meanings of Machine/Remote leave the queue alone and keep the memory's one form. -/

namespace Sys2Proof.Machine

set_option linter.unreachableTactic false
set_option linter.unusedTactic false
set_option linter.unusedSimpArgs false

variable {qq : List Instr}

theorem returnCredit_keep (s : State) (r : ℕ) (w : ℕ) (vc : ℕ) (n : ℕ)
    (hk : Fit qq s) :
    Fit qq (State.returnCredit s r w vc n) := by
  unfold State.returnCredit
  repeat' (first | with_reducible assumption | simp only [fit_mk] | with_reducible apply fitMem_of_fit | split
                 | dsimp only)

theorem freeCredit_keep (s : State) (r : ℕ) (w : ℕ) (p : Packet)
    (hk : Fit qq s) :
    Fit qq (State.freeCredit s r w p) := by
  unfold State.freeCredit
  repeat' (first | with_reducible assumption | with_reducible apply returnCredit_keep | split | dsimp only)

theorem deliver_keep (s : State) (st : ℕ) (w : ℕ) (p : Packet)
    (hk : Fit qq s) :
    Fit qq (State.deliver s st w p) := by
  unfold State.deliver
  repeat' (first | with_reducible assumption | with_reducible apply modSta_keep | dsimp only)

theorem takeInbox_keep {s t : State} {st : Nat} {f : Packet → Bool} {x} (he : s.takeInbox st f = some (x, t))
    (hk : Fit qq s) : Fit qq t := by
  unfold State.takeInbox at he
  split at he
  · cases he
  · cases he
    exact freeCredit_keep _ _ _ _ (modSta_keep _ _ hk)

theorem outPut_keep (s : State) (q : QPacket)
    (hk : Fit qq s) :
    Fit qq (State.outPut s q) := by
  unfold State.outPut
  repeat' (first | with_reducible assumption | simp only [fit_mk] | with_reducible apply fitMem_of_fit | intro _
                 | dsimp only)

theorem outTake_keep (s : State) (q : QPacket)
    (hk : Fit qq s) :
    Fit qq (State.outTake s q) := by
  unfold State.outTake
  repeat' (first | with_reducible assumption | simp only [fit_mk] | with_reducible apply fitMem_of_fit | intro _
                 | dsimp only)

theorem ringIn_keep (s : State) (here : ℕ) (dst : ℕ) (src : ℕ) (ft : W64) (q : QPacket)
    (hk : Fit qq s) :
    Fit qq (State.ringIn s here dst src ft q) := by
  unfold State.ringIn
  repeat' (first | with_reducible assumption | simp only [fit_mk] | with_reducible apply fitMem_of_fit | dsimp only)

theorem ringSend_keep (s : State) (here : ℕ) (dst : ℕ) (src : ℕ) (q : QPacket)
    (hk : Fit qq s) :
    Fit qq (State.ringSend s here dst src q) := by
  unfold State.ringSend
  repeat' (first | with_reducible assumption | with_reducible apply ringIn_keep | dsimp only)

theorem toPort_keep (s : State) (here : ℕ) (p : ℕ) (fdst : ℕ) (pkt : Packet) (op : Option ℕ)
    (hk : Fit qq s) :
    Fit qq (State.toPort s here p fdst pkt op) := by
  unfold State.toPort
  repeat' (first | with_reducible assumption | with_reducible apply ringSend_keep | dsimp only)

theorem postIn_keep (s : State) (st : ℕ) (rd : ℕ) (p : Packet) (op : Option ℕ)
    (hk : Fit qq s) :
    Fit qq (State.postIn s st rd p op) := by
  unfold State.postIn
  repeat' (first | with_reducible assumption | with_reducible apply deliver_keep | with_reducible apply modSta_keep
                 | split | dsimp only)

theorem replicate_keep (s : State) (here : ℕ) (p : Packet) (members : List ℕ) (op : Option ℕ)
    (hk : Fit qq s) :
    Fit qq (State.replicate s here p members op) := by
  unfold State.replicate
  repeat' (first | with_reducible assumption | with_reducible apply each_keep | with_reducible apply toPort_keep
                 | simp only [fit_mk] | with_reducible apply fitMem_of_fit | intro _ | dsimp only)

theorem bcastOut_keep (s : State) (here : ℕ) (p : Packet) (op : Option ℕ)
    (hk : Fit qq s) :
    Fit qq (State.bcastOut s here p op).2 := by
  unfold State.bcastOut
  repeat' (first | with_reducible assumption | with_reducible apply replicate_keep | with_reducible apply toPort_keep
                 | split | dsimp only)

theorem depart_keep (s : State) (here : ℕ) (p : Packet) (op : Option ℕ)
    (hk : Fit qq s) :
    Fit qq (State.depart s here p op).2 := by
  unfold State.depart
  repeat' (first | with_reducible assumption | with_reducible apply bcastOut_keep | with_reducible apply toPort_keep
                 | split | dsimp only)

theorem sendOut_keep (s : State) (x : ℕ) (w : ℕ) (p : Packet)
    (hk : Fit qq s) :
    Fit qq (State.sendOut s x w p) := by
  unfold State.sendOut
  repeat' (first | with_reducible assumption | with_reducible apply depart_keep | with_reducible apply postIn_keep
                 | simp only [fit_mk] | with_reducible apply fitMem_of_fit | split | dsimp only)

theorem post_keep (s : State) (st : ℕ) (rd : ℕ) (p : Packet) (op : Option ℕ)
    (hk : Fit qq s) :
    Fit qq (State.post s st rd p op) := by
  unfold State.post
  repeat' (first | with_reducible assumption | with_reducible apply sendOut_keep | with_reducible apply postIn_keep
                 | split | dsimp only)

theorem reply_keep (s : State) (st : ℕ) (p : Packet) (op : ℕ) (data : List Byte) (status : Status) (poison : Bool)
    (hk : Fit qq s) :
    Fit qq (State.reply s st p op data status poison) := by
  unfold State.reply
  repeat' (first | with_reducible assumption | with_reducible apply post_keep | split | dsimp only)

theorem replyFault_keep (s : State) (st : ℕ) (p : Packet) (status : Status)
    (hk : Fit qq s) :
    Fit qq (State.replyFault s st p status) := by
  unfold State.replyFault
  repeat' (first | with_reducible assumption | with_reducible apply reply_keep | split | dsimp only)

theorem remoteFault_keep (s : State) (c : Nat) (x : Nat) (o : Op) (st : Status) (mask : Byte)
    (hk : Fit qq s) :
    Fit qq (State.remoteFault s c x o st mask) := by
  unfold State.remoteFault
  repeat' (first | with_reducible assumption | with_reducible apply modCore_keep | with_reducible apply raise_keep
                 | with_reducible apply when_keep | simp only [fit_mk] | with_reducible apply fitMem_of_fit | split
                 | intro _ | dsimp only)

theorem leaveOwner_keep (s : State) (o : Op) (st : Status)
    (hk : Fit qq s) :
    Fit qq (State.leaveOwner s o st) := by
  unfold State.leaveOwner
  repeat' (first | with_reducible assumption | with_reducible apply modCtx_keep | with_reducible apply modEng_keep
                 | simp only [fit_mk] | with_reducible apply fitMem_of_fit | split | dsimp only)

theorem redirty_keep (s : State) (o : Op) (st : Status)
    (hk : Fit qq s) :
    Fit qq (State.redirty s o st) := by
  unfold State.redirty
  repeat' (first | with_reducible assumption | with_reducible apply modKd_keep | split | dsimp only)

theorem settle_keep (s : State) (o : Op) (st : Status) (mask : Byte)
    (hk : Fit qq s) :
    Fit qq (State.settle s o st mask) := by
  unfold State.settle
  repeat' (first | with_reducible assumption | with_reducible apply redirty_keep | with_reducible apply leaveOwner_keep
                 | with_reducible apply when_keep | with_reducible apply ctxWorst_keep
                 | with_reducible apply remoteFault_keep | with_reducible apply signal_keep | simp only [fit_mk]
                 | with_reducible apply fitMem_of_fit | split | intro _ | dsimp only)

theorem joinOwner_keep (s : State) (o : Op)
    (hk : Fit qq s) :
    Fit qq (State.joinOwner s o) := by
  unfold State.joinOwner
  repeat' (first | with_reducible assumption | with_reducible apply modCtx_keep | with_reducible apply id_keep
                 | with_reducible apply modEng_keep | simp only [fit_mk] | with_reducible apply fitMem_of_fit | split
                 | intro _ | dsimp only)

theorem newOp_keep (s : State) (r : Req) (group : ℕ)
    (hk : Fit qq s) :
    Fit qq (State.newOp s r group).2 := by
  unfold State.newOp
  repeat' (first | with_reducible assumption | with_reducible apply joinOwner_keep | simp only [fit_mk]
                 | with_reducible apply fitMem_of_fit | split | dsimp only)

theorem netSend_keep (s : State) (node : ℕ) (cls : ℕ) (b : NetBody)
    (hk : Fit qq s) :
    Fit qq (State.netSend s node cls b) := by
  unfold State.netSend
  repeat' (first | with_reducible assumption | simp only [fit_mk] | with_reducible apply fitMem_of_fit | dsimp only)

theorem launch_keep (s : State) (r : Req) (o : Op)
    (hk : Fit qq s) :
    Fit qq (State.launch s r o) := by
  unfold State.launch
  repeat' (first | with_reducible assumption | with_reducible apply post_keep | with_reducible apply modSta_keep
                 | with_reducible apply netSend_keep | split | dsimp only)

theorem newOps_keep (group : Nat) : ∀ (l : List Req) (s : State), Fit qq s →
    Fit qq (s.newOps group l).2
  | [], _, h => h
  | r :: l, s, h => by
    simp only [State.newOps]
    exact newOps_keep group l _ (newOp_keep s r group h)

theorem issueRaw_keep (s : State) (r : Req)
    (hk : Fit qq s) :
    Fit qq (State.issueRaw s r) := by
  unfold State.issueRaw
  repeat' (first | with_reducible assumption | with_reducible apply newOps_keep | with_reducible apply each_keep
                 | with_reducible apply settle_keep | with_reducible apply launch_keep | split | intro _ | dsimp only)

theorem writeBackLine_keep (s : State) (n : ℕ) (owner : OpOwner) (l : CacheLine) (asPoison : Bool)
    (hk : Fit qq s) :
    Fit qq (State.writeBackLine s n owner l asPoison) := by
  unfold State.writeBackLine
  repeat' (first | with_reducible assumption | with_reducible apply each_keep | with_reducible apply issueRaw_keep
                 | intro _ | dsimp only)

theorem makeRoom_keep (s : State) (n : ℕ) (line : ℕ)
    (hk : Fit qq s) :
    Fit qq (State.makeRoom s n line) := by
  unfold State.makeRoom
  repeat' (first | with_reducible assumption | with_reducible apply writeBackLine_keep | with_reducible apply modKd_keep
                 | with_reducible apply draw_keep | split | dsimp only)

theorem touchLine_keep (s : State) (n : ℕ) (line : ℕ) (f : CacheLine → CacheLine)
    (hk : Fit qq s) :
    Fit qq (State.touchLine s n line f) := by
  unfold State.touchLine
  repeat' (first | with_reducible assumption | with_reducible apply makeRoom_keep | with_reducible apply modKd_keep
                 | split | dsimp only)

theorem lookup_keep (s : State) (r : Req) (hint : Nat)
    (hk : Fit qq s) :
    Fit qq (State.lookup s r hint).2 := by
  unfold State.lookup
  repeat' (first | with_reducible assumption | with_reducible apply answer_keep | with_reducible apply touchLine_keep
                 | with_reducible apply id_keep | simp only [fit_mk] | with_reducible apply fitMem_of_fit | split
                 | intro _ | dsimp only)

theorem lookups_keep (hint : Nat) : ∀ (l : List Req) (s : State), Fit qq s →
    Fit qq (s.lookups hint l).2
  | [], _, h => h
  | r :: l, s, h => by
    simp only [State.lookups]
    exact lookups_keep hint l _ (lookup_keep s r hint h)

theorem overCoils_keep (s : State) (r : Req)
    (hk : Fit qq s) :
    Fit qq (State.overCoils s r).2 := by
  unfold State.overCoils
  repeat' (first | with_reducible assumption | with_reducible apply stWrite_keep | split | dsimp only)

theorem coilPieces_keep : ∀ (l : List Req) (s : State), Fit qq s →
    Fit qq (s.coilPieces l).2
  | [], _, h => h
  | r :: l, s, h => by
    simp only [State.coilPieces]
    exact coilPieces_keep l _ (overCoils_keep s r h)

theorem accessOps_keep (s : State) (r : Req) (hint : Nat)
    (hk : Fit qq s) :
    Fit qq (State.accessOps s r hint).2 := by
  unfold State.accessOps
  repeat' (first | with_reducible assumption | with_reducible apply lookups_keep | with_reducible apply newOps_keep
                 | with_reducible apply coilPieces_keep | with_reducible apply answer_keep | simp only [fit_mk]
                 | with_reducible apply fitMem_of_fit | split | intro _ | dsimp only)

theorem storeAccess_keep (s : State) (r : Req) (hint : ℕ)
    (hk : Fit qq s) :
    Fit qq (State.storeAccess s r hint) := by
  unfold State.storeAccess
  repeat' (first | with_reducible assumption | with_reducible apply accessOps_keep | with_reducible apply each_keep
                 | with_reducible apply settle_keep | with_reducible apply launch_keep | split | intro _ | dsimp only)

theorem ownBad_keep (s : State) (n : Nat) (a : Nat) (bad : Nat)
    (hk : Fit qq s) :
    Fit qq (State.ownBad s n a bad) := by
  unfold State.ownBad
  repeat' (first | with_reducible assumption | with_reducible apply kdBad_keep | with_reducible apply modKd_keep
                 | with_reducible apply eccBlock_keep | simp only [fit_mk] | with_reducible apply fitMem_of_fit
                 | split | intro _ | dsimp only)

theorem ownBads_keep (s : State) (n : Nat) (l : List (Nat × Nat))
    (hk : Fit qq s) :
    Fit qq (State.ownBads s n l) := by
  unfold State.ownBads
  repeat' (first | with_reducible assumption | with_reducible apply each_keep | with_reducible apply ownBad_keep
                 | intro _ | dsimp only)

theorem advanceJob_keep (n : Nat) : ∀ (k : Nat) (s : State), Fit qq s →
    Fit qq (State.advanceJob n k s)
  | 0, _, h => h
  | k + 1, s, h => by
    simp only [State.advanceJob]
    split
    · exact h
    · split
      · split
        · exact complete_keep _ _ _ _ _ h
        · exact h
      · split
        · exact h
        · exact advanceJob_keep n k _ (issueRaw_keep _ _ h)

theorem advanceOwner_keep (s : State) (o : Op)
    (hk : Fit qq s) :
    Fit qq (State.advanceOwner s o) := by
  unfold State.advanceOwner
  repeat' (first | with_reducible assumption | with_reducible apply advanceJob_keep | split | dsimp only)

theorem placeP_keep (o : Op) (data : List Byte) (st : Status) : ∀ (d : OpDest) (a : Nat) (s : State),
    Fit qq s → Fit qq (s.place' o data st d a)
  | .none, _, _, h => h
  | .scratch, _, _, h => by
    simp only [State.place']
    split
    · exact fabWrite_keep _ _ _ _ h
    · exact fabWrite_keep _ _ _ _ h
  | .stage _ _ _ _ _, _, _, h => by
    simp only [State.place']
    split
    · exact storeAccess_keep _ _ _ h
    · exact h
  | .fill _ _ _ _ _ next, a, s, h => by
    simp only [State.place']
    refine placeP_keep o _ _ next a _ ?_
    split
    · exact touchLine_keep _ _ _ _ h
    · exact h
  | .fetch _ _ _, _, _, h => h
  | .entry _ _, _, _, h => h
  | .keep _ _, _, _, h => h

theorem finish_keep (s : State) (o : Op) (st : Status) (data : List Byte) (mask : Byte)
    (hk : Fit qq s) :
    Fit qq (State.finish s o st data mask) := by
  unfold State.finish
  repeat' (first | with_reducible assumption | with_reducible apply settle_keep | with_reducible apply placeP_keep
                 | with_reducible apply advanceOwner_keep | split | dsimp only)

theorem access_keep (s : State) (r : Req) (hint : ℕ)
    (hk : Fit qq s) :
    Fit qq (State.access s r hint) := by
  unfold State.access
  repeat' (first | with_reducible assumption | with_reducible apply accessOps_keep | with_reducible apply each_keep
                 | with_reducible apply finish_keep | with_reducible apply launch_keep | split | intro _ | dsimp only)

end Sys2Proof.Machine
end

