-- ==== Sys2Proof/Laws/KeepPackets.lean ====
section
/-! SUPPORT. The operations and meanings of Machine/Packets leave the queue alone and keep the memory's one form. -/

namespace Sys2Proof.Machine

set_option linter.unreachableTactic false
set_option linter.unusedTactic false
set_option linter.unusedSimpArgs false

variable {qq : List Instr}

theorem arrive_keep (s : State) (st : ℕ) (rg : ℕ) (p : Packet) (rest : List StreamWord)
    (hk : Fit qq s) :
    Fit qq (State.arrive s st rg p rest) := by
  unfold State.arrive
  repeat' (first | with_reducible assumption | with_reducible apply modRx_keep | with_reducible apply raise_keep
                 | with_reducible apply modSta_keep | with_reducible apply returnCredit_keep
                 | with_reducible apply sendOut_keep | with_reducible apply freeCredit_keep
                 | with_reducible apply deliver_keep | simp only [fit_mk] | with_reducible apply fitMem_of_fit | split
                 | dsimp only)

theorem execPacketArrive_keep (st : ℕ) (rg : ℕ) (s : State)
    (hk : Fit qq s) :
    FitO qq (execPacketArrive st rg s) := by
  unfold execPacketArrive
  repeat' (first | with_reducible assumption | with_reducible apply next_keep | with_reducible apply act_keep
                 | with_reducible apply arrive_keep | split | intro _ | dsimp only)

theorem unqueue_keep (s : State) (st : ℕ) (q : QPacket)
    (hk : Fit qq s) :
    Fit qq (State.unqueue s st q) := by
  unfold State.unqueue
  repeat' (first | with_reducible assumption | with_reducible apply modSta_keep | dsimp only)

theorem endOp_keep (s : State) (op : Option ℕ) (st : Status) (mask : Byte)
    (hk : Fit qq s) :
    Fit qq (State.endOp s op st mask) := by
  unfold State.endOp
  repeat' (first | with_reducible assumption | with_reducible apply finish_keep | split | dsimp only)

theorem refusePacket_keep (s : State) (st : Nat) (rd : Nat) (q : QPacket) (status : Status)
    (hk : Fit qq s) :
    Fit qq (State.refusePacket s st rd q status) := by
  unfold State.refusePacket
  repeat' (first | with_reducible assumption | with_reducible apply endOp_keep | with_reducible apply replyFault_keep
                 | with_reducible apply finish_keep | with_reducible apply postIn_keep | simp only [fit_mk]
                 | with_reducible apply fitMem_of_fit | split | intro _ | dsimp only)

theorem markSent_keep (s : State) (op : Option ℕ)
    (hk : Fit qq s) :
    Fit qq (State.markSent s op) := by
  unfold State.markSent
  repeat' (first | with_reducible assumption | simp only [fit_mk] | with_reducible apply fitMem_of_fit | split
                 | dsimp only)

theorem nextPseq_keep (s : State) (st : ℕ) (vc : ℕ)
    (hk : Fit qq s) :
    Fit qq (State.nextPseq s st vc) := by
  unfold State.nextPseq
  repeat' (first | with_reducible assumption | with_reducible apply modSta_keep | split | dsimp only)

theorem sendPacket_keep (s : State) (st : ℕ) (rd : ℕ) (vc : ℕ) (q : QPacket)
    (hk : Fit qq s) :
    Fit qq (State.sendPacket s st rd vc q) := by
  unfold State.sendPacket
  repeat' (first | with_reducible assumption | with_reducible apply place_keep | with_reducible apply markSent_keep
                 | with_reducible apply nextPseq_keep | with_reducible apply setHeld_keep
                 | with_reducible apply unqueue_keep | dsimp only)

theorem execPacketSend_keep (st : Nat) (rd : Nat) (vc : Nat) (s : State)
    (hk : Fit qq s) :
    FitO qq (execPacketSend st rd vc s) := by
  unfold execPacketSend
  repeat' (first | with_reducible assumption | with_reducible apply next_keep | with_reducible apply act_keep
                 | with_reducible apply unqueue_keep | with_reducible apply refusePacket_keep
                 | with_reducible apply sendPacket_keep | split | intro _ | dsimp only)

theorem creditRecords_keep (s : State) (st : Nat) (w : Nat) (l : List Nat)
    (hk : Fit qq s) :
    Fit qq (State.creditRecords s st w l) := by
  unfold State.creditRecords
  repeat' (first | with_reducible assumption | with_reducible apply foldl_keep | with_reducible apply sendLink_keep
                 | with_reducible apply creditRecord_keep | simp only [fit_mk] | with_reducible apply fitMem_of_fit
                 | split | intro _ | dsimp only)

theorem execCreditRecordSend_keep (st : Nat) (w : Nat) (vc : Nat) (s : State)
    (hk : Fit qq s) :
    FitO qq (execCreditRecordSend st w vc s) := by
  unfold execCreditRecordSend
  repeat' (first | with_reducible assumption | with_reducible apply next_keep | with_reducible apply act_keep
                 | with_reducible apply creditRecords_keep | intro _ | dsimp only)

theorem execCreditRepeat_keep (st : Nat) (s : State)
    (hk : Fit qq s) :
    FitO qq (execCreditRepeat st s) := by
  unfold execCreditRepeat
  repeat' (first | with_reducible assumption | with_reducible apply next_keep | with_reducible apply act_keep
                 | with_reducible apply each_keep | with_reducible apply creditRecords_keep | intro _ | dsimp only)

theorem execCreditRecordReceive_keep (st : Nat) (rd : Nat) (rec : W64) (s : State)
    (hk : Fit qq s) :
    FitO qq (execCreditRecordReceive st rd rec s) := by
  unfold execCreditRecordReceive
  repeat' (first | with_reducible assumption | with_reducible apply next_keep | with_reducible apply act_keep
                 | with_reducible apply takeCredit_keep | intro _ | dsimp only)

theorem crallocWrite_keep (s : State) (st : ℕ) (w : ℕ) (vc : ℕ) (data : W32)
    (hk : Fit qq s) :
    Fit qq (State.crallocWrite s st w vc data).1 := by
  unfold State.crallocWrite
  repeat' (first | with_reducible assumption | simp only [fit_mk] | with_reducible apply fitMem_of_fit | split
                 | dsimp only)

theorem execPlatSet_keep (o : Origin) (id : ℕ) (entry : W64) (s : State)
    (hk : Fit qq s) :
    FitO qq (execPlatSet o id entry s) := by
  unfold execPlatSet
  repeat' (first | with_reducible assumption | with_reducible apply next_keep | with_reducible apply command_keep
                 | simp only [fit_mk] | with_reducible apply fitMem_of_fit | intro _ | dsimp only)

theorem execPlatGet_keep (o : Origin) (id : ℕ) (s : State)
    (hk : Fit qq s) :
    FitO qq (execPlatGet o id s) := by
  unfold execPlatGet
  repeat' (first | with_reducible assumption | with_reducible apply next_keep | with_reducible apply command_keep
                 | intro _ | dsimp only)

theorem execPlatBolt_keep (o : Origin) (s : State)
    (hk : Fit qq s) :
    FitO qq (execPlatBolt o s) := by
  unfold execPlatBolt
  repeat' (first | with_reducible assumption | with_reducible apply next_keep | with_reducible apply command_keep
                 | simp only [fit_mk] | with_reducible apply fitMem_of_fit | intro _ | dsimp only)

theorem transmitMc_keep (s : State) (st : Nat) (q : QPacket) (pseq : BitVec 14) (again : Bool) (l : List Nat)
    (hk : Fit qq s) :
    Fit qq (State.transmitMc s st q pseq again l) := by
  unfold State.transmitMc
  repeat' (first | with_reducible assumption | with_reducible apply each_keep | with_reducible apply setHeld_keep
                 | with_reducible apply deliver_keep | with_reducible apply place_keep | simp only [fit_mk]
                 | with_reducible apply fitMem_of_fit | split | intro _ | dsimp only)

theorem tellMc_keep (s : State) (st : Nat) (q : QPacket) (status : Status) (mask : Byte)
    (hk : Fit qq s) :
    Fit qq (State.tellMc s st q status mask) := by
  unfold State.tellMc
  repeat' (first | with_reducible assumption | with_reducible apply endOp_keep | with_reducible apply reply_keep
                 | split | intro _ | dsimp only)

theorem endMc_keep (s : State) (st : Nat) (r : Remnant) (status : Status)
    (hk : Fit qq s) :
    Fit qq (State.endMc s st r status) := by
  unfold State.endMc
  repeat' (first | with_reducible assumption | with_reducible apply modSta_keep | with_reducible apply id_keep
                 | with_reducible apply tellMc_keep | simp only [fit_mk] | with_reducible apply fitMem_of_fit | split
                 | intro _ | dsimp only)

theorem execMcastFirstAttempt_keep (st : Nat) (s : State)
    (hk : Fit qq s) :
    FitO qq (execMcastFirstAttempt st s) := by
  unfold execMcastFirstAttempt
  repeat' (first | with_reducible assumption | with_reducible apply next_keep | with_reducible apply act_keep
                 | with_reducible apply unqueue_keep | with_reducible apply id_keep | with_reducible apply tellMc_keep
                 | with_reducible apply modSta_keep | with_reducible apply nextPseq_keep
                 | with_reducible apply markSent_keep | with_reducible apply transmitMc_keep | simp only [fit_mk]
                 | with_reducible apply fitMem_of_fit | split | intro _ | dsimp only)

theorem execRemnantRetransmit_keep (st : Nat) (id : Nat) (s : State)
    (hk : Fit qq s) :
    FitO qq (execRemnantRetransmit st id s) := by
  unfold execRemnantRetransmit
  repeat' (first | with_reducible assumption | with_reducible apply next_keep | with_reducible apply id_keep
                 | with_reducible apply act_keep | with_reducible apply endMc_keep | with_reducible apply modSta_keep
                 | with_reducible apply nextPseq_keep | with_reducible apply markSent_keep
                 | with_reducible apply transmitMc_keep | simp only [fit_mk] | with_reducible apply fitMem_of_fit
                 | split | intro _ | dsimp only)

theorem execMcastComplete_keep (st : ℕ) (id : ℕ) (s : State)
    (hk : Fit qq s) :
    FitO qq (execMcastComplete st id s) := by
  unfold execMcastComplete
  repeat' (first | with_reducible assumption | with_reducible apply next_keep | with_reducible apply act_keep
                 | with_reducible apply endMc_keep | split | intro _ | dsimp only)

theorem execMcastPartial_keep (st : ℕ) (id : ℕ) (s : State)
    (hk : Fit qq s) :
    FitO qq (execMcastPartial st id s) := by
  unfold execMcastPartial
  repeat' (first | with_reducible assumption | with_reducible apply next_keep | with_reducible apply act_keep
                 | with_reducible apply endMc_keep | split | intro _ | dsimp only)

end Sys2Proof.Machine
end

