-- ==== Sys2Proof/Laws/KeepOperations.lean ====
section
/-! SUPPORT. The operations and meanings of Machine/Operations leave the queue alone and keep the memory's one form. -/

namespace Sys2Proof.Machine

set_option linter.unreachableTactic false
set_option linter.unusedTactic false
set_option linter.unusedSimpArgs false

variable {qq : List Instr}

theorem applyAtomic_keep (s : State) (st : ℕ) (a : ℕ) (k : ℕ) (size : ℕ) (operand : List Byte)
    (hk : Fit qq s) :
    Fit qq (State.applyAtomic s st a k size operand).1 := by
  unfold State.applyAtomic
  repeat' (first | with_reducible assumption | with_reducible apply stWrite_keep | dsimp only)

theorem rackAtomic_keep (s : State) (st : Nat) (p : Packet) (k : Nat) (size : Nat) (bad : List Nat)
    (hk : Fit qq s) :
    Fit qq (State.rackAtomic s st p k size bad) := by
  unfold State.rackAtomic
  repeat' (first | with_reducible assumption | with_reducible apply replyFault_keep | with_reducible apply modMs_keep
                 | with_reducible apply reply_keep | with_reducible apply eccSpan_keep
                 | with_reducible apply applyAtomic_keep | simp only [fit_mk] | with_reducible apply fitMem_of_fit
                 | split | intro _ | dsimp only)

theorem setStack_keep (s : State) (h : Nat) (x : HbmState)
    (hk : Fit qq s) :
    Fit qq (State.setStack s h x) := by
  unfold State.setStack
  repeat' (first | with_reducible assumption | with_reducible apply modHbm_keep | with_reducible apply sense_keep
                 | with_reducible apply capSense_keep | simp only [fit_mk] | with_reducible apply fitMem_of_fit
                 | intro _ | dsimp only)

theorem wakeStack_keep (s : State) (a : Nat)
    (hk : Fit qq s) :
    Fit qq (State.wakeStack s a) := by
  unfold State.wakeStack
  repeat' (first | with_reducible assumption | with_reducible apply setStack_keep | split | intro _ | dsimp only)

theorem openUp_keep (s : State) (st : Nat) (a : Nat) (n : Nat)
    (hk : Fit qq s) :
    Fit qq (State.openUp s st a n) := by
  unfold State.openUp
  repeat' (first | with_reducible assumption | with_reducible apply each_keep | with_reducible apply wakeStack_keep
                 | with_reducible apply touchBlock_keep | with_reducible apply id_keep | split | intro _ | dsimp only)

theorem performReq_keep (s : State) (st : Nat) (p : Packet) (bad : List Nat)
    (hk : Fit qq s) :
    Fit qq (State.performReq s st p bad) := by
  unfold State.performReq
  repeat' (first | with_reducible assumption | with_reducible apply openUp_keep | with_reducible apply eccParts_keep
                 | with_reducible apply stWrite_keep | with_reducible apply replyFault_keep
                 | with_reducible apply eccSpan_keep | with_reducible apply reply_keep
                 | with_reducible apply rackAtomic_keep | with_reducible apply applyAtomic_keep
                 | with_reducible apply stPoisonBlocks_keep | split | intro _ | dsimp only)

theorem performFirst_keep (s : State) (st : Nat) (bad : List Nat) (kind : Nat → Bool) (hk : Fit qq s) :
    FitO qq (s.performFirst st bad kind) := by
  unfold State.performFirst
  dsimp only
  split
  · exact next_keep hk
  · refine act_keep _ hk fun s h => ?_
    split
    · exact h
    · rename_i he
      exact performReq_keep _ _ _ _ (takeInbox_keep he h)

theorem execRemoteOpPerform_keep (st : Nat) (bad : List Nat) (s : State)
    (hk : Fit qq s) :
    FitO qq (execRemoteOpPerform st bad s) := by
  unfold execRemoteOpPerform
  repeat' (first | with_reducible assumption | with_reducible apply next_keep | with_reducible apply performFirst_keep
                 | intro _ | dsimp only)

theorem execLoad_keep (st : Nat) (bad : List Nat) (s : State)
    (hk : Fit qq s) :
    FitO qq (execLoad st bad s) := by
  unfold execLoad
  repeat' (first | with_reducible assumption | with_reducible apply next_keep | with_reducible apply performFirst_keep
                 | intro _ | dsimp only)

theorem execStore_keep (st : Nat) (bad : List Nat) (s : State)
    (hk : Fit qq s) :
    FitO qq (execStore st bad s) := by
  unfold execStore
  repeat' (first | with_reducible assumption | with_reducible apply next_keep | with_reducible apply performFirst_keep
                 | intro _ | dsimp only)

theorem execAtomic_keep (st : Nat) (bad : List Nat) (s : State)
    (hk : Fit qq s) :
    FitO qq (execAtomic st bad s) := by
  unfold execAtomic
  repeat' (first | with_reducible assumption | with_reducible apply next_keep | with_reducible apply performFirst_keep
                 | intro _ | dsimp only)

theorem execReduction_keep (st : Nat) (bad : List Nat) (s : State)
    (hk : Fit qq s) :
    FitO qq (execReduction st bad s) := by
  unfold execReduction
  repeat' (first | with_reducible assumption | with_reducible apply next_keep | with_reducible apply performFirst_keep
                 | intro _ | dsimp only)

theorem execMcastStorePacket_keep (st : Nat) (s : State)
    (hk : Fit qq s) :
    FitO qq (execMcastStorePacket st s) := by
  unfold execMcastStorePacket
  repeat' (first | with_reducible assumption | with_reducible apply next_keep | with_reducible apply performFirst_keep
                 | intro _ | dsimp only)

theorem takeReply_keep (s : State) (st : Nat) (op : Nat)
    (hk : Fit qq s) :
    FitO qq (State.takeReply s st op) := by
  unfold State.takeReply
  repeat' (first | with_reducible assumption | with_reducible apply next_keep | with_reducible apply act_keep
                 | with_reducible refine takeInbox_keep ‹_› ?_ | with_reducible apply finish_keep | split | intro _
                 | dsimp only)

theorem execLoadData_keep (st : ℕ) (s : State)
    (hk : Fit qq s) :
    FitO qq (execLoadData st s) := by
  unfold execLoadData
  repeat' (first | with_reducible assumption | with_reducible apply next_keep | with_reducible apply takeReply_keep
                 | dsimp only)

theorem execAck_keep (st : ℕ) (s : State)
    (hk : Fit qq s) :
    FitO qq (execAck st s) := by
  unfold execAck
  repeat' (first | with_reducible assumption | with_reducible apply next_keep | with_reducible apply takeReply_keep
                 | dsimp only)

theorem execAtomicResult_keep (st : ℕ) (s : State)
    (hk : Fit qq s) :
    FitO qq (execAtomicResult st s) := by
  unfold execAtomicResult
  repeat' (first | with_reducible assumption | with_reducible apply next_keep | with_reducible apply takeReply_keep
                 | dsimp only)

theorem execAtomicReplayed_keep (st : ℕ) (s : State)
    (hk : Fit qq s) :
    FitO qq (execAtomicReplayed st s) := by
  unfold execAtomicReplayed
  repeat' (first | with_reducible assumption | with_reducible apply next_keep | with_reducible apply takeReply_keep
                 | dsimp only)

theorem execFault_keep (st : ℕ) (s : State)
    (hk : Fit qq s) :
    FitO qq (execFault st s) := by
  unfold execFault
  repeat' (first | with_reducible assumption | with_reducible apply next_keep | with_reducible apply takeReply_keep
                 | dsimp only)

theorem execDead_keep (st : ℕ) (s : State)
    (hk : Fit qq s) :
    FitO qq (execDead st s) := by
  unfold execDead
  repeat' (first | with_reducible assumption | with_reducible apply next_keep | with_reducible apply takeReply_keep
                 | dsimp only)

theorem execReceiptFilled_keep (share : ℕ) (s : State)
    (hk : Fit qq s) :
    FitO qq (execReceiptFilled share s) := by
  unfold execReceiptFilled
  repeat' (first | with_reducible assumption | with_reducible apply next_keep | with_reducible apply act_keep
                 | with_reducible apply modMs_keep | with_reducible apply each_keep | with_reducible apply reply_keep
                 | split | intro _ | dsimp only)

theorem execReceiptExpire_keep (share : ℕ) (s : State)
    (hk : Fit qq s) :
    FitO qq (execReceiptExpire share s) := by
  unfold execReceiptExpire
  repeat' (first | with_reducible assumption | with_reducible apply next_keep | with_reducible apply act_keep
                 | with_reducible apply modMs_keep | intro _ | dsimp only)

theorem dropRack_keep (s : State) (id : Nat)
    (hk : Fit qq s) :
    Fit qq (State.dropRack s id) := by
  unfold State.dropRack
  repeat' (first | with_reducible assumption | with_reducible apply id_keep | simp only [fit_mk]
                 | with_reducible apply fitMem_of_fit | intro _ | dsimp only)

theorem fabricIn_keep (s : State) (x : ℕ) (p : Packet)
    (hk : Fit qq s) :
    Fit qq (State.fabricIn s x p) := by
  unfold State.fabricIn
  repeat' (first | with_reducible assumption | with_reducible apply ringSend_keep | with_reducible apply dropRack_keep
                 | with_reducible apply post_keep | with_reducible apply replyFault_keep
                 | with_reducible apply modSta_keep | with_reducible apply netSend_keep | simp only [fit_mk]
                 | with_reducible apply fitMem_of_fit | split | dsimp only)

theorem execRackOpResend_keep (id : ℕ) (s : State)
    (hk : Fit qq s) :
    FitO qq (execRackOpResend id s) := by
  unfold execRackOpResend
  repeat' (first | with_reducible assumption | with_reducible apply next_keep | with_reducible apply act_keep
                 | with_reducible apply depart_keep | simp only [fit_mk] | with_reducible apply fitMem_of_fit | split
                 | intro _ | dsimp only)

theorem execRackOpGiveup_keep (id : ℕ) (s : State)
    (hk : Fit qq s) :
    FitO qq (execRackOpGiveup id s) := by
  unfold execRackOpGiveup
  repeat' (first | with_reducible assumption | with_reducible apply next_keep | with_reducible apply act_keep
                 | with_reducible apply dropRack_keep | with_reducible apply post_keep | simp only [fit_mk]
                 | with_reducible apply fitMem_of_fit | split | intro _ | dsimp only)

theorem execDeadTargetTimeout_keep (id : ℕ) (s : State)
    (hk : Fit qq s) :
    FitO qq (execDeadTargetTimeout id s) := by
  unfold execDeadTargetTimeout
  repeat' (first | with_reducible assumption | with_reducible apply next_keep | with_reducible apply act_keep
                 | with_reducible apply finish_keep | split | intro _ | dsimp only)

theorem dropFence_keep (s : State) (f : Fence)
    (hk : Fit qq s) :
    Fit qq (State.dropFence s f) := by
  unfold State.dropFence
  repeat' (first | with_reducible assumption | simp only [fit_mk] | with_reducible apply fitMem_of_fit | dsimp only)

theorem execFenceComplete_keep (core : ℕ) (ctx : ℕ) (s : State)
    (hk : Fit qq s) :
    FitO qq (execFenceComplete core ctx s) := by
  unfold execFenceComplete
  repeat' (first | with_reducible assumption | with_reducible apply next_keep | with_reducible apply act_keep
                 | with_reducible apply ctxWorst_keep | with_reducible apply dropFence_keep
                 | with_reducible apply signal_keep | with_reducible apply modCtx_keep | with_reducible apply setCtx_keep
                 | split | intro _ | dsimp only)

theorem execParkedReplyWritten_keep (core : ℕ) (ctx : ℕ) (s : State)
    (hk : Fit qq s) :
    FitO qq (execParkedReplyWritten core ctx s) := by
  unfold execParkedReplyWritten
  repeat' (first | with_reducible assumption | with_reducible apply next_keep | with_reducible apply act_keep
                 | with_reducible apply modCtx_keep | with_reducible apply setCtx_keep | with_reducible apply signal_keep
                 | split | intro _ | dsimp only)

end Sys2Proof.Machine
end

