-- ==== Sys2Proof/Laws/KeepPorts.lean ====
section
/-! SUPPORT. The operations and meanings of Machine/Ports leave the queue alone and keep the memory's one form. -/

namespace Sys2Proof.Machine

set_option linter.unreachableTactic false
set_option linter.unusedTactic false
set_option linter.unusedSimpArgs false

variable {qq : List Instr}

theorem emitFrame_keep (s : State) (p : ℕ) (key : ℕ) (f : Frame)
    (hk : Fit qq s) :
    Fit qq (State.emitFrame s p key f) := by
  unfold State.emitFrame
  repeat' (first | with_reducible assumption | with_reducible apply emit_keep | with_reducible apply modWin_keep
                 | dsimp only)

theorem sendCtl_keep (s : State) (p : ℕ) (key : ℕ) (kind : ℕ) (body : List Byte)
    (hk : Fit qq s) :
    Fit qq (State.sendCtl s p key kind body) := by
  unfold State.sendCtl
  repeat' (first | with_reducible assumption | with_reducible apply emitFrame_keep | simp only [fit_mk]
                 | with_reducible apply fitMem_of_fit | split | dsimp only)

theorem flushCtl_keep (s : State) (p : ℕ)
    (hk : Fit qq s) :
    Fit qq (State.flushCtl s p) := by
  unfold State.flushCtl
  repeat' (first | with_reducible assumption | with_reducible apply each_keep | with_reducible apply emitFrame_keep
                 | simp only [fit_mk] | with_reducible apply fitMem_of_fit | intro _ | dsimp only)

theorem transmit_keep (s : State) (f : SentFrame)
    (hk : Fit qq s) :
    Fit qq (State.transmit s f) := by
  unfold State.transmit
  repeat' (first | with_reducible assumption | with_reducible apply emitFrame_keep | simp only [fit_mk]
                 | with_reducible apply fitMem_of_fit | split | dsimp only)

theorem resend_keep (s : State) (f : SentFrame)
    (hk : Fit qq s) :
    Fit qq (State.resend s f) := by
  unfold State.resend
  repeat' (first | with_reducible assumption | with_reducible apply draw_keep | with_reducible apply modPort_keep
                 | with_reducible apply transmit_keep | simp only [fit_mk] | with_reducible apply fitMem_of_fit | split
                 | dsimp only)

theorem newFrame_keep (s : State) (p : Nat) (q : QPacket)
    (hk : Fit qq s) :
    Fit qq (State.newFrame s p q) := by
  unfold State.newFrame
  repeat' (first | with_reducible assumption | with_reducible apply outTake_keep | with_reducible apply modSend_keep
                 | with_reducible apply transmit_keep | simp only [fit_mk] | with_reducible apply fitMem_of_fit
                 | intro _ | dsimp only)

theorem execFrameSend_keep (p : Nat) (s : State)
    (hk : Fit qq s) :
    FitO qq (execFrameSend p s) := by
  unfold execFrameSend
  repeat' (first | with_reducible assumption | with_reducible apply next_keep | with_reducible apply act_keep
                 | with_reducible apply transmit_keep | with_reducible apply newFrame_keep | split | intro _
                 | dsimp only)

theorem markAccepted_keep (s : State) (l : List SentFrame)
    (hk : Fit qq s) :
    Fit qq (State.markAccepted s l) := by
  unfold State.markAccepted
  repeat' (first | with_reducible assumption | simp only [fit_mk] | with_reducible apply fitMem_of_fit | split
                 | dsimp only)

theorem pathBack_keep (s : State) (p : ℕ) (key : ℕ)
    (hk : Fit qq s) :
    Fit qq (State.pathBack s p key) := by
  unfold State.pathBack
  repeat' (first | with_reducible assumption | with_reducible apply sense_keep | with_reducible apply modPort_keep
                 | dsimp only)

theorem freeFrames_keep (s : State) (l : List SentFrame)
    (hk : Fit qq s) :
    Fit qq (State.freeFrames s l) := by
  unfold State.freeFrames
  repeat' (first | with_reducible assumption | with_reducible apply each_keep | with_reducible apply pathBack_keep
                 | simp only [fit_mk] | with_reducible apply fitMem_of_fit | intro _ | dsimp only)

theorem takeAckSeq_keep (s : State) (key : ℕ) (h : FHdr)
    (hk : Fit qq s) :
    Fit qq (State.takeAckSeq s key h) := by
  unfold State.takeAckSeq
  repeat' (first | with_reducible assumption | with_reducible apply markAccepted_keep
                 | with_reducible apply freeFrames_keep | split | dsimp only)

theorem popFrame_keep (s : State) (p : ℕ)
    (hk : Fit qq s) :
    Fit qq (State.popFrame s p) := by
  unfold State.popFrame
  repeat' (first | with_reducible assumption | with_reducible apply modPort_keep | dsimp only)

theorem execAckFrame_keep (p : ℕ) (s : State)
    (hk : Fit qq s) :
    FitO qq (execAckFrame p s) := by
  unfold execAckFrame
  repeat' (first | with_reducible assumption | with_reducible apply next_keep | with_reducible apply when_keep
                 | with_reducible apply popFrame_keep | with_reducible apply draw_keep
                 | with_reducible apply takeAckSeq_keep | split | intro _ | dsimp only)

theorem execNakFrame_keep (p : ℕ) (s : State)
    (hk : Fit qq s) :
    FitO qq (execNakFrame p s) := by
  unfold execNakFrame
  repeat' (first | with_reducible assumption | with_reducible apply next_keep | with_reducible apply takeAckSeq_keep
                 | with_reducible apply popFrame_keep | with_reducible apply each_keep | with_reducible apply resend_keep
                 | split | intro _ | dsimp only)

theorem execRefuse_keep (p : Nat) (s : State)
    (hk : Fit qq s) :
    FitO qq (execRefuse p s) := by
  unfold execRefuse
  repeat' (first | with_reducible assumption | with_reducible apply next_keep | with_reducible apply popFrame_keep
                 | with_reducible apply freeFrames_keep | with_reducible apply takeAckSeq_keep
                 | with_reducible apply id_keep | simp only [fit_mk] | with_reducible apply fitMem_of_fit | split
                 | intro _ | dsimp only)

theorem execRefusalBackoffEnd_keep (fdst : Nat) (s : State)
    (hk : Fit qq s) :
    FitO qq (execRefusalBackoffEnd fdst s) := by
  unfold execRefusalBackoffEnd
  repeat' (first | with_reducible assumption | with_reducible apply next_keep | with_reducible apply act_keep
                 | with_reducible apply outPut_keep | simp only [fit_mk] | with_reducible apply fitMem_of_fit | split
                 | intro _ | dsimp only)

theorem endRack_keep (s : State) (id : ℕ) (st : Status)
    (hk : Fit qq s) :
    Fit qq (State.endRack s id st) := by
  unfold State.endRack
  repeat' (first | with_reducible assumption | with_reducible apply post_keep | with_reducible apply dropRack_keep
                 | split | dsimp only)

theorem execResync_keep (p : ℕ) (s : State)
    (hk : Fit qq s) :
    FitO qq (execResync p s) := by
  unfold execResync
  repeat' (first | with_reducible assumption | with_reducible apply next_keep | with_reducible apply popFrame_keep
                 | with_reducible apply each_keep | with_reducible apply endRack_keep | with_reducible apply raise_keep
                 | with_reducible apply modSend_keep | simp only [fit_mk] | with_reducible apply fitMem_of_fit | split
                 | intro _ | dsimp only)

theorem execFrameResendTimer_keep (fdst : ℕ) (fseq : BitVec 24) (s : State)
    (hk : Fit qq s) :
    FitO qq (execFrameResendTimer fdst fseq s) := by
  unfold execFrameResendTimer
  repeat' (first | with_reducible assumption | with_reducible apply next_keep | with_reducible apply act_keep
                 | with_reducible apply resend_keep | split | intro _ | dsimp only)

theorem execAckFrameTimer_keep (fsrc : ℕ) (s : State)
    (hk : Fit qq s) :
    FitO qq (execAckFrameTimer fsrc s) := by
  unfold execAckFrameTimer
  repeat' (first | with_reducible assumption | with_reducible apply next_keep | with_reducible apply act_keep
                 | with_reducible apply sendCtl_keep | intro _ | dsimp only)

theorem execNakGapTimer_keep (fsrc : ℕ) (s : State)
    (hk : Fit qq s) :
    FitO qq (execNakGapTimer fsrc s) := by
  unfold execNakGapTimer
  repeat' (first | with_reducible assumption | with_reducible apply next_keep | with_reducible apply act_keep
                 | with_reducible apply sendCtl_keep | split | intro _ | dsimp only)

theorem moveFrame_keep (s : State) (f : SentFrame)
    (hk : Fit qq s) :
    Fit qq (State.moveFrame s f) := by
  unfold State.moveFrame
  repeat' (first | with_reducible assumption | simp only [fit_mk] | with_reducible apply fitMem_of_fit | split
                 | dsimp only)

theorem moveQueue_keep (s : State) (p : Nat) (l : QPacket → Bool)
    (hk : Fit qq s) :
    Fit qq (State.moveQueue s p l) := by
  unfold State.moveQueue
  repeat' (first | with_reducible assumption | with_reducible apply each_keep | with_reducible apply outTake_keep
                 | with_reducible apply outPut_keep | simp only [fit_mk] | with_reducible apply fitMem_of_fit | split
                 | intro _ | dsimp only)

theorem execPathFail_keep (p : ℕ) (fdst : ℕ) (s : State)
    (hk : Fit qq s) :
    FitO qq (execPathFail p fdst s) := by
  unfold execPathFail
  repeat' (first | with_reducible assumption | with_reducible apply next_keep | with_reducible apply act_keep
                 | with_reducible apply sense_keep | with_reducible apply modPort_keep | with_reducible apply each_keep
                 | with_reducible apply moveFrame_keep | with_reducible apply moveQueue_keep | intro _ | dsimp only)

theorem execPathProbe_keep (p : ℕ) (fdst : ℕ) (s : State)
    (hk : Fit qq s) :
    FitO qq (execPathProbe p fdst s) := by
  unfold execPathProbe
  repeat' (first | with_reducible assumption | with_reducible apply next_keep | with_reducible apply act_keep
                 | with_reducible apply emitFrame_keep | simp only [fit_mk] | with_reducible apply fitMem_of_fit | split
                 | intro _ | dsimp only)

theorem execMirrorHandover_keep (p : ℕ) (s : State)
    (hk : Fit qq s) :
    FitO qq (execMirrorHandover p s) := by
  unfold execMirrorHandover
  repeat' (first | with_reducible assumption | with_reducible apply next_keep | with_reducible apply act_keep
                 | with_reducible apply each_keep | with_reducible apply moveFrame_keep | intro _ | dsimp only)

theorem portLeft_keep (s : State) (p : Nat)
    (hk : Fit qq s) :
    Fit qq (State.portLeft s p) := by
  unfold State.portLeft
  repeat' (first | with_reducible assumption | with_reducible apply moveQueue_keep
                 | with_reducible apply markAccepted_keep | simp only [fit_mk] | with_reducible apply fitMem_of_fit
                 | split | intro _ | dsimp only)

theorem setPort_keep (s : State) (p : ℕ) (f : Port → Port)
    (hk : Fit qq s) :
    Fit qq (State.setPort s p f) := by
  unfold State.setPort
  repeat' (first | with_reducible assumption | with_reducible apply capSense_keep | with_reducible apply sense_keep
                 | with_reducible apply modPort_keep | dsimp only)

theorem takePort_keep (s : State) (p : ℕ) (f : Port → Port)
    (hk : Fit qq s) :
    Fit qq (State.takePort s p f) := by
  unfold State.takePort
  repeat' (first | with_reducible assumption | with_reducible apply setPort_keep | with_reducible apply portLeft_keep
                 | split | dsimp only)

theorem receiveFrame_keep (s : State) (p : ℕ) (f : Frame)
    (hk : Fit qq s) :
    Fit qq (State.receiveFrame s p f) := by
  unfold State.receiveFrame
  repeat' (first | with_reducible assumption | with_reducible apply modPort_keep | with_reducible apply raise_keep
                 | with_reducible apply sendCtl_keep | with_reducible apply modWin_keep | split | dsimp only)

theorem execFrameReceive_keep (p : ℕ) (f : Frame) (s : State)
    (hk : Fit qq s) :
    FitO qq (execFrameReceive p f s) := by
  unfold execFrameReceive
  repeat' (first | with_reducible assumption | with_reducible apply next_keep | with_reducible apply act_keep
                 | with_reducible apply receiveFrame_keep | intro _ | dsimp only)

theorem relayFault_keep (s : State) (p : Nat) (pkt : Packet) (st : Status)
    (hk : Fit qq s) :
    Fit qq (State.relayFault s p pkt st) := by
  unfold State.relayFault
  repeat' (first | with_reducible assumption | with_reducible apply toPort_keep | with_reducible apply depart_keep
                 | simp only [fit_mk] | with_reducible apply fitMem_of_fit | split | intro _ | dsimp only)

theorem relay_keep (s : State) (p : Nat) (here : Nat) (pkt : Packet)
    (hk : Fit qq s) :
    Fit qq (State.relay s p here pkt) := by
  unfold State.relay
  repeat' (first | with_reducible assumption | with_reducible apply relayFault_keep | with_reducible apply toPort_keep
                 | simp only [fit_mk] | with_reducible apply fitMem_of_fit | split | intro _ | dsimp only)

theorem enterHere_keep (s : State) (p : ℕ) (ft : W64) (pkt : Packet)
    (hk : Fit qq s) :
    Fit qq (State.enterHere s p ft pkt) := by
  unfold State.enterHere
  repeat' (first | with_reducible assumption | with_reducible apply ringIn_keep | split | dsimp only)

theorem packetIn_keep (s : State) (p : ℕ) (ft : W64) (pkt : Packet)
    (hk : Fit qq s) :
    Fit qq (State.packetIn s p ft pkt) := by
  unfold State.packetIn
  repeat' (first | with_reducible assumption | with_reducible apply ringIn_keep | with_reducible apply enterHere_keep
                 | with_reducible apply replicate_keep | with_reducible apply relay_keep | split | dsimp only)

theorem sendRefuse_keep (s : State) (p : ℕ) (key : ℕ) (q : BitVec 24) (st : ℕ) (vc : ℕ)
    (hk : Fit qq s) :
    Fit qq (State.sendRefuse s p key q st vc) := by
  unfold State.sendRefuse
  repeat' (first | with_reducible assumption | with_reducible apply sendCtl_keep | dsimp only)

theorem dataIn_keep (s : State) (p : ℕ) (key : ℕ) (ft : W64) (h : FHdr) (pkt : Packet)
    (hk : Fit qq s) :
    Fit qq (State.dataIn s p key ft h pkt) := by
  unfold State.dataIn
  repeat' (first | with_reducible assumption | with_reducible apply modWin_keep | with_reducible apply modPort_keep
                 | with_reducible apply sendRefuse_keep | with_reducible apply packetIn_keep | simp only [fit_mk]
                 | with_reducible apply fitMem_of_fit | split | dsimp only)

theorem execDataFrame_keep (p : ℕ) (s : State)
    (hk : Fit qq s) :
    FitO qq (execDataFrame p s) := by
  unfold execDataFrame
  repeat' (first | with_reducible assumption | with_reducible apply next_keep | with_reducible apply takeAckSeq_keep
                 | with_reducible apply popFrame_keep | with_reducible apply dataIn_keep | split | dsimp only)

theorem calWrite_keep (s : State) (p : ℕ) (slot : ℕ) (type : ℕ) (dset : ℕ) (notBefore : W64)
    (hk : Fit qq s) :
    Fit qq (State.calWrite s p slot type dset notBefore) := by
  unfold State.calWrite
  repeat' (first | with_reducible assumption | with_reducible apply modPort_keep | dsimp only)

theorem execCalSet_keep (o : Origin) (p : ℕ) (slot : ℕ) (type : ℕ) (dset : ℕ) (s : State)
    (hk : Fit qq s) :
    FitO qq (execCalSet o p slot type dset s) := by
  unfold execCalSet
  repeat' (first | with_reducible assumption | with_reducible apply next_keep | with_reducible apply command_keep
                 | with_reducible apply calWrite_keep | intro _ | dsimp only)

theorem execCalDset_keep (o : Origin) (p : ℕ) (i : ℕ) (mask : W64) (s : State)
    (hk : Fit qq s) :
    FitO qq (execCalDset o p i mask s) := by
  unfold execCalDset
  repeat' (first | with_reducible assumption | with_reducible apply next_keep | with_reducible apply command_keep
                 | with_reducible apply modPort_keep | intro _ | dsimp only)

theorem execCalGet_keep (o : Origin) (p : ℕ) (slot : ℕ) (s : State)
    (hk : Fit qq s) :
    FitO qq (execCalGet o p slot s) := by
  unfold execCalGet
  repeat' (first | with_reducible assumption | with_reducible apply next_keep | with_reducible apply command_keep
                 | intro _ | dsimp only)

theorem countOpen_keep (s : State) (p : ℕ)
    (hk : Fit qq s) :
    Fit qq (State.countOpen s p) := by
  unfold State.countOpen
  repeat' (first | with_reducible assumption | simp only [fit_mk] | with_reducible apply fitMem_of_fit | split
                 | dsimp only)

theorem execCalendarSlot_keep (p : ℕ) (slot : ℕ) (s : State)
    (hk : Fit qq s) :
    FitO qq (execCalendarSlot p slot s) := by
  unfold execCalendarSlot
  repeat' (first | with_reducible assumption | with_reducible apply next_keep | with_reducible apply act_keep
                 | with_reducible apply flushCtl_keep | with_reducible apply countOpen_keep
                 | with_reducible apply modPort_keep | intro _ | dsimp only)

theorem execPortTrain_keep (p : ℕ) (peerGenMax : ℕ) (peerHost : Bool) (s : State)
    (hk : Fit qq s) :
    FitO qq (execPortTrain p peerGenMax peerHost s) := by
  unfold execPortTrain
  repeat' (first | with_reducible assumption | with_reducible apply next_keep | with_reducible apply act_keep
                 | with_reducible apply setPort_keep | split | intro _ | dsimp only)

theorem execGen2TrainTimeout_keep (p : ℕ) (s : State)
    (hk : Fit qq s) :
    FitO qq (execGen2TrainTimeout p s) := by
  unfold execGen2TrainTimeout
  repeat' (first | with_reducible assumption | with_reducible apply next_keep | with_reducible apply act_keep
                 | with_reducible apply setPort_keep | intro _ | dsimp only)

theorem execPortTrainTimeout_keep (p : ℕ) (s : State)
    (hk : Fit qq s) :
    FitO qq (execPortTrainTimeout p s) := by
  unfold execPortTrainTimeout
  repeat' (first | with_reducible assumption | with_reducible apply next_keep | with_reducible apply act_keep
                 | with_reducible apply setPort_keep | intro _ | dsimp only)

theorem execPortTrainComplete_keep (p : ℕ) (s : State)
    (hk : Fit qq s) :
    FitO qq (execPortTrainComplete p s) := by
  unfold execPortTrainComplete
  repeat' (first | with_reducible assumption | with_reducible apply next_keep | with_reducible apply act_keep
                 | with_reducible apply setPort_keep | intro _ | dsimp only)

theorem execPeerLightDetect_keep (p : ℕ) (s : State)
    (hk : Fit qq s) :
    FitO qq (execPeerLightDetect p s) := by
  unfold execPeerLightDetect
  repeat' (first | with_reducible assumption | with_reducible apply next_keep | with_reducible apply act_keep
                 | with_reducible apply modPort_keep | with_reducible apply setPort_keep | split | intro _ | dsimp only)

theorem execPortDown_keep (p : ℕ) (why : PortCause) (s : State)
    (hk : Fit qq s) :
    FitO qq (execPortDown p why s) := by
  unfold execPortDown
  repeat' (first | with_reducible assumption | with_reducible apply next_keep | with_reducible apply act_keep
                 | with_reducible apply takePort_keep | intro _ | dsimp only)

theorem portCfg_keep (s : State) (p : ℕ) (data : W32)
    (hk : Fit qq s) :
    Fit qq (State.portCfg s p data).1 := by
  unfold State.portCfg
  repeat' (first | with_reducible assumption | with_reducible apply takePort_keep | split | dsimp only)

end Sys2Proof.Machine
end

