-- ==== Sys2Proof/Laws/KeepGroup.lean ====
section
/-! SUPPORT. The operations and meanings of Machine/Group leave the queue alone and keep the memory's one form. -/

namespace Sys2Proof.Machine

set_option linter.unreachableTactic false
set_option linter.unusedTactic false
set_option linter.unusedSimpArgs false

variable {qq : List Instr}

theorem sendGroup_keep (s : State) (dest op : Nat) (payload : List Byte) (hk : Fit qq s) :
    Fit qq (s.sendGroup dest op payload) := by
  unfold State.sendGroup
  exact each_keep _ hk fun p s h => depart_keep s _ p none h

theorem takeCtl_keep {s t : State} {op : Nat} {x} (he : s.takeCtl op = some (x, t)) (hk : Fit qq s) : Fit qq t := by
  unfold State.takeCtl at he
  split at he
  · cases he
  · cases he
    exact hk

theorem badRole_keep (s : State) (p : ℕ)
    (hk : Fit qq s) :
    Fit qq (State.badRole s p) := by
  unfold State.badRole
  repeat' (first | with_reducible assumption | with_reducible apply draw_keep | with_reducible apply log_keep
                 | with_reducible apply modPort_keep | dsimp only)

theorem shareSync_keep (s1 : State) (s0 : State)
    (hk : Fit qq s1) :
    Fit qq (State.shareSync s1 s0) := by
  unfold State.shareSync
  repeat' (first | with_reducible assumption | with_reducible apply each_keep | with_reducible apply capSense_keep
                 | with_reducible apply modMs_keep | split | intro _ | dsimp only)

theorem execBeacon_keep (peer : ℕ) (s : State)
    (hk : Fit qq s) :
    FitO qq (execBeacon peer s) := by
  unfold execBeacon
  repeat' (first | with_reducible assumption | with_reducible apply next_keep | with_reducible apply act_keep
                 | with_reducible apply sendGroup_keep | with_reducible apply badRole_keep
                 | with_reducible refine takeCtl_keep ‹_› ?_ | simp only [fit_mk] | with_reducible apply fitMem_of_fit
                 | split | intro _ | dsimp only)

theorem execDelayReq_keep (s : State)
    (hk : Fit qq s) :
    FitO qq (execDelayReq s) := by
  unfold execDelayReq
  repeat' (first | with_reducible assumption | with_reducible apply next_keep | with_reducible apply act_keep
                 | with_reducible apply sendGroup_keep | with_reducible apply badRole_keep
                 | with_reducible refine takeCtl_keep ‹_› ?_ | split | intro _ | dsimp only)

theorem setTime_keep (s : State) (f : Time → Time)
    (hk : Fit qq s) :
    Fit qq (State.setTime s f) := by
  unfold State.setTime
  repeat' (first | with_reducible assumption | with_reducible apply shareSync_keep | with_reducible apply sense_keep
                 | simp only [fit_mk] | with_reducible apply fitMem_of_fit | dsimp only)

theorem execDelayRsp_keep (s : State)
    (hk : Fit qq s) :
    FitO qq (execDelayRsp s) := by
  unfold execDelayRsp
  repeat' (first | with_reducible assumption | with_reducible apply next_keep | with_reducible apply act_keep
                 | with_reducible apply badRole_keep | with_reducible apply draw_keep | with_reducible apply setTime_keep
                 | with_reducible refine takeCtl_keep ‹_› ?_ | split | intro _ | dsimp only)

theorem execFtHold_keep (s : State)
    (hk : Fit qq s) :
    FitO qq (execFtHold s) := by
  unfold execFtHold
  repeat' (first | with_reducible assumption | with_reducible apply next_keep | with_reducible apply act_keep
                 | with_reducible apply setTime_keep | intro _ | dsimp only)

theorem execFtUnsync_keep (s : State)
    (hk : Fit qq s) :
    FitO qq (execFtUnsync s) := by
  unfold execFtUnsync
  repeat' (first | with_reducible assumption | with_reducible apply next_keep | with_reducible apply act_keep
                 | with_reducible apply setTime_keep | intro _ | dsimp only)

theorem execFtResync_keep (o : Origin) (s : State)
    (hk : Fit qq s) :
    FitO qq (execFtResync o s) := by
  unfold execFtResync
  repeat' (first | with_reducible assumption | with_reducible apply next_keep | with_reducible apply command_keep
                 | simp only [fit_mk] | with_reducible apply fitMem_of_fit | intro _ | dsimp only)

theorem enrol_keep (s : State) (p : EnrolParams)
    (hk : Fit qq s) :
    Fit qq (State.enrol s p) := by
  unfold State.enrol
  repeat' (first | with_reducible assumption | with_reducible apply setTime_keep | simp only [fit_mk]
                 | with_reducible apply fitMem_of_fit | split | dsimp only)

theorem execGroupEnrol_keep (o : Origin) (p : EnrolParams) (s : State)
    (hk : Fit qq s) :
    FitO qq (execGroupEnrol o p s) := by
  unfold execGroupEnrol
  repeat' (first | with_reducible assumption | with_reducible apply next_keep | with_reducible apply proxy_keep
                 | with_reducible apply command_keep | with_reducible apply enrol_keep | intro _ | dsimp only)

theorem leaveGroup_keep (s : State)
    (hk : Fit qq s) :
    Fit qq (State.leaveGroup s) := by
  unfold State.leaveGroup
  repeat' (first | with_reducible assumption | with_reducible apply setTime_keep | simp only [fit_mk]
                 | with_reducible apply fitMem_of_fit | dsimp only)

theorem execGroupLeave_keep (o : Origin) (s : State)
    (hk : Fit qq s) :
    FitO qq (execGroupLeave o s) := by
  unfold execGroupLeave
  repeat' (first | with_reducible assumption | with_reducible apply next_keep | with_reducible apply proxy_keep
                 | with_reducible apply command_keep | with_reducible apply leaveGroup_keep | intro _ | dsimp only)

theorem execRekeyInstant_keep (s : State)
    (hk : Fit qq s) :
    FitO qq (execRekeyInstant s) := by
  unfold execRekeyInstant
  repeat' (first | with_reducible assumption | with_reducible apply next_keep | with_reducible apply act_keep
                 | simp only [fit_mk] | with_reducible apply fitMem_of_fit | intro _ | dsimp only)

theorem execRekeyWindowEnd_keep (s : State)
    (hk : Fit qq s) :
    FitO qq (execRekeyWindowEnd s) := by
  unfold execRekeyWindowEnd
  repeat' (first | with_reducible assumption | with_reducible apply next_keep | with_reducible apply act_keep
                 | simp only [fit_mk] | with_reducible apply fitMem_of_fit | intro _ | dsimp only)

theorem execGroupSave_keep (s : State)
    (hk : Fit qq s) :
    FitO qq (execGroupSave s) := by
  unfold execGroupSave
  repeat' (first | with_reducible assumption | with_reducible apply next_keep | with_reducible apply each_keep
                 | with_reducible apply sendGroup_keep | with_reducible apply act_keep
                 | with_reducible apply badRole_keep | with_reducible refine takeCtl_keep ‹_› ?_ | simp only [fit_mk]
                 | with_reducible apply fitMem_of_fit | split | intro _ | dsimp only)

theorem execMasterTakeover_keep (o : Origin) (s : State)
    (hk : Fit qq s) :
    FitO qq (execMasterTakeover o s) := by
  unfold execMasterTakeover
  repeat' (first | with_reducible assumption | with_reducible apply next_keep | with_reducible apply command_keep
                 | simp only [fit_mk] | with_reducible apply fitMem_of_fit | intro _ | dsimp only)

theorem becomeMaster_keep (s : State) (r : GroupRec)
    (hk : Fit qq s) :
    Fit qq (State.becomeMaster s r) := by
  unfold State.becomeMaster
  repeat' (first | with_reducible assumption | with_reducible apply setTime_keep | simp only [fit_mk]
                 | with_reducible apply fitMem_of_fit | dsimp only)

theorem execTakeoverAnnounce_keep (s : State)
    (hk : Fit qq s) :
    FitO qq (execTakeoverAnnounce s) := by
  unfold execTakeoverAnnounce
  repeat' (first | with_reducible assumption | with_reducible apply next_keep | with_reducible apply act_keep
                 | with_reducible apply becomeMaster_keep | with_reducible apply each_keep
                 | with_reducible apply sendGroup_keep | split | intro _ | dsimp only)

theorem execTakeoverFence_keep (s : State)
    (hk : Fit qq s) :
    FitO qq (execTakeoverFence s) := by
  unfold execTakeoverFence
  repeat' (first | with_reducible assumption | with_reducible apply next_keep | with_reducible apply act_keep
                 | with_reducible apply each_keep | with_reducible apply sendGroup_keep | simp only [fit_mk]
                 | with_reducible apply fitMem_of_fit | intro _ | dsimp only)

theorem adoptEpoch_keep (s : State) (e : BitVec 16) (src : ℕ)
    (hk : Fit qq s) :
    Fit qq (State.adoptEpoch s e src) := by
  unfold State.adoptEpoch
  repeat' (first | with_reducible assumption | with_reducible apply setTime_keep | with_reducible apply raise_keep
                 | simp only [fit_mk] | with_reducible apply fitMem_of_fit | split | dsimp only)

theorem execEpochAnnounce_keep (s : State)
    (hk : Fit qq s) :
    FitO qq (execEpochAnnounce s) := by
  unfold execEpochAnnounce
  repeat' (first | with_reducible assumption | with_reducible apply next_keep | with_reducible apply act_keep
                 | with_reducible apply badRole_keep | with_reducible apply adoptEpoch_keep
                 | with_reducible refine takeCtl_keep ‹_› ?_ | split | intro _ | dsimp only)

theorem execMasterFence_keep (s : State)
    (hk : Fit qq s) :
    FitO qq (execMasterFence s) := by
  unfold execMasterFence
  repeat' (first | with_reducible assumption | with_reducible apply next_keep | with_reducible apply act_keep
                 | with_reducible apply badRole_keep | with_reducible refine takeCtl_keep ‹_› ?_ | simp only [fit_mk]
                 | with_reducible apply fitMem_of_fit | split | intro _ | dsimp only)

end Sys2Proof.Machine
end

