-- ==== Sys2Proof/Laws/KeepLight.lean ====
section
/-! SUPPORT. The operations and meanings of Machine/Light leave the queue alone and keep the memory's one form. -/

namespace Sys2Proof.Machine

set_option linter.unreachableTactic false
set_option linter.unusedTactic false
set_option linter.unusedSimpArgs false

variable {qq : List Instr}

theorem recordSet_keep (s : State) (i : ℕ) (m : Option Settle)
    (hk : Fit qq s) :
    Fit qq (State.recordSet s i m) := by
  unfold State.recordSet
  repeat' (first | with_reducible assumption | with_reducible apply markArea_keep | simp only [fit_mk]
                 | with_reducible apply fitMem_of_fit | dsimp only)

theorem setLit_keep (s : State) (i : Nat) (on : Bool)
    (hk : Fit qq s) :
    Fit qq (State.setLit s i on) := by
  unfold State.setLit
  repeat' (first | with_reducible assumption | with_reducible apply modEls_keep | simp only [fit_mk]
                 | with_reducible apply fitMem_of_fit | split | intro _ | dsimp only)

theorem setFeedState_keep (s : State) (f : ℕ) (x : FeedState)
    (hk : Fit qq s) :
    Fit qq (State.setFeedState s f x) := by
  unfold State.setFeedState
  repeat' (first | with_reducible assumption | with_reducible apply modFeed_keep | with_reducible apply capSense_keep
                 | with_reducible apply sense_keep | dsimp only)

theorem narrow_keep (s : State) (st : Nat) (g : Nat) (lanes : Byte) (retrain : Bool)
    (hk : Fit qq s) :
    Fit qq (State.narrow s st g lanes retrain) := by
  unfold State.narrow
  repeat' (first | with_reducible assumption | with_reducible apply modTx_keep
                 | with_reducible apply leaveService_keep | with_reducible apply setTxState_keep | simp only [fit_mk]
                 | with_reducible apply fitMem_of_fit | split | intro _ | dsimp only)

theorem widen_keep (s : State) (st : Nat) (g : Nat) (lanes : Byte) (retrain : Bool)
    (hk : Fit qq s) :
    Fit qq (State.widen s st g lanes retrain) := by
  unfold State.widen
  repeat' (first | with_reducible assumption | with_reducible apply modTx_keep | with_reducible apply setTxState_keep
                 | simp only [fit_mk] | with_reducible apply fitMem_of_fit | split | intro _ | dsimp only)

theorem darkenBus_keep (s : State) (st : Nat) (bus : Nat)
    (hk : Fit qq s) :
    Fit qq (State.darkenBus s st bus) := by
  unfold State.darkenBus
  repeat' (first | with_reducible assumption | with_reducible apply each_keep | with_reducible apply narrow_keep
                 | intro _ | dsimp only)

theorem relightLane_keep (s : State) (st : Nat) (g : Nat) (l : Nat)
    (hk : Fit qq s) :
    Fit qq (State.relightLane s st g l) := by
  unfold State.relightLane
  repeat' (first | with_reducible assumption | with_reducible apply widen_keep | split | dsimp only)

theorem relightBus_keep (s : State) (st : Nat) (bus : Nat)
    (hk : Fit qq s) :
    Fit qq (State.relightBus s st bus) := by
  unfold State.relightBus
  repeat' (first | with_reducible assumption | with_reducible apply each_keep | with_reducible apply relightLane_keep
                 | intro _ | dsimp only)

theorem seeLoss_keep (s : State) (s0 : State) (f : Nat)
    (hk : Fit qq s) :
    Fit qq (State.seeLoss s s0 f) := by
  unfold State.seeLoss
  repeat' (first | with_reducible assumption | with_reducible apply log_keep | with_reducible apply darkenBus_keep
                 | split | intro _ | dsimp only)

theorem loseRings_keep (s : State) (f : Nat)
    (hk : Fit qq s) :
    Fit qq (State.loseRings s f) := by
  unfold State.loseRings
  repeat' (first | with_reducible assumption | with_reducible apply setRings_keep | dsimp only)

theorem relockBuses_keep (s : State) (f : Nat) (unlocked : List Nat) (retrain : Bool)
    (hk : Fit qq s) :
    Fit qq (State.relockBuses s f unlocked retrain) := by
  unfold State.relockBuses
  repeat' (first | with_reducible assumption | with_reducible apply setRings_keep | with_reducible apply each_keep
                 | with_reducible apply widen_keep | with_reducible apply modRx_keep | split | intro _ | dsimp only)

theorem unhinge_keep (s : State) (st : Nat) (g : Nat)
    (hk : Fit qq s) :
    Fit qq (State.unhinge s st g) := by
  unfold State.unhinge
  repeat' (first | with_reducible assumption | with_reducible apply modTx_keep | with_reducible apply enable_keep
                 | with_reducible apply setTxState_keep | simp only [fit_mk] | with_reducible apply fitMem_of_fit
                 | split | intro _ | dsimp only)

theorem darkenLanes_keep (s : State) (f : Nat)
    (hk : Fit qq s) :
    Fit qq (State.darkenLanes s f) := by
  unfold State.darkenLanes
  repeat' (first | with_reducible assumption | with_reducible apply each_keep | with_reducible apply darkenBus_keep
                 | with_reducible apply unhinge_keep | intro _ | dsimp only)

theorem answerHinge_keep (s : State) (f : ℕ) (st : Status)
    (hk : Fit qq s) :
    Fit qq (State.answerHinge s f st) := by
  unfold State.answerHinge
  repeat' (first | with_reducible assumption | with_reducible apply complete_keep | with_reducible apply modFeed_keep
                 | split | dsimp only)

theorem feedDark_keep (s : State) (f : Nat)
    (hk : Fit qq s) :
    Fit qq (State.feedDark s f) := by
  unfold State.feedDark
  repeat' (first | with_reducible assumption | with_reducible apply setFeedState_keep
                 | with_reducible apply modFeed_keep | with_reducible apply setLit_keep
                 | with_reducible apply answerHinge_keep | simp only [fit_mk] | with_reducible apply fitMem_of_fit
                 | intro _ | dsimp only)

theorem swingFeed_keep (s : State) (f : Nat)
    (hk : Fit qq s) :
    Fit qq (State.swingFeed s f) := by
  unfold State.swingFeed
  repeat' (first | with_reducible assumption | with_reducible apply modFeed_keep | with_reducible apply each_keep
                 | with_reducible apply modTx_keep | with_reducible apply setTxState_keep
                 | with_reducible apply loseRings_keep | simp only [fit_mk] | with_reducible apply fitMem_of_fit
                 | intro _ | dsimp only)

theorem hardFail_keep (s : State) (f : Nat)
    (hk : Fit qq s) :
    Fit qq (State.hardFail s f) := by
  unfold State.hardFail
  repeat' (first | with_reducible assumption | with_reducible apply modFeed_keep | with_reducible apply swingFeed_keep
                 | with_reducible apply darkenLanes_keep | with_reducible apply setFeedState_keep
                 | with_reducible apply feedDark_keep | with_reducible apply when_keep
                 | with_reducible apply setLit_keep | with_reducible apply answerHinge_keep | simp only [fit_mk]
                 | with_reducible apply fitMem_of_fit | split | intro _ | dsimp only)

theorem swapRoles_keep (s : State) (f : Nat)
    (hk : Fit qq s) :
    Fit qq (State.swapRoles s f) := by
  unfold State.swapRoles
  repeat' (first | with_reducible assumption | with_reducible apply modFeed_keep | with_reducible apply setLit_keep
                 | simp only [fit_mk] | with_reducible apply fitMem_of_fit | intro _ | dsimp only)

theorem execHardFailRecover_keep (f : Nat) (unlocked : List Nat) (s : State)
    (hk : Fit qq s) :
    FitO qq (execHardFailRecover f unlocked s) := by
  unfold execHardFailRecover
  repeat' (first | with_reducible assumption | with_reducible apply next_keep | with_reducible apply act_keep
                 | with_reducible apply swapRoles_keep | with_reducible apply loseRings_keep
                 | with_reducible apply setFeedState_keep | with_reducible apply relockBuses_keep
                 | with_reducible apply feedDark_keep | split | intro _ | dsimp only)

theorem startHinge_keep (s : State) (f : Nat) (asker : Option Origin)
    (hk : Fit qq s) :
    Fit qq (State.startHinge s f asker) := by
  unfold State.startHinge
  repeat' (first | with_reducible assumption | with_reducible apply setFeedState_keep
                 | with_reducible apply modFeed_keep | with_reducible apply setLit_keep | simp only [fit_mk]
                 | with_reducible apply fitMem_of_fit | intro _ | dsimp only)

theorem execHingeStart_keep (o : Origin) (f : Nat) (s : State)
    (hk : Fit qq s) :
    FitO qq (execHingeStart o f s) := by
  unfold execHingeStart
  repeat' (first | with_reducible assumption | with_reducible apply next_keep | with_reducible apply proxy_keep
                 | with_reducible apply when_keep | with_reducible apply draw_keep
                 | with_reducible apply commandLong_keep | with_reducible apply startHinge_keep | split | intro _
                 | dsimp only)

theorem hingeGroup_keep (s : State) (st : Nat) (g : Nat)
    (hk : Fit qq s) :
    Fit qq (State.hingeGroup s st g) := by
  unfold State.hingeGroup
  repeat' (first | with_reducible assumption | with_reducible apply modTx_keep | with_reducible apply setTxState_keep
                 | simp only [fit_mk] | with_reducible apply fitMem_of_fit | intro _ | dsimp only)

theorem copyGroup_keep (s : State) (st : Nat) (g : Nat)
    (hk : Fit qq s) :
    Fit qq (State.copyGroup s st g) := by
  unfold State.copyGroup
  repeat' (first | with_reducible assumption | with_reducible apply each_keep | with_reducible apply enqueueAll_keep
                 | intro _ | dsimp only)

theorem drainFeed_keep (s : State) (f : Nat)
    (hk : Fit qq s) :
    Fit qq (State.drainFeed s f) := by
  unfold State.drainFeed
  repeat' (first | with_reducible assumption | with_reducible apply each_keep | with_reducible apply narrow_keep
                 | with_reducible apply modFeed_keep | with_reducible apply copyGroup_keep
                 | with_reducible apply hingeGroup_keep | simp only [fit_mk] | with_reducible apply fitMem_of_fit
                 | intro _ | dsimp only)

theorem execHingeDrain_keep (f : Nat) (s : State)
    (hk : Fit qq s) :
    FitO qq (execHingeDrain f s) := by
  unfold execHingeDrain
  repeat' (first | with_reducible assumption | with_reducible apply next_keep | with_reducible apply act_keep
                 | with_reducible apply drainFeed_keep | intro _ | dsimp only)

theorem execHingeSwing_keep (f : ℕ) (s : State)
    (hk : Fit qq s) :
    FitO qq (execHingeSwing f s) := by
  unfold execHingeSwing
  repeat' (first | with_reducible assumption | with_reducible apply next_keep | with_reducible apply act_keep
                 | with_reducible apply swingFeed_keep | intro _ | dsimp only)

theorem restoreGroup_keep (s : State) (st : Nat) (g : Nat) (unlocked : List Nat)
    (hk : Fit qq s) :
    Fit qq (State.restoreGroup s st g unlocked) := by
  unfold State.restoreGroup
  repeat' (first | with_reducible assumption | with_reducible apply modTx_keep | with_reducible apply enable_keep
                 | with_reducible apply restartSeq_keep | with_reducible apply setTxState_keep | simp only [fit_mk]
                 | with_reducible apply fitMem_of_fit | split | intro _ | dsimp only)

theorem execHingeRestore_keep (f : Nat) (unlocked : List Nat) (s : State)
    (hk : Fit qq s) :
    FitO qq (execHingeRestore f unlocked s) := by
  unfold execHingeRestore
  repeat' (first | with_reducible assumption | with_reducible apply next_keep | with_reducible apply act_keep
                 | with_reducible apply each_keep | with_reducible apply restoreGroup_keep
                 | with_reducible apply modFeed_keep | with_reducible apply relockBuses_keep | simp only [fit_mk]
                 | with_reducible apply fitMem_of_fit | intro _ | dsimp only)

theorem execHingeWindowClose_keep (st : Nat) (g : Nat) (s : State)
    (hk : Fit qq s) :
    FitO qq (execHingeWindowClose st g s) := by
  unfold execHingeWindowClose
  repeat' (first | with_reducible assumption | with_reducible apply next_keep | with_reducible apply act_keep
                 | with_reducible apply modTx_keep | simp only [fit_mk] | with_reducible apply fitMem_of_fit | split
                 | intro _ | dsimp only)

theorem releaseGroup_keep (s : State) (st : ℕ) (g : ℕ)
    (hk : Fit qq s) :
    Fit qq (State.releaseGroup s st g) := by
  unfold State.releaseGroup
  repeat' (first | with_reducible assumption | with_reducible apply modTx_keep | with_reducible apply setTxState_keep
                 | with_reducible apply enable_keep | with_reducible apply disable_keep | split | dsimp only)

theorem logHinge_keep (s : State) (f : ℕ) (outcome : ℕ)
    (hk : Fit qq s) :
    Fit qq (State.logHinge s f outcome) := by
  unfold State.logHinge
  repeat' (first | with_reducible assumption | with_reducible apply draw_keep | with_reducible apply log_keep | split
                 | dsimp only)

theorem execHingeRelease_keep (f : ℕ) (s : State)
    (hk : Fit qq s) :
    FitO qq (execHingeRelease f s) := by
  unfold execHingeRelease
  repeat' (first | with_reducible assumption | with_reducible apply next_keep | with_reducible apply act_keep
                 | with_reducible apply each_keep | with_reducible apply releaseGroup_keep
                 | with_reducible apply modFeed_keep | with_reducible apply swapRoles_keep
                 | with_reducible apply answerHinge_keep | with_reducible apply raise_keep
                 | with_reducible apply logHinge_keep | with_reducible apply setFeedState_keep | intro _ | dsimp only)

theorem abortHinge_keep (s : State) (f : ℕ) (st : Status)
    (hk : Fit qq s) :
    Fit qq (State.abortHinge s f st) := by
  unfold State.abortHinge
  repeat' (first | with_reducible assumption | with_reducible apply setLit_keep | with_reducible apply modFeed_keep
                 | with_reducible apply answerHinge_keep | with_reducible apply raise_keep
                 | with_reducible apply logHinge_keep | with_reducible apply setFeedState_keep | dsimp only)

theorem execHingeAbort_keep (f : ℕ) (s : State)
    (hk : Fit qq s) :
    FitO qq (execHingeAbort f s) := by
  unfold execHingeAbort
  repeat' (first | with_reducible assumption | with_reducible apply next_keep | with_reducible apply act_keep
                 | with_reducible apply abortHinge_keep | intro _ | dsimp only)

theorem takeLevel_keep (s : State) (f : Nat) (avg : Int)
    (hk : Fit qq s) :
    Fit qq (State.takeLevel s f avg) := by
  unfold State.takeLevel
  repeat' (first | with_reducible assumption | with_reducible apply setFeedState_keep
                 | with_reducible apply modFeed_keep | with_reducible apply act_keep
                 | with_reducible apply startHinge_keep | simp only [fit_mk] | with_reducible apply fitMem_of_fit
                 | split | intro _ | dsimp only)

theorem feedUp_keep (s : State) (f : Nat) (avg : Int)
    (hk : Fit qq s) :
    Fit qq (State.feedUp s f avg) := by
  unfold State.feedUp
  repeat' (first | with_reducible assumption | with_reducible apply setLit_keep
                 | with_reducible apply setFeedState_keep | with_reducible apply takeLevel_keep | split | dsimp only)

theorem keepTap_keep (s : State) (f : Nat) (sample : Int) (avg : Int)
    (hk : Fit qq s) :
    Fit qq (State.keepTap s f sample avg) := by
  unfold State.keepTap
  repeat' (first | with_reducible assumption | with_reducible apply modFeed_keep | with_reducible apply sampled_keep
                 | with_reducible apply seeLoss_keep | simp only [fit_mk] | with_reducible apply fitMem_of_fit | split
                 | intro _ | dsimp only)

theorem execFeedTapSample_keep (f : Nat) (sample : Int) (avg : Int) (s : State)
    (hk : Fit qq s) :
    FitO qq (execFeedTapSample f sample avg s) := by
  unfold execFeedTapSample
  repeat' (first | with_reducible assumption | with_reducible apply next_keep | with_reducible apply act_keep
                 | with_reducible apply keepTap_keep | with_reducible apply hardFail_keep
                 | with_reducible apply takeLevel_keep | with_reducible apply feedUp_keep | split | intro _
                 | dsimp only)

theorem execModuleOutputRead_keep (m : Nat) (powers : List Int) (temp : Nat) (alarms : W32) (s : State)
    (hk : Fit qq s) :
    FitO qq (execModuleOutputRead m powers temp alarms s) := by
  unfold execModuleOutputRead
  repeat' (first | with_reducible assumption | with_reducible apply next_keep | with_reducible apply act_keep
                 | with_reducible apply each_keep | with_reducible apply sampled_keep
                 | with_reducible apply seeLoss_keep | with_reducible apply modEls_keep | simp only [fit_mk]
                 | with_reducible apply fitMem_of_fit | intro _ | dsimp only)

theorem execBusTapSample_keep (st : Nat) (bus : Nat) (power : Int) (s : State)
    (hk : Fit qq s) :
    FitO qq (execBusTapSample st bus power s) := by
  unfold execBusTapSample
  repeat' (first | with_reducible assumption | with_reducible apply next_keep | with_reducible apply act_keep
                 | with_reducible apply sampled_keep | with_reducible apply seeLoss_keep
                 | with_reducible apply relightBus_keep | simp only [fit_mk] | with_reducible apply fitMem_of_fit
                 | split | intro _ | dsimp only)

theorem keepPhoto_keep (s : State) (st : Nat) (rg : Nat) (lane : Nat) (current : Nat)
    (hk : Fit qq s) :
    Fit qq (State.keepPhoto s st rg lane current) := by
  unfold State.keepPhoto
  repeat' (first | with_reducible assumption | simp only [fit_mk] | with_reducible apply fitMem_of_fit | dsimp only)

theorem readPhoto_keep (s : State) (st : Nat) (rg : Nat) (lane : Nat) (current : Nat)
    (hk : Fit qq s) :
    Fit qq (State.readPhoto s st rg lane current) := by
  unfold State.readPhoto
  repeat' (first | with_reducible assumption | with_reducible apply keepPhoto_keep | with_reducible apply sampled_keep
                 | with_reducible apply seeLoss_keep | dsimp only)

theorem execReceiverSample_keep (st : Nat) (rg : Nat) (lane : Nat) (current : Nat) (s : State)
    (hk : Fit qq s) :
    FitO qq (execReceiverSample st rg lane current s) := by
  unfold execReceiverSample
  repeat' (first | with_reducible assumption | with_reducible apply next_keep | with_reducible apply act_keep
                 | with_reducible apply readPhoto_keep | intro _ | dsimp only)

theorem moduleChange_keep (s : State) (m : Nat) (answers : Bool) (ident : W64) (factory : List Settle)
    (hk : Fit qq s) :
    Fit qq (State.moduleChange s m answers ident factory) := by
  unfold State.moduleChange
  repeat' (first | with_reducible assumption | with_reducible apply modEls_keep | with_reducible apply each_keep
                 | with_reducible apply modFeed_keep | with_reducible apply recordSet_keep | simp only [fit_mk]
                 | with_reducible apply fitMem_of_fit | split | intro _ | dsimp only)

theorem execElsPresenceCheck_keep (m : Nat) (answers : Bool) (ident : W64) (factory : List Settle) (s : State)
    (hk : Fit qq s) :
    FitO qq (execElsPresenceCheck m answers ident factory s) := by
  unfold execElsPresenceCheck
  repeat' (first | with_reducible assumption | with_reducible apply next_keep | with_reducible apply act_keep
                 | with_reducible apply modEls_keep | with_reducible apply moduleChange_keep
                 | with_reducible apply raise_keep | simp only [fit_mk] | with_reducible apply fitMem_of_fit | split
                 | intro _ | dsimp only)

theorem execElsLinkFail_keep (m : ℕ) (s : State)
    (hk : Fit qq s) :
    FitO qq (execElsLinkFail m s) := by
  unfold execElsLinkFail
  repeat' (first | with_reducible assumption | with_reducible apply next_keep | with_reducible apply act_keep
                 | with_reducible apply modEls_keep | intro _ | dsimp only)

theorem commissionDark_keep (s : State) (f : Nat) (b : Bool) (m : Settle) (unlocked : List Nat)
    (hk : Fit qq s) :
    Fit qq (State.commissionDark s f b m unlocked) := by
  unfold State.commissionDark
  repeat' (first | with_reducible assumption | with_reducible apply recordSet_keep | with_reducible apply setLit_keep
                 | with_reducible apply modFeed_keep | with_reducible apply loseRings_keep
                 | with_reducible apply setFeedState_keep | with_reducible apply relockBuses_keep | simp only [fit_mk]
                 | with_reducible apply fitMem_of_fit | intro _ | dsimp only)

theorem commissionActive_keep (s : State) (f : Nat) (b : Bool) (m : Settle)
    (hk : Fit qq s) :
    Fit qq (State.commissionActive s f b m) := by
  unfold State.commissionActive
  repeat' (first | with_reducible assumption | with_reducible apply recordSet_keep | with_reducible apply modFeed_keep
                 | with_reducible apply act_keep | with_reducible apply setFeedState_keep | simp only [fit_mk]
                 | with_reducible apply fitMem_of_fit | split | intro _ | dsimp only)

theorem commission_keep (s : State) (f : Nat) (b : Bool) (m : Settle) (unlocked : List Nat)
    (hk : Fit qq s) :
    Fit qq (State.commission s f b m unlocked) := by
  unfold State.commission
  repeat' (first | with_reducible assumption | with_reducible apply commissionDark_keep
                 | with_reducible apply commissionActive_keep | with_reducible apply recordSet_keep
                 | with_reducible apply setLit_keep | with_reducible apply modFeed_keep | split | intro _ | dsimp only)

theorem execFeedCommission_keep (o : Origin) (feed : Nat) (inputB : Bool) (m : Settle) (unlocked : List Nat) (s : State)
    (hk : Fit qq s) :
    FitO qq (execFeedCommission o feed inputB m unlocked s) := by
  unfold execFeedCommission
  repeat' (first | with_reducible assumption | with_reducible apply next_keep | with_reducible apply proxy_keep
                 | with_reducible apply commandLong_keep | with_reducible apply setLit_keep
                 | with_reducible apply complete_keep | with_reducible apply commission_keep | split | intro _
                 | dsimp only)

end Sys2Proof.Machine
end

