-- ==== Sys2Proof/Laws/KeepLock.lean ====
section
/-! SUPPORT. The operations and meanings of Machine/Lock leave the queue alone and keep the memory's one form. -/

namespace Sys2Proof.Machine

set_option linter.unreachableTactic false
set_option linter.unusedTactic false
set_option linter.unusedSimpArgs false

variable {qq : List Instr}

theorem execLockLoopUpdate_keep (r : RingId) (errMilliK : Int) (s : State)
    (hk : Fit qq s) :
    FitO qq (execLockLoopUpdate r errMilliK s) := by
  unfold execLockLoopUpdate
  repeat' (first | with_reducible assumption | with_reducible apply next_keep | with_reducible apply act_keep
                 | with_reducible apply rebase_keep | with_reducible apply modRing_keep | intro _ | dsimp only)

theorem dueBack_keep (s : State) (st : Nat) (rg : Nat)
    (hk : Fit qq s) :
    Fit qq (State.dueBack s st rg) := by
  unfold State.dueBack
  repeat' (first | with_reducible assumption | with_reducible apply modRx_keep | split | intro _ | dsimp only)

theorem abandonCal_keep (s : State) (st : Nat) (rg : Nat)
    (hk : Fit qq s) :
    Fit qq (State.abandonCal s st rg) := by
  unfold State.abandonCal
  repeat' (first | with_reducible assumption | with_reducible apply modRx_keep | simp only [fit_mk]
                 | with_reducible apply fitMem_of_fit | split | intro _ | dsimp only)

theorem readerLeaves_keep (s : State) (wst : Nat) (wlg : Nat) (st : Nat) (rg : Nat)
    (hk : Fit qq s) :
    Fit qq (State.readerLeaves s wst wlg st rg) := by
  unfold State.readerLeaves
  repeat' (first | with_reducible assumption | with_reducible apply setRxState_keep | with_reducible apply each_keep
                 | with_reducible apply enqueue_keep | with_reducible apply settleAcks_keep
                 | with_reducible apply reshare_keep | intro _ | dsimp only)

theorem countTrip_keep (s : State) (b : Nat × Nat)
    (hk : Fit qq s) :
    Fit qq (State.countTrip s b) := by
  unfold State.countTrip
  repeat' (first | with_reducible assumption | with_reducible apply modFeed_keep | with_reducible apply hardFail_keep
                 | simp only [fit_mk] | with_reducible apply fitMem_of_fit | split | intro _ | dsimp only)

theorem tripGroups_keep (s : State) (r : RingId)
    (hk : Fit qq s) :
    Fit qq (State.tripGroups s r) := by
  unfold State.tripGroups
  repeat' (first | with_reducible assumption | with_reducible apply readerLeaves_keep
                 | with_reducible apply leaveService_keep | split | dsimp only)

theorem execLockLossTrip_keep (r : RingId) (s : State)
    (hk : Fit qq s) :
    FitO qq (execLockLossTrip r s) := by
  unfold execLockLossTrip
  repeat' (first | with_reducible assumption | with_reducible apply next_keep | with_reducible apply act_keep
                 | with_reducible apply modRing_keep | with_reducible apply each_keep
                 | with_reducible apply abandonCal_keep | with_reducible apply when_keep
                 | with_reducible apply tripGroups_keep | with_reducible apply countTrip_keep | intro _ | dsimp only)

theorem entryBack_keep (s : State) (r : RingId)
    (hk : Fit qq s) :
    Fit qq (State.entryBack s r) := by
  unfold State.entryBack
  repeat' (first | with_reducible assumption | with_reducible apply modRx_keep | with_reducible apply setRxState_keep
                 | simp only [fit_mk] | with_reducible apply fitMem_of_fit | split | intro _ | dsimp only)

theorem dueLinks_keep (s : State) (r : RingId)
    (hk : Fit qq s) :
    Fit qq (State.dueLinks s r) := by
  unfold State.dueLinks
  repeat' (first | with_reducible assumption | with_reducible apply each_keep | with_reducible apply dueBack_keep
                 | intro _ | dsimp only)

theorem execRingRelock_keep (r : RingId) (s : State)
    (hk : Fit qq s) :
    FitO qq (execRingRelock r s) := by
  unfold execRingRelock
  repeat' (first | with_reducible assumption | with_reducible apply next_keep | with_reducible apply act_keep
                 | with_reducible apply lockRing_keep | with_reducible apply dueLinks_keep
                 | with_reducible apply entryBack_keep | with_reducible apply relightLane_keep | split | intro _
                 | dsimp only)

theorem ringLost_keep (s : State) (r : RingId)
    (hk : Fit qq s) :
    Fit qq (State.ringLost s r) := by
  unfold State.ringLost
  repeat' (first | with_reducible assumption | with_reducible apply modRing_keep | with_reducible apply markLane_keep
                 | with_reducible apply modTx_keep | simp only [fit_mk] | with_reducible apply fitMem_of_fit | split
                 | intro _ | dsimp only)

theorem entryFails_keep (s : State) (st : Nat) (rg : Nat)
    (hk : Fit qq s) :
    Fit qq (State.entryFails s st rg) := by
  unfold State.entryFails
  repeat' (first | with_reducible assumption | with_reducible apply each_keep | with_reducible apply ringLost_keep
                 | with_reducible apply setRxState_keep | intro _ | dsimp only)

theorem execRmapFault_keep (st : Nat) (rg : Nat) (s : State)
    (hk : Fit qq s) :
    FitO qq (execRmapFault st rg s) := by
  unfold execRmapFault
  repeat' (first | with_reducible assumption | with_reducible apply next_keep | with_reducible apply act_keep
                 | with_reducible apply entryFails_keep | intro _ | dsimp only)

theorem execRingBad_keep (r : RingId) (s : State)
    (hk : Fit qq s) :
    FitO qq (execRingBad r s) := by
  unfold execRingBad
  repeat' (first | with_reducible assumption | with_reducible apply next_keep | with_reducible apply act_keep
                 | with_reducible apply entryFails_keep | with_reducible apply ringLost_keep
                 | with_reducible apply dueLinks_keep | with_reducible apply entryBack_keep | split | intro _
                 | dsimp only)

theorem execRampStep_keep (die : Nat) (demand : Nat) (s : State)
    (hk : Fit qq s) :
    FitO qq (execRampStep die demand s) := by
  unfold execRampStep
  repeat' (first | with_reducible assumption | with_reducible apply next_keep | with_reducible apply act_keep
                 | with_reducible apply modDiePower_keep | with_reducible apply spreadLevel_keep | simp only [fit_mk]
                 | with_reducible apply fitMem_of_fit | intro _ | dsimp only)

theorem execCalibrationStart_keep (st : Nat) (rg : Nat) (cause : Nat) (s : State)
    (hk : Fit qq s) :
    FitO qq (execCalibrationStart st rg cause s) := by
  unfold execCalibrationStart
  repeat' (first | with_reducible assumption | with_reducible apply next_keep | with_reducible apply act_keep
                 | with_reducible apply modRx_keep | simp only [fit_mk] | with_reducible apply fitMem_of_fit | intro _
                 | dsimp only)

theorem refine_keep (s : State) (r : RingId)
    (hk : Fit qq s) :
    Fit qq (State.refine s r) := by
  unfold State.refine
  repeat' (first | with_reducible assumption | simp only [fit_mk] | with_reducible apply fitMem_of_fit | dsimp only)

theorem correctRing_keep (s : State) (r : RingId) (heater : Int) (bias : Int)
    (hk : Fit qq s) :
    Fit qq (State.correctRing s r heater bias) := by
  unfold State.correctRing
  repeat' (first | with_reducible assumption | with_reducible apply rebase_keep | with_reducible apply modRing_keep
                 | with_reducible apply refine_keep | split | intro _ | dsimp only)

theorem markEyes_keep (s : State) (wst : Nat) (wlg : Nat) (eyes : List Nat)
    (hk : Fit qq s) :
    Fit qq (State.markEyes s wst wlg eyes) := by
  unfold State.markEyes
  repeat' (first | with_reducible assumption | with_reducible apply each_keep | with_reducible apply markLane_keep
                 | with_reducible apply clearLane_keep | split | intro _ | dsimp only)

theorem applyCal_keep (s : State) (st : Nat) (rg : Nat) (r : CalResult)
    (hk : Fit qq s) :
    Fit qq (State.applyCal s st rg r) := by
  unfold State.applyCal
  repeat' (first | with_reducible assumption | with_reducible apply each_keep | with_reducible apply correctRing_keep
                 | with_reducible apply markEyes_keep | with_reducible apply modRx_keep
                 | with_reducible apply joinReader_keep | with_reducible apply reshare_keep | simp only [fit_mk]
                 | with_reducible apply fitMem_of_fit | split | intro _ | dsimp only)

theorem execCalibrationApply_keep (st : Nat) (rg : Nat) (r : CalResult) (s : State)
    (hk : Fit qq s) :
    FitO qq (execCalibrationApply st rg r s) := by
  unfold execCalibrationApply
  repeat' (first | with_reducible assumption | with_reducible apply next_keep | with_reducible apply act_keep
                 | with_reducible apply applyCal_keep | with_reducible apply when_keep
                 | with_reducible apply each_keep | with_reducible apply readPhoto_keep | intro _ | dsimp only)

theorem calibrateNow_keep (s : State) (st : Nat) (rg : Nat)
    (hk : Fit qq s) :
    Fit qq (State.calibrateNow s st rg) := by
  unfold State.calibrateNow
  repeat' (first | with_reducible assumption | with_reducible apply draw_keep | with_reducible apply modRx_keep
                 | with_reducible apply applyCal_keep | simp only [fit_mk] | with_reducible apply fitMem_of_fit
                 | split | intro _ | dsimp only)

theorem calcfgWrite_keep (s : State) (st : Nat) (data : W32)
    (hk : Fit qq s) :
    Fit qq (State.calcfgWrite s st data).1 := by
  unfold State.calcfgWrite
  repeat' (first | with_reducible assumption | with_reducible apply modSta_keep | with_reducible apply each_keep
                 | with_reducible apply modRx_keep | simp only [fit_mk] | with_reducible apply fitMem_of_fit | split
                 | intro _ | dsimp only)

theorem execHeaterTableWriteback_keep (s : State)
    (hk : Fit qq s) :
    FitO qq (execHeaterTableWriteback s) := by
  unfold execHeaterTableWriteback
  repeat' (first | with_reducible assumption | with_reducible apply next_keep | with_reducible apply act_keep
                 | with_reducible apply markArea_keep | simp only [fit_mk] | with_reducible apply fitMem_of_fit | split
                 | intro _ | dsimp only)

theorem acquireField_keep (s : State) (k : Nat)
    (hk : Fit qq s) :
    Fit qq (State.acquireField s k) := by
  unfold State.acquireField
  repeat' (first | with_reducible assumption | with_reducible apply each_keep | with_reducible apply setRings_keep
                 | intro _ | dsimp only)

theorem execLockCold_keep (k : ℕ) (s : State)
    (hk : Fit qq s) :
    FitO qq (execLockCold k s) := by
  unfold execLockCold
  repeat' (first | with_reducible assumption | with_reducible apply next_keep | with_reducible apply act_keep
                 | with_reducible apply sense_keep | with_reducible apply modField_keep | intro _ | dsimp only)

end Sys2Proof.Machine
end

