-- ==== Sys2Proof/Laws/KeepSequencer.lean ====
section
/-! SUPPORT. The operations and meanings of Machine/Sequencer leave the queue alone and keep the memory's one form. -/

namespace Sys2Proof.Machine

set_option linter.unreachableTactic false
set_option linter.unusedTactic false
set_option linter.unusedSimpArgs false

variable {qq : List Instr}

theorem sendRecord_keep (s : State) (r : Record)
    (hk : Fit qq s) :
    Fit qq (State.sendRecord s r) := by
  unfold State.sendRecord
  repeat' (first | with_reducible assumption | with_reducible apply sense_keep | with_reducible apply queueRecord_keep
                 | dsimp only)

theorem goIdle_keep (s : State) (c : ℕ) (x : ℕ) (st : Status) (addr : ℕ)
    (hk : Fit qq s) :
    Fit qq (State.goIdle s c x st addr) := by
  unfold State.goIdle
  repeat' (first | with_reducible assumption | with_reducible apply when_keep | with_reducible apply setCtx_keep
                 | with_reducible apply sendRecord_keep | intro _ | dsimp only)

theorem dropCtxFence_keep (s : State) (c : ℕ) (x : ℕ)
    (hk : Fit qq s) :
    Fit qq (State.dropCtxFence s c x) := by
  unfold State.dropCtxFence
  repeat' (first | with_reducible assumption | with_reducible apply dropFence_keep | split | dsimp only)

theorem dropFetch_keep (s : State) (c : Nat) (x : Nat)
    (hk : Fit qq s) :
    Fit qq (State.dropFetch s c x) := by
  unfold State.dropFetch
  repeat' (first | with_reducible assumption | simp only [fit_mk] | with_reducible apply fitMem_of_fit | split
                 | intro _ | dsimp only)

theorem tryLaunch_keep (s : State) (p : LaunchParams) (hopper : Nat) (tag : BitVec 16)
    (hk : Fit qq s) :
    Fit qq (State.tryLaunch s p hopper tag).1 := by
  unfold State.tryLaunch
  repeat' (first | with_reducible assumption | with_reducible apply dropCtxFence_keep
                 | with_reducible apply dropFetch_keep | with_reducible apply modCtx_keep
                 | with_reducible apply launch_keep | with_reducible apply setCtx_keep | split | intro _ | dsimp only)

theorem execCtxLaunch_keep (o : Origin) (p : LaunchParams) (s : State)
    (hk : Fit qq s) :
    FitO qq (execCtxLaunch o p s) := by
  unfold execCtxLaunch
  repeat' (first | with_reducible assumption | with_reducible apply next_keep | with_reducible apply tryLaunch_keep
                 | with_reducible apply complete_keep | split | dsimp only)

theorem dropTake_keep (s : State) (c : Nat) (x : Nat)
    (hk : Fit qq s) :
    Fit qq (State.dropTake s c x) := by
  unfold State.dropTake
  repeat' (first | with_reducible assumption | with_reducible apply access_keep | simp only [fit_mk]
                 | with_reducible apply fitMem_of_fit | split | intro _ | dsimp only)

theorem stopCtx_keep (s : State) (c : Nat) (x : Nat)
    (hk : Fit qq s) :
    Fit qq (State.stopCtx s c x) := by
  unfold State.stopCtx
  repeat' (first | with_reducible assumption | with_reducible apply dropTake_keep
                 | with_reducible apply dropCtxFence_keep | with_reducible apply setCtx_keep | split | dsimp only)

theorem execCtxStop_keep (o : Origin) (core : ℕ) (ctx : ℕ) (s : State)
    (hk : Fit qq s) :
    FitO qq (execCtxStop o core ctx s) := by
  unfold execCtxStop
  repeat' (first | with_reducible assumption | with_reducible apply next_keep | with_reducible apply command_keep
                 | with_reducible apply stopCtx_keep | intro _ | dsimp only)

theorem execCtxResume_keep (o : Origin) (core : ℕ) (ctx : ℕ) (s : State)
    (hk : Fit qq s) :
    FitO qq (execCtxResume o core ctx s) := by
  unfold execCtxResume
  repeat' (first | with_reducible assumption | with_reducible apply next_keep | with_reducible apply command_keep
                 | with_reducible apply setCtx_keep | intro _ | dsimp only)

theorem execStoppingEnd_keep (core : Nat) (ctx : Nat) (s : State)
    (hk : Fit qq s) :
    FitO qq (execStoppingEnd core ctx s) := by
  unfold execStoppingEnd
  repeat' (first | with_reducible assumption | with_reducible apply next_keep | with_reducible apply act_keep
                 | with_reducible apply goIdle_keep | intro _ | dsimp only)

theorem refresh_keep (s : State) (c : ℕ)
    (hk : Fit qq s) :
    Fit qq (State.refresh s c) := by
  unfold State.refresh
  repeat' (first | with_reducible assumption | with_reducible apply each_keep | with_reducible apply setCtx_keep | split
                 | intro _ | dsimp only)

theorem goto_keep (s : State) (c : ℕ) (x : ℕ) (a : ℕ)
    (hk : Fit qq s) :
    Fit qq (State.goto s c x a) := by
  unfold State.goto
  repeat' (first | with_reducible assumption | with_reducible apply modCtx_keep | dsimp only)

theorem opSignal_keep (s : State) (c : ℕ) (x : ℕ) (d : BitVec 256)
    (hk : Fit qq s) :
    Fit qq (State.opSignal s c x d) := by
  unfold State.opSignal
  repeat' (first | with_reducible assumption | with_reducible apply signal_keep | dsimp only)

theorem opWait_keep (s : State) (c : ℕ) (x : ℕ) (d : BitVec 256) (st : CtxState) (why : Why)
    (hk : Fit qq s) :
    Fit qq (State.opWait s c x d st why) := by
  unfold State.opWait
  repeat' (first | with_reducible assumption | with_reducible apply setCtx_keep | with_reducible apply modCtx_keep
                 | dsimp only)

theorem startFence_keep (s : State) (c : ℕ) (x : ℕ) (scope : ℕ) (engine : Bool)
    (hk : Fit qq s) :
    Fit qq (State.startFence s c x scope engine) := by
  unfold State.startFence
  repeat' (first | with_reducible assumption | simp only [fit_mk] | with_reducible apply fitMem_of_fit | dsimp only)

theorem doEnd_keep (s : State) (c : ℕ) (x : ℕ) (d : BitVec 256)
    (hk : Fit qq s) :
    Fit qq (State.doEnd s c x d) := by
  unfold State.doEnd
  repeat' (first | with_reducible assumption | with_reducible apply modCtx_keep | with_reducible apply startFence_keep
                 | with_reducible apply opWait_keep | dsimp only)

theorem doBranch_keep (s : State) (c : ℕ) (x : ℕ) (d : BitVec 256)
    (hk : Fit qq s) :
    Fit qq (State.doBranch s c x d) := by
  unfold State.doBranch
  repeat' (first | with_reducible assumption | with_reducible apply modCtx_keep | split | dsimp only)

theorem doLdb_keep (s : State) (c : ℕ) (x : ℕ) (d : BitVec 256)
    (hk : Fit qq s) :
    Fit qq (State.doLdb s c x d) := by
  unfold State.doLdb
  repeat' (first | with_reducible assumption | with_reducible apply ctxFault_keep | with_reducible apply opSignal_keep
                 | with_reducible apply modCtx_keep | split | dsimp only)

theorem doTokclr_keep (s : State) (c : ℕ) (d : BitVec 256)
    (hk : Fit qq s) :
    Fit qq (State.doTokclr s c d) := by
  unfold State.doTokclr
  repeat' (first | with_reducible assumption | with_reducible apply each_keep | with_reducible apply setToken_keep
                 | intro _ | dsimp only)

theorem sendSheaf_keep (s : State) (c : ℕ) (x : ℕ) (d : BitVec 256) (op : SheafOp)
    (hk : Fit qq s) :
    Fit qq (State.sendSheaf s c x d op) := by
  unfold State.sendSheaf
  repeat' (first | with_reducible assumption | with_reducible apply netSend_keep | dsimp only)

theorem doSheaf_keep (s : State) (c : ℕ) (x : ℕ) (d : BitVec 256) (op : SheafOp)
    (hk : Fit qq s) :
    Fit qq (State.doSheaf s c x d op) := by
  unfold State.doSheaf
  repeat' (first | with_reducible assumption | with_reducible apply modCtx_keep | with_reducible apply sendSheaf_keep
                 | dsimp only)

theorem doWaitt_keep (s : State) (c : ℕ) (x : ℕ) (d : BitVec 256)
    (hk : Fit qq s) :
    Fit qq (State.doWaitt s c x d) := by
  unfold State.doWaitt
  repeat' (first | with_reducible assumption | with_reducible apply opSignal_keep | with_reducible apply modCtx_keep
                 | with_reducible apply opWait_keep | split | dsimp only)

theorem doRload_keep (s : State) (c : ℕ) (x : ℕ) (d : BitVec 256)
    (hk : Fit qq s) :
    Fit qq (State.doRload s c x d) := by
  unfold State.doRload
  repeat' (first | with_reducible assumption | with_reducible apply access_keep | with_reducible apply opWait_keep
                 | with_reducible apply modCtx_keep | dsimp only)

theorem doRstore_keep (s : State) (c : ℕ) (x : ℕ) (d : BitVec 256)
    (hk : Fit qq s) :
    Fit qq (State.doRstore s c x d) := by
  unfold State.doRstore
  repeat' (first | with_reducible assumption | with_reducible apply access_keep | dsimp only)

theorem doRatom_keep (s : State) (c : ℕ) (x : ℕ) (d : BitVec 256)
    (hk : Fit qq s) :
    Fit qq (State.doRatom s c x d) := by
  unfold State.doRatom
  repeat' (first | with_reducible assumption | with_reducible apply access_keep | with_reducible apply opWait_keep
                 | with_reducible apply modCtx_keep | split | dsimp only)

theorem control_keep (s : State) (c : ℕ) (x : ℕ) (d : BitVec 256)
    (hk : Fit qq s) :
    Fit qq (State.control s c x d) := by
  unfold State.control
  repeat' (first | with_reducible assumption | with_reducible apply doEnd_keep | with_reducible apply opSignal_keep
                 | with_reducible apply modCtx_keep | with_reducible apply doBranch_keep
                 | with_reducible apply doLdb_keep | with_reducible apply doTokclr_keep
                 | with_reducible apply opWait_keep | with_reducible apply sendSheaf_keep
                 | with_reducible apply doSheaf_keep | with_reducible apply doWaitt_keep
                 | with_reducible apply startFence_keep | with_reducible apply setCtx_keep
                 | with_reducible apply doRload_keep | with_reducible apply doRstore_keep
                 | with_reducible apply doRatom_keep | split | dsimp only)

theorem dispatch_keep (s : State) (c : Nat) (x : Nat) (d : BitVec 256)
    (hk : Fit qq s) :
    Fit qq (State.dispatch s c x d) := by
  unfold State.dispatch
  repeat' (first | with_reducible assumption | with_reducible apply modEng_keep | simp only [fit_mk]
                 | with_reducible apply fitMem_of_fit | intro _ | dsimp only)

theorem tookTurn_keep (s : State) (c : ℕ) (x : ℕ)
    (hk : Fit qq s) :
    Fit qq (State.tookTurn s c x) := by
  unfold State.tookTurn
  repeat' (first | with_reducible assumption | with_reducible apply modCore_keep | dsimp only)

theorem issueNext_keep (s : State) (c : ℕ) (x : ℕ) (d : BitVec 256)
    (hk : Fit qq s) :
    Fit qq (State.issueNext s c x d) := by
  unfold State.issueNext
  repeat' (first | with_reducible assumption | with_reducible apply ctxFault_keep | with_reducible apply tookTurn_keep
                 | with_reducible apply control_keep | with_reducible apply modCtx_keep
                 | with_reducible apply takeTokens_keep | with_reducible apply dispatch_keep | split | dsimp only)

theorem seqStep_keep (s : State) (c : ℕ)
    (hk : Fit qq s) :
    Fit qq (State.seqStep s c) := by
  unfold State.seqStep
  repeat' (first | with_reducible assumption | with_reducible apply refresh_keep | with_reducible apply issueNext_keep
                 | split | dsimp only)

theorem execSequencerIssue_keep (core : ℕ) (s : State)
    (hk : Fit qq s) :
    FitO qq (execSequencerIssue core s) := by
  unfold execSequencerIssue
  repeat' (first | with_reducible assumption | with_reducible apply next_keep | with_reducible apply act_keep
                 | with_reducible apply seqStep_keep | intro _ | dsimp only)

theorem issueOp_keep (s : State) (c : ℕ) (x : ℕ) (op : ℕ)
    (hk : Fit qq s) :
    FitO qq (State.issueOp s c x op) := by
  unfold State.issueOp
  repeat' (first | with_reducible assumption | with_reducible apply next_keep | with_reducible apply act_keep
                 | with_reducible apply seqStep_keep | intro _ | dsimp only)

theorem execEndList_keep (core : ℕ) (ctx : ℕ) (s : State)
    (hk : Fit qq s) :
    FitO qq (execEndList core ctx s) := by
  unfold execEndList
  repeat' (first | with_reducible assumption | with_reducible apply next_keep | with_reducible apply issueOp_keep
                 | dsimp only)

theorem execLoop_keep (core : ℕ) (ctx : ℕ) (s : State)
    (hk : Fit qq s) :
    FitO qq (execLoop core ctx s) := by
  unfold execLoop
  repeat' (first | with_reducible assumption | with_reducible apply next_keep | with_reducible apply issueOp_keep
                 | dsimp only)

theorem execEndloop_keep (core : ℕ) (ctx : ℕ) (s : State)
    (hk : Fit qq s) :
    FitO qq (execEndloop core ctx s) := by
  unfold execEndloop
  repeat' (first | with_reducible assumption | with_reducible apply next_keep | with_reducible apply issueOp_keep
                 | dsimp only)

theorem execCall_keep (core : ℕ) (ctx : ℕ) (s : State)
    (hk : Fit qq s) :
    FitO qq (execCall core ctx s) := by
  unfold execCall
  repeat' (first | with_reducible assumption | with_reducible apply next_keep | with_reducible apply issueOp_keep
                 | dsimp only)

theorem execRet_keep (core : ℕ) (ctx : ℕ) (s : State)
    (hk : Fit qq s) :
    FitO qq (execRet core ctx s) := by
  unfold execRet
  repeat' (first | with_reducible assumption | with_reducible apply next_keep | with_reducible apply issueOp_keep
                 | dsimp only)

theorem execBranch_keep (core : ℕ) (ctx : ℕ) (s : State)
    (hk : Fit qq s) :
    FitO qq (execBranch core ctx s) := by
  unfold execBranch
  repeat' (first | with_reducible assumption | with_reducible apply next_keep | with_reducible apply issueOp_keep
                 | dsimp only)

theorem execSetb_keep (core : ℕ) (ctx : ℕ) (s : State)
    (hk : Fit qq s) :
    FitO qq (execSetb core ctx s) := by
  unfold execSetb
  repeat' (first | with_reducible assumption | with_reducible apply next_keep | with_reducible apply issueOp_keep
                 | dsimp only)

theorem execAddb_keep (core : ℕ) (ctx : ℕ) (s : State)
    (hk : Fit qq s) :
    FitO qq (execAddb core ctx s) := by
  unfold execAddb
  repeat' (first | with_reducible assumption | with_reducible apply next_keep | with_reducible apply issueOp_keep
                 | dsimp only)

theorem execLdb_keep (core : ℕ) (ctx : ℕ) (s : State)
    (hk : Fit qq s) :
    FitO qq (execLdb core ctx s) := by
  unfold execLdb
  repeat' (first | with_reducible assumption | with_reducible apply next_keep | with_reducible apply issueOp_keep
                 | dsimp only)

theorem execTokclr_keep (core : ℕ) (ctx : ℕ) (s : State)
    (hk : Fit qq s) :
    FitO qq (execTokclr core ctx s) := by
  unfold execTokclr
  repeat' (first | with_reducible assumption | with_reducible apply next_keep | with_reducible apply issueOp_keep
                 | dsimp only)

theorem execShTake_keep (core : ℕ) (ctx : ℕ) (s : State)
    (hk : Fit qq s) :
    FitO qq (execShTake core ctx s) := by
  unfold execShTake
  repeat' (first | with_reducible assumption | with_reducible apply next_keep | with_reducible apply issueOp_keep
                 | dsimp only)

theorem execShAdd_keep (core : ℕ) (ctx : ℕ) (s : State)
    (hk : Fit qq s) :
    FitO qq (execShAdd core ctx s) := by
  unfold execShAdd
  repeat' (first | with_reducible assumption | with_reducible apply next_keep | with_reducible apply issueOp_keep
                 | dsimp only)

theorem execShDrain_keep (core : ℕ) (ctx : ℕ) (s : State)
    (hk : Fit qq s) :
    FitO qq (execShDrain core ctx s) := by
  unfold execShDrain
  repeat' (first | with_reducible assumption | with_reducible apply next_keep | with_reducible apply issueOp_keep
                 | dsimp only)

theorem execWaitt_keep (core : ℕ) (ctx : ℕ) (s : State)
    (hk : Fit qq s) :
    FitO qq (execWaitt core ctx s) := by
  unfold execWaitt
  repeat' (first | with_reducible assumption | with_reducible apply next_keep | with_reducible apply issueOp_keep
                 | dsimp only)

theorem execWaitc_keep (core : ℕ) (ctx : ℕ) (s : State)
    (hk : Fit qq s) :
    FitO qq (execWaitc core ctx s) := by
  unfold execWaitc
  repeat' (first | with_reducible assumption | with_reducible apply next_keep | with_reducible apply issueOp_keep
                 | dsimp only)

theorem execFence_keep (core : ℕ) (ctx : ℕ) (s : State)
    (hk : Fit qq s) :
    FitO qq (execFence core ctx s) := by
  unfold execFence
  repeat' (first | with_reducible assumption | with_reducible apply next_keep | with_reducible apply issueOp_keep
                 | dsimp only)

theorem execPause_keep (core : ℕ) (ctx : ℕ) (s : State)
    (hk : Fit qq s) :
    FitO qq (execPause core ctx s) := by
  unfold execPause
  repeat' (first | with_reducible assumption | with_reducible apply next_keep | with_reducible apply issueOp_keep
                 | dsimp only)

theorem execRload_keep (core : Nat) (ctx : Nat) (bad : List (Nat × Nat)) (s : State)
    (hk : Fit qq s) :
    FitO qq (execRload core ctx bad s) := by
  unfold execRload
  repeat' (first | with_reducible assumption | with_reducible apply next_keep | with_reducible apply act_keep
                 | with_reducible apply ownBads_keep | with_reducible apply seqStep_keep | intro _ | dsimp only)

theorem execRstore_keep (core : ℕ) (ctx : ℕ) (s : State)
    (hk : Fit qq s) :
    FitO qq (execRstore core ctx s) := by
  unfold execRstore
  repeat' (first | with_reducible assumption | with_reducible apply next_keep | with_reducible apply issueOp_keep
                 | dsimp only)

theorem execRatom_keep (core : ℕ) (ctx : ℕ) (s : State)
    (hk : Fit qq s) :
    FitO qq (execRatom core ctx s) := by
  unfold execRatom
  repeat' (first | with_reducible assumption | with_reducible apply next_keep | with_reducible apply issueOp_keep
                 | dsimp only)

theorem sendFetch_keep (s : State) (c : Nat) (x : Nat) (b : Nat)
    (hk : Fit qq s) :
    Fit qq (State.sendFetch s c x b) := by
  unfold State.sendFetch
  repeat' (first | with_reducible assumption | with_reducible apply modCtx_keep | with_reducible apply netSend_keep
                 | with_reducible apply access_keep | simp only [fit_mk] | with_reducible apply fitMem_of_fit | split
                 | intro _ | dsimp only)

theorem execPrefetchRefill_keep (core : Nat) (ctx : Nat) (s : State)
    (hk : Fit qq s) :
    FitO qq (execPrefetchRefill core ctx s) := by
  unfold execPrefetchRefill
  repeat' (first | with_reducible assumption | with_reducible apply next_keep | with_reducible apply act_keep
                 | with_reducible apply modCtx_keep | with_reducible apply sendFetch_keep | simp only [fit_mk]
                 | with_reducible apply fitMem_of_fit | split | intro _ | dsimp only)

theorem waitOver_keep (s : State) (c : ℕ) (x : ℕ)
    (hk : Fit qq s) :
    Fit qq (State.waitOver s c x) := by
  unfold State.waitOver
  repeat' (first | with_reducible assumption | with_reducible apply signal_keep | with_reducible apply modCtx_keep
                 | with_reducible apply setCtx_keep | dsimp only)

theorem execWaittEnd_keep (core : ℕ) (ctx : ℕ) (s : State)
    (hk : Fit qq s) :
    FitO qq (execWaittEnd core ctx s) := by
  unfold execWaittEnd
  repeat' (first | with_reducible assumption | with_reducible apply next_keep | with_reducible apply act_keep
                 | with_reducible apply waitOver_keep | intro _ | dsimp only)

theorem execWaitcEnd_keep (core : ℕ) (ctx : ℕ) (s : State)
    (hk : Fit qq s) :
    FitO qq (execWaitcEnd core ctx s) := by
  unfold execWaitcEnd
  repeat' (first | with_reducible assumption | with_reducible apply next_keep | with_reducible apply act_keep
                 | with_reducible apply waitOver_keep | with_reducible apply modCtx_keep | intro _ | dsimp only)

theorem execContextEntersIdle_keep (core : ℕ) (ctx : ℕ) (s : State)
    (hk : Fit qq s) :
    FitO qq (execContextEntersIdle core ctx s) := by
  unfold execContextEntersIdle
  repeat' (first | with_reducible assumption | with_reducible apply next_keep | with_reducible apply act_keep
                 | with_reducible apply signal_keep | with_reducible apply modCtx_keep | with_reducible apply goIdle_keep
                 | intro _ | dsimp only)

theorem execSheafAnswer_keep (core : ℕ) (ctx : ℕ) (s : State)
    (hk : Fit qq s) :
    FitO qq (execSheafAnswer core ctx s) := by
  unfold execSheafAnswer
  repeat' (first | with_reducible assumption | with_reducible apply next_keep | with_reducible apply act_keep
                 | with_reducible apply modCtx_keep | with_reducible apply ctxFault_keep
                 | with_reducible apply setCtx_keep | with_reducible apply signal_keep | simp only [fit_mk]
                 | with_reducible apply fitMem_of_fit | split | intro _ | dsimp only)

theorem execXcTokenSignal_keep (core : ℕ) (s : State)
    (hk : Fit qq s) :
    FitO qq (execXcTokenSignal core s) := by
  unfold execXcTokenSignal
  repeat' (first | with_reducible assumption | with_reducible apply next_keep | with_reducible apply act_keep
                 | with_reducible apply bumpToken_keep | with_reducible apply modCore_keep | split | intro _ | dsimp only)

end Sys2Proof.Machine
end

