-- ==== Sys2Proof/Laws/KeepSheaf.lean ====
section
/-! SUPPORT. The operations and meanings of Machine/Sheaf leave the queue alone and keep the memory's one form. -/

namespace Sys2Proof.Machine

set_option linter.unreachableTactic false
set_option linter.unusedTactic false
set_option linter.unusedSimpArgs false

variable {qq : List Instr}

theorem bankFault_keep (s : State) (sheaf : ℕ) (kind : ℕ) (core : Option ℕ)
    (hk : Fit qq s) :
    Fit qq (State.bankFault s sheaf kind core) := by
  unfold State.bankFault
  repeat' (first | with_reducible assumption | with_reducible apply modBank_keep | dsimp only)

theorem bankAnswer_keep (s : State) (core : Nat) (ctx : Nat) (op : Nat) (st : Status) (sig : BitVec 16)
    (hk : Fit qq s) :
    Fit qq (State.bankAnswer s core ctx op st sig) := by
  unfold State.bankAnswer
  repeat' (first | with_reducible assumption | with_reducible apply netSend_keep | simp only [fit_mk]
                 | with_reducible apply fitMem_of_fit | dsimp only)

theorem bankReply_keep (s : State) (r : BankReq) (st : Status) (data : List Byte)
    (hk : Fit qq s) :
    Fit qq (State.bankReply s r st data) := by
  unfold State.bankReply
  repeat' (first | with_reducible assumption | with_reducible apply bankAnswer_keep | with_reducible apply reply_keep
                 | split | dsimp only)

theorem serve_keep (s : State) (i : ℕ)
    (hk : Fit qq s) :
    Fit qq (State.serve s i) := by
  unfold State.serve
  repeat' (first | with_reducible assumption | with_reducible apply each_keep | with_reducible apply bankAnswer_keep
                 | with_reducible apply modSheaf_keep | intro _ | dsimp only)

theorem setSheaf_keep (s : State) (i : ℕ) (v : ℕ)
    (hk : Fit qq s) :
    Fit qq (State.setSheaf s i v) := by
  unfold State.setSheaf
  repeat' (first | with_reducible assumption | with_reducible apply serve_keep | with_reducible apply modSheaf_keep
                 | dsimp only)

theorem sheafAdd_keep (s : State) (i : ℕ) (n : ℕ) (core : Option ℕ)
    (hk : Fit qq s) :
    Fit qq (State.sheafAdd s i n core).1 := by
  unfold State.sheafAdd
  repeat' (first | with_reducible assumption | with_reducible apply setSheaf_keep | with_reducible apply bankFault_keep
                 | split | dsimp only)

theorem sheafDrain_keep (s : State) (i : ℕ) (n : ℕ) (core : Option ℕ)
    (hk : Fit qq s) :
    Fit qq (State.sheafDrain s i n core).1 := by
  unfold State.sheafDrain
  repeat' (first | with_reducible assumption | with_reducible apply modSheaf_keep | with_reducible apply bankFault_keep
                 | split | dsimp only)

theorem sheafTake_keep (s : State) (r : BankReq)
    (hk : Fit qq s) :
    Fit qq (State.sheafTake s r).1 := by
  unfold State.sheafTake
  repeat' (first | with_reducible assumption | with_reducible apply bankFault_keep | with_reducible apply modSheaf_keep
                 | split | dsimp only)

theorem bankHead_keep {s t : State} {k : Nat} {op : SheafOp} {x} (he : s.bankHead k op = some (x, t))
    (hk : Fit qq s) : Fit qq t := by
  unfold State.bankHead at he
  split at he
  · cases he
  · split at he
    · cases he
    · split at he
      · cases he
        exact modBank_keep _ _ hk
      · cases he

theorem execBankAdd_keep (k : ℕ) (s : State)
    (hk : Fit qq s) :
    FitO qq (execBankAdd k s) := by
  unfold execBankAdd
  repeat' (first | with_reducible assumption | with_reducible apply next_keep | with_reducible apply act_keep
                 | with_reducible apply sheafAdd_keep | with_reducible apply bankReply_keep
                 | with_reducible refine bankHead_keep ‹_› ?_ | split | intro _ | dsimp only)

theorem execBankTake_keep (k : ℕ) (s : State)
    (hk : Fit qq s) :
    FitO qq (execBankTake k s) := by
  unfold execBankTake
  repeat' (first | with_reducible assumption | with_reducible apply next_keep | with_reducible apply act_keep
                 | with_reducible apply sheafTake_keep | with_reducible apply bankReply_keep
                 | with_reducible refine bankHead_keep ‹_› ?_ | split | intro _ | dsimp only)

theorem execBankDrain_keep (k : ℕ) (s : State)
    (hk : Fit qq s) :
    FitO qq (execBankDrain k s) := by
  unfold execBankDrain
  repeat' (first | with_reducible assumption | with_reducible apply next_keep | with_reducible apply act_keep
                 | with_reducible apply sheafDrain_keep | with_reducible apply bankReply_keep
                 | with_reducible refine bankHead_keep ‹_› ?_ | split | intro _ | dsimp only)

theorem execBankRead_keep (k : ℕ) (s : State)
    (hk : Fit qq s) :
    FitO qq (execBankRead k s) := by
  unfold execBankRead
  repeat' (first | with_reducible assumption | with_reducible apply next_keep | with_reducible apply act_keep
                 | with_reducible apply bankReply_keep | with_reducible refine bankHead_keep ‹_› ?_ | split | intro _
                 | dsimp only)

theorem execTakeTimeout_keep (k : ℕ) (core : ℕ) (ctx : ℕ) (s : State)
    (hk : Fit qq s) :
    FitO qq (execTakeTimeout k core ctx s) := by
  unfold execTakeTimeout
  repeat' (first | with_reducible assumption | with_reducible apply next_keep | with_reducible apply act_keep
                 | with_reducible apply modSheaf_keep | with_reducible apply raise_keep
                 | with_reducible apply modBank_keep | with_reducible apply bankFault_keep
                 | with_reducible apply bankAnswer_keep | split | intro _ | dsimp only)

theorem execSheafInit_keep (o : Origin) (sheaf : ℕ) (value : W32) (limit : W32) (wlim : BitVec 16) (s : State)
    (hk : Fit qq s) :
    FitO qq (execSheafInit o sheaf value limit wlim s) := by
  unfold execSheafInit
  repeat' (first | with_reducible assumption | with_reducible apply next_keep | with_reducible apply command_keep
                 | with_reducible apply modSheaf_keep | intro _ | dsimp only)

theorem execSheafRead_keep (o : Origin) (sheaf : ℕ) (s : State)
    (hk : Fit qq s) :
    FitO qq (execSheafRead o sheaf s) := by
  unfold execSheafRead
  repeat' (first | with_reducible assumption | with_reducible apply next_keep | with_reducible apply command_keep
                 | intro _ | dsimp only)

theorem execSheafAdd_keep (o : Origin) (sheaf : ℕ) (n : W32) (s : State)
    (hk : Fit qq s) :
    FitO qq (execSheafAdd o sheaf n s) := by
  unfold execSheafAdd
  repeat' (first | with_reducible assumption | with_reducible apply next_keep | with_reducible apply complete_keep
                 | with_reducible apply sheafAdd_keep | split | dsimp only)

theorem execSheafForce_keep (o : Origin) (sheaf : ℕ) (value : W32) (s : State)
    (hk : Fit qq s) :
    FitO qq (execSheafForce o sheaf value s) := by
  unfold execSheafForce
  repeat' (first | with_reducible assumption | with_reducible apply next_keep | with_reducible apply proxy_keep
                 | with_reducible apply command_keep | with_reducible apply log_keep | with_reducible apply raise_keep
                 | with_reducible apply setSheaf_keep | simp only [fit_mk] | with_reducible apply fitMem_of_fit | split
                 | intro _ | dsimp only)

end Sys2Proof.Machine
end

