-- ==== Sys2Proof/Laws/KeepSow.lean ====
section
/-! SUPPORT. The operations and meanings of Machine/Sow leave the queue alone and keep the memory's one form. -/

namespace Sys2Proof.Machine

set_option linter.unreachableTactic false
set_option linter.unusedTactic false
set_option linter.unusedSimpArgs false

variable {qq : List Instr}

theorem execFtCorrectionPulse_keep (node : ℕ) (reading : ℕ) (s : State)
    (hk : Fit qq s) :
    FitO qq (execFtCorrectionPulse node reading s) := by
  unfold execFtCorrectionPulse
  repeat' (first | with_reducible assumption | with_reducible apply next_keep | with_reducible apply act_keep
                 | with_reducible apply raise_keep | simp only [fit_mk] | with_reducible apply fitMem_of_fit | split
                 | intro _ | dsimp only)

theorem execClockStretch_keep (region : ℕ) (percent : ℕ) (s : State)
    (hk : Fit qq s) :
    FitO qq (execClockStretch region percent s) := by
  unfold execClockStretch
  repeat' (first | with_reducible assumption | with_reducible apply next_keep | with_reducible apply act_keep
                 | simp only [fit_mk] | with_reducible apply fitMem_of_fit | intro _ | dsimp only)

theorem sowLoad_keep (s : State) (p : SowParams)
    (hk : Fit qq s) :
    Fit qq (State.sowLoad s p) := by
  unfold State.sowLoad
  repeat' (first | with_reducible assumption | with_reducible apply modSow_keep | simp only [fit_mk]
                 | with_reducible apply fitMem_of_fit | split | dsimp only)

theorem execSowSet_keep (o : Origin) (p : SowParams) (s : State)
    (hk : Fit qq s) :
    FitO qq (execSowSet o p s) := by
  unfold execSowSet
  repeat' (first | with_reducible assumption | with_reducible apply next_keep | with_reducible apply command_keep
                 | with_reducible apply sowLoad_keep | intro _ | dsimp only)

theorem sowAct_keep (s : State) (t : SowTable) (u : ℕ) (e : SowEntry)
    (hk : Fit qq s) :
    Fit qq (State.sowAct s t u e).1 := by
  unfold State.sowAct
  repeat' (first | with_reducible assumption | with_reducible apply tryLaunch_keep | with_reducible apply rmapSet_keep
                 | with_reducible apply txcfgWrite_keep | with_reducible apply sheafAdd_keep
                 | with_reducible apply calWrite_keep | split | dsimp only)

theorem countLate_keep (s : State) (t : SowTable) (u : ℕ)
    (hk : Fit qq s) :
    Fit qq (State.countLate s t u) := by
  unfold State.countLate
  repeat' (first | with_reducible assumption | with_reducible apply modCore_keep | with_reducible apply modSta_keep
                 | with_reducible apply modPort_keep | split | dsimp only)

theorem sowFire_keep (s : State) (t : SowTable) (u : ℕ) (e : SowEntry) (late : Bool)
    (hk : Fit qq s) :
    Fit qq (State.sowFire s t u e late) := by
  unfold State.sowFire
  repeat' (first | with_reducible assumption | with_reducible apply modSow_keep | with_reducible apply countLate_keep
                 | with_reducible apply sowAct_keep | with_reducible apply sowResult_keep | simp only [fit_mk]
                 | with_reducible apply fitMem_of_fit | split | dsimp only)

theorem execSowEntryFire_keep (t : SowTable) (unitNo : ℕ) (late : Bool) (s : State)
    (hk : Fit qq s) :
    FitO qq (execSowEntryFire t unitNo late s) := by
  unfold execSowEntryFire
  repeat' (first | with_reducible assumption | with_reducible apply next_keep | with_reducible apply act_keep
                 | with_reducible apply sowFire_keep | split | intro _ | dsimp only)

theorem execSowCompletion_keep (t : SowTable) (unitNo : ℕ) (sowid : BitVec 16) (s : State)
    (hk : Fit qq s) :
    FitO qq (execSowCompletion t unitNo sowid s) := by
  unfold execSowCompletion
  repeat' (first | with_reducible assumption | with_reducible apply next_keep | with_reducible apply act_keep
                 | with_reducible apply sendRecord_keep | simp only [fit_mk] | with_reducible apply fitMem_of_fit | split
                 | intro _ | dsimp only)

theorem sowDrop_keep (s : State) (k : ℕ) (p : SowEntry → Bool) (st : Status)
    (hk : Fit qq s) :
    Fit qq (State.sowDrop s k p st) := by
  unfold State.sowDrop
  repeat' (first | with_reducible assumption | with_reducible apply modSow_keep | with_reducible apply foldl_keep
                 | with_reducible apply foldl_keep1 | with_reducible apply foldl_keep2 | simp only [fit_mk]
                 | with_reducible apply fitMem_of_fit | split | intro _ | dsimp only)

theorem clearSows_keep (s : State) (t : SowTable) (u : ℕ)
    (hk : Fit qq s) :
    Fit qq (State.clearSows s t u) := by
  unfold State.clearSows
  repeat' (first | with_reducible assumption | with_reducible apply sowDrop_keep | dsimp only)

theorem execSowCancel_keep (o : Origin) (t : SowTable) (unitNo : ℕ) (sowid : BitVec 16) (s : State)
    (hk : Fit qq s) :
    FitO qq (execSowCancel o t unitNo sowid s) := by
  unfold execSowCancel
  repeat' (first | with_reducible assumption | with_reducible apply next_keep | with_reducible apply command_keep
                 | with_reducible apply sowDrop_keep | intro _ | dsimp only)

end Sys2Proof.Machine
end

