-- ==== Sys2Proof/Laws/KeepStore.lean ====
section
/-! SUPPORT. The operations and meanings of Machine/Store leave the queue alone and keep the memory's one form. -/

namespace Sys2Proof.Machine

set_option linter.unreachableTactic false
set_option linter.unusedTactic false
set_option linter.unusedSimpArgs false

variable {qq : List Instr}

theorem execHashSet_keep (o : Origin) (key : W64) (msmask : BitVec 4) (stksel : Byte) (s : State)
    (hk : Fit qq s) :
    FitO qq (execHashSet o key msmask stksel s) := by
  unfold execHashSet
  repeat' (first | with_reducible assumption | with_reducible apply next_keep | with_reducible apply command_keep
                 | simp only [fit_mk] | with_reducible apply fitMem_of_fit | intro _ | dsimp only)

theorem execHashBolt_keep (o : Origin) (s : State)
    (hk : Fit qq s) :
    FitO qq (execHashBolt o s) := by
  unfold execHashBolt
  repeat' (first | with_reducible assumption | with_reducible apply next_keep | with_reducible apply command_keep
                 | with_reducible apply capSense_keep | simp only [fit_mk] | with_reducible apply fitMem_of_fit | intro _
                 | dsimp only)

theorem execSelfRefreshEnter_keep (h : ℕ) (s : State)
    (hk : Fit qq s) :
    FitO qq (execSelfRefreshEnter h s) := by
  unfold execSelfRefreshEnter
  repeat' (first | with_reducible assumption | with_reducible apply next_keep | with_reducible apply act_keep
                 | with_reducible apply setStack_keep | intro _ | dsimp only)

theorem execSelfRefreshExit_keep (h : ℕ) (s : State)
    (hk : Fit qq s) :
    FitO qq (execSelfRefreshExit h s) := by
  unfold execSelfRefreshExit
  repeat' (first | with_reducible assumption | with_reducible apply next_keep | with_reducible apply act_keep
                 | with_reducible apply setStack_keep | intro _ | dsimp only)

theorem execStackLeavesService_keep (h : ℕ) (s : State)
    (hk : Fit qq s) :
    FitO qq (execStackLeavesService h s) := by
  unfold execStackLeavesService
  repeat' (first | with_reducible assumption | with_reducible apply next_keep | with_reducible apply act_keep
                 | with_reducible apply setStack_keep | with_reducible apply modHbm_keep
                 | with_reducible apply modSta_keep | intro _ | dsimp only)

theorem scrubBad_keep (s : State) (h : Nat) (blk : Nat) (bad : Nat)
    (hk : Fit qq s) :
    Fit qq (State.scrubBad s h blk bad) := by
  unfold State.scrubBad
  repeat' (first | with_reducible assumption | with_reducible apply mem_keep | with_reducible apply modMs_keep
                 | with_reducible apply setPoison_keep | with_reducible apply raise_keep
                 | with_reducible apply draw_keep | simp only [fit_mk] | with_reducible apply fitMem_of_fit | split
                 | intro _ | dsimp only)

theorem execScrub_keep (h : Nat) (blk : Nat) (badSymbols : Nat) (s : State)
    (hk : Fit qq s) :
    FitO qq (execScrub h blk badSymbols s) := by
  unfold execScrub
  repeat' (first | with_reducible assumption | with_reducible apply next_keep | with_reducible apply act_keep
                 | with_reducible apply setStack_keep | with_reducible apply scrubBad_keep
                 | with_reducible apply modMs_keep | simp only [fit_mk] | with_reducible apply fitMem_of_fit | split
                 | intro _ | dsimp only)

theorem execMergeBlockLeave_keep (st : Nat) (blk : Nat) (s : State)
    (hk : Fit qq s) :
    FitO qq (execMergeBlockLeave st blk s) := by
  unfold execMergeBlockLeave
  repeat' (first | with_reducible assumption | with_reducible apply next_keep | with_reducible apply act_keep
                 | with_reducible apply writeBack_keep | split | intro _ | dsimp only)

theorem kdApply_keep (s : State) (n : ℕ) (f : CacheDie → CacheDie)
    (hk : Fit qq s) :
    Fit qq (State.kdApply s n f).1 := by
  unfold State.kdApply
  repeat' (first | with_reducible assumption | with_reducible apply capSense_keep | with_reducible apply modKd_keep
                 | split | dsimp only)

theorem execStarve_keep (core : ℕ) (s : State)
    (hk : Fit qq s) :
    FitO qq (execStarve core s) := by
  unfold execStarve
  repeat' (first | with_reducible assumption | with_reducible apply next_keep | with_reducible apply act_keep
                 | with_reducible apply modCore_keep | intro _ | dsimp only)

theorem execSpUe_keep (core : Nat) (row : Nat) (correctable : Bool) (s : State)
    (hk : Fit qq s) :
    FitO qq (execSpUe core row correctable s) := by
  unfold execSpUe
  repeat' (first | with_reducible assumption | with_reducible apply next_keep | with_reducible apply act_keep
                 | with_reducible apply spBad_keep | with_reducible apply setPoison_keep | split | intro _
                 | dsimp only)

end Sys2Proof.Machine
end

