-- ==== Sys2Proof/Laws/KeepRegs.lean ====
section
/-! SUPPORT. The operations and meanings of Machine/Regs leave the queue alone and keep the memory's one form. -/

namespace Sys2Proof.Machine

set_option linter.unreachableTactic false
set_option linter.unusedTactic false
set_option linter.unusedSimpArgs false

variable {qq : List Instr}

theorem latch_keep (s : State) (off : ℕ)
    (hk : Fit qq s) :
    Fit qq (State.latch s off) := by
  unfold State.latch
  repeat' (first | with_reducible assumption | with_reducible apply modRx_keep | with_reducible apply modMs_keep
                 | with_reducible apply modCore_keep | with_reducible apply modCtx_keep | simp only [fit_mk]
                 | with_reducible apply fitMem_of_fit | split | dsimp only)

theorem regRead_keep (s : State) (a : ℕ)
    (hk : Fit qq s) :
    Fit qq (State.regRead s a).2.2 := by
  unfold State.regRead
  repeat' (first | with_reducible assumption | with_reducible apply latch_keep | split | dsimp only)

end Sys2Proof.Machine
end

