-- ==== Sys2Proof/Laws/KeepService.lean ====
section
/-! SUPPORT. The operations and meanings of Machine/Service leave the queue alone and keep the memory's one form. -/

namespace Sys2Proof.Machine

set_option linter.unreachableTactic false
set_option linter.unusedTactic false
set_option linter.unusedSimpArgs false

variable {qq : List Instr}

theorem undelivered_keep (s : State) (w : Nat) (st : Nat)
    (hk : Fit qq s) :
    Fit qq (State.undelivered s w st) := by
  unfold State.undelivered
  repeat' (first | with_reducible assumption | with_reducible apply modSta_keep | simp only [fit_mk]
                 | with_reducible apply fitMem_of_fit | split | intro _ | dsimp only)

theorem purgeTo_keep (s : State) (w : Nat) (st : Nat)
    (hk : Fit qq s) :
    Fit qq (State.purgeTo s w st) := by
  unfold State.purgeTo
  repeat' (first | with_reducible assumption | with_reducible apply modSta_keep | with_reducible apply each_keep
                 | with_reducible apply modTx_keep | simp only [fit_mk] | with_reducible apply fitMem_of_fit | split
                 | intro _ | dsimp only)

theorem clearPend_keep (s : State) (r : ℕ) (w : ℕ)
    (hk : Fit qq s) :
    Fit qq (State.clearPend s r w) := by
  unfold State.clearPend
  repeat' (first | with_reducible assumption | with_reducible apply each_keep | simp only [fit_mk]
                 | with_reducible apply fitMem_of_fit | intro _ | dsimp only)

theorem readerSetsChanged_keep (s : State) (st : Nat)
    (hk : Fit qq s) :
    Fit qq (State.readerSetsChanged s st) := by
  unfold State.readerSetsChanged
  repeat' (first | with_reducible assumption | with_reducible apply each_keep | with_reducible apply settleAcks_keep
                 | with_reducible apply reshare_keep | split | intro _ | dsimp only)

theorem stationGone_keep (s : State) (st : Nat)
    (hk : Fit qq s) :
    Fit qq (State.stationGone s st) := by
  unfold State.stationGone
  repeat' (first | with_reducible assumption | with_reducible apply each_keep | with_reducible apply undelivered_keep
                 | with_reducible apply purgeTo_keep | with_reducible apply clearPend_keep
                 | with_reducible apply refusePacket_keep | with_reducible apply readerSetsChanged_keep | intro _
                 | dsimp only)

theorem freshCredit_keep (s : State) (r : ℕ) (w : ℕ)
    (hk : Fit qq s) :
    Fit qq (State.freshCredit s r w) := by
  unfold State.freshCredit
  repeat' (first | with_reducible assumption | with_reducible apply each_keep | with_reducible apply setHeld_keep
                 | simp only [fit_mk] | with_reducible apply fitMem_of_fit | intro _ | dsimp only)

theorem stationBack_keep (s : State) (st : Nat)
    (hk : Fit qq s) :
    Fit qq (State.stationBack s st) := by
  unfold State.stationBack
  repeat' (first | with_reducible assumption | with_reducible apply each_keep | with_reducible apply freshCredit_keep
                 | with_reducible apply modSta_keep | with_reducible apply joinReader_keep
                 | with_reducible apply readerSetsChanged_keep | simp only [fit_mk]
                 | with_reducible apply fitMem_of_fit | split | intro _ | dsimp only)

theorem setHalt_keep (s : State) (u : Unit') (b : Bool)
    (hk : Fit qq s) :
    Fit qq (State.setHalt s u b) := by
  unfold State.setHalt
  repeat' (first | with_reducible assumption | with_reducible apply modSta_keep | with_reducible apply modKd_keep
                 | with_reducible apply modPort_keep | with_reducible apply modCore_keep
                 | with_reducible apply capSense_keep | with_reducible apply sense_keep | split | dsimp only)

theorem haltUnit_keep (s : State) (u : Unit') (hk : Fit qq s) : Fit qq (State.haltUnit s u) := by
  unfold State.haltUnit
  split
  · exact hk
  · have h1 := fun l => reloaded_keep l (setHalt_keep s u true hk)
    cases u
    · exact stationGone_keep _ _ (h1 _)
    · exact h1 _
    · exact portLeft_keep _ _ (h1 _)
    · exact h1 _

theorem resumeUnit_keep (s : State) (u : Unit') (hk : Fit qq s) : Fit qq (State.resumeUnit s u) := by
  unfold State.resumeUnit
  have h1 := fun l => reloaded_keep l (setHalt_keep s u false hk)
  cases u
  · dsimp only
    split
    · exact stationBack_keep _ _ (h1 _)
    · exact h1 _
  · exact h1 _
  · exact h1 _
  · exact h1 _

theorem reload_keep (s : State) (off : ℕ)
    (hk : Fit qq s) :
    Fit qq (State.reload s off) := by
  unfold State.reload
  repeat' (first | with_reducible assumption | with_reducible apply resumeUnit_keep | with_reducible apply draw_keep
                 | simp only [fit_mk] | with_reducible apply fitMem_of_fit | split | dsimp only)

theorem wroteReg_keep (r : State × Status) (p : Path) (off : ℕ)
    (hk : Fit qq r.1) :
    Fit qq (State.wroteReg r p off) := by
  unfold State.wroteReg
  repeat' (first | with_reducible assumption | with_reducible apply reload_keep | with_reducible apply dropWrite_keep
                 | split | dsimp only)

end Sys2Proof.Machine
end

