-- ==== Sys2Proof/Laws/KeepRegWrite.lean ====
section
/-! SUPPORT. The operations and meanings of Machine/RegWrite leave the queue alone and keep the memory's one form. -/

namespace Sys2Proof.Machine

set_option linter.unreachableTactic false
set_option linter.unusedTactic false
set_option linter.unusedSimpArgs false

variable {qq : List Instr}

theorem unpend_keep (s : State) (src : ℕ)
    (hk : Fit qq s) :
    Fit qq (State.unpend s src) := by
  unfold State.unpend
  repeat' (first | with_reducible assumption | simp only [fit_mk] | with_reducible apply fitMem_of_fit | dsimp only)

theorem noticeEoi_keep (s : State) (src : ℕ)
    (hk : Fit qq s) :
    Fit qq (State.noticeEoi s src).1 := by
  unfold State.noticeEoi
  repeat' (first | with_reducible assumption | with_reducible apply latchPend_keep | simp only [fit_mk]
                 | with_reducible apply fitMem_of_fit | split | dsimp only)

theorem pendSet_keep (s : State) (src : ℕ)
    (hk : Fit qq s) :
    Fit qq (State.pendSet s src) := by
  unfold State.pendSet
  repeat' (first | with_reducible assumption | with_reducible apply latchPend_keep | with_reducible apply raise_keep
                 | split | dsimp only)

theorem pendClr_keep (s : State) (src : ℕ)
    (hk : Fit qq s) :
    Fit qq (State.pendClr s src) := by
  unfold State.pendClr
  repeat' (first | with_reducible assumption | with_reducible apply unpend_keep | split | dsimp only)

theorem noticeBits_keep {s : State} {f : Nat → State → State} (i : Nat) (data : W32) (hk : Fit qq s)
    (hf : ∀ (i : Nat) (s : State), Fit qq s → Fit qq (f i s)) : Fit qq (s.noticeBits f i data) := by
  unfold State.noticeBits
  exact each_keep _ hk fun b s h => hf _ s h

theorem setMask_keep (s : State) (b : Bool) (src : ℕ)
    (hk : Fit qq s) :
    Fit qq (State.setMask s b src) := by
  unfold State.setMask
  repeat' (first | with_reducible assumption | simp only [fit_mk] | with_reducible apply fitMem_of_fit | dsimp only)

theorem noticeWrite_keep (s : State) (r : ℕ) (data : W32)
    (hk : Fit qq s) :
    Fit qq (State.noticeWrite s r data).1 := by
  unfold State.noticeWrite
  repeat' (first | with_reducible assumption | with_reducible apply noticeBits_keep | with_reducible apply setMask_keep
                 | with_reducible apply pendSet_keep | with_reducible apply pendClr_keep
                 | with_reducible apply noticeEoi_keep | simp only [fit_mk] | with_reducible apply fitMem_of_fit | split
                 | intro _ | dsimp only)

theorem ringci_keep (s : State) (r : ℕ) (data : W32)
    (hk : Fit qq s) :
    Fit qq (State.ringci s r data).1 := by
  unfold State.ringci
  repeat' (first | with_reducible assumption | with_reducible apply sense_keep | with_reducible apply modCring_keep
                 | split | dsimp only)

theorem mboxGo_keep (s : State) (via : Via)
    (hk : Fit qq s) :
    Fit qq (State.mboxGo s via).1 := by
  unfold State.mboxGo
  repeat' (first | with_reducible assumption | simp only [fit_mk] | with_reducible apply fitMem_of_fit | split
                 | dsimp only)

theorem cmdWrite_keep (s : State) (via : Via) (r : ℕ) (data : W32)
    (hk : Fit qq s) :
    Fit qq (State.cmdWrite s via r data).1 := by
  unfold State.cmdWrite
  repeat' (first | with_reducible assumption | with_reducible apply ringci_keep | with_reducible apply mboxGo_keep
                 | simp only [fit_mk] | with_reducible apply fitMem_of_fit | split | dsimp only)

theorem testEn_keep (s : State) (data : W32)
    (hk : Fit qq s) :
    Fit qq (State.testEn s data).1 := by
  unfold State.testEn
  repeat' (first | with_reducible assumption | with_reducible apply sense_keep | simp only [fit_mk]
                 | with_reducible apply fitMem_of_fit | split | dsimp only)

theorem test_keep {s : State} (t : SelfTest) (h : Fit qq s) : Fit qq { s with test := t } := h

theorem testWrite_keep (s : State) (r : Nat) (data : W32) (hk : Fit qq s) : Fit qq (s.testWrite r data).1 := by
  have put : ∀ (ok : Bool) (t : SelfTest),
      Fit qq (if ok then (({ s with test := t }, .done) : State × Status) else (s, .outOfRange)).1 := by
    intro ok t
    cases ok
    · exact hk
    · exact test_keep t hk
  unfold State.testWrite
  dsimp only
  split
  · exact hk
  · split
    · exact hk
    · split <;> exact put _ _

theorem msWrite_keep (s : State) (k : ℕ) (r : ℕ) (data : W32)
    (hk : Fit qq s) :
    Fit qq (State.msWrite s k r data).1 := by
  unfold State.msWrite
  repeat' (first | with_reducible assumption | with_reducible apply modMs_keep | split | dsimp only)

theorem rngseed_keep (s : State) (c : ℕ) (data : W32)
    (hk : Fit qq s) :
    Fit qq (State.rngseed s c data) := by
  unfold State.rngseed
  repeat' (first | with_reducible assumption | with_reducible apply each_keep | with_reducible apply modEng_keep
                 | intro _ | dsimp only)

theorem coreWrite_keep (s : State) (c : ℕ) (r : ℕ) (data : W32)
    (hk : Fit qq s) :
    Fit qq (State.coreWrite s c r data).1 := by
  unfold State.coreWrite
  repeat' (first | with_reducible assumption | with_reducible apply modCore_keep | with_reducible apply rngseed_keep
                 | split | dsimp only)

theorem stationWrite_keep (s : State) (st : ℕ) (r : ℕ) (data : W32)
    (hk : Fit qq s) :
    Fit qq (State.stationWrite s st r data).1 := by
  unfold State.stationWrite
  repeat' (first | with_reducible assumption | with_reducible apply txcfgWrite_keep
                 | with_reducible apply crallocWrite_keep | with_reducible apply calcfgWrite_keep | split | dsimp only)

theorem stopRegion_keep (s : State) (r : ℕ) (freq : ℕ)
    (hk : Fit qq s) :
    Fit qq (State.stopRegion s r freq) := by
  unfold State.stopRegion
  repeat' (first | with_reducible assumption | with_reducible apply modRegion_keep | simp only [fit_mk]
                 | with_reducible apply fitMem_of_fit | split | dsimp only)

theorem regionWrite_keep (s : State) (r : ℕ) (data : W32)
    (hk : Fit qq s) :
    Fit qq (State.regionWrite s r data) := by
  unfold State.regionWrite
  repeat' (first | with_reducible assumption | with_reducible apply modRegion_keep | with_reducible apply stopRegion_keep
                 | split | dsimp only)

theorem pwrWrite_keep (s : State) (r : ℕ) (data : W32)
    (hk : Fit qq s) :
    Fit qq (State.pwrWrite s r data) := by
  unfold State.pwrWrite
  repeat' (first | with_reducible assumption | with_reducible apply modDiePower_keep
                 | with_reducible apply regionWrite_keep | simp only [fit_mk] | with_reducible apply fitMem_of_fit
                 | split | dsimp only)

theorem wdWrite_keep (s : State) (r : ℕ) (data : W32)
    (hk : Fit qq s) :
    Fit qq (State.wdWrite s r data) := by
  unfold State.wdWrite
  repeat' (first | with_reducible assumption | with_reducible apply raise_keep | with_reducible apply setSheaf_keep
                 | simp only [fit_mk] | with_reducible apply fitMem_of_fit | split | dsimp only)

theorem applyWrite_keep (s : State) (off : ℕ) (data : W32)
    (hk : Fit qq s) :
    Fit qq (State.applyWrite s off data).1 := by
  unfold State.applyWrite
  repeat' (first | with_reducible assumption | with_reducible apply modFeed_keep | with_reducible apply pwrWrite_keep
                 | with_reducible apply wdWrite_keep | with_reducible apply kdApply_keep
                 | with_reducible apply portCfg_keep | split | dsimp only)

theorem applyPosted_keep (s : State) (u : SlowUnit)
    (hk : Fit qq s) :
    Fit qq (State.applyPosted s u) := by
  unfold State.applyPosted
  repeat' (first | with_reducible assumption | with_reducible apply wroteReg_keep | with_reducible apply applyWrite_keep
                 | with_reducible apply unpost_keep | split | dsimp only)

theorem postWrite_keep (s : State) (u : SlowUnit) (b : Block) (r : ℕ) (off : ℕ) (data : W32)
    (hk : Fit qq s) :
    Fit qq (State.postWrite s u b r off data).1 := by
  unfold State.postWrite
  repeat' (first | with_reducible assumption | simp only [fit_mk] | with_reducible apply fitMem_of_fit | split
                 | dsimp only)

theorem blockWrite_keep (s : State) (via : Via) (b : Block) (r : ℕ) (off : ℕ) (data : W32)
    (hk : Fit qq s) :
    Fit qq (State.blockWrite s via b r off data).1 := by
  unfold State.blockWrite
  repeat' (first | with_reducible assumption | with_reducible apply postWrite_keep
                 | with_reducible apply noticeWrite_keep | with_reducible apply cmdWrite_keep
                 | with_reducible apply testEn_keep | with_reducible apply testWrite_keep
                 | with_reducible apply stationWrite_keep | with_reducible apply msWrite_keep
                 | with_reducible apply coreWrite_keep | split | dsimp only)

theorem tryWrite_keep (s : State) (path : Path) (via : Via) (a : ℕ) (data : W32)
    (hk : Fit qq s) :
    Fit qq (State.tryWrite s path via a data).1 := by
  unfold State.tryWrite
  repeat' (first | with_reducible assumption | with_reducible apply blockWrite_keep | split | dsimp only)

theorem regWrite_keep (s : State) (path : Path) (via : Via) (a : ℕ) (data : W32)
    (hk : Fit qq s) :
    Fit qq (State.regWrite s path via a data).1 := by
  unfold State.regWrite
  repeat' (first | with_reducible assumption | with_reducible apply tryWrite_keep | with_reducible apply reload_keep
                 | with_reducible apply dropWrite_keep | split | dsimp only)

theorem execLgTxcfgWrite_keep (via : Path) (st : ℕ) (g : ℕ) (data : W32) (s : State)
    (hk : Fit qq s) :
    FitO qq (execLgTxcfgWrite via st g data s) := by
  unfold execLgTxcfgWrite
  repeat' (first | with_reducible assumption | with_reducible apply next_keep | with_reducible apply act_keep
                 | with_reducible apply wroteReg_keep | with_reducible apply txcfgWrite_keep | intro _ | dsimp only)

theorem execLgCalcfgForce_keep (via : Path) (st : ℕ) (data : W32) (s : State)
    (hk : Fit qq s) :
    FitO qq (execLgCalcfgForce via st data s) := by
  unfold execLgCalcfgForce
  repeat' (first | with_reducible assumption | with_reducible apply next_keep | with_reducible apply act_keep
                 | with_reducible apply wroteReg_keep | with_reducible apply calcfgWrite_keep | intro _ | dsimp only)

theorem execBaseCrallocWrite_keep (via : Path) (st : ℕ) (w : ℕ) (vc : ℕ) (data : W32) (s : State)
    (hk : Fit qq s) :
    FitO qq (execBaseCrallocWrite via st w vc data s) := by
  unfold execBaseCrallocWrite
  repeat' (first | with_reducible assumption | with_reducible apply next_keep | with_reducible apply act_keep
                 | with_reducible apply wroteReg_keep | with_reducible apply crallocWrite_keep | intro _ | dsimp only)

theorem execKdSplitWrite_keep (n : ℕ) (data : W32) (s : State)
    (hk : Fit qq s) :
    FitO qq (execKdSplitWrite n data s) := by
  unfold execKdSplitWrite
  repeat' (first | with_reducible assumption | with_reducible apply next_keep | with_reducible apply act_keep
                 | with_reducible apply wroteReg_keep | with_reducible apply kdApply_keep
                 | with_reducible apply unpost_keep | intro _ | dsimp only)

theorem execKdRemapWrite_keep (n : ℕ) (i : ℕ) (data : W32) (s : State)
    (hk : Fit qq s) :
    FitO qq (execKdRemapWrite n i data s) := by
  unfold execKdRemapWrite
  repeat' (first | with_reducible assumption | with_reducible apply next_keep | with_reducible apply act_keep
                 | with_reducible apply wroteReg_keep | with_reducible apply kdApply_keep
                 | with_reducible apply unpost_keep | intro _ | dsimp only)

theorem execPortCfgWrite_keep (p : ℕ) (data : W32) (s : State)
    (hk : Fit qq s) :
    FitO qq (execPortCfgWrite p data s) := by
  unfold execPortCfgWrite
  repeat' (first | with_reducible assumption | with_reducible apply next_keep | with_reducible apply act_keep
                 | with_reducible apply wroteReg_keep | with_reducible apply portCfg_keep
                 | with_reducible apply unpost_keep | intro _ | dsimp only)

theorem execCoreRngseedWrite_keep (via : Path) (core : ℕ) (data : W32) (s : State)
    (hk : Fit qq s) :
    FitO qq (execCoreRngseedWrite via core data s) := by
  unfold execCoreRngseedWrite
  repeat' (first | with_reducible assumption | with_reducible apply next_keep | with_reducible apply act_keep
                 | with_reducible apply wroteReg_keep | with_reducible apply rngseed_keep | intro _ | dsimp only)

theorem execCmdRingciWrite_keep (via : Path) (r : ℕ) (data : W32) (s : State)
    (hk : Fit qq s) :
    FitO qq (execCmdRingciWrite via r data s) := by
  unfold execCmdRingciWrite
  repeat' (first | with_reducible assumption | with_reducible apply next_keep | with_reducible apply act_keep
                 | with_reducible apply dropWrite_keep | with_reducible apply wroteReg_keep
                 | with_reducible apply ringci_keep | split | intro _ | dsimp only)

theorem noticePath_keep (s : State) (via : Path) (r : ℕ) (data : W32)
    (hk : Fit qq s) :
    Fit qq (State.noticePath s via r data) := by
  unfold State.noticePath
  repeat' (first | with_reducible assumption | with_reducible apply dropWrite_keep | with_reducible apply wroteReg_keep
                 | with_reducible apply noticeWrite_keep | split | dsimp only)

theorem execNoticeEoi_keep (via : Path) (data : W32) (s : State)
    (hk : Fit qq s) :
    FitO qq (execNoticeEoi via data s) := by
  unfold execNoticeEoi
  repeat' (first | with_reducible assumption | with_reducible apply next_keep | with_reducible apply noticePath_keep
                 | dsimp only)

theorem execNoticeMaskSet_keep (via : Path) (i : ℕ) (data : W32) (s : State)
    (hk : Fit qq s) :
    FitO qq (execNoticeMaskSet via i data s) := by
  unfold execNoticeMaskSet
  repeat' (first | with_reducible assumption | with_reducible apply next_keep | with_reducible apply act_keep
                 | with_reducible apply noticePath_keep | intro _ | dsimp only)

theorem execNoticeMaskClr_keep (via : Path) (i : ℕ) (data : W32) (s : State)
    (hk : Fit qq s) :
    FitO qq (execNoticeMaskClr via i data s) := by
  unfold execNoticeMaskClr
  repeat' (first | with_reducible assumption | with_reducible apply next_keep | with_reducible apply act_keep
                 | with_reducible apply noticePath_keep | intro _ | dsimp only)

theorem execNoticePendSet_keep (via : Path) (i : ℕ) (data : W32) (s : State)
    (hk : Fit qq s) :
    FitO qq (execNoticePendSet via i data s) := by
  unfold execNoticePendSet
  repeat' (first | with_reducible assumption | with_reducible apply next_keep | with_reducible apply act_keep
                 | with_reducible apply noticePath_keep | intro _ | dsimp only)

theorem execNoticePendClr_keep (via : Path) (i : ℕ) (data : W32) (s : State)
    (hk : Fit qq s) :
    FitO qq (execNoticePendClr via i data s) := by
  unfold execNoticePendClr
  repeat' (first | with_reducible assumption | with_reducible apply next_keep | with_reducible apply act_keep
                 | with_reducible apply noticePath_keep | intro _ | dsimp only)

theorem execTestEnWrite_keep (via : Path) (data : W32) (s : State)
    (hk : Fit qq s) :
    FitO qq (execTestEnWrite via data s) := by
  unfold execTestEnWrite
  repeat' (first | with_reducible assumption | with_reducible apply next_keep | with_reducible apply wroteReg_keep
                 | with_reducible apply testEn_keep | dsimp only)

theorem execPostedWriteApply_keep (u : SlowUnit) (s : State)
    (hk : Fit qq s) :
    FitO qq (execPostedWriteApply u s) := by
  unfold execPostedWriteApply
  repeat' (first | with_reducible assumption | with_reducible apply next_keep | with_reducible apply act_keep
                 | with_reducible apply applyPosted_keep | intro _ | dsimp only)

end Sys2Proof.Machine
end

