-- ==== Sys2Proof/Laws/KeepClocks.lean ====
section
/-! SUPPORT. The operations and meanings of Machine/Clocks leave the queue alone and keep the memory's one form. -/

namespace Sys2Proof.Machine

set_option linter.unreachableTactic false
set_option linter.unusedTactic false
set_option linter.unusedSimpArgs false

variable {qq : List Instr}

theorem execFrequencyChoice_keep (region : ℕ) (best : ℕ) (s : State)
    (hk : Fit qq s) :
    FitO qq (execFrequencyChoice region best s) := by
  unfold execFrequencyChoice
  repeat' (first | with_reducible assumption | with_reducible apply next_keep | with_reducible apply act_keep
                 | with_reducible apply stopRegion_keep | split | intro _ | dsimp only)

theorem execFrequencyRestart_keep (region : ℕ) (s : State)
    (hk : Fit qq s) :
    FitO qq (execFrequencyRestart region s) := by
  unfold execFrequencyRestart
  repeat' (first | with_reducible assumption | with_reducible apply next_keep | with_reducible apply act_keep
                 | with_reducible apply modRegion_keep | intro _ | dsimp only)

theorem execClkFault_keep (region : ℕ) (why : ClkCause) (s : State)
    (hk : Fit qq s) :
    FitO qq (execClkFault region why s) := by
  unfold execClkFault
  repeat' (first | with_reducible assumption | with_reducible apply next_keep | with_reducible apply act_keep
                 | with_reducible apply sense_keep | with_reducible apply modRegion_keep
                 | with_reducible apply stopRegion_keep | with_reducible apply draw_keep | split | intro _ | dsimp only)

theorem execPllRelock_keep (region : ℕ) (s : State)
    (hk : Fit qq s) :
    FitO qq (execPllRelock region s) := by
  unfold execPllRelock
  repeat' (first | with_reducible assumption | with_reducible apply next_keep | with_reducible apply act_keep
                 | with_reducible apply sense_keep | with_reducible apply modRegion_keep | intro _ | dsimp only)

theorem execJitterWithinLimit_keep (region : ℕ) (s : State)
    (hk : Fit qq s) :
    FitO qq (execJitterWithinLimit region s) := by
  unfold execJitterWithinLimit
  repeat' (first | with_reducible assumption | with_reducible apply next_keep | with_reducible apply act_keep
                 | with_reducible apply sense_keep | with_reducible apply modRegion_keep | with_reducible apply draw_keep
                 | intro _ | dsimp only)

theorem dropCopies_keep (s : State) (d : ℕ)
    (hk : Fit qq s) :
    Fit qq (State.dropCopies s d) := by
  unfold State.dropCopies
  repeat' (first | with_reducible assumption | with_reducible apply foldl_keep | with_reducible apply foldl_keep1
                 | with_reducible apply foldl_keep2 | simp only [fit_mk] | with_reducible apply fitMem_of_fit | split
                 | intro _ | dsimp only)

theorem execSleepEnter_keep (u : SleepUnit) (s : State)
    (hk : Fit qq s) :
    FitO qq (execSleepEnter u s) := by
  unfold execSleepEnter
  repeat' (first | with_reducible assumption | with_reducible apply next_keep | with_reducible apply act_keep
                 | with_reducible apply modCore_keep | with_reducible apply each_keep
                 | with_reducible apply modRegion_keep | with_reducible apply dropCopies_keep
                 | with_reducible apply modDiePower_keep | with_reducible apply setTxState_keep
                 | with_reducible apply setPort_keep | split | intro _ | dsimp only)

theorem startWake_keep (s : State) (z1 : SleepUnit)
    (hk : Fit qq s) :
    Fit qq (State.startWake s z1) := by
  unfold State.startWake
  repeat' (first | with_reducible assumption | with_reducible apply modCore_keep | with_reducible apply modDiePower_keep
                 | with_reducible apply modTx_keep | with_reducible apply modPort_keep | split | dsimp only)

theorem execWake_keep (u : SleepUnit) (s : State)
    (hk : Fit qq s) :
    FitO qq (execWake u s) := by
  unfold execWake
  repeat' (first | with_reducible assumption | with_reducible apply next_keep | with_reducible apply act_keep
                 | with_reducible apply startWake_keep | intro _ | dsimp only)

theorem execWakeComplete_keep (u : SleepUnit) (s : State)
    (hk : Fit qq s) :
    FitO qq (execWakeComplete u s) := by
  unfold execWakeComplete
  repeat' (first | with_reducible assumption | with_reducible apply next_keep | with_reducible apply act_keep
                 | with_reducible apply modCore_keep | with_reducible apply each_keep
                 | with_reducible apply modRegion_keep | with_reducible apply modDiePower_keep
                 | with_reducible apply modTx_keep | with_reducible apply leaveService_keep
                 | with_reducible apply setTxState_keep | with_reducible apply setPort_keep | simp only [fit_mk]
                 | with_reducible apply fitMem_of_fit | split | intro _ | dsimp only)

theorem execSowAheadWake_keep (die : ℕ) (s : State)
    (hk : Fit qq s) :
    FitO qq (execSowAheadWake die s) := by
  unfold execSowAheadWake
  repeat' (first | with_reducible assumption | with_reducible apply next_keep | with_reducible apply act_keep
                 | with_reducible apply startWake_keep | intro _ | dsimp only)

theorem cutDie_keep (s : State) (d : Nat) (f : DiePower → DiePower)
    (hk : Fit qq s) :
    Fit qq (State.cutDie s d f) := by
  unfold State.cutDie
  repeat' (first | with_reducible assumption | with_reducible apply modDiePower_keep
                 | with_reducible apply spreadLevel_keep | simp only [fit_mk] | with_reducible apply fitMem_of_fit
                 | intro _ | dsimp only)

theorem powerCut_keep (s : State)
    (hk : Fit qq s) :
    Fit qq (State.powerCut s) := by
  unfold State.powerCut
  repeat' (first | with_reducible assumption | with_reducible apply raise_keep | with_reducible apply each_keep
                 | with_reducible apply cutDie_keep | simp only [fit_mk] | with_reducible apply fitMem_of_fit | split
                 | intro _ | dsimp only)

theorem execRailReading_keep (milliamps : List ℕ) (millivolts : List ℕ) (s : State)
    (hk : Fit qq s) :
    FitO qq (execRailReading milliamps millivolts s) := by
  unfold execRailReading
  repeat' (first | with_reducible assumption | with_reducible apply next_keep | with_reducible apply act_keep
                 | with_reducible apply each_keep | with_reducible apply sampled_keep
                 | with_reducible apply powerCut_keep | simp only [fit_mk] | with_reducible apply fitMem_of_fit | split
                 | intro _ | dsimp only)

theorem windowLevel_keep (s : State) (share : ℕ) (power : ℕ) (idle : ℕ) (issue : ℕ)
    (hk : Fit qq s) :
    Fit qq (State.windowLevel s share power idle issue).2 := by
  unfold State.windowLevel
  repeat' (first | with_reducible assumption | with_reducible apply draw_keep | split | dsimp only)

theorem governDie_keep (s : State) (d : ℕ) (share : ℕ) (power : ℕ) (idle : ℕ) (issue : ℕ)
    (hk : Fit qq s) :
    Fit qq (State.governDie s d share power idle issue) := by
  unfold State.governDie
  repeat' (first | with_reducible assumption | with_reducible apply windowLevel_keep
                 | with_reducible apply modDiePower_keep | split | dsimp only)

theorem localDie_keep (s : State) (d : ℕ) (power : ℕ) (idle : ℕ) (issue : ℕ)
    (hk : Fit qq s) :
    Fit qq (State.localDie s d power idle issue) := by
  unfold State.localDie
  repeat' (first | with_reducible assumption | with_reducible apply windowLevel_keep
                 | with_reducible apply modDiePower_keep | dsimp only)

theorem execPowerWindow_keep (others : ℕ) (power : List ℕ) (idle : List ℕ) (issue : List ℕ) (avg : ℕ) (s : State)
    (hk : Fit qq s) :
    FitO qq (execPowerWindow others power idle issue avg s) := by
  unfold execPowerWindow
  repeat' (first | with_reducible assumption | with_reducible apply next_keep | with_reducible apply act_keep
                 | with_reducible apply each_keep | with_reducible apply localDie_keep
                 | with_reducible apply governDie_keep | with_reducible apply spreadLevel_keep
                 | with_reducible apply modDiePower_keep | with_reducible apply raise_keep | simp only [fit_mk]
                 | with_reducible apply fitMem_of_fit | split | intro _ | dsimp only)

theorem execPowerFallback_keep (s : State)
    (hk : Fit qq s) :
    FitO qq (execPowerFallback s) := by
  unfold execPowerFallback
  repeat' (first | with_reducible assumption | with_reducible apply next_keep | with_reducible apply act_keep
                 | simp only [fit_mk] | with_reducible apply fitMem_of_fit | intro _ | dsimp only)

theorem throttleChange_keep (s : State) (loc : ThermLoc) (was : ℕ) (now : ℕ)
    (hk : Fit qq s) :
    Fit qq (State.throttleChange s loc was now) := by
  unfold State.throttleChange
  repeat' (first | with_reducible assumption | with_reducible apply each_keep | with_reducible apply cutDie_keep
                 | with_reducible apply modKd_keep | with_reducible apply spreadLevel_keep
                 | with_reducible apply modDiePower_keep | split | intro _ | dsimp only)

theorem bandChange_keep (s : State) (k : Nat) (band : Nat)
    (hk : Fit qq s) :
    Fit qq (State.bandChange s k band) := by
  unfold State.bandChange
  repeat' (first | with_reducible assumption | with_reducible apply each_keep | with_reducible apply rebase_keep
                 | with_reducible apply modRx_keep | with_reducible apply modTherm_keep | simp only [fit_mk]
                 | with_reducible apply fitMem_of_fit | intro _ | dsimp only)

theorem keepSensors_keep (s : State) (loc : ThermLoc) (readings : List Nat)
    (hk : Fit qq s) :
    Fit qq (State.keepSensors s loc readings) := by
  unfold State.keepSensors
  repeat' (first | with_reducible assumption | with_reducible apply each_keep | with_reducible apply sampled_keep
                 | simp only [fit_mk] | with_reducible apply fitMem_of_fit | split | intro _ | dsimp only)

theorem execTemperatureSample_keep (loc : ThermLoc) (readings : List Nat) (s : State)
    (hk : Fit qq s) :
    FitO qq (execTemperatureSample loc readings s) := by
  unfold execTemperatureSample
  repeat' (first | with_reducible assumption | with_reducible apply next_keep | with_reducible apply act_keep
                 | with_reducible apply foldl_keep | with_reducible apply keepSensors_keep
                 | with_reducible apply modTherm_keep | with_reducible apply throttleChange_keep
                 | with_reducible apply sense_keep | with_reducible apply bandChange_keep
                 | with_reducible apply modHbm_keep | simp only [fit_mk] | with_reducible apply fitMem_of_fit | split
                 | intro _ | dsimp only)

theorem execThermalThrottleStep_keep (loc : ThermLoc) (s : State)
    (hk : Fit qq s) :
    FitO qq (execThermalThrottleStep loc s) := by
  unfold execThermalThrottleStep
  repeat' (first | with_reducible assumption | with_reducible apply next_keep | with_reducible apply act_keep
                 | with_reducible apply modKd_keep | with_reducible apply each_keep | with_reducible apply cutDie_keep
                 | split | intro _ | dsimp only)

theorem execThermtripRelease_keep (s : State)
    (hk : Fit qq s) :
    FitO qq (execThermtripRelease s) := by
  unfold execThermtripRelease
  repeat' (first | with_reducible assumption | with_reducible apply next_keep | with_reducible apply act_keep
                 | with_reducible apply emit_keep | simp only [fit_mk] | with_reducible apply fitMem_of_fit | intro _
                 | dsimp only)

end Sys2Proof.Machine
end

