-- ==== Sys2Proof/Laws/KeepHosts.lean ====
section
/-! SUPPORT. The operations and meanings of Machine/Hosts leave the queue alone and keep the memory's one form. -/

namespace Sys2Proof.Machine

set_option linter.unreachableTactic false
set_option linter.unusedTactic false
set_option linter.unusedSimpArgs false

variable {qq : List Instr}

theorem execProxyTimeout_keep (s : State)
    (hk : Fit qq s) :
    FitO qq (execProxyTimeout s) := by
  unfold execProxyTimeout
  repeat' (first | with_reducible assumption | with_reducible apply next_keep | with_reducible apply act_keep
                 | with_reducible apply complete_keep | simp only [fit_mk] | with_reducible apply fitMem_of_fit | split
                 | intro _ | dsimp only)

theorem execRingSet_keep (o : Origin) (ring : ℕ) (log2 : ℕ) (peer : Bool) (ep : ℕ) (base : BitVec 44) (s : State)
    (hk : Fit qq s) :
    FitO qq (execRingSet o ring log2 peer ep base s) := by
  unfold execRingSet
  repeat' (first | with_reducible assumption | with_reducible apply next_keep | with_reducible apply command_keep
                 | with_reducible apply modCring_keep | split | intro _ | dsimp only)

theorem execHopperSet_keep (o : Origin) (h : ℕ) (ring : ℕ) (unbind : Bool) (first : BitVec 16) (s : State)
    (hk : Fit qq s) :
    FitO qq (execHopperSet o h ring unbind first s) := by
  unfold execHopperSet
  repeat' (first | with_reducible assumption | with_reducible apply next_keep | with_reducible apply command_keep
                 | with_reducible apply modHopper_keep | split | intro _ | dsimp only)

theorem execHopperClear_keep (o : Origin) (h : ℕ) (first : BitVec 16) (s : State)
    (hk : Fit qq s) :
    FitO qq (execHopperClear o h first s) := by
  unfold execHopperClear
  repeat' (first | with_reducible assumption | with_reducible apply next_keep | with_reducible apply command_keep
                 | with_reducible apply modHopper_keep | with_reducible apply each_keep
                 | with_reducible apply sendRecord_keep | intro _ | dsimp only)

theorem execCapRead_keep (o : Origin) (part : ℕ) (s : State)
    (hk : Fit qq s) :
    FitO qq (execCapRead o part s) := by
  unfold execCapRead
  repeat' (first | with_reducible assumption | with_reducible apply next_keep | with_reducible apply command_keep
                 | intro _ | dsimp only)

theorem execRegrd_keep (o : Origin) (addr : ℕ) (s : State)
    (hk : Fit qq s) :
    FitO qq (execRegrd o addr s) := by
  unfold execRegrd
  repeat' (first | with_reducible assumption | with_reducible apply next_keep | with_reducible apply regRead_keep
                 | with_reducible apply command_keep | intro _ | dsimp only)

theorem startJob_keep (s : State) (j : Job)
    (hk : Fit qq s) :
    Fit qq (State.startJob s j) := by
  unfold State.startJob
  repeat' (first | with_reducible assumption | with_reducible apply advanceJob_keep | simp only [fit_mk]
                 | with_reducible apply fitMem_of_fit | dsimp only)

theorem execMemCopy_keep (o : Origin) (src : W64) (dst : W64) (len : ℕ) (s : State)
    (hk : Fit qq s) :
    FitO qq (execMemCopy o src dst len s) := by
  unfold execMemCopy
  repeat' (first | with_reducible assumption | with_reducible apply next_keep | with_reducible apply commandLong_keep
                 | with_reducible apply startJob_keep | intro _ | dsimp only)

theorem execMemFill_keep (o : Origin) (addr : ℕ) (pattern : W64) (len : ℕ) (s : State)
    (hk : Fit qq s) :
    FitO qq (execMemFill o addr pattern len s) := by
  unfold execMemFill
  repeat' (first | with_reducible assumption | with_reducible apply next_keep | with_reducible apply commandLong_keep
                 | with_reducible apply startJob_keep | intro _ | dsimp only)

theorem execRmapBolt_keep (o : Origin) (st : ℕ) (s : State)
    (hk : Fit qq s) :
    FitO qq (execRmapBolt o st s) := by
  unfold execRmapBolt
  repeat' (first | with_reducible assumption | with_reducible apply next_keep | with_reducible apply command_keep
                 | with_reducible apply each_keep | with_reducible apply modSta_keep | split | intro _ | dsimp only)

theorem toRing_keep (s : State) (c : CmdRing) (op : ℕ) (laddr : ℕ) (payload : List Byte)
    (hk : Fit qq s) :
    Fit qq (State.toRing s c op laddr payload).2 := by
  unfold State.toRing
  repeat' (first | with_reducible assumption | with_reducible apply toPort_keep | with_reducible apply depart_keep
                 | simp only [fit_mk] | with_reducible apply fitMem_of_fit | split | dsimp only)

theorem execCompletion_keep (ring : ℕ) (s : State)
    (hk : Fit qq s) :
    FitO qq (execCompletion ring s) := by
  unfold execCompletion
  repeat' (first | with_reducible assumption | with_reducible apply next_keep | with_reducible apply act_keep
                 | with_reducible apply toRing_keep | with_reducible apply sense_keep
                 | with_reducible apply modCring_keep | simp only [fit_mk] | with_reducible apply fitMem_of_fit | split
                 | intro _ | dsimp only)

theorem sendNotice_keep (s : State) (src : ℕ) (ft : W64)
    (hk : Fit qq s) :
    Fit qq (State.sendNotice s src ft).2 := by
  unfold State.sendNotice
  repeat' (first | with_reducible assumption | with_reducible apply toRing_keep | dsimp only)

theorem delivered_keep (s : State) (src : ℕ) (ft : W64)
    (hk : Fit qq s) :
    Fit qq (State.delivered s src ft) := by
  unfold State.delivered
  repeat' (first | with_reducible assumption | simp only [fit_mk] | with_reducible apply fitMem_of_fit | dsimp only)

theorem execNotice_keep (s : State) (hk : Fit qq s) : FitO qq (execNotice s) := by
  unfold execNotice
  generalize s.firstNotice = o
  cases o with
  | none => exact next_keep hk
  | some src =>
    refine act_keep _ hk fun s h => ?_
    dsimp only
    repeat' (first | with_reducible assumption | with_reducible apply delivered_keep
                   | with_reducible apply sendNotice_keep | split)

theorem execNoticeRedeliver_keep (src : ℕ) (s : State)
    (hk : Fit qq s) :
    FitO qq (execNoticeRedeliver src s) := by
  unfold execNoticeRedeliver
  repeat' (first | with_reducible assumption | with_reducible apply next_keep | with_reducible apply act_keep
                 | with_reducible apply sendNotice_keep | simp only [fit_mk] | with_reducible apply fitMem_of_fit | split
                 | intro _ | dsimp only)

end Sys2Proof.Machine
end

