-- ==== Sys2Proof/Laws/KeepMatrix.lean ====
section
/-! SUPPORT. The operations and meanings of Machine/Matrix leave the queue alone and keep the memory's one form. -/

namespace Sys2Proof.Machine

set_option linter.unreachableTactic false
set_option linter.unusedTactic false
set_option linter.unusedSimpArgs false

variable {qq : List Instr}

theorem beginAt_keep (s : State) (c : ℕ) (e : ℕ) (i : ℕ) (q : QDesc)
    (hk : Fit qq s) :
    Fit qq (State.beginAt s c e i q) := by
  unfold State.beginAt
  repeat' (first | with_reducible assumption | with_reducible apply modEng_keep | with_reducible apply takeTokens_keep
                 | dsimp only)

theorem setResult_keep (s : State) (c : ℕ) (e : ℕ) (i : ℕ) (st : Status)
    (hk : Fit qq s) :
    Fit qq (State.setResult s c e i st) := by
  unfold State.setResult
  repeat' (first | with_reducible assumption | with_reducible apply modEng_keep | dsimp only)

theorem runHead_keep {s : State} (ok : Bool) (c e op : Nat) {run : QDesc → State → State × Status} (hk : Fit qq s)
    (hr : ∀ (q : QDesc) (s : State), Fit qq s → Fit qq (run q s).1) : FitO qq (s.runHead ok c e op run) := by
  unfold State.runHead
  split
  · exact next_keep hk
  · exact act_keep _ hk fun s h => setResult_keep _ _ _ _ _ (hr _ _ (beginAt_keep _ _ _ _ _ h))

theorem drewFrom_keep (s : State) (c : ℕ) (e : ℕ) (n : ℕ)
    (hk : Fit qq s) :
    Fit qq (State.drewFrom s c e n) := by
  unfold State.drewFrom
  repeat' (first | with_reducible assumption | with_reducible apply modEng_keep | simp only [fit_mk]
                 | with_reducible apply fitMem_of_fit | split | dsimp only)

theorem countDesc_keep (s : State) (c : ℕ) (poisoned : Bool) (n : Count) (iovf : Bool)
    (hk : Fit qq s) :
    Fit qq (State.countDesc s c poisoned n iovf) := by
  unfold State.countDesc
  repeat' (first | with_reducible assumption | with_reducible apply modCore_keep | with_reducible apply when_keep
                 | with_reducible apply raise_keep | split | intro _ | dsimp only)

theorem engWrite_keep (s : State) (c : ℕ) (off : ℕ) (l : List Byte) (poisoned : Bool)
    (hk : Fit qq s) :
    Fit qq (State.engWrite s c off l poisoned) := by
  unfold State.engWrite
  repeat' (first | with_reducible assumption | with_reducible apply spWrite_keep | simp only [fit_mk]
                 | with_reducible apply fitMem_of_fit | split | dsimp only)

theorem runLoadw_keep (c : ℕ) (e : ℕ) (q : QDesc) (s : State)
    (hk : Fit qq s) :
    Fit qq (runLoadw c e q s).1 := by
  unfold runLoadw
  repeat' (first | with_reducible assumption | with_reducible apply countDesc_keep | with_reducible apply modEng_keep
                 | dsimp only)

theorem execLoadw_keep (core : ℕ) (eng : ℕ) (s : State)
    (hk : Fit qq s) :
    FitO qq (execLoadw core eng s) := by
  unfold execLoadw
  repeat' (first | with_reducible assumption | with_reducible apply next_keep | with_reducible apply runHead_keep
                 | with_reducible apply runLoadw_keep | intro _ | dsimp only)

theorem matmulRow_keep (c e : Nat) (q : QDesc) (y : State × Count × Bool) (i : Nat) (hk : Fit qq y.1) :
    Fit qq (State.matmulRow c e q y i).1 := by
  unfold State.matmulRow
  repeat' (first | with_reducible assumption | with_reducible apply modEng_keep | simp only [fit_mk]
                 | with_reducible apply fitMem_of_fit | split | dsimp only)

theorem matmulRows_keep (s : State) (c e : Nat) (q : QDesc) (hk : Fit qq s) : Fit qq (s.matmulRows c e q).1 :=
  foldl_keep1 _ hk fun i y h => matmulRow_keep c e q y i h

theorem conflict_keep (s : State) (c : ℕ) (e : ℕ) (q : QDesc)
    (hk : Fit qq s) :
    Fit qq (State.conflict s c e q).1 := by
  unfold State.conflict
  repeat' (first | with_reducible assumption | with_reducible apply seqRecord_keep | dsimp only)

theorem runMatmul_keep (c : ℕ) (e : ℕ) (q : QDesc) (s : State)
    (hk : Fit qq s) :
    Fit qq (runMatmul c e q s).1 := by
  unfold runMatmul
  repeat' (first | with_reducible assumption | with_reducible apply modEng_keep | with_reducible apply conflict_keep
                 | with_reducible apply matmulRows_keep | with_reducible apply countDesc_keep | split | dsimp only)

theorem execMatmul_keep (core : ℕ) (eng : ℕ) (s : State)
    (hk : Fit qq s) :
    FitO qq (execMatmul core eng s) := by
  unfold execMatmul
  repeat' (first | with_reducible assumption | with_reducible apply next_keep | with_reducible apply runHead_keep
                 | with_reducible apply runMatmul_keep | intro _ | dsimp only)

theorem drewIf_keep (s : State) (c : ℕ) (e : ℕ) (rnd : ℕ) (n : ℕ)
    (hk : Fit qq s) :
    Fit qq (State.drewIf s c e rnd n) := by
  unfold State.drewIf
  repeat' (first | with_reducible assumption | with_reducible apply drewFrom_keep | split | dsimp only)

theorem epiRowOut_keep (s : State) (c : ℕ) (e : ℕ) (q : QDesc) (poisoned : Bool) (n : Count) (r : ℕ)
    (hk : Fit qq s) :
    Fit qq (State.epiRowOut s c e q poisoned n r).1 := by
  unfold State.epiRowOut
  repeat' (first | with_reducible assumption | with_reducible apply engWrite_keep | with_reducible apply drewIf_keep
                 | split | dsimp only)

theorem runEpi_keep (c : ℕ) (e : ℕ) (q : QDesc) (s : State)
    (hk : Fit qq s) :
    Fit qq (runEpi c e q s).1 := by
  unfold runEpi
  repeat' (first | with_reducible assumption | with_reducible apply conflict_keep | with_reducible apply epiRowOut_keep
                 | with_reducible apply modEng_keep | with_reducible apply countDesc_keep
                 | with_reducible apply foldl_keep | with_reducible apply foldl_keep1 | with_reducible apply foldl_keep2
                 | split | intro _ | dsimp only)

theorem execEpi_keep (core : ℕ) (eng : ℕ) (s : State)
    (hk : Fit qq s) :
    FitO qq (execEpi core eng s) := by
  unfold execEpi
  repeat' (first | with_reducible assumption | with_reducible apply next_keep | with_reducible apply runHead_keep
                 | with_reducible apply runEpi_keep | intro _ | dsimp only)

end Sys2Proof.Machine
end

