-- ==== Sys2Proof/Laws/KeepVector.lean ====
section
/-! SUPPORT. The operations and meanings of Machine/Vector leave the queue alone and keep the memory's one form. -/

namespace Sys2Proof.Machine

set_option linter.unreachableTactic false
set_option linter.unusedTactic false
set_option linter.unusedSimpArgs false

variable {qq : List Instr}

theorem vecWrite_keep (s : State) (c : ℕ) (e : ℕ) (q : QDesc) (fromInt : Bool) (poisoned : Bool) (rows : VOut)
    (hk : Fit qq s) :
    Fit qq (State.vecWrite s c e q fromInt poisoned rows) := by
  unfold State.vecWrite
  repeat' (first | with_reducible assumption | with_reducible apply countDesc_keep | with_reducible apply engWrite_keep
                 | with_reducible apply drewIf_keep | split | dsimp only)

theorem runBinary_keep (f : FVal → FVal → FVal) (c : ℕ) (e : ℕ) (q : QDesc) (s : State)
    (hk : Fit qq s) :
    Fit qq (runBinary f c e q s).1 := by
  unfold runBinary
  repeat' (first | with_reducible assumption | with_reducible apply vecWrite_keep | dsimp only)

theorem runVfma_keep (c : ℕ) (e : ℕ) (q : QDesc) (s : State)
    (hk : Fit qq s) :
    Fit qq (runVfma c e q s).1 := by
  unfold runVfma
  repeat' (first | with_reducible assumption | with_reducible apply vecWrite_keep | dsimp only)

theorem runVec_keep {s : State} (c e op : Nat) {run : QDesc → State → State × Status} (hk : Fit qq s)
    (hr : ∀ (q : QDesc) (s : State), Fit qq s → Fit qq (run q s).1) : FitO qq (s.runVec c e op run) :=
  runHead_keep _ _ _ _ hk hr

theorem execVadd_keep (core : ℕ) (eng : ℕ) (s : State)
    (hk : Fit qq s) :
    FitO qq (execVadd core eng s) := by
  unfold execVadd
  repeat' (first | with_reducible assumption | with_reducible apply next_keep | with_reducible apply runVec_keep
                 | with_reducible apply runBinary_keep | intro _ | dsimp only)

theorem execVsub_keep (core : ℕ) (eng : ℕ) (s : State)
    (hk : Fit qq s) :
    FitO qq (execVsub core eng s) := by
  unfold execVsub
  repeat' (first | with_reducible assumption | with_reducible apply next_keep | with_reducible apply runVec_keep
                 | with_reducible apply runBinary_keep | intro _ | dsimp only)

theorem execVmul_keep (core : ℕ) (eng : ℕ) (s : State)
    (hk : Fit qq s) :
    FitO qq (execVmul core eng s) := by
  unfold execVmul
  repeat' (first | with_reducible assumption | with_reducible apply next_keep | with_reducible apply runVec_keep
                 | with_reducible apply runBinary_keep | intro _ | dsimp only)

theorem execVfma_keep (core : ℕ) (eng : ℕ) (s : State)
    (hk : Fit qq s) :
    FitO qq (execVfma core eng s) := by
  unfold execVfma
  repeat' (first | with_reducible assumption | with_reducible apply next_keep | with_reducible apply runVec_keep
                 | with_reducible apply runVfma_keep | intro _ | dsimp only)

theorem execVmax_keep (core : ℕ) (eng : ℕ) (s : State)
    (hk : Fit qq s) :
    FitO qq (execVmax core eng s) := by
  unfold execVmax
  repeat' (first | with_reducible assumption | with_reducible apply next_keep | with_reducible apply runVec_keep
                 | with_reducible apply runBinary_keep | intro _ | dsimp only)

theorem execVmin_keep (core : ℕ) (eng : ℕ) (s : State)
    (hk : Fit qq s) :
    FitO qq (execVmin core eng s) := by
  unfold execVmin
  repeat' (first | with_reducible assumption | with_reducible apply next_keep | with_reducible apply runVec_keep
                 | with_reducible apply runBinary_keep | intro _ | dsimp only)

theorem runVcvt_keep (c : ℕ) (e : ℕ) (q : QDesc) (s : State)
    (hk : Fit qq s) :
    Fit qq (runVcvt c e q s).1 := by
  unfold runVcvt
  repeat' (first | with_reducible assumption | with_reducible apply vecWrite_keep | dsimp only)

theorem execVcvt_keep (core : ℕ) (eng : ℕ) (s : State)
    (hk : Fit qq s) :
    FitO qq (execVcvt core eng s) := by
  unfold execVcvt
  repeat' (first | with_reducible assumption | with_reducible apply next_keep | with_reducible apply runVec_keep
                 | with_reducible apply runVcvt_keep | intro _ | dsimp only)

theorem runFn_keep (f : Fn) (c : ℕ) (e : ℕ) (q : QDesc) (s : State)
    (hk : Fit qq s) :
    Fit qq (runFn f c e q s).1 := by
  unfold runFn
  repeat' (first | with_reducible assumption | with_reducible apply vecWrite_keep | simp only [fit_mk]
                 | with_reducible apply fitMem_of_fit | dsimp only)

theorem execVexp2_keep (core : ℕ) (eng : ℕ) (s : State)
    (hk : Fit qq s) :
    FitO qq (execVexp2 core eng s) := by
  unfold execVexp2
  repeat' (first | with_reducible assumption | with_reducible apply next_keep | with_reducible apply runVec_keep
                 | with_reducible apply runFn_keep | intro _ | dsimp only)

theorem execVlog2_keep (core : ℕ) (eng : ℕ) (s : State)
    (hk : Fit qq s) :
    FitO qq (execVlog2 core eng s) := by
  unfold execVlog2
  repeat' (first | with_reducible assumption | with_reducible apply next_keep | with_reducible apply runVec_keep
                 | with_reducible apply runFn_keep | intro _ | dsimp only)

theorem execVrcp_keep (core : ℕ) (eng : ℕ) (s : State)
    (hk : Fit qq s) :
    FitO qq (execVrcp core eng s) := by
  unfold execVrcp
  repeat' (first | with_reducible assumption | with_reducible apply next_keep | with_reducible apply runVec_keep
                 | with_reducible apply runFn_keep | intro _ | dsimp only)

theorem execVrsqrt_keep (core : ℕ) (eng : ℕ) (s : State)
    (hk : Fit qq s) :
    FitO qq (execVrsqrt core eng s) := by
  unfold execVrsqrt
  repeat' (first | with_reducible assumption | with_reducible apply next_keep | with_reducible apply runVec_keep
                 | with_reducible apply runFn_keep | intro _ | dsimp only)

theorem execVtanh_keep (core : ℕ) (eng : ℕ) (s : State)
    (hk : Fit qq s) :
    FitO qq (execVtanh core eng s) := by
  unfold execVtanh
  repeat' (first | with_reducible assumption | with_reducible apply next_keep | with_reducible apply runVec_keep
                 | with_reducible apply runFn_keep | intro _ | dsimp only)

theorem execVerf_keep (core : ℕ) (eng : ℕ) (s : State)
    (hk : Fit qq s) :
    FitO qq (execVerf core eng s) := by
  unfold execVerf
  repeat' (first | with_reducible assumption | with_reducible apply next_keep | with_reducible apply runVec_keep
                 | with_reducible apply runFn_keep | intro _ | dsimp only)

theorem setML_keep (s : State) (c : ℕ) (q : QDesc) (poisoned : Bool) (l : List (FVal × FVal))
    (hk : Fit qq s) :
    Fit qq (State.setML s c q poisoned l) := by
  unfold State.setML
  repeat' (first | with_reducible assumption | with_reducible apply engWrite_keep | dsimp only)

theorem runVsmax_keep (c : ℕ) (e : ℕ) (q : QDesc) (s : State)
    (hk : Fit qq s) :
    Fit qq (runVsmax c e q s).1 := by
  unfold runVsmax
  repeat' (first | with_reducible assumption | with_reducible apply vecWrite_keep | with_reducible apply setML_keep
                 | with_reducible apply foldl_keep | with_reducible apply foldl_keep1 | with_reducible apply foldl_keep2
                 | simp only [fit_mk] | with_reducible apply fitMem_of_fit | intro _ | dsimp only)

theorem execVsmax_keep (core : ℕ) (eng : ℕ) (s : State)
    (hk : Fit qq s) :
    FitO qq (execVsmax core eng s) := by
  unfold execVsmax
  repeat' (first | with_reducible assumption | with_reducible apply next_keep | with_reducible apply runVec_keep
                 | with_reducible apply runVsmax_keep | intro _ | dsimp only)

theorem runVsexp_keep (c : ℕ) (e : ℕ) (q : QDesc) (s : State)
    (hk : Fit qq s) :
    Fit qq (runVsexp c e q s).1 := by
  unfold runVsexp
  repeat' (first | with_reducible assumption | with_reducible apply vecWrite_keep | with_reducible apply setML_keep
                 | simp only [fit_mk] | with_reducible apply fitMem_of_fit | dsimp only)

theorem execVsexp_keep (core : ℕ) (eng : ℕ) (s : State)
    (hk : Fit qq s) :
    FitO qq (execVsexp core eng s) := by
  unfold execVsexp
  repeat' (first | with_reducible assumption | with_reducible apply next_keep | with_reducible apply runVec_keep
                 | with_reducible apply runVsexp_keep | intro _ | dsimp only)

theorem runVrow_keep (c : ℕ) (e : ℕ) (q : QDesc) (s : State)
    (hk : Fit qq s) :
    Fit qq (runVrow c e q s).1 := by
  unfold runVrow
  repeat' (first | with_reducible assumption | with_reducible apply vecWrite_keep | split | dsimp only)

theorem execVrow_keep (core : ℕ) (eng : ℕ) (s : State)
    (hk : Fit qq s) :
    FitO qq (execVrow core eng s) := by
  unfold execVrow
  repeat' (first | with_reducible assumption | with_reducible apply next_keep | with_reducible apply runVec_keep
                 | with_reducible apply runVrow_keep | intro _ | dsimp only)

theorem runVnorm_keep (c : Nat) (e : Nat) (q : QDesc) (s : State)
    (hk : Fit qq s) :
    Fit qq (runVnorm c e q s).1 := by
  unfold runVnorm
  repeat' (first | with_reducible assumption | with_reducible apply vecWrite_keep | simp only [fit_mk]
                 | with_reducible apply fitMem_of_fit | intro _ | dsimp only)

theorem execVnorm_keep (core : ℕ) (eng : ℕ) (s : State)
    (hk : Fit qq s) :
    FitO qq (execVnorm core eng s) := by
  unfold execVnorm
  repeat' (first | with_reducible assumption | with_reducible apply next_keep | with_reducible apply runVec_keep
                 | with_reducible apply runVnorm_keep | intro _ | dsimp only)

theorem runVtopk_keep (c : ℕ) (_e : ℕ) (q : QDesc) (s : State)
    (hk : Fit qq s) :
    Fit qq (runVtopk c _e q s).1 := by
  unfold runVtopk
  repeat' (first | with_reducible assumption | with_reducible apply engWrite_keep | with_reducible apply countDesc_keep
                 | dsimp only)

theorem execVtopk_keep (core : ℕ) (eng : ℕ) (s : State)
    (hk : Fit qq s) :
    FitO qq (execVtopk core eng s) := by
  unfold execVtopk
  repeat' (first | with_reducible assumption | with_reducible apply next_keep | with_reducible apply runVec_keep
                 | with_reducible apply runVtopk_keep | intro _ | dsimp only)

theorem runVgather_keep (c : Nat) (_e : Nat) (q : QDesc) (s : State)
    (hk : Fit qq s) :
    Fit qq (runVgather c _e q s).1 := by
  unfold runVgather
  repeat' (first | with_reducible assumption | with_reducible apply engWrite_keep | with_reducible apply each_keep
                 | with_reducible apply setPoison_keep | with_reducible apply countDesc_keep | split | intro _
                 | dsimp only)

theorem execVgather_keep (core : ℕ) (eng : ℕ) (s : State)
    (hk : Fit qq s) :
    FitO qq (execVgather core eng s) := by
  unfold execVgather
  repeat' (first | with_reducible assumption | with_reducible apply next_keep | with_reducible apply runVec_keep
                 | with_reducible apply runVgather_keep | intro _ | dsimp only)

theorem runVscatter_keep (c : ℕ) (_e : ℕ) (q : QDesc) (s : State)
    (hk : Fit qq s) :
    Fit qq (runVscatter c _e q s).1 := by
  unfold runVscatter
  repeat' (first | with_reducible assumption | with_reducible apply each_keep | with_reducible apply engWrite_keep
                 | with_reducible apply countDesc_keep | simp only [fit_mk] | with_reducible apply fitMem_of_fit
                 | intro _ | dsimp only)

theorem execVscatter_keep (core : ℕ) (eng : ℕ) (s : State)
    (hk : Fit qq s) :
    FitO qq (execVscatter core eng s) := by
  unfold execVscatter
  repeat' (first | with_reducible assumption | with_reducible apply next_keep | with_reducible apply runVec_keep
                 | with_reducible apply runVscatter_keep | intro _ | dsimp only)

end Sys2Proof.Machine
end

