-- ==== Sys2Proof/Laws/KeepTransfer.lean ====
section
/-! SUPPORT. The operations and meanings of Machine/Transfer leave the queue alone and keep the memory's one form. -/

namespace Sys2Proof.Machine

set_option linter.unreachableTactic false
set_option linter.unusedTactic false
set_option linter.unusedSimpArgs false

variable {qq : List Instr}

theorem modTe_keep (s : State) (c : ℕ) (f : QDesc → QDesc)
    (hk : Fit qq s) :
    Fit qq (State.modTe s c f) := by
  unfold State.modTe
  repeat' (first | with_reducible assumption | with_reducible apply modEng_keep | dsimp only)

theorem runTe_keep {s : State} (c op : Nat) {go : QDesc → State → State} (hk : Fit qq s)
    (hr : ∀ (q : QDesc) (s : State), Fit qq s → Fit qq (go q s)) : FitO qq (s.runTe c op go) := by
  unfold State.runTe
  split
  · exact next_keep hk
  · refine act_keep _ hk fun s h => hr _ _ ?_
    split
    · exact h
    · exact beginAt_keep _ _ _ _ _ h

theorem putBytes_keep (s : State) (c : ℕ) (x : ℕ) (m : Move) (data : List Byte) (poison : Bool)
    (hk : Fit qq s) :
    Fit qq (State.putBytes s c x m data poison) := by
  unfold State.putBytes
  repeat' (first | with_reducible assumption | with_reducible apply access_keep | dsimp only)

theorem movePacket_keep (s : State) (c : Nat) (x : Nat) (m : Move) (n : Nat)
    (hk : Fit qq s) :
    Fit qq (State.movePacket s c x m n) := by
  unfold State.movePacket
  repeat' (first | with_reducible assumption | with_reducible apply putBytes_keep | with_reducible apply access_keep
                 | simp only [fit_mk] | with_reducible apply fitMem_of_fit | split | dsimp only)

theorem moveOn_keep (c x : Nat) (m : Move) (total : Nat) : ∀ (k : Nat) (s : State), Fit qq s → Fit qq (State.moveOn c x m total k s)
  | 0, _, h => h
  | k + 1, s, h => by
    simp only [State.moveOn]
    repeat' (first | with_reducible assumption | (with_reducible apply moveOn_keep)
                    | with_reducible apply movePacket_keep | with_reducible apply modTe_keep | split | dsimp only)

theorem runCopy_keep (c : ℕ) (q : QDesc) (s : State)
    (hk : Fit qq s) :
    Fit qq (runCopy c q s) := by
  unfold runCopy
  repeat' (first | with_reducible assumption | with_reducible apply moveOn_keep | dsimp only)

theorem execCopy_keep (core : Nat) (bad : List (Nat × Nat)) (s : State)
    (hk : Fit qq s) :
    FitO qq (execCopy core bad s) := by
  unfold execCopy
  repeat' (first | with_reducible assumption | with_reducible apply next_keep | with_reducible apply runTe_keep
                 | with_reducible apply runCopy_keep | with_reducible apply ownBads_keep | intro _ | dsimp only)

theorem failPacket_keep (s : State) (r : Req) (st : Status)
    (hk : Fit qq s) :
    Fit qq (State.failPacket s r st) := by
  unfold State.failPacket
  repeat' (first | with_reducible assumption | with_reducible apply newOp_keep | with_reducible apply settle_keep
                 | dsimp only)

theorem mcastOn_keep (c : Nat) (q : QDesc) : ∀ (k : Nat) (s : State), Fit qq s → Fit qq (State.mcastOn c q k s)
  | 0, _, h => h
  | k + 1, s, h => by
    simp only [State.mcastOn]
    repeat' (first | with_reducible assumption | (with_reducible apply mcastOn_keep)
                    | with_reducible apply failPacket_keep | with_reducible apply movePacket_keep
                    | with_reducible apply modTe_keep | split | dsimp only)

theorem execMcastStore_keep (core : ℕ) (s : State)
    (hk : Fit qq s) :
    FitO qq (execMcastStore core s) := by
  unfold execMcastStore
  repeat' (first | with_reducible assumption | with_reducible apply next_keep | with_reducible apply runTe_keep
                 | with_reducible apply mcastOn_keep | intro _ | dsimp only)

theorem reduceOn_keep (c : Nat) (q : QDesc) : ∀ (k : Nat) (s : State), Fit qq s → Fit qq (State.reduceOn c q k s)
  | 0, _, h => h
  | k + 1, s, h => by
    simp only [State.reduceOn]
    repeat' (first | with_reducible assumption | (with_reducible apply reduceOn_keep)
                    | with_reducible apply failPacket_keep | with_reducible apply movePacket_keep
                    | with_reducible apply putBytes_keep | with_reducible apply modTe_keep | split | dsimp only)

theorem execReduceInto_keep (core : ℕ) (s : State)
    (hk : Fit qq s) :
    FitO qq (execReduceInto core s) := by
  unfold execReduceInto
  repeat' (first | with_reducible assumption | with_reducible apply next_keep | with_reducible apply runTe_keep
                 | with_reducible apply reduceOn_keep | intro _ | dsimp only)

theorem readEntry_keep (s : State) (c : Nat) (x : Nat) (a : Nat) (hint : Nat)
    (hk : Fit qq s) :
    Fit qq (State.readEntry s c x a hint) := by
  unfold State.readEntry
  repeat' (first | with_reducible assumption | with_reducible apply modTe_keep | with_reducible apply access_keep
                 | simp only [fit_mk] | with_reducible apply fitMem_of_fit | intro _ | dsimp only)

theorem pagesOn_keep (c : Nat) : ∀ (k : Nat) (s : State), Fit qq s → Fit qq (State.pagesOn c k s)
  | 0, _, h => h
  | k + 1, s, h => by
    simp only [State.pagesOn]
    repeat' (first | with_reducible assumption | (with_reducible apply pagesOn_keep) | with_reducible apply readEntry_keep
                    | with_reducible apply movePacket_keep | with_reducible apply modTe_keep | split | dsimp only)

theorem execGather_keep (core : Nat) (s : State)
    (hk : Fit qq s) :
    FitO qq (execGather core s) := by
  unfold execGather
  repeat' (first | with_reducible assumption | with_reducible apply next_keep | with_reducible apply runTe_keep
                 | with_reducible apply pagesOn_keep | intro _ | dsimp only)

theorem execScatter_keep (core : Nat) (s : State)
    (hk : Fit qq s) :
    FitO qq (execScatter core s) := by
  unfold execScatter
  repeat' (first | with_reducible assumption | with_reducible apply next_keep | with_reducible apply runTe_keep
                 | with_reducible apply pagesOn_keep | intro _ | dsimp only)

theorem flushOn_keep (c : Nat) (q : QDesc) : ∀ (k : Nat) (s : State), Fit qq s → Fit qq (State.flushOn c q k s)
  | 0, _, h => h
  | k + 1, s, h => by
    simp only [State.flushOn]
    repeat' (first | with_reducible assumption | (with_reducible apply flushOn_keep)
                    | with_reducible apply writeBackLine_keep | with_reducible apply modKd_keep
                    | with_reducible apply modTe_keep | split | dsimp only)

theorem execKdFlush_keep (core : ℕ) (s : State)
    (hk : Fit qq s) :
    FitO qq (execKdFlush core s) := by
  unfold execKdFlush
  repeat' (first | with_reducible assumption | with_reducible apply next_keep | with_reducible apply runTe_keep
                 | with_reducible apply setResult_keep | with_reducible apply flushOn_keep | split | intro _ | dsimp only)

theorem execKdInvalidate_keep (core : ℕ) (s : State)
    (hk : Fit qq s) :
    FitO qq (execKdInvalidate core s) := by
  unfold execKdInvalidate
  repeat' (first | with_reducible assumption | with_reducible apply next_keep | with_reducible apply runTe_keep
                 | with_reducible apply setResult_keep | with_reducible apply modKd_keep | split | intro _ | dsimp only)

theorem execTeFence_keep (core : ℕ) (s : State)
    (hk : Fit qq s) :
    FitO qq (execTeFence core s) := by
  unfold execTeFence
  repeat' (first | with_reducible assumption | with_reducible apply next_keep | with_reducible apply runTe_keep
                 | with_reducible apply startFence_keep | split | intro _ | dsimp only)

theorem execDescriptorComplete_keep (core : ℕ) (eng : ℕ) (s : State)
    (hk : Fit qq s) :
    FitO qq (execDescriptorComplete core eng s) := by
  unfold execDescriptorComplete
  repeat' (first | with_reducible assumption | with_reducible apply next_keep | with_reducible apply act_keep
                 | with_reducible apply dropFence_keep | with_reducible apply signal_keep
                 | with_reducible apply ctxWorst_keep | with_reducible apply modEng_keep | split | intro _ | dsimp only)

theorem execNop_keep (at' : NopAt) (s : State)
    (hk : Fit qq s) :
    FitO qq (execNop at' s) := by
  unfold execNop
  repeat' (first | with_reducible assumption | with_reducible apply next_keep | with_reducible apply issueOp_keep
                 | with_reducible apply runHead_keep | with_reducible apply command_keep | split | intro _ | dsimp only)

end Sys2Proof.Machine
end

