-- ==== Sys2Proof/Laws/KeepLinks.lean ====
section
/-! SUPPORT. The operations and meanings of Machine/Links leave the queue alone and keep the memory's one form. -/

namespace Sys2Proof.Machine

set_option linter.unreachableTactic false
set_option linter.unusedTactic false
set_option linter.unusedSimpArgs false

variable {qq : List Instr}

theorem writeArea_keep (s : State) (a : ℕ) (ok : Bool)
    (hk : Fit qq s) :
    Fit qq (State.writeArea s a ok) := by
  unfold State.writeArea
  repeat' (first | with_reducible assumption | with_reducible apply sense_keep | with_reducible apply modArea_keep
                 | with_reducible apply log_keep | simp only [fit_mk] | with_reducible apply fitMem_of_fit | split
                 | dsimp only)

theorem setBond_keep (s : State) (d : ℕ) (i : ℕ) (f : Bond → Bond)
    (hk : Fit qq s) :
    Fit qq (State.setBond s d i f) := by
  unfold State.setBond
  repeat' (first | with_reducible assumption | with_reducible apply capSense_keep | with_reducible apply modBond_keep
                 | dsimp only)

theorem execBondLinkTrain_keep (die : ℕ) (link : ℕ) (failing : List ℕ) (s : State)
    (hk : Fit qq s) :
    FitO qq (execBondLinkTrain die link failing s) := by
  unfold execBondLinkTrain
  repeat' (first | with_reducible assumption | with_reducible apply next_keep | with_reducible apply act_keep
                 | with_reducible apply markArea_keep | with_reducible apply setBond_keep | intro _ | dsimp only)

theorem execBondLinkTrainComplete_keep (die : ℕ) (link : ℕ) (s : State)
    (hk : Fit qq s) :
    FitO qq (execBondLinkTrainComplete die link s) := by
  unfold execBondLinkTrainComplete
  repeat' (first | with_reducible assumption | with_reducible apply next_keep | with_reducible apply act_keep
                 | with_reducible apply setBond_keep | intro _ | dsimp only)

theorem holdBond_keep (s : State) (d : ℕ) (i : ℕ)
    (hk : Fit qq s) :
    Fit qq (State.holdBond s d i) := by
  unfold State.holdBond
  repeat' (first | with_reducible assumption | with_reducible apply setBond_keep | with_reducible apply log_keep | split
                 | dsimp only)

theorem execBondFrameReceive_keep (die : ℕ) (link : ℕ) (f : BondFrame) (s : State)
    (hk : Fit qq s) :
    FitO qq (execBondFrameReceive die link f s) := by
  unfold execBondFrameReceive
  repeat' (first | with_reducible assumption | with_reducible apply next_keep | with_reducible apply act_keep
                 | with_reducible apply modBond_keep | with_reducible apply holdBond_keep | split | intro _ | dsimp only)

theorem execBondCrcRetrain_keep (die : ℕ) (link : ℕ) (s : State)
    (hk : Fit qq s) :
    FitO qq (execBondCrcRetrain die link s) := by
  unfold execBondCrcRetrain
  repeat' (first | with_reducible assumption | with_reducible apply next_keep | with_reducible apply act_keep
                 | with_reducible apply setBond_keep | intro _ | dsimp only)

theorem execWidthRecordWrite_keep (die : ℕ) (link : ℕ) (s : State)
    (hk : Fit qq s) :
    FitO qq (execWidthRecordWrite die link s) := by
  unfold execWidthRecordWrite
  repeat' (first | with_reducible assumption | with_reducible apply next_keep | with_reducible apply act_keep
                 | with_reducible apply writeArea_keep | with_reducible apply modBond_keep
                 | with_reducible apply modArea_keep | intro _ | dsimp only)

theorem spoilFlush_keep (s : State) (n : ℕ) (slice : ℕ)
    (hk : Fit qq s) :
    Fit qq (State.spoilFlush s n slice) := by
  unfold State.spoilFlush
  repeat' (first | with_reducible assumption | with_reducible apply each_keep | with_reducible apply modTe_keep | split
                 | intro _ | dsimp only)

theorem dropSlice_keep (s : State) (n : ℕ) (g : ℕ)
    (hk : Fit qq s) :
    Fit qq (State.dropSlice s n g) := by
  unfold State.dropSlice
  repeat' (first | with_reducible assumption | with_reducible apply modKd_keep | with_reducible apply each_keep
                 | with_reducible apply writeBackLine_keep | with_reducible apply spoilFlush_keep
                 | with_reducible apply raise_keep | split | intro _ | dsimp only)

theorem fenceCoil_keep (s : State) (n : ℕ) (g : ℕ)
    (hk : Fit qq s) :
    Fit qq (State.fenceCoil s n g) := by
  unfold State.fenceCoil
  repeat' (first | with_reducible assumption | with_reducible apply markArea_keep | with_reducible apply capSense_keep
                 | with_reducible apply dropSlice_keep | with_reducible apply modKd_keep | dsimp only)

theorem execCoilTransfer_keep (n : ℕ) (g : ℕ) (crcOk : Bool) (s : State)
    (hk : Fit qq s) :
    FitO qq (execCoilTransfer n g crcOk s) := by
  unfold execCoilTransfer
  repeat' (first | with_reducible assumption | with_reducible apply next_keep | with_reducible apply act_keep
                 | with_reducible apply modCoil_keep | split | intro _ | dsimp only)

theorem execCoilRetrain_keep (n : ℕ) (g : ℕ) (failedDown : ℕ) (failedUp : ℕ) (s : State)
    (hk : Fit qq s) :
    FitO qq (execCoilRetrain n g failedDown failedUp s) := by
  unfold execCoilRetrain
  repeat' (first | with_reducible assumption | with_reducible apply next_keep | with_reducible apply act_keep
                 | with_reducible apply modCoil_keep | with_reducible apply fenceCoil_keep
                 | with_reducible apply markArea_keep | split | intro _ | dsimp only)

theorem execSillBlockReceive_keep (p : ℕ) (crcOk : Bool) (s : State)
    (hk : Fit qq s) :
    FitO qq (execSillBlockReceive p crcOk s) := by
  unfold execSillBlockReceive
  repeat' (first | with_reducible assumption | with_reducible apply next_keep | with_reducible apply act_keep
                 | with_reducible apply modPort_keep | split | intro _ | dsimp only)

theorem execSillPersistentError_keep (p : ℕ) (within1s : Bool) (s : State)
    (hk : Fit qq s) :
    FitO qq (execSillPersistentError p within1s s) := by
  unfold execSillPersistentError
  repeat' (first | with_reducible assumption | with_reducible apply next_keep | with_reducible apply act_keep
                 | with_reducible apply takePort_keep | split | intro _ | dsimp only)

theorem execSillRetrainComplete_keep (p : ℕ) (s : State)
    (hk : Fit qq s) :
    FitO qq (execSillRetrainComplete p s) := by
  unfold execSillRetrainComplete
  repeat' (first | with_reducible assumption | with_reducible apply next_keep | with_reducible apply act_keep
                 | with_reducible apply setPort_keep | intro _ | dsimp only)

end Sys2Proof.Machine
end

