-- ==== Sys2Proof/Laws/KeepNets.lean ====
section
/-! SUPPORT. The operations and meanings of Machine/Nets leave the queue alone and keep the memory's one form. -/

namespace Sys2Proof.Machine

set_option linter.unreachableTactic false
set_option linter.unusedTactic false
set_option linter.unusedSimpArgs false

variable {qq : List Instr}

theorem leaveRing_keep (s : State) (r : RingPkt)
    (hk : Fit qq s) :
    Fit qq (State.leaveRing s r) := by
  unfold State.leaveRing
  repeat' (first | with_reducible assumption | with_reducible apply outPut_keep | with_reducible apply moveQueue_keep
                 | with_reducible apply modSta_keep | with_reducible apply raise_keep
                 | with_reducible apply fabricIn_keep | with_reducible apply ringIn_keep | simp only [fit_mk]
                 | with_reducible apply fitMem_of_fit | split | intro _ | dsimp only)

theorem execRingHop_keep (stop : ℕ) (s : State)
    (hk : Fit qq s) :
    FitO qq (execRingHop stop s) := by
  unfold execRingHop
  repeat' (first | with_reducible assumption | with_reducible apply next_keep | with_reducible apply act_keep
                 | with_reducible apply leaveRing_keep | simp only [fit_mk] | with_reducible apply fitMem_of_fit | split
                 | intro _ | dsimp only)

theorem atBank_keep (s : State) (r : BankReq)
    (hk : Fit qq s) :
    Fit qq (State.atBank s r) := by
  unfold State.atBank
  repeat' (first | with_reducible assumption | with_reducible apply modBank_keep | with_reducible apply replyFault_keep
                 | with_reducible apply bankReply_keep | split | dsimp only)

theorem coreRegister_keep (s : State) (st : ℕ) (p : Packet)
    (hk : Fit qq s) :
    Fit qq (State.coreRegister s st p) := by
  unfold State.coreRegister
  repeat' (first | with_reducible assumption | with_reducible apply regRead_keep | with_reducible apply reply_keep
                 | with_reducible apply regWrite_keep | split | dsimp only)

theorem message_keep (s : State) (m : NetMsg)
    (hk : Fit qq s) :
    Fit qq (State.message s m) := by
  unfold State.message
  repeat' (first | with_reducible assumption | with_reducible apply atBank_keep | with_reducible apply modCtx_keep
                 | with_reducible apply access_keep | with_reducible apply coreRegister_keep | simp only [fit_mk]
                 | with_reducible apply fitMem_of_fit | split | intro _ | dsimp only)

theorem execNarrowNetMessage_keep (node : ℕ) (s : State)
    (hk : Fit qq s) :
    FitO qq (execNarrowNetMessage node s) := by
  unfold execNarrowNetMessage
  repeat' (first | with_reducible assumption | with_reducible apply next_keep | with_reducible apply act_keep
                 | with_reducible apply message_keep | simp only [fit_mk] | with_reducible apply fitMem_of_fit | split
                 | intro _ | dsimp only)

theorem execFetchArrive_keep (core : Nat) (ctx : Nat) (s : State)
    (hk : Fit qq s) :
    FitO qq (execFetchArrive core ctx s) := by
  unfold execFetchArrive
  repeat' (first | with_reducible assumption | with_reducible apply next_keep | with_reducible apply act_keep
                 | with_reducible apply modCtx_keep | with_reducible apply refresh_keep
                 | with_reducible apply ctxFault_keep | simp only [fit_mk] | with_reducible apply fitMem_of_fit
                 | split | intro _ | dsimp only)

end Sys2Proof.Machine
end

