-- ==== Sys2Proof/Laws/KeepTeardown.lean ====
section
/-! SUPPORT. The operations and meanings of Machine/Teardown leave the queue alone and keep the memory's one form. -/

namespace Sys2Proof.Machine

set_option linter.unreachableTactic false
set_option linter.unusedTactic false
set_option linter.unusedSimpArgs false

variable {qq : List Instr}

theorem senseAll_keep (s1 : State) (s0 : State)
    (hk : Fit qq s1) :
    Fit qq (State.senseAll s1 s0) := by
  unfold State.senseAll
  repeat' (first | with_reducible assumption | with_reducible apply each_keep | with_reducible apply sense_keep | intro _
                 | dsimp only)

theorem Memory.erase_wf {m : Memory} (h : m.wf = true) (f : Nat → Bool) : (m.erase f).wf = true := by
  unfold Memory.wf at h ⊢
  rw [Bool.and_eq_true] at h ⊢
  refine ⟨decide_eq_true (List.Pairwise.sublist List.filter_sublist (of_decide_eq_true h.1)), ?_⟩
  have h2 := List.all_eq_true.1 h.2
  exact List.all_eq_true.2 fun e he => h2 e (List.mem_filter.1 he).1

theorem mem_keep {s : State} {m : Memory} (h : Fit qq s) (hm : m.wf = true) : Fit qq { s with mem := m } := ⟨h.1, hm⟩

theorem zeroScratch_keep (s : State) (d : Nat) (hk : Fit qq s) : Fit qq (s.zeroScratch d) :=
  mem_keep hk (Memory.erase_wf hk.2 _)

theorem clearKd_keep (s : State) (n : Nat) (hk : Fit qq s) : Fit qq (s.clearKd n) := by
  unfold State.clearKd
  exact modKd_keep _ _ (mem_keep hk (Memory.erase_wf hk.2 _))

theorem dropRuns_keep (s : State) (p : BistHold → Bool)
    (hk : Fit qq s) :
    Fit qq (State.dropRuns s p) := by
  unfold State.dropRuns
  repeat' (first | with_reducible assumption | with_reducible apply each_keep | with_reducible apply complete_keep
                 | simp only [fit_mk] | with_reducible apply fitMem_of_fit | intro _ | dsimp only)

theorem dropLoops_keep (s : State) (p : ℕ → Bool)
    (hk : Fit qq s) :
    Fit qq (State.dropLoops s p) := by
  unfold State.dropLoops
  repeat' (first | with_reducible assumption | with_reducible apply each_keep | with_reducible apply complete_keep
                 | simp only [fit_mk] | with_reducible apply fitMem_of_fit | intro _ | dsimp only)

theorem forgetSheaf_keep (s : State) (c : Nat)
    (hk : Fit qq s) :
    Fit qq (State.forgetSheaf s c) := by
  unfold State.forgetSheaf
  repeat' (first | with_reducible assumption | with_reducible apply each_keep | with_reducible apply dropTake_keep
                 | simp only [fit_mk] | with_reducible apply fitMem_of_fit | split | intro _ | dsimp only)

theorem clearCore_keep (s : State) (c : ℕ)
    (hk : Fit qq s) :
    Fit qq (State.clearCore s c) := by
  unfold State.clearCore
  repeat' (first | with_reducible assumption | with_reducible apply clearSows_keep
                 | with_reducible apply forgetSheaf_keep | with_reducible apply modCore_keep | simp only [fit_mk]
                 | with_reducible apply fitMem_of_fit | dsimp only)

theorem orphanOps_keep (s : State) (c : ℕ)
    (hk : Fit qq s) :
    Fit qq (State.orphanOps s c) := by
  unfold State.orphanOps
  repeat' (first | with_reducible assumption | simp only [fit_mk] | with_reducible apply fitMem_of_fit | split
                 | dsimp only)

theorem clearStation_keep (s : State) (st : Nat) (full : Bool)
    (hk : Fit qq s) :
    Fit qq (State.clearStation s st full) := by
  unfold State.clearStation
  repeat' (first | with_reducible assumption | with_reducible apply each_keep | with_reducible apply modTx_keep
                 | with_reducible apply modRx_keep | with_reducible apply resetRings_keep
                 | with_reducible apply setRings_keep | with_reducible apply modSta_keep | split | intro _
                 | dsimp only)

theorem stationDown_keep (s : State) (st : ℕ) (full : Bool)
    (hk : Fit qq s) :
    Fit qq (State.stationDown s st full) := by
  unfold State.stationDown
  repeat' (first | with_reducible assumption | with_reducible apply each_keep | with_reducible apply dropChange_keep
                 | with_reducible apply stationGone_keep | with_reducible apply modSta_keep
                 | with_reducible apply clearSows_keep | with_reducible apply clearStation_keep | intro _ | dsimp only)

theorem resetAlloc_keep (s : State) (st : ℕ)
    (hk : Fit qq s) :
    Fit qq (State.resetAlloc s st) := by
  unfold State.resetAlloc
  repeat' (first | with_reducible assumption | simp only [fit_mk] | with_reducible apply fitMem_of_fit | dsimp only)

theorem flushMerge_keep (s : State) (st : ℕ)
    (hk : Fit qq s) :
    Fit qq (State.flushMerge s st) := by
  unfold State.flushMerge
  repeat' (first | with_reducible assumption | with_reducible apply each_keep | with_reducible apply writeBack_keep
                 | intro _ | dsimp only)

theorem leaveByte_keep (s : State) (b : MergeBlk) (e : Nat × Byte) (hk : Fit qq s) : Fit qq (s.leaveByte b e) := by
  unfold State.leaveByte
  exact mem_keep (draw_keep hk) (Memory.wr_wf hk.2 _ _)

theorem loseBlock_keep (s : State) (b : MergeBlk)
    (hk : Fit qq s) :
    Fit qq (State.loseBlock s b) := by
  unfold State.loseBlock
  repeat' (first | with_reducible assumption | with_reducible apply each_keep | with_reducible apply leaveByte_keep
                 | with_reducible apply when_keep | with_reducible apply draw_keep | with_reducible apply setPoison_keep
                 | simp only [fit_mk] | with_reducible apply fitMem_of_fit | split | intro _ | dsimp only)

theorem gateMerge_keep (s : State) (d : ℕ) (cause : ℕ)
    (hk : Fit qq s) :
    Fit qq (State.gateMerge s d cause) := by
  unfold State.gateMerge
  repeat' (first | with_reducible assumption | with_reducible apply flushMerge_keep | with_reducible apply each_keep
                 | with_reducible apply loseBlock_keep | split | intro _ | dsimp only)

theorem deadRecords_keep (s : State) (d : ℕ)
    (hk : Fit qq s) :
    Fit qq (State.deadRecords s d) := by
  unfold State.deadRecords
  repeat' (first | with_reducible assumption | with_reducible apply each_keep | with_reducible apply sendRecord_keep
                 | simp only [fit_mk] | with_reducible apply fitMem_of_fit | intro _ | dsimp only)

theorem dropDieOps_keep (s : State) (d : ℕ)
    (hk : Fit qq s) :
    Fit qq (State.dropDieOps s d) := by
  unfold State.dropDieOps
  repeat' (first | with_reducible assumption | with_reducible apply each_keep | with_reducible apply redirty_keep
                 | simp only [fit_mk] | with_reducible apply fitMem_of_fit | split | intro _ | dsimp only)

theorem stopBonds_keep (s : State) (d : ℕ) (field : Bool)
    (hk : Fit qq s) :
    Fit qq (State.stopBonds s d field) := by
  unfold State.stopBonds
  repeat' (first | with_reducible assumption | with_reducible apply each_keep | with_reducible apply modBond_keep | split
                 | intro _ | dsimp only)

theorem stopDie_keep (s : State) (d : Nat)
    (hk : Fit qq s) :
    Fit qq (State.stopDie s d) := by
  unfold State.stopDie
  repeat' (first | with_reducible assumption | with_reducible apply each_keep | with_reducible apply modRegion_keep
                 | with_reducible apply dropCopies_keep | with_reducible apply modDiePower_keep | simp only [fit_mk]
                 | with_reducible apply fitMem_of_fit | intro _ | dsimp only)

theorem endWaits_keep (s : State) (d : ℕ)
    (hk : Fit qq s) :
    Fit qq (State.endWaits s d) := by
  unfold State.endWaits
  repeat' (first | with_reducible assumption | with_reducible apply each_keep | with_reducible apply complete_keep
                 | with_reducible apply modDie_keep | split | intro _ | dsimp only)

theorem loseRemnants_keep (s : State) (st : ℕ)
    (hk : Fit qq s) :
    Fit qq (State.loseRemnants s st) := by
  unfold State.loseRemnants
  repeat' (first | with_reducible assumption | simp only [fit_mk] | with_reducible apply fitMem_of_fit | dsimp only)

theorem gateDie_keep (s : State) (d : ℕ) (cause : ℕ)
    (hk : Fit qq s) :
    Fit qq (State.gateDie s d cause) := by
  unfold State.gateDie
  repeat' (first | with_reducible assumption | with_reducible apply deadRecords_keep
                 | with_reducible apply gateMerge_keep | with_reducible apply endWaits_keep
                 | with_reducible apply each_keep | with_reducible apply clearCore_keep
                 | with_reducible apply loseRemnants_keep | with_reducible apply stationDown_keep
                 | with_reducible apply dropDieOps_keep | with_reducible apply modDie_keep
                 | with_reducible apply when_keep | with_reducible apply zeroScratch_keep
                 | with_reducible apply stopDie_keep | with_reducible apply stopBonds_keep
                 | with_reducible apply clearKd_keep | with_reducible apply dropLoops_keep
                 | with_reducible apply dropRuns_keep | with_reducible apply capSense_keep
                 | with_reducible apply senseAll_keep | with_reducible apply log_keep | split | intro _ | dsimp only)

theorem clearBank_keep (s : State) (k : ℕ)
    (hk : Fit qq s) :
    Fit qq (State.clearBank s k) := by
  unfold State.clearBank
  repeat' (first | with_reducible assumption | with_reducible apply each_keep | with_reducible apply bankAnswer_keep
                 | with_reducible apply replyFault_keep | with_reducible apply bankReply_keep | simp only [fit_mk]
                 | with_reducible apply fitMem_of_fit | split | intro _ | dsimp only)

theorem dropJobs_keep (s : State) (p : ℕ → Bool)
    (hk : Fit qq s) :
    Fit qq (State.dropJobs s p) := by
  unfold State.dropJobs
  repeat' (first | with_reducible assumption | with_reducible apply each_keep | with_reducible apply complete_keep
                 | simp only [fit_mk] | with_reducible apply fitMem_of_fit | split | intro _ | dsimp only)

theorem fieldOps_keep (s : State) (l : List ℕ)
    (hk : Fit qq s) :
    Fit qq (State.fieldOps s l) := by
  unfold State.fieldOps
  repeat' (first | with_reducible assumption | with_reducible apply each_keep | with_reducible apply dropRack_keep
                 | with_reducible apply dropJobs_keep | with_reducible apply endOp_keep | simp only [fit_mk]
                 | with_reducible apply fitMem_of_fit | split | intro _ | dsimp only)

theorem restStacks_keep (s : State) (k : ℕ)
    (hk : Fit qq s) :
    Fit qq (State.restStacks s k) := by
  unfold State.restStacks
  repeat' (first | with_reducible assumption | with_reducible apply each_keep | with_reducible apply modHbm_keep | split
                 | intro _ | dsimp only)

theorem fieldDown_keep (s : State) (k : ℕ)
    (hk : Fit qq s) :
    Fit qq (State.fieldDown s k) := by
  unfold State.fieldDown
  repeat' (first | with_reducible assumption | with_reducible apply each_keep | with_reducible apply flushMerge_keep
                 | with_reducible apply modDie_keep | with_reducible apply endWaits_keep
                 | with_reducible apply modField_keep | with_reducible apply loseRemnants_keep
                 | with_reducible apply clearBank_keep | with_reducible apply modSta_keep
                 | with_reducible apply resetAlloc_keep | with_reducible apply stationDown_keep
                 | with_reducible apply fieldOps_keep | with_reducible apply restStacks_keep
                 | with_reducible apply modMs_keep | with_reducible apply stopBonds_keep
                 | with_reducible apply dropLoops_keep | with_reducible apply dropRuns_keep
                 | with_reducible apply capSense_keep | with_reducible apply senseAll_keep
                 | with_reducible apply log_keep | split | intro _ | dsimp only)

end Sys2Proof.Machine
end

