-- ==== Sys2Proof/Laws/KeepResets.lean ====
section
/-! SUPPORT. The operations and meanings of Machine/Resets leave the queue alone and keep the memory's one form. -/

namespace Sys2Proof.Machine

set_option linter.unreachableTactic false
set_option linter.unusedTactic false
set_option linter.unusedSimpArgs false

variable {qq : List Instr}

theorem lockEntry_keep (s : State) (st : Nat) (g : Nat)
    (hk : Fit qq s) :
    Fit qq (State.lockEntry s st g) := by
  unfold State.lockEntry
  repeat' (first | with_reducible assumption | with_reducible apply setRings_keep | with_reducible apply modRx_keep
                 | with_reducible apply calibrateNow_keep | simp only [fit_mk] | with_reducible apply fitMem_of_fit
                 | intro _ | dsimp only)

theorem lockStanding_keep (s : State) (st : Nat)
    (hk : Fit qq s) :
    Fit qq (State.lockStanding s st) := by
  unfold State.lockStanding
  repeat' (first | with_reducible assumption | with_reducible apply each_keep | with_reducible apply lockEntry_keep
                 | intro _ | dsimp only)

theorem relock_keep (s : State) (st : Nat)
    (hk : Fit qq s) :
    Fit qq (State.relock s st) := by
  unfold State.relock
  repeat' (first | with_reducible assumption | with_reducible apply each_keep | with_reducible apply lockEntry_keep
                 | intro _ | dsimp only)

theorem lockWriters_keep (s : State) (st : Nat)
    (hk : Fit qq s) :
    Fit qq (State.lockWriters s st) := by
  unfold State.lockWriters
  repeat' (first | with_reducible assumption | with_reducible apply each_keep | with_reducible apply enable_keep
                 | with_reducible apply setRings_keep | with_reducible apply modTx_keep | simp only [fit_mk]
                 | with_reducible apply fitMem_of_fit | intro _ | dsimp only)

theorem startGroups_keep (s : State) (st : Nat)
    (hk : Fit qq s) :
    Fit qq (State.startGroups s st) := by
  unfold State.startGroups
  repeat' (first | with_reducible assumption | with_reducible apply each_keep | with_reducible apply enable_keep
                 | with_reducible apply setTxState_keep | with_reducible apply returnGroup_keep | split | intro _
                 | dsimp only)

theorem stationsUp_keep (s : State) (l : List Nat)
    (hk : Fit qq s) :
    Fit qq (State.stationsUp s l) := by
  unfold State.stationsUp
  repeat' (first | with_reducible assumption | with_reducible apply each_keep | with_reducible apply modSta_keep
                 | with_reducible apply lockWriters_keep | with_reducible apply relock_keep
                 | with_reducible apply lockStanding_keep | with_reducible apply startGroups_keep
                 | with_reducible apply stationBack_keep | simp only [fit_mk] | with_reducible apply fitMem_of_fit
                 | split | intro _ | dsimp only)

theorem shareReturn_keep (s : State) (k : ℕ)
    (hk : Fit qq s) :
    Fit qq (State.shareReturn s k) := by
  unfold State.shareReturn
  repeat' (first | with_reducible assumption | with_reducible apply modMs_keep | dsimp only)

theorem execDieGate_keep (d : ℕ) (cause : ℕ) (s : State)
    (hk : Fit qq s) :
    FitO qq (execDieGate d cause s) := by
  unfold execDieGate
  repeat' (first | with_reducible assumption | with_reducible apply next_keep | with_reducible apply act_keep
                 | with_reducible apply gateDie_keep | intro _ | dsimp only)

theorem execReferenceMissing_keep (d : ℕ) (s : State)
    (hk : Fit qq s) :
    FitO qq (execReferenceMissing d s) := by
  unfold execReferenceMissing
  repeat' (first | with_reducible assumption | with_reducible apply next_keep | with_reducible apply act_keep
                 | with_reducible apply gateDie_keep | with_reducible apply modDie_keep | intro _ | dsimp only)

theorem execRailOutOfWindow_keep (d : ℕ) (millivolts : ℕ) (s : State)
    (hk : Fit qq s) :
    FitO qq (execRailOutOfWindow d millivolts s) := by
  unfold execRailOutOfWindow
  repeat' (first | with_reducible assumption | with_reducible apply next_keep | with_reducible apply act_keep
                 | with_reducible apply gateDie_keep | with_reducible apply modDie_keep | intro _ | dsimp only)

theorem resetDie_keep (s : State) (d : ℕ) (cache : Bool)
    (hk : Fit qq s) :
    Fit qq (State.resetDie s d cache) := by
  unfold State.resetDie
  repeat' (first | with_reducible assumption | with_reducible apply modDie_keep | with_reducible apply clearKd_keep
                 | with_reducible apply gateDie_keep | split | dsimp only)

theorem execDieReset_keep (o : Origin) (d : ℕ) (cache : Bool) (s : State)
    (hk : Fit qq s) :
    FitO qq (execDieReset o d cache s) := by
  unfold execDieReset
  repeat' (first | with_reducible assumption | with_reducible apply next_keep | with_reducible apply act_keep
                 | with_reducible apply complete_keep | with_reducible apply resetDie_keep | split | intro _ | dsimp only)

theorem execDieRejoin_keep (o : Origin) (d : ℕ) (refMissing : Bool) (railOut : Bool) (s : State)
    (hk : Fit qq s) :
    FitO qq (execDieRejoin o d refMissing railOut s) := by
  unfold execDieRejoin
  repeat' (first | with_reducible assumption | with_reducible apply next_keep | with_reducible apply act_keep
                 | with_reducible apply commandLong_keep | with_reducible apply zeroScratch_keep
                 | with_reducible apply modDie_keep | intro _ | dsimp only)

theorem dieBack_keep (s : State) (d : ℕ)
    (hk : Fit qq s) :
    Fit qq (State.dieBack s d) := by
  unfold State.dieBack
  repeat' (first | with_reducible assumption | with_reducible apply each_keep | with_reducible apply modRegion_keep
                 | with_reducible apply modDie_keep | with_reducible apply log_keep
                 | with_reducible apply spreadLevel_keep | with_reducible apply stationsUp_keep | intro _ | dsimp only)

theorem execDieRejoinComplete_keep (d : ℕ) (s : State)
    (hk : Fit qq s) :
    FitO qq (execDieRejoinComplete d s) := by
  unfold execDieRejoinComplete
  repeat' (first | with_reducible assumption | with_reducible apply next_keep | with_reducible apply act_keep
                 | with_reducible apply complete_keep | with_reducible apply stopBonds_keep
                 | with_reducible apply modDie_keep | with_reducible apply dieBack_keep
                 | with_reducible apply capSense_keep | with_reducible apply senseAll_keep | split | intro _ | dsimp only)

theorem resetCore_keep (s : State) (o : Origin) (c : ℕ)
    (hk : Fit qq s) :
    Fit qq (State.resetCore s o c) := by
  unfold State.resetCore
  repeat' (first | with_reducible assumption | with_reducible apply each_keep | with_reducible apply sendRecord_keep
                 | with_reducible apply modCore_keep | with_reducible apply clearCore_keep
                 | with_reducible apply orphanOps_keep | with_reducible apply dropRuns_keep
                 | with_reducible apply capSense_keep | with_reducible apply sense_keep | intro _ | dsimp only)

theorem execCoreReset_keep (o : Origin) (c : ℕ) (s : State)
    (hk : Fit qq s) :
    FitO qq (execCoreReset o c s) := by
  unfold execCoreReset
  repeat' (first | with_reducible assumption | with_reducible apply next_keep | with_reducible apply commandLong_keep
                 | with_reducible apply resetCore_keep | intro _ | dsimp only)

theorem execCoreResetComplete_keep (c : ℕ) (s : State)
    (hk : Fit qq s) :
    FitO qq (execCoreResetComplete c s) := by
  unfold execCoreResetComplete
  repeat' (first | with_reducible assumption | with_reducible apply next_keep | with_reducible apply act_keep
                 | with_reducible apply spreadLevel_keep | with_reducible apply modCore_keep
                 | with_reducible apply capSense_keep | with_reducible apply complete_keep | split | intro _ | dsimp only)

theorem resetPort_keep (s : State) (p : ℕ)
    (hk : Fit qq s) :
    Fit qq (State.resetPort s p) := by
  unfold State.resetPort
  repeat' (first | with_reducible assumption | with_reducible apply sense_keep | with_reducible apply clearSows_keep
                 | with_reducible apply takePort_keep | simp only [fit_mk] | with_reducible apply fitMem_of_fit
                 | dsimp only)

theorem execPortReset_keep (o : Origin) (p : ℕ) (s : State)
    (hk : Fit qq s) :
    FitO qq (execPortReset o p s) := by
  unfold execPortReset
  repeat' (first | with_reducible assumption | with_reducible apply next_keep | with_reducible apply act_keep
                 | with_reducible apply complete_keep | with_reducible apply resetPort_keep | split | intro _
                 | dsimp only)

theorem execFieldReset_keep (o : Origin) (k : ℕ) (s : State)
    (hk : Fit qq s) :
    FitO qq (execFieldReset o k s) := by
  unfold execFieldReset
  repeat' (first | with_reducible assumption | with_reducible apply next_keep | with_reducible apply act_keep
                 | with_reducible apply complete_keep | with_reducible apply fieldDown_keep | split | intro _
                 | dsimp only)

theorem wakeStacks_keep (s : State) (k : ℕ)
    (hk : Fit qq s) :
    Fit qq (State.wakeStacks s k) := by
  unfold State.wakeStacks
  repeat' (first | with_reducible assumption | with_reducible apply each_keep | with_reducible apply modHbm_keep | split
                 | intro _ | dsimp only)

theorem fieldStarts_keep (s : State) (k : Nat)
    (hk : Fit qq s) :
    Fit qq (State.fieldStarts s k) := by
  unfold State.fieldStarts
  repeat' (first | with_reducible assumption | with_reducible apply acquireField_keep
                 | with_reducible apply wakeStacks_keep | with_reducible apply shareReturn_keep | split | dsimp only)

theorem startField_keep (s : State) (k : Nat) (o : Option Origin)
    (hk : Fit qq s) :
    Fit qq (State.startField s k o) := by
  unfold State.startField
  repeat' (first | with_reducible assumption | with_reducible apply modField_keep
                 | with_reducible apply fieldStarts_keep | simp only [fit_mk] | with_reducible apply fitMem_of_fit
                 | split | intro _ | dsimp only)

theorem execWarmUpEnd_keep (k : Nat) (s : State)
    (hk : Fit qq s) :
    FitO qq (execWarmUpEnd k s) := by
  unfold execWarmUpEnd
  repeat' (first | with_reducible assumption | with_reducible apply next_keep | with_reducible apply act_keep
                 | with_reducible apply modField_keep | with_reducible apply fieldStarts_keep
                 | with_reducible apply sense_keep | simp only [fit_mk] | with_reducible apply fitMem_of_fit | intro _
                 | dsimp only)

theorem execFieldEnable_keep (o : Origin) (k : ℕ) (s : State)
    (hk : Fit qq s) :
    FitO qq (execFieldEnable o k s) := by
  unfold execFieldEnable
  repeat' (first | with_reducible assumption | with_reducible apply next_keep | with_reducible apply act_keep
                 | with_reducible apply commandLong_keep | with_reducible apply sense_keep
                 | with_reducible apply startField_keep | intro _ | dsimp only)

theorem fieldBack_keep (s : State) (k : Nat)
    (hk : Fit qq s) :
    Fit qq (State.fieldBack s k) := by
  unfold State.fieldBack
  repeat' (first | with_reducible assumption | with_reducible apply modField_keep
                 | with_reducible apply stationsUp_keep | simp only [fit_mk] | with_reducible apply fitMem_of_fit
                 | intro _ | dsimp only)

theorem execFieldEnableComplete_keep (k : ℕ) (s : State)
    (hk : Fit qq s) :
    FitO qq (execFieldEnableComplete k s) := by
  unfold execFieldEnableComplete
  repeat' (first | with_reducible assumption | with_reducible apply next_keep | with_reducible apply act_keep
                 | with_reducible apply fieldBack_keep | with_reducible apply complete_keep
                 | with_reducible apply capSense_keep | with_reducible apply senseAll_keep | split | intro _ | dsimp only)

theorem restDie_keep (s : State) (d : Nat)
    (hk : Fit qq s) :
    Fit qq (State.restDie s d) := by
  unfold State.restDie
  repeat' (first | with_reducible assumption | with_reducible apply each_keep | with_reducible apply modBond_keep
                 | with_reducible apply modRegion_keep | with_reducible apply modDiePower_keep
                 | with_reducible apply modDie_keep | simp only [fit_mk] | with_reducible apply fitMem_of_fit | split
                 | intro _ | dsimp only)

theorem warmed_keep (s : State) (hk : Fit qq s) : Fit qq s.warmed := by
  unfold State.warmed
  have h := Memory.erase_wf hk.2 fun a => decide (2 ^ 41 ≤ a)
  exact ⟨hk.1, h⟩

theorem warmReset_keep (s : State)
    (hk : Fit qq s) :
    Fit qq (State.warmReset s) := by
  unfold State.warmReset
  repeat' (first | with_reducible assumption | with_reducible apply warmed_keep | with_reducible apply each_keep
                 | with_reducible apply flushMerge_keep | with_reducible apply restDie_keep
                 | with_reducible apply startField_keep | with_reducible apply senseAll_keep
                 | with_reducible apply markArea_keep | intro _ | dsimp only)

theorem execWarmReset_keep (o : Origin) (s : State)
    (hk : Fit qq s) :
    FitO qq (execWarmReset o s) := by
  unfold execWarmReset
  repeat' (first | with_reducible assumption | with_reducible apply next_keep | with_reducible apply act_keep
                 | with_reducible apply warmReset_keep | with_reducible apply emit_keep | split | intro _ | dsimp only)

theorem bringStack_keep (s : State) (h : Nat) (failed : Bool)
    (hk : Fit qq s) :
    Fit qq (State.bringStack s h failed) := by
  unfold State.bringStack
  repeat' (first | with_reducible assumption | with_reducible apply draw_keep | with_reducible apply modHbm_keep
                 | with_reducible apply markArea_keep | split | intro _ | dsimp only)

theorem execBringUpReady_keep (failedStacks : List Nat) (s : State)
    (hk : Fit qq s) :
    FitO qq (execBringUpReady failedStacks s) := by
  unfold execBringUpReady
  repeat' (first | with_reducible assumption | with_reducible apply next_keep | with_reducible apply act_keep
                 | with_reducible apply each_keep | with_reducible apply modField_keep
                 | with_reducible apply bringStack_keep | with_reducible apply modRegion_keep
                 | with_reducible apply stationsUp_keep | with_reducible apply shareReturn_keep
                 | with_reducible apply senseAll_keep | with_reducible apply capSense_keep | simp only [fit_mk]
                 | with_reducible apply fitMem_of_fit | split | intro _ | dsimp only)

theorem recordTrip_keep (s : State) (loc : ThermLoc) (t : ℕ)
    (hk : Fit qq s) :
    Fit qq (State.recordTrip s loc t) := by
  unfold State.recordTrip
  repeat' (first | with_reducible assumption | simp only [fit_mk] | with_reducible apply fitMem_of_fit | dsimp only)

theorem emptied_keep (s : State) (hk : Fit qq s) : Fit qq s.emptied := by
  unfold State.emptied
  have h := Memory.erase_wf hk.2 fun _ => true
  exact ⟨hk.1, h⟩

theorem tripAll_keep (s : State) (hk : Fit qq s) : Fit qq s.tripAll := by
  unfold State.tripAll
  exact emptied_keep _ (each_keep _ (each_keep _ (each_keep _ hk fun d s h => gateDie_keep s d 5 h)
    fun k s h => modField_keep k _ h) fun st s h => clearStation_keep _ st false (modSta_keep st _ h))

theorem execThermalShutdown_keep (loc : ThermLoc) (halfDegrees : ℕ) (s : State)
    (hk : Fit qq s) :
    FitO qq (execThermalShutdown loc halfDegrees s) := by
  unfold execThermalShutdown
  repeat' (first | with_reducible assumption | with_reducible apply next_keep | with_reducible apply act_keep
                 | with_reducible apply modTherm_keep | with_reducible apply markArea_keep
                 | with_reducible apply emit_keep | with_reducible apply recordTrip_keep
                 | with_reducible apply senseAll_keep | with_reducible apply tripAll_keep | with_reducible apply log_keep
                 | intro _ | dsimp only)

theorem logParity_keep (s : State) (addr : ℕ)
    (hk : Fit qq s) :
    Fit qq (State.logParity s addr) := by
  unfold State.logParity
  repeat' (first | with_reducible assumption | with_reducible apply log_keep | dsimp only)

theorem parityHalt_keep (s : State) (u : Unit')
    (hk : Fit qq s) :
    Fit qq (State.parityHalt s u) := by
  unfold State.parityHalt
  repeat' (first | with_reducible assumption | with_reducible apply haltUnit_keep | with_reducible apply logParity_keep
                 | with_reducible apply draw_keep | split | dsimp only)

theorem parityEntry_keep {s : State} (addr : Nat) {f : State → State} (hk : Fit qq s)
    (hf : ∀ s : State, Fit qq s → Fit qq (f s)) : Fit qq (s.parityEntry addr f) := by
  unfold State.parityEntry
  exact latchPend_keep _ (logParity_keep _ _ (hf s hk))

theorem execParitySweep_keep (at' : ParityAt) (s : State)
    (hk : Fit qq s) :
    FitO qq (execParitySweep at' s) := by
  unfold execParitySweep
  repeat' (first | with_reducible assumption | with_reducible apply next_keep | with_reducible apply act_keep
                 | with_reducible apply parityHalt_keep | with_reducible apply parityEntry_keep
                 | with_reducible apply settleAcks_keep | with_reducible apply modRx_keep
                 | with_reducible apply capSense_keep | with_reducible apply sense_keep
                 | with_reducible apply modPort_keep | with_reducible apply sowDrop_keep | with_reducible apply id_keep
                 | simp only [fit_mk] | with_reducible apply fitMem_of_fit | split | intro _ | dsimp only)

end Sys2Proof.Machine
end

