-- ==== Sys2Proof/Laws/KeepSelfTest.lean ====
section
/-! SUPPORT. The operations and meanings of Machine/SelfTest leave the queue alone and keep the memory's one form. -/

namespace Sys2Proof.Machine

set_option linter.unreachableTactic false
set_option linter.unusedTactic false
set_option linter.unusedSimpArgs false

variable {qq : List Instr}

theorem saveRegion_keep (s : State) (p : BistParams)
    (hk : Fit qq s) :
    Fit qq (State.saveRegion s p).1 := by
  unfold State.saveRegion
  repeat' (first | with_reducible assumption | with_reducible apply stWrite_keep | with_reducible apply foldl_keep
                 | with_reducible apply foldl_keep1 | with_reducible apply foldl_keep2 | simp only [fit_mk]
                 | with_reducible apply fitMem_of_fit | split | intro _ | dsimp only)

theorem beginRun_keep (s : State) (o : Origin) (p : BistParams)
    (hk : Fit qq s) :
    Fit qq (State.beginRun s o p) := by
  unfold State.beginRun
  repeat' (first | with_reducible assumption | with_reducible apply saveRegion_keep | with_reducible apply setBond_keep
                 | simp only [fit_mk] | with_reducible apply fitMem_of_fit | split | dsimp only)

theorem execBistRun_keep (o : Origin) (p : BistParams) (s : State)
    (hk : Fit qq s) :
    FitO qq (execBistRun o p s) := by
  unfold execBistRun
  repeat' (first | with_reducible assumption | with_reducible apply next_keep | with_reducible apply commandLong_keep
                 | with_reducible apply beginRun_keep | intro _ | dsimp only)

theorem fillRegion_keep (s : State) (p : BistParams) (hk : Fit qq s) : Fit qq (s.fillRegion p) := by
  unfold State.fillRegion
  split
  · exact ⟨hk.1, Memory.erase_wf hk.2 _⟩
  · refine modKd_keep _ _ (mem_keep hk ?_)
    have key : ∀ (l : List Nat) (g : Nat → Nat) (m : Memory), m.wf = true →
        (l.foldl (fun (m : Memory) (e : Nat) => m.poisonAll (g e) (2 ^ 25)) m).wf = true := by
      intro l g
      induction l with
      | nil => exact fun m h => h
      | cons e r ih => exact fun m h => ih _ h
    exact key _ (fun e => (kdEra * e + kdPlace p.index 0 0 0) / 64) _ (Memory.erase_wf hk.2 _)
  · exact hk
  · exact hk

theorem restorePage_keep (s : State) (p : BistParams) (a : ℕ)
    (hk : Fit qq s) :
    Fit qq (State.restorePage s p a) := by
  unfold State.restorePage
  repeat' (first | with_reducible assumption | with_reducible apply wrMem_keep | with_reducible apply foldl_keep
                 | with_reducible apply foldl_keep1 | with_reducible apply foldl_keep2 | simp only [fit_mk]
                 | with_reducible apply fitMem_of_fit | split | intro _ | dsimp only)

theorem restoreRegion_keep (s : State) (p : BistParams) (ok : Bool)
    (hk : Fit qq s) :
    Fit qq (State.restoreRegion s p ok).1 := by
  unfold State.restoreRegion
  repeat' (first | with_reducible assumption | with_reducible apply fillRegion_keep
                 | with_reducible apply restorePage_keep | with_reducible apply foldl_keep
                 | with_reducible apply foldl_keep1 | with_reducible apply foldl_keep2 | split | intro _ | dsimp only)

theorem endRun_keep (s : State) (r : BistHold) (l : List (BistFail × Bool)) (spares : ℕ) (st : Status)
    (hk : Fit qq s) :
    Fit qq (State.endRun s r l spares st) := by
  unfold State.endRun
  repeat' (first | with_reducible assumption | with_reducible apply complete_keep | with_reducible apply when_keep
                 | with_reducible apply raise_keep | simp only [fit_mk] | with_reducible apply fitMem_of_fit | intro _
                 | dsimp only)

theorem endMemory_keep (s : State) (r : BistHold) (fails : List BistFail) (restoreOk : Bool)
    (hk : Fit qq s) :
    Fit qq (State.endMemory s r fails restoreOk) := by
  unfold State.endMemory
  repeat' (first | with_reducible assumption | with_reducible apply endRun_keep | with_reducible apply restoreRegion_keep
                 | with_reducible apply when_keep | with_reducible apply markArea_keep | simp only [fit_mk]
                 | with_reducible apply fitMem_of_fit | split | intro _ | dsimp only)

theorem endBond_keep (s : State) (r : BistHold) (fails : List BistFail)
    (hk : Fit qq s) :
    Fit qq (State.endBond s r fails) := by
  unfold State.endBond
  repeat' (first | with_reducible assumption | with_reducible apply endRun_keep | with_reducible apply markArea_keep
                 | with_reducible apply setBond_keep | dsimp only)

theorem endCoil_keep (s : State) (r : BistHold) (fails : List BistFail)
    (hk : Fit qq s) :
    Fit qq (State.endCoil s r fails) := by
  unfold State.endCoil
  repeat' (first | with_reducible assumption | with_reducible apply modCoil_keep | with_reducible apply modKd_keep
                 | with_reducible apply markArea_keep | with_reducible apply capSense_keep
                 | with_reducible apply endRun_keep | split | dsimp only)

theorem execBistRunComplete_keep (target : ℕ) (index : ℕ) (sub : ℕ) (fails : List BistFail) (restoreOk : Bool) (s : State)
    (hk : Fit qq s) :
    FitO qq (execBistRunComplete target index sub fails restoreOk s) := by
  unfold execBistRunComplete
  repeat' (first | with_reducible assumption | with_reducible apply next_keep | with_reducible apply act_keep
                 | with_reducible apply endMemory_keep | with_reducible apply endBond_keep
                 | with_reducible apply endCoil_keep | split | intro _ | dsimp only)

theorem execBistResult_keep (o : Origin) (target : ℕ) (index : ℕ) (sub : ℕ) (n : ℕ) (s : State)
    (hk : Fit qq s) :
    FitO qq (execBistResult o target index sub n s) := by
  unfold execBistResult
  repeat' (first | with_reducible assumption | with_reducible apply next_keep | with_reducible apply command_keep | split
                 | intro _ | dsimp only)

theorem execLoopbackRun_keep (o : Origin) (st : Nat) (g : Nat) (dur : Nat) (s : State)
    (hk : Fit qq s) :
    FitO qq (execLoopbackRun o st g dur s) := by
  unfold execLoopbackRun
  exact next_keep (commandLong_keep o _ _ hk fun s h => setRings_keep _ _ _ (modTx_keep st g _ (test_keep _ h)))

theorem parkLoops_keep (s : State) (st : Nat)
    (hk : Fit qq s) :
    Fit qq (State.parkLoops s st) := by
  unfold State.parkLoops
  split
  · exact hk
  · exact setRings_keep s _ _ hk

theorem execLoopbackRunComplete_keep (st : Nat) (g : Nat) (eyes : List Nat) (bitErr : Byte) (dacInl : Nat) (tia : Int) (adc : Int) (s : State)
    (hk : Fit qq s) :
    FitO qq (execLoopbackRunComplete st g eyes bitErr dacInl tia adc s) := by
  unfold execLoopbackRunComplete
  split
  · exact next_keep hk
  · exact act_keep _ hk fun s h => complete_keep _ _ _ _ _
      (when_keep _ (modTx_keep st g _ (parkLoops_keep _ _ (test_keep _ h))) fun _ h => raise_keep _ _ h)

end Sys2Proof.Machine
end

