-- ==== Sys2Proof/Laws/KeepWarden.lean ====
section
/-! SUPPORT. The operations and meanings of Machine/Warden leave the queue alone and keep the memory's one form. -/

namespace Sys2Proof.Machine

set_option linter.unreachableTactic false
set_option linter.unusedTactic false
set_option linter.unusedSimpArgs false

variable {qq : List Instr}

theorem setWarden_keep (s : State) (f : Warden → Warden)
    (hk : Fit qq s) :
    Fit qq (State.setWarden s f) := by
  unfold State.setWarden
  repeat' (first | with_reducible assumption | simp only [fit_mk] | with_reducible apply fitMem_of_fit | dsimp only)

theorem resumeHinge_keep (s : State) (f : ℕ)
    (hk : Fit qq s) :
    Fit qq (State.resumeHinge s f) := by
  unfold State.resumeHinge
  repeat' (first | with_reducible assumption | with_reducible apply each_keep | with_reducible apply setTxState_keep
                 | with_reducible apply modTx_keep | with_reducible apply enable_keep | with_reducible apply disable_keep
                 | split | intro _ | dsimp only)

theorem hingesLeft_keep (s : State)
    (hk : Fit qq s) :
    Fit qq (State.hingesLeft s) := by
  unfold State.hingesLeft
  repeat' (first | with_reducible assumption | with_reducible apply each_keep | with_reducible apply abortHinge_keep
                 | with_reducible apply resumeHinge_keep | split | intro _ | dsimp only)

theorem endStage_keep (s : State)
    (hk : Fit qq s) :
    Fit qq (State.endStage s) := by
  unfold State.endStage
  repeat' (first | with_reducible assumption | with_reducible apply complete_keep | with_reducible apply setWarden_keep
                 | simp only [fit_mk] | with_reducible apply fitMem_of_fit | split | dsimp only)

theorem endAttest_keep (s : State) (st : Status)
    (hk : Fit qq s) :
    Fit qq (State.endAttest s st) := by
  unfold State.endAttest
  repeat' (first | with_reducible assumption | with_reducible apply complete_keep | with_reducible apply setWarden_keep
                 | split | dsimp only)

theorem restartWarden_keep (s : State) (cause : ℕ)
    (hk : Fit qq s) :
    Fit qq (State.restartWarden s cause) := by
  unfold State.restartWarden
  repeat' (first | with_reducible assumption | with_reducible apply hingesLeft_keep | with_reducible apply endAttest_keep
                 | with_reducible apply endStage_keep | simp only [fit_mk] | with_reducible apply fitMem_of_fit
                 | dsimp only)

theorem execWatchdogRestart_keep (s : State)
    (hk : Fit qq s) :
    FitO qq (execWatchdogRestart s) := by
  unfold execWatchdogRestart
  repeat' (first | with_reducible assumption | with_reducible apply next_keep | with_reducible apply act_keep
                 | with_reducible apply restartWarden_keep | intro _ | dsimp only)

theorem execWardenRestart_keep (s : State)
    (hk : Fit qq s) :
    FitO qq (execWardenRestart s) := by
  unfold execWardenRestart
  repeat' (first | with_reducible assumption | with_reducible apply next_keep | with_reducible apply act_keep
                 | with_reducible apply setWarden_keep | with_reducible apply raise_keep | with_reducible apply log_keep
                 | split | intro _ | dsimp only)

theorem flushLog_keep (s : State)
    (hk : Fit qq s) :
    Fit qq (State.flushLog s) := by
  unfold State.flushLog
  repeat' (first | with_reducible assumption | with_reducible apply each_keep | with_reducible apply logDropped_keep
                 | with_reducible apply setWarden_keep | intro _ | dsimp only)

theorem execLogFlush_keep (s : State)
    (hk : Fit qq s) :
    FitO qq (execLogFlush s) := by
  unfold execLogFlush
  repeat' (first | with_reducible assumption | with_reducible apply next_keep | with_reducible apply act_keep
                 | with_reducible apply flushLog_keep | intro _ | dsimp only)

theorem execLogRead_keep (o : Origin) (entry : ℕ) (count : ℕ) (dst : W64) (s : State)
    (hk : Fit qq s) :
    FitO qq (execLogRead o entry count dst s) := by
  unfold execLogRead
  repeat' (first | with_reducible assumption | with_reducible apply next_keep | with_reducible apply proxy_keep
                 | with_reducible apply commandLong_keep | with_reducible apply startJob_keep | intro _ | dsimp only)

theorem stored_keep (s : State) (a : Nat)
    (hk : Fit qq s) :
    Fit qq (State.stored s a) := by
  unfold State.stored
  split
  · exact hk
  · split
    · exact setWarden_keep s _ hk
    · split
      · exact setWarden_keep s _ hk
      · split
        · exact hk
        · exact hk

theorem execStoreWrite_keep (area : ℕ) (firstOk : Bool) (secondOk : Bool) (s : State)
    (hk : Fit qq s) :
    FitO qq (execStoreWrite area firstOk secondOk s) := by
  unfold execStoreWrite
  repeat' (first | with_reducible assumption | with_reducible apply next_keep | with_reducible apply act_keep
                 | with_reducible apply writeArea_keep | with_reducible apply stored_keep | split | intro _ | dsimp only)

theorem execRepairRecord_keep (s : State)
    (hk : Fit qq s) :
    FitO qq (execRepairRecord s) := by
  unfold execRepairRecord
  repeat' (first | with_reducible assumption | with_reducible apply next_keep | with_reducible apply act_keep
                 | with_reducible apply writeArea_keep | with_reducible apply stored_keep | intro _ | dsimp only)

theorem sensor_keep (s : State) (kind : Nat) (index : Nat)
    (hk : Fit qq s) :
    Fit qq (State.sensor s kind index).2.2 := by
  unfold State.sensor
  repeat' (first | with_reducible assumption | with_reducible apply draw_keep | split | intro _ | dsimp only)

theorem execSensorRead_keep (o : Origin) (kind : ℕ) (index : ℕ) (s : State)
    (hk : Fit qq s) :
    FitO qq (execSensorRead o kind index s) := by
  unfold execSensorRead
  repeat' (first | with_reducible assumption | with_reducible apply next_keep | with_reducible apply proxy_keep
                 | with_reducible apply command_keep | with_reducible apply sensor_keep | intro _ | dsimp only)

theorem execPowerMode_keep (o : Origin) (mode : ℕ) (setLimit : Bool) (setCap : Bool) (limit : ℕ) (cap : ℕ) (s : State)
    (hk : Fit qq s) :
    FitO qq (execPowerMode o mode setLimit setCap limit cap s) := by
  unfold execPowerMode
  repeat' (first | with_reducible assumption | with_reducible apply next_keep | with_reducible apply proxy_keep
                 | with_reducible apply command_keep | simp only [fit_mk] | with_reducible apply fitMem_of_fit | split
                 | intro _ | dsimp only)

theorem logFw_keep (s : State) (event : ℕ) (slot : ℕ) (st : Status) (version : ℕ)
    (hk : Fit qq s) :
    Fit qq (State.logFw s event slot st version) := by
  unfold State.logFw
  repeat' (first | with_reducible assumption | with_reducible apply log_keep | split | dsimp only)

theorem execFwStage_keep (o : Origin) (src : W64) (len : ℕ) (s : State)
    (hk : Fit qq s) :
    FitO qq (execFwStage o src len s) := by
  unfold execFwStage
  repeat' (first | with_reducible assumption | with_reducible apply next_keep | with_reducible apply proxy_keep
                 | with_reducible apply commandLong_keep | with_reducible apply setWarden_keep
                 | with_reducible apply startJob_keep | intro _ | dsimp only)

theorem execFwStageDone_keep (s : State)
    (hk : Fit qq s) :
    FitO qq (execFwStageDone s) := by
  unfold execFwStageDone
  repeat' (first | with_reducible assumption | with_reducible apply next_keep | with_reducible apply act_keep
                 | with_reducible apply setWarden_keep | with_reducible apply complete_keep
                 | with_reducible apply logFw_keep | with_reducible apply writeArea_keep | simp only [fit_mk]
                 | with_reducible apply fitMem_of_fit | split | intro _ | dsimp only)

theorem execFwSwitch_keep (o : Origin) (action : ℕ) (s : State)
    (hk : Fit qq s) :
    FitO qq (execFwSwitch o action s) := by
  unfold execFwSwitch
  repeat' (first | with_reducible assumption | with_reducible apply next_keep | with_reducible apply proxy_keep
                 | with_reducible apply complete_keep | with_reducible apply setWarden_keep
                 | with_reducible apply logFw_keep | with_reducible apply writeArea_keep
                 | with_reducible apply restartWarden_keep | split | intro _ | dsimp only)

theorem checkAreas_keep (s : State)
    (hk : Fit qq s) :
    Fit qq (State.checkAreas s) := by
  unfold State.checkAreas
  repeat' (first | with_reducible assumption | with_reducible apply setWarden_keep | with_reducible apply each_keep
                 | with_reducible apply log_keep | with_reducible apply sense_keep | intro _ | dsimp only)

theorem execFirmwareBoot_keep (ready : Bool) (s : State)
    (hk : Fit qq s) :
    FitO qq (execFirmwareBoot ready s) := by
  unfold execFirmwareBoot
  repeat' (first | with_reducible assumption | with_reducible apply next_keep | with_reducible apply act_keep
                 | with_reducible apply setWarden_keep | with_reducible apply checkAreas_keep
                 | with_reducible apply log_keep | with_reducible apply logFw_keep | split | intro _ | dsimp only)

theorem reserve_keep (s : State)
    (hk : Fit qq s) :
    Fit qq (State.reserve s) := by
  unfold State.reserve
  repeat' (first | with_reducible assumption | with_reducible apply setWarden_keep | with_reducible apply sense_keep
                 | with_reducible apply writeArea_keep | split | dsimp only)

theorem execAttest_keep (o : Origin) (dst : W64) (nonce : List Byte) (s : State)
    (hk : Fit qq s) :
    FitO qq (execAttest o dst nonce s) := by
  unfold execAttest
  repeat' (first | with_reducible assumption | with_reducible apply next_keep | with_reducible apply proxy_keep
                 | with_reducible apply commandLong_keep | with_reducible apply setWarden_keep
                 | with_reducible apply reserve_keep | intro _ | dsimp only)

theorem execAttestComplete_keep (s : State)
    (hk : Fit qq s) :
    FitO qq (execAttestComplete s) := by
  unfold execAttestComplete
  repeat' (first | with_reducible assumption | with_reducible apply next_keep | with_reducible apply act_keep
                 | with_reducible apply setWarden_keep | with_reducible apply startJob_keep | split | intro _
                 | dsimp only)

theorem wipe_keep (s : State)
    (hk : Fit qq s) :
    Fit qq (State.wipe s) := by
  unfold State.wipe
  repeat' (first | with_reducible assumption | with_reducible apply setWarden_keep | with_reducible apply leaveGroup_keep
                 | dsimp only)

theorem readToken_keep (s : State) (a : ℕ)
    (hk : Fit qq s) :
    Fit qq (State.readToken s a).2.2 := by
  unfold State.readToken
  repeat' (first | with_reducible assumption | simp only [fit_mk] | with_reducible apply fitMem_of_fit | split
                 | dsimp only)

theorem changeLife_keep (s : State) (o : Origin) (target : ℕ)
    (hk : Fit qq s) :
    Fit qq (State.changeLife s o target) := by
  unfold State.changeLife
  repeat' (first | with_reducible assumption | with_reducible apply log_keep | with_reducible apply wipe_keep
                 | with_reducible apply setWarden_keep | with_reducible apply restartWarden_keep
                 | with_reducible apply complete_keep | with_reducible apply each_keep
                 | with_reducible apply gateDie_keep | with_reducible apply modArea_keep
                 | with_reducible apply markArea_keep | split | intro _ | dsimp only)

theorem execLifecycleSet_keep (o : Origin) (target : ℕ) (token : W64) (s : State)
    (hk : Fit qq s) :
    FitO qq (execLifecycleSet o target token s) := by
  unfold execLifecycleSet
  repeat' (first | with_reducible assumption | with_reducible apply next_keep | with_reducible apply proxy_keep
                 | with_reducible apply complete_keep | with_reducible apply changeLife_keep
                 | with_reducible apply readToken_keep | split | intro _ | dsimp only)

theorem execTamper_keep (kind : ℕ) (s : State)
    (hk : Fit qq s) :
    FitO qq (execTamper kind s) := by
  unfold execTamper
  repeat' (first | with_reducible assumption | with_reducible apply next_keep | with_reducible apply act_keep
                 | with_reducible apply setWarden_keep | with_reducible apply wipe_keep
                 | with_reducible apply endAttest_keep | with_reducible apply restartWarden_keep | intro _ | dsimp only)

end Sys2Proof.Machine
end

