-- ==== Sys2Proof/Laws/KeepDrill.lean ====
section
/-! SUPPORT. The operations and meanings of Machine/Drill leave the queue alone and keep the memory's one form. -/

namespace Sys2Proof.Machine

set_option linter.unreachableTactic false
set_option linter.unusedTactic false
set_option linter.unusedSimpArgs false

variable {qq : List Instr}

theorem ran_keep {s : State} {o : Host.Outcome State Fault Refusal} (hk : Fit qq s) (h : FitO qq o) : Fit qq (ran s o) := by
  cases o
  · exact h _ rfl
  · exact hk
  · exact hk

theorem regwrCmd_keep (s : State) (o : Origin) (addr : ℕ) (data : W32)
    (hk : Fit qq s) :
    Fit qq (State.regwrCmd s o addr data) := by
  unfold State.regwrCmd
  repeat' (first | with_reducible assumption | with_reducible apply regWrite_keep | with_reducible apply complete_keep
                 | dsimp only)

theorem runCommand_keep (s : State) (o : Origin) (b : List Byte)
    (hk : Fit qq s) :
    Fit qq (State.runCommand s o b) := by
  unfold State.runCommand
  repeat' (first | with_reducible assumption | with_reducible apply ran_keep | with_reducible apply execNop_keep
                 | with_reducible apply execRingSet_keep | with_reducible apply execHopperSet_keep
                 | with_reducible apply execHopperClear_keep | with_reducible apply execCapRead_keep
                 | with_reducible apply execRegrd_keep | with_reducible apply regwrCmd_keep
                 | with_reducible apply execWarmReset_keep | with_reducible apply execFieldReset_keep
                 | with_reducible apply execFieldEnable_keep | with_reducible apply execDieReset_keep
                 | with_reducible apply draw_keep | with_reducible apply execDieRejoin_keep
                 | with_reducible apply execCoreReset_keep | with_reducible apply execPortReset_keep
                 | with_reducible apply execMasterTakeover_keep | with_reducible apply execMemCopy_keep
                 | with_reducible apply execMemFill_keep | with_reducible apply execCtxLaunch_keep
                 | with_reducible apply complete_keep | with_reducible apply execCtxStop_keep
                 | with_reducible apply execCtxResume_keep | with_reducible apply execSheafInit_keep
                 | with_reducible apply execSheafRead_keep | with_reducible apply execSheafAdd_keep
                 | with_reducible apply execRmapSet_keep | with_reducible apply execRmapBolt_keep
                 | with_reducible apply execPlatSet_keep | with_reducible apply execPlatGet_keep
                 | with_reducible apply execPlatBolt_keep | with_reducible apply execHashSet_keep
                 | with_reducible apply execHashBolt_keep | with_reducible apply execCalSet_keep
                 | with_reducible apply execCalDset_keep | with_reducible apply execCalGet_keep
                 | with_reducible apply execSowSet_keep | with_reducible apply execSowCancel_keep
                 | with_reducible apply execFtResync_keep | with_reducible apply execBistRun_keep
                 | with_reducible apply execBistResult_keep | with_reducible apply execLoopbackRun_keep | split
                 | dsimp only)

theorem perform_keep (s : State) (o : Origin) (b : List Byte)
    (hk : Fit qq s) :
    Fit qq (State.perform s o b) := by
  unfold State.perform
  repeat' (first | with_reducible assumption | with_reducible apply complete_keep | with_reducible apply runCommand_keep
                 | simp only [fit_mk] | with_reducible apply fitMem_of_fit | split | dsimp only)

theorem startMbox_keep (s : State)
    (hk : Fit qq s) :
    Fit qq (State.startMbox s) := by
  unfold State.startMbox
  repeat' (first | with_reducible assumption | with_reducible apply perform_keep | simp only [fit_mk]
                 | with_reducible apply fitMem_of_fit | split | dsimp only)

theorem execRegwr_keep (o : Origin) (addr : ℕ) (data : W32) (s : State)
    (hk : Fit qq s) :
    FitO qq (execRegwr o addr data s) := by
  unfold execRegwr
  repeat' (first | with_reducible assumption | with_reducible apply next_keep | with_reducible apply startMbox_keep
                 | with_reducible apply regwrCmd_keep | dsimp only)

theorem execRegisterWrite_keep (via : Path) (addr : ℕ) (data : W32) (s : State)
    (hk : Fit qq s) :
    FitO qq (execRegisterWrite via addr data s) := by
  unfold execRegisterWrite
  repeat' (first | with_reducible assumption | with_reducible apply next_keep | with_reducible apply act_keep
                 | with_reducible apply startMbox_keep | with_reducible apply regWrite_keep | intro _ | dsimp only)

theorem execCmdMboxGo_keep (via : Via) (s : State)
    (hk : Fit qq s) :
    FitO qq (execCmdMboxGo via s) := by
  unfold execCmdMboxGo
  repeat' (first | with_reducible assumption | with_reducible apply next_keep | with_reducible apply startMbox_keep
                 | with_reducible apply regWrite_keep | dsimp only)

theorem sendRegData_keep (s : State) (st : Status) (data : W32)
    (hk : Fit qq s) :
    Fit qq (State.sendRegData s st data) := by
  unfold State.sendRegData
  repeat' (first | with_reducible assumption | with_reducible apply toPort_keep | dsimp only)

theorem execRegacc_keep (s : State)
    (hk : Fit qq s) :
    FitO qq (execRegacc s) := by
  unfold execRegacc
  repeat' (first | with_reducible assumption | with_reducible apply next_keep | with_reducible apply act_keep
                 | with_reducible apply sendRegData_keep | with_reducible apply regWrite_keep
                 | with_reducible apply startMbox_keep | with_reducible apply regRead_keep
                 | with_reducible refine takeCtl_keep ‹_› ?_ | split | intro _ | dsimp only)

theorem misaddressed_keep (s : State) (p : ℕ)
    (hk : Fit qq s) :
    Fit qq (State.misaddressed s p) := by
  unfold State.misaddressed
  repeat' (first | with_reducible assumption | with_reducible apply modPort_keep | dsimp only)

theorem append_keep (s : State) (c : HeldCmd)
    (hk : Fit qq s) :
    Fit qq (State.append s c) := by
  unfold State.append
  repeat' (first | with_reducible assumption | with_reducible apply modHopper_keep | with_reducible apply raise_keep
                 | split | dsimp only)

theorem turnAway_keep (s : State) (c : HeldCmd) (st : Status)
    (hk : Fit qq s) :
    Fit qq (State.turnAway s c st) := by
  unfold State.turnAway
  repeat' (first | with_reducible assumption | with_reducible apply sendRecord_keep | with_reducible apply modHopper_keep
                 | split | dsimp only)

theorem groupCommand_keep (s : State) (p : ℕ) (src : ℕ) (e : BitVec 16) (b : List Byte)
    (hk : Fit qq s) :
    Fit qq (State.groupCommand s p src e b) := by
  unfold State.groupCommand
  repeat' (first | with_reducible assumption | with_reducible apply misaddressed_keep | with_reducible apply append_keep
                 | with_reducible apply adoptEpoch_keep | with_reducible apply turnAway_keep | split | dsimp only)

theorem adapterCommand_keep (s : State) (pkt : Packet) (b : List Byte)
    (hk : Fit qq s) :
    Fit qq (State.adapterCommand s pkt b) := by
  unfold State.adapterCommand
  repeat' (first | with_reducible assumption | with_reducible apply misaddressed_keep
                 | with_reducible apply turnAway_keep | with_reducible apply append_keep
                 | with_reducible apply relay_keep | split | dsimp only)

theorem execCommand_keep (s : State)
    (hk : Fit qq s) :
    FitO qq (execCommand s) := by
  unfold execCommand
  repeat' (first | with_reducible assumption | with_reducible apply next_keep | with_reducible apply act_keep
                 | with_reducible apply adapterCommand_keep | with_reducible apply groupCommand_keep
                 | with_reducible refine takeCtl_keep ‹_› ?_ | split | intro _ | dsimp only)

theorem execHopperStart_keep (h : ℕ) (s : State)
    (hk : Fit qq s) :
    FitO qq (execHopperStart h s) := by
  unfold execHopperStart
  repeat' (first | with_reducible assumption | with_reducible apply next_keep | with_reducible apply act_keep
                 | with_reducible apply startMbox_keep | with_reducible apply perform_keep
                 | with_reducible apply modHopper_keep | split | intro _ | dsimp only)

end Sys2Proof.Machine
end

