-- ==== Sys2Proof/Laws/KeepPins.lean ====
section
/-! SUPPORT. The operations and meanings of Machine/Pins leave the queue alone and keep the memory's one form. -/

namespace Sys2Proof.Machine

set_option linter.unreachableTactic false
set_option linter.unusedTactic false
set_option linter.unusedSimpArgs false

variable {qq : List Instr}

theorem fresh_keep (s : State) (inc : Byte) (hk : Fit qq s) : Fit qq (s.fresh inc) := ⟨hk.1, rfl⟩

theorem poweredOn_keep (s : State)
    (hk : Fit qq s) :
    Fit qq (State.poweredOn s) := by
  unfold State.poweredOn
  repeat' (first | with_reducible assumption | with_reducible apply fresh_keep | with_reducible apply each_keep
                 | with_reducible apply modKd_keep | with_reducible apply modDie_keep
                 | with_reducible apply markArea_keep | split | intro _ | dsimp only)

theorem writeAll_keep (s : State)
    (hk : Fit qq s) :
    Fit qq (State.writeAll s) := by
  unfold State.writeAll
  repeat' (first | with_reducible assumption | with_reducible apply flushLog_keep | with_reducible apply each_keep
                 | with_reducible apply writeArea_keep | with_reducible apply stored_keep | intro _ | dsimp only)

theorem startStacks_keep (s : State)
    (hk : Fit qq s) :
    Fit qq (State.startStacks s) := by
  unfold State.startStacks
  repeat' (first | with_reducible assumption | with_reducible apply each_keep | with_reducible apply draw_keep
                 | with_reducible apply modHbm_keep | simp only [fit_mk] | with_reducible apply fitMem_of_fit | split
                 | intro _ | dsimp only)

theorem powerField_keep (s : State) (k : Nat) (cold : Bool)
    (hk : Fit qq s) :
    Fit qq (State.powerField s k cold) := by
  unfold State.powerField
  repeat' (first | with_reducible assumption | with_reducible apply modField_keep
                 | with_reducible apply acquireField_keep | simp only [fit_mk] | with_reducible apply fitMem_of_fit
                 | split | intro _ | dsimp only)

theorem execPoreset_keep (widthNs : Nat) (straps : Nat) (cold : List Nat) (s : State)
    (hk : Fit qq s) :
    FitO qq (execPoreset widthNs straps cold s) := by
  unfold execPoreset
  repeat' (first | with_reducible assumption | with_reducible apply next_keep | with_reducible apply act_keep
                 | with_reducible apply when_keep | with_reducible apply writeAll_keep
                 | with_reducible apply poweredOn_keep | with_reducible apply each_keep
                 | with_reducible apply powerField_keep | with_reducible apply startStacks_keep | simp only [fit_mk]
                 | with_reducible apply fitMem_of_fit | intro _ | dsimp only)

theorem execPowerLoss_keep (s : State)
    (hk : Fit qq s) :
    FitO qq (execPowerLoss s) := by
  unfold execPowerLoss
  repeat' (first | with_reducible assumption | with_reducible apply next_keep | with_reducible apply poweredOn_keep
                 | with_reducible apply setWarden_keep | dsimp only)

end Sys2Proof.Machine
end

