-- ==== Sys2Proof/Laws/Shared.lean ====
section
/-! SUPPORT. Everything the shared operations of notices, the log and completion can change, each said once. -/

namespace Sys2Proof.Safety

open Sys2Proof.Machine

theorem SameButSignals.refl (s : State) : SameButSignals s s := rfl

theorem SameButSignals.trans {a b c : State} (h : SameButSignals a b) (k : SameButSignals b c) : SameButSignals a c := by
  unfold SameButSignals at *
  rw [k, h]

theorem SameButSignals.fab {s t : State} (h : SameButSignals s t) : t.fab = s.fab := by rw [h]
theorem SameButSignals.bridge {s t : State} (h : SameButSignals s t) : t.bridge = s.bridge := by rw [h]
theorem SameButSignals.light {s t : State} (h : SameButSignals s t) : t.light = s.light := by rw [h]
theorem SameButSignals.mem {s t : State} (h : SameButSignals s t) : t.mem = s.mem := by rw [h]
theorem SameButSignals.cores {s t : State} (h : SameButSignals s t) : t.cores = s.cores := by rw [h]
theorem SameButSignals.ports {s t : State} (h : SameButSignals s t) : t.ports = s.ports := by rw [h]
theorem SameButSignals.power {s t : State} (h : SameButSignals s t) : t.power = s.power := by rw [h]
theorem SameButSignals.resets {s t : State} (h : SameButSignals s t) : t.resets = s.resets := by rw [h]
theorem SameButSignals.time {s t : State} (h : SameButSignals s t) : t.time = s.time := by rw [h]
theorem SameButSignals.plat {s t : State} (h : SameButSignals s t) : t.plat = s.plat := by rw [h]

theorem SameButRecord.refl (s : State) : SameButRecord s s := rfl

theorem SameButRecord.trans {a b c : State} (h : SameButRecord a b) (k : SameButRecord b c) : SameButRecord a c := by
  unfold SameButRecord at *
  rw [k, h]

theorem SameButSignals.record {s t : State} (h : SameButSignals s t) : SameButRecord s t := by
  unfold SameButSignals at h
  unfold SameButRecord
  rw [h]

end Sys2Proof.Safety

namespace Sys2Proof.Machine

open Sys2Proof.Safety

theorem latchPend_same (s : State) (src : Nat) : SameButSignals s (s.latchPend src) := rfl
theorem draw_same (s : State) : SameButSignals s s.draw := rfl
theorem logAdd_same (s : State) (c v u : Nat) (l : List Byte) : SameButSignals s (s.logAdd c v u l) := rfl

theorem logDropped_same (s : State) (code : Nat) : SameButSignals s (s.logDropped code) := by
  unfold State.logDropped
  dsimp only
  split
  · exact rfl
  · exact rfl

theorem log_same (s : State) (code sev u : Nat) (l : List Byte) : SameButSignals s (s.log code sev u l) := by
  unfold State.log
  dsimp only
  split
  · exact (logDropped_same s code).trans rfl
  · exact (logDropped_same s code).trans rfl

theorem logRise_same (s : State) (src : Nat) : SameButSignals s (s.logRise src) :=
  (log_same s _ _ _ _).trans rfl

/-- An event that is raised changes nothing but pending sources, the log and the draws. -/
theorem raise_same (s : State) (src : Nat) : SameButSignals s (s.raise src) := by
  unfold State.raise
  dsimp only
  split
  · exact latchPend_same s src
  · exact (latchPend_same s src).trans (logRise_same _ src)

/-- A condition that is sensed changes nothing but pending sources, the log and the draws. -/
theorem sense_same (s1 : State) (src : Nat) (s0 : State) : SameButSignals s1 (s1.sense src s0) := by
  have h : ∀ (c : Bool), SameButSignals s1 (if c then s1.latchPend src else s1) := by
    intro c
    cases c
    · exact rfl
    · exact latchPend_same s1 src
  unfold State.sense
  dsimp only
  split
  · exact (h _).trans (logRise_same _ src)
  · exact h _

theorem capSense_same (s1 : State) (parts : List Nat) (s0 : State) : SameButSignals s1 (s1.capSense parts s0) := by
  unfold State.capSense
  split
  · exact raise_same s1 _
  · exact rfl

theorem queueRecord_same (s : State) (r : Record) : SameButRecord s (s.queueRecord r) := rfl

theorem freeHopper_same (s : State) (o : Origin) : SameButRecord s (s.freeHopper o) := by
  unfold State.freeHopper
  split
  · exact rfl
  · exact rfl

/-- A command that completes changes nothing but the host bridge and what a notice leaves behind. -/
theorem complete_same (s : State) (o : Origin) (opcode : Nat) (st : Status) (res : List Byte) :
    SameButRecord s (s.complete o opcode st res) := by
  unfold State.complete
  dsimp only
  split
  · exact rfl
  · refine SameButRecord.trans ?_ (freeHopper_same _ o)
    split
    · exact rfl
    · exact (queueRecord_same s _).trans (sense_same _ _ s).record

/-- A command that its checks turn away completes with the first status that holds, and has no other effect. -/
theorem command_turned_away {s : State} {checks : List (Bool × Status)} {st : Status} (h : firstFail checks = some st)
    (o : Origin) (opcode : Nat) (eff : State → State × List Byte) :
    s.command o opcode checks eff = s.complete o opcode st [] := by simp [State.command, h]

/-- A command that its checks pass has its effect and completes DONE. -/
theorem command_passes {s : State} {checks : List (Bool × Status)} (h : firstFail checks = none)
    (o : Origin) (opcode : Nat) (eff : State → State × List Byte) :
    s.command o opcode checks eff = (eff s).1.complete o opcode .done (eff s).2 := by simp [State.command, h]

theorem commandLong_turned_away {s : State} {checks : List (Bool × Status)} {st : Status}
    (h : firstFail checks = some st) (o : Origin) (opcode : Nat) (eff : State → State) :
    s.commandLong o opcode checks eff = s.complete o opcode st [] := by simp [State.commandLong, h]

theorem commandLong_passes {s : State} {checks : List (Bool × Status)} (h : firstFail checks = none)
    (o : Origin) (opcode : Nat) (eff : State → State) : s.commandLong o opcode checks eff = eff s := by
  simp [State.commandLong, h]

/-- A proxy command that the Warden takes up, as it serves and signs nothing and its life-cycle state allows it. -/
theorem proxy_takes_up {s : State} {opcode : Nat} (h1 : s.warden.serving = true) (h2 : s.warden.attest = none)
    (h3 : s.lifeRefuses opcode = false) (o : Origin) (f : State → State) :
    proxy o opcode false s f = .next (f (s.takeProxy o)) := by
  have h4 : (s.warden.serving && s.warden.attest.isNone) = true := by simp [h1, h2]
  simp only [proxy, act, h4, if_true, Bool.false_eq_true, if_false, h3]

/-- A proxy command that the life-cycle state refuses completes with WRONG_STATE and changes nothing else. -/
theorem proxy_refused {s : State} {opcode : Nat} (h1 : s.warden.serving = true) (h2 : s.warden.attest = none)
    (h3 : s.lifeRefuses opcode = true) (o : Origin) (f : State → State) :
    proxy o opcode false s f = .next ((s.takeProxy o).complete o opcode .wrongState []) := by
  have h4 : (s.warden.serving && s.warden.attest.isNone) = true := by simp [h1, h2]
  simp only [proxy, act, h4, if_true, Bool.false_eq_true, if_false, h3]

/-! ### Bits of the sources, and what is pending -/

theorem setBit512_self (v : BitVec 512) {i : Nat} (h : i < 512) : (setBit512 v i true).getLsbD i = true := by
  simp [setBit512, h]

theorem setBit512_clear (v : BitVec 512) (i : Nat) : (setBit512 v i false).getLsbD i = false := by
  by_cases h : i < 512 <;> simp [setBit512, h]

theorem setBit512_ne (v : BitVec 512) {i j : Nat} (b : Bool) (h : j ≠ i) : (setBit512 v i b).getLsbD j = v.getLsbD j := by
  have key : (1#512 <<< i).getLsbD j = false := by
    simp only [BitVec.getLsbD_shiftLeft, BitVec.getLsbD_one]
    by_cases h1 : j < i
    · simp [h1]
    · have : j - i ≠ 0 := by omega
      simp [this]
  by_cases hj : j < 512
  · cases b <;> simp [setBit512, hj] <;> intros <;> omega
  · rw [BitVec.getLsbD_of_ge _ _ (by omega), BitVec.getLsbD_of_ge _ _ (by omega)]

@[simp] theorem log_notices (s : State) (code sev u : Nat) (l : List Byte) : (s.log code sev u l).notices = s.notices := by
  unfold State.log State.logDropped
  dsimp only
  repeat' split
  all_goals rfl

@[simp] theorem logRise_notices (s : State) (src : Nat) : (s.logRise src).notices = s.notices := by
  simp [State.logRise]

theorem latchPend_pend (s : State) {src : Nat} (h : src < 512) : (s.latchPend src).notices.pend.getLsbD src = true :=
  setBit512_self _ h

/-- A source that an event raises is pending after it. -/
theorem raise_pend (s : State) {src : Nat} (h : src < 512) : (s.raise src).notices.pend.getLsbD src = true := by
  unfold State.raise
  dsimp only
  split
  · exact latchPend_pend s h
  · rw [logRise_notices]
    exact latchPend_pend s h

/-- A source that was pending stays pending when another is raised. -/
theorem raise_keeps_pend (s : State) (src i : Nat) (h : s.notices.pend.getLsbD i = true) :
    (s.raise src).notices.pend.getLsbD i = true := by
  have hl : (s.latchPend src).notices.pend.getLsbD i = true := by
    by_cases hi : i = src
    · subst hi
      have : i < 512 := by
        by_contra hc
        rw [BitVec.getLsbD_of_ge _ _ (by omega)] at h
        cases h
      exact latchPend_pend s this
    · exact (setBit512_ne _ true hi).trans h
  unfold State.raise
  dsimp only
  split
  · exact hl
  · rw [logRise_notices]
    exact hl

theorem stUp_lt {s : State} {st : Nat} (h : s.stUp st = true) : st < 14 := by
  unfold State.stUp at h
  exact of_decide_eq_true ((Bool.and_eq_true _ _).mp h).1

/-! ### Lists of changes -/

/-- What a list of things put on the links adds. -/
theorem each_emit {α : Type} (l : List α) (f : α → Out) (s : State) :
    each l (fun x s => s.emit (f x)) s = { s with out := s.out ++ l.map f } := by
  induction l generalizing s with
  | nil => simp [each]
  | cons a r ih =>
    have h := ih (s.emit (f a))
    simp only [each, List.foldl_cons] at h ⊢
    rw [h]
    simp [State.emit]

theorem each_nil {α : Type} (f : α → State → State) (s : State) : each [] f s = s := rfl
theorem each_cons {α : Type} (a : α) (l : List α) (f : α → State → State) (s : State) :
    each (a :: l) f s = each l f (f a s) := rfl

/-- What every change of a list keeps, the list keeps. -/
theorem each_inv {α : Type} (P : State → Prop) (l : List α) (f : α → State → State) {s : State} (h : P s)
    (hf : ∀ a s, P s → P (f a s)) : P (each l f s) := by
  induction l generalizing s with
  | nil => exact h
  | cons a r ih => exact ih (hf a s h)

end Sys2Proof.Machine
end

