-- ==== Sys2Proof/Laws/Signals.lean ====
section
/-! SUPPORT. A change of a part of the state carries over to states that differ in what notices leave behind only. -/

namespace Sys2Proof.Safety

open Sys2Proof.Machine

variable {s t : State}

theorem SameButSignals.modTx (h : SameButSignals s t) (a b : Nat) (f : TxGroup → TxGroup) : SameButSignals (s.modTx a b f) (t.modTx a b f) := by
  rw [h]
  rfl

theorem SameButSignals.modRx (h : SameButSignals s t) (a b : Nat) (f : RxGroup → RxGroup) : SameButSignals (s.modRx a b f) (t.modRx a b f) := by
  rw [h]
  rfl

theorem SameButSignals.modSta (h : SameButSignals s t) (a : Nat) (f : Station → Station) : SameButSignals (s.modSta a f) (t.modSta a f) := by
  rw [h]
  rfl

theorem SameButSignals.modRing (h : SameButSignals s t) (a : RingId) (f : Ring → Ring) : SameButSignals (s.modRing a f) (t.modRing a f) := by
  rw [h]
  rfl

theorem SameButSignals.modFeed (h : SameButSignals s t) (a : Nat) (f : Feed → Feed) : SameButSignals (s.modFeed a f) (t.modFeed a f) := by
  rw [h]
  rfl

theorem SameButSignals.modEls (h : SameButSignals s t) (a : Nat) (f : Els → Els) : SameButSignals (s.modEls a f) (t.modEls a f) := by
  rw [h]
  rfl

theorem SameButSignals.modHbm (h : SameButSignals s t) (a : Nat) (f : Hbm → Hbm) : SameButSignals (s.modHbm a f) (t.modHbm a f) := by
  rw [h]
  rfl

theorem SameButSignals.modMs (h : SameButSignals s t) (a : Nat) (f : MemStation → MemStation) : SameButSignals (s.modMs a f) (t.modMs a f) := by
  rw [h]
  rfl

theorem SameButSignals.modKd (h : SameButSignals s t) (a : Nat) (f : CacheDie → CacheDie) : SameButSignals (s.modKd a f) (t.modKd a f) := by
  rw [h]
  rfl

theorem SameButSignals.modCoil (h : SameButSignals s t) (a b : Nat) (f : Coil → Coil) : SameButSignals (s.modCoil a b f) (t.modCoil a b f) := by
  rw [h]
  rfl

theorem SameButSignals.modCore (h : SameButSignals s t) (a : Nat) (f : CoreUnit → CoreUnit) : SameButSignals (s.modCore a f) (t.modCore a f) := by
  rw [h]
  rfl

theorem SameButSignals.modCtx (h : SameButSignals s t) (a b : Nat) (f : Ctx → Ctx) : SameButSignals (s.modCtx a b f) (t.modCtx a b f) := by
  rw [h]
  rfl

theorem SameButSignals.modEng (h : SameButSignals s t) (a b : Nat) (f : Engine → Engine) : SameButSignals (s.modEng a b f) (t.modEng a b f) := by
  rw [h]
  rfl

theorem SameButSignals.setToken (h : SameButSignals s t) (a b v : Nat) : SameButSignals (s.setToken a b v) (t.setToken a b v) := by
  rw [h]
  rfl

theorem SameButSignals.modSow (h : SameButSignals s t) (a : Nat) (f : List SowEntry → List SowEntry) : SameButSignals (s.modSow a f) (t.modSow a f) := by
  rw [h]
  rfl

theorem SameButSignals.modSheaf (h : SameButSignals s t) (a : Nat) (f : Sheaf → Sheaf) : SameButSignals (s.modSheaf a f) (t.modSheaf a f) := by
  rw [h]
  rfl

theorem SameButSignals.modBank (h : SameButSignals s t) (a : Nat) (f : Bank → Bank) : SameButSignals (s.modBank a f) (t.modBank a f) := by
  rw [h]
  rfl

theorem SameButSignals.modPort (h : SameButSignals s t) (a : Nat) (f : Port → Port) : SameButSignals (s.modPort a f) (t.modPort a f) := by
  rw [h]
  rfl

theorem SameButSignals.modWin (h : SameButSignals s t) (a : Nat) (f : PeerWin → PeerWin) : SameButSignals (s.modWin a f) (t.modWin a f) := by
  rw [h]
  rfl

theorem SameButSignals.modSend (h : SameButSignals s t) (a : Nat) (f : PeerSend → PeerSend) : SameButSignals (s.modSend a f) (t.modSend a f) := by
  rw [h]
  rfl

theorem SameButSignals.modHopper (h : SameButSignals s t) (a : Nat) (f : Hopper → Hopper) : SameButSignals (s.modHopper a f) (t.modHopper a f) := by
  rw [h]
  rfl

theorem SameButSignals.modCring (h : SameButSignals s t) (a : Nat) (f : CmdRing → CmdRing) : SameButSignals (s.modCring a f) (t.modCring a f) := by
  rw [h]
  rfl

theorem SameButSignals.queueRecord (h : SameButSignals s t) (r : Record) : SameButSignals (s.queueRecord r) (t.queueRecord r) := by
  rw [h]
  rfl

theorem SameButSignals.dropWrite (h : SameButSignals s t) (p : Path) (a : Nat) (st : Status) : SameButSignals (s.dropWrite p a st) (t.dropWrite p a st) := by
  rw [h]
  rfl

theorem SameButSignals.takeProxy (h : SameButSignals s t) (o : Origin) : SameButSignals (s.takeProxy o) (t.takeProxy o) := by
  rw [h]
  rfl

theorem SameButSignals.unpost (h : SameButSignals s t) (u : SlowUnit) : SameButSignals (s.unpost u) (t.unpost u) := by
  rw [h]
  rfl

theorem SameButSignals.modBond (h : SameButSignals s t) (a b : Nat) (f : Bond → Bond) : SameButSignals (s.modBond a b f) (t.modBond a b f) := by
  rw [h]
  rfl

theorem SameButSignals.modRegion (h : SameButSignals s t) (a : Nat) (f : Region → Region) : SameButSignals (s.modRegion a f) (t.modRegion a f) := by
  rw [h]
  rfl

theorem SameButSignals.modDiePower (h : SameButSignals s t) (a : Nat) (f : DiePower → DiePower) : SameButSignals (s.modDiePower a f) (t.modDiePower a f) := by
  rw [h]
  rfl

theorem SameButSignals.modField (h : SameButSignals s t) (a : Nat) (f : FieldUnit → FieldUnit) : SameButSignals (s.modField a f) (t.modField a f) := by
  rw [h]
  rfl

theorem SameButSignals.modDie (h : SameButSignals s t) (a : Nat) (f : DieUnit → DieUnit) : SameButSignals (s.modDie a f) (t.modDie a f) := by
  rw [h]
  rfl

theorem SameButSignals.modArea (h : SameButSignals s t) (a : Nat) (f : Area → Area) : SameButSignals (s.modArea a f) (t.modArea a f) := by
  rw [h]
  rfl

theorem SameButSignals.markArea (h : SameButSignals s t) (a : Nat) : SameButSignals (s.markArea a) (t.markArea a) := by
  rw [h]
  rfl

theorem SameButSignals.sampled (h : SameButSignals s t) (a b : Nat) : SameButSignals (s.sampled a b) (t.sampled a b) := by
  rw [h]
  rfl

theorem SameButSignals.sowResult (h : SameButSignals s t) (k : Nat) (w : BitVec 16) (i : Nat) (st : Status) : SameButSignals (s.sowResult k w i st) (t.sowResult k w i st) := by
  rw [h]
  rfl

theorem SameButSignals.wrMem (h : SameButSignals s t) (a : Nat) (l : List Byte) : SameButSignals (s.wrMem a l) (t.wrMem a l) := by
  rw [h]
  rfl

theorem SameButSignals.setPoison (h : SameButSignals s t) (a : Nat) (p : Bool) : SameButSignals (s.setPoison a p) (t.setPoison a p) := by
  rw [h]
  rfl

theorem SameButSignals.emit (h : SameButSignals s t) (o : Out) : SameButSignals (s.emit o) (t.emit o) := by
  rw [h]
  rfl

end Sys2Proof.Safety
end

