-- ==== Sys2Proof/Laws/Wire.lean ====
section
/-! SUPPORT. Laws of grains: a grain made of its fields carries those fields, and its CRC holds. -/

namespace Sys2Proof.Machine

theorem isTx_lt {st g : Nat} (h : isTx st g = true) : g < 64 := by
  have h1 : g < numTx st := of_decide_eq_true h
  have h2 : numTx st ≤ 48 := by
    unfold numTx
    repeat' split
    all_goals omega
  omega

theorem b2n_le (b : Bool) : b2n b ≤ 1 := by cases b <;> decide

theorem b2n_eq_one (b : Bool) : (b2n b == 1) = b := by cases b <;> rfl

/-- Where the fields of a control word stand, as numbers (R32). -/
theorem ctl_fields (q ty st rp la w l c : Nat) (hq : q < 4096) (hty : ty < 4) (hst : st < 16) (hrp : rp ≤ 1) (hla : la ≤ 1)
    (hw : w < 16) (hl : l < 64) (hc : c < 4294967296) :
    let n := (q * 1048576 + ty * 262144 + st * 16384 + rp * 8192 + la * 4096 + w * 256 + l * 4) * 4294967296 + c
    n < 18446744073709551616 ∧ n / 4503599627370496 % 4096 = q ∧ n / 1125899906842624 % 4 = ty ∧
    n / 70368744177664 % 16 = st ∧ n / 35184372088832 % 2 = rp ∧ n / 17592186044416 % 2 = la ∧
    n / 1099511627776 % 16 = w ∧ n / 17179869184 % 64 = l ∧ n % 4294967296 = c ∧
    n / 4294967296 = q * 1048576 + ty * 262144 + st * 16384 + rp * 8192 + la * 4096 + w * 256 + l * 4 := by
  dsimp only
  refine ⟨?_, ?_, ?_, ?_, ?_, ?_, ?_, ?_, ?_, ?_⟩ <;> omega

/-- A grain made of its fields carries them (R32). -/
theorem mkGrain_fields (p : List Byte) (q : BitVec 12) {ty st w l : Nat} (rpl last : Bool) (hty : ty < 4) (hst : st < 16)
    (hw : w < 16) (hl : l < 64) :
    gSeq (mkGrain p q ty st rpl last w l) = q ∧ gType (mkGrain p q ty st rpl last w l) = ty ∧
    gStart (mkGrain p q ty st rpl last w l) = st ∧ gRpl (mkGrain p q ty st rpl last w l) = rpl ∧
    gLast (mkGrain p q ty st rpl last w l) = last ∧ gWst (mkGrain p q ty st rpl last w l) = w ∧
    gWlg (mkGrain p q ty st rpl last w l) = l ∧ (ty ≠ 3 → grainOk (mkGrain p q ty st rpl last w l) = true) := by
  have hm : ∀ n c : Nat, c < 2 ^ 32 → n * 2 ^ 32 + c < 2 ^ 64 →
      (BitVec.ofNat 64 (n * 2 ^ 32 + c)).toNat = n * 2 ^ 32 + c := fun n c _ h => by
    rw [BitVec.toNat_ofNat, Nat.mod_eq_of_lt h]
  have hi : q.toNat * 2 ^ 20 + (ty % 4) * 2 ^ 18 + (st % 16) * 2 ^ 14 + b2n rpl * 2 ^ 13 + b2n last * 2 ^ 12
      + (w % 16) * 2 ^ 8 + (l % 64) * 2 ^ 2
      = q.toNat * 1048576 + ty * 262144 + st * 16384 + b2n rpl * 8192 + b2n last * 4096 + w * 256 + l * 4 := by
    rw [Nat.mod_eq_of_lt hty, Nat.mod_eq_of_lt hst, Nat.mod_eq_of_lt hw, Nat.mod_eq_of_lt hl]
    norm_num
  have hc := (grainCrc p (q.toNat * 1048576 + ty * 262144 + st * 16384 + b2n rpl * 8192 + b2n last * 4096 + w * 256 + l * 4)).isLt
  obtain ⟨k0, k1, k2, k3, k4, k5, k6, k7, k8, k9⟩ := ctl_fields q.toNat ty st (b2n rpl) (b2n last) w l _ q.isLt hty hst
    (b2n_le rpl) (b2n_le last) hw hl hc
  have ht : (mkGrain p q ty st rpl last w l).ctl.toNat
      = (q.toNat * 1048576 + ty * 262144 + st * 16384 + b2n rpl * 8192 + b2n last * 4096 + w * 256 + l * 4) * 4294967296
        + (grainCrc p (q.toNat * 1048576 + ty * 262144 + st * 16384 + b2n rpl * 8192 + b2n last * 4096 + w * 256
          + l * 4)).toNat := by
    simp only [mkGrain]
    rw [hi]
    exact hm _ _ hc k0
  have hp : (mkGrain p q ty st rpl last w l).payload = p := rfl
  refine ⟨?_, ?_, ?_, ?_, ?_, ?_, ?_, ?_⟩
  · have : gSeq (mkGrain p q ty st rpl last w l) = BitVec.ofNat 12 q.toNat := by
      simp only [gSeq, bits, ht]
      exact congrArg _ k1
    simpa using this
  · simp only [gType, bits, ht]
    exact k2
  · simp only [gStart, bits, ht]
    exact k3
  · simp only [gRpl, bit, ht]
    rw [show (2 : Nat) ^ 45 = 35184372088832 from rfl, k4, b2n_eq_one]
  · simp only [gLast, bit, ht]
    rw [show (2 : Nat) ^ 44 = 17592186044416 from rfl, k5, b2n_eq_one]
  · simp only [gWst, bits, ht]
    exact k6
  · simp only [gWlg, bits, ht]
    exact k7
  · intro h3
    have e1 : gType (mkGrain p q ty st rpl last w l) = ty := by
      simp only [gType, bits, ht]
      exact k2
    have e2 : gCrc (mkGrain p q ty st rpl last w l)
        = grainCrc p (q.toNat * 1048576 + ty * 262144 + st * 16384 + b2n rpl * 8192 + b2n last * 4096 + w * 256 + l * 4) := by
      have : gCrc (mkGrain p q ty st rpl last w l) = BitVec.ofNat 32 (grainCrc p
          (q.toNat * 1048576 + ty * 262144 + st * 16384 + b2n rpl * 8192 + b2n last * 4096 + w * 256 + l * 4)).toNat := by
        simp only [gCrc, bits, ht]
        refine congrArg _ ?_
        rw [show (2 : Nat) ^ 0 = 1 from rfl, Nat.div_one]
        exact k8
      simpa using this
    unfold grainOk
    rw [e1, e2, ht, hp, show (2 : Nat) ^ 32 = 4294967296 from rfl, k9]
    simpa using h3

end Sys2Proof.Machine
end

