-- ==== Sys2Proof/WellFormed.lean ====
section
/-! DEFINITION. Which commands can come about: an event row names units that the part has, and a host command's
parameters are what the bytes of R424 can hold. A meaning takes any command; one that is not well formed is sent by
nobody (log entry 2). -/

namespace Sys2Proof

open Sys2Proof.Machine

/-- A station (R27). -/
def isSt (s : Nat) : Bool := decide (s < nSt)

/-- A command comes from one of 64 hoppers or the mailbox (R419, R435). -/
def originWf (o : Origin) : Bool := o.mbox || decide (o.hopper < 64)

/-- A ring of a lane group of the base (R110). -/
def ringWf (r : RingId) : Bool :=
  decide (r.lane < 8) && match r.kind with
    | .modulator => isTx r.st r.grp
    | .selector => isRx r.st r.grp
    | .loopback => decide (r.st < nSt) && r.grp == 0

/-- A place where a temperature is read (R511). -/
def thermWf : ThermLoc → Bool
  | .cd n => decide (n < 8)
  | .kd n => decide (n < 8)
  | .field k => decide (k < 4)
  | .hbm h => decide (h < 12)

/-- A unit that sleeps (R498). -/
def sleepWf : SleepUnit → Bool
  | .core c => decide (c < 64)
  | .die d => decide (d < 8)
  | .group st g => isSownTx st g
  | .port p => decide (p < 16)

/-- A unit that takes posted writes (R453). -/
def slowWf : SlowUnit → Bool
  | .kd n => decide (n < 8)
  | .port p => decide (p < 16)
  | .ls => true
  | .pwr => true
  | .thm => true
  | .wd => true

/-- A unit of a sow table (R345). -/
def tableWf : SowTable → Nat → Bool
  | .core, u => decide (u < 64)
  | .station, u => isSt u
  | .port, u => decide (u < 16)

/-- A place where parity is kept (R448). -/
def parityWf : ParityAt → Bool
  | .station s => isSt s
  | .kd n => decide (n < 8)
  | .port p => decide (p < 16)
  | .core c => decide (c < 64)
  | .warden a => decide (a < 2 ^ 32)
  | .mapEntry st rg => isRx st rg
  | .plat e => decide (e < 65536)
  | .calendar p slot => decide (p < 16) && decide (slot < 4096)
  | .dset p i => decide (p < 16) && decide (i < 64)
  | .sow t u _ => tableWf t u

/-- A frame's body is what its length field can hold (R376). -/
def frameWf (f : Frame) : Bool := decide (f.body.length ≤ 4128)

/-- Where a NOP can run (R274, R424). -/
def nopWf : NopAt → Bool
  | .ctx core ctx => decide (core < 64) && decide (ctx < 16)
  | .engine core eng => decide (core < 64) && decide (eng < 7)
  | .host o => originWf o

/-- Nodes of the narrow net: 14 stations, 4 sheaf banks, 16 cluster drills, 8 register agents, host bridge, notice controller, Warden (R66). -/
def nNode : Nat := 45

/-- Copies of Field Time: 32 regions, 14 stations, 16 ports, 4 sheaf banks and the always-on domain (R330). -/
def nCopy : Nat := 67

/-- The checks of a command's operands. -/
def Instr.wf : Instr → Bool
  | .grainReceive st rg g => isRx st rg && g.payload.length == 120
  | .ackSend st rg => isRx st rg
  | .ackReceive st rd _ => isSt st && isSt rd
  | .nakReceive st rd _ => isSt st && isSt rd
  | .replayTimeout st g => isTx st g
  | .grainSend st g => isTx st g
  | .groupLeaveService st g => isTx st g
  | .laneMarkedBad st g lane => isTx st g && decide (lane < 8)
  | .groupRetrainEnd st g => isTx st g
  | .groupFaultRecover st g => isTx st g
  | .rmapSet o p => originWf o && decide (p.reader < 256) && decide (p.rgroup < 256) && decide (p.wst < 256) && decide (p.wlg < 256)
  | .rmapChangeStart st rg => isRx st rg
  | .rmapDrainTimeout st rg => isRx st rg
  | .groupDrained st g => isTx st g
  | .entryLocked st rg => isRx st rg
  | .rmapFault st rg => isRx st rg
  | .autoEnable st g => isTx st g
  | .lgTxcfgWrite _ st g _ => isTx st g
  | .narrowNetMessage node => decide (node < nNode)
  | .ringHop stop => decide (stop < ringStops)
  | .feedCommission o feed _ _ unlocked => originWf o && decide (feed < 256) && unlocked.all (decide <| · < 4096)
  | .feedTapSample f _ _ => decide (f < 10)
  | .moduleOutputRead m p _ _ => decide (m < 5) && decide (p.length = 4)
  | .busTapSample st bus _ => isSt st && decide (bus < numBus st)
  | .receiverSample st rg lane _ => isRx st rg && decide (lane < 8)
  | .hardFailRecover f _ => decide (f < 10)
  | .hingeStart o f => originWf o && decide (f < 256)
  | .hingeDrain f => decide (f < 10)
  | .hingeSwing f => decide (f < 10)
  | .hingeRestore f _ => decide (f < 10)
  | .hingeWindowClose st g => isTx st g
  | .hingeRelease f => decide (f < 10)
  | .hingeAbort f => decide (f < 10)
  | .elsPresenceCheck m _ _ f => decide (m < 5) && decide (f.length ≤ 4)
  | .elsLinkFail m => decide (m < 5)
  | .warmUpEnd k => decide (k < 4)
  | .lockCold k => decide (k < 4)
  | .temperatureSample loc l => thermWf loc && decide (l.length = sensorCount loc)
  | .lockLoopUpdate r _ => ringWf r
  | .lockLossTrip r => ringWf r
  | .ringRelock r => ringWf r
  | .ringBad r => ringWf r
  | .rampStep die _ => decide (die < 8)
  | .calibrationStart st rg cause => isRx st rg && decide (cause < 16)
  | .calibrationApply st rg _ => isRx st rg
  | .lgCalcfgForce _ st _ => isSt st
  | .heaterTableWriteback => true
  | .packetArrive st rg => isRx st rg
  | .packetSend st rd vc => isSt st && isSt rd && decide (vc < 6)
  | .creditRecordSend st w vc => isSt st && isSt w && decide (vc < 6)
  | .creditRepeat st => isSt st
  | .creditRecordReceive st rd _ => isSt st && isSt rd
  | .baseCrallocWrite _ st w vc _ => isSt st && isSt w && decide (vc < 6)
  | .platSet o id _ => originWf o && decide (id < 2 ^ 20)
  | .platGet o id => originWf o && decide (id < 2 ^ 20)
  | .platBolt o => originWf o
  | .mcastFirstAttempt st => isSt st
  | .remnantRetransmit st _ => isSt st
  | .mcastComplete st _ => isSt st
  | .mcastPartial st _ => isSt st
  | .selfRefreshEnter h => decide (h < 12)
  | .selfRefreshExit h => decide (h < 12)
  | .hashSet o _ _ _ => originWf o
  | .hashBolt o => originWf o
  | .scrub h blk _ => decide (h < 12) && decide (blk < 2 ^ 30)
  | .kdSplitWrite n _ => decide (n < 8)
  | .kdRemapWrite n i _ => decide (n < 8) && decide (i < 64)
  | .starve core => decide (core < 64)
  | .spUe core row _ => decide (core < 64) && decide (row < 196608)
  | .remoteOpPerform st _ => isSt st
  | .load st _ => isSt st
  | .store st _ => isSt st
  | .atomic st _ => isSt st
  | .reduction st _ => isSt st
  | .mcastStorePacket st => isSt st
  | .loadData st => isSt st
  | .ack st => isSt st
  | .atomicResult st => isSt st
  | .atomicReplayed st => isSt st
  | .fault st => isSt st
  | .dead st => isSt st
  | .receiptFilled share => decide (share < 4)
  | .receiptExpire share => decide (share < 4)
  | .rackOpResend _ => true
  | .rackOpGiveup _ => true
  | .deadTargetTimeout _ => true
  | .refusalBackoffEnd fdst => decide (fdst < 2 ^ 20)
  | .fenceComplete core ctx => decide (core < 64) && decide (ctx < 16)
  | .ctxLaunch o p => originWf o && decide (p.core < 256) && decide (p.ctx < 16) && decide (p.pri < 4) && decide (p.ring < 64) && decide (p.list < 2 ^ 44)
  | .ctxStop o core ctx => originWf o && decide (core < 256) && decide (ctx < 256)
  | .ctxResume o core ctx => originWf o && decide (core < 256) && decide (ctx < 256)
  | .stoppingEnd core ctx => decide (core < 64) && decide (ctx < 16)
  | .sequencerIssue core => decide (core < 64)
  | .prefetchRefill core ctx => decide (core < 64) && decide (ctx < 16)
  | .fetchArrive core ctx => decide (core < 64) && decide (ctx < 16)
  | .nop at' => nopWf at'
  | .endList core ctx => decide (core < 64) && decide (ctx < 16)
  | .contextEntersIdle core ctx => decide (core < 64) && decide (ctx < 16)
  | .loop core ctx => decide (core < 64) && decide (ctx < 16)
  | .endloop core ctx => decide (core < 64) && decide (ctx < 16)
  | .call core ctx => decide (core < 64) && decide (ctx < 16)
  | .ret core ctx => decide (core < 64) && decide (ctx < 16)
  | .branch core ctx => decide (core < 64) && decide (ctx < 16)
  | .setb core ctx => decide (core < 64) && decide (ctx < 16)
  | .addb core ctx => decide (core < 64) && decide (ctx < 16)
  | .ldb core ctx => decide (core < 64) && decide (ctx < 16)
  | .tokclr core ctx => decide (core < 64) && decide (ctx < 16)
  | .shTake core ctx => decide (core < 64) && decide (ctx < 16)
  | .shAdd core ctx => decide (core < 64) && decide (ctx < 16)
  | .shDrain core ctx => decide (core < 64) && decide (ctx < 16)
  | .sheafAnswer core ctx => decide (core < 64) && decide (ctx < 16)
  | .waitt core ctx => decide (core < 64) && decide (ctx < 16)
  | .waittEnd core ctx => decide (core < 64) && decide (ctx < 16)
  | .waitc core ctx => decide (core < 64) && decide (ctx < 16)
  | .waitcEnd core ctx => decide (core < 64) && decide (ctx < 16)
  | .fence core ctx => decide (core < 64) && decide (ctx < 16)
  | .pause core ctx => decide (core < 64) && decide (ctx < 16)
  | .rload core ctx _ => decide (core < 64) && decide (ctx < 16)
  | .rstore core ctx => decide (core < 64) && decide (ctx < 16)
  | .ratom core ctx => decide (core < 64) && decide (ctx < 16)
  | .parkedReplyWritten core ctx => decide (core < 64) && decide (ctx < 16)
  | .loadw core eng => decide (core < 64) && decide (eng < 7)
  | .matmul core eng => decide (core < 64) && decide (eng < 7)
  | .epi core eng => decide (core < 64) && decide (eng < 7)
  | .vadd core eng => decide (core < 64) && decide (eng < 7)
  | .vsub core eng => decide (core < 64) && decide (eng < 7)
  | .vmul core eng => decide (core < 64) && decide (eng < 7)
  | .vfma core eng => decide (core < 64) && decide (eng < 7)
  | .vmax core eng => decide (core < 64) && decide (eng < 7)
  | .vmin core eng => decide (core < 64) && decide (eng < 7)
  | .vcvt core eng => decide (core < 64) && decide (eng < 7)
  | .vexp2 core eng => decide (core < 64) && decide (eng < 7)
  | .vlog2 core eng => decide (core < 64) && decide (eng < 7)
  | .vrcp core eng => decide (core < 64) && decide (eng < 7)
  | .vrsqrt core eng => decide (core < 64) && decide (eng < 7)
  | .vtanh core eng => decide (core < 64) && decide (eng < 7)
  | .verf core eng => decide (core < 64) && decide (eng < 7)
  | .vsmax core eng => decide (core < 64) && decide (eng < 7)
  | .vsexp core eng => decide (core < 64) && decide (eng < 7)
  | .vrow core eng => decide (core < 64) && decide (eng < 7)
  | .vnorm core eng => decide (core < 64) && decide (eng < 7)
  | .vtopk core eng => decide (core < 64) && decide (eng < 7)
  | .vgather core eng => decide (core < 64) && decide (eng < 7)
  | .vscatter core eng => decide (core < 64) && decide (eng < 7)
  | .copy core _ => decide (core < 64)
  | .gather core => decide (core < 64)
  | .scatter core => decide (core < 64)
  | .mcastStore core => decide (core < 64)
  | .reduceInto core => decide (core < 64)
  | .kdFlush core => decide (core < 64)
  | .kdInvalidate core => decide (core < 64)
  | .teFence core => decide (core < 64)
  | .descriptorComplete core eng => decide (core < 64) && decide (eng < 7)
  | .xcTokenSignal core => decide (core < 64)
  | .coreRngseedWrite _ core _ => decide (core < 64)
  | .ftCorrectionPulse node _ => decide (node < nCopy)
  | .beacon peer => decide (peer < 2 ^ 20)
  | .delayReq => true
  | .delayRsp => true
  | .ftHold => true
  | .ftUnsync => true
  | .ftResync o => originWf o
  | .clockStretch region _ => decide (region < 32)
  | .sowSet o p => originWf o && decide (p.unitNo < 256) && decide (p.kind < 256) && decide (p.ring < 256) && p.action.length == 32
  | .sowCancel o _ unitNo _ => originWf o && decide (unitNo < 256)
  | .sowEntryFire t unitNo _ => tableWf t unitNo
  | .sowCompletion t unitNo _ => tableWf t unitNo
  | .bankAdd k => decide (k < 4)
  | .bankTake k => decide (k < 4)
  | .bankDrain k => decide (k < 4)
  | .bankRead k => decide (k < 4)
  | .takeTimeout k core ctx => decide (k < 4) && decide (core < 64) && decide (ctx < 16)
  | .sheafInit o sheaf _ _ _ => originWf o && decide (sheaf < 2 ^ 16)
  | .sheafRead o sheaf => originWf o && decide (sheaf < 2 ^ 16)
  | .sheafAdd o sheaf _ => originWf o && decide (sheaf < 2 ^ 16)
  | .sheafForce o sheaf _ => originWf o && decide (sheaf < 2 ^ 16)
  | .portTrain p _ _ => decide (p < 16)
  | .gen2TrainTimeout p => decide (p < 16)
  | .portTrainTimeout p => decide (p < 16)
  | .peerLightDetect p => decide (p < 16)
  | .portDown p _ => decide (p < 16)
  | .frameReceive p f => decide (p < 16) && frameWf f
  | .dataFrame p => decide (p < 16)
  | .ackFrame p => decide (p < 16)
  | .nakFrame p => decide (p < 16)
  | .refuse p => decide (p < 16)
  | .resync p => decide (p < 16)
  | .calendarSlot p slot => decide (p < 16) && decide (slot < 4096)
  | .frameSend p => decide (p < 16)
  | .ackFrameTimer fsrc => decide (fsrc < 2 ^ 20)
  | .nakGapTimer fsrc => decide (fsrc < 2 ^ 20)
  | .frameResendTimer fdst _ => decide (fdst < 2 ^ 20)
  | .pathFail p fdst => decide (p < 16) && decide (fdst < 2 ^ 20)
  | .pathProbe p fdst => decide (p < 16) && decide (fdst < 2 ^ 20)
  | .mirrorHandover p => decide (p < 16)
  | .calSet o p slot type dset => originWf o && decide (p < 256) && decide (slot < 2 ^ 16) && decide (type < 4) && decide (dset < 64)
  | .calDset o p i _ => originWf o && decide (p < 256) && decide (i < 256)
  | .calGet o p slot => originWf o && decide (p < 256) && decide (slot < 2 ^ 16)
  | .rekeyInstant => true
  | .rekeyWindowEnd => true
  | .groupEnrol o _ => originWf o
  | .groupLeave o => originWf o
  | .groupSave => true
  | .masterTakeover o => originWf o
  | .takeoverAnnounce => true
  | .takeoverFence => true
  | .epochAnnounce => true
  | .masterFence => true
  | .portCfgWrite p _ => decide (p < 16)
  | .command => true
  | .hopperStart h => decide (h < 64)
  | .proxyTimeout => true
  | .ringSet o ring log2 _ ep _ => originWf o && decide (ring < 256) && decide (log2 < 32) && decide (ep < 2 ^ 20)
  | .hopperSet o h ring _ _ => originWf o && decide (h < 256) && decide (ring < 256)
  | .hopperClear o h _ => originWf o && decide (h < 256)
  | .capRead o part => originWf o && decide (part < 256)
  | .regrd o addr => originWf o && decide (addr < 2 ^ 44)
  | .regwr o addr _ => originWf o && decide (addr < 2 ^ 44)
  | .memCopy o _ _ len => originWf o && decide (len < 2 ^ 32)
  | .memFill o addr _ len => originWf o && decide (addr < 2 ^ 44) && decide (len < 2 ^ 32)
  | .rmapBolt o st => originWf o && decide (st < 256)
  | .completion ring => decide (ring < 64)
  | .cmdRingciWrite _ r _ => decide (r < 64)
  | .cmdMboxGo _ => true
  | .regacc => true
  | .registerWrite _ addr _ => decide (addr < 2 ^ 44)
  | .postedWriteApply u => slowWf u
  | .paritySweep at' => parityWf at'
  | .notice => true
  | .noticeRedeliver src => decide (src < 512)
  | .noticeEoi _ _ => true
  | .noticeMaskSet _ i _ => decide (i < 16)
  | .noticeMaskClr _ i _ => decide (i < 16)
  | .noticePendSet _ i _ => decide (i < 16)
  | .noticePendClr _ i _ => decide (i < 16)
  | .bondLinkTrain die link _ => decide (die < 8) && decide (link < 36)
  | .bondFrameReceive die link _ => decide (die < 8) && decide (link < 36)
  | .bondCrcRetrain die link => decide (die < 8) && decide (link < 36)
  | .widthRecordWrite die link => decide (die < 8) && decide (link < 36)
  | .coilTransfer n g _ => decide (n < 8) && decide (g < 64)
  | .coilRetrain n g _ _ => decide (n < 8) && decide (g < 64)
  | .sillBlockReceive p _ => decide (p < 16)
  | .sillPersistentError p _ => decide (p < 16)
  | .frequencyChoice region _ => decide (region < 32)
  | .frequencyRestart region => decide (region < 32)
  | .clkFault region _ => decide (region < 32)
  | .pllRelock region => decide (region < 32)
  | .sleepEnter u => sleepWf u
  | .wake u => sleepWf u
  | .wakeComplete u => sleepWf u
  | .sowAheadWake die => decide (die < 8)
  | .railReading _ _ => true
  | .powerWindow _ _ _ _ _ => true
  | .powerFallback => true
  | .thermalThrottleStep loc => thermWf loc
  | .thermalShutdown loc _ => thermWf loc
  | .thermtripRelease => true
  | .warmReset o => originWf o
  | .fieldReset o k => originWf o && decide (k < 256)
  | .fieldEnable o k => originWf o && decide (k < 256)
  | .dieReset o d _ => originWf o && decide (d < 256)
  | .dieGate d _ => decide (d < 8)
  | .referenceMissing d => decide (d < 8)
  | .railOutOfWindow d _ => decide (d < 8)
  | .dieRejoin o d _ _ => originWf o && decide (d < 256)
  | .coreReset o c => originWf o && decide (c < 256)
  | .portReset o p => originWf o && decide (p < 256)
  | .poreset _ _ _ => true
  | .bringUpReady _ => true
  | .watchdogRestart => true
  | .wardenRestart => true
  | .logFlush => true
  | .storeWrite area _ _ => decide (area < 8)
  | .sensorRead o kind index => originWf o && decide (kind < 256) && decide (index < 2 ^ 16)
  | .powerMode o mode _ _ limit cap => originWf o && decide (mode < 256) && decide (limit < 2 ^ 16) && decide (cap < 2 ^ 16)
  | .logRead o entry count _ => originWf o && decide (entry < 2 ^ 48) && decide (count < 2 ^ 16)
  | .fwStage o _ len => originWf o && decide (len < 2 ^ 32)
  | .fwStageDone => true
  | .fwSwitch o action => originWf o && decide (action < 256)
  | .firmwareBoot _ => true
  | .attest o _ nonce => originWf o && nonce.length == 32
  | .lifecycleSet o target _ => originWf o && decide (target < 256)
  | .tamper kind => decide (kind < 16)
  | .bistRun o _ => originWf o
  | .bistResult o target index sub n => originWf o && decide (target < 256) && decide (index < 256) && decide (sub < 256) && decide (n < 2 ^ 16)
  | .loopbackRun o st g dur => originWf o && decide (st < 256) && decide (g < 256) && decide (dur < 256)
  | .repairRecord => true
  | .testEnWrite _ _ => true
  | .stackLeavesService h => decide (h < 12)
  | .mergeBlockLeave st _ => isSt st
  | .powerLoss => true
  | .portTrainComplete p => decide (p < 16)
  | .bondLinkTrainComplete die link => decide (die < 8) && decide (link < 36)
  | .sillRetrainComplete p => decide (p < 16)
  | .dieRejoinComplete d => decide (d < 8)
  | .fieldEnableComplete k => decide (k < 4)
  | .coreResetComplete c => decide (c < 64)
  | .bistRunComplete target _ _ _ _ => decide (target < 256)
  | .loopbackRunComplete st g _ _ _ _ _ => isTx st g
  | .attestComplete => true
  | .jitterWithinLimit region => decide (region < 32)

end Sys2Proof
end

