-- ==== Sys2Proof/Tests/Slice0.lean ====
section
/-! SUPPORT. Tests: the checks of WellFormed refuse what they should, and for the statements that have hypotheses a state and
operands that meet them all. Each is about one small state. -/

namespace Sys2Proof.Tests

open Sys2Proof Sys2Proof.Machine

-- One theorem after the other: each kernel evaluation holds a thread with its own stack.
set_option Elab.async false

/-! ### Small states -/

def host : Origin := { mbox := false, hopper := 3, tag := 7, quiet := false, via := .p0 }

/-- The part in service: PHASE READY, every field and station up. -/
def up : State :=
  each (List.range 4) (fun k s => s.modField k fun f => { f with state := .up })
    (each (List.range 14) (fun st s => s.modSta st fun x => { x with up := true })
      { State.reset with resets := { State.reset.resets with phase := .ready } })

/-- A grain from group g of station st. -/
def grainOf (q : BitVec 12) (type st g : Nat) : Grain := mkGrain (List.replicate 120 0) q type 15 false false st g

/-- Station 0 reads station 1's standing group 0 by its receive group 0. -/
def linked : State := (up.modRx 0 0 fun r => { r with state := .locked }).modTx 1 0 fun t => { t with state := .active, enable := true }

/-! ### WellFormed -/

theorem test_wf_refuses : ∀ i ∈ ([.grainReceive 0 48 (grainOf 0 0 1 0), .grainReceive 0 0 { payload := [], ctl := 0 },
    .ackReceive 14 0 0, .rmapSet { host with hopper := 64 } ⟨0, 0, true, 0, 0, true, true⟩, .narrowNetMessage 45, .ringHop 20,
    .feedTapSample 10 0 0, .moduleOutputRead 0 [0, 0, 0] 0 0, .moduleOutputRead 5 [0, 0, 0, 0] 0 0, .busTapSample 0 6 0,
    .elsPresenceCheck 0 true 0 (List.replicate 5 { settled := true, drive := 0, temp := 0, power := 0 }), .temperatureSample (.cd 0) [1, 2],
    .temperatureSample (.field 4) (List.replicate 48 70), .lockLoopUpdate ⟨0, .loopback, 1, 0⟩ 0, .lockLoopUpdate ⟨0, .modulator, 24, 0⟩ 0,
    .lockLossTrip ⟨0, .selector, 0, 8⟩, .rampStep 8 0, .calibrationStart 0 0 16, .packetSend 0 1 6, .platGet host (2 ^ 20),
    .scrub 0 (2 ^ 30) 0, .kdRemapWrite 0 64 0, .spUe 64 0 true, .load 14 [], .rload 0 16 [], .copy 64 [], .loadw 0 7,
    .ftCorrectionPulse 67 0, .sowSet host { table := .core, unitNo := 0, sowid := 0, kind := 1, ft := 0, ring := 0, action := [] },
    .sleepEnter (.group 0 12), .postedWriteApply (.kd 8), .paritySweep (.calendar 0 4096), .nop (.engine 0 7),
    .frameReceive 0 { hdr := 0, body := List.replicate 4129 0, tag := 0, crc := 0 }, .bondLinkTrain 0 36 [], .hopperStart 64,
    .attest host 0 [], .dieGate 8 1, .fieldEnableComplete 4] : List Instr), i.wf = false := by decide +kernel

theorem test_wf_accepts : ∀ i ∈ ([.grainReceive 0 47 (grainOf 0 0 1 0), .narrowNetMessage 44, .ringHop 19, .feedTapSample 9 0 0,
    .lockLoopUpdate ⟨13, .loopback, 0, 7⟩ 0, .temperatureSample (.hbm 11) [90], .calibrationStart 0 0 6, .scrub 11 (2 ^ 30 - 1) 2,
    .rload 63 15 [], .spUe 63 196607 false, .sleepEnter (.group 0 13), .ftCorrectionPulse 66 0] : List Instr), i.wf = true := by
  decide +kernel

/-! ### No word spells a command (log entry 1) -/

theorem test_no_word : decodeTableWord 0 0 = none ∧ decodeTableWord 64 0x85 = none := by decide

/-! ### Where the standing lanes lie (R30) -/

theorem test_layout : (List.range 14).all (fun s => layoutOk s fun g l => (slotBus s).getD ((8 * g + l) % 13) 0) = true := by decide +kernel

/-! ### Hypotheses that are met: grains and lane groups -/

theorem met_misroute : linked.stUp 0 = true ∧ isRx 0 0 = true ∧ (linked.rxg 0 0).valid = true ∧ (linked.rxg 0 0).state = .locked ∧
    (linked.rxg 0 0).badParity = false ∧
    gWst { payload := [], ctl := BitVec.ofNat 64 (2 * 2 ^ 40) } ≠ (linked.rxg 0 0).wst := by decide +kernel

theorem met_grain (q : BitVec 12) : linked.stUp 0 = true ∧ isRx 0 0 = true ∧ (linked.rxg 0 0).valid = true ∧
    (linked.rxg 0 0).state = .locked ∧ (linked.rxg 0 0).badParity = false ∧ gWst (grainOf q 0 1 0) = (linked.rxg 0 0).wst ∧
    gWlg (grainOf q 0 1 0) = (linked.rxg 0 0).wlg ∧ gType (grainOf q 0 1 0) = 0 ∧ gSeq (grainOf q 0 1 0) = q ∧
    grainOk (grainOf q 0 1 0) = true ∧ (linked.rxg 0 0).expect = 0 := by
  have h := mkGrain_fields (List.replicate 120 0) q (ty := 0) (st := 15) (w := 1) (l := 0) false false
    (by decide) (by decide) (by decide) (by decide)
  have e : linked.stUp 0 = true ∧ isRx 0 0 = true ∧ (linked.rxg 0 0).valid = true ∧ (linked.rxg 0 0).state = .locked ∧
    (linked.rxg 0 0).badParity = false ∧ (linked.rxg 0 0).wst = 1 ∧ (linked.rxg 0 0).wlg = 0 ∧ (linked.rxg 0 0).expect = 0 := by
    decide +kernel
  unfold grainOf
  obtain ⟨h1, h2, -, -, -, h6, h7, h8⟩ := h
  obtain ⟨e1, e2, e3, e4, e5, e6, e7, e8⟩ := e
  exact ⟨e1, e2, e3, e4, e5, h6.trans e6.symm, h7.trans e7.symm, h2, h1, h8 (by decide), e8⟩

/-- Station 0 has a grain to acknowledge, and a group in service back to the writer. -/
def owing : State := ((linked.modTx 0 0 fun t => { t with state := .active, enable := true }).modRx 1 0 fun r =>
  { r with state := .locked }).modRx 0 0 fun r => { r with unacked := true }

theorem met_ack : owing.stUp 0 = true ∧ isRx 0 0 = true ∧ (owing.rxg 0 0).unacked = true ∧
    owing.linkGroup 0 (owing.rxg 0 0).wst = some 0 := by decide +kernel

/-- One grain sent on group 0 of station 1, not acknowledged. -/
def sentOne : State := linked.modTx 1 0 fun t => { t with
  gseq := 1, replay := [{ grain := { payload := [], ctl := 0 }, pkts := [] }] }

theorem met_records : sentOne.stUp 1 = true ∧ isTx 1 (recGroup (ackRecord 2 0 0)) = true ∧ recKind (ackRecord 2 0 0) = 2 ∧
    recKind (ackRecord 1 0 0) = 1 ∧ 0 ∈ sentOne.readers 1 (recGroup (ackRecord 2 0 0)) ∧
    replayIndex (sentOne.txg 1 (recGroup (ackRecord 2 0 0))).replay (recSeq (ackRecord 2 0 0)) = some 0 ∧
    tget (sentOne.txg 1 0).acked 0 0 < 0 + 1 := by decide +kernel

theorem met_replay : isTx 1 0 = true ∧ (sentOne.txg 1 0).carries = true ∧ (sentOne.txg 1 0).replay ≠ [] ∧
    (sentOne.txg 1 0).timeouts < 4 ∧ (sentOne.txg 1 0).replay.length < 512 ∧ (sentOne.txg 1 0).inService = true ∧
    ¬((sentOne.txg 1 0).hinged = true ∧ (sentOne.txg 1 0).state = .draining) := by decide +kernel

theorem met_full : (linked.modTx 1 0 fun t => { t with replay := List.replicate 512 { grain := { payload := [], ctl := 0 }, pkts := [] } }).stUp 1
    = true ∧ 512 ≤ ((linked.modTx 1 0 fun t => { t with
      replay := List.replicate 512 { grain := { payload := [], ctl := 0 }, pkts := [] } }).txg 1 0).replay.length := by decide +kernel

theorem met_lane : (linked.txg 1 0).bad.getLsbD 3 = false ∧
    4 ≤ ((linked.modTx 1 0 fun x => { x with bad := x.bad ||| (1#8 <<< 3) }).txg 1 0).lanes ∧
    (linked.txg 1 0).state ≠ .asleep ∧ (linked.modTx 1 0 fun x => { x with bad := 0x0F }).txg 1 0 ≠ linked.txg 1 0 ∧
    (((linked.modTx 1 0 fun x => { x with bad := 0x0F }).modTx 1 0 fun x => { x with bad := x.bad ||| (1#8 <<< 4) }).txg 1 0).lanes < 4 := by
  decide +kernel

/-- Group 0 of station 1 in FAULT, its rings locked and its link calibrated. -/
def faulted : State :=
  each (List.range 8) (fun l s => (s.modRing ⟨1, .modulator, 0, l⟩ fun r => { r with state := .locked }).modRing ⟨0, .selector, 0, l⟩
    fun r => { r with state := .locked }) (linked.modTx 1 0 fun t => { t with state := .fault })

theorem met_recover : faulted.stUp 1 = true ∧ isTx 1 0 = true ∧ (faulted.txg 1 0).isOut = true ∧ 4 ≤ (faulted.txg 1 0).lanes ∧
    faulted.ringsSettled 1 0 = true ∧ faulted.linksCalibrated 1 0 = true ∧
    (faulted.modRx 0 0 fun r => { r with calBusy := true }).linksCalibrated 1 0 = false := by decide +kernel

/-! ### Reception maps -/

def mapChange : RmapParams := { reader := 0, rgroup := 13, valid := true, wst := 1, wlg := 13, drain := false, auto := true }

theorem met_rmap : firstFail (rmapChecks { mapChange with reader := 14 } up) = some .outOfRange ∧
    firstFail (rmapChecks mapChange up) = none ∧ firstFail (rmapChecks { mapChange with drain := true } up) = none := by decide +kernel

/-- Entry 13 of station 0 tunes to group 13 of station 1. -/
def tuning : State := (up.modRx 0 13 fun r => { r with valid := true, wst := 1, wlg := 13, state := .tuning }).modTx 1 13 fun t => { t with auto := true }

theorem met_tuning : isRx 0 13 = true ∧ (tuning.rxg 0 13).state = .tuning ∧ tuning.entryHeld 0 13 = false ∧
    ((tuning.modFeed (busFeed 1 0) fun f => { f with state := .hinge, step := 3 }).entryHeld 0 13) = true := by decide +kernel

theorem met_auto : isSownTx 1 13 = true ∧ (tuning.txg 1 13).auto = true ∧
    (tuning.modRx 0 13 fun r => { r with state := .locked }).liveEntries 1 13 = [(0, 13)] ∧
    (tuning.modRx 0 13 fun r => { r with state := .locked }).drained 1 13 = true ∧ (tuning.txg 1 13).loopback = false ∧
    4 ≤ (tuning.txg 1 13).lanes := by decide +kernel

/-! ### Light supply -/

/-- Feed 0 in service on input A, both its modules there, both inputs with a record; the lifecycle lets every command by. -/
def lit : State :=
  (each (List.range 40) (fun i s => { s with light := { s.light with
      setPoints := tset s.light.setPoints none i (some { settled := true, drive := 1, temp := 1, power := 0 }) } })
    (each (List.range 5) (fun m s => s.modEls m fun e => { e with present := true, linkOk := true })
      { up with warden := { up.warden with lifecycle := 2 } })).modFeed 0 fun d => { d with state := .normal }

/-- Feed 0 in step n of a hinge. -/
def hinging (n : Nat) : State := lit.modFeed 0 fun d => { d with state := .hinge, before := .normal, step := n }

theorem met_hinge_start : lit.warden.serving = true ∧ lit.warden.attest = none ∧ lit.lifeRefuses 0xE9 = false ∧
    lit.spareOk 0 = true ∧ (lit.feed 0).state = .normal ∧ lit.otherHinge 0 = false ∧ (hinging 2).otherHinge 1 = true ∧
    (hinging 2).spareOk 1 = true := by decide +kernel

theorem met_hinge_steps : (hinging 1).otherHinge 0 = false ∧ ((hinging 1).feed 0).state = .hinge ∧ ((hinging 1).feed 0).step = 1 ∧
    ((hinging 2).feed 0).step = 2 ∧ ((hinging 4).feed 0).step = 4 ∧ ((hinging 5).feed 0).step = 5 ∧
    (hinging 5).warden.serving = true ∧
    (((hinging 5).modTx 1 13 fun t => { t with window := true, state := .active }).txg 1 13).window = true := by decide +kernel

theorem met_hard_fail : ((lit.modFeed 0 fun d => { d with state := .hard }).spareOk 0) = true ∧
    ((lit.modFeed 0 fun d => { d with state := .hard, usableB := false }).spareOk 0) = false ∧
    ((lit.modFeed 0 fun d => { d with lowRun := 1 }).feed 0).lowRun = 1 := by decide +kernel

theorem met_steady : fadeLevel (lit.feed 0).state 0 (lit.eyeLow 0 55) (lit.eyeLow 0 70) (lit.eyeLow 0 75) = (lit.feed 0).state ∧
    (lit.elsAt 0).present = true ∧ (lit.elsAt 0).linkOk = true ∧ (lit.elsAt (feedOutput 0 false / 4)).present = true ∧
    (lit.feed 0).activeB = false ∧ lit.lifeRefuses 0xE8 = false := by decide +kernel

theorem met_same_light : Config.isLow 1 0 = Config.isLow 1 (tget lit.light.feedTap 0 0) ∧
    Config.isLow 0 (([0, 0, 0, 0] : List Int).getD 2 0) = Config.isLow 0 (tget lit.light.elsPwr 0 2) ∧
    Config.isLow 2 0 = Config.isLow 2 (tget lit.light.busTap 0 (busKey 0 0)) ∧
    Config.isLow 3 (0 : Nat) = Config.isLow 3 (tget lit.light.photo 0 (rxKey 0 0 * 8) : Nat) := ⟨rfl, rfl, rfl, rfl⟩

/-! ### Rings and calibration -/

/-- Group 0 of station 1 carries to station 0, every ring of both locked, one of each about to trip. -/
def tripping : State :=
  (faulted.modTx 1 0 fun t => { t with state := .active }).modRing ⟨1, .modulator, 0, 0⟩ (fun r => { r with overCnt := 4 })
    |>.modRing ⟨0, .selector, 0, 0⟩ fun r => { r with overCnt := 4 }

theorem met_trip : ringOk ⟨1, .modulator, 0, 0⟩ = true ∧ (tripping.ringAt ⟨1, .modulator, 0, 0⟩).state = .locked ∧
    4 ≤ (tripping.ringAt ⟨1, .modulator, 0, 0⟩).overCnt ∧ (tripping.txg 1 0).inService = true ∧
    (tripping.feed (busFeed 1 (laneBus 1 0 0))).lit = false ∧ (0, 0) ∈ tripping.readerSet 1 0 ∧
    (tripping.readerSet 1 0).length = 1 ∧
    (tripping.feed (busFeed (tripping.ringBus ⟨0, .selector, 0, 0⟩).1 (tripping.ringBus ⟨0, .selector, 0, 0⟩).2)).lit = false ∧
    (tripping.modRing ⟨0, .loopback, 0, 0⟩ fun r => { r with state := .locked, overCnt := 4 }).ringLinked ⟨0, .loopback, 0, 0⟩ = false := by
  decide +kernel

/-- A sown group of station 1 with two readers, stations 0 and 2. -/
def shared : State := each [0, 2] (fun st s => s.modRx st 13 fun r => { r with valid := true, wst := 1, wlg := 13, state := .locked }) up

theorem met_trip_of_two : 1 < (shared.readerSet 1 13).length ∧ (0, 13) ∈ shared.readerSet 1 13 := by decide +kernel

def relocking : State := (tripping.modRing ⟨0, .selector, 0, 0⟩ fun r => { r with state := .acquire }).modRx 0 0 fun r => { r with state := .fault }

theorem met_relock : (relocking.ringAt ⟨0, .selector, 0, 0⟩).state = .acquire ∧ (relocking.rxg 0 0).valid = true ∧
    (relocking.rxg 0 0).state = .fault ∧ (∀ q ∈ rxRings 0 0, q ≠ ⟨0, .selector, 0, 0⟩ →
      (relocking.ringAt q).state ≠ .acquire ∧ (relocking.ringAt q).state ≠ .lost) ∧
    (State.ringAt (tripping.modRing ⟨1, .modulator, 0, 0⟩ fun r => { r with state := .acquire }) ⟨1, .modulator, 0, 0⟩).state = .acquire := by
  decide +kernel

def calibrating : State := faulted.modRx 0 0 fun r => { r with calBusy := true, calNow := 6 }

def calMeasure : CalResult := { eyeW := List.replicate 8 50, eyeH := 50, heater := [], bias := [], photo := [] }

theorem met_calibration : faulted.stUp 0 = true ∧ (faulted.rxg 0 0).valid = true ∧ (faulted.rxg 0 0).calBusy = false ∧
    faulted.calsRunning 0 < 8 ∧ (faulted.modRx 0 0 fun r => { r with calDue := [(6, 0)] }).calCauseHolds 0 0 6 = true ∧
    (faulted.modRx 0 0 fun r => { r with calDue := [(6, 0)] }).calFirst 0 0 = false ∧ (calibrating.rxg 0 0).calBusy = true ∧
    isTx (calibrating.rxg 0 0).wst (calibrating.rxg 0 0).wlg = true ∧ (calibrating.txg 1 0).bad = 0 ∧
    (∀ l < 8, 45 ≤ calMeasure.eyeW.getD l 0) ∧ (calibrating.rxg 0 0).rejoin = false ∧
    (∃ q ∈ rxRings 0 0, (calibrating.ringAt q).state = .locked) := by decide +kernel

theorem met_bands (k : Nat) : (calibrating.therm (.field k)).band < 4 := by
  have h : calibrating.power.field = [] := by decide +kernel
  simp [State.therm, h, tget, Therm.reset]

/-- Field 0 warms up; a sensor of its ring sites still reads 0. -/
def warming : State := up.modField 0 fun f => { f with state := .warmup }

/-- Every sensor of field 0's ring sites reads 35 degrees. -/
def warm : State := each (List.range 48) (fun i s => { s with power := { s.power with
  sensors := tset s.power.sensors 0 (firstSensor (.field 0) + i) 70 } }) warming

theorem met_warm_up : warm.fieldWarm 0 = true ∧ (warm.field 0).state = .warmup ∧ warming.fieldWarm 0 = false ∧
    (warming.field 0).cold = false ∧ up.dieUp 0 = true ∧
    (∀ i < 48, 60 ≤ tget warm.power.sensors 0 (firstSensor (.field 0) + i)) := by decide +kernel

/-! ### Port ring, narrow net, packets -/

/-- A request packet without an extension, of opcode op on channel vc, n bytes of payload. -/
def pkt (op vc laddr n : Nat) : Packet :=
  { hdr := ({ dest := 0, laddr := laddr, op := op, vc := vc, hc := 0, dmp := false, len := n, issuer := 64, pseq := 0
              xt := false, poison := false, retry := false, mcr := false, sys := false, status := 0 } : Hdr).enc, ext := 0, data := List.replicate n 0 }

def queued (op vc laddr n : Nat) (l : List Nat) : QPacket := { pkt := pkt op vc laddr n, readers := l, op := none }

/-- A packet on the port ring at a stop, for another. -/
def ringPkt (here dst : Nat) : RingPkt :=
  { here := here, dst := dst, clockwise := true, classB := false, src := 16, ft := 0, q := queued 1 0 0 0 [] }

def onRing (here dst : Nat) : State := { up with fab := { up.fab with ring := [ringPkt here dst] } }

theorem met_ring : (onRing 2 7).mover 2 = some (ringPkt 2 7) ∧ ¬((ringPkt 2 7).hop.here = 7 ∧ (onRing 2 7).canLeave (ringPkt 2 7).hop = true) ∧
    (onRing bridgeStop bridgeStop).mover bridgeStop = some (ringPkt bridgeStop bridgeStop) ∧ malformed (pkt 1 0 0 0) = false ∧
    stopPort 7 = some 4 ∧ (onRing 7 7).mover 7 = some (ringPkt 7 7) ∧
    ((onRing 7 7).modPort 4 fun p => { p with state := .up, sill := .up }).portServes 4 = true := by decide +kernel

def netOf (b : NetBody) : State := { up with fab := { up.fab with net := [(3, [{ cls := 4, dst := 3, body := b }])] } }

theorem met_net : ∀ b ∈ ([.sheaf { op := .add, sheaf := 0, n := 1, from? := some (0, 0), sig := 0, pkt := none },
    .wake { core := 0, ctx := 0, op := 0x11, status := .done, sig := 0 }, .access 0 (pkt 1 0 regBase 0), .access 0 (pkt 1 0 sheafBase 0),
    .fetch 0 0 0] : List NetBody),
    (netOf b).firstMsg 3 = some { cls := 4, dst := 3, body := b } ∧ (netOf b).fieldUp 0 = true := by decide +kernel

theorem met_places : placeOf (hdr (pkt 1 0 regBase 0)).laddr = .reg 0 ∧ placeOf (hdr (pkt 1 0 sheafBase 0)).laddr = .sheaf 0 ∧
    ((up.modField 0 fun f => { f with state := .reset }).fieldUp (sheafBank 0)) = false := by decide +kernel

def fetching : State := up.modCtx 0 0 fun t => { t with fetching := true, state := .ready, fetched := some (0, List.replicate 256 0, .done) }

theorem met_fetch : up.coreUp 0 = true ∧ (fetching.ctx 0 0).fetching = true ∧
    (fetching.ctx 0 0).fetched = some (0, List.replicate 256 0, .done) ∧
    (fetching.ctx 0 0).descAt (fetching.ctx 0 0).pc.toNat = none ∧ (fetching.ctx 0 0).issuing = true := by decide +kernel

/-- Words of packet p have come to station 0 on its standing group from station 1. -/
def arriving (p : Packet) : State := linked.modRx 0 0 fun r => { r with words := pktWords p }

theorem met_arrive : takePacket ((arriving (pkt 1 0 0 0)).rxg 0 0).words = some (pkt 1 0 0 0, []) ∧
    malformed (pkt 1 0 0 0) = false ∧ malformed (pkt 1 7 0 0) = true ∧ takePacket ((arriving (pkt 1 7 0 0)).rxg 0 0).words = some (pkt 1 7 0 0, []) ∧
    ((arriving (pkt 1 0 0 0)).entriesOf 1 0).length ≤ 1 ∧ isXS 0 = false ∧
    seqCheck (none, []) 0 = .accept (some 0, [0]) ∧ seqCheck (some 0, [0]) 0 = .duplicate ∧ seqCheck (some 0, []) 8192 = .stale := by
  decide +kernel

/-- Station 1 has a packet for station 0. -/
def sending : State := linked.modSta 1 fun x => { x with sendq := [queued 1 0 0 0 [0]] }

theorem met_send : sending.firstFor 1 0 0 = some (queued 1 0 0 0 [0]) ∧ sending.stServes 0 = true ∧ sending.closed 1 0 0 = false ∧
    sending.sendReady 1 0 0 = true ∧ sending.vcTurn 1 0 = true ∧ (sending.sta 1).halted = false ∧
    (sending.modSta 0 fun x => { x with up := false }).stServes 0 = false := by decide +kernel

theorem met_credit : validPair 0 1 2 = true ∧
    tget ({ owing with credit := { owing.credit with owed := tset owing.credit.owed false (creditKey 0 1 2) true } } : State).credit.owed false
      (creditKey 0 1 2) = true ∧ owing.linkGroup 0 1 = some 0 ∧ owing.backp 0 1 2 = false ∧ recKind (creditRecord 2 5) = 3 ∧
    recVc (creditRecord 2 5) = 2 ∧ up.poolUsed 0 1 2 + 65 + (up.alloc 0 1 2 - 65) ≤ creditPool 0 ∧ allocMin 2 ≤ 65 := by decide +kernel

/-- A multicast packet of station 1 for stations 0 and 2. -/
def mcq : QPacket := { pkt := { pkt 0x60 3 0 0 with hdr := ({ hdr (pkt 0x60 3 0 0) with dmp := true, status := 5 } : Hdr).enc }, readers := [0, 2], op := none }

def mcWaits : State := linked.modSta 1 fun x => { x with sendq := [mcq] }

theorem met_mcast : mcWaits.mcWaiting 1 = some mcq ∧ mcWaits.seqRoom 1 3 = true ∧ mcWaits.vcTurn 1 3 = true ∧
    (mcWaits.sta 1).entriesUsed < 64 ∧ mcWaits.mcClosed 1 (maskStations (BitVec.ofNat 8 (hdr mcq.pkt).status)) = false ∧
    (∃ r ∈ maskStations (BitVec.ofNat 8 (hdr mcq.pkt).status), mcWaits.mcServed 1 (mcWaits.sta 1).remnants mcq.pkt [r] = [r]) := by
  decide +kernel

def remnant (left : Byte) : Remnant := { id := 9, q := mcq, pseq := some 0, remaining := left, entry := true }
def mcLeft (left : Byte) : State := linked.modSta 1 fun x => { x with remnants := [remnant left] }

theorem met_remnant : (mcLeft 1).mcServed 1 (((mcLeft 1).sta 1).olderThan 9) (remnant 1).q.pkt (maskStations 1) = [0] ∧
    (mcLeft 1).vcTurn 1 3 = true ∧ (mcLeft 1).mcClosed 1 (maskStations 1) = false ∧
    ((mcLeft 1).sta 1).remnants.find? (fun r => r.id == 9) = some (remnant 1) ∧ (mcLeft 0).inFlight 1 = [] ∧ mcq.op = none ∧
    (hdr mcq.pkt).xt = false := by decide +kernel

/-! ### Memory -/

theorem met_setup : firstFail (platChecks 5 0 { up with plat := { up.plat with valid := true, id := 4 } }) = none ∧ reservedId 5 = false ∧ up.plat.bolt = false ∧
    firstFail (hashChecks { key := 0, msmask := 0xF, stksel := 0xFF, bolt := false } (each (List.range 12) (fun h s => s.modHbm h fun x => { x with state := .ready }) up)) = none ∧ up.zeroing = false ∧ up.hash.bolt = false ∧
    (up.modHbm 0 fun h => { h with state := .zero }).zeroing = true := by decide +kernel

def stacked : State := up.modHbm 0 fun h => { h with state := .ready }

theorem met_scrub : (stacked.hbm 0).state = .ready ∧ stacked.stackReady 0 = true ∧ stacked.msUp 0 = true ∧
    stacked.openBlock 8 0 = none ∧ stacked.lastBlock 0 0 = false ∧ stacked.mem.isPoison 0 = false ∧
    stacked.hash.addrOf 0 0 0 ≠ none := by decide +kernel

def opened : State := stacked.modSta 8 fun x => { x with
  merge := [{ blk := 0, bytes := [(3, 7)], past := [], poison := false, poisonSet := false }] }

theorem met_merge : (opened.sta 8).merge.find? (fun b => b.blk == 0)
    = some { blk := 0, bytes := [(3, 7)], past := [], poison := false, poisonSet := false } ∧ opened.stUp 8 = true ∧
    (∀ e ∈ (opened.sta 8).inbox, opened.pendsOn 8 e.2 0 = false) := by decide +kernel

theorem met_self_refresh : ((stacked.modHbm 0 fun h => { h with state := .selfref }).hbm 0).state = .selfref ∧
    (stacked.modHbm 0 fun h => { h with state := .selfref }).msUp 0 = true ∧ up.dieUp (coreDie 0) = true := by decide +kernel

/-! ### Registers and notices -/

theorem met_txcfg : (((up.modTx 1 13 fun t => { t with state := .active }).txg 1 13).hinged = false) ∧ (up.sta 1).halted = false ∧
    up.drained 1 13 = true ∧ (up.txg 1 13).loopback = false ∧ 4 ≤ (up.txg 1 13).lanes ∧
    5 ≤ bits (0x803C001E : W32).toNat 6 0 ∧ bits (0x803C001E : W32).toNat 6 0 ≤ 100 ∧ bits (0x803C001E : W32).toNat 23 16 ≠ 0 := by
  decide +kernel

theorem met_split : (up.kd 0).halted = false ∧ (up.kd 0).lines = [] ∧ ((up.kd 0).withAddr 4).valid = true ∧ (up.kd 0).addr ≤ 8 ∧
    ((up.kd 0).withRemap 0 (0, 0)).valid = true ∧ (up.crallocWrite 0 1 2 65).2 = .done := by decide +kernel

/-- Source 0 (MEM_UE of station 8) pending, unmasked, and ring 0 there for it. -/
theorem met_ring_index : ((up.cring 0).pi + 2 ^ 17 - 0 % 2 ^ 17) % 2 ^ 17 ≤ ((up.cring 0).pi + 2 ^ 17 - (up.cring 0).ci) % 2 ^ 17 := by decide +kernel

def ringing : State := { up with
  notices := { up.notices with pend := 1, mask := 0 }
  bridge := { up.bridge with rings := [(0, { CmdRing.reset with enable := true, log2 := 8 })] } }

theorem met_notice : ringing.firstNotice = some 0 ∧ (ringing.cring 0).enable = true ∧
    ({ ringing with notices := { ringing.notices with active := 1 } } : State).ntActive 0 = true ∧ ringing.ntActive 0 = false := by
  decide +kernel

theorem met_posted : (blockOf 0).isSome = true ∧ up.bridge.mboxGo = none ∧ up.unitBusy (.kd 0) = false ∧
    ({ up with bridge := { up.bridge with posted := [(.kd 0, 0, 4)] } } : State).unitBusy (.kd 0) = true ∧ up.test.bolt = false ∧
    (up.core 0).halted = false := by decide +kernel

/-! ### Operations -/

/-- Every stack READY and the layout bolted. -/
def bolted : State := { each (List.range 12) (fun h s => s.modHbm h fun x => { x with state := .ready }) up with
  hash := { HashCfg.reset with bolt := true } }

/-- Station 8 has taken in a request from station 0. -/
def asked (p : Packet) : State := bolted.modSta 8 fun x => { x with inbox := [(0, p)] }

theorem met_load : (asked (pkt 1 0 0 0)).stServes 8 = true ∧ isMS 8 = true ∧
    ((asked (pkt 1 0 0 0)).sta 8).inbox.find? (fun e => isRequest (hdr e.2).op && !(asked (pkt 1 0 0 0)).requestWaits 8 e.2)
      = some (0, pkt 1 0 0 0) ∧
    ((asked (pkt 1 0 0 0)).takeInbox 8 fun p => isRequest (hdr p).op && !(asked (pkt 1 0 0 0)).requestWaits 8 p)
      ≠ none := by decide +kernel

theorem met_store : (pkt 0x10 0 0 8).data ≠ [] ∧ (hdr (pkt 0x10 0 0 8)).poison = false ∧ bolted.phys 0 ≠ none ∧
    bolted.opStatus 0x10 0 8 0 false = none ∧ bolted.deadSpan 0 8 = false ∧ (bolted.sta 8).merge.length < 256 := by decide +kernel

theorem met_bonds_down : isCS 0 = true ∧ (∀ i < 12, (up.bond 0 i).state ≠ .up) ∧ (redSize 0x40).isSome = true := by decide +kernel

/-- Operation 7 of core 0, context 0: a load that station 8 performs. -/
def op7 : Op := { id := 7, group := 7, owner := .seq 0 0, kind := .load, ep := 0, laddr := 0, len := 8, target := some 8, issuerSt := 0
                  issuer := 0, sys := false, retAddr := spBase, dest := .scratch, aseq := 0, sent := true, sig := 0, orphan := false }

def issued : State := { stacked with rem := { stacked.rem with ops := [op7] } }

def answered (op vc : Nat) : State := issued.modSta 0 fun x => { x with inbox := [(8, { pkt op vc 0 0 with
  hdr := ({ hdr (pkt op vc 0 0) with issuer := 0 } : Hdr).enc })] }

theorem met_reply : ∀ v ∈ ([(0x70, 1), (0x71, 1), (0x72, 1), (0x73, 1), (0x90, 5), (0x91, 5)] : List (Nat × Nat)),
    ∃ e s1, (answered v.1 v.2).takeInbox 0 (fun p => (hdr p).op == v.1) = some (e, s1) := by
  intro v hv
  simp only [List.mem_cons, List.mem_singleton, List.not_mem_nil, or_false] at hv
  rcases hv with rfl | rfl | rfl | rfl | rfl | rfl <;> exact ⟨_, _, rfl⟩

theorem met_dead : (issued.modSta 8 fun x => { x with up := false }).stServes 8 = false ∧
    issued.rem.ops.find? (fun o => o.id == 7) = some op7 ∧ op7.sent = true ∧ op7.target = some 8 := by decide +kernel

/-- An operation that crosses the rack through station 12. -/
def crossing : RackOp := { id := 3, st := 0, xs := 12, pkt := pkt 1 0 0 0, resends := 0, accepted := false, orphan := false }

theorem met_rack : ({ up with rem := { up.rem with rack := [crossing] } } : State).rem.rack.find? (fun r => r.id == 3) = some crossing ∧
    (hdr crossing.pkt).op = 1 ∧ up.stServes 12 = true := by decide +kernel

def receipt : Receipt := { src := 1, sys := false, issuer := 0, aseq := 0, old := [], ft := 0, pending := true, waiting := [(0, pkt 1 0 0 0)] }

theorem met_receipt : ((up.modMs 0 fun m => { m with receipts := [receipt] }).ms 0).receipts.find? (fun e => e.pending) = some receipt := by
  decide +kernel

/-! ### Contexts and engines -/

/-- A descriptor for engine e of opcode o with byte b6 and operand bytes from byte 8. -/
def desc (e o b6 : Nat) (b8 : Nat) : BitVec 256 := descOf ([BitVec.ofNat 8 o, BitVec.ofNat 8 e, 0, 0, 0, 0x80, BitVec.ofNat 8 b6, 0] ++ leBytes 24 b8)

def waitsFor (w : Why) (d : BitVec 256) : State := up.modCtx 0 0 fun t => { t with
  state := .wait, why := w, sigOp := 0x15, sig := 0, buf := [(0, d)] }

theorem met_fence : ({ waitsFor .fence 0 with rem := { up.rem with fences :=
      [{ core := 0, ctx := 0, engine := false, ops := [], worst := .done }] } } : State).ctxFence 0 0
    = some { core := 0, ctx := 0, engine := false, ops := [], worst := .done } ∧ ((waitsFor .fence 0).ctx 0 0).why = .fence ∧
    ((waitsFor .fence 0).ctx 0 0).sheafOut = 0 := by decide +kernel

def launch0 : LaunchParams := { core := 0, ctx := 0, pri := 0, ring := 0, noend := true, list := 0, b1 := 0 }

theorem met_launch : firstFail (up.launchChecks launch0) = none ∧ firstFail (up.coreChecks 0 0) = none ∧
    (waitsFor .fence 0).stopped 0 0 = false ∧ up.stopped 0 0 = true ∧
    ((up.modCtx 0 0 fun t => { t with state := .stopping }).ctx 0 0).parked = [] ∧
    (up.modCtx 0 0 fun t => { t with state := .stopping }).endRoom 0 0 = true ∧ up.queued 0 0 = 0 ∧ up.answerComes 0 0 = false := by
  decide +kernel

/-- Context 0 of core 0 READY, its next operation in the prefetch buffer. -/
def ready (d : BitVec 256) : State := up.modCtx 0 0 fun t => { t with state := .ready, buf := [(0, d)] }

theorem met_issue : (ready 0).seqRuns 0 = true ∧ (ready 0).pick 0 = some 0 ∧ (ready 0).nextOp 0 0 = some 0 ∧
    ((ready 0).refresh 0).descBad 0 0 0 = none ∧ dEng 0 = 0 ∧ dOp (0 : BitVec 256) = 0 ∧ up.pick 0 = none := by decide +kernel

theorem met_issue_bad : (ready 0xFF).pick 0 = some 0 ∧ (ready 0xFF).nextOp 0 0 = some 0xFF ∧
    ((ready 0xFF).refresh 0).descBad 0 0 0xFF = some (1, .badOpcode) := by decide +kernel

theorem met_prefetch : (up.modCtx 0 0 fun t => { t with state := .ready }).seqRuns 0 = true ∧
    ((up.modCtx 0 0 fun t => { t with state := .ready }).ctx 0 0).issuing = true ∧
    ((up.modCtx 0 0 fun t => { t with state := .ready }).ctx 0 0).fetchBlock = some 0 ∧
    ((up.modCtx 0 0 fun t => { t with state := .ready }).ctx 0 0).descAt 0 = none := by decide +kernel

/-- Descriptor d waits in the queue of engine e of core 0. -/
def inQueue (e : Nat) (d : BitVec 256) : State := up.modEng 0 e fun g => { g with queue :=
  [{ d := d, ctx := 0, addrs := [], begun := false, result := none, progress := 0, entry := none, reading := false, got := [], gotWorst := .done
     ops := [], worst := .done }] }

def opDesc (o : Nat) : BitVec 256 := BitVec.ofNat 256 o

theorem met_engine : ∀ o ∈ [0x00, 0x20, 0x21, 0x22, 0x40, 0x4D, 0x54, 0x59], ∀ e ∈ [0, 4],
    ((inQueue e (opDesc o)).startable 0 e o).isSome = true ∧ up.engRuns 0 e 0 6 = true ∧ up.engRuns 0 0 0 3 = true ∧ up.engRuns 0 4 4 5 = true := by
  decide +kernel

theorem met_transfer : ∀ o ∈ [0x80, 0x81, 0x82, 0x83, 0x84, 0x85, 0x86, 0x87], ((inQueue 6 (opDesc o)).teHead 0).isSome = true ∧
    up.tokensReady 0 (dTokens (opDesc o)) = true ∧ dOp (opDesc o) = o ∧ (up.kd 0).halted = false := by decide +kernel

theorem met_complete : (((inQueue 0 0).modEng 0 0 fun g => g.modQ 0 fun q => { q with begun := true, result := some .done }).completable 0 0).isSome
    = true := by decide +kernel

theorem met_epi : (up.eng 0 0).epiKind 0 1 = some .either ∧ (up.eng 0 0).active.fits 0 = true := by decide +kernel

/-! ### Sows, sheaves, Field Time -/

def sowOf : SowParams := { table := .station, unitNo := 0, sowid := 1, kind := 4, ring := 0, ft := 5
                           action := [0x62, 0, 0, 0, 0, 0, 0, 0] ++ List.replicate 24 0 }

def sown : SowEntry := { sowid := 1, idx := 0, kind := 4, ft := 0, ring := 0, action := List.replicate 32 0, lateLoad := false }

def sowing : State := { up with sows := { up.sows with tables := tset up.sows.tables [] 64 [sown] } }

theorem met_sow_due : sowing.sowDue .station 0 = some sown ∧ sowing.ftValid 32 = true ∧ sowing.sowUnitUp .station 0 = true ∧
    sowing.sowUnitHalted .station 0 = false ∧ (∃ e ∈ sowing.sowTab (sowKey .station 0), e.sowid = 1) ∧ (∀ e ∈ sowing.sowTab (sowKey .station 0), e.sowid ≠ 2) ∧
    sowing.placeFree = true := by decide +kernel

theorem met_sow_add : sheafAddOf (actionCmd (List.replicate 32 0)) = some (0, 0) ∧ (up.sheaf 0).value + 0 ≤ (up.sheaf 0).limit ∧ (up.sheaf 0).waiters = [] := by
  decide +kernel

/-- The bank of field 0 holds an operation of core 0, context 1. -/
def banked (op : SheafOp) (n : Nat) : State := up.modBank 0 fun b => { b with
  inbox := [{ op := op, sheaf := 0, n := n, from? := some (0, 1), sig := 0, pkt := none }] }

theorem met_bank : ((banked .add 1).bank 0).inbox = [{ op := .add, sheaf := 0, n := 1, from? := some (0, 1), sig := 0, pkt := none }] ∧
    (banked .add 1).bistHolds 2 0 = false ∧ (banked .add 1).fieldUp 0 = true ∧ sheafBank 0 = 0 ∧
    ((banked .add 1).sheaf 0).value + 1 ≤ ((banked .add 1).sheaf 0).limit ∧ ((banked .drain 1).sheaf 0).value < 1 ∧
    ((banked .add 1).sheaf 0).limit < ((banked .add (2 ^ 32)).sheaf 0).value + 2 ^ 32 := by decide +kernel

theorem met_take_wait : (up.modSheaf 0 fun h => { h with wlim := 9, waiters := [{ core := 0, ctx := 1, n := 1, sig := 0 }] }).waitsAt 0 0 1
    = some (0, { core := 0, ctx := 1, n := 1, sig := 0 }) := by decide +kernel

theorem met_force : ({ up with warden := { up.warden with lifecycle := 2 } } : State).lifeRefuses 0xEA = false ∧ blockOf 0x300 = some (.wd, 0x300) := by
  decide +kernel

def ctlOf (op : Nat) (data : List Byte) : Packet :=
  { hdr := ({ hdr (pkt op 4 0 0) with xt := true, dest := 5 } : Hdr).enc, ext := ({ src := 2, epoch := 0, sidx := 0, gmask := 0 } : Ext).enc
    data := data }

/-- A member of a group whose master has the ID 2, with a control packet of opcode op of it at the bridge. -/
def member (op : Nat) (data : List Byte) : State :=
  { up with
    time := { up.time with role := .member, t1 := some 0 }
    plat := { up.plat with valid := true, id := 5 }
    group := { up.group with valid := true, role := 0, master := some 2, backup := some 2 }
    bridge := { up.bridge with inbox := [(3, ctlOf op data, 0)] } }

theorem met_exchange : ∀ op ∈ [0x80, 0x83, 0x88, 0x8A, 0x8B, 0x8C, 0x8D], ∃ p s1, (member op []).takeCtl op = some ((3, p, 0), s1) ∧ srcOf p = 2 := by
  intro op hop
  simp only [List.mem_cons, List.not_mem_nil, or_false] at hop
  rcases hop with rfl | rfl | rfl | rfl | rfl | rfl | rfl <;> exact ⟨_, _, rfl, by decide +kernel⟩

theorem met_root : (member 0x8A []).time.t1 = some 0 ∧ (member 0x8A []).time.role = .member ∧ (member 0x8A []).time.sync = .free := by decide +kernel

theorem met_clock : (up.region 0).state = 0 ∧ (up.modRegion 0 fun x => { x with fmin := 140, fmax := 210 }).region 0 ≠ up.region 0 ∧
    ((up.modRegion 0 fun x => { x with fmin := 140, fmax := 210 }).region 0).choose 150 ≠ (up.region 0).freq ∧ up.dieUp 0 = true := by decide +kernel

/-! ### Groups and masters -/

def enrolling : State := { up with warden := { up.warden with lifecycle := 2 } }

theorem met_enrol : enrolling.warden.serving = true ∧ enrolling.warden.attest = none ∧ enrolling.lifeRefuses 0xEB = false ∧
    enrolling.lifeRefuses 0xEC = false ∧ reservedId 5 = false ∧ enrolling.group.valid = false := by decide +kernel

theorem met_rekey : (member 0x8D []).group.role ≠ 1 ∧ (0 : W64).toNat ≤ up.now.toNat ∧
    newerEpoch 1 0 = true ∧ newerEpoch 0 1 = false := by decide +kernel

/-! ### Sleep, power, temperature -/

theorem met_sleep : (up.modTx 1 13 fun t => { t with state := .active, enable := true }).maySleep (.group 1 13) = true ∧
    (up.modCore 0 fun c => { c with asleep := true }).sleeping (.core 0) = true ∧ up.maySleep (.core 0) = true ∧
    ((up.modDiePower 0 fun p => { p with asleep := true }).diePower 0).waking = false := by decide +kernel

theorem met_cut : 2300000000 < railPower (List.replicate 18 100000000) (List.replicate 18 1000) ∧ railPower [] [] ≤ 2300000000 ∧ up.power.cutAt = none := by decide +kernel

theorem met_levels : (up.therm (.cd 0)).level < 2 ∧ ((up.modDiePower 0 fun p => { p with level := 3 }).diePower 0).level = 3 ∧
    206 ≤ ([206] : List Nat).foldl max 0 ∧ bandOf 0 200 ≠ 0 := by decide +kernel

/-! ### Ports and frames -/

def portUp : State := up.modPort 3 fun p => { p with state := .up, sill := .up, gen := 1 }

theorem met_ports : (up.port 3).trainStep = 0 ∧ (up.port 3).state = .off ∧ (up.port 3).enable = true ∧ portUp.portServes 3 = true ∧ portUp.portRuns 3 = true ∧
    portUp.portServes 12 = false ∧ firstFail (({ portUp with plat := { up.plat with valid := true, id := 5 } } : State).calChecks 3 0 2 0) = none := by decide +kernel

theorem met_stranger : portUp.tagOk 3 { hdr := 0, body := [], tag := 0, crc := 0 } = false := by decide +kernel

def frameOf (k : Nat) : Frame :=
  { hdr := ({ fdst := 5, fsrc := 2, kind := k, blen := 0, dinc := 0, sinc := 0, fseq := 0, ackseq := 0, av := false } : FHdr).enc
    body := List.replicate 8 0, tag := 0, crc := 0 }

/-- A frame of kind k for device 5 waits at port 3. -/
def framed (k : Nat) : State := { portUp with plat := { up.plat with valid := true, id := 5 } }.modPort 3 fun p => { p with rxq := [(frameOf k, 0)] }

theorem met_frames : ∀ k ∈ [1, 2, 3, 4, 5], ((framed k).headFrame 3 k).isSome = true := by decide +kernel

def kept : SentFrame := { fdst := 2, fseq := 0, q := queued 1 0 0 0 [3, 2, 0], port := 3, sends := 1, refusals := 0, backoff := 0, due := true
                          inOpen := true, probed := [] }

def resending : State := { portUp with ports := { portUp.ports with sent := [kept] } }

theorem met_resend : resending.ports.sent.find? (fun f => f.port == 3 && resending.resendable f) = some kept ∧ isPeerKey 2 = false ∧
    (2 : Nat) ∉ (resending.port 3).failed ∧ resending.portServes 3 = true := by decide +kernel

theorem met_send_frame : (({ portUp with ports := { portUp.ports with outq := tset portUp.ports.outq [] (outKey (queued 1 0 0 0 [3, 2, 0])) [queued 1 0 0 0 [3, 2, 0]] } } : State).outBuffers 3)
    = [queued 1 0 0 0 [3, 2, 0]] := by decide +kernel

/-! ### Commands and records -/

def held : HeldCmd := { bytes := List.replicate 64 0, via := .p0 }

/-- Hopper 0 is bound to ring 0, whose eight places are free, and holds a NOP. -/
def hopping : State := (up.modCring 0 fun c => { c with enable := true, log2 := 3 }).modHopper 0 fun h => { h with bound := true, held := [held] }

theorem met_hopper : (hopping.hopper 0).nextCmd = some held ∧ (hopping.hopper 0).running = none ∧ hopping.ringRoom 0 = true ∧
    hopping.placeFree = true ∧ held.origin.hopper = 0 ∧ (hseqOf held.bytes - (up.hopper 0).next).toNat = 0 ∧
    (up.hopper 0).bound = false ∧ (hopping.hopper 0).holds (hseqOf held.bytes) = true ∧ cmdBad held.bytes = none := by decide +kernel

theorem met_ring_full : (hopping.modCring 0 fun c => { c with pi := 8 }).ringRoom 0 = false := by decide +kernel

theorem met_ring_set : firstFail (up.ringChecks 0 6 true 0 0) = none ∧
    (up.hopper 0).held = [] ∧ (hopping.cring 0).enable = true := by decide +kernel

theorem met_job : firstFail (up.jobChecks host) = none ∧ up.isSelf ((0 : W64).toNat / 2 ^ 44) = true ∧ touchesRegs 0 8 = false ∧
    (up.sta 0).rmapBolt = false := by decide +kernel

def recorded : Record := { ring := 0, opcode := 0, hopper := 0, kind := 0, tag := 0, status := .done, src := 0, ft := 0, result := [], kept := false }

theorem met_record : ({ hopping with bridge := { hopping.bridge with waiting := [recorded] } } : State).bridge.waiting.find? (fun r => r.ring == 0)
    = some recorded := by decide +kernel

/-! ### Die links, dies, fields -/

theorem met_bond : up.bondsPowered 0 = true ∧ (up.bond 0 0).state = .off ∧ up.test.runs = [] ∧
    ((up.modBond 0 0 fun b => { b with state := .train, resolved := true }).bond 0 0).resolved = true ∧
    popcount ((up.bond 0 0).dieRec).qmask.toNat = 4 := by decide +kernel

theorem met_coil : up.dieUp 0 = true ∧ (up.kd 0).fenced.getLsbD 5 = false ∧
    ((up.modCoil 0 5 fun c => { c with failures := 5 }).coil 0 5).failures = 5 ∧
    ((up.modPort 3 fun p => { p with sill := .up }).port 3).sill = .up := by decide +kernel

theorem met_gate : (up.die 0).state ≠ .gated ∧ up.power.tripped = false ∧ up.fieldUp 0 = true ∧
    ((up.modDie 0 fun d => { d with state := .gated }).die 0).state = .gated ∧
    ((up.modDie 0 fun d => { d with state := .gated }).fieldUp 0) = true ∧ up.warden.lifecycle ≠ 4 := by decide +kernel

/-- Die 0 rejoins, every one of its bond links up. -/
def rejoining : State := each (List.range 36) (fun l s => s.modBond 0 l fun b => { b with state := .up })
  (up.modDie 0 fun d => { d with state := .rejoining, rejoining := some host })

theorem met_rejoin : (rejoining.die 0).rejoining = some host ∧ rejoining.bondsSettled 0 = true ∧ rejoining.bondsOut 0 = false ∧
    (up.core 0).halted = false ∧ (up.port 0).halted = false := by decide +kernel

theorem met_field : up.fieldUp 0 = true ∧ up.lastXs 0 = false ∧ ((up.modField 0 fun f => { f with state := .reset }).field 0).enabling = none ∧
    (∀ i < 48, 60 ≤ tget (warm.modField 0 fun f => { f with state := .reset }).power.sensors 0 (firstSensor (.field 0) + i)) ∧
    up.resets.phase = .ready ∧ (∃ i < 48, tget up.power.sensors 0 (firstSensor (.field 0) + i) < 60) := by decide +kernel

theorem met_package : State.reset.resets.phase ≠ .ready ∧ State.reset.warden.serving = true ∧ State.reset.power.tripped = false ∧
    (∀ k < 4, (State.reset.field k).state ≠ .warmup) ∧ up.power.thermtrip = false ∧ thermOk (.cd 7) = true ∧
    (thresholds (.cd 7)).2.2 ≤ 255 := by decide +kernel

/-! ### Self-test -/

def bistOf (target : Nat) : BistParams := { target := target, index := 0, sub := 0, repair := false, clear := false, save := 0 }

theorem met_bist : firstFail (bolted.bistChecks (bistOf 0)) = none := by decide +kernel

theorem met_bist_unit : ∀ t ≤ 5, bistUnit (bistOf t) = true := by decide +kernel

theorem met_loopback : up.readerCount 1 13 = 0 ∧ (up.txg 1 13).state = .off ∧ (up.txg 1 13).loopback = false ∧ up.stUp 1 = true ∧
    isSownTx 1 13 = true ∧ (up.sta 1).halted = false := by decide +kernel

/-! ### The Warden -/

/-- A part in the life-cycle state PROVISIONED, with a repair record to write. -/
def enrolled : State := ({ up with warden := { up.warden with lifecycle := 2 } } : State).markArea areaRepair

theorem met_warden : up.warden.serving = true ∧ up.warden.attest = none ∧
    (∀ op ∈ [0xE0, 0xE1, 0xE5, 0xE6], up.lifeRefuses op = false) ∧ (∀ f < 10, (up.feed f).state ≠ .hinge) ∧
    (∀ op ∈ [0xE2, 0xE3, 0xE4], enrolled.lifeRefuses op = false) ∧ (enrolled.area areaRepair).dirty = true := by decide +kernel

theorem met_life : (transition 2 3).isSome = true ∧ (transition 0 2) = none ∧ (∃ p, transition 0 1 = some (false, p) ∧ p .smbus true = true) := by
  refine ⟨by decide +kernel, by decide +kernel, _, rfl, by decide +kernel⟩

theorem met_areas : ({ Area.reset with seq0 := some 0, seq1 := some (BitVec.allOnes 32) } : Area).present = some (false, 0) ∧ Area.reset.present = some (false, 0) := by
  decide +kernel

/-! ### The queue, the memory, the wire -/

theorem met_queue : ({ up with pending := [.nop (.host host)] } : State).pending = [.nop (.host host)] ∧ up.pending = [] ∧ up.mem.wf = true ∧
    State.reset.mem.wf = true := by decide +kernel

theorem met_wire : (pkt 0x10 0 0 9).data.length = (hdr (pkt 0x10 0 0 9)).len ∧ (hdr (pkt 0x10 0 0 9)).xt = false ∧ (hdr (pkt 0x10 0 0 9)).op ≠ 0 ∧
    (hdr (pkt 0x10 0 0 9)).dest < 2 ^ 20 ∧ (pkt 0x10 0 0 9).ext = 0 := by decide +kernel

end Sys2Proof.Tests
end

section
/-! SUPPORT. Grains on the lanes (02): what a reader does with a grain, what an acknowledgement and a replay put on the links,
and how the replay buffer is freed. -/

namespace Sys2Proof.Machine

open Sys2Proof Sys2Proof.Safety

/-! ### What the reader sets look at -/

/-- The reader sets look at the reception maps and the stations alone (R44, R122). -/
theorem readers_of_fab {s t : State} (hrx : t.fab.rx = s.fab.rx) (hst : t.fab.st = s.fab.st) (st g : Nat) :
    t.readers st g = s.readers st g := by
  have hr : t.rxg = s.rxg := by
    funext i j
    simp only [State.rxg, hrx]
  have hs : t.sta = s.sta := by
    funext i
    simp only [State.sta, hst]
  have hu : t.stUp = s.stUp := by
    funext i
    simp only [State.stUp, hs]
  unfold State.readers State.readerSet State.liveEntries State.entriesOf
  rw [hr, hs, hu]

theorem isRx_lt {st g : Nat} (h : isRx st g = true) : g < 64 := by
  have hlt : g < numRx st := of_decide_eq_true h
  have hle : numRx st ≤ 48 := by
    unfold numRx
    repeat' split
    all_goals omega
  omega

theorem numRx_le (st : Nat) : numRx st ≤ 48 := by
  unfold numRx
  repeat' split
  all_goals omega

/-- The entry of a receive group, when another one is changed. -/
theorem State.rxg_modRx_ne (s : State) {a b i j : Nat} (f : RxGroup → RxGroup) (h : rxKey i j ≠ rxKey a b) :
    (s.modRx a b f).rxg i j = s.rxg i j := by
  simp [State.rxg, State.modRx, tget_tmod_ne _ _ _ _ h]

theorem rxKey_ne {a b i j : Nat} (hb : b < 64) (hj : j < 64) (h : (i, j) ≠ (a, b)) : rxKey i j ≠ rxKey a b := by
  intro e
  apply h
  unfold rxKey at e
  rw [Prod.mk.injEq]
  omega

/-- Entries that name a group of a station have receive groups that exist (R45, R62). -/
theorem entriesOf_lt {s : State} {st g : Nat} (hst : st < 14) {e : Nat × Nat} (he : e ∈ s.entriesOf st g) : e.2 < 64 := by
  unfold State.entriesOf at he
  split at he
  · rw [List.mem_singleton] at he
    subst he
    simp only [standingIndex, standingPeer]
    repeat' split
    all_goals omega
  · simp only [List.mem_flatMap, List.mem_filterMap, List.mem_range] at he
    obtain ⟨r, -, j, hj, h⟩ := he
    have := numRx_le r
    split at h
    · cases h
      simp only
      omega
    · cases h

/-- Two entries that the reader sets cannot tell apart (R44, R48, R122, R448). -/
def RxGroup.SameReader (a b : RxGroup) : Prop :=
  a.valid = b.valid ∧ a.wst = b.wst ∧ a.wlg = b.wlg ∧ a.state = b.state ∧ a.badParity = b.badParity ∧ a.rejoin = b.rejoin

theorem RxGroup.SameReader.refl (a : RxGroup) : a.SameReader a := ⟨rfl, rfl, rfl, rfl, rfl, rfl⟩

/-- The reader sets of a station's groups stand when no entry changes in what they look at. -/
theorem readers_congr {s t : State} {st : Nat} (hlt : st < 14) (hst : t.fab.st = s.fab.st)
    (hrx : ∀ i j, j < 64 → (t.rxg i j).SameReader (s.rxg i j)) (g : Nat) : t.readers st g = s.readers st g := by
  have hentries : t.entriesOf st g = s.entriesOf st g := by
    unfold State.entriesOf
    split
    · rfl
    · refine List.flatMap_congr fun r _ => List.filterMap_congr fun j hj => ?_
      have hj := (List.mem_range.1 hj).trans_le (numRx_le r)
      obtain ⟨hv, hw, hl, -⟩ := hrx r j (by omega)
      rw [hv, hw, hl]
  have hlive : t.liveEntries st g = s.liveEntries st g := by
    unfold State.liveEntries
    rw [hentries]
    refine List.filter_congr fun e he => ?_
    obtain ⟨-, -, -, -, hp, -⟩ := hrx e.1 e.2 (entriesOf_lt hlt he)
    simp only [hp, State.stUp, State.sta, hst]
  have hmem : ∀ e ∈ s.liveEntries st g, e.2 < 64 := fun e he => entriesOf_lt hlt (List.mem_of_mem_filter he)
  have hset : t.readerSet st g = s.readerSet st g := by
    unfold State.readerSet
    rw [hlive]
    refine List.filter_congr fun e he => ?_
    obtain ⟨-, -, -, hs, -, hr⟩ := hrx e.1 e.2 (hmem e he)
    rw [hs, hr]
  unfold State.readers
  rw [hset]
  refine congrArg _ (List.filter_congr fun e he => ?_)
  obtain ⟨-, -, -, hs, -⟩ := hrx e.1 e.2 (hmem e (List.mem_of_mem_filter he))
  rw [hs]

/-- A change of one entry that the reader sets do not look at leaves every reader set of a station. -/
theorem readers_modRx {s : State} {st i j : Nat} (hlt : st < 14) (hj : j < 64) {f : RxGroup → RxGroup}
    (hf : (f (s.rxg i j)).SameReader (s.rxg i j)) (g : Nat) : (s.modRx i j f).readers st g = s.readers st g := by
  refine readers_congr (s := s) (t := s.modRx i j f) hlt rfl (fun a b hb => ?_) g
  by_cases h : (a, b) = (i, j)
  · cases h
    rw [State.rxg_modRx]
    exact hf
  · rw [State.rxg_modRx_ne s f (rxKey_ne hj hb h)]
    exact .refl _

/-- The path of a LINK grain is given by the groups' states and their readers (R36). -/
theorem linkGroup_congr {s t : State} {st : Nat} (htx : t.fab.tx = s.fab.tx) (hr : ∀ g, t.readers st g = s.readers st g)
    (dst : Nat) : t.linkGroup st dst = s.linkGroup st dst := by
  have hx : t.txg = s.txg := by
    funext i j
    simp only [State.txg, htx]
  have hr : t.readers st = s.readers st := funext hr
  unfold State.linkGroup
  rw [hx, hr]

/-! ### LINK grains (R36 to R38) -/

theorem sendLink_on {s : State} {st dst k : Nat} (h : s.linkGroup st dst = some k) (recs : List W64) :
    s.sendLink st dst recs = s.draw.emit (.grain st k (linkGrain (BitVec.ofNat 12 s.freeVal) st k recs)) := by
  simp [State.sendLink, h]

theorem sendNak_on {s : State} {st rg k : Nat} (hup : s.stUp st = true) (h : s.linkGroup st (s.rxg st rg).wst = some k) :
    s.sendNak st rg = s.draw.emit (.grain st k (linkGrain (BitVec.ofNat 12 s.freeVal) st k
      [ackRecord 2 (s.rxg st rg).wlg (s.rxg st rg).expect])) := by
  simp [State.sendNak, State.linkPath, hup, h, sendLink_on h]

/-- Without a group in service to the writer a NAK is not sent (log entry 74). -/
theorem sendNak_off {s : State} {st rg : Nat} (h : s.linkGroup st (s.rxg st rg).wst = none) : s.sendNak st rg = s := by
  simp [State.sendNak, State.linkPath, h]

/-! ### What a reader does with a grain (R34, R36 to R39) -/

theorem exec_grainReceive {s : State} {st rg : Nat} (hup : s.stUp st = true) (hrx : isRx st rg = true)
    (hv : (s.rxg st rg).valid = true) (hl : (s.rxg st rg).state = .locked) (hp : (s.rxg st rg).badParity = false)
    (g : Grain) : exec (.grainReceive st rg g) s = .next (s.receiveGrain st rg g) := by
  show execGrainReceive st rg g s = _
  simp [execGrainReceive, hup, hrx, hv, hl, hp]

theorem receiveGrain_misrouted {s : State} {st rg : Nat} {g : Grain}
    (h : gWst g ≠ (s.rxg st rg).wst ∨ gWlg g ≠ (s.rxg st rg).wlg) :
    s.receiveGrain st rg g
      = (s.modRx st rg fun r => { r with misroute := inc 16 r.misroute }).raise (ntMisroute st) := by
  simp [State.receiveGrain, h]

/-- No record of a LINK grain touches a reception map (R37, R38, R40, R170). -/
theorem takeRecord_fab_rx (s : State) (st rd : Nat) (rec : W64) : (s.takeRecord st rd rec).fab.rx = s.fab.rx := by
  have hack : (s.takeAck st rd rec).fab.rx = s.fab.rx := by
    unfold State.takeAck
    dsimp only
    repeat' split
    all_goals rfl
  have hnak : (s.takeNak st rec).fab.rx = s.fab.rx := by
    unfold State.takeNak
    split
    · simp only [State.replayFrom, each_emit, State.modTx_fab_rx]
    · rfl
  unfold State.takeRecord
  split
  · split <;> rfl
  · split
    · split
      · exact hack
      · split
        · exact hnak
        · rfl
    · rfl

section
variable {s : State} {st rg : Nat} {g : Grain} (hw : gWst g = (s.rxg st rg).wst) (hl : gWlg g = (s.rxg st rg).wlg)
include hw hl

theorem receiveGrain_spoilt (hok : grainOk g = false) (ht : gType g = 0) :
    s.receiveGrain st rg g = (s.modRx st rg fun r => { r with crcErr := inc 16 r.crcErr }).sendNak st rg := by
  simp [State.receiveGrain, hw, hl, hok, ht]

theorem receiveGrain_link (hok : grainOk g = true) (ht : gType g = 2) :
    s.receiveGrain st rg g = each (grainRecords g) (fun x t => t.takeRecord st (s.rxg st rg).wst x) s := by
  simp [State.receiveGrain, hw, hl, hok, ht]

theorem receiveGrain_expected (hok : grainOk g = true) (ht : gType g = 0) (hq : gSeq g = (s.rxg st rg).expect) :
    s.receiveGrain st rg g = s.modRx st rg fun r => r.keep g := by
  simp [State.receiveGrain, hw, hl, hok, ht, hq]

theorem receiveGrain_gap (hok : grainOk g = true) (ht : gType g = 0) (hq : gSeq g ≠ (s.rxg st rg).expect)
    (hn : (gSeq g - (s.rxg st rg).expect).toNat < 2048) : s.receiveGrain st rg g = s.sendNak st rg := by
  simp only [State.receiveGrain, hw, hl, hok, ht, hq, hn]
  simp

theorem receiveGrain_held (hok : grainOk g = true) (ht : gType g = 0)
    (hn : 2048 ≤ (gSeq g - (s.rxg st rg).expect).toNat) :
    s.receiveGrain st rg g = s.modRx st rg fun r => { r with unacked := true } := by
  have hq : gSeq g ≠ (s.rxg st rg).expect := by
    intro h
    simp [h] at hn
  simp only [State.receiveGrain, hw, hl, hok, ht, hq, not_lt.2 hn]
  simp

end

/-- The records of a LINK grain, each taken with the writer that the entry names when its turn comes (R37). -/
theorem each_takeRecord (st rg w : Nat) (l : List W64) {s : State} (h : (s.rxg st rg).wst = w) :
    each l (fun x t => t.takeRecord st w x) s = each l (fun x t => t.takeRecord st (t.rxg st rg).wst x) s := by
  induction l generalizing s with
  | nil => rfl
  | cons x l ih =>
    have hx : ((s.takeRecord st w x).rxg st rg).wst = w := by
      simpa only [State.rxg, takeRecord_fab_rx] using h
    rw [each_cons, each_cons, h]
    exact ih hx

/-! ### Acknowledgements and replays sent (R36, R38, R41) -/

/-- Everything an acknowledgement changes: the entry owes none, and what is on the links (R36). -/
theorem sendAck_frame (s : State) (st rg : Nat) :
    s.sendAck st rg = { s.modRx st rg (fun r => { r with unacked := false }) with
      out := (s.sendAck st rg).out, drawn := (s.sendAck st rg).drawn } := by
  have hlink : ∀ (u : State) (dst : Nat) (l : List W64),
      u.sendLink st dst l = { u with out := (u.sendLink st dst l).out, drawn := (u.sendLink st dst l).drawn } := by
    intro u dst l
    unfold State.sendLink
    split <;> rfl
  unfold State.sendAck
  dsimp only
  split
  · cases s.ackDropRate st rg != 0 <;> rfl
  · cases s.ackDropRate st rg != 0 <;> exact hlink _ _ _

/-- Forgetting the acknowledgement that an entry owes leaves every LINK grain its path (R36). -/
theorem linkGroup_unacked {s : State} {st rg : Nat} (hlt : st < 14) (hrx : isRx st rg = true) (b : Bool) (dst : Nat) :
    (s.modRx st rg fun r => { r with unacked := b }).linkGroup st dst = s.linkGroup st dst :=
  linkGroup_congr (s := s) (t := s.modRx st rg _) rfl
    (readers_modRx (s := s) (f := fun r => { r with unacked := b }) hlt (isRx_lt hrx) ⟨rfl, rfl, rfl, rfl, rfl, rfl⟩) dst

/-- An acknowledgement that a perturbation drops leaves nothing on the links (R603). -/
theorem sendAck_dropped {s : State} {st rg : Nat} (h : s.oneIn (s.ackDropRate st rg) = true) :
    (s.sendAck st rg).out = s.out := by
  unfold State.sendAck
  dsimp only
  rw [if_pos h]
  cases s.ackDropRate st rg != 0 <;> rfl

/-- An acknowledgement names the grain before the expected one (R36). -/
theorem sendAck_sent {s : State} {st rg k : Nat} (hlt : st < 14) (hrx : isRx st rg = true)
    (hk : s.linkGroup st (s.rxg st rg).wst = some k) (h : s.oneIn (s.ackDropRate st rg) = false) :
    ∃ q, (s.sendAck st rg).out = s.out ++
      [.grain st k (linkGrain q st k [ackRecord 1 (s.rxg st rg).wlg ((s.rxg st rg).expect - 1)])] := by
  have hpath := (linkGroup_unacked hlt hrx false (s.rxg st rg).wst).trans hk
  unfold State.sendAck
  dsimp only
  rw [if_neg (by simp [h])]
  cases s.ackDropRate st rg != 0
  · exact ⟨_, congrArg State.out (sendLink_on hpath _)⟩
  · exact ⟨_, congrArg State.out (sendLink_on (s := (s.modRx st rg fun r => { r with unacked := false }).draw)
      hpath _)⟩

/-- A replay puts the grains of the buffer from a place on, each with RPL set, and counts them (R38, R63). -/
theorem replayFrom_eq (s : State) (st g i : Nat) :
    s.replayFrom st g i = { s.modTx st g (fun x => { x with rplcnt := sat 32 (x.rplcnt + (x.replay.drop i).length) }) with
      out := s.out ++ ((s.txg st g).replay.drop i).map fun x => .grain st g (asReplay x.grain) } := by
  have hcount : s.modTx st g (fun x => { x with rplcnt := sat 32 (x.rplcnt + ((s.txg st g).replay.drop i).length) })
      = s.modTx st g (fun x => { x with rplcnt := sat 32 (x.rplcnt + (x.replay.drop i).length) }) :=
    State.modTx_congr s rfl
  simp only [State.replayFrom, each_emit, hcount, State.modTx_out]

/-! ### The obligations on grains received -/

/-- Settles O1: the entry is looked at before everything else of the grain. -/
theorem misroutedGrainIsCounted : Obligations.MisroutedGrainIsCounted := by
  unfold Obligations.MisroutedGrainIsCounted
  intro st rg g s hup hrx hv hl hp hne
  have hst := stUp_lt hup
  refine ⟨_, exec_grainReceive hup hrx hv hl hp g, ?_⟩
  rw [receiveGrain_misrouted hne]
  exact ⟨raise_same _ _, raise_pend _ (by simp only [ntMisroute]; omega)⟩

theorem exec_ackSend {s : State} {st rg k : Nat} (hup : s.stUp st = true) (hrx : isRx st rg = true)
    (hu : (s.rxg st rg).unacked = true) (hk : s.linkGroup st (s.rxg st rg).wst = some k) :
    exec (.ackSend st rg) s = .next (s.sendAck st rg) := by
  show execAckSend st rg s = _
  simp [execAckSend, State.linkPath, hup, hrx, hu, hk]

theorem exec_nakReceive {s : State} {st rd i : Nat} {rec : W64} (hup : s.stUp st = true) (htx : isTx st (recGroup rec) = true)
    (hk : recKind rec = 2) (hrd : rd ∈ s.readers st (recGroup rec))
    (hi : replayIndex (s.txg st (recGroup rec)).replay (recSeq rec) = some i) :
    exec (.nakReceive st rd rec) s = .next (s.replayFrom st (recGroup rec) i) := by
  show execNakReceive st rd rec s = _
  simp [execNakReceive, State.takeNak, hup, htx, hk, hrd, hi]

theorem exec_replayTimeout {s : State} {st g : Nat} (htx : isTx st g = true) (hc : (s.txg st g).carries = true)
    (hr : (s.txg st g).replay ≠ []) :
    exec (.replayTimeout st g) s = .next (if 4 ≤ (s.txg st g).timeouts then s.leaveService st g
      else (s.modTx st g fun t => { t with timeouts := t.timeouts + 1 }).replayFrom st g 0) := by
  show execReplayTimeout st g s = _
  have hne : (s.txg st g).replay.isEmpty = false := by simpa using hr
  simp [execReplayTimeout, htx, hc, hne]

/-- Settles O2: each case of a grain received by the lemma of that case, then the acknowledgement, and the two replays, which
are one operation from different places of the buffer. -/
theorem grainsAreKeptAndAcknowledged : Obligations.GrainsAreKeptAndAcknowledged := by
  unfold Obligations.GrainsAreKeptAndAcknowledged
  refine ⟨?_, ?_, ?_, ?_⟩
  · intro st rg g s hup hrx hv hl hp hw hg
    rw [exec_grainReceive hup hrx hv hl hp g]
    refine ⟨fun hok ht hq => ?_, fun hok ht hq hn => ?_, fun hok ht hn => ?_, fun hok ht => ?_, fun hok ht => ?_⟩
    · rw [receiveGrain_expected hw hg hok ht hq]
      rfl
    · rw [receiveGrain_gap hw hg hok ht hq hn]
      exact ⟨fun k hk => by rw [sendNak_on hup hk], fun hk => by rw [sendNak_off hk]⟩
    · rw [receiveGrain_held hw hg hok ht hn]
    · rw [receiveGrain_link hw hg hok ht, each_takeRecord st rg _ _ rfl]
    · rw [receiveGrain_spoilt hw hg hok ht]
      refine ⟨fun k hk => ?_, fun hk => ?_⟩
      · rw [sendNak_on (s := s.modRx st rg _) hup (by rw [State.rxg_modRx]; exact hk), State.rxg_modRx]
        rfl
      · rw [sendNak_off (by rw [State.rxg_modRx]; exact hk)]
  · intro st rg k s hup hrx hu hk
    have hlt := stUp_lt hup
    obtain ⟨q, hq⟩ : ∃ q, s.oneIn (s.ackDropRate st rg) = false → (s.sendAck st rg).out = s.out ++
        [.grain st k (linkGrain q st k [ackRecord 1 (s.rxg st rg).wlg ((s.rxg st rg).expect - 1)])] := by
      cases h : s.oneIn (s.ackDropRate st rg)
      · exact (sendAck_sent hlt hrx hk h).imp fun q hq _ => hq
      · exact ⟨0, nofun⟩
    exact ⟨_, q, exec_ackSend hup hrx hu hk, sendAck_frame s st rg, hq, sendAck_dropped⟩
  · intro st rd i rec s hup htx hk hrd hi
    refine ⟨_, exec_nakReceive hup htx hk hrd hi, ?_⟩
    rw [replayFrom_eq]
    exact ⟨rfl, rfl⟩
  · intro st g s htx hc hr hn
    refine ⟨_, exec_replayTimeout htx hc hr, ?_⟩
    rw [if_neg (by omega), replayFrom_eq, State.modTx_twice, State.txg_modTx]
    exact ⟨rfl, by simp⟩

/-! ### The replay buffer is freed (R40, R44) -/

theorem le_foldl_min {l : List Nat} {a m : Nat} : m ≤ l.foldl min a ↔ m ≤ a ∧ ∀ x ∈ l, m ≤ x := by
  induction l generalizing a with
  | nil => simp
  | cons x l ih => simp [ih, and_assoc]

/-- How many of the oldest grains every reader has acknowledged (R40). -/
def TxGroup.ackedByAll (t : TxGroup) (readers : List Nat) : Nat :=
  (readers.map fun r => tget t.acked 0 r).foldl min t.replay.length

theorem TxGroup.le_ackedByAll {t : TxGroup} {readers : List Nat} {m : Nat} :
    m ≤ t.ackedByAll readers ↔ m ≤ t.replay.length ∧ ∀ r ∈ readers, m ≤ tget t.acked 0 r := by
  simp [TxGroup.ackedByAll, le_foldl_min]

theorem TxGroup.free_eq (t : TxGroup) (readers : List Nat) :
    t.free readers = { t with replay := t.replay.drop (t.ackedByAll readers), acked := (t.free readers).acked } := rfl

/-- A reader that has acknowledged nothing keeps every grain in the buffer (R40). -/
theorem TxGroup.free_waits {t : TxGroup} {readers : List Nat} {r : Nat} (hr : r ∈ readers) (h0 : tget t.acked 0 r = 0) :
    (t.free readers).replay = t.replay := by
  have h : t.ackedByAll readers = 0 := by
    have := (TxGroup.le_ackedByAll (t := t).1 le_rfl).2 r hr
    omega
  rw [t.free_eq, h]
  rfl

/-- With no reader nothing is waited for (R44). -/
theorem TxGroup.free_no_reader (t : TxGroup) : (t.free []).replay = [] := by
  rw [t.free_eq]
  simp [TxGroup.ackedByAll]

theorem exec_ackReceive {s : State} {st rd i : Nat} {rec : W64} (hup : s.stUp st = true) (htx : isTx st (recGroup rec) = true)
    (hk : recKind rec = 1) (hrd : rd ∈ s.readers st (recGroup rec))
    (hi : replayIndex (s.txg st (recGroup rec)).replay (recSeq rec) = some i)
    (hn : tget (s.txg st (recGroup rec)).acked 0 rd < i + 1) :
    exec (.ackReceive st rd rec) s = .next (s.modTx st (recGroup rec) fun t =>
      TxGroup.free { t with acked := tset t.acked 0 rd (i + 1), timeouts := 0 } (s.readers st (recGroup rec))) := by
  show execAckReceive st rd rec s = _
  simp [execAckReceive, State.takeAck, hup, htx, hk, hrd, hi, Nat.lt_succ_iff.1 hn]

theorem exec_grainSend {s : State} {st g : Nat} (hup : s.stUp st = true) (htx : isTx st g = true)
    (hc : (s.txg st g).carries = true) :
    exec (.grainSend st g) s = .next (if (s.txg st g).hasData then s.sendData st g
      else s.emit (.grain st g (mkGrain (List.replicate 120 0) (s.txg st g).gseq 1 15 false false st g))) := by
  show execGrainSend st g s = _
  simp [execGrainSend, hup, htx, hc]

/-- Settles O3: the number of grains freed is the least of what the readers have acknowledged, and a full buffer sends none. -/
theorem replayBufferWaitsForEveryReader : Obligations.ReplayBufferWaitsForEveryReader := by
  unfold Obligations.ReplayBufferWaitsForEveryReader
  refine ⟨?_, ?_⟩
  · intro st rd i rec s hup htx hk hrd hi hn
    let g := recGroup rec
    let x : TxGroup := { s.txg st g with acked := tset (s.txg st g).acked 0 rd (i + 1), timeouts := 0 }
    have hacked : ∀ r, tget x.acked 0 r = if r = rd then i + 1 else tget (s.txg st g).acked 0 r :=
      tget_tset (s.txg st g).acked 0 rd (i + 1)
    have hleast := fun m => TxGroup.le_ackedByAll (t := x) (readers := s.readers st g) (m := m)
    simp only [hacked] at hleast
    refine ⟨_, x.ackedByAll (s.readers st g), exec_ackReceive hup htx hk hrd hi hn, ?_, ((hleast _).1 le_rfl).2, ?_, ?_⟩
    · rw [State.txg_modTx]
      rfl
    · exact fun m hm => (hleast _).2 ⟨min_le_right .., fun r hr => (min_le_left ..).trans (hm r hr)⟩
    · rw [State.txg_modTx]
      exact State.modTx_congr s rfl
  · intro st g s hup htx hc hfull
    have hno : (s.txg st g).hasData = false := by simp [TxGroup.hasData, hfull]
    rw [exec_grainSend hup htx hc, hno]
    rfl

end Sys2Proof.Machine
end

section
/-! SUPPORT. Lane groups (02): the DATA grain that a group sends, and how a group leaves service and returns. -/

namespace Sys2Proof.Machine

open Sys2Proof Sys2Proof.Safety

/-! ### A DATA grain is sent (R32, R33, R36) -/

/-- A grain takes at most as many words as it has room for (R33). -/
theorem fillGrain_length_le (l : List QPacket) : ∀ (n : Nat) (ws : List StreamWord) (cur : Option QPacket),
    (fillGrain n ws cur l).1.length ≤ n := by
  induction l with
  | nil => exact fun n ws cur => List.length_take_le n ws
  | cons q r ih =>
    intro n ws cur
    by_cases h : n ≤ ws.length
    · simp only [fillGrain, h, if_true]
      exact List.length_take_le n ws
    · simp only [fillGrain, h, if_false, List.length_append]
      have := ih (n - ws.length) (pktWords q.pkt) (some q)
      omega

/-- START of a grain is the place of its first header, 15 when it has none (R32). -/
theorem headerPlace_lt {l : List StreamWord} (h : l.length ≤ 15) : (l.findIdx? StreamWord.hdr).getD 15 < 16 := by
  cases hi : l.findIdx? StreamWord.hdr with
  | none => decide
  | some i =>
    have := (List.findIdx?_eq_some_iff_findIdx_eq.1 hi).1
    simp only [Option.getD_some]
    omega

/-- What the lanes of a group carry next: the words of the grain, its packets, and what is left (R33). -/
def TxGroup.filled (t : TxGroup) := fillGrain 15 t.words t.current t.queue

/-- The DATA grain that a group of a station sends next (R32, R33). -/
def TxGroup.dataGrain (t : TxGroup) (st g : Nat) : Grain :=
  mkGrain (sliceB (t.filled.1.flatMap fun w => wordBytes w.w) 0 120) t.gseq 0
    ((t.filled.1.findIdx? StreamWord.hdr).getD 15) false
    (decide (t.state = .draining) && t.filled.2.2.1.isEmpty && t.filled.2.2.2.2.isEmpty) st g

/-- A group that has made its next DATA grain: the grain is kept for replay with its packets (R33, R36). -/
def TxGroup.afterData (t : TxGroup) (st g : Nat) : TxGroup :=
  { t with
    gseq := t.gseq + 1
    replay := t.replay ++ [{ grain := t.dataGrain st g, pkts := t.filled.2.1 }]
    words := t.filled.2.2.1
    current := t.filled.2.2.2.1
    queue := t.filled.2.2.2.2 }

theorem dataGrain_fields (t : TxGroup) {st g : Nat} (hst : st < 14) (hg : g < 64) :
    gSeq (t.dataGrain st g) = t.gseq ∧ gType (t.dataGrain st g) = 0 ∧ gWst (t.dataGrain st g) = st ∧
    gWlg (t.dataGrain st g) = g ∧ gRpl (t.dataGrain st g) = false ∧ grainOk (t.dataGrain st g) = true := by
  obtain ⟨hseq, htype, -, hrpl, -, hwst, hwlg, hok⟩ := mkGrain_fields
    (sliceB (t.filled.1.flatMap fun w => wordBytes w.w) 0 120) t.gseq false
    (decide (t.state = .draining) && t.filled.2.2.1.isEmpty && t.filled.2.2.2.2.isEmpty) (ty := 0)
    (by omega) (headerPlace_lt (fillGrain_length_le t.queue 15 t.words t.current)) (by omega : st < 16) hg
  exact ⟨hseq, htype, hwst, hwlg, hrpl, hok (by omega)⟩

/-- The grain goes on the lanes, spoilt when a perturbation takes it (R603), and the buffer is freed as far as it can be. -/
theorem sendData_eq (s : State) (st g : Nat) :
    s.sendData st g = { s.modTx st g (fun x => (x.afterData st g).free (s.readers st g)) with
      out := s.out ++ [.grain st g (if s.oneIn (s.laneErrRate st g) then spoilCrc ((s.txg st g).dataGrain st g)
        else (s.txg st g).dataGrain st g)]
      drawn := (s.sendData st g).drawn } := by
  have hmade : s.modTx st g (fun x => { x with
      gseq := x.gseq + 1
      replay := x.replay ++ [{ grain := (s.txg st g).dataGrain st g, pkts := (s.txg st g).filled.2.1 }]
      words := (s.txg st g).filled.2.2.1
      current := (s.txg st g).filled.2.2.2.1
      queue := (s.txg st g).filled.2.2.2.2 }) = s.modTx st g (fun x => x.afterData st g) := State.modTx_congr s rfl
  have hsent : s.sendData st g = State.settleAcks ((((s.modTx st g fun x => x.afterData st g).when
      (s.laneErrRate st g != 0) State.draw)).emit (.grain st g (if s.oneIn (s.laneErrRate st g) then
        spoilCrc ((s.txg st g).dataGrain st g) else (s.txg st g).dataGrain st g))) st g := by
    rw [← hmade]
    rfl
  have hread : ∀ u : State, u.fab.rx = s.fab.rx → u.fab.st = s.fab.st → u.settleAcks st g
      = u.modTx st g fun x => x.free (s.readers st g) := by
    intro u hrx hst
    rw [State.settleAcks, readers_of_fab hrx hst]
  have hfree := State.modTx_twice s st g (fun x => x.afterData st g) (fun x => x.free (s.readers st g))
  rw [hsent]
  cases s.laneErrRate st g != 0
  · rw [State.when_false, hread, ← hfree] <;> rfl
  · rw [State.when_true, hread, ← hfree] <;> rfl

/-! ### Changes of the fabric alone -/

/-- t is s but for the fabric and what notices leave behind. -/
def FabricOnly (s t : State) : Prop := SameButSignals { s with fab := t.fab } t

theorem FabricOnly.of_same {s t : State} (h : SameButSignals s t) : FabricOnly s t := by
  unfold FabricOnly
  rw [h.fab]
  exact h

theorem FabricOnly.trans {s t u : State} (h : FabricOnly s t) (k : FabricOnly t u) : FabricOnly s u := by
  unfold FabricOnly SameButSignals at *
  rw [k, h]

theorem FabricOnly.light {s t : State} (h : FabricOnly s t) : t.light = s.light :=
  SameButSignals.light (s := { s with fab := t.fab }) h
theorem FabricOnly.mem {s t : State} (h : FabricOnly s t) : t.mem = s.mem :=
  SameButSignals.mem (s := { s with fab := t.fab }) h
theorem FabricOnly.bridge {s t : State} (h : FabricOnly s t) : t.bridge = s.bridge :=
  SameButSignals.bridge (s := { s with fab := t.fab }) h
theorem FabricOnly.cores {s t : State} (h : FabricOnly s t) : t.cores = s.cores :=
  SameButSignals.cores (s := { s with fab := t.fab }) h
theorem FabricOnly.credit {s t : State} (h : FabricOnly s t) : t.credit = s.credit := by
  unfold FabricOnly SameButSignals at h
  rw [h]

theorem modTx_fabric (s : State) (st g : Nat) (f : TxGroup → TxGroup) : FabricOnly s (s.modTx st g f) := rfl
theorem modRx_fabric (s : State) (st g : Nat) (f : RxGroup → RxGroup) : FabricOnly s (s.modRx st g f) := rfl
theorem modRing_fabric (s : State) (r : RingId) (f : Ring → Ring) : FabricOnly s (s.modRing r f) := rfl

/-- What relates each state to the next relates the first to the last. -/
theorem each_rel {α : Type} {R : State → State → Prop} (hr : ∀ s, R s s) (ht : ∀ {a b c}, R a b → R b c → R a c)
    (l : List α) {f : α → State → State} (hf : ∀ a s, R s (f a s)) (s : State) : R s (each l f s) :=
  each_inv (R s) l f (hr s) fun a t h => ht h (hf a t)

theorem each_fabric {α : Type} (l : List α) {f : α → State → State} (hf : ∀ a s, FabricOnly s (f a s)) (s : State) :
    FabricOnly s (each l f s) := each_rel (R := FabricOnly) (fun _ => rfl) FabricOnly.trans l hf s

/-! ### A group leaves service (R35, R41, R42, R92) -/

/-- A packet that steering places goes into queues of its station's groups, and nothing else of them changes (R48, R59). -/
theorem place_txg (s : State) (st g : Nat) (q : QPacket) :
    ∃ l, (s.place st q).txg st g = { s.txg st g with queue := l } := by
  have henq : ∀ (u : State) (i : Nat) (p : QPacket), (∃ l, u.txg st g = { s.txg st g with queue := l }) →
      ∃ l, (u.enqueue st i p).txg st g = { s.txg st g with queue := l } := by
    rintro u i p ⟨l, hl⟩
    by_cases hi : i = g
    · subst hi
      exact ⟨l ++ [p], by rw [State.enqueue, State.txg_modTx, hl]⟩
    · have hk : txKey st g ≠ txKey st i := by
        unfold txKey
        omega
      refine ⟨l, ?_⟩
      rw [← hl]
      simp [State.enqueue, State.txg, State.modTx, tget_tmod_ne _ _ _ _ hk]
  have hall : ∀ (u : State) (l : List (Nat × QPacket)), (∃ m, u.txg st g = { s.txg st g with queue := m }) →
      ∃ m, (u.enqueueAll st l).txg st g = { s.txg st g with queue := m } := fun u l h =>
    each_inv (fun u => ∃ m, u.txg st g = { s.txg st g with queue := m }) l _ h fun x u => henq u x.1 x.2
  exact each_inv (fun u => ∃ m, u.txg st g = { s.txg st g with queue := m }) _ _ (hall _ _ ⟨_, rfl⟩) fun x u => hall u _

/-- Packets that are placed again leave a group as it is but for its queue. -/
theorem each_place_txg (s : State) (st g : Nat) (l : List QPacket) :
    ∃ m, (each l (fun q s => s.place st q) s).txg st g = { s.txg st g with queue := m } := by
  refine each_inv (fun u => ∃ m, u.txg st g = { s.txg st g with queue := m }) l _ ⟨_, rfl⟩ ?_
  rintro q u ⟨m, hm⟩
  obtain ⟨m', hm'⟩ := place_txg u st g q
  exact ⟨m', by rw [hm', hm]⟩

theorem setTxState_same (s : State) (st g : Nat) (x : LgState) :
    SameButSignals (s.modTx st g fun t => { t with state := x }) (s.setTxState st g x) :=
  (sense_same _ _ s).trans (capSense_same _ _ s)

theorem setTxState_fabric (s : State) (st g : Nat) (x : LgState) : FabricOnly s (s.setTxState st g x) :=
  (modTx_fabric s st g _).trans (.of_same (setTxState_same s st g x))

theorem txg_of_same {s t : State} (h : SameButSignals s t) (st g : Nat) : t.txg st g = s.txg st g := by
  rw [State.txg, h.fab, ← State.txg]

theorem leaveService_eq {s : State} {st g : Nat} (h : ¬((s.txg st g).hinged = true ∧ (s.txg st g).state = .draining)) :
    s.leaveService st g = each (s.txg st g).packets (fun q s => s.place st q)
      ((s.modTx st g fun x => { x.clear with
        waking := false, window := false, lateFault := x.lateFault || x.hinged }).setTxState st g
        (if (s.txg st g).hinged then .off else .fault)) := by
  unfold State.leaveService
  rw [if_neg h]

/-- What a group holds after it has left service: its packets are gone, its other settings stand (R42). -/
theorem leaveService_txg {s : State} {st g : Nat} (h : ¬((s.txg st g).hinged = true ∧ (s.txg st g).state = .draining)) :
    ∃ l, (s.leaveService st g).txg st g = { (s.txg st g).clear with
      waking := false, window := false, lateFault := (s.txg st g).lateFault || (s.txg st g).hinged, queue := l
      state := if (s.txg st g).hinged then .off else .fault } := by
  rw [leaveService_eq h]
  obtain ⟨m, hm⟩ := each_place_txg ((s.modTx st g fun x => { x.clear with
    waking := false, window := false, lateFault := x.lateFault || x.hinged }).setTxState st g
      (if (s.txg st g).hinged then .off else .fault)) st g (s.txg st g).packets
  refine ⟨m, ?_⟩
  rw [hm, txg_of_same (setTxState_same _ _ _ _), State.txg_modTx, State.txg_modTx]

theorem leftService_leaveService {s : State} {st g : Nat}
    (h : ¬((s.txg st g).hinged = true ∧ (s.txg st g).state = .draining)) : LeftService s st g (s.leaveService st g) := by
  obtain ⟨l, hl⟩ := leaveService_txg h
  exact ⟨leaveService_eq h, by rw [hl], by rw [hl]; rfl⟩

/-- A hinged group that drains lets go of what it holds, for substitutes hold it (R90, R92). -/
theorem leaveService_hinged {s : State} {st g : Nat} (hh : (s.txg st g).hinged = true) (hd : (s.txg st g).state = .draining) :
    s.leaveService st g = s.modTx st g TxGroup.clear := by
  unfold State.leaveService
  rw [if_pos ⟨hh, hd⟩]

/-! ### A group returns (R43) -/

/-- A group that returns starts its numbers anew with what waits in its queue, and enters the state that its ENABLE gives (R43). -/
theorem returnGroup_txg (s : State) (st g : Nat) :
    (s.returnGroup st g).txg st g = { (s.txg st g).clear with
      gseq := 0, queue := (s.txg st g).queue, lateFault := false
      state := if (s.txg st g).enable then .active else .off } := by
  have hseq : (s.restartSeq st g).txg st g = { (s.txg st g).clear with gseq := 0 } := by
    have h : (s.restartSeq st g).fab.tx = (s.modTx st g fun t => { t.clear with gseq := 0 }).fab.tx :=
      each_inv (fun u => u.fab.tx = (s.modTx st g fun t => { t.clear with gseq := 0 }).fab.tx) _ _ rfl fun _ _ hu => hu
    rw [State.txg, h, ← State.txg, State.txg_modTx]
  unfold State.returnGroup
  dsimp only
  rw [State.txg_modTx, txg_of_same (setTxState_same _ _ _ _), State.txg_modTx, hseq]

/-- A group that returns changes the fabric alone (R43). -/
theorem returnGroup_fabric (s : State) (st g : Nat) : FabricOnly s (s.returnGroup st g) := by
  have hseq : FabricOnly s (s.restartSeq st g) := by
    refine FabricOnly.trans (modTx_fabric s st g _) (each_fabric _ (fun e u => modRx_fabric u _ _ _) _)
  exact (hseq.trans (setTxState_fabric _ st g _)).trans (modTx_fabric _ st g _)

/-! ### A lane is marked bad (R35) -/

theorem execLaneMarkedBad_eq {s : State} {st g lane : Nat} (htx : isTx st g = true) (hl : lane < 8)
    (hb : (s.txg st g).bad.getLsbD lane = false) :
    exec (.laneMarkedBad st g lane) s = .next (s.markLane st g lane) := by
  show execLaneMarkedBad st g lane s = _
  simp only [execLaneMarkedBad, htx, hl, hb, decide_true, Bool.not_false, Bool.and_true, act_true]

section
variable {s : State} {st g lane : Nat} (hin : (s.txg st g).inService = true)
include hin

theorem markLane_leaves (hn : ((s.modTx st g fun x => { x with bad := x.bad ||| (1#8 <<< lane) }).txg st g).lanes < 4) :
    s.markLane st g lane = (s.modTx st g fun x => { x with bad := x.bad ||| (1#8 <<< lane) }).leaveService st g := by
  unfold State.markLane
  dsimp only
  rw [if_neg (by simp [hin]), if_pos hn]

theorem markLane_sleeps (hn : 4 ≤ ((s.modTx st g fun x => { x with bad := x.bad ||| (1#8 <<< lane) }).txg st g).lanes)
    (ha : (s.txg st g).state = .asleep) :
    s.markLane st g lane = s.modTx st g fun x => { x with bad := x.bad ||| (1#8 <<< lane) } := by
  unfold State.markLane
  dsimp only
  rw [if_neg (by simp [hin]), if_neg (by omega), if_pos ha]

theorem markLane_retrains (hn : 4 ≤ ((s.modTx st g fun x => { x with bad := x.bad ||| (1#8 <<< lane) }).txg st g).lanes)
    (ha : (s.txg st g).state ≠ .asleep) :
    SameButSignals (s.modTx st g fun x => { x with bad := x.bad ||| (1#8 <<< lane), state := .retrain })
      (s.markLane st g lane) := by
  unfold State.markLane
  dsimp only
  rw [if_neg (by simp [hin]), if_neg (by omega), if_neg ha]
  have h := setTxState_same (s.modTx st g fun x => { x with bad := x.bad ||| (1#8 <<< lane) }) st g .retrain
  rw [State.modTx_twice] at h
  exact h

end

/-! ### The obligation on lane groups -/

theorem exec_groupLeaveService {s : State} {st g : Nat} (htx : isTx st g = true) (hin : (s.txg st g).inService = true) :
    exec (.groupLeaveService st g) s = .next (s.leaveService st g) := by
  show execGroupLeaveService st g s = _
  simp [execGroupLeaveService, htx, hin]

theorem exec_groupRetrainEnd {s : State} {st g : Nat} (htx : isTx st g = true) (hr : (s.txg st g).state = .retrain) :
    exec (.groupRetrainEnd st g) s
      = .next (s.setTxState st g (if (s.txg st g).enable then .active else .draining)) := by
  show execGroupRetrainEnd st g s = _
  simp [execGroupRetrainEnd, htx, hr]

theorem exec_groupDrained {s : State} {st g : Nat} (htx : isTx st g = true) (hd : (s.txg st g).state = .draining)
    (he : (s.txg st g).enable = false) (hp : (s.txg st g).packets = []) (hr : (s.txg st g).replay = []) :
    exec (.groupDrained st g) s = .next (s.setTxState st g .drained) := by
  show execGroupDrained st g s = _
  simp [execGroupDrained, htx, hd, he, hp, hr]

/-- What GRAIN_SEND puts on the lanes and keeps when there is something to send (R32, R33, R36, R40). -/
theorem grainSend_data {s : State} {st g : Nat} (hup : s.stUp st = true) (htx : isTx st g = true)
    (hc : (s.txg st g).carries = true) (hroom : (s.txg st g).replay.length < 512)
    (hdata : (s.txg st g).words ≠ [] ∨ (s.txg st g).queue ≠ []) :
    exec (.grainSend st g) s = .next (s.sendData st g) := by
  have hhas : (s.txg st g).hasData = true := by
    simp only [TxGroup.hasData, Bool.and_eq_true, decide_eq_true_eq, Bool.not_eq_true', Bool.and_eq_false_iff,
      List.isEmpty_eq_false_iff]
    exact ⟨hroom, hdata⟩
  rw [exec_grainSend hup htx hc, if_pos hhas]

/-- Settles O4: the grain of a group by `sendData_eq`, the ways out of service by `leaveService`, the return by `returnGroup`. -/
theorem laneGroupsKeepLeaveAndReturn : Obligations.LaneGroupsKeepLeaveAndReturn := by
  unfold Obligations.LaneGroupsKeepLeaveAndReturn
  refine ⟨?_, ?_, ?_, ?_, ?_, ?_, ?_, ?_, ?_, ?_⟩
  · intro st g s hup htx hc hroom hdata
    obtain ⟨hseq, htype, hwst, hwlg, hrpl, hok⟩ := dataGrain_fields (s.txg st g) (stUp_lt hup) (isTx_lt htx)
    have hgrp : (s.sendData st g).txg st g = ((s.txg st g).afterData st g).free (s.readers st g) := by
      rw [sendData_eq]
      exact State.txg_modTx ..
    have hout : (s.sendData st g).out = s.out ++ [.grain st g (if s.oneIn (s.laneErrRate st g) then
        spoilCrc ((s.txg st g).dataGrain st g) else (s.txg st g).dataGrain st g)] := by rw [sendData_eq]
    refine ⟨_, { grain := (s.txg st g).dataGrain st g, pkts := (s.txg st g).filled.2.1 },
      grainSend_data hup htx hc hroom hdata, hseq, htype, hwst, hwlg, hrpl, hok, ?_, ?_, ?_, ?_, ?_, ?_⟩
    · rw [hgrp]
      rfl
    · rintro ⟨r, hr, h0⟩
      rw [hgrp]
      exact TxGroup.free_waits hr h0
    · intro hr
      rw [hgrp, hr]
      exact TxGroup.free_no_reader _
    · intro h
      rw [hout, h]
      rfl
    · intro h
      rw [hout, h]
      rfl
    · have hkept : (s.modTx st g fun x => (x.afterData st g).free (s.readers st g)) = s.modTx st g fun x =>
          TxGroup.free { x with
            gseq := x.gseq + 1
            replay := x.replay ++ [{ grain := (s.txg st g).dataGrain st g, pkts := (s.txg st g).filled.2.1 }]
            words := ((s.sendData st g).txg st g).words
            current := ((s.sendData st g).txg st g).current
            queue := ((s.sendData st g).txg st g).queue } (s.readers st g) := State.modTx_congr s (by rw [hgrp]; rfl)
      have hsent := sendData_eq s st g
      rw [hkept] at hsent
      rw [hout]
      exact hsent
  · intro st g s htx hin hh
    exact ⟨_, exec_groupLeaveService htx hin, leftService_leaveService hh⟩
  · intro st g s htx hh hd
    have hin : (s.txg st g).inService = true := by simp [TxGroup.inService, TxGroup.carries, hd]
    rw [exec_groupLeaveService htx hin, leaveService_hinged hh hd]
  · intro st g s htx hc hr ht hh
    rw [exec_replayTimeout htx hc hr, if_pos ht]
    exact ⟨_, rfl, leftService_leaveService hh⟩
  · intro st g lane s htx hl hb hin hn
    rw [execLaneMarkedBad_eq htx hl hb]
    exact ⟨fun ha => ⟨_, rfl, markLane_retrains hin hn ha⟩, fun ha => by rw [markLane_sleeps hin hn ha]⟩
  · intro st g lane s htx hl hb hin hh hn
    rw [execLaneMarkedBad_eq htx hl hb, markLane_leaves hin hn]
    exact ⟨_, rfl, leftService_leaveService (by rw [State.txg_modTx]; exact hh)⟩
  · intro st g s htx hr
    have h := setTxState_same s st g (if (s.txg st g).enable then .active else .draining)
    rw [State.modTx_congr s (h := fun x => { x with state := if x.enable then .active else .draining }) rfl] at h
    exact ⟨_, exec_groupRetrainEnd htx hr, h⟩
  · intro st g s hup htx hout hlanes hrings hcal
    have hexec : exec (.groupFaultRecover st g) s = .next (s.returnGroup st g) := by
      show execGroupFaultRecover st g s = _
      simp [execGroupFaultRecover, hup, htx, hout, hlanes, hrings, hcal]
    have hframe := returnGroup_fabric s st g
    refine ⟨_, hexec, ?_, ?_, ?_, ?_, hframe.light, hframe.mem, hframe.bridge⟩ <;> rw [returnGroup_txg]
    rfl
  · intro st g s hcal
    show execGroupFaultRecover st g s = _
    simp [execGroupFaultRecover, hcal]
  · intro st g s htx hd he hp hr
    exact ⟨_, exec_groupDrained htx hd he hp hr, setTxState_same s st g .drained⟩

end Sys2Proof.Machine
end

section
/-! SUPPORT. Reception maps (02): a change is checked and starts, its entry locks or faults, and its group is enabled. -/

namespace Sys2Proof.Machine

open Sys2Proof Sys2Proof.Safety

/-! ### Lists of changes -/

/-- What each change brings about for its element and every later one keeps, holds of all elements in the end. -/
theorem each_all {α : Type} {Q : α → State → Prop} {f : α → State → State} (l : List α) (s : State)
    (hset : ∀ a s, Q a (f a s)) (hkeep : ∀ a b s, Q b s → Q b (f a s)) : ∀ b ∈ l, Q b (each l f s) := by
  induction l generalizing s with
  | nil => exact nofun
  | cons a r ih =>
    intro b hb
    rw [each_cons]
    rcases List.mem_cons.1 hb with rfl | hb
    · exact each_inv (Q b) r f (hset b s) fun a t => hkeep a b t
    · exact ih (f a s) b hb

/-- What every change of an element of a list keeps, the list keeps. -/
theorem each_inv_mem {α : Type} (P : State → Prop) (l : List α) {f : α → State → State} {s : State} (h : P s)
    (hf : ∀ a ∈ l, ∀ s, P s → P (f a s)) : P (each l f s) := by
  induction l generalizing s with
  | nil => exact h
  | cons a r ih => exact ih (hf a (by simp) s h) fun b hb => hf b (by simp [hb])

/-! ### Rings -/

theorem ringAt_modRing (s : State) (r q : RingId) (f : Ring → Ring) :
    (s.modRing r f).ringAt q = if ringKey q = ringKey r then f (s.ringAt r) else s.ringAt q := by
  by_cases h : ringKey q = ringKey r
  · rw [if_pos h, State.ringAt, h, ← State.ringAt]
    exact State.ringAt_modRing s r f
  · rw [if_neg h]
    simp [State.ringAt, State.modRing, tget_tmod_ne _ _ _ _ h]

/-- A ring put in a state is in it, and one that is in it stays so. -/
theorem ringAt_modRing_state (s : State) {r q : RingId} {x : RingState} {f : Ring → Ring} (hf : (f (s.ringAt r)).state = x)
    (h : (s.ringAt q).state = x) : ((s.modRing r f).ringAt q).state = x := by
  rw [ringAt_modRing]
  split
  · exact hf
  · exact h

theorem ringAt_modRx (s : State) (st rg : Nat) (f : RxGroup → RxGroup) (q : RingId) :
    (s.modRx st rg f).ringAt q = s.ringAt q := rfl

theorem lockRing_fabric (s : State) (r : RingId) : FabricOnly s (s.lockRing r) := rfl

theorem setRings_fabric (s : State) (l : List RingId) (x : RingState) : FabricOnly s (s.setRings l x) := by
  refine each_fabric l (fun r u => ?_) s
  split
  · exact lockRing_fabric u r
  · exact modRing_fabric u r _

/-- Rings that change state leave the lane groups, the entries and the stations. -/
theorem setRings_fab (s : State) (l : List RingId) (x : RingState) :
    (s.setRings l x).fab = { s.fab with rings := (s.setRings l x).fab.rings } := by
  refine each_inv (fun u => u.fab = { s.fab with rings := u.fab.rings }) l _ rfl fun r u hu => ?_
  split
  · rw [show (u.lockRing r).fab = { u.fab with rings := (u.lockRing r).fab.rings } from rfl, hu]
  · have hmod : ∀ f, (u.modRing r f).fab = { u.fab with rings := (u.modRing r f).fab.rings } := fun _ => rfl
    rw [hmod, hu]

theorem setRings_rxg (s : State) (l : List RingId) (x : RingState) (st rg : Nat) :
    (s.setRings l x).rxg st rg = s.rxg st rg := by
  rw [State.rxg, setRings_fab]
  rfl

theorem setRings_state (s : State) (l : List RingId) (x : RingState) :
    ∀ q ∈ l, ((s.setRings l x).ringAt q).state = x := by
  refine each_all (Q := fun q u => (u.ringAt q).state = x) l s (fun r u => ?_) fun r q u hq => ?_
  · split
    · next h => exact (congrArg Ring.state (State.ringAt_modRing ..)).trans h.symm
    · exact congrArg Ring.state (State.ringAt_modRing ..)
  · split
    · next h => exact ringAt_modRing_state u.draw h.symm hq
    · exact ringAt_modRing_state u rfl hq

/-! ### Lane groups that a change touches -/

/-- Only the lane groups are changed, beside what notices leave behind. -/
def GroupsOnly (s t : State) : Prop := SameButSignals { s with fab := { s.fab with tx := t.fab.tx } } t

theorem GroupsOnly.of_same {s t : State} (h : SameButSignals s t) : GroupsOnly s t := by
  unfold GroupsOnly
  rw [h.fab]
  exact h

theorem GroupsOnly.trans {s t u : State} (h : GroupsOnly s t) (k : GroupsOnly t u) : GroupsOnly s u := by
  unfold GroupsOnly SameButSignals at *
  rw [k, h]

theorem GroupsOnly.fab {s t : State} (h : GroupsOnly s t) : t.fab = { s.fab with tx := t.fab.tx } :=
  SameButSignals.fab (s := { s with fab := { s.fab with tx := t.fab.tx } }) h

theorem GroupsOnly.fabric {s t : State} (h : GroupsOnly s t) : FabricOnly s t := by
  unfold FabricOnly
  rw [h.fab]
  exact h

theorem GroupsOnly.rxg {s t : State} (h : GroupsOnly s t) (st rg : Nat) : t.rxg st rg = s.rxg st rg := by
  rw [State.rxg, h.fab]
  rfl

theorem GroupsOnly.ringAt {s t : State} (h : GroupsOnly s t) (q : RingId) : t.ringAt q = s.ringAt q := by
  rw [State.ringAt, h.fab]
  rfl

theorem modTx_groups (s : State) (st g : Nat) (f : TxGroup → TxGroup) : GroupsOnly s (s.modTx st g f) := rfl

theorem each_groups {α : Type} (l : List α) {f : α → State → State} (hf : ∀ a s, GroupsOnly s (f a s)) (s : State) :
    GroupsOnly s (each l f s) := each_rel (R := GroupsOnly) (fun _ => rfl) GroupsOnly.trans l hf s

theorem place_groups (s : State) (st : Nat) (q : QPacket) : GroupsOnly s (s.place st q) := by
  have hall : ∀ (u : State) (l : List (Nat × QPacket)), GroupsOnly u (u.enqueueAll st l) := fun u l =>
    each_groups l (fun x u => modTx_groups u st x.1 _) u
  exact (hall s _).trans (each_groups _ (fun x u => hall u _) _)

theorem setTxState_groups (s : State) (st g : Nat) (x : LgState) : GroupsOnly s (s.setTxState st g x) :=
  (modTx_groups s st g _).trans (.of_same (setTxState_same s st g x))

theorem leaveService_groups (s : State) (st g : Nat) : GroupsOnly s (s.leaveService st g) := by
  unfold State.leaveService
  dsimp only
  split
  · exact modTx_groups s st g _
  · exact ((modTx_groups s st g _).trans (setTxState_groups _ st g _)).trans
      (each_groups _ (fun q u => place_groups u st q) _)

theorem markLane_groups (s : State) (st g lane : Nat) : GroupsOnly s (s.markLane st g lane) := by
  have hbad := modTx_groups s st g fun t => { t with bad := t.bad ||| (1#8 <<< lane) }
  unfold State.markLane
  dsimp only
  split
  · exact hbad
  · split
    · exact hbad.trans (leaveService_groups _ st g)
    · split
      · exact hbad
      · exact hbad.trans (setTxState_groups _ st g _)

/-- A ring that is given up is BAD; beside it only the lane groups change (R124). -/
theorem ringLost_groups (s : State) (r : RingId) :
    GroupsOnly (s.modRing r fun q => { q with state := .bad, overCnt := 0 }) (s.ringLost r) := by
  unfold State.ringLost
  dsimp only
  split
  · exact rfl
  · split
    · exact (markLane_groups _ _ _ _).trans (modTx_groups _ _ _ _)
    · exact markLane_groups _ _ _ _

theorem setRxState_same (s : State) (st rg : Nat) (x : RxState) :
    SameButSignals (s.modRx st rg fun r => { r with state := x }) (s.setRxState st rg x) :=
  (sense_same _ _ s).trans (capSense_same _ _ s)

theorem setRxState_fabric (s : State) (st rg : Nat) (x : RxState) : FabricOnly s (s.setRxState st rg x) :=
  (modRx_fabric s st rg _).trans (.of_same (setRxState_same s st rg x))

theorem rxg_of_same {s t : State} (h : SameButSignals s t) (st rg : Nat) : t.rxg st rg = s.rxg st rg := by
  rw [State.rxg, h.fab, ← State.rxg]

theorem ringAt_of_same {s t : State} (h : SameButSignals s t) (q : RingId) : t.ringAt q = s.ringAt q := by
  rw [State.ringAt, h.fab, ← State.ringAt]

/-! ### ENABLE goes to 1 (R35, R43, R56, R92) -/

theorem enable_hinged {s : State} {st g : Nat} (h : (s.txg st g).hinged = true) :
    s.enable st g = s.modTx st g fun t => { t with held := some true } := by
  unfold State.enable
  dsimp only
  rw [if_pos h]

section
variable {s : State} {st g : Nat} (hh : (s.txg st g).hinged = false) (hd : s.drained st g = true)
  (hl : (s.txg st g).loopback = false)
include hh hd hl

/-- A drained group with four lanes that work enters service. -/
theorem enable_serves (hn : 4 ≤ (s.txg st g).lanes) :
    SameButSignals (s.modTx st g fun t => { t with enable := true, state := .active }) (s.enable st g) := by
  have hlanes : ((s.modTx st g fun t => { t with enable := true }).txg st g).lanes = (s.txg st g).lanes := by
    rw [State.txg_modTx]
    rfl
  have h := setTxState_same (s.modTx st g fun t => { t with enable := true }) st g .active
  rw [State.modTx_twice] at h
  unfold State.enable
  dsimp only
  rw [if_neg (by simp [hh]), if_pos (by simp [hd, hl]), if_neg (by omega)]
  exact h

/-- A drained group with fewer than four lanes that work leaves service at once. -/
theorem enable_leaves (hn : (s.txg st g).lanes < 4) :
    s.enable st g = (s.modTx st g fun t => { t with enable := true }).leaveService st g := by
  have hlanes : ((s.modTx st g fun t => { t with enable := true }).txg st g).lanes = (s.txg st g).lanes := by
    rw [State.txg_modTx]
    rfl
  unfold State.enable
  dsimp only
  rw [if_neg (by simp [hh]), if_pos (by simp [hd, hl]), if_pos (by omega)]

end

/-! ### A change starts (R50, R52, R54) -/

theorem firstFail_none {l : List (Bool × Status)} (h : firstFail l = none) : ∀ e ∈ l, e.1 = false := by
  induction l with
  | nil => exact nofun
  | cons x l ih =>
    obtain ⟨b, st⟩ := x
    cases b
    · exact List.forall_mem_cons.2 ⟨rfl, ih h⟩
    · cases h

/-- Entries that name a sown group have receive groups that exist. -/
theorem entriesOf_sown_lt {s : State} {st g : Nat} (hg : 13 ≤ g) {e : Nat × Nat} (he : e ∈ s.entriesOf st g) : e.2 < 64 := by
  unfold State.entriesOf at he
  rw [if_neg (by omega)] at he
  simp only [List.mem_flatMap, List.mem_filterMap, List.mem_range] at he
  obtain ⟨r, -, j, hj, h⟩ := he
  have := numRx_le r
  split at h
  · cases h
    simp only
    omega
  · cases h

/-- New shares leave every entry as it is but for its share (R54). -/
theorem reshare_rxg (s : State) (st g : Nat) {i j : Nat} (hj : j < 64) :
    ∃ n, (s.reshare st g).rxg i j = { s.rxg i j with share := n } := by
  unfold State.reshare
  dsimp only
  split
  · next hg =>
    refine each_inv_mem (fun u => ∃ n, u.rxg i j = { s.rxg i j with share := n }) _ ⟨_, rfl⟩ ?_
    rintro x hx u ⟨n, hn⟩
    have hx : x.1.2 < 64 := by
      have hmem : x.1 ∈ s.readerSet st g := (List.mem_zipIdx' hx).2 ▸ List.getElem_mem _
      exact entriesOf_sown_lt hg (List.mem_of_mem_filter (List.mem_of_mem_filter hmem))
    by_cases hij : (i, j) = x.1
    · obtain ⟨rfl, rfl⟩ := Prod.mk.inj hij
      exact ⟨_, by rw [State.rxg_modRx, hn]⟩
    · exact ⟨n, by rw [State.rxg_modRx_ne u _ (rxKey_ne hx hj hij), hn]⟩
  · exact ⟨_, rfl⟩

theorem complete_fab (s : State) (o : Origin) (opcode : Nat) (st : Status) (res : List Byte) :
    (s.complete o opcode st res).fab = s.fab := by rw [complete_same s o opcode st res]

/-- An entry whose change starts with VALID 1 names its new writer group and tunes (R50, R52). -/
theorem startChange_rxg (s : State) (o : Origin) (p : RmapParams) (hv : p.valid = true) (hj : p.rgroup < 64) :
    ((s.startChange (.host o) p).rxg p.reader p.rgroup).valid = true ∧
    ((s.startChange (.host o) p).rxg p.reader p.rgroup).wst = p.wst ∧
    ((s.startChange (.host o) p).rxg p.reader p.rgroup).wlg = p.wlg ∧
    ((s.startChange (.host o) p).rxg p.reader p.rgroup).state = .tuning := by
  let Tunes (u : State) : Prop := (u.rxg p.reader p.rgroup).valid = true ∧ (u.rxg p.reader p.rgroup).wst = p.wst ∧
    (u.rxg p.reader p.rgroup).wlg = p.wlg ∧ (u.rxg p.reader p.rgroup).state = .tuning
  have hshare : ∀ (u : State) (w : Nat × Nat), Tunes u → Tunes (u.reshare w.1 w.2) := by
    intro u w hu
    obtain ⟨n, hn⟩ := reshare_rxg u w.1 w.2 (i := p.reader) hj
    simp only [Tunes, hn]
    exact hu
  have hsame : ∀ {u t : State}, t.fab.rx = u.fab.rx → Tunes u → Tunes t := by
    intro u t h hu
    simp only [Tunes, State.rxg, h]
    exact hu
  have hfirst : Tunes (s.modRx p.reader p.rgroup fun r => { r with
      valid := true, wst := p.wst, wlg := p.wlg, state := .tuning, change := none, badParity := false,
      unacked := false, words := [], calBusy := false, rejoin := false }) := by
    simp only [Tunes, State.rxg_modRx, and_self]
  have hend : ∀ u : State, Tunes u → Tunes ((((u.setRings (rxRings p.reader p.rgroup) .acquire).sense
      (ntRmapFault p.reader) s).capSense [stPart p.reader] s).answer (.host o) 0x80 .done) := by
    intro u
    refine hsame ?_
    rw [State.answer, complete_fab, (capSense_same _ _ _).fab, (sense_same _ _ _).fab, setRings_fab]
  unfold State.startChange
  simp only [hv, if_true, Bool.true_and, State.when_true]
  refine hend _ (hshare _ (p.wst, p.wlg) (each_inv Tunes _ _ ?_ fun w u => hshare u w))
  cases p.auto
  · exact hfirst
  · exact hsame (by rfl) hfirst

/-! ### The commands of a map change (R50 to R52) -/

theorem exec_rmapSet_refused {s : State} {p : RmapParams} {st : Status} (h : firstFail (rmapChecks p s) = some st)
    (o : Origin) : exec (.rmapSet o p) s = .next (s.complete o 0x80 st []) := by
  show execRmapSet o p s = _
  simp only [execRmapSet, State.rmapSet, h, State.answer]

theorem exec_rmapSet_accepted {s : State} {p : RmapParams} (h : firstFail (rmapChecks p s) = none) (o : Origin) :
    exec (.rmapSet o p) s = .next (s.acceptChange (.host o) p) := by
  show execRmapSet o p s = _
  simp only [execRmapSet, State.rmapSet, h]

theorem rgroup_lt_of_checks {s : State} {p : RmapParams} (h : firstFail (rmapChecks p s) = none) : p.rgroup < 64 := by
  have hrx := firstFail_none h (!isSownRx p.reader p.rgroup || (p.valid && !isSownTx p.wst p.wlg), .outOfRange)
    (by simp [rmapChecks])
  simp only [Bool.or_eq_false_iff, Bool.not_eq_false', isSownRx, Bool.and_eq_true] at hrx
  exact isRx_lt hrx.1.1

theorem exec_rmapChangeStart {s : State} {st rg : Nat} {c : MapChange} (hc : (s.rxg st rg).change = some c)
    (hup : s.stUp st = true) (hd : ∀ w ∈ s.changeGroups c.p, s.drained w.1 w.2 = true) :
    exec (.rmapChangeStart st rg) s = .next (s.startChange c.asker c.p) := by
  have hall : ((s.changeGroups c.p).all fun w => s.drained w.1 w.2) = true := List.all_eq_true.2 hd
  show execRmapChangeStart st rg s = _
  simp only [execRmapChangeStart, hc, hup, hall, Bool.and_self, act_true]

theorem exec_rmapDrainTimeout {s : State} {st rg : Nat} {o : Origin} {p : RmapParams}
    (hc : (s.rxg st rg).change = some { asker := .host o, p := p })
    (hd : ∃ w ∈ s.changeGroups p, s.drained w.1 w.2 = false) :
    exec (.rmapDrainTimeout st rg) s
      = .next ((s.modRx st rg fun r => { r with change := none }).complete o 0x80 .timedOut []) := by
  have hany : ((s.changeGroups p).any fun w => !s.drained w.1 w.2) = true := by
    obtain ⟨w, hw, hn⟩ := hd
    exact List.any_eq_true.2 ⟨w, hw, by rw [hn]; rfl⟩
  show execRmapDrainTimeout st rg s = _
  simp only [execRmapDrainTimeout, hc, hany, act_true, State.dropChange, State.answer]

/-! ### An entry that tunes locks or faults (R55, R101) -/

/-- ENTRY_LOCKED, as a change of the state: the reader joins, the rings and the entry lock, and the link is due (R55, R133). -/
def State.entryLocks (s : State) (st rg : Nat) : State :=
  (((s.joinReader st rg).setRings (rxRings st rg) .locked).setRxState st rg .locked).modRx st rg fun r =>
    r.due (if r.calCount = 0 then 0 else 4) s.now

section
variable {s : State} {st rg : Nat}

theorem exec_entryLocked (hrx : isRx st rg = true) (ht : (s.rxg st rg).state = .tuning) (hh : s.entryHeld st rg = false) :
    exec (.entryLocked st rg) s = .next (s.entryLocks st rg) := by
  show execEntryLocked st rg s = _
  simp only [execEntryLocked, hrx, ht, hh, decide_true, Bool.not_false, Bool.and_self, act_true]
  rfl

theorem exec_rmapFault (hrx : isRx st rg = true) (ht : (s.rxg st rg).state = .tuning) (hh : s.entryHeld st rg = false) :
    exec (.rmapFault st rg) s = .next (s.entryFails st rg) := by
  show execRmapFault st rg s = _
  simp only [execRmapFault, hrx, ht, hh, decide_true, Bool.not_false, Bool.and_self, act_true]

theorem exec_entry_held (hh : s.entryHeld st rg = true) :
    exec (.entryLocked st rg) s = .next s ∧ exec (.rmapFault st rg) s = .next s := by
  refine ⟨?_, ?_⟩
  · show execEntryLocked st rg s = _
    simp only [execEntryLocked, hh, Bool.not_true, Bool.and_false, act_false]
  · show execRmapFault st rg s = _
    simp only [execRmapFault, hh, Bool.not_true, Bool.and_false, act_false]

/-- A link that comes due for a cause has it among its causes, whether it is new or waits already (R133). -/
theorem RxGroup.due_mem (r : RxGroup) (cause : Nat) (now : W64) : ∃ e ∈ (r.due cause now).calDue, e.1 = cause := by
  unfold RxGroup.due
  split
  · next h =>
    obtain ⟨e, he, hc⟩ := List.any_eq_true.1 h
    exact ⟨e, he, by simpa using hc⟩
  · exact ⟨(cause, now), by simp, rfl⟩

theorem RxGroup.due_eq (r : RxGroup) (cause : Nat) (now : W64) : r.due cause now = { r with calDue := (r.due cause now).calDue } := by
  unfold RxGroup.due
  split <;> rfl

theorem joinReader_rxg : (s.joinReader st rg).rxg st rg = { s.rxg st rg with
    expect := (s.txg (s.rxg st rg).wst (s.rxg st rg).wlg).gseq, words := [], unacked := false, rejoin := false } := by
  unfold State.joinReader
  dsimp only
  rw [GroupsOnly.rxg (modTx_groups _ _ _ _), State.rxg_modRx]

theorem entryLocks_rxg : (s.entryLocks st rg).rxg st rg = RxGroup.due { s.rxg st rg with
    expect := (s.txg (s.rxg st rg).wst (s.rxg st rg).wlg).gseq, words := [], unacked := false, rejoin := false
    state := .locked } (if (s.rxg st rg).calCount = 0 then 0 else 4) s.now := by
  unfold State.entryLocks
  rw [State.rxg_modRx, rxg_of_same (setRxState_same _ _ _ _), State.rxg_modRx, setRings_rxg, joinReader_rxg]

theorem entryLocks_rings : ∀ q ∈ rxRings st rg, ((s.entryLocks st rg).ringAt q).state = .locked := by
  intro q hq
  unfold State.entryLocks
  rw [ringAt_modRx, ringAt_of_same (setRxState_same _ _ _ _), ringAt_modRx]
  exact setRings_state _ _ _ q hq

theorem entryLocks_fabric : FabricOnly s (s.entryLocks st rg) := by
  have hjoin : FabricOnly s (s.joinReader st rg) := (modRx_fabric s st rg _).trans (modTx_fabric _ _ _ _)
  exact ((hjoin.trans (setRings_fabric _ _ _)).trans (setRxState_fabric _ st rg _)).trans (modRx_fabric _ st rg _)

theorem ringLost_fabric (s : State) (r : RingId) : FabricOnly s (s.ringLost r) :=
  (modRing_fabric s r _).trans (ringLost_groups s r).fabric

theorem entryFails_fabric : FabricOnly s (s.entryFails st rg) :=
  (each_fabric _ (fun r u => ringLost_fabric u r) s).trans (setRxState_fabric _ st rg _)

theorem entryFails_state : ((s.entryFails st rg).rxg st rg).state = .fault := by
  unfold State.entryFails
  rw [rxg_of_same (setRxState_same _ _ _ _), State.rxg_modRx]

theorem entryFails_rings : ∀ q ∈ s.acquiring st rg, ((s.entryFails st rg).ringAt q).state = .bad := by
  intro q hq
  have hlost : ∀ (u : State) (r q : RingId), (u.ringLost r).ringAt q
      = (u.modRing r fun q => { q with state := .bad, overCnt := 0 }).ringAt q := fun u r q =>
    (ringLost_groups u r).ringAt q
  unfold State.entryFails
  rw [ringAt_of_same (setRxState_same _ _ _ _)]
  refine each_all (Q := fun q u => (u.ringAt q).state = .bad) _ s (fun r u => ?_) (fun r q u h => ?_) q hq
  · rw [hlost, State.ringAt_modRing]
  · rw [hlost]
    exact ringAt_modRing_state u rfl h

end

/-! ### AUTO_ENABLE acts (R56) -/

theorem exec_autoEnable {s : State} {st g : Nat} (htx : isSownTx st g = true) (ha : (s.txg st g).auto = true)
    (hne : s.liveEntries st g ≠ []) (hl : ∀ e ∈ s.liveEntries st g, (s.rxg e.1 e.2).state = .locked) :
    exec (.autoEnable st g) s = .next ((s.modTx st g fun t => { t with auto := false }).enable st g) := by
  have hsome : (s.liveEntries st g).isEmpty = false := by simpa using hne
  have hall : ((s.liveEntries st g).all fun e => decide ((s.rxg e.1 e.2).state = .locked)) = true :=
    List.all_eq_true.2 fun e he => decide_eq_true (hl e he)
  show execAutoEnable st g s = _
  simp only [execAutoEnable, htx, ha, Bool.and_self, act_true, hsome, hall, Bool.false_eq_true, if_false, if_true]

/-- Settles O5: the checks decide RMAP_SET, then each row of a change by the lemma of its operation. -/
theorem mapChangesAreCheckedAndRun : Obligations.MapChangesAreCheckedAndRun := by
  unfold Obligations.MapChangesAreCheckedAndRun
  refine ⟨?_, ?_, ?_, ?_, ?_, ?_, ?_, ?_, ?_, ?_⟩
  · exact fun o p st s h => exec_rmapSet_refused h o
  · intro o p s h hd
    rw [exec_rmapSet_accepted h, State.acceptChange, if_pos hd]
  · intro o p s h hd hv
    refine ⟨_, exec_rmapSet_accepted h o, ?_⟩
    rw [State.acceptChange, if_neg (by simp [hd])]
    exact startChange_rxg s o p hv (rgroup_lt_of_checks h)
  · exact fun st rg c s hc hup hd => exec_rmapChangeStart hc hup hd
  · exact fun st rg o p s hc hd => exec_rmapDrainTimeout hc hd
  · intro st rg s hrx ht hh
    have hf := entryLocks_fabric (s := s) (st := st) (rg := rg)
    refine ⟨_, exec_entryLocked hrx ht hh, ?_, ?_, ?_, entryLocks_rings, hf.light, hf.mem, hf.bridge, hf.credit⟩
    · rw [entryLocks_rxg, RxGroup.due_eq]
    · rw [entryLocks_rxg]
      exact RxGroup.due_mem _ _ _
    · rw [entryLocks_rxg, RxGroup.due_eq]
  · intro st rg s hrx ht hh
    have hf := entryFails_fabric (s := s) (st := st) (rg := rg)
    exact ⟨_, exec_rmapFault hrx ht hh, entryFails_state, entryFails_rings, hf.light, hf.mem, hf.bridge⟩
  · exact fun st rg s hh => exec_entry_held hh
  · intro st g s htx ha hne hl hd hloop hh
    let off := s.modTx st g fun t => { t with auto := false }
    have hoff : off.txg st g = { s.txg st g with auto := false } := State.txg_modTx ..
    have hdoff : off.drained st g = true := by
      unfold State.drained at hd ⊢
      rw [hoff]
      exact hd
    have hhoff : (off.txg st g).hinged = false := by rw [hoff]; exact hh
    have hloff : (off.txg st g).loopback = false := by rw [hoff]; exact hloop
    have hlanes : (off.txg st g).lanes = (s.txg st g).lanes := by rw [hoff]; rfl
    refine ⟨_, exec_autoEnable htx ha hne hl, ?_⟩
    by_cases hn : 4 ≤ (s.txg st g).lanes
    · have hserves := enable_serves hhoff hdoff hloff (by omega)
      have hgrp := txg_of_same hserves st g
      rw [State.modTx_twice] at hserves
      rw [State.txg_modTx, hoff] at hgrp
      exact ⟨by rw [hgrp], by rw [hgrp], fun _ => hserves, fun h => by omega⟩
    · have hstate : ((off.modTx st g fun t => { t with enable := true }).txg st g).hinged = false := by
        rw [State.txg_modTx]
        exact hhoff
      obtain ⟨l, hgrp⟩ := leaveService_txg (s := off.modTx st g fun t => { t with enable := true }) (st := st) (g := g)
        (by rw [hstate]; simp)
      rw [← enable_leaves hhoff hdoff hloff (by omega), hstate, State.txg_modTx, hoff] at hgrp
      exact ⟨by rw [hgrp]; rfl, by rw [hgrp]; rfl, fun h => absurd h hn, fun _ => by rw [hgrp]; rfl⟩
  · intro st g s htx ha hne hl hh
    rw [exec_autoEnable htx ha hne hl, enable_hinged (by rw [State.txg_modTx]; exact hh), State.modTx_twice]

end Sys2Proof.Machine
end

section
/-! SUPPORT. Registers of stations and other units (13): what a write of one register does, and that it counts as no reload while
the unit is not halted. -/

namespace Sys2Proof.Machine

open Sys2Proof Sys2Proof.Safety

/-! ### A write that takes effect counts as a reload of a halted unit alone (R449) -/

theorem reload_running {s : State} {off : Nat} {u : Unit'} (hu : unitOf off = some u) (h : s.haltedAt u = false) :
    s.reload off = s := by
  simp [State.reload, hu, h]

theorem reload_no_unit {s : State} {off : Nat} (hu : unitOf off = none) : s.reload off = s := by
  simp [State.reload, hu]

theorem unitOf_stReg {st off : Nat} (hst : st < 14) (hoff : off < 0x10000) : unitOf (stReg st off) = some (.station st) := by
  have hb : stReg st off / 0x10000 = 0x10 + st := by
    unfold stReg
    omega
  unfold unitOf
  rw [hb, if_pos (by omega), Nat.add_sub_cancel_left]

theorem unitOf_kdReg {n off : Nat} (hn : n < 8) (hoff : off < 0x10000) : unitOf (kdReg n off) = some (.kd n) := by
  have hb : kdReg n off / 0x10000 = 0x40 + n := by
    unfold kdReg
    omega
  unfold unitOf
  rw [hb, if_neg (by omega), if_pos (by omega), Nat.add_sub_cancel_left]

theorem unitOf_coreReg {c off : Nat} (hc : c < 64) (hoff : off < 0x10000) : unitOf (coreReg c off) = some (.core c) := by
  have hb : coreReg c off / 0x10000 = 0x100 + c := by
    unfold coreReg
    omega
  unfold unitOf
  rw [hb, if_neg (by omega), if_neg (by omega), if_pos (by omega), Nat.add_sub_cancel_left]

theorem unitOf_ringci {r : Nat} (hr : r < 64) : unitOf (0x00050300 + 4 * r) = none := by
  have hb : (0x00050300 + 4 * r) / 0x10000 = 5 := by omega
  unfold unitOf
  rw [hb]
  simp

/-- A write with effect at a register of a unit that runs leaves the state that the register's own rule gives. -/
theorem wroteReg_done {s : State} {off : Nat} {u : Unit'} (hu : unitOf off = some u) (h : s.haltedAt u = false) (via : Path) :
    State.wroteReg (s, .done) via off = s := by
  unfold State.wroteReg
  rw [if_pos rfl]
  exact reload_running hu h

theorem wroteReg_dropped (s : State) {st : Status} (h : st ≠ .done) (via : Path) (off : Nat) :
    State.wroteReg (s, st) via off = s.dropWrite via off st := by
  unfold State.wroteReg
  rw [if_neg h]

/-! ### LG_TXCFG (R61, R64) -/

theorem exec_lgTxcfgWrite {st g : Nat} (htx : isTx st g = true) (via : Path) (data : W32) (s : State) :
    exec (.lgTxcfgWrite via st g data) s = .next (State.wroteReg (s.txcfgWrite st g data) via (stReg st (4 * g))) := by
  show execLgTxcfgWrite via st g data s = _
  rw [execLgTxcfgWrite, htx, act_true]

/-- A group that drains, retrains or is in FAULT does not take the write (R64). -/
theorem txcfgWrite_busy {s : State} {st g : Nat} (hh : (s.txg st g).hinged = false)
    (h : (s.txg st g).state = .draining ∨ (s.txg st g).state = .retrain ∨ (s.txg st g).state = .fault) (data : W32) :
    s.txcfgWrite st g data = (s, .wrongState) := by
  unfold State.txcfgWrite
  dsimp only
  rw [if_neg (by simp [hh]), if_pos h]

/-- A sown group in another state takes ENABLE at once (R61). -/
theorem txcfgWrite_sown {s : State} {st g : Nat} (hg : 13 ≤ g) (hh : (s.txg st g).hinged = false)
    (h : ¬((s.txg st g).state = .draining ∨ (s.txg st g).state = .retrain ∨ (s.txg st g).state = .fault)) (data : W32) :
    s.txcfgWrite st g data = (if data.getLsbD 0 then s.enable st g else s.disable st g, .done) := by
  unfold State.txcfgWrite
  dsimp only
  rw [if_neg (by simp [hh]), if_neg h, if_neg (by omega)]

theorem isSownTx_iff {st g : Nat} : isSownTx st g = true ↔ isTx st g = true ∧ 13 ≤ g := by
  simp [isSownTx]

/-- An active group whose ENABLE goes to 0 drains (R52, R53). -/
theorem disable_active {s : State} {st g : Nat} (h : (s.txg st g).state = .active) :
    SameButSignals (s.modTx st g fun t => { t with enable := false, state := .draining }) (s.disable st g) := by
  have hset := setTxState_same (s.modTx st g fun t => { t with enable := false }) st g .draining
  rw [State.modTx_twice] at hset
  unfold State.disable
  dsimp only
  rw [if_pos h]
  exact hset

theorem GroupsOnly.sta {s t : State} (h : GroupsOnly s t) (st : Nat) : t.sta st = s.sta st := by
  rw [State.sta, h.fab]
  rfl

/-- A write of ENABLE changes lane groups alone. -/
theorem enable_groups (s : State) (st g : Nat) : GroupsOnly s (s.enable st g) := by
  unfold State.enable
  dsimp only
  split
  · exact modTx_groups s st g _
  · split
    · split
      · exact (modTx_groups s st g _).trans (leaveService_groups _ st g)
      · exact (modTx_groups s st g _).trans (setTxState_groups _ st g _)
    · exact modTx_groups s st g _

theorem disable_groups (s : State) (st g : Nat) : GroupsOnly s (s.disable st g) := by
  unfold State.disable
  dsimp only
  split
  · exact (modTx_groups s st g _).trans (setTxState_groups _ st g _)
  · split
    · exact (modTx_groups s st g _).trans (setTxState_groups _ st g _)
    · exact modTx_groups s st g _

/-- The state that a write of LG_TXCFG leaves, of a sown group that takes it at once. -/
theorem exec_lgTxcfgWrite_sown {s : State} {st g : Nat} (hst : st < 14) (htx : isSownTx st g = true)
    (hh : (s.txg st g).hinged = false) (hrun : (s.sta st).halted = false)
    (h : ¬((s.txg st g).state = .draining ∨ (s.txg st g).state = .retrain ∨ (s.txg st g).state = .fault))
    (via : Path) (data : W32) :
    exec (.lgTxcfgWrite via st g data) s = .next (if data.getLsbD 0 then s.enable st g else s.disable st g) := by
  obtain ⟨hx, hg⟩ := isSownTx_iff.1 htx
  have hlt := isTx_lt hx
  have hgroups : GroupsOnly s (if data.getLsbD 0 then s.enable st g else s.disable st g) := by
    split
    · exact enable_groups s st g
    · exact disable_groups s st g
  rw [exec_lgTxcfgWrite hx, txcfgWrite_sown hg hh h,
    wroteReg_done (unitOf_stReg hst (by omega)) (by rw [State.haltedAt, hgroups.sta]; exact hrun)]

/-! ### LG_CALCFG (R140) -/

/-- The links of a station come due for a forced calibration (R140). -/
def State.forceCals (s : State) (st : Nat) : State :=
  each ((List.range (numRx st)).filter fun j => (s.rxg st j).valid) (fun j s => s.modRx st j fun r => r.due 6 s.now) s

theorem calcfgWrite_done {s : State} {st : Nat} {data : W32} (hlo : 5 ≤ bits data.toNat 6 0) (hhi : bits data.toNat 6 0 ≤ 100)
    (hint : bits data.toNat 23 16 ≠ 0) :
    s.calcfgWrite st data = (let t := s.modSta st fun x => { x with maxint := bits data.toNat 23 16, calDelta := bits data.toNat 6 0 }
      (if bit data.toNat 31 then t.forceCals st else t, .done)) := by
  unfold State.calcfgWrite
  dsimp only
  rw [if_neg (by omega)]
  rfl

theorem forceCals_frame (s : State) (st : Nat) : s.forceCals st = { s with fab := { s.fab with rx := (s.forceCals st).fab.rx } } :=
  each_inv (fun u => u = { s with fab := { s.fab with rx := u.fab.rx } }) _ _ rfl fun j u hu => by rw [hu]; rfl

/-- Every mapped link of the station is due for the cause of a forced calibration. -/
theorem forceCals_due (s : State) (st : Nat) {j : Nat} (hj : j < numRx st) (hv : (s.rxg st j).valid = true) :
    ∃ e ∈ ((s.forceCals st).rxg st j).calDue, e.1 = 6 := by
  have hmem : j ∈ (List.range (numRx st)).filter fun j => (s.rxg st j).valid :=
    List.mem_filter.2 ⟨List.mem_range.2 hj, hv⟩
  refine each_all (Q := fun j u => ∃ e ∈ (u.rxg st j).calDue, e.1 = 6) _ s (fun j u => ?_) (fun i j u hu => ?_) j hmem
  · rw [State.rxg_modRx]
    exact RxGroup.due_mem _ _ _
  · by_cases hij : j = i
    · subst hij
      rw [State.rxg_modRx]
      exact RxGroup.due_mem _ _ _
    · rw [State.rxg_modRx_ne u _ (by unfold rxKey; omega)]
      exact hu

/-! ### BASE_CRALLOC (R172) -/

/-- A write of BASE_CRALLOC that is taken names a channel of two stations that exist, and leaves the fabric. -/
theorem crallocWrite_done {s : State} {st w vc : Nat} {data : W32} (h : (s.crallocWrite st w vc data).2 = .done) :
    validPair st w vc = true ∧ (s.crallocWrite st w vc data).1.fab = s.fab := by
  unfold State.crallocWrite at h ⊢
  dsimp only at h ⊢
  split at h
  · cases h
  · next hp =>
    rw [if_neg hp]
    split at h
    · cases h
    · next hr =>
      rw [if_neg hr]
      refine ⟨by simpa using hp, ?_⟩
      dsimp only
      split <;> rfl

/-! ### Cache dies (R207, R209) -/

/-- An empty cache die takes a write whose result is valid; only its die and the descriptor follow (R209). -/
theorem kdApply_done {s : State} {n : Nat} {f : CacheDie → CacheDie} (hl : (s.kd n).lines = []) (ha : (f (s.kd n)).addr ≤ 8)
    (hv : (f (s.kd n)).valid = true) :
    ∃ t, s.kdApply n f = (t, .done) ∧ SameButSignals (s.modKd n f) t := by
  have hmod : s.modKd n (fun _ => f (s.kd n)) = s.modKd n f := State.modKd_congr s rfl
  refine ⟨(s.modKd n f).capSense [n + 1] s, ?_, capSense_same _ _ _⟩
  unfold State.kdApply
  dsimp only
  rw [if_neg (by simp [hl]), if_neg (by simp [hv]; omega), hmod]

theorem kdApply_busy {s : State} {n : Nat} (hl : (s.kd n).lines ≠ []) (f : CacheDie → CacheDie) :
    s.kdApply n f = (s, .wrongState) := by
  unfold State.kdApply
  dsimp only
  rw [if_pos (by simpa using hl)]

theorem kd_of_same {s t : State} (h : SameButSignals s t) (n : Nat) : t.kd n = s.kd n := by
  rw [State.kd, h.mem, ← State.kd]

@[simp] theorem kd_unpost (s : State) (u : SlowUnit) (n : Nat) : (s.unpost u).kd n = s.kd n := rfl

/-- The posted write of a cache die that runs is applied, as its rule gives. -/
theorem kdPosted_done {s : State} {n off : Nat} {f : CacheDie → CacheDie} (hn : n < 8) (hoff : off < 0x10000)
    (hrun : (s.kd n).halted = false) (hf : (f (s.kd n)).halted = (s.kd n).halted) (hl : (s.kd n).lines = [])
    (ha : (f (s.kd n)).addr ≤ 8) (hv : (f (s.kd n)).valid = true) :
    SameButSignals ((s.unpost (.kd n)).modKd n f)
      (State.wroteReg ((s.unpost (.kd n)).kdApply n f) .unitLate (kdReg n off)) := by
  obtain ⟨t, ht, hsame⟩ := kdApply_done (s := s.unpost (.kd n)) (n := n) (f := f) hl ha hv
  have hhalt : t.haltedAt (.kd n) = false := by
    rw [State.haltedAt, kd_of_same hsame, State.kd_modKd, kd_unpost, hf]
    exact hrun
  rw [ht, wroteReg_done (unitOf_kdReg hn hoff) hhalt]
  exact hsame

theorem withRemap_remapAt (k : CacheDie) (i : Nat) (e : Nat × Nat) : (k.withRemap i e).remapAt i = e := by
  unfold CacheDie.withRemap
  split
  · next h => exact h
  · exact tget_tset_self _ _ _ _

theorem withRemap_remapAt_ne (k : CacheDie) {i j : Nat} (e : Nat × Nat) (h : j ≠ i) :
    (k.withRemap i e).remapAt j = k.remapAt j := by
  unfold CacheDie.withRemap
  split
  · rfl
  · exact tget_tset_ne' _ _ _ _ h

theorem withRemap_halted (k : CacheDie) (i : Nat) (e : Nat × Nat) : (k.withRemap i e).halted = k.halted := by
  unfold CacheDie.withRemap
  split <;> rfl

theorem withRemap_addr (k : CacheDie) (i : Nat) (e : Nat × Nat) : (k.withRemap i e).addr = k.addr := by
  unfold CacheDie.withRemap
  split <;> rfl

/-! ### CORE_RNGSEED (R322) -/

theorem eng_modEng_ne (s : State) (c : Nat) {e i : Nat} (f : Engine → Engine) (h : i ≠ e) :
    (s.modEng c e f).eng c i = s.eng c i := by
  simp [State.eng, State.modEng, tget_tmod_ne _ _ _ _ h]

/-- The seed reaches the engines of a list, and no other engine of the core. -/
theorem each_seed (c : Nat) (data : W32) (l : List Nat) (s : State) (e : Nat) :
    ((each l (fun e s => s.modEng c e fun g => { g with seedNext := some data }) s).eng c e).seedNext
      = if e ∈ l then some data else (s.eng c e).seedNext := by
  induction l generalizing s with
  | nil => rfl
  | cons a l ih =>
    rw [each_cons, ih]
    by_cases hl : e ∈ l
    · simp [hl]
    · by_cases ha : e = a
      · subst ha
        simp [hl]
      · simp [hl, ha, eng_modEng_ne s c _ ha]

theorem rngseed_frame (s : State) (c : Nat) (data : W32) : s.rngseed c data = { s with cores := (s.rngseed c data).cores } :=
  each_inv (fun u => u = { s with cores := u.cores }) _ _ rfl fun j u hu => by rw [hu]; rfl

theorem rngseed_halted (s : State) (c : Nat) (data : W32) : ((s.rngseed c data).core c).halted = (s.core c).halted :=
  each_inv (fun u => (u.core c).halted = (s.core c).halted) _ _ rfl fun j u hu => by
    rw [State.modEng, State.core_modCore]
    exact hu

/-! ### CMD_RINGCI (R440) -/

theorem exec_cmdRingciWrite {r : Nat} (hr : r < 64) {via : Path} (hvia : via ≠ .coreStore) (data : W32) (s : State) :
    exec (.cmdRingciWrite via r data) s = .next (State.wroteReg (s.ringci r data) via (0x00050300 + 4 * r)) := by
  show execCmdRingciWrite via r data s = _
  unfold execCmdRingciWrite
  rw [decide_eq_true hr, act_true, if_neg hvia]

/-- The consumer index moves no further than the producer index (R440). -/
theorem ringci_done {s : State} {r : Nat} {data : W32}
    (h : ((s.cring r).pi + 2 ^ 17 - data.toNat % 2 ^ 17) % 2 ^ 17 ≤ ((s.cring r).pi + 2 ^ 17 - (s.cring r).ci) % 2 ^ 17) :
    s.ringci r data = ((s.modCring r fun c => { c with ci := data.toNat % 2 ^ 17 }).sense ntRingFull s, .done) := by
  unfold State.ringci
  dsimp only
  rw [if_pos h]

theorem ringci_beyond {s : State} {r : Nat} {data : W32}
    (h : ((s.cring r).pi + 2 ^ 17 - (s.cring r).ci) % 2 ^ 17 < ((s.cring r).pi + 2 ^ 17 - data.toNat % 2 ^ 17) % 2 ^ 17) :
    s.ringci r data = (s, .outOfRange) := by
  unfold State.ringci
  dsimp only
  rw [if_neg (by omega)]

theorem exec_lgCalcfgForce {st : Nat} (hst : st < 14) (via : Path) (data : W32) (s : State) :
    exec (.lgCalcfgForce via st data) s = .next (State.wroteReg (s.calcfgWrite st data) via (stReg st 0x900)) := by
  show execLgCalcfgForce via st data s = _
  simp [execLgCalcfgForce, nSt, hst]

theorem exec_baseCrallocWrite {st : Nat} (hst : st < 14) (via : Path) (w vc : Nat) (data : W32) (s : State) :
    exec (.baseCrallocWrite via st w vc data) s
      = .next (State.wroteReg (s.crallocWrite st w vc data) via (stReg st (0xC00 + 4 * (8 * w + vc)))) := by
  show execBaseCrallocWrite via st w vc data s = _
  simp [execBaseCrallocWrite, nSt, hst]

theorem exec_kdSplitWrite {n : Nat} (hn : n < 8) (data : W32) (s : State) :
    exec (.kdSplitWrite n data) s = .next (State.wroteReg
      ((s.unpost (.kd n)).kdApply n fun k => k.withAddr (data.toNat % 16)) .unitLate (kdReg n 0)) := by
  show execKdSplitWrite n data s = _
  simp [execKdSplitWrite, hn]

theorem exec_kdRemapWrite {n i : Nat} (hn : n < 8) (hi : i < 64) (data : W32) (s : State) :
    exec (.kdRemapWrite n i data) s = .next (State.wroteReg
      ((s.unpost (.kd n)).kdApply n fun k => k.withRemap i (bits data.toNat 10 8, bits data.toNat 5 0)) .unitLate
      (kdReg n (0x100 + 4 * i))) := by
  show execKdRemapWrite n i data s = _
  simp [execKdRemapWrite, hn, hi]

theorem exec_coreRngseedWrite {c : Nat} (hc : c < 64) (via : Path) (data : W32) (s : State) :
    exec (.coreRngseedWrite via c data) s = .next (State.wroteReg (s.rngseed c data, .done) via (coreReg c 0x078)) := by
  show execCoreRngseedWrite via c data s = _
  simp [execCoreRngseedWrite, hc]

/-- Settles O14: each register's own rule, and `reload_running` for what the write is beside it. -/
theorem unitRegistersTakeEffect : Obligations.UnitRegistersTakeEffect := by
  unfold Obligations.UnitRegistersTakeEffect
  refine ⟨?_, ?_, ?_, ?_, ?_, ?_, ?_, ?_, ?_, ?_, ?_⟩
  · intro via st g data s hst htx hh hrun ha hd
    refine ⟨_, exec_lgTxcfgWrite_sown hst htx hh hrun (by simp [ha]) via data, ?_⟩
    rw [hd]
    exact disable_active ha
  · intro via st g data s hst htx hh hrun hd hloop hen
    have hout : ¬((s.txg st g).state = .draining ∨ (s.txg st g).state = .retrain ∨ (s.txg st g).state = .fault) := by
      rcases (Bool.or_eq_true _ _).mp hd with h | h <;> simp [of_decide_eq_true h]
    refine ⟨_, exec_lgTxcfgWrite_sown hst htx hh hrun hout via data, ?_⟩
    rw [hen]
    refine ⟨fun hn => enable_serves hh hd hloop hn, fun hn => ?_⟩
    have hne : ¬(((s.modTx st g fun x => { x with enable := true }).txg st g).hinged = true ∧
        ((s.modTx st g fun x => { x with enable := true }).txg st g).state = .draining) := by
      rw [State.txg_modTx]
      simp [hh]
    rw [if_pos rfl, enable_leaves hh hd hloop hn]
    exact leftService_leaveService hne
  · intro via st g data s hst htx hh hbusy
    rw [exec_lgTxcfgWrite htx, txcfgWrite_busy hh hbusy, wroteReg_dropped (st := .wrongState) s nofun]
  · intro via st data s hst hrun hlo hhi hint
    let u := s.modSta st fun x => { x with maxint := bits data.toNat 23 16, calDelta := bits data.toNat 6 0 }
    have hu : u.sta st = { s.sta st with maxint := bits data.toNat 23 16, calDelta := bits data.toNat 6 0 } :=
      State.sta_modSta ..
    have hforce := forceCals_frame u st
    have hsta : (u.forceCals st).sta st = u.sta st := by
      rw [hforce]
      rfl
    have hexec : exec (.lgCalcfgForce via st data) s = .next (if bit data.toNat 31 then u.forceCals st else u) := by
      have hhalt : (if bit data.toNat 31 then u.forceCals st else u).haltedAt (.station st) = false := by
        rw [State.haltedAt]
        cases bit data.toNat 31
        · exact (congrArg Station.halted hu).trans hrun
        · exact (congrArg Station.halted (hsta.trans hu)).trans hrun
      rw [exec_lgCalcfgForce hst, calcfgWrite_done hlo hhi hint]
      exact congrArg _ (wroteReg_done (unitOf_stReg hst (by omega)) hhalt via)
    rw [hexec]
    cases bit data.toNat 31
    · exact ⟨u, rfl, hu, nofun, fun _ => rfl, rfl⟩
    · exact ⟨_, rfl, hsta.trans hu, fun _ j hj hv => forceCals_due u st hj hv, nofun, by rw [if_pos rfl, hforce]; rfl⟩
  · intro via st w vc data s hst hrun hdone
    obtain ⟨hp, hfab⟩ := crallocWrite_done hdone
    simp only [validPair, nSt, Bool.and_eq_true, decide_eq_true_eq] at hp
    obtain ⟨⟨⟨-, hw⟩, -⟩, hvc⟩ := hp
    have hhalt : (s.crallocWrite st w vc data).1.haltedAt (.station st) = false := by
      rw [State.haltedAt, State.sta, hfab]
      exact hrun
    rw [exec_baseCrallocWrite hst]
    have hw := of_decide_eq_true hw
    have hoff : 0xC00 + 4 * (8 * w + vc) < 0x10000 := by omega
    refine congrArg _ (Eq.trans ?_ (wroteReg_done (unitOf_stReg hst hoff) hhalt via))
    rw [← hdone]
  · intro n data s hn hrun hl hle hv
    have h := kdPosted_done (f := fun k => k.withAddr (data.toNat % 16)) hn (by omega : 0 < 0x10000) hrun rfl hl hle hv
    refine ⟨_, exec_kdSplitWrite hn data s, ?_, h⟩
    rw [kd_of_same h, State.kd_modKd]
    rfl
  · intro n i data s hn hi hrun hl hle hv
    have h := kdPosted_done (f := fun k => k.withRemap i (bits data.toNat 10 8, bits data.toNat 5 0)) hn
      (by omega : 0x100 + 4 * i < 0x10000) hrun (withRemap_halted ..) hl (by rw [withRemap_addr]; exact hle) hv
    refine ⟨_, exec_kdRemapWrite hn hi data s, ?_, fun j hj => ?_⟩
    · rw [kd_of_same h, State.kd_modKd, withRemap_remapAt]
    · rw [kd_of_same h, State.kd_modKd, withRemap_remapAt_ne _ _ hj, kd_unpost]
  · intro n data s hn hl
    rw [exec_kdSplitWrite hn, kdApply_busy (s := s.unpost (.kd n)) hl, wroteReg_dropped (st := .wrongState) _ nofun]
  · intro via c data s hc hrun
    have hexec : exec (.coreRngseedWrite via c data) s = .next (s.rngseed c data) := by
      rw [exec_coreRngseedWrite hc, wroteReg_done (unitOf_coreReg hc (by omega))]
      rw [State.haltedAt, rngseed_halted]
      exact hrun
    refine ⟨_, hexec, fun e he => ?_, rngseed_frame s c data⟩
    rw [State.rngseed, each_seed]
    simp [he]
  · intro via r data s hr hvia h
    refine ⟨_, exec_cmdRingciWrite hr hvia data s, ?_⟩
    rw [ringci_done h, State.wroteReg, if_pos rfl, reload_no_unit (unitOf_ringci hr)]
    exact sense_same _ _ s
  · intro via r data s hr hvia h
    rw [exec_cmdRingciWrite hr hvia, ringci_beyond h, wroteReg_dropped (st := .outOfRange) s nofun]

end Sys2Proof.Machine
end

section
/-! SUPPORT. What the units that a reset takes down leave alone: the operations that end, the packets that are turned away and the
answers that set out (05, 07) change no field unit, no stack and no sheaf, and only clear what stations and sow tables hold. -/

namespace Sys2Proof.Machine

open Sys2Proof Sys2Proof.Safety

/-! ### The parts that most operations leave alone -/

/-- What a field's return and its reset are judged by: field units, hash, stacks, memory stations, sheaves, sow tables, stations. -/
structure Kept where
  fields : Tbl FieldUnit
  hash : HashCfg
  hbm : Tbl Hbm
  ms : Tbl MemStation
  sheaf : Tbl Sheaf
  sows : Tbl (List SowEntry)
  st : Tbl Station

def State.kept (s : State) : Kept where
  fields := s.resets.fields
  hash := s.hash
  hbm := s.mem.hbm
  ms := s.mem.ms
  sheaf := s.sheaves.sheaf
  sows := s.sows.tables
  st := s.fab.st

theorem kept_of_record {s t : State} (h : SameButRecord s t) : t.kept = s.kept := by
  unfold SameButRecord at h
  rw [h]
  rfl

theorem kept_of_same {s t : State} (h : SameButSignals s t) : t.kept = s.kept := kept_of_record h.record

theorem each_kept {α : Type} (l : List α) {f : α → State → State} (hf : ∀ a s, (f a s).kept = s.kept) (s : State) :
    (each l f s).kept = s.kept :=
  each_inv (fun t => t.kept = s.kept) l f rfl fun a t h => (hf a t).trans h

theorem when_kept (s : State) (c : Bool) {f : State → State} (hf : ∀ s, (f s).kept = s.kept) : (s.when c f).kept = s.kept := by
  cases c
  · rfl
  · exact hf s

theorem wrN_kept (l : List Byte) (a : Nat) (s : State) : (s.wrMem a l).kept = s.kept := by
  induction l generalizing a s with
  | nil => rfl
  | cons b l ih => exact ih (a + 1) { s with mem := s.mem.wr a b }

theorem complete_kept (s : State) (o : Origin) (opcode : Nat) (st : Status) (res : List Byte) :
    (s.complete o opcode st res).kept = s.kept := kept_of_record (complete_same s o opcode st res)

theorem raise_kept (s : State) (src : Nat) : (s.raise src).kept = s.kept := kept_of_same (raise_same s src)

theorem sense_kept (s : State) (src : Nat) (s0 : State) : (s.sense src s0).kept = s.kept := kept_of_same (sense_same s src s0)

/-! ### Operations end and come into being (R238 to R241, R269, R280) -/

theorem ctxFault_kept (s : State) (c x cause eng op : Nat) (st : Status) : (s.ctxFault c x cause eng op st).kept = s.kept := by
  unfold State.ctxFault
  dsimp only
  split
  · rfl
  · unfold State.setCtx
    rw [sense_kept, sense_kept]
    rfl

theorem signal_kept (s : State) (c x : Nat) (sig : BitVec 16) (eng op : Nat) : (s.signal c x sig eng op).kept = s.kept := by
  unfold State.signal State.bumpToken
  dsimp only
  split
  · split
    · rfl
    · split
      · rfl
      · exact ctxFault_kept _ _ _ _ _ _ _
  · rfl

theorem remoteFault_kept (s : State) (c x : Nat) (o : Op) (st : Status) (mask : Byte) :
    (s.remoteFault c x o st mask).kept = s.kept := by
  unfold State.remoteFault
  rw [when_kept _ _ fun s => raise_kept s _, raise_kept]
  rfl

theorem redirty_kept (s : State) (o : Op) (st : Status) : (s.redirty o st).kept = s.kept := by
  unfold State.redirty
  split
  · rfl
  · rfl

theorem leaveOwner_kept (s : State) (o : Op) (st : Status) : (s.leaveOwner o st).kept = s.kept := by
  unfold State.leaveOwner
  split <;> rfl

/-- An operation that settles clears nothing and starts nothing at a station. -/
theorem settle_kept (s : State) (o : Op) (st : Status) (mask : Byte) : (s.settle o st mask).kept = s.kept := by
  unfold State.settle
  dsimp only
  split
  · exact redirty_kept s o st
  · split
    · rw [leaveOwner_kept]
      exact redirty_kept s o st
    · rw [when_kept _ _ fun s => signal_kept s _ _ _ _ _, when_kept _ _ fun s => remoteFault_kept s _ _ _ _ _]
      refine (when_kept _ _ fun _ => ?_).trans ((leaveOwner_kept _ o st).trans (redirty_kept s o st))
      rfl

theorem joinOwner_kept (s : State) (o : Op) : (s.joinOwner o).kept = s.kept := by
  unfold State.joinOwner
  split
  · split <;> rfl
  · rfl
  · rfl
  · rfl

theorem newOps_kept (group : Nat) (l : List Req) (s : State) : (s.newOps group l).2.kept = s.kept := by
  induction l generalizing s with
  | nil => rfl
  | cons r l ih => exact (ih _).trans (joinOwner_kept _ _)

theorem replicate_kept (s : State) (here : Nat) (p : Packet) (members : List Nat) (op : Option Nat) :
    (s.replicate here p members op).kept = s.kept := by
  unfold State.replicate
  dsimp only
  refine (each_kept _ ?_ _).trans ?_
  · exact fun _ _ => rfl
  · rfl

theorem depart_kept (s : State) (here : Nat) (p : Packet) (op : Option Nat) : (s.depart here p op).2.kept = s.kept := by
  unfold State.depart State.bcastOut
  dsimp only
  split
  · split
    · rfl
    · split
      · exact replicate_kept _ _ _ _ _
      · split <;> rfl
  · split <;> rfl

/-! ### Stations and sow tables are cleared, the rest stays -/

/-- Of a station nothing comes back: not its service, not its open blocks, not its bolt. -/
structure Station.Clears (x y : Station) : Prop where
  up : x.up = false → y.up = false
  merge : x.merge = [] → y.merge = []
  bolt : x.rmapBolt = false → y.rmapBolt = false

/-- Between s and t stations and sow tables are only cleared, and the other kept parts stand. -/
structure OnlyClears (s t : State) : Prop where
  fields : t.resets.fields = s.resets.fields
  hash : t.hash = s.hash
  hbm : t.mem.hbm = s.mem.hbm
  ms : t.mem.ms = s.mem.ms
  sheaf : t.sheaves.sheaf = s.sheaves.sheaf
  sows : ∀ k, s.sowTab k = [] → t.sowTab k = []
  sta : ∀ st, (s.sta st).Clears (t.sta st)

theorem OnlyClears.of_kept {s t : State} (h : t.kept = s.kept) : OnlyClears s t := by
  have hs : t.sows.tables = s.sows.tables := congrArg Kept.sows h
  have hst : t.fab.st = s.fab.st := congrArg Kept.st h
  refine ⟨congrArg Kept.fields h, congrArg Kept.hash h, congrArg Kept.hbm h, congrArg Kept.ms h, congrArg Kept.sheaf h, ?_, ?_⟩
  · intro k
    simp only [State.sowTab, hs, imp_self]
  · intro st
    simp only [State.sta, hst]
    exact ⟨id, id, id⟩

theorem OnlyClears.refl (s : State) : OnlyClears s s := .of_kept rfl

theorem OnlyClears.trans {a b c : State} (h : OnlyClears a b) (k : OnlyClears b c) : OnlyClears a c where
  fields := k.fields.trans h.fields
  hash := k.hash.trans h.hash
  hbm := k.hbm.trans h.hbm
  ms := k.ms.trans h.ms
  sheaf := k.sheaf.trans h.sheaf
  sows i hi := k.sows i (h.sows i hi)
  sta st := ⟨fun x => (k.sta st).up ((h.sta st).up x), fun x => (k.sta st).merge ((h.sta st).merge x),
    fun x => (k.sta st).bolt ((h.sta st).bolt x)⟩

/-- A change that keeps the kept parts, after one that only clears. -/
theorem OnlyClears.then {a b c : State} (h : OnlyClears a b) (k : c.kept = b.kept) : OnlyClears a c := h.trans (.of_kept k)

theorem modSta_clears (s : State) (st : Nat) {f : Station → Station} (hf : ∀ x : Station, x.Clears (f x)) : OnlyClears s (s.modSta st f) := by
  refine ⟨rfl, rfl, rfl, rfl, rfl, fun _ => id, fun w => ?_⟩
  by_cases h : w = st
  · subst h
    rw [State.sta_modSta]
    exact hf _
  · rw [State.sta_modSta_ne _ _ h]
    exact ⟨id, id, id⟩

theorem each_clears {α : Type} (l : List α) {f : α → State → State} (hf : ∀ a s, OnlyClears s (f a s)) (s : State) :
    OnlyClears s (each l f s) := each_rel OnlyClears.refl OnlyClears.trans l hf s

/-! ### Packets set out (R151, R226, R248, R616) -/

theorem postIn_clears (s : State) (st rd : Nat) (p : Packet) (op : Option Nat) : OnlyClears s (s.postIn st rd p op) := by
  unfold State.postIn
  split
  · exact modSta_clears _ _ fun _ => ⟨id, id, id⟩
  · split
    · exact .refl s
    · exact modSta_clears _ _ fun _ => ⟨id, id, id⟩

theorem sendOut_clears (s : State) (x w : Nat) (p : Packet) : OnlyClears s (s.sendOut x w p) := by
  unfold State.sendOut
  extract_lets h p1 r
  split
  · exact .of_kept (depart_kept _ _ _ _)
  · split
    · exact .of_kept (depart_kept s _ p1 _)
    · exact postIn_clears _ _ _ _ _

theorem post_clears (s : State) (st rd : Nat) (p : Packet) (op : Option Nat) : OnlyClears s (s.post st rd p op) := by
  unfold State.post
  split
  · exact sendOut_clears _ _ _ _
  · exact postIn_clears _ _ _ _ _

theorem reply_clears (s : State) (st : Nat) (p : Packet) (op : Nat) (data : List Byte) (status : Status) (poison : Bool) :
    OnlyClears s (s.reply st p op data status poison) := by
  unfold State.reply
  dsimp only
  split
  · split
    · exact post_clears _ _ _ _ _
    · exact .refl s
  · exact post_clears _ _ _ _ _

theorem replyFault_clears (s : State) (st : Nat) (p : Packet) (status : Status) : OnlyClears s (s.replyFault st p status) :=
  reply_clears _ _ _ _ _ _ _

theorem launch_clears (s : State) (r : Req) (o : Op) : OnlyClears s (s.launch r o) := by
  unfold State.launch
  dsimp only
  split
  · split
    · exact post_clears _ _ _ _ _
    · exact .refl s
  · split
    · exact modSta_clears _ _ fun _ => ⟨id, id, id⟩
    · split
      · exact .of_kept rfl
      · exact .of_kept rfl
      · split
        · exact post_clears _ _ _ _ _
        · exact .refl s

theorem issueRaw_clears (s : State) (r : Req) : OnlyClears s (s.issueRaw r) := by
  unfold State.issueRaw
  refine (OnlyClears.of_kept (newOps_kept s.rem.nextId _ s)).trans (each_clears _ (fun y s => ?_) _)
  split
  · exact .of_kept (settle_kept _ _ _ _)
  · exact launch_clears _ _ _

theorem advanceJob_clears (n k : Nat) (s : State) : OnlyClears s (State.advanceJob n k s) := by
  induction k generalizing s with
  | zero => exact .refl s
  | succ k ih =>
    simp only [State.advanceJob]
    split
    · exact .refl s
    · split
      · split
        · exact .of_kept (complete_kept _ _ _ _ _)
        · exact .refl s
      · split
        · exact .refl s
        · refine .trans (.trans ?_ (issueRaw_clears _ _)) (ih _)
          exact .of_kept rfl

theorem advanceOwner_clears (s : State) (o : Op) : OnlyClears s (s.advanceOwner o) := by
  unfold State.advanceOwner
  split
  · split
    · exact advanceJob_clears _ _ _
    · exact .refl s
  · exact .refl s

/-! ### Data goes where it belongs (R219, R226, R243) -/

theorem writeBack_clears (s : State) (st : Nat) (b : MergeBlk) : OnlyClears s (s.writeBack st b) := by
  unfold State.writeBack
  refine (OnlyClears.of_kept ?_).trans (modSta_clears _ _ fun x => ⟨id, fun h => ?_, id⟩)
  · refine (when_kept _ _ ?_).trans (each_kept _ ?_ s)
    · exact fun _ => rfl
    · exact fun _ _ => rfl
  · simp only [h, List.filter_nil]

theorem closeBlocks_clears (s : State) (st a n : Nat) : OnlyClears s (s.closeBlocks st a n) := by
  refine each_clears _ (fun b s => ?_) s
  split
  · split
    · exact writeBack_clears _ _ _
    · exact .refl s
  · exact .refl s

theorem spWrite_kept (s : State) (c off : Nat) (l : List Byte) (poisoned : Bool) : (s.spWrite c off l poisoned).kept = s.kept := by
  refine (each_kept _ (fun b s => ?_) _).trans ?_
  · split
    · rfl
    · split <;> rfl
  · exact wrN_kept _ _ _

theorem fabWrite_clears (s : State) (a : Nat) (l : List Byte) (poisoned : Bool) : OnlyClears s (s.fabWrite a l poisoned) := by
  unfold State.fabWrite
  split
  · split
    · exact (closeBlocks_clears _ _ _ _).then (spWrite_kept _ _ _ _ _)
    · exact .refl s
  · exact .refl s

/-- An answer that brings no data. -/
def Status.Failed (st : Status) : Prop := st ≠ .done ∧ st ≠ .poisoned

theorem partStatus_failed {st : Status} (h : st.Failed) (data : List Byte) (off len : Nat) : partStatus st data off len = st :=
  if_neg fun hp => h.2 hp.1

/-- Where an answer without data goes, no block opens. -/
theorem place'_clears {st : Status} (h : st.Failed) (o : Op) (data : List Byte) (d : OpDest) (a : Nat) (s : State) :
    OnlyClears s (s.place' o data st d a) := by
  obtain ⟨hd, hp⟩ := h
  induction d generalizing data a s with
  | none => exact .refl s
  | scratch =>
    simp only [State.place', hd, if_false]
    exact fabWrite_clears _ _ _ _
  | stage =>
    simp only [State.place', hd, hp, or_self, if_false]
    exact .refl s
  | fill n line off len alloc next ih =>
    simp only [State.place', hd, hp, or_self, false_and, if_false, partStatus_failed ⟨hd, hp⟩]
    exact ih _ _ _
  | fetch => exact .of_kept rfl
  | entry => exact .of_kept rfl
  | keep => exact .of_kept rfl

theorem finish_clears {st : Status} (h : st.Failed) (s : State) (o : Op) (data : List Byte) (mask : Byte) :
    OnlyClears s (s.finish o st data mask) := by
  unfold State.finish
  split
  · exact .of_kept (settle_kept _ _ _ _)
  · exact ((place'_clears h o _ _ _ s).then (settle_kept _ _ _ _)).trans (advanceOwner_clears _ _)

theorem endOp_clears {st : Status} (h : st.Failed) (s : State) (op : Option Nat) (mask : Byte) : OnlyClears s (s.endOp op st mask) := by
  unfold State.endOp
  split
  · exact .refl s
  · split
    · exact finish_clears h _ _ _ _
    · exact .refl s

theorem refusePacket_clears {status : Status} (h : status.Failed) (s : State) (st rd : Nat) (q : QPacket) :
    OnlyClears s (s.refusePacket st rd q status) := by
  unfold State.refusePacket
  dsimp only
  split
  · exact endOp_clears h _ _ _
  · split
    · split
      · exact replyFault_clears _ _ _ _
      · exact .refl s
    · split
      · exact .refl s
      · split
        · split
          · exact finish_clears h _ _ _ _
          · exact .refl s
        · split
          · exact .refl s
          · exact postIn_clears _ _ _ _ _

theorem bankReply_clears (s : State) (r : BankReq) (st : Status) (data : List Byte) : OnlyClears s (s.bankReply r st data) := by
  unfold State.bankReply
  split
  · split <;> exact .of_kept rfl
  · exact reply_clears _ _ _ _ _ _ _
  · exact .refl s

end Sys2Proof.Machine
end

section
/-! SUPPORT. A field is taken down (R540, R541): what each stage of it clears, and that the other stages clear nothing else. -/

namespace Sys2Proof.Machine

open Sys2Proof Sys2Proof.Safety

/-! ### Operations, runs and waits end (R263, R541, R553, R605) -/

theorem flushMerge_clears (s : State) (st : Nat) : OnlyClears s (s.flushMerge st) :=
  each_clears _ (fun b s => writeBack_clears s st b) s

theorem endWaits_kept (s : State) (d : Nat) : (s.endWaits d).kept = s.kept := by
  unfold State.endWaits
  extract_lets s1
  have hcores : s1.kept = s.kept := by
    refine each_kept _ (fun i s => ?_) s
    split
    · exact complete_kept _ _ _ _ _
    · rfl
  clear_value s1
  split
  · exact (complete_kept _ _ _ _ _).trans hcores
  · exact hcores

theorem dropRuns_kept (s : State) (p : BistHold → Bool) : (s.dropRuns p).kept = s.kept := by
  refine (each_kept _ (fun r s => ?_) _).trans rfl
  exact complete_kept _ _ _ _ _

theorem dropLoops_kept (s : State) (p : Nat → Bool) : (s.dropLoops p).kept = s.kept := by
  refine (each_kept _ (fun r s => ?_) _).trans rfl
  exact complete_kept _ _ _ _ _

theorem dropJobs_kept (s : State) (p : Nat → Bool) : (s.dropJobs p).kept = s.kept := by
  refine (each_kept _ (fun j s => ?_) _).trans rfl
  exact complete_kept _ _ _ _ _

theorem stopBonds_kept (s : State) (d : Nat) (field : Bool) : (s.stopBonds d field).kept = s.kept :=
  each_kept _ (by intros; rfl) s

theorem log_kept (s : State) (code sev u : Nat) (l : List Byte) : (s.log code sev u l).kept = s.kept :=
  kept_of_same (log_same s code sev u l)

theorem senseAll_kept (s s0 : State) : (s.senseAll s0).kept = s.kept :=
  each_kept _ (fun src s => sense_kept s src s0) s

theorem capSense_kept (s : State) (parts : List Nat) (s0 : State) : (s.capSense parts s0).kept = s.kept :=
  kept_of_same (capSense_same s parts s0)

theorem deadTarget_failed : Status.deadTarget.Failed := ⟨nofun, nofun⟩
theorem pathLost_failed : Status.pathLost.Failed := ⟨nofun, nofun⟩

theorem fieldOps_clears (s : State) (l : List Nat) : OnlyClears s (s.fieldOps l) := by
  unfold State.fieldOps
  dsimp only
  have held := each_kept (s.rem.rack.filter fun r => l.contains r.xs) (f := fun r s => s.dropRack r.id) (by intros; rfl)
    (s.dropJobs l.contains)
  have ends := each_clears (s.rem.ops.filter fun o => l.contains o.issuerSt) (f := fun o s => s.endOp (some o.id) .pathLost 0)
    (fun o s => endOp_clears pathLost_failed s _ _)
  exact ((OnlyClears.of_kept (held.trans (dropJobs_kept s _))).trans (ends _)).then rfl

/-! ### A station is out of every reader set (R44, R54, R189, R253) -/

theorem settleAcks_kept (s : State) (st g : Nat) : (s.settleAcks st g).kept = s.kept := rfl

theorem reshare_kept (s : State) (st g : Nat) : (s.reshare st g).kept = s.kept := by
  unfold State.reshare
  dsimp only
  split
  · exact each_kept _ (by intros; rfl) s
  · rfl

theorem readerSetsChanged_kept (s : State) (st : Nat) : (s.readerSetsChanged st).kept = s.kept := by
  refine each_kept _ (fun rg s => ?_) s
  dsimp only
  split
  · exact (reshare_kept _ _ _).trans (settleAcks_kept s _ _)
  · rfl

theorem clearPend_kept (s : State) (r w : Nat) : (s.clearPend r w).kept = s.kept := each_kept _ (by intros; rfl) s

theorem purgeTo_clears (s : State) (w st : Nat) : OnlyClears s (s.purgeTo w st) := by
  unfold State.purgeTo
  extract_lets keep s1
  have h1 : OnlyClears s s1 := modSta_clears s w fun _ => ⟨id, id, id⟩
  exact h1.then (each_kept _ (by intros; rfl) s1)

theorem undelivered_clears (s : State) (w st : Nat) : OnlyClears s (s.undelivered w st) := modSta_clears _ _ fun _ => ⟨id, id, id⟩

theorem stationGone_clears (s : State) (st : Nat) : OnlyClears s (s.stationGone st) := by
  have others := each_clears (otherStations st)
    (f := fun w s => (((s.undelivered w st).purgeTo w st).clearPend st w).clearPend w st)
    (fun w s => (((undelivered_clears s w st).trans (purgeTo_clears _ w st)).then (clearPend_kept _ _ _)).then (clearPend_kept _ _ _)) s
  refine (others.then (readerSetsChanged_kept _ st)).trans (each_clears _ (fun e s => ?_) _)
  exact refusePacket_clears deadTarget_failed _ _ _ _

theorem answer_kept (s : State) (a : Asker) (opcode : Nat) (st : Status) : (s.answer a opcode st).kept = s.kept := by
  unfold State.answer
  split
  · exact complete_kept _ _ _ _ _
  · rfl

theorem dropChange_kept (s : State) (st rg : Nat) (status : Status) : (s.dropChange st rg status).kept = s.kept := by
  unfold State.dropChange
  split
  · rfl
  · exact (answer_kept _ _ _ _).trans rfl

/-! ### A station of a field that is reset (R525, R540) -/

/-- A station is as its field's reset leaves it: out of service, with no open block, no bolt and no sow entry. -/
structure StationCleared (st : Nat) (s : State) : Prop where
  up : (s.sta st).up = false
  merge : (s.sta st).merge = []
  bolt : (s.sta st).rmapBolt = false
  sows : s.sowTab (sowKey .station st) = []

theorem StationCleared.mono {st : Nat} {s t : State} (h : StationCleared st s) (k : OnlyClears s t) : StationCleared st t where
  up := (k.sta st).up h.up
  merge := (k.sta st).merge h.merge
  bolt := (k.sta st).bolt h.bolt
  sows := k.sows _ h.sows

theorem clearSows_clears (s : State) (t : SowTable) (u : Nat) : OnlyClears s (s.clearSows t u) := by
  refine ⟨rfl, rfl, rfl, rfl, rfl, fun k hk => ?_, fun _ => ⟨id, id, id⟩⟩
  change (s.modSow (sowKey t u) _).sowTab k = []
  by_cases h : k = sowKey t u
  · subst h
    rw [State.sowTab_modSow, hk]
    rfl
  · rw [State.sowTab_modSow_ne _ _ h, hk]

theorem clearSows_sta (s : State) (t : SowTable) (u st : Nat) : (s.clearSows t u).sta st = s.sta st := rfl

theorem clearSows_sowTab (s : State) (t : SowTable) (u : Nat) : (s.clearSows t u).sowTab (sowKey t u) = [] := by
  change (s.modSow (sowKey t u) _).sowTab _ = []
  rw [State.sowTab_modSow]
  simp

/-- What a station held goes with the reset of its field. -/
theorem clearStation_clears (s : State) (st : Nat) : OnlyClears s (s.clearStation st true) := by
  refine OnlyClears.trans (.of_kept ?_) (modSta_clears _ st fun _ => ⟨fun _ => rfl, fun _ => rfl, fun _ => rfl⟩)
  refine (each_kept _ ?_ _).trans ((each_kept _ ?_ _).trans (each_kept _ ?_ s))
  · exact fun _ _ => rfl
  · exact fun _ _ => rfl
  · exact fun _ _ => rfl

theorem clearStation_sta (s : State) (st : Nat) : (s.clearStation st true).sta st = Station.reset := by
  unfold State.clearStation
  rw [State.sta_modSta]
  rfl

theorem stationDown_clears (s : State) (st : Nat) : OnlyClears s (s.stationDown st true) := by
  unfold State.stationDown
  extract_lets s1 s2
  have h1 : s1.kept = s.kept := each_kept _ (by intros; exact dropChange_kept _ _ _ _) s
  have h2 : OnlyClears s1 s2 := by
    refine .trans ?_ (stationGone_clears _ st)
    exact modSta_clears s1 st fun _ => ⟨fun _ => rfl, id, id⟩
  exact (((OnlyClears.of_kept h1).trans h2).trans (clearStation_clears s2 st)).trans (clearSows_clears _ _ _)

theorem stationDown_cleared (s : State) (st : Nat) : StationCleared st (s.stationDown st true) := by
  unfold State.stationDown
  extract_lets s1 s2
  have hsta : ((s2.clearStation st true).clearSows .station st).sta st = Station.reset := by
    rw [clearSows_sta, clearStation_sta]
  exact ⟨by rw [hsta]; rfl, by rw [hsta]; rfl, by rw [hsta]; rfl, clearSows_sowTab _ _ _⟩

/-! ### A sheaf bank clears (R354, R359) -/

/-- The sheaves of a bank are at reset and what waited there is gone, but nobody has been answered yet. -/
def State.emptyBank (s : State) (k : Nat) : State :=
  { s with sheaves := { s.sheaves with
    sheaf := s.sheaves.sheaf.filter fun e => sheafBank e.1 != k, bank := tdel s.sheaves.bank k } }

theorem tget_filter_out {β : Type} (t : Tbl β) (d : β) {p : Nat → Bool} {i : Nat} (h : p i = false) :
    tget (t.filter fun e => p e.1) d i = d := by
  induction t with
  | nil => rfl
  | cons e r ih =>
    obtain ⟨j, v⟩ := e
    by_cases hj : p j = true
    · have hne : j ≠ i := fun he => by simp [he, h] at hj
      simpa [hj, tget, hne] using ih
    · simpa [hj] using ih

theorem emptyBank_sheaf (s : State) {k n : Nat} (h : sheafBank n = k) : (s.emptyBank k).sheaf n = Sheaf.reset :=
  tget_filter_out _ _ (p := fun i => sheafBank i != k) (by simp [h])

/-- The answers that a bank gives as it clears leave the rest alone. -/
theorem clearBank_clears (s : State) (k : Nat) : OnlyClears (s.emptyBank k) (s.clearBank k) := by
  unfold State.clearBank
  extract_lets waiting reqs sheaves s1 s2
  have h2 : s2.kept = (s.emptyBank k).kept := each_kept _ (by intros; rfl) s1
  refine (OnlyClears.of_kept h2).trans (each_clears _ (fun r s => ?_) s2)
  split
  · exact replyFault_clears _ _ _ _
  · exact bankReply_clears _ _ _ _

/-! ### Stacks of a memory station (R196) -/

/-- A stack that is in one state goes over to another. -/
def State.moveStack (s : State) (x y : HbmState) (h : Nat) : State :=
  if (s.hbm h).state = x then s.modHbm h fun q => { q with state := y } else s

/-- t is s but for the stacks. -/
def StacksOnly (s t : State) : Prop := t = { s with mem := { s.mem with hbm := t.mem.hbm } }

theorem StacksOnly.trans {s t u : State} (h : StacksOnly s t) (k : StacksOnly t u) : StacksOnly s u := by
  unfold StacksOnly at *
  rw [k, h]

theorem StacksOnly.resets {s t : State} (h : StacksOnly s t) : t.resets = s.resets := by rw [h]
theorem StacksOnly.hash {s t : State} (h : StacksOnly s t) : t.hash = s.hash := by rw [h]
theorem StacksOnly.ms {s t : State} (h : StacksOnly s t) : t.mem.ms = s.mem.ms := by rw [h]
theorem StacksOnly.cells {s t : State} (h : StacksOnly s t) : t.mem.cells = s.mem.cells := by rw [h]
theorem StacksOnly.cores {s t : State} (h : StacksOnly s t) : t.cores = s.cores := by rw [h]
theorem StacksOnly.sheaves {s t : State} (h : StacksOnly s t) : t.sheaves = s.sheaves := by rw [h]
theorem StacksOnly.sows {s t : State} (h : StacksOnly s t) : t.sows = s.sows := by rw [h]
theorem StacksOnly.fab {s t : State} (h : StacksOnly s t) : t.fab = s.fab := by rw [h]

theorem moveStack_stacks (s : State) (x y : HbmState) (h : Nat) : StacksOnly s (s.moveStack x y h) := by
  unfold State.moveStack
  split <;> rfl

theorem moveStack_state (s : State) (x y : HbmState) (h i : Nat) :
    ((s.moveStack x y h).hbm i).state = if i = h ∧ (s.hbm i).state = x then y else (s.hbm i).state := by
  unfold State.moveStack
  by_cases hx : (s.hbm h).state = x
  · rw [if_pos hx]
    by_cases hi : i = h
    · subst hi
      simp [hx]
    · simp [hi, State.hbm_modHbm_ne]
  · have hc : ¬(i = h ∧ (s.hbm i).state = x) := by
      rintro ⟨rfl, hi⟩
      exact hx hi
    rw [if_neg hx, if_neg hc]

theorem each_moveStack_state (l : List Nat) (s : State) {x y : HbmState} {i : Nat} (hi : i ∈ l) (hs : (s.hbm i).state = x) :
    ((each l (fun h s => s.moveStack x y h) s).hbm i).state = y := by
  induction l generalizing s with
  | nil => cases hi
  | cons h r ih =>
    rw [each_cons]
    have hstep := moveStack_state s x y h i
    by_cases he : i = h
    · rw [if_pos ⟨he, hs⟩] at hstep
      refine each_inv (fun t => (t.hbm i).state = y) r _ hstep fun a t ht => ?_
      rw [moveStack_state, ht, ite_self]
    · rw [if_neg fun hc => he hc.1, hs] at hstep
      exact ih _ ((List.mem_cons.1 hi).resolve_left he) hstep

/-- The three stacks of a memory station. -/
theorem mem_stacks {k h : Nat} : h ∈ (List.range 3).map (3 * k + ·) ↔ h / 3 = k := by
  simp only [List.mem_map, List.mem_range]
  constructor
  · rintro ⟨i, hi, rfl⟩
    omega
  · intro he
    exact ⟨h - 3 * k, by omega, by omega⟩

theorem restStacks_stacks (s : State) (k : Nat) : StacksOnly s (s.restStacks k) :=
  each_rel (R := StacksOnly) (fun _ => rfl) .trans _ (fun h s => moveStack_stacks s .ready .selfref h) s

theorem restStacks_state (s : State) {k h : Nat} (hk : h / 3 = k) (hs : (s.hbm h).state = .ready) :
    ((s.restStacks k).hbm h).state = .selfref :=
  each_moveStack_state _ s (mem_stacks.2 hk) hs

theorem wakeStacks_stacks (s : State) (k : Nat) : StacksOnly s (s.wakeStacks k) :=
  each_rel (R := StacksOnly) (fun _ => rfl) .trans _ (fun h s => moveStack_stacks s .selfref .ready h) s

theorem wakeStacks_state (s : State) {k h : Nat} (hk : h / 3 = k) (hs : (s.hbm h).state = .selfref) :
    ((s.wakeStacks k).hbm h).state = .ready :=
  each_moveStack_state _ s (mem_stacks.2 hk) hs

/-! ### The stages of FIELD_RESET (R540, R541) -/

/-- A field unit as FIELD_RESET leaves it. -/
def FieldUnit.down (f : FieldUnit) : FieldUnit := { state := .reset, resets := inc 16 f.resets, cold := false, enabling := none }

theorem modDie_kept (s : State) (d : Nat) (f : DieUnit → DieUnit) : (s.modDie d f).kept = s.kept := rfl

theorem resetAlloc_kept (s : State) (st : Nat) : (s.resetAlloc st).kept = s.kept := rfl

theorem endRejoin_kept (s : State) (d : Nat) : (if (s.die d).state = .rejoining then
    (s.endWaits d).modDie d fun x => { x with state := .gated } else s).kept = s.kept := by
  split
  · exact (modDie_kept _ _ _).trans (endWaits_kept s d)
  · rfl

theorem fieldDown_stages (s : State) (k : Nat) : ∃ a c e, OnlyClears s a ∧
    OnlyClears (a.modField k FieldUnit.down) c ∧ OnlyClears (c.emptyBank k) e ∧ (∀ st ∈ fieldStations k, StationCleared st e) ∧
    (s.fieldDown k).kept = ((e.modMs k fun _ => MemStation.reset).restStacks k).kept := by
  unfold State.fieldDown
  extract_lets l dies s1 s2 s3 s4 s5 s6 s7 s8
  have h1 : OnlyClears s s1 := each_clears l (by intros; exact flushMerge_clears _ _) s
  have h2 : s2.kept = s1.kept := each_kept dies (by intros; exact endRejoin_kept _ _) s1
  have h4 : OnlyClears s3 (each l (fun st s => s.modSta st fun x => { x with up := false }) s3) :=
    each_clears l (by intros; exact modSta_clears _ _ fun _ => ⟨fun _ => rfl, id, id⟩) s3
  have h5 : OnlyClears (s4.fieldOps l) s5 := each_clears l (by intros; exact (stationDown_clears _ _).then (resetAlloc_kept _ _)) _
  refine ⟨each l (fun st s => s.loseRemnants st) s2, _, s5, ?_, h4, ?_, ?_, ?_⟩
  · exact (h1.then h2).then (each_kept l (by intros; rfl) s2)
  · exact ((clearBank_clears _ k).trans (fieldOps_clears s4 l)).trans h5
  · refine each_all (Q := StationCleared) l _ (fun st s => ?_) (fun a b s hb => ?_)
    · exact (stationDown_cleared s st).mono (.of_kept (resetAlloc_kept _ _))
    · exact hb.mono ((stationDown_clears s a).then (resetAlloc_kept _ _))
  · have h7 : s7.kept = s6.kept := each_kept dies (by intros; exact stopBonds_kept _ _ _) s6
    have h8 : s8.kept = s7.kept := (dropLoops_kept _ _).trans (dropRuns_kept _ _)
    exact (((capSense_kept _ _ _).trans (senseAll_kept _ _)).trans (log_kept _ _ _ _ _)).trans (h8.trans h7)

/-! ### What FIELD_RESET leaves -/

section
variable (s : State) (k : Nat)

theorem fieldDown_field (j : Nat) : (s.fieldDown k).field j = (s.modField k FieldUnit.down).field j := by
  obtain ⟨a, c, e, ha, hc, he, -, ht⟩ := fieldDown_stages s k
  have hfields : (s.fieldDown k).resets.fields = (a.modField k FieldUnit.down).resets.fields := by
    calc (s.fieldDown k).resets.fields
        = ((e.modMs k fun _ => MemStation.reset).restStacks k).resets.fields := (OnlyClears.of_kept ht).fields
      _ = e.resets.fields := by rw [(restStacks_stacks _ k).resets, State.modMs_resets]
      _ = c.resets.fields := he.fields
      _ = (a.modField k FieldUnit.down).resets.fields := hc.fields
  simp only [State.field, hfields, State.modField, ha.fields]

theorem fieldDown_hash : (s.fieldDown k).hash = s.hash := by
  obtain ⟨a, c, e, ha, hc, he, -, ht⟩ := fieldDown_stages s k
  calc (s.fieldDown k).hash
      = ((e.modMs k fun _ => MemStation.reset).restStacks k).hash := (OnlyClears.of_kept ht).hash
    _ = e.hash := by rw [(restStacks_stacks _ k).hash, State.modMs_hash]
    _ = s.hash := he.hash.trans (hc.hash.trans ha.hash)

theorem fieldDown_ms : (s.fieldDown k).ms k = MemStation.reset := by
  obtain ⟨-, -, e, -, -, -, -, ht⟩ := fieldDown_stages s k
  have hms : (s.fieldDown k).mem.ms = (e.modMs k fun _ => MemStation.reset).mem.ms :=
    (OnlyClears.of_kept ht).ms.trans (restStacks_stacks _ k).ms
  simp only [State.ms, hms]
  exact State.ms_modMs e k _

theorem fieldDown_sheaf {n : Nat} (hn : sheafBank n = k) : (s.fieldDown k).sheaf n = Sheaf.reset := by
  obtain ⟨-, c, e, -, -, he, -, ht⟩ := fieldDown_stages s k
  have hsheaf : (s.fieldDown k).sheaves.sheaf = (c.emptyBank k).sheaves.sheaf := by
    calc (s.fieldDown k).sheaves.sheaf
        = ((e.modMs k fun _ => MemStation.reset).restStacks k).sheaves.sheaf := (OnlyClears.of_kept ht).sheaf
      _ = e.sheaves.sheaf := by rw [(restStacks_stacks _ k).sheaves, State.modMs_sheaves]
      _ = (c.emptyBank k).sheaves.sheaf := he.sheaf
  have := emptyBank_sheaf c hn
  simpa only [State.sheaf, hsheaf] using this

theorem fieldDown_hbm {h : Nat} (hk : h / 3 = k) (hr : (s.hbm h).state = .ready) : ((s.fieldDown k).hbm h).state = .selfref := by
  obtain ⟨a, c, e, ha, hc, he, -, ht⟩ := fieldDown_stages s k
  have hbm0 : (e.modMs k fun _ => MemStation.reset).mem.hbm = s.mem.hbm := he.hbm.trans (hc.hbm.trans ha.hbm)
  have hbm1 : (s.fieldDown k).mem.hbm = ((e.modMs k fun _ => MemStation.reset).restStacks k).mem.hbm := (OnlyClears.of_kept ht).hbm
  have hr0 : ((e.modMs k fun _ => MemStation.reset).hbm h).state = .ready := by
    rw [← hr]
    simp only [State.hbm, hbm0]
  simpa only [State.hbm, hbm1] using restStacks_state _ hk hr0

theorem fieldDown_station {st : Nat} (hst : st ∈ fieldStations k) : StationCleared st (s.fieldDown k) := by
  obtain ⟨-, -, e, -, -, -, hall, ht⟩ := fieldDown_stages s k
  have hstacks := restStacks_stacks (e.modMs k fun _ => MemStation.reset) k
  have hfab : ((e.modMs k fun _ => MemStation.reset).restStacks k).sta st = e.sta st := by
    rw [State.sta, hstacks.fab]
    rfl
  have hsows : ((e.modMs k fun _ => MemStation.reset).restStacks k).sowTab (sowKey .station st) = [] := by
    rw [State.sowTab, hstacks.sows]
    exact (hall st hst).sows
  obtain ⟨hup, hmerge, hbolt, -⟩ := hall st hst
  have h : StationCleared st ((e.modMs k fun _ => MemStation.reset).restStacks k) :=
    ⟨by rw [hfab, hup], by rw [hfab, hmerge], by rw [hfab, hbolt], hsows⟩
  exact h.mono (.of_kept ht)

end

end Sys2Proof.Machine
end

section
/-! SUPPORT. A field returns (R112, R145, R249, R543): its stacks and its receipt share at the start, its stations at the end. -/

namespace Sys2Proof.Machine

open Sys2Proof Sys2Proof.Safety

/-! ### A field starts (R112, R145, R249) -/

theorem FabricOnly.resets {s t : State} (h : FabricOnly s t) : t.resets = s.resets :=
  SameButSignals.resets (s := { s with fab := t.fab }) h
theorem FabricOnly.time {s t : State} (h : FabricOnly s t) : t.time = s.time :=
  SameButSignals.time (s := { s with fab := t.fab }) h
theorem hash_of_same {s t : State} (h : SameButSignals s t) : t.hash = s.hash := by rw [h]
theorem FabricOnly.hash {s t : State} (h : FabricOnly s t) : t.hash = s.hash :=
  hash_of_same (s := { s with fab := t.fab }) h

theorem acquireField_fabric (s : State) (k : Nat) : FabricOnly s (s.acquireField k) :=
  each_fabric _ (fun _ s => setRings_fabric s _ _) s

theorem StacksOnly.time {s t : State} (h : StacksOnly s t) : t.time = s.time := by rw [h]

theorem fieldWarm_iff (s : State) (k : Nat) :
    s.fieldWarm k = true ↔ ∀ i < 48, 60 ≤ tget s.power.sensors 0 (firstSensor (.field k) + i) := by
  simp [State.fieldWarm]

section
variable (s : State) (k : Nat)

theorem fieldStarts_not_ready (h : s.resets.phase ≠ .ready) : s.fieldStarts k = s.acquireField k := if_neg h

theorem fieldStarts_ready (h : s.resets.phase = .ready) :
    s.fieldStarts k = ((s.acquireField k).wakeStacks k).shareReturn k := if_pos h

theorem shareReturn_hbm (i : Nat) : (s.shareReturn k).hbm i = s.hbm i := rfl

/-- The start of a field changes its groups, its stacks and its share alone. -/
theorem fieldStarts_frame : (s.fieldStarts k).resets = s.resets ∧ (s.fieldStarts k).cores = s.cores ∧
    (s.fieldStarts k).hash = s.hash ∧ (s.fieldStarts k).mem.cells = s.mem.cells := by
  have ha := acquireField_fabric s k
  by_cases h : s.resets.phase = .ready
  · rw [fieldStarts_ready s k h]
    have hw := wakeStacks_stacks (s.acquireField k) k
    unfold State.shareReturn
    rw [State.modMs_resets, State.modMs_cores, State.modMs_hash, State.modMs_mem_cells]
    exact ⟨hw.resets.trans ha.resets, hw.cores.trans ha.cores, hw.hash.trans ha.hash,
      hw.cells.trans (congrArg Memory.cells ha.mem)⟩
  · rw [fieldStarts_not_ready s k h]
    exact ⟨ha.resets, ha.cores, ha.hash, congrArg Memory.cells ha.mem⟩

theorem shareReturn_ms : ((s.shareReturn k).ms k).shareUp = true ∧ ((s.shareReturn k).ms k).evft = s.now := by
  unfold State.shareReturn
  rw [State.ms_modMs]
  exact ⟨rfl, rfl⟩

/-- With the package in service the receipt share is back at once (R249; log entry 89). -/
theorem fieldStarts_share (h : s.resets.phase = .ready) :
    ((s.fieldStarts k).ms k).shareUp = true ∧ ((s.fieldStarts k).ms k).evft = s.now := by
  have hnow : ((s.acquireField k).wakeStacks k).now = s.now := by
    unfold State.now
    rw [(wakeStacks_stacks _ k).time, (acquireField_fabric s k).time]
  rw [fieldStarts_ready s k h, ← hnow]
  exact shareReturn_ms _ k

/-- With the package in service the stacks leave self-refresh at once (R196; log entry 89). -/
theorem fieldStarts_stacks (h : s.resets.phase = .ready) {i : Nat} (hi : i / 3 = k) (hs : (s.hbm i).state = .selfref) :
    ((s.fieldStarts k).hbm i).state = .ready := by
  rw [fieldStarts_ready s k h, shareReturn_hbm]
  refine wakeStacks_state (s.acquireField k) hi ?_
  rw [← hs]
  simp only [State.hbm, (acquireField_fabric s k).mem]

end

/-! ### Stations come into service: what their links and credit change (R145, R166, R174, R536) -/

/-- Between s and t no station leaves service, and field units and hash stand. -/
structure StaysUp (s t : State) : Prop where
  fields : t.resets.fields = s.resets.fields
  hash : t.hash = s.hash
  up : ∀ st, (s.sta st).up = true → (t.sta st).up = true

theorem StaysUp.of_kept {s t : State} (h : t.kept = s.kept) : StaysUp s t := by
  have hst : t.fab.st = s.fab.st := congrArg Kept.st h
  refine ⟨congrArg Kept.fields h, congrArg Kept.hash h, fun st => ?_⟩
  simp only [State.sta, hst, imp_self]

theorem StaysUp.trans {a b c : State} (h : StaysUp a b) (k : StaysUp b c) : StaysUp a c where
  fields := k.fields.trans h.fields
  hash := k.hash.trans h.hash
  up st hu := k.up st (h.up st hu)

theorem each_stays {α : Type} (l : List α) {f : α → State → State} (hf : ∀ a s, StaysUp s (f a s)) (s : State) :
    StaysUp s (each l f s) := each_rel (R := StaysUp) (fun _ => .of_kept rfl) StaysUp.trans l hf s

theorem modSta_stays (s : State) (st : Nat) {f : Station → Station} (hf : ∀ x : Station, x.up = true → (f x).up = true) :
    StaysUp s (s.modSta st f) := by
  refine ⟨rfl, rfl, fun w hw => ?_⟩
  by_cases h : w = st
  · subst h
    rw [State.sta_modSta]
    exact hf _ hw
  · rwa [State.sta_modSta_ne _ _ h]

theorem kept_of_groups {s t : State} (h : GroupsOnly s t) : t.kept = s.kept :=
  (kept_of_same (s := { s with fab := { s.fab with tx := t.fab.tx } }) h).trans rfl

theorem modTx_kept (s : State) (st g : Nat) (f : TxGroup → TxGroup) : (s.modTx st g f).kept = s.kept := rfl
theorem modRx_kept (s : State) (st g : Nat) (f : RxGroup → RxGroup) : (s.modRx st g f).kept = s.kept := rfl

theorem setRings_kept (s : State) (l : List RingId) (x : RingState) : (s.setRings l x).kept = s.kept := by
  unfold State.setRings
  refine each_kept _ (fun r s => ?_) s
  split <;> rfl

theorem lockWriters_kept (s : State) (st : Nat) : (s.lockWriters st).kept = s.kept := by
  unfold State.lockWriters
  refine each_kept _ (fun g s => ?_) s
  exact (modTx_kept _ _ _ _).trans (setRings_kept s _ _)

theorem correctRing_kept (s : State) (r : RingId) (heater bias : Int) : (s.correctRing r heater bias).kept = s.kept := by
  unfold State.correctRing
  split <;> rfl

theorem clearLane_kept (s : State) (st g lane : Nat) : (s.clearLane st g lane).kept = s.kept := by
  unfold State.clearLane
  dsimp only
  split
  · split
    · exact (kept_of_groups (setTxState_groups _ _ _ _)).trans (modTx_kept s _ _ _)
    · rfl
  · rfl

theorem markEyes_kept (s : State) (wst wlg : Nat) (eyes : List Nat) : (s.markEyes wst wlg eyes).kept = s.kept := by
  unfold State.markEyes
  refine each_kept _ (fun l s => ?_) s
  dsimp only
  split
  · exact kept_of_groups (markLane_groups _ _ _ _)
  · split
    · exact clearLane_kept _ _ _ _
    · rfl

theorem joinReader_kept (s : State) (st rg : Nat) : (s.joinReader st rg).kept = s.kept := rfl

theorem applyCal_kept (s : State) (st rg : Nat) (r : CalResult) : (s.applyCal st rg r).kept = s.kept := by
  unfold State.applyCal
  extract_lets e s1 s2 worst s3
  have h1 : s1.kept = s.kept := each_kept _ (by intros; exact correctRing_kept _ _ _ _) s
  have h3 : s3.kept = s.kept := (modRx_kept s2 _ _ _).trans ((markEyes_kept s1 _ _ _).trans h1)
  split
  · exact (reshare_kept _ _ _).trans ((joinReader_kept s3 st rg).trans h3)
  · exact h3

theorem calibrateNow_kept (s : State) (st rg : Nat) : (s.calibrateNow st rg).kept = s.kept :=
  (applyCal_kept _ st rg _).trans rfl

theorem lockEntry_kept (s : State) (st g : Nat) : (s.lockEntry st g).kept = s.kept :=
  (calibrateNow_kept _ st g).trans ((modRx_kept _ st g _).trans (setRings_kept s _ _))

theorem lockStanding_kept (s : State) (st : Nat) : (s.lockStanding st).kept = s.kept :=
  each_kept _ (by intros; exact lockEntry_kept _ _ _) s

theorem relock_kept (s : State) (st : Nat) : (s.relock st).kept = s.kept :=
  each_kept _ (by intros; exact lockEntry_kept _ _ _) s

theorem restartSeq_kept (s : State) (st g : Nat) : (s.restartSeq st g).kept = s.kept := by
  unfold State.restartSeq
  exact (each_kept _ (by intros; rfl) _).trans (modTx_kept s _ _ _)

theorem returnGroup_kept (s : State) (st g : Nat) : (s.returnGroup st g).kept = s.kept := by
  unfold State.returnGroup
  exact (modTx_kept _ _ _ _).trans ((kept_of_groups (setTxState_groups _ _ _ _)).trans (restartSeq_kept s st g))

theorem startGroups_kept (s : State) (st : Nat) : (s.startGroups st).kept = s.kept := by
  unfold State.startGroups
  refine each_kept _ (fun g s => ?_) s
  split
  · exact kept_of_groups (setTxState_groups _ _ _ _)
  · exact returnGroup_kept _ _ _

theorem freshCredit_kept (s : State) (r w : Nat) : (s.freshCredit r w).kept = s.kept := each_kept _ (by intros; rfl) s

theorem stationBack_stays (s : State) (st : Nat) : StaysUp s (s.stationBack st) := by
  unfold State.stationBack
  extract_lets s1 s2
  have h1 : s1.kept = s.kept := by
    refine each_kept _ (fun w s => ?_) s
    exact (freshCredit_kept _ _ _).trans (freshCredit_kept s _ _)
  have h2 : StaysUp s1 s2 := modSta_stays s1 st fun _ => id
  exact ((StaysUp.of_kept h1).trans h2).trans
    (.of_kept ((readerSetsChanged_kept _ st).trans (each_kept _ (by intros; rfl) s2)))

theorem stationsUp_stays (s : State) (l : List Nat) :
    StaysUp s (s.stationsUp l) ∧ ∀ st ∈ l, ((s.stationsUp l).sta st).up = true := by
  unfold State.stationsUp
  extract_lets s1 s2 s3 s4
  have hstep (st : Nat) (s : State) : StaysUp s ((s.modSta st fun x => { x with up := true }).lockWriters st) := by
    refine .trans ?_ (.of_kept (lockWriters_kept _ st))
    exact modSta_stays s st fun _ _ => rfl
  have hset : ∀ st ∈ l, (s1.sta st).up = true := by
    refine each_all (Q := fun st t => (t.sta st).up = true) l s (fun st s => ?_) fun a st s => (hstep a s).up st
    refine (StaysUp.of_kept (lockWriters_kept _ st)).up st ?_
    rw [State.sta_modSta]
  have h1 : StaysUp s s1 := each_stays l hstep s
  have h2 : s2.kept = s1.kept := each_kept l (by intros; exact (lockStanding_kept _ _).trans (relock_kept _ _)) s1
  have h3 : s3.kept = s2.kept := by
    refine each_kept _ (fun st s => ?_) s2
    split
    · exact lockStanding_kept _ _
    · rfl
  have h4 : s4.kept = s3.kept := each_kept l (by intros; exact startGroups_kept _ _) s3
  have h5 : StaysUp s1 (each l (fun st s => s.stationBack st) s4) :=
    (StaysUp.of_kept (h4.trans (h3.trans h2))).trans (each_stays l (by intros; exact stationBack_stays _ _) s4)
  exact ⟨h1.trans h5, fun st hst => h5.up st (hset st hst)⟩

end Sys2Proof.Machine
end

section
/-! SUPPORT. A field is reset and enabled again: FIELD_RESET, FIELD_ENABLE, its end and WARM_UP_END (R524, R540, R543). -/

namespace Sys2Proof.Machine

open Sys2Proof Sys2Proof.Safety

/-! ### FIELD_RESET (R524, R540) -/

section
variable {s : State} {k : Nat}

theorem exec_fieldReset_taken (htrip : s.power.tripped = false) (hk : k < 4) (hup : s.fieldUp k = true)
    (hxs : s.lastXs k = false) (o : Origin) : exec (.fieldReset o k) s = .next ((s.complete o 0x09 .done []).fieldDown k) := by
  show execFieldReset o k s = _
  simp [execFieldReset, htrip, hk, hup, hxs, firstFail]

theorem exec_fieldReset_refused (htrip : s.power.tripped = false) (hk : k < 4) (h : s.fieldUp k = false ∨ s.lastXs k = true)
    (o : Origin) : exec (.fieldReset o k) s = .next (s.complete o 0x09 .wrongState []) := by
  show execFieldReset o k s = _
  cases hup : s.fieldUp k with
  | false => simp [execFieldReset, htrip, hk, hup, firstFail]
  | true =>
    have hxs : s.lastXs k = true := h.resolve_left (by simp [hup])
    simp [execFieldReset, htrip, hk, hup, hxs, firstFail]

theorem field_of_fields {s t : State} (h : t.resets.fields = s.resets.fields) (k : Nat) : t.field k = s.field k := by
  simp only [State.field, h]

theorem field_of_resets {s t : State} (h : t.resets = s.resets) (k : Nat) : t.field k = s.field k :=
  field_of_fields (congrArg Resets.fields h) k

/-- A field that is reset after its command's record was queued. -/
theorem completed_fieldDown (s : State) (k : Nat) (o : Origin) (opcode : Nat) (st : Status) (res : List Byte) :
    let t := (s.complete o opcode st res).fieldDown k
    t.field k = (s.field k).down ∧ (∀ w ∈ fieldStations k, StationCleared w t) ∧
      (∀ n, sheafBank n = k → t.sheaf n = Sheaf.reset) ∧ t.ms k = MemStation.reset ∧
      (∀ h, h / 3 = k → (s.hbm h).state = .ready → (t.hbm h).state = .selfref) ∧
      (∀ j, j ≠ k → t.field j = s.field j) ∧ t.hash = s.hash := by
  have hc := OnlyClears.of_kept (complete_kept s o opcode st res)
  generalize s.complete o opcode st res = u at hc
  have hfield := field_of_fields hc.fields
  refine ⟨?_, fun w hw => fieldDown_station u k hw, fun n hn => fieldDown_sheaf u k hn, fieldDown_ms u k, fun h hk hr => ?_,
    fun j hj => ?_, (fieldDown_hash u k).trans hc.hash⟩
  · rw [fieldDown_field, State.field_modField, hfield]
  · refine fieldDown_hbm u k hk ?_
    simpa only [State.hbm, hc.hbm] using hr
  · rw [fieldDown_field, State.field_modField_ne _ _ hj, hfield]

end

/-! ### FIELD_ENABLE and WARM_UP_END (R112, R524, R543) -/

section
variable {s : State} {k : Nat}

theorem exec_fieldEnable_up (htrip : s.power.tripped = false) (hk : k < 4) (hup : (s.field k).state = .up) (o : Origin) :
    exec (.fieldEnable o k) s = .next (s.complete o 0x0A .wrongState []) := by
  show execFieldEnable o k s = _
  simp only [execFieldEnable, htrip, Bool.not_false, act_true]
  rw [commandLong_turned_away]
  simp [hk, hup, firstFail]

theorem exec_fieldEnable_reset (htrip : s.power.tripped = false) (hk : k < 4) (hr : (s.field k).state = .reset)
    (he : (s.field k).enabling = none) (o : Origin) :
    exec (.fieldEnable o k) s = .next ((s.startField k (some o)).sense (ntLockCold k) s) := by
  show execFieldEnable o k s = _
  simp only [execFieldEnable, htrip, Bool.not_false, act_true]
  rw [commandLong_passes]
  simp [hk, hr, he, firstFail]

theorem exec_warmUpEnd_warm (hk : k < 4) (hw : (s.field k).state = .warmup) (hwarm : s.fieldWarm k = true) :
    exec (.warmUpEnd k) s =
      .next (((s.modField k fun f => { f with state := .enabling, cold := false }).fieldStarts k).sense (ntLockCold k) s) := by
  show execWarmUpEnd k s = _
  simp only [execWarmUpEnd, hk, hw, hwarm, decide_true, Bool.and_self, act_true]

theorem State.now_modField (s : State) (k : Nat) (f : FieldUnit → FieldUnit) : (s.modField k f).now = s.now := rfl

/-- A warm field whose unit is written and that starts, with LOCK_COLD sensed: what returns, and what is as before. -/
theorem fieldStarts_sensed (s : State) (k src : Nat) (f : FieldUnit → FieldUnit) :
    let t := ((s.modField k f).fieldStarts k).sense src s
    t.field k = f (s.field k) ∧ (s.resets.phase = .ready → (t.ms k).shareUp = true ∧ (t.ms k).evft = s.now ∧
        ∀ h, h / 3 = k → (s.hbm h).state = .selfref → (t.hbm h).state = .ready) ∧
      (s.resets.phase ≠ .ready → t.mem = s.mem) ∧ t.cores = s.cores ∧ t.mem.cells = s.mem.cells ∧ t.hash = s.hash := by
  intro t
  have hs : SameButSignals ((s.modField k f).fieldStarts k) t := sense_same _ src s
  clear_value t
  obtain ⟨hresets, hcores, hhash, hcells⟩ := fieldStarts_frame (s.modField k f) k
  refine ⟨?_, fun h => ?_, fun h => ?_, hs.cores.trans hcores, ?_, (hash_of_same hs).trans hhash⟩
  · rw [field_of_resets (hs.resets.trans hresets), State.field_modField]
  · obtain ⟨hshare, hevft⟩ := fieldStarts_share (s.modField k f) k h
    refine ⟨?_, ?_, fun i hi hself => ?_⟩
    · simpa only [State.ms, hs.mem] using hshare
    · rw [State.now_modField] at hevft
      simpa only [State.ms, hs.mem] using hevft
    · simpa only [State.hbm, hs.mem] using fieldStarts_stacks (s.modField k f) k h hi hself
  · rw [hs.mem, fieldStarts_not_ready (s.modField k f) k h, (acquireField_fabric _ k).mem, State.modField_mem]
  · rw [hs.mem, hcells, State.modField_mem]

end

/-! ### FIELD_ENABLE ends (R543) -/

section
variable {s : State} {k : Nat}

/-- FIELD_ENABLE completes, when a command began the field's return. -/
def State.endEnable (s : State) (o : Option Origin) : State :=
  match o with
  | some o => s.complete o 0x0A .done []
  | none => s

theorem endEnable_kept (s : State) (o : Option Origin) : (s.endEnable o).kept = s.kept := by
  cases o with
  | none => rfl
  | some o => exact complete_kept _ _ _ _ _

theorem exec_fieldEnableComplete_trained (hk : k < 4) (he : (s.field k).state = .enabling) (hr : s.resets.phase = .ready)
    (hb : ([2 * k, 2 * k + 1].all fun d => !s.dieUp d || s.bondsSettled d) = true) :
    exec (.fieldEnableComplete k) s =
      .next ((((s.fieldBack k).endEnable (s.field k).enabling).senseAll s).capSense (List.range 15) s) := by
  have hgo : (decide (k < 4) && decide ((s.field k).state = .enabling) && decide (s.resets.phase = .ready)
      && [2 * k, 2 * k + 1].all fun d => !s.dieUp d || s.bondsSettled d) = true := by
    rw [hb, decide_eq_true hk, decide_eq_true he, decide_eq_true hr]
    rfl
  show execFieldEnableComplete k s = _
  unfold execFieldEnableComplete
  rw [hgo, act_true]
  cases (s.field k).enabling <;> simp only [State.endEnable]

theorem mem_readyStations {st : Nat} : st ∈ s.readyStations k ↔ st ∈ fieldStations k ∧ (isCS st = false ∨ s.dieUp st = true) := by
  simp [State.readyStations]

/-- The return of a field ends with its stations in service, those of gated dies aside. -/
theorem fieldBack_result (s : State) (k : Nat) :
    StaysUp (s.modField k fun f => { f with state := .up, enabling := none }) (s.fieldBack k) ∧
      ∀ st ∈ s.readyStations k, ((s.fieldBack k).sta st).up = true :=
  stationsUp_stays _ _

end

/-- Settles O48: FIELD_RESET stage by stage, each of which clears and nothing else; the return by what each step leaves. -/
theorem fieldsGoDownAndReturn : Obligations.FieldsGoDownAndReturn := by
  unfold Obligations.FieldsGoDownAndReturn
  refine ⟨fun o k s htrip hk => ⟨fun hup hxs => ?_, fun h => exec_fieldReset_refused htrip hk h o⟩,
    fun o k s htrip hk => ⟨fun hup => exec_fieldEnable_up htrip hk hup o, fun hr he hwarm => ?_, fun hr he hcold => ?_⟩,
    fun k s hk he hr hb => ?_, fun k s hk hw hwarm => ?_⟩
  · obtain ⟨hfield, hsta, hrest⟩ := completed_fieldDown s k o 0x09 .done []
    refine ⟨_, exec_fieldReset_taken htrip hk hup hxs o, hfield, fun st hst => ?_, hrest⟩
    obtain ⟨hup, hmerge, hbolt, hsows⟩ := hsta st hst
    exact ⟨hup, hmerge, hbolt, hsows⟩
  · refine ⟨_, exec_fieldEnable_reset htrip hk hr he o, ?_⟩
    rw [State.startField, if_pos ((fieldWarm_iff s k).2 hwarm)]
    obtain ⟨hfield, hrest⟩ := fieldStarts_sensed s k (ntLockCold k) fun f =>
      { f with state := .enabling, cold := false, enabling := some o }
    exact ⟨by rw [hfield], by rw [hfield], hrest⟩
  · refine ⟨_, exec_fieldEnable_reset htrip hk hr he o, ?_⟩
    have hnot : ¬s.fieldWarm k = true := by
      obtain ⟨i, hi, hlow⟩ := hcold
      exact fun hw => absurd ((fieldWarm_iff s k).1 hw i hi) (by omega)
    rw [State.startField, if_neg hnot]
    have hs := sense_same (s.modField k fun f => { f with state := .warmup, cold := false, enabling := some o }) (ntLockCold k) s
    have hfield := field_of_resets hs.resets k
    rw [State.field_modField] at hfield
    exact ⟨by rw [hfield], by rw [hfield], hs.cores, hs.mem, hs.light⟩
  · refine ⟨_, exec_fieldEnableComplete_trained hk he hr hb, ?_⟩
    obtain ⟨hback, hup⟩ := fieldBack_result s k
    have hend := StaysUp.of_kept (((capSense_kept _ (List.range 15) s).trans (senseAll_kept _ s)).trans
      (endEnable_kept (s.fieldBack k) (s.field k).enabling))
    have hall := hback.trans hend
    have hfields := field_of_fields hall.fields
    refine ⟨?_, fun st hst hdie => hend.up st (hup st (mem_readyStations.2 ⟨hst, hdie⟩)), fun j hj => ?_, hall.hash⟩
    · rw [hfields, State.field_modField]
    · rw [hfields, State.field_modField_ne _ _ hj]
  · refine ⟨_, exec_warmUpEnd_warm hk hw ((fieldWarm_iff s k).2 hwarm), ?_⟩
    obtain ⟨hfield, hshare, -, hcores, -, hhash⟩ := fieldStarts_sensed s k (ntLockCold k) fun f =>
      { f with state := .enabling, cold := false }
    exact ⟨by rw [hfield], fun h => ⟨(hshare h).1, (hshare h).2.1⟩, hcores, hhash⟩

end Sys2Proof.Machine
end

section
/-! SUPPORT. Light readings (03): what locating a loss looks at, and what a loss that is located changes. -/

namespace Sys2Proof.Machine

open Sys2Proof Sys2Proof.Safety

/-! ### What locating a loss looks at (R85, R86) -/

/-- The light is where it was: the same fabric, the same active inputs, and every reading low where it was low. -/
structure SameLight (s t : State) : Prop where
  fab : t.fab = s.fab
  active : ∀ f, (t.feed f).activeB = (s.feed f).activeB
  output : ∀ k, Config.isLow 0 (tget t.light.elsPwr 0 k) = Config.isLow 0 (tget s.light.elsPwr 0 k)
  feedTap : ∀ k, Config.isLow 1 (tget t.light.feedTap 0 k) = Config.isLow 1 (tget s.light.feedTap 0 k)
  busTap : ∀ k, Config.isLow 2 (tget t.light.busTap 0 k) = Config.isLow 2 (tget s.light.busTap 0 k)
  photo : ∀ k, Config.isLow 3 (tget t.light.photo 0 k : Nat) = Config.isLow 3 (tget s.light.photo 0 k : Nat)

theorem SameLight.refl (s : State) : SameLight s s :=
  ⟨rfl, fun _ => rfl, fun _ => rfl, fun _ => rfl, fun _ => rfl, fun _ => rfl⟩

theorem rxg_of_fab {s t : State} (h : t.fab = s.fab) : t.rxg = s.rxg := by
  funext st rg
  simp only [State.rxg, h]

theorem feedReceivers_of_fab {s t : State} (h : t.fab = s.fab) (f : Nat) : t.feedReceivers f = s.feedReceivers f := by
  unfold State.feedReceivers
  rw [rxg_of_fab h]

theorem eyeLow_of_fab {s t : State} (h : t.fab = s.fab) (f pct : Nat) : t.eyeLow f pct = s.eyeLow f pct := by
  unfold State.eyeLow State.lowEyeBuses State.feedEyes
  rw [rxg_of_fab h]

/-- Where a loss lies is told by the light alone. -/
theorem SameLight.lossStage {s t : State} (h : SameLight s t) (f : Nat) : t.lossStage f = s.lossStage f := by
  have hlow : t.receiverLow = s.receiverLow := funext fun x => h.photo _
  simp only [State.lossStage, feedReceivers_of_fab h.fab, h.active, h.output, h.feedTap, h.busTap, hlow]

/-- A reading that leaves the light where it was shows no new loss (R85). -/
theorem SameLight.seeLoss {s t : State} (h : SameLight s t) (f : Nat) : t.seeLoss s f = t := by
  rw [State.seeLoss, if_pos (h.lossStage f)]

theorem SameLight.each_seeLoss {s t : State} (h : SameLight s t) (l : List Nat) :
    each l (fun f x => x.seeLoss s f) t = t :=
  each_inv (· = t) l _ rfl fun f u hu => by rw [hu, h.seeLoss]

theorem SameLight.modFeed {s t : State} (h : SameLight s t) (i : Nat) {f : Feed → Feed}
    (hf : ∀ d, (f d).activeB = d.activeB) : SameLight s (t.modFeed i f) := by
  refine ⟨h.fab, fun k => ?_, h.output, h.feedTap, h.busTap, h.photo⟩
  by_cases hk : k = i
  · rw [hk, State.feed_modFeed, hf, h.active]
  · rw [State.feed_modFeed_ne _ _ hk, h.active]

theorem SameLight.modEls {s t : State} (h : SameLight s t) (m : Nat) (f : Els → Els) : SameLight s (t.modEls m f) :=
  ⟨h.fab, h.active, h.output, h.feedTap, h.busTap, h.photo⟩

theorem SameLight.sampled {s t : State} (h : SameLight s t) (kind index : Nat) : SameLight s (t.sampled kind index) :=
  ⟨h.fab, h.active, h.output, h.feedTap, h.busTap, h.photo⟩

/-- A reading kept at one place, low where the one before it was, leaves every place as low as it was. -/
theorem low_tset {β : Type} [DecidableEq β] (low : β → Bool) {t : Tbl β} {d v : β} {k : Nat}
    (h : low v = low (tget t d k)) (i : Nat) : low (tget (tset t d k v) d i) = low (tget t d i) := by
  rw [tget_tset]
  split
  · next hi => rw [hi, h]
  · rfl

/-- An entry put in its place of a row of keys leaves every other entry of the row in its own. -/
theorem tget_tset_row {β : Type} [DecidableEq β] {t : Tbl β} {d : β} {k b : Nat} {v : Nat → β}
    (h : tget t d (k + b) = v b) (a : Nat) : tget (tset t d (k + a) (v a)) d (k + b) = v b := by
  rw [tget_tset]
  split
  · next e => rw [Nat.add_left_cancel e]
  · exact h

/-! ### Lanes go dark and are lit again (R35, R42, R85, R98) -/

theorem narrow_groups (s : State) (st g : Nat) (lanes : Byte) (retrain : Bool) :
    GroupsOnly s (s.narrow st g lanes retrain) := by
  have hdark := modTx_groups s st g fun t => { t with dark := t.dark ||| lanes }
  unfold State.narrow
  dsimp only
  split
  · exact hdark
  · split
    · exact hdark.trans (leaveService_groups _ st g)
    · split
      · exact hdark.trans (setTxState_groups _ st g _)
      · exact hdark

theorem widen_groups (s : State) (st g : Nat) (lanes : Byte) (retrain : Bool) :
    GroupsOnly s (s.widen st g lanes retrain) := by
  have hlit := modTx_groups s st g fun t => { t with dark := t.dark &&& ~~~lanes }
  unfold State.widen
  dsimp only
  split
  · exact hlit.trans (setTxState_groups _ st g _)
  · exact hlit

theorem darkenBus_groups (s : State) (st bus : Nat) : GroupsOnly s (s.darkenBus st bus) :=
  each_groups _ (fun g u => narrow_groups u st g _ _) s

theorem relightLane_groups (s : State) (st g l : Nat) : GroupsOnly s (s.relightLane st g l) := by
  unfold State.relightLane
  split
  · exact widen_groups s st g _ _
  · exact rfl

theorem relightBus_groups (s : State) (st bus : Nat) : GroupsOnly s (s.relightBus st bus) :=
  each_groups _ (fun g u => each_groups _ (fun l w => relightLane_groups w st g l) u) s

theorem unhinge_groups (s : State) (st g : Nat) : GroupsOnly s (s.unhinge st g) := by
  unfold State.unhinge
  dsimp only
  split
  · exact rfl
  · split
    · exact (modTx_groups s st g _).trans (setTxState_groups _ st g _)
    · exact modTx_groups s st g _

theorem darkenLanes_groups (s : State) (f : Nat) : GroupsOnly s (s.darkenLanes f) := by
  have hfree := each_groups (feedSown f) (fun x u => unhinge_groups u x.1 x.2) s
  exact hfree.trans (each_groups (feedBuses f) (fun b u => darkenBus_groups u b.1 b.2) _)

/-- A loss that is located is logged, and takes lane groups of its bus out of service at most (R85, R562). -/
theorem seeLoss_groups (s s0 : State) (f : Nat) : GroupsOnly s (s.seeLoss s0 f) := by
  unfold State.seeLoss
  split
  · exact rfl
  · split
    · exact rfl
    · have hlog := fun data => GroupsOnly.of_same (log_same s 0x0020 1 0xFFFF data)
      dsimp only
      split
      · exact (hlog _).trans (darkenBus_groups _ _ _)
      · exact hlog _

theorem GroupsOnly.light {s t : State} (h : GroupsOnly s t) : t.light = s.light := h.fabric.light

theorem GroupsOnly.sampleFt {s t : State} (h : GroupsOnly s t) : t.warden.sampleFt = s.warden.sampleFt := by
  rw [GroupsOnly, SameButSignals] at h
  rw [h]

theorem feed_of_light {s t : State} (h : t.light = s.light) (f : Nat) : t.feed f = s.feed f := by
  simp only [State.feed, h]

theorem elsAt_of_light {s t : State} (h : t.light = s.light) (m : Nat) : t.elsAt m = s.elsAt m := by
  simp only [State.elsAt, h]

/-! ### A feed's tap is read (R84, R87) -/

/-- The state with a tap's reading in its register and in the feed's count of low ones (R84, R87). -/
def State.tapKept (s : State) (f : Nat) (sample : Int) : State :=
  ({ s with light := { s.light with feedTap := tset s.light.feedTap 0 f sample } } : State).modFeed f fun d =>
    { d with lowRun := if sample ≤ -400 then d.lowRun + 1 else 0, trips := [] }

theorem tapKept_feed (s : State) (f : Nat) (sample : Int) :
    (s.tapKept f sample).feed f
      = { s.feed f with lowRun := if sample ≤ -400 then (s.feed f).lowRun + 1 else 0, trips := [] } :=
  State.feed_modFeed _ f _

/-- What a reading does to the feed's own record, whether or not the Warden serves. -/
theorem keepTap_feed (s : State) (f : Nat) (sample avg : Int) :
    ∃ p, (s.keepTap f sample avg).feed f = { s.feed f with
      lowRun := if sample ≤ -400 then (s.feed f).lowRun + 1 else 0, trips := [], power := p } := by
  have hkept := tapKept_feed s f sample
  unfold State.keepTap
  dsimp only
  split
  · refine ⟨avg, ?_⟩
    rw [feed_of_light (seeLoss_groups _ s f).light, State.feed_modFeed]
    exact congrArg (fun d : Feed => { d with power := avg }) hkept
  · exact ⟨_, hkept⟩

theorem keepTap_feedTap (s : State) (f : Nat) (sample avg : Int) :
    (s.keepTap f sample avg).light.feedTap = tset s.light.feedTap 0 f sample := by
  unfold State.keepTap
  dsimp only
  split
  · rw [(seeLoss_groups _ s f).light]
    rfl
  · rfl

/-- The state with a tap's reading and its average kept by the Warden (R84). -/
def State.tapRead (s : State) (f : Nat) (sample avg : Int) : State :=
  ((s.tapKept f sample).sampled 3 f).modFeed f fun d => { d with power := avg }

theorem tapRead_feed (s : State) (f : Nat) {sample : Int} (avg : Int) (h : -400 < sample) :
    (s.tapRead f sample avg).feed f = { s.feed f with power := avg, lowRun := 0, trips := [] } := by
  have hkept := tapKept_feed s f sample
  rw [if_neg (by omega)] at hkept
  rw [State.tapRead, State.feed_modFeed]
  exact congrArg (fun d : Feed => { d with power := avg }) hkept

theorem tapRead_spareOk (s : State) (f : Nat) {sample : Int} (avg : Int) (h : -400 < sample) :
    (s.tapRead f sample avg).spareOk f = s.spareOk f := by
  have hels : (s.tapRead f sample avg).light.els = s.light.els := rfl
  have hpoints : (s.tapRead f sample avg).light.setPoints = s.light.setPoints := rfl
  simp only [State.spareOk, State.inputReady, State.elsAt, State.setPoint, Feed.usable, hels, hpoints, tapRead_feed s f avg h]

/-- With the Warden, a reading that finds the light where it was is kept with its average, and shows no loss. -/
theorem keepTap_sameLight {s : State} {f : Nat} {sample : Int} (avg : Int) (hw : s.warden.serving = true)
    (h : Config.isLow 1 sample = Config.isLow 1 (tget s.light.feedTap 0 f)) :
    s.keepTap f sample avg = s.tapRead f sample avg := by
  have htap : SameLight s { s with light := { s.light with feedTap := tset s.light.feedTap 0 f sample } } :=
    ⟨rfl, fun _ => rfl, fun _ => rfl, low_tset (Config.isLow 1) h, fun _ => rfl, fun _ => rfl⟩
  have hlight : SameLight s (s.tapRead f sample avg) := by
    refine SameLight.modFeed (.sampled (.modFeed htap f ?_) 3 f) f ?_
    · exact fun _ => rfl
    · exact fun _ => rfl
  exact (if_pos hw).trans (hlight.seeLoss f)

/-- A feed whose level stands changes nothing, unless it is in Fade Act and a hinge may start (R86, R87, R89; log entry 83). -/
theorem takeLevel_stands {s : State} {f : Nat} {avg : Int}
    (hlevel : fadeLevel (s.feed f).state avg (s.eyeLow f 55) (s.eyeLow f 70) (s.eyeLow f 75) = (s.feed f).state)
    (hact : (s.feed f).state = .act → (s.feed f).hold = true ∨ (s.feed f).tried = true ∨ s.spareOk f = false) :
    s.takeLevel f avg = s := by
  unfold State.takeLevel
  dsimp only
  rw [hlevel, if_pos rfl, if_neg]
  intro hstart
  simp only [Bool.and_eq_true, Bool.not_eq_true', decide_eq_true_eq] at hstart
  obtain ⟨⟨⟨⟨hstate, hhold⟩, htried⟩, hspare⟩, -⟩ := hstart
  simpa [hhold, htried, hspare] using hact hstate

/-! ### A feed hard-fails (R87, R98, R100) -/

theorem complete_light (s : State) (o : Origin) (opcode : Nat) (st : Status) (res : List Byte) :
    (s.complete o opcode st res).light = s.light := by
  rw [complete_same s o opcode st res]

theorem setFeedState_light (s : State) (f : Nat) (x : FeedState) :
    (s.setFeedState f x).light = (s.modFeed f fun d => { d with state := x }).light :=
  ((((sense_same _ _ s).trans (sense_same _ _ s)).trans (sense_same _ _ s)).trans (capSense_same _ _ s)).light

theorem setFeedState_feed (s : State) (f : Nat) (x : FeedState) :
    (s.setFeedState f x).feed f = { s.feed f with state := x } := by
  rw [feed_of_light (setFeedState_light s f x), State.feed_modFeed]

theorem setFeedState_feedTap (s : State) (f : Nat) (x : FeedState) :
    (s.setFeedState f x).light.feedTap = s.light.feedTap := by
  rw [setFeedState_light, State.modFeed_light_feedTap]

theorem setLit_feed (s : State) (i : Nat) (on : Bool) (f : Nat) : (s.setLit i on).feed f = s.feed f := rfl

theorem setLit_feedTap (s : State) (i : Nat) (on : Bool) : (s.setLit i on).light.feedTap = s.light.feedTap := rfl

theorem warm_feed (s : State) (c : Bool) (i f : Nat) : (s.when c fun s => s.setLit i true).feed f = s.feed f := by
  cases c <;> rfl

theorem warm_feedTap (s : State) (c : Bool) (i : Nat) :
    (s.when c fun s => s.setLit i true).light.feedTap = s.light.feedTap := by
  cases c <;> rfl

theorem answerHinge_feed (s : State) (f : Nat) (st : Status) :
    (s.answerHinge f st).feed f = { s.feed f with asker := none } := by
  unfold State.answerHinge
  split
  · next h => rw [← h]
  · rw [feed_of_light (complete_light ..), State.feed_modFeed]

theorem answerHinge_feedTap (s : State) (f : Nat) (st : Status) :
    (s.answerHinge f st).light.feedTap = s.light.feedTap := by
  unfold State.answerHinge
  split
  · rfl
  · rw [complete_light, State.modFeed_light_feedTap]

theorem setUsable_state (d : Feed) (b u : Bool) : (d.setUsable b u).state = d.state := by cases b <;> rfl
theorem setUsable_hards (d : Feed) (b u : Bool) : (d.setUsable b u).hards = d.hards := by cases b <;> rfl

/-- What a feed that enters DARK shows. -/
theorem feedDark_feed (s : State) (f : Nat) : ((s.feedDark f).feed f).state = .dark ∧
    ((s.feedDark f).feed f).hards = (s.feed f).hards ∧ (s.feedDark f).light.feedTap = s.light.feedTap := by
  unfold State.feedDark
  dsimp only
  rw [answerHinge_feed, answerHinge_feedTap, setLit_feed, setLit_feedTap, State.feed_modFeed, State.modFeed_light_feedTap,
    setFeedState_feedTap]
  have hfeed := setFeedState_feed s f .dark
  generalize (s.setFeedState f .dark).feed f = d at hfeed
  refine ⟨?_, ?_, rfl⟩
  · rw [setUsable_state, setUsable_state, hfeed]
  · rw [setUsable_hards, setUsable_hards, hfeed]

/-- A feed that hard-fails outside a hinge is in HARD, or in DARK when its standby is not ready, and the failure is counted. -/
theorem hardFail_feed {s : State} {f : Nat} (h : (s.feed f).state ≠ .hinge) :
    (((s.hardFail f).feed f).state = .hard ∨ ((s.hardFail f).feed f).state = .dark) ∧
      ((s.hardFail f).feed f).hards = inc 8 (s.feed f).hards ∧ (s.hardFail f).light.feedTap = s.light.feedTap := by
  unfold State.hardFail
  extract_lets d s0 s1
  have hdark : (s0.darkenLanes f).light = s0.light := (darkenLanes_groups s0 f).light
  have hfeed : s1.feed f = { s.feed f with hards := inc 8 (s.feed f).hards, lowRun := 0, state := .hard } := by
    rw [setFeedState_feed, feed_of_light hdark, State.feed_modFeed]
  have htap : s1.light.feedTap = s.light.feedTap := by
    rw [setFeedState_feedTap, hdark, State.modFeed_light_feedTap]
  clear_value s1
  rw [if_neg fun hinge => h hinge.1]
  split
  · obtain ⟨hstate, hhards, hkept⟩ := feedDark_feed s1 f
    exact ⟨.inr hstate, by rw [hhards, hfeed], by rw [hkept, htap]⟩
  · rw [answerHinge_feed, answerHinge_feedTap, warm_feed, warm_feedTap, State.feed_modFeed, State.modFeed_light_feedTap,
      hfeed]
    exact ⟨.inl rfl, rfl, htap⟩

/-! ### FEED_TAP_SAMPLE (R84, R87, R89) -/

/-- A feed in service takes a reading: two low ones in a row are a hard fail, else the Warden sets its level. -/
theorem exec_feedTapSample {s : State} {f : Nat} (hf : f < 10)
    (hin : (s.feed f).state = .normal ∨ (s.feed f).state = .watch ∨ (s.feed f).state = .act) (sample avg : Int) :
    exec (.feedTapSample f sample avg) s = .next (
      if 2 ≤ ((s.keepTap f sample avg).feed f).lowRun then (s.keepTap f sample avg).hardFail f
      else if s.warden.serving then (s.keepTap f sample avg).takeLevel f avg else s.keepTap f sample avg) := by
  show execFeedTapSample f sample avg s = _
  simp only [execFeedTapSample, hf, decide_true, act_true]
  rcases hin with h | h | h <;> simp only [h]

/-- The second low reading in a row of a feed in service (R87, R98). -/
theorem feedTapSample_fails {s : State} {f : Nat} {sample : Int} (hf : f < 10) (hlow : sample ≤ -400)
    (hrun : 1 ≤ (s.feed f).lowRun)
    (hin : (s.feed f).state = .normal ∨ (s.feed f).state = .watch ∨ (s.feed f).state = .act) (avg : Int) :
    ∃ t, exec (.feedTapSample f sample avg) s = .next t ∧ ((t.feed f).state = .hard ∨ (t.feed f).state = .dark) ∧
      (t.feed f).hards = inc 8 (s.feed f).hards ∧ tget t.light.feedTap 0 f = sample := by
  obtain ⟨p, hp⟩ := keepTap_feed s f sample avg
  rw [if_pos hlow] at hp
  have htwo : 2 ≤ ((s.keepTap f sample avg).feed f).lowRun := by
    rw [hp]
    exact Nat.succ_le_succ hrun
  have hstate : ((s.keepTap f sample avg).feed f).state ≠ .hinge := by
    rw [hp]
    intro h
    simp [show (s.feed f).state = .hinge from h] at hin
  obtain ⟨hout, hhards, htap⟩ := hardFail_feed hstate
  refine ⟨_, exec_feedTapSample hf hin sample avg, ?_⟩
  rw [if_pos htwo]
  refine ⟨hout, by rw [hhards, hp], ?_⟩
  rw [htap, keepTap_feedTap, tget_tset_self]

/-- A reading that finds the light where it was, of a feed whose level stands, changes the reading alone (log entry 83). -/
theorem feedTapSample_stands {s : State} {f : Nat} {sample avg : Int} (hf : f < 10) (hw : s.warden.serving = true)
    (hhigh : -400 < sample)
    (hin : (s.feed f).state = .normal ∨ (s.feed f).state = .watch ∨ (s.feed f).state = .act)
    (hlevel : fadeLevel (s.feed f).state avg (s.eyeLow f 55) (s.eyeLow f 70) (s.eyeLow f 75) = (s.feed f).state)
    (hlow : Config.isLow 1 sample = Config.isLow 1 (tget s.light.feedTap 0 f))
    (hact : (s.feed f).state = .act → (s.feed f).hold = true ∨ (s.feed f).tried = true ∨ s.spareOk f = false) :
    exec (.feedTapSample f sample avg) s = .next (s.tapRead f sample avg) := by
  have hfeed := tapRead_feed s f avg hhigh
  have hspare := tapRead_spareOk s f avg hhigh
  have heye := eyeLow_of_fab (show (s.tapRead f sample avg).fab = s.fab from rfl) f
  rw [exec_feedTapSample hf hin, keepTap_sameLight avg hw hlow, if_neg (by simp [hfeed]), if_pos hw, takeLevel_stands]
  · simpa only [hfeed, heye] using hlevel
  · simpa only [hfeed, hspare] using hact

end Sys2Proof.Machine
end

section
/-! SUPPORT. Light readings of buses, receivers and module outputs, modules that come and go, and commissioning (03). -/

namespace Sys2Proof.Machine

open Sys2Proof Sys2Proof.Safety

/-! ### BUS_TAP_SAMPLE (R84, R85) -/

/-- The state with a bus tap's reading in its register (R84). -/
def State.busTapKept (s : State) (st bus : Nat) (power : Int) : State :=
  ({ s with light := { s.light with busTap := tset s.light.busTap 0 (busKey st bus) power } } : State).sampled 4 (busKey st bus)

/-- A reading that finds a bus as low as it was is kept; light on it lets its lanes run again. -/
theorem exec_busTapSample {s : State} {st bus : Nat} {power : Int} (hst : st < 14) (hbus : bus < numBus st)
    (hw : s.warden.serving = true)
    (hlow : Config.isLow 2 power = Config.isLow 2 (tget s.light.busTap 0 (busKey st bus))) :
    exec (.busTapSample st bus power) s = .next (if Config.isLow 2 power then s.busTapKept st bus power
      else (s.busTapKept st bus power).relightBus st bus) := by
  have hlight : SameLight s (s.busTapKept st bus power) :=
    ⟨rfl, fun _ => rfl, fun _ => rfl, fun _ => rfl, low_tset (Config.isLow 2) hlow, fun _ => rfl⟩
  have hsee := hlight.seeLoss (busFeed st bus)
  show execBusTapSample st bus power s = _
  simp only [execBusTapSample, nSt, hst, hbus, hw, decide_true, Bool.and_self, act_true]
  unfold State.busTapKept at hsee ⊢
  rw [hsee]

/-- Beside the reading a bus tap's sample changes lane groups alone, and those only when there is light. -/
theorem busTapSample_result {s : State} {st bus : Nat} {power : Int} (hst : st < 14) (hbus : bus < numBus st)
    (hw : s.warden.serving = true)
    (hlow : Config.isLow 2 power = Config.isLow 2 (tget s.light.busTap 0 (busKey st bus))) :
    ∃ t, exec (.busTapSample st bus power) s = .next t ∧ GroupsOnly (s.busTapKept st bus power) t ∧
      (Config.isLow 2 power = true → t.fab.tx = s.fab.tx) := by
  refine ⟨_, exec_busTapSample hst hbus hw hlow, ?_⟩
  split
  · exact ⟨rfl, fun _ => rfl⟩
  · next h => exact ⟨relightBus_groups _ st bus, fun hc => absurd hc h⟩

/-! ### RECEIVER_SAMPLE (R84, R85) -/

/-- A reading that finds a receiver as low as it was is kept. -/
theorem exec_receiverSample {s : State} {st rg lane current : Nat} (hrx : isRx st rg = true) (hlane : lane < 8)
    (hw : s.warden.serving = true)
    (hlow : Config.isLow 3 current = Config.isLow 3 (tget s.light.photo 0 (rxKey st rg * 8 + lane) : Nat)) :
    exec (.receiverSample st rg lane current) s
      = .next ((s.keepPhoto st rg lane current).sampled 5 (rxKey st rg * 8 + lane)) := by
  have hlight : SameLight s ((s.keepPhoto st rg lane current).sampled 5 (rxKey st rg * 8 + lane)) :=
    ⟨rfl, fun _ => rfl, fun _ => rfl, fun _ => rfl, fun _ => rfl, low_tset (fun n : Nat => Config.isLow 3 n) hlow⟩
  show execReceiverSample st rg lane current s = _
  simp only [execReceiverSample, hrx, hlane, hw, decide_true, Bool.and_self, act_true, State.readPhoto, hlight.seeLoss]

/-! ### MODULE_OUTPUT_READ (R84, R102) -/

/-- The state with the powers of a module's four outputs in their registers (R84). -/
def State.outputsKept (s : State) (m : Nat) (powers : List Int) : State :=
  each (List.range 4) (fun o s =>
    ({ s with light := { s.light with elsPwr := tset s.light.elsPwr 0 (4 * m + o) (powers.getD o 0) } } : State).sampled 6
      (4 * m + o)) s

/-- Beside the light and the times of the samples nothing changes. -/
theorem outputsKept_frame (s : State) (m : Nat) (powers : List Int) :
    s.outputsKept m powers = { s with
      light := (s.outputsKept m powers).light
      warden := { s.warden with sampleFt := (s.outputsKept m powers).warden.sampleFt } } :=
  each_inv (fun u => u = { s with light := u.light, warden := { s.warden with sampleFt := u.warden.sampleFt } })
    (List.range 4) _ rfl fun o u hu => by
      rw [hu]
      rfl

theorem outputsKept_elsAt (s : State) (m : Nat) (powers : List Int) (i : Nat) :
    (s.outputsKept m powers).elsAt i = s.elsAt i :=
  each_inv (fun u => u.elsAt i = s.elsAt i) (List.range 4) _ rfl fun _ _ hu => hu

theorem outputsKept_power (s : State) (m : Nat) (powers : List Int) :
    ∀ o < 4, tget (s.outputsKept m powers).light.elsPwr 0 (4 * m + o) = powers.getD o 0 := by
  intro o ho
  exact each_all (Q := fun o u => tget u.light.elsPwr 0 (4 * m + o) = powers.getD o 0) (List.range 4) s
    (fun a u => tget_tset_self ..) (fun a b u hb => tget_tset_row (v := fun i => powers.getD i 0) hb a) o
    (List.mem_range.2 ho)

theorem sameLight_outputsKept {s : State} {m : Nat} {powers : List Int}
    (h : ∀ o < 4, Config.isLow 0 (powers.getD o 0) = Config.isLow 0 (tget s.light.elsPwr 0 (4 * m + o))) :
    SameLight s (s.outputsKept m powers) := by
  refine each_inv_mem (SameLight s) (List.range 4) (.refl s) fun o ho u hu => ?_
  have hsame := (h o (List.mem_range.1 ho)).trans (hu.output (4 * m + o)).symm
  exact ⟨hu.fab, hu.active, fun k => (low_tset (Config.isLow 0) hsame k).trans (hu.output k), hu.feedTap, hu.busTap,
    hu.photo⟩

/-- A reading that finds a module's outputs as low as they were is kept, with the module's temperature and alarms. -/
theorem exec_moduleOutputRead {s : State} {m : Nat} {powers : List Int} (hm : m < 5) (hp : (s.elsAt m).present = true)
    (hl : (s.elsAt m).linkOk = true) (hw : s.warden.serving = true)
    (hlow : ∀ o < 4, Config.isLow 0 (powers.getD o 0) = Config.isLow 0 (tget s.light.elsPwr 0 (4 * m + o)))
    (temp : Nat) (alarms : W32) :
    exec (.moduleOutputRead m powers temp alarms) s
      = .next ((s.outputsKept m powers).modEls m fun e => { e with temp := temp, alarms := alarms }) := by
  have hsee := ((sameLight_outputsKept hlow).modEls m fun e => { e with temp := temp, alarms := alarms }).each_seeLoss
    (s.moduleFeeds m)
  show execModuleOutputRead m powers temp alarms s = _
  simp only [execModuleOutputRead, hm, hp, hl, hw, decide_true, Bool.and_self, act_true]
  unfold State.outputsKept at hsee ⊢
  rw [hsee]

/-! ### Modules come and go (R78, R102, R103, R104) -/

/-- Only the feeds are changed. -/
def FeedsOnly (s t : State) : Prop := t = { s with light := { s.light with feeds := t.light.feeds } }

theorem FeedsOnly.trans {s t u : State} (h : FeedsOnly s t) (k : FeedsOnly t u) : FeedsOnly s u := by
  unfold FeedsOnly at *
  rw [k, h]

theorem each_modFeed_feedsOnly {α : Type} (l : List α) (i : α → Nat) (g : α → Feed → Feed) (s : State) :
    FeedsOnly s (each l (fun x s => s.modFeed (i x) (g x)) s) :=
  each_rel (R := FeedsOnly) (fun _ => rfl) FeedsOnly.trans l
    (fun x u => (rfl : FeedsOnly u (u.modFeed (i x) (g x)))) s

theorem FeedsOnly.fab {s t : State} (h : FeedsOnly s t) : t.fab = s.fab := by rw [h]
theorem FeedsOnly.elsAt {s t : State} (h : FeedsOnly s t) (m : Nat) : t.elsAt m = s.elsAt m := by rw [h]; rfl
theorem FeedsOnly.setPoint {s t : State} (h : FeedsOnly s t) (i : Nat) : t.setPoint i = s.setPoint i := by rw [h]; rfl

/-- The standby inputs whose outputs are on a module (R76). -/
def State.standbySides (s : State) (m : Nat) : List (Nat × Bool) :=
  ((List.range 10).flatMap fun f => [(f, false), (f, true)]).filter fun x =>
    feedOutput x.1 x.2 / 4 == m && x.2 != (s.feed x.1).activeB

/-- A module that came or went, with its outputs dark (R103). -/
def State.moduleDark (s : State) (m : Nat) : State :=
  each (s.standbySides m) (fun x s => s.modFeed x.1 fun d => { d with standbyLit := false })
    (s.modEls m fun e => { e with lit := 0, drive := [] })

theorem moduleDark_frame (s : State) (m : Nat) :
    (s.moduleDark m).elsAt m = { s.elsAt m with lit := 0, drive := [] } ∧ (s.moduleDark m).fab = s.fab := by
  have h : FeedsOnly (s.modEls m fun e => { e with lit := 0, drive := [] }) (s.moduleDark m) :=
    each_modFeed_feedsOnly (s.standbySides m) (·.1) (fun _ d => { d with standbyLit := false }) _
  exact ⟨by rw [h.elsAt, State.elsAt_modEls], h.fab⟩

/-- The factory set points of a module that came, in the records of its outputs (R102, R103). -/
def State.factoryRecords (s : State) (m : Nat) (factory : List Settle) : State :=
  each (List.range 4) (fun o s => s.recordSet (4 * m + o) factory[o]?) s

theorem factoryRecords_setPoint (s : State) (m : Nat) (factory : List Settle) :
    ∀ o < 4, (s.factoryRecords m factory).setPoint (4 * m + o) = factory[o]? := by
  intro o ho
  exact each_all (Q := fun o u => tget u.light.setPoints none (4 * m + o) = factory[o]?) (List.range 4) s
    (fun a u => tget_tset_self ..) (fun a b u hb => tget_tset_row (v := fun i => factory[i]?) hb a) o
    (List.mem_range.2 ho)

theorem factoryRecords_frame (s : State) (m : Nat) (factory : List Settle) :
    (s.factoryRecords m factory).light.els = s.light.els ∧ (s.factoryRecords m factory).fab = s.fab :=
  each_inv (fun u => u.light.els = s.light.els ∧ u.fab = s.fab) (List.range 4) _ ⟨rfl, rfl⟩ fun _ _ hu => hu

theorem moduleChange_goes (s : State) (m : Nat) (ident : W64) (factory : List Settle) :
    s.moduleChange m false ident factory = s.moduleDark m := rfl

theorem moduleChange_comes (s : State) (m : Nat) (ident : W64) (factory : List Settle) :
    s.moduleChange m true ident factory = each (s.standbySides m) (fun x s => s.modFeed x.1 fun d => d.setUsable x.2 true)
      (((s.moduleDark m).modEls m fun e => { e with ident := ident, factory := factory }).factoryRecords m factory) := rfl

/-- A module that came shows its identity, and its outputs have their factory set points. -/
theorem moduleChange_identity (s : State) (m : Nat) (ident : W64) (factory : List Settle) :
    (s.moduleChange m true ident factory).elsAt m
        = { s.elsAt m with lit := 0, drive := [], ident := ident, factory := factory } ∧
      (∀ o < 4, (s.moduleChange m true ident factory).setPoint (4 * m + o) = factory[o]?) ∧
      (s.moduleChange m true ident factory).fab = s.fab := by
  obtain ⟨hdark, hfab⟩ := moduleDark_frame s m
  rw [moduleChange_comes]
  generalize hu : (s.moduleDark m).modEls m (fun e => { e with ident := ident, factory := factory }) = u
  obtain ⟨hels, hkept⟩ := factoryRecords_frame u m factory
  have hpoints := factoryRecords_setPoint u m factory
  generalize u.factoryRecords m factory = v at hels hkept hpoints
  have h := each_modFeed_feedsOnly (s.standbySides m) (·.1) (fun x d => d.setUsable x.2 true) v
  have hv : v.elsAt m = u.elsAt m := by rw [State.elsAt, hels, ← State.elsAt]
  refine ⟨?_, fun o ho => (h.setPoint _).trans (hpoints o ho), ?_⟩
  · rw [h.elsAt, hv, ← hu, State.elsAt_modEls, hdark]
  · rw [h.fab, hkept, ← hu, State.modEls_fab, hfab]

/-- What a presence check finds when a module came or went (R103). -/
theorem exec_elsPresenceCheck {s : State} {m : Nat} {answers : Bool} (hm : m < 5) (hw : s.warden.serving = true)
    (h : (s.elsAt m).present ≠ answers) (ident : W64) (factory : List Settle) :
    exec (.elsPresenceCheck m answers ident factory) s = .next (((s.modEls m fun e =>
      { e with present := answers, linkOk := if answers then true else e.linkOk }).moduleChange m answers ident factory).raise
        ntElsChange) := by
  show execElsPresenceCheck m answers ident factory s = _
  simp only [execElsPresenceCheck, hm, hw, h, decide_true, Bool.and_self, act_true, if_false]

theorem exec_elsLinkFail {m : Nat} (hm : m < 5) (s : State) :
    exec (.elsLinkFail m) s = .next (s.modEls m fun e => { e with linkOk := false }) := by
  show execElsLinkFail m s = _
  simp only [execElsLinkFail, hm, decide_true, act_true]

/-- A module that came or went: dark, reported, and with its identity and set points when it came (R103). -/
theorem elsPresenceCheck_result {s : State} {m : Nat} {answers : Bool} (hm : m < 5) (hw : s.warden.serving = true)
    (h : (s.elsAt m).present ≠ answers) (ident : W64) (factory : List Settle) :
    ∃ t, exec (.elsPresenceCheck m answers ident factory) s = .next t ∧
      (t.elsAt m).present = answers ∧ (t.elsAt m).lit = 0 ∧ t.notices.pend.getLsbD ntElsChange = true ∧
      (answers = true → (t.elsAt m).ident = ident ∧ (t.elsAt m).factory = factory ∧
        ∀ o < 4, t.setPoint (4 * m + o) = factory[o]?) ∧
      t.fab = s.fab := by
  refine ⟨_, exec_elsPresenceCheck hm hw h ident factory, ?_⟩
  generalize hu : (s.modEls m fun e => { e with present := answers, linkOk := if answers then true else e.linkOk }) = u
  have hpresent : (u.elsAt m).present = answers := by rw [← hu, State.elsAt_modEls]
  have hfab : u.fab = s.fab := by rw [← hu, State.modEls_fab]
  have hraise := raise_same (u.moduleChange m answers ident factory) ntElsChange
  have hpend := raise_pend (u.moduleChange m answers ident factory) (src := ntElsChange) (by decide)
  generalize (u.moduleChange m answers ident factory).raise ntElsChange = t at hraise hpend
  have hpoint : ∀ i, t.setPoint i = (u.moduleChange m answers ident factory).setPoint i := fun i => by
    simp only [State.setPoint, hraise.light]
  rw [elsAt_of_light hraise.light, hraise.fab]
  simp only [hpoint]
  cases answers with
  | false =>
    obtain ⟨hels, hkept⟩ := moduleDark_frame u m
    rw [moduleChange_goes, hels]
    exact ⟨hpresent, rfl, hpend, nofun, hkept.trans hfab⟩
  | true =>
    obtain ⟨hels, hpoints, hkept⟩ := moduleChange_identity u m ident factory
    rw [hels]
    exact ⟨hpresent, rfl, hpend, fun _ => ⟨rfl, rfl, hpoints⟩, hkept.trans hfab⟩

/-! ### FEED_COMMISSION on the active input (R79, R80) -/

/-- The active input of a feed in NORMAL takes the light that passes as its reference, and needs no time to settle. -/
theorem exec_feedCommission_active {s : State} {f : Nat} {b : Bool} (hw : s.warden.serving = true)
    (ha : s.warden.attest = none) (hl : s.lifeRefuses 0xE8 = false) (hf : f < 10)
    (hp : (s.elsAt (feedOutput f b / 4)).present = true) (hn : (s.feed f).state = .normal) (hb : (s.feed f).activeB = b)
    (o : Origin) (m : Settle) (unlocked : List Nat) :
    exec (.feedCommission o f b m unlocked) s
      = .next (((s.takeProxy o).commissionActive f b m).complete o 0xE8 .done []) := by
  have hfeed : (s.takeProxy o).feed f = s.feed f := rfl
  have hels : (s.takeProxy o).elsAt (feedOutput f b / 4) = s.elsAt (feedOutput f b / 4) := rfl
  have hpasses : firstFail [ (decide (10 ≤ f), Status.outOfRange),
      (!((s.takeProxy o).elsAt (feedOutput f b / 4)).present, .notPresent),
      (decide (((s.takeProxy o).feed f).state = .hinge) || decide (((s.takeProxy o).feed f).state = .hard), .wrongState) ]
      = none := by
    simp [firstFail, hfeed, hels, hf, hp, hn]
  have hready : (s.takeProxy o).mustSettle f b = false := by
    simp [State.mustSettle, hfeed, hn, hb]
  show execFeedCommission o f b m unlocked s = _
  rw [execFeedCommission, proxy_takes_up hw ha hl, commandLong_passes hpasses, hready]
  simp [State.commission, hfeed, hn, hb]

/-- A feed in NORMAL keeps its level when its active input is commissioned. -/
theorem commissionActive_normal {s : State} {f : Nat} (hn : (s.feed f).state = .normal) (b : Bool) (m : Settle) :
    s.commissionActive f b m = (s.recordSet (feedOutput f b) (some { (s.setPoint (feedOutput f b)).getD m with
      power := m.power })).modFeed f fun d =>
        { d.setUsable b true with reference := m.power, power := 0, lowRun := 0, tried := false } := by
  unfold State.commissionActive
  dsimp only
  rw [if_neg (by simp [hn])]

/-! ### The obligation on feeds and modules -/

/-- Settles O7: each reading by the lemma that its light shows no new loss, the second low one by `hardFail_feed`. -/
theorem feedsAndModulesAreWatched : Obligations.FeedsAndModulesAreWatched := by
  unfold Obligations.FeedsAndModulesAreWatched
  refine ⟨?_, ?_, ?_, ?_, ?_, ?_, ?_, ?_⟩
  · intro f sample avg s hf hlow hrun hin
    exact feedTapSample_fails hf hlow hrun hin avg
  · intro f sample avg s hf hw hhigh hin hlevel hlow hact
    exact ⟨_, feedTapSample_stands hf hw hhigh hin hlevel hlow hact, tapRead_feed s f avg hhigh, tget_tset_self .., rfl⟩
  · intro m temp powers alarms s hm hp hl hw hlow
    refine ⟨_, exec_moduleOutputRead hm hp hl hw hlow temp alarms, outputsKept_power s m powers, ?_, ?_⟩
    · rw [State.elsAt_modEls, outputsKept_elsAt]
    · exact congrArg (·.modEls m fun e => { e with temp := temp, alarms := alarms }) (outputsKept_frame s m powers)
  · intro st bus power s hst hbus hw hlow
    obtain ⟨t, hgo, hgroups, htx⟩ := busTapSample_result hst hbus hw hlow
    refine ⟨t, hgo, ?_, ?_, htx⟩
    · rw [hgroups.light]
      exact tget_tset_self ..
    · rw [hgroups.light, hgroups.sampleFt]
      exact hgroups
  · intro st rg lane current s hrx hlane hw hlow
    exact ⟨_, exec_receiverSample hrx hlane hw hlow, tget_tset_self .., rfl⟩
  · intro m answers ident factory s hm hw h
    exact elsPresenceCheck_result hm hw h ident factory
  · exact fun m s hm => exec_elsLinkFail hm s
  · intro o f b m unlocked s hw ha hl hf hp hn hb
    rw [exec_feedCommission_active hw ha hl hf hp hn hb, commissionActive_normal (s := s.takeProxy o) hn]
    rfl

end Sys2Proof.Machine
end

section
/-! SUPPORT. Rings (04): their keys, one update of a lock loop, and the links of a ring. -/

namespace Sys2Proof.Machine

open Sys2Proof Sys2Proof.Safety

/-! ### Keys of rings -/

theorem ringOk_lt {r : RingId} (h : ringOk r = true) : r.grp < 64 ∧ r.lane < 8 := by
  simp only [ringOk, Bool.and_eq_true, decide_eq_true_eq] at h
  refine ⟨?_, h.1⟩
  cases hk : r.kind <;> rw [hk] at h
  · exact isTx_lt h.2
  · exact isRx_lt h.2
  · have hgrp : r.grp = 0 := by simpa using ((Bool.and_eq_true _ _).mp h.2).2
    omega

/-- Rings of groups that exist have keys of their own. -/
theorem ringKey_inj {q r : RingId} (hq : q.grp < 64 ∧ q.lane < 8) (hr : r.grp < 64 ∧ r.lane < 8)
    (h : ringKey q = ringKey r) : q = r := by
  have hcode : q.kind.code < 4 ∧ r.kind.code < 4 := by cases q.kind <;> cases r.kind <;> decide
  have hkind : q.kind.code = r.kind.code → q.kind = r.kind := by cases q.kind <;> cases r.kind <;> simp [RingKind.code]
  obtain ⟨qs, qk, qg, ql⟩ := q
  obtain ⟨rs, rk, rg, rl⟩ := r
  simp only [ringKey] at h hq hr hcode hkind
  obtain rfl := hkind (by omega)
  simp only [RingId.mk.injEq, true_and]
  omega

/-! ### The lock loop (R110, R116, R117) -/

theorem clampHeater_le (i : Int) : clampHeater i ≤ 4095 := by
  unfold clampHeater
  omega

theorem heaterOf_le {s : State} {r : RingId} (h : (s.ringAt r).state = .locked) : s.heaterOf r ≤ 4095 := by
  unfold State.heaterOf
  simp only [h]
  split
  · exact le_rfl
  · exact clampHeater_le _

/-- A LOCKED ring goes on from the heater code that it has now (R118, R143). -/
theorem rebase_locked {s : State} {r : RingId} (h : (s.ringAt r).state = .locked) :
    s.rebase r = s.modRing r fun q => { q with heater := s.heaterOf r, site := s.siteTemp r } :=
  State.modRing_congr s (if_pos h)

theorem Ring.keepErr_eq (q : Ring) (err : Int) : ∃ a b c, q.keepErr err = { q with err := err, errSum := a, errN := b, errAvg := c } := by
  unfold Ring.keepErr
  dsimp only
  split
  · exact ⟨_, _, _, rfl⟩
  · exact ⟨_, _, q.errAvg, rfl⟩

/-- The trim stays in its 8 bits, and the heater moves by one code at most within its 12 (R110, R116, R117). -/
theorem Ring.update_bounds {q : Ring} (h : q.heater ≤ 4095) (err : Int) :
    -128 ≤ (q.update err).bias ∧ (q.update err).bias ≤ 127 ∧ (q.update err).err = err ∧ (q.update err).state = q.state ∧
    (q.update err).heater ≤ 4095 ∧ (q.update err).heater ≤ q.heater + 1 ∧ q.heater ≤ (q.update err).heater + 1 := by
  obtain ⟨a, b, c, hkeep⟩ := q.keepErr_eq err
  have hbias : ∀ i, -128 ≤ clampBias i ∧ clampBias i ≤ 127 := fun i => by
    unfold clampBias
    omega
  unfold Ring.update
  simp only [hkeep, true_and]
  refine ⟨(hbias _).1, (hbias _).2, ?_⟩
  split
  · omega
  · split <;> omega

theorem exec_lockLoopUpdate {s : State} {r : RingId} (hr : ringOk r = true) (h : (s.ringAt r).state = .locked) (err : Int) :
    exec (.lockLoopUpdate r err) s = .next (s.modRing r fun q =>
      Ring.update { q with heater := s.heaterOf r, site := s.siteTemp r } err) := by
  show execLockLoopUpdate r err s = _
  simp only [execLockLoopUpdate, hr, h, decide_true, Bool.and_self, act_true, rebase_locked h, State.modRing_twice]

/-! ### Changes of lane groups and entries alone -/

/-- Only lane groups and entries of the reception maps are changed, beside what notices leave behind. -/
def LinksOnly (s t : State) : Prop := SameButSignals { s with fab := { s.fab with tx := t.fab.tx, rx := t.fab.rx } } t

theorem LinksOnly.refl (s : State) : LinksOnly s s := rfl

theorem LinksOnly.trans {s t u : State} (h : LinksOnly s t) (k : LinksOnly t u) : LinksOnly s u := by
  unfold LinksOnly SameButSignals at *
  rw [k, h]

theorem LinksOnly.of_same {s t : State} (h : SameButSignals s t) : LinksOnly s t := by
  unfold LinksOnly
  rw [h.fab]
  exact h

theorem LinksOnly.fab {s t : State} (h : LinksOnly s t) : t.fab = { s.fab with tx := t.fab.tx, rx := t.fab.rx } :=
  SameButSignals.fab (s := { s with fab := { s.fab with tx := t.fab.tx, rx := t.fab.rx } }) h

theorem GroupsOnly.links {s t : State} (h : GroupsOnly s t) : LinksOnly s t := by
  have hrx : t.fab.rx = s.fab.rx := by rw [h.fab]
  unfold LinksOnly
  rw [hrx]
  exact h

theorem LinksOnly.fabric {s t : State} (h : LinksOnly s t) : FabricOnly s t := by
  unfold FabricOnly
  rw [h.fab]
  exact h

theorem LinksOnly.ringAt {s t : State} (h : LinksOnly s t) (q : RingId) : t.ringAt q = s.ringAt q := by
  rw [State.ringAt, h.fab]
  rfl

theorem modRx_links (s : State) (st rg : Nat) (f : RxGroup → RxGroup) : LinksOnly s (s.modRx st rg f) := rfl

theorem each_links {α : Type} (l : List α) {f : α → State → State} (hf : ∀ a s, LinksOnly s (f a s)) (s : State) :
    LinksOnly s (each l f s) := each_rel LinksOnly.refl LinksOnly.trans l hf s

theorem setRxState_links (s : State) (st rg : Nat) (x : RxState) : LinksOnly s (s.setRxState st rg x) :=
  (modRx_links s st rg _).trans (.of_same (setRxState_same s st rg x))

theorem reshare_links (s : State) (st g : Nat) : LinksOnly s (s.reshare st g) := by
  unfold State.reshare
  dsimp only
  split
  · exact each_links _ (fun x u => modRx_links u _ _ _) s
  · exact .refl s

theorem reshare_tx (s : State) (st g : Nat) : (s.reshare st g).fab.tx = s.fab.tx := by
  unfold State.reshare
  dsimp only
  split
  · exact each_inv (fun u => u.fab.tx = s.fab.tx) _ _ rfl fun _ _ h => h
  · rfl

/-! ### Entries that the reader sets cannot tell apart -/

theorem RxGroup.SameReader.trans {a b c : RxGroup} (h : a.SameReader b) (k : b.SameReader c) : a.SameReader c := by
  obtain ⟨h1, h2, h3, h4, h5, h6⟩ := h
  obtain ⟨k1, k2, k3, k4, k5, k6⟩ := k
  exact ⟨h1.trans k1, h2.trans k2, h3.trans k3, h4.trans k4, h5.trans k5, h6.trans k6⟩

/-- The reader set of a group, whatever its station, stands when no entry changes in what it looks at. -/
theorem readerSet_congr {s t : State} {st g : Nat} (hlt : ∀ e ∈ s.entriesOf st g, e.2 < 64) (hst : t.fab.st = s.fab.st)
    (hrx : ∀ i j, j < 64 → (t.rxg i j).SameReader (s.rxg i j)) : t.readerSet st g = s.readerSet st g := by
  have hentries : t.entriesOf st g = s.entriesOf st g := by
    unfold State.entriesOf
    split
    · rfl
    · refine List.flatMap_congr fun r _ => List.filterMap_congr fun j hj => ?_
      have hj := (List.mem_range.1 hj).trans_le (numRx_le r)
      obtain ⟨hv, hw, hl, -⟩ := hrx r j (by omega)
      rw [hv, hw, hl]
  have hlive : t.liveEntries st g = s.liveEntries st g := by
    unfold State.liveEntries
    rw [hentries]
    refine List.filter_congr fun e he => ?_
    obtain ⟨-, -, -, -, hp, -⟩ := hrx e.1 e.2 (hlt e he)
    simp only [hp, State.stUp, State.sta, hst]
  unfold State.readerSet
  rw [hlive]
  refine List.filter_congr fun e he => ?_
  obtain ⟨-, -, -, hs, -, hr⟩ := hrx e.1 e.2 (hlt e (List.mem_of_mem_filter he))
  rw [hs, hr]

/-- The entries beside one that exists have receive groups that exist too. -/
theorem entriesOf_lt_of_mem {s : State} {st g : Nat} {x : Nat × Nat} (hx : x ∈ s.entriesOf st g) (hlt : x.2 < 64) :
    ∀ e ∈ s.entriesOf st g, e.2 < 64 := by
  intro e he
  by_cases hg : 13 ≤ g
  · exact entriesOf_sown_lt hg he
  · unfold State.entriesOf at hx he
    rw [if_pos (by omega), List.mem_singleton] at hx he
    rw [he, ← hx]
    exact hlt

/-! ### Calibrations are abandoned, links come due (R133, R139) -/

theorem isTx_station_lt {st g : Nat} (h : isTx st g = true) : st < 14 := by
  have hlt : g < numTx st := of_decide_eq_true h
  by_contra hst
  have hnone : numTx st = 0 := by
    unfold numTx isCS isMS isXS
    simp only [beq_iff_eq, Bool.or_eq_true, Bool.and_eq_true, decide_eq_true_eq]
    rw [if_neg (by omega), if_neg (by omega), if_neg (by omega)]
  omega

/-- Between s and t entries have changed in what no reader set looks at, and nothing else. -/
structure CalsOnly (s t : State) : Prop where
  frame : t = { s with fab := { s.fab with rx := t.fab.rx } }
  entry : ∀ i j, j < 64 → (t.rxg i j).SameReader (s.rxg i j)

theorem CalsOnly.refl (s : State) : CalsOnly s s := ⟨rfl, fun _ _ _ => .refl _⟩

theorem CalsOnly.trans {s t u : State} (h : CalsOnly s t) (k : CalsOnly t u) : CalsOnly s u :=
  ⟨by rw [k.frame, h.frame], fun i j hj => (k.entry i j hj).trans (h.entry i j hj)⟩

theorem CalsOnly.links {s t : State} (h : CalsOnly s t) : LinksOnly s t := by
  rw [h.frame]
  rfl

theorem CalsOnly.tx {s t : State} (h : CalsOnly s t) : t.fab.tx = s.fab.tx := by rw [h.frame]

theorem CalsOnly.readerSet {s t : State} (h : CalsOnly s t) {st g : Nat} (hlt : ∀ e ∈ s.entriesOf st g, e.2 < 64) :
    t.readerSet st g = s.readerSet st g :=
  readerSet_congr hlt (by rw [h.frame]) h.entry

theorem modRx_cals (s : State) {a b : Nat} (hb : b < 64) {f : RxGroup → RxGroup} (hf : ∀ x, (f x).SameReader x) :
    CalsOnly s (s.modRx a b f) := by
  refine ⟨rfl, fun i j hj => ?_⟩
  by_cases h : (i, j) = (a, b)
  · cases h
    rw [State.rxg_modRx]
    exact hf _
  · rw [State.rxg_modRx_ne s f (rxKey_ne hb hj h)]
    exact .refl _

theorem each_cals {α : Type} (l : List α) {f : α → State → State} (hf : ∀ a ∈ l, ∀ s, CalsOnly s (f a s)) (s : State) :
    CalsOnly s (each l f s) :=
  each_inv_mem (CalsOnly s) l (.refl s) fun a ha _ h => h.trans (hf a ha _)

theorem RxGroup.due_sameReader (r : RxGroup) (cause : Nat) (now : W64) : (r.due cause now).SameReader r := by
  rw [RxGroup.due_eq]
  exact .refl r

theorem abandonCal_cals (s : State) (st : Nat) {rg : Nat} (h : rg < 64) : CalsOnly s (s.abandonCal st rg) := by
  unfold State.abandonCal
  split
  · exact modRx_cals s h fun x => RxGroup.due_sameReader _ _ _
  · exact .refl s

theorem dueBack_cals (s : State) (st : Nat) {rg : Nat} (h : rg < 64) : CalsOnly s (s.dueBack st rg) :=
  modRx_cals s h fun x => x.due_sameReader _ _

theorem ringLinks_lt {s : State} {r : RingId} (hr : ringOk r = true) : ∀ e ∈ s.ringLinks r, e.2 < 64 := by
  intro e he
  have hgrp := (ringOk_lt hr).1
  unfold State.ringLinks at he
  simp only [ringOk, Bool.and_eq_true] at hr
  split at he
  · next hk =>
    rw [hk] at hr
    exact entriesOf_lt (isTx_station_lt hr.2) (List.mem_of_mem_filter he)
  · split at he
    · rw [List.mem_singleton.1 he]
      exact hgrp
    · cases he
  · cases he

theorem ringLinks_unlinked {s : State} {r : RingId} (h : s.ringLinked r = false) : s.ringLinks r = [] := by
  unfold State.ringLinked at h
  unfold State.ringLinks
  cases hk : r.kind with
  | modulator => simp [hk] at h
  | selector =>
    simp only [hk] at h
    exact if_neg (by simp [h])
  | loopback => rfl

theorem dueLinks_cals (s : State) {r : RingId} (hr : ringOk r = true) : CalsOnly s (s.dueLinks r) :=
  each_cals _ (fun e he u => dueBack_cals u e.1 (ringLinks_lt hr e (List.mem_of_mem_filter he))) s

end Sys2Proof.Machine
end

section
/-! SUPPORT. Rings (04) lose their lock, lock again or are given up: what that does to their groups and links. -/

namespace Sys2Proof.Machine

open Sys2Proof Sys2Proof.Safety

/-! ### A reader leaves a group that has others (R54, R122) -/

section
variable (s : State) (wst wlg st rg : Nat)

theorem readerLeaves_links : LinksOnly s (s.readerLeaves wst wlg st rg) := by
  unfold State.readerLeaves
  extract_lets t left s1 s2
  have h1 : LinksOnly s s1 := setRxState_links s st rg _
  have h2 : LinksOnly s1 s2 := (each_groups _ (fun q u => modTx_groups u _ _ _) s1).links
  exact (h1.trans h2).trans ((modTx_groups s2 wst wlg _).links.trans (reshare_links _ wst wlg))

/-- The entry of the reader that leaves reads FAULT and names its writer as before. -/
theorem readerLeaves_rxg {rg : Nat} (h : rg < 64) :
    ∃ n, (s.readerLeaves wst wlg st rg).rxg st rg = { s.rxg st rg with state := .fault, share := n } := by
  unfold State.readerLeaves
  extract_lets t left s1 s2
  have h1 : s1.rxg st rg = { s.rxg st rg with state := .fault } := by
    rw [rxg_of_same (setRxState_same s st rg .fault), State.rxg_modRx]
  have h2 : GroupsOnly s1 (s2.settleAcks wst wlg) :=
    (each_groups _ (fun q u => modTx_groups u _ _ _) s1).trans (modTx_groups s2 wst wlg _)
  obtain ⟨n, hn⟩ := reshare_rxg (s2.settleAcks wst wlg) wst wlg (i := st) h
  exact ⟨n, by rw [hn, h2.rxg, h1]⟩

theorem enqueue_state (g : Nat) (q : QPacket) (i : Nat) :
    ((s.enqueue wst i q).txg wst g).state = (s.txg wst g).state := by
  by_cases hi : g = i
  · rw [hi, State.enqueue, State.txg_modTx]
  · have hk : txKey wst g ≠ txKey wst i := by
      unfold txKey
      omega
    simp [State.enqueue, State.txg, State.modTx, tget_tmod_ne _ _ _ _ hk]

/-- The group that one of its readers leaves stays in the state that it is in. -/
theorem readerLeaves_txg : ((s.readerLeaves wst wlg st rg).txg wst wlg).state = (s.txg wst wlg).state := by
  unfold State.readerLeaves
  extract_lets t left s1 s2
  have h2 : (s2.txg wst wlg).state = (s1.txg wst wlg).state :=
    each_inv (fun u => (u.txg wst wlg).state = (s1.txg wst wlg).state) _ _ rfl
      fun q u hu => (enqueue_state u wst wlg _ _).trans hu
  have h3 : ((s2.settleAcks wst wlg).txg wst wlg).state = (s2.txg wst wlg).state := by
    rw [State.settleAcks, State.txg_modTx]
    rfl
  rw [State.txg, reshare_tx, ← State.txg, h3, h2, txg_of_same (setRxState_same s st rg .fault)]
  rfl

end

/-! ### A ring loses its lock (R120 to R122, R130, R139) -/

theorem leaveService_state (s : State) (st g : Nat) :
    ((s.leaveService st g).txg st g).state = (if (s.txg st g).hinged then
      (if (s.txg st g).state = .draining then .draining else .off) else .fault) ∧
    ((s.leaveService st g).txg st g).replay = [] := by
  by_cases h : (s.txg st g).hinged = true ∧ (s.txg st g).state = .draining
  · obtain ⟨hh, hd⟩ := h
    rw [leaveService_hinged hh hd, State.txg_modTx, if_pos hh, if_pos hd]
    exact ⟨hd, rfl⟩
  · obtain ⟨l, hl⟩ := leaveService_txg h
    rw [hl]
    refine ⟨?_, rfl⟩
    by_cases hh : (s.txg st g).hinged = true
    · have hd : (s.txg st g).state ≠ .draining := fun hd => h ⟨hh, hd⟩
      simp only [hh, hd, if_true, if_false]
    · simp only [hh, if_false, Bool.false_eq_true]

theorem tripGroups_links (s : State) (r : RingId) : LinksOnly s (s.tripGroups r) := by
  unfold State.tripGroups
  dsimp only
  split
  · exact .refl s
  · split
    · exact .refl s
    · split
      · exact readerLeaves_links s _ _ _ _
      · split
        · exact (leaveService_groups s _ _).links
        · exact .refl s

theorem ringGroup_selector {s t : State} {r : RingId} (hw : (t.rxg r.st r.grp).wst = (s.rxg r.st r.grp).wst)
    (hl : (t.rxg r.st r.grp).wlg = (s.rxg r.st r.grp).wlg) : t.ringGroup r = s.ringGroup r := by
  unfold State.ringGroup
  rw [hw, hl]

/-- A trip leaves each entry its writer. -/
theorem tripGroups_ringGroup (s : State) {r : RingId} (h : r.grp < 64) : (s.tripGroups r).ringGroup r = s.ringGroup r := by
  unfold State.tripGroups
  dsimp only
  split
  · rfl
  · split
    · rfl
    · split
      · obtain ⟨n, hn⟩ := readerLeaves_rxg s (s.ringGroup r).1 (s.ringGroup r).2 r.st h
        exact ringGroup_selector (by rw [hn]) (by rw [hn])
      · split
        · have hrx := (leaveService_groups s (s.ringGroup r).1 (s.ringGroup r).2).rxg r.st r.grp
          exact ringGroup_selector (by rw [hrx]) (by rw [hrx])
        · rfl

/-- A lock loss counts for its feed and does no more, unless the feed is lit and losses lie on buses of several fields (R87). -/
theorem countTrip_calm {s : State} {b : Nat × Nat} (h : (s.feed (busFeed b.1 b.2)).lit = false ∨
      lossAcross (busKey b.1 b.2 :: (s.feed (busFeed b.1 b.2)).trips) = false) :
    s.countTrip b = s.modFeed (busFeed b.1 b.2) fun d =>
      { d with trips := busKey b.1 b.2 :: (s.feed (busFeed b.1 b.2)).trips } := by
  unfold State.countTrip
  dsimp only
  rw [if_neg]
  rcases h with h | h <;> simp [h]

/-- A ring that has lost its lock acquires again, and the calibrations of its links are abandoned (R120, R139). -/
def State.lossSeen (s : State) (r : RingId) : State :=
  each (s.ringLinks r) (fun x s => s.abandonCal x.1 x.2) (s.modRing r fun q => { q with state := .acquire, overCnt := 0 })

section
variable {s : State} {r : RingId} (hr : ringOk r = true)
include hr

theorem lossSeen_cals : CalsOnly (s.modRing r fun q => { q with state := .acquire, overCnt := 0 }) (s.lossSeen r) :=
  each_cals _ (fun e he u => abandonCal_cals u e.1 (ringLinks_lt hr e he)) _

theorem lossSeen_ringGroup : (s.lossSeen r).ringGroup r = s.ringGroup r := by
  obtain ⟨-, hw, hl, -⟩ := (lossSeen_cals (s := s) hr).entry r.st r.grp (ringOk_lt hr).1
  exact ringGroup_selector hw hl

theorem lossSeen_ringLinked : (s.lossSeen r).ringLinked r = s.ringLinked r := by
  obtain ⟨hv, -⟩ := (lossSeen_cals (s := s) hr).entry r.st r.grp (ringOk_lt hr).1
  unfold State.ringLinked
  rw [hv]
  rfl

theorem lossSeen_txg (st g : Nat) : (s.lossSeen r).txg st g = s.txg st g := by
  rw [State.txg, (lossSeen_cals hr).tx]
  rfl

variable (hl : (s.ringAt r).state = .locked) (ho : 4 ≤ (s.ringAt r).overCnt)
include hl ho

theorem exec_lockLossTrip : exec (.lockLossTrip r) s
    = .next (((s.lossSeen r).tripGroups r).when (s.ringLinked r) fun u => u.countTrip (u.ringBus r)) := by
  show execLockLossTrip r s = _
  simp only [execLockLossTrip, hr, hl, ho, decide_true, Bool.and_self, act_true]
  rw [← lossSeen_ringLinked hr]
  rfl


/-- A linked ring loses its lock while its feed stays as it is: its groups and entries change as `tripGroups` says. -/
theorem lockLossTrip_result (hlinked : s.ringLinked r = true)
    (hcalm : (s.feed (busFeed (s.ringBus r).1 (s.ringBus r).2)).lit = false ∨
      lossAcross (busKey (s.ringBus r).1 (s.ringBus r).2 ::
        (s.feed (busFeed (s.ringBus r).1 (s.ringBus r).2)).trips) = false) :
    ∃ t, exec (.lockLossTrip r) s = .next t ∧ t.fab = ((s.lossSeen r).tripGroups r).fab ∧
      (t.ringAt r).state = .acquire ∧ t.mem = s.mem ∧ t.credit = s.credit := by
  have hseen := lossSeen_cals (s := s) hr
  have hgroups := tripGroups_links (s.lossSeen r) r
  have hfabric := (modRing_fabric s r _).trans (hseen.links.trans hgroups).fabric
  have hbus : ((s.lossSeen r).tripGroups r).ringBus r = s.ringBus r := by
    unfold State.ringBus
    rw [tripGroups_ringGroup _ (ringOk_lt hr).1, lossSeen_ringGroup hr]
  have hring : ((s.lossSeen r).tripGroups r).ringAt r = { s.ringAt r with state := .acquire, overCnt := 0 } := by
    rw [hgroups.ringAt, hseen.links.ringAt, State.ringAt_modRing]
  rw [exec_lockLossTrip hr hl ho, hlinked, State.when_true, hbus, countTrip_calm]
  · exact ⟨_, rfl, rfl, congrArg Ring.state hring, hfabric.mem, hfabric.credit⟩
  · rw [feed_of_light hfabric.light]
    exact hcalm

end

/-! ### A ring locks again (R97, R122, R123, R130) -/

theorem entryBack_modulator {r : RingId} (h : r.kind = .modulator) (s : State) : s.entryBack r = s := by
  simp [State.entryBack, h]

theorem ringLinked_modulator {r : RingId} (h : r.kind = .modulator) (s : State) : s.ringLinked r = true := by
  simp [State.ringLinked, h]

theorem exec_ringRelock {s : State} {r : RingId} (hr : ringOk r = true) (ha : (s.ringAt r).state = .acquire) :
    exec (.ringRelock r) s = .next (let t := ((s.lockRing r).dueLinks r).entryBack r
      if s.ringLinked r then t.relightLane (s.ringGroup r).1 (s.ringGroup r).2 r.lane else t) := by
  show execRingRelock r s = _
  simp only [execRingRelock, hr, ha, decide_true, Bool.and_self, act_true]

theorem lockRing_ringAt (s : State) (r : RingId) :
    ((s.lockRing r).ringAt r).state = .locked ∧ ((s.lockRing r).ringAt r).overCnt = 0 := by
  have h : (s.lockRing r).ringAt r = { s.ringAt r with
      state := .locked, overCnt := 0, heater := s.heaterOf r, site := s.siteTemp r
      bias := ((s.freeVal % 256 : Nat) : Int) - 128 } := State.ringAt_modRing s.draw r _
  rw [h]
  exact ⟨rfl, rfl⟩

/-- What each change of a list brings about for its element, and the changes of the others keep, holds of all in the end. -/
theorem each_all_mem {α : Type} {Q : α → State → Prop} {f : α → State → State} (l : List α) (s : State)
    (hset : ∀ a ∈ l, ∀ s, Q a (f a s)) (hkeep : ∀ a ∈ l, ∀ b ∈ l, ∀ s, Q b s → Q b (f a s)) :
    ∀ b ∈ l, Q b (each l f s) := by
  induction l generalizing s with
  | nil => exact nofun
  | cons a l ih =>
    intro b hb
    rw [each_cons]
    rcases List.mem_cons.1 hb with rfl | hin
    · exact each_inv_mem (Q b) l (hset b (by simp) s) fun a ha t => hkeep a (by simp [ha]) b (by simp) t
    · exact ih (f a s) (fun a ha => hset a (by simp [ha])) (fun a ha b hb => hkeep a (by simp [ha]) b (by simp [hb])) b hin

/-- The cause for which a link is due that comes back: its first calibration, or its return (R133). -/
def RxGroup.DueBack (r : RxGroup) : Prop := ∃ x ∈ r.calDue, x.1 = if r.calCount = 0 then 0 else 3

theorem due_dueBack (r : RxGroup) (now : W64) : (r.due (if r.calCount = 0 then 0 else 3) now).DueBack := by
  obtain ⟨x, hx, hc⟩ := r.due_mem (if r.calCount = 0 then 0 else 3) now
  have hcount : (r.due (if r.calCount = 0 then 0 else 3) now).calCount = r.calCount := by rw [RxGroup.due_eq]
  exact ⟨x, hx, by rw [hcount, hc]⟩

theorem dueBack_rxg (s : State) (st rg : Nat) :
    (s.dueBack st rg).rxg st rg = (s.rxg st rg).due (if (s.rxg st rg).calCount = 0 then 0 else 3) s.now :=
  State.rxg_modRx s st rg _

/-- The entry of another receive group stands when one comes due. -/
theorem dueBack_rxg_ne (s : State) {e x : Nat × Nat} (he : e.2 < 64) (hx : x.2 < 64) (h : x ≠ e) :
    (s.dueBack e.1 e.2).rxg x.1 x.2 = s.rxg x.1 x.2 :=
  State.rxg_modRx_ne s _ (rxKey_ne he hx h)

theorem dueBack_calCount (s : State) {e x : Nat × Nat} (he : e.2 < 64) (hx : x.2 < 64) :
    ((s.dueBack e.1 e.2).rxg x.1 x.2).calCount = (s.rxg x.1 x.2).calCount := by
  by_cases h : x = e
  · rw [h, dueBack_rxg, RxGroup.due_eq]
  · rw [dueBack_rxg_ne s he hx h]

/-- Every link of a ring that has locked again is due, but for the entries that still tune (R130, R133). -/
theorem dueLinks_due (s : State) {r : RingId} (hr : ringOk r = true) {e : Nat × Nat} (he : e ∈ s.ringLinks r)
    (ht : (s.rxg e.1 e.2).state ≠ .tuning) :
    ∃ x ∈ ((s.dueLinks r).rxg e.1 e.2).calDue, x.1 = if (s.rxg e.1 e.2).calCount = 0 then 0 else 3 := by
  have hmem : e ∈ (s.ringLinks r).filter fun x => decide ((s.rxg x.1 x.2).state ≠ .tuning) :=
    List.mem_filter.2 ⟨he, decide_eq_true ht⟩
  have hlt : ∀ x ∈ (s.ringLinks r).filter fun x => decide ((s.rxg x.1 x.2).state ≠ .tuning), x.2 < 64 := fun x hx =>
    ringLinks_lt hr x (List.mem_of_mem_filter hx)
  have hcount : ((s.dueLinks r).rxg e.1 e.2).calCount = (s.rxg e.1 e.2).calCount :=
    each_inv_mem (fun u => (u.rxg e.1 e.2).calCount = (s.rxg e.1 e.2).calCount) _ rfl fun x hx u hu =>
      (dueBack_calCount u (hlt x hx) (hlt e hmem)).trans hu
  have hdue : ((s.dueLinks r).rxg e.1 e.2).DueBack := by
    refine each_all_mem (Q := fun e u => (u.rxg e.1 e.2).DueBack) _ s (fun x _ u => ?_) (fun x hx y hy u hu => ?_) e hmem
    · rw [dueBack_rxg]
      exact due_dueBack _ _
    · by_cases hxy : y = x
      · rw [hxy, dueBack_rxg]
        exact due_dueBack _ _
      · rw [dueBack_rxg_ne u (hlt x hx) (hlt y hy) hxy]
        exact hu
  rw [← hcount]
  exact hdue

/-- A ring that has locked again, with its links, leaves everything else as it was. -/
theorem relock_frame {s t : State} {r : RingId} (h : LinksOnly (s.lockRing r) t) :
    SameButSignals { s with fab := { s.fab with rings := t.fab.rings, rx := t.fab.rx, tx := t.fab.tx } } t := by
  have hrings : t.fab.rings = (s.lockRing r).fab.rings := by rw [h.fab]
  rw [hrings]
  refine SameButSignals.trans ?_ h
  exact rfl

/-- A lane that may be lit again leaves the rings and the entries. -/
theorem relightLane_if_groups (s : State) (c : Bool) (st g l : Nat) :
    GroupsOnly s (if c then s.relightLane st g l else s) := by
  cases c
  · exact rfl
  · exact relightLane_groups s st g l

theorem rxRings_lt {st rg : Nat} (hrg : rg < 64) {q : RingId} (hq : q ∈ rxRings st rg) : q.grp < 64 ∧ q.lane < 8 := by
  obtain ⟨l, hl, rfl⟩ := List.mem_map.1 hq
  exact ⟨hrg, List.mem_range.1 hl⟩

/-- An entry in FAULT whose last ring locks again is LOCKED, and waits to rejoin (R122, R130). -/
theorem relock_entryBack {s : State} {r : RingId} (hr : ringOk r = true) (hk : r.kind = .selector)
    (hv : (s.rxg r.st r.grp).valid = true) (hf : (s.rxg r.st r.grp).state = .fault)
    (hothers : ∀ q ∈ rxRings r.st r.grp, q ≠ r → (s.ringAt q).state ≠ .acquire ∧ (s.ringAt q).state ≠ .lost) :
    ((s.lockRing r).dueLinks r).entryBack r =
      (((s.lockRing r).dueLinks r).modRx r.st r.grp fun e => { e with rejoin := true }).setRxState r.st r.grp .locked := by
  have hdue := dueLinks_cals (s.lockRing r) hr
  obtain ⟨hv', -, -, hf', -⟩ := hdue.entry r.st r.grp (ringOk_lt hr).1
  have hlocked : ((s.lockRing r).dueLinks r).entryRingsLocked r.st r.grp = true := by
    refine List.all_eq_true.2 fun q hq => ?_
    rw [hdue.links.ringAt]
    by_cases hqr : q = r
    · rw [hqr, (lockRing_ringAt s r).1]
      rfl
    · have hkey : ringKey q ≠ ringKey r := fun h => hqr (ringKey_inj (rxRings_lt (ringOk_lt hr).1 hq) (ringOk_lt hr) h)
      have hsame : (s.lockRing r).ringAt q = s.ringAt q := (ringAt_modRing s.draw r q _).trans (if_neg hkey)
      rw [hsame]
      simpa using hothers q hq hqr
  have hvalid : (((s.lockRing r).dueLinks r).rxg r.st r.grp).valid = true := hv'.trans hv
  have hfault : (((s.lockRing r).dueLinks r).rxg r.st r.grp).state = .fault := hf'.trans hf
  unfold State.entryBack
  simp only [hk, hvalid, hfault, hlocked, decide_true, Bool.and_self, if_true]

/-! ### A ring is found bad (R119, R124) -/

theorem exec_ringBad_modulator {s : State} {r : RingId} (hr : ringOk r = true) (hk : r.kind = .modulator)
    (ha : (s.ringAt r).state = .acquire) : exec (.ringBad r) s = .next ((s.ringLost r).dueLinks r) := by
  show execRingBad r s = _
  simp [execRingBad, hr, ha, hk, entryBack_modulator hk]

theorem leaveService_bad (s : State) (st g : Nat) : ((s.leaveService st g).txg st g).bad = (s.txg st g).bad := by
  by_cases h : (s.txg st g).hinged = true ∧ (s.txg st g).state = .draining
  · rw [leaveService_hinged h.1 h.2, State.txg_modTx]
    rfl
  · obtain ⟨l, hl⟩ := leaveService_txg h
    rw [hl]
    rfl

theorem setTxState_txg (s : State) (st g : Nat) (x : LgState) :
    (s.setTxState st g x).txg st g = { s.txg st g with state := x } := by
  rw [txg_of_same (setTxState_same s st g x), State.txg_modTx]

/-- A lane that is marked is bad, whatever its group does then (R35). -/
theorem markLane_bad (s : State) (st g lane : Nat) :
    ((s.markLane st g lane).txg st g).bad = (s.txg st g).bad ||| (1#8 <<< lane) := by
  unfold State.markLane
  extract_lets s1
  have h1 : (s1.txg st g).bad = (s.txg st g).bad ||| (1#8 <<< lane) := congrArg TxGroup.bad (State.txg_modTx ..)
  split
  · exact h1
  · split
    · rw [leaveService_bad, h1]
    · split
      · exact h1
      · rw [setTxState_txg, h1]

/-- The lane of a modulator that is given up is bad (R35, R124). -/
theorem ringLost_bad (s : State) {r : RingId} (hk : r.kind = .modulator) :
    ((s.ringLost r).txg r.st r.grp).bad = (s.txg r.st r.grp).bad ||| (1#8 <<< r.lane) := by
  have hgroup : s.ringGroup r = (r.st, r.grp) := by simp [State.ringGroup, hk]
  unfold State.ringLost
  rw [hgroup]
  extract_lets w s1 s2
  have h2 : (s2.txg r.st r.grp).bad = (s.txg r.st r.grp).bad ||| (1#8 <<< r.lane) := markLane_bad s1 _ _ _
  rw [if_neg (by simp [ringLinked_modulator hk])]
  split
  · rw [State.txg_modTx, h2]
  · exact h2

/-! ### The obligation on lock loops and locks -/

theorem txg_of_fab {s t : State} (h : t.fab = s.fab) (st g : Nat) : t.txg st g = s.txg st g := by
  simp only [State.txg, h]

/-- The trip of a modulator of a group in service takes the group out (R121). -/
theorem tripGroups_modulator {s : State} {r : RingId} (hk : r.kind = .modulator) (hin : (s.txg r.st r.grp).inService = true) :
    s.tripGroups r = s.leaveService r.st r.grp := by
  have hgroup : s.ringGroup r = (r.st, r.grp) := by simp [State.ringGroup, hk]
  simp [State.tripGroups, ringLinked_modulator hk, hgroup, hk, hin]

section
variable {s : State} {r : RingId} (hk : r.kind = .selector) (hv : (s.rxg r.st r.grp).valid = true)
  (hmem : (r.st, r.grp) ∈ s.readerSet (s.rxg r.st r.grp).wst (s.rxg r.st r.grp).wlg)
include hk hv hmem

/-- The trip of a selector takes out its reader alone when the group has others, and the group when it has none (R122). -/
theorem tripGroups_selector : s.tripGroups r =
    if 1 < (s.readerSet (s.rxg r.st r.grp).wst (s.rxg r.st r.grp).wlg).length then
      s.readerLeaves (s.rxg r.st r.grp).wst (s.rxg r.st r.grp).wlg r.st r.grp
    else if (s.txg (s.rxg r.st r.grp).wst (s.rxg r.st r.grp).wlg).inService then
      s.leaveService (s.rxg r.st r.grp).wst (s.rxg r.st r.grp).wlg else s := by
  have hgroup : s.ringGroup r = ((s.rxg r.st r.grp).wst, (s.rxg r.st r.grp).wlg) := by simp [State.ringGroup, hk]
  have hlinked : s.ringLinked r = true := by simp [State.ringLinked, hk, hv]
  unfold State.tripGroups
  simp only [hgroup, hlinked, hk, List.contains_iff_mem.2 hmem, decide_true, Bool.true_and, Bool.not_true,
    Bool.false_eq_true, if_false, decide_eq_true_eq]

end

/-- A selector of a reader that its group has loses its lock (R120, R122). -/
theorem lossSeen_tripGroups_selector {s : State} {r : RingId} (hr : ringOk r = true) (hk : r.kind = .selector)
    (hv : (s.rxg r.st r.grp).valid = true)
    (hmem : (r.st, r.grp) ∈ s.readerSet (s.rxg r.st r.grp).wst (s.rxg r.st r.grp).wlg) :
    (s.lossSeen r).tripGroups r =
      if 1 < (s.readerSet (s.rxg r.st r.grp).wst (s.rxg r.st r.grp).wlg).length then
        (s.lossSeen r).readerLeaves (s.rxg r.st r.grp).wst (s.rxg r.st r.grp).wlg r.st r.grp
      else if (s.txg (s.rxg r.st r.grp).wst (s.rxg r.st r.grp).wlg).inService then
        (s.lossSeen r).leaveService (s.rxg r.st r.grp).wst (s.rxg r.st r.grp).wlg else s.lossSeen r := by
  have hseen := lossSeen_cals (s := s) hr
  obtain ⟨hv', hw, hl, -⟩ := hseen.entry r.st r.grp (ringOk_lt hr).1
  have hlt := entriesOf_lt_of_mem (List.mem_of_mem_filter (List.mem_of_mem_filter hmem)) (ringOk_lt hr).1
  have hset : (s.lossSeen r).readerSet (s.rxg r.st r.grp).wst (s.rxg r.st r.grp).wlg
      = s.readerSet (s.rxg r.st r.grp).wst (s.rxg r.st r.grp).wlg := hseen.readerSet hlt
  have hwst : ((s.lossSeen r).rxg r.st r.grp).wst = (s.rxg r.st r.grp).wst := hw
  have hwlg : ((s.lossSeen r).rxg r.st r.grp).wlg = (s.rxg r.st r.grp).wlg := hl
  rw [tripGroups_selector hk (hv'.trans hv) (by rw [hwst, hwlg, hset]; exact hmem), hwst, hwlg, hset, lossSeen_txg hr]

/-- Settles O8: the loop by what one update can do, a trip by the groups it touches, a relock by the links that come due. -/
theorem loopsStayInRangeAndRingsRelock : Obligations.LoopsStayInRangeAndRingsRelock := by
  unfold Obligations.LoopsStayInRangeAndRingsRelock
  refine ⟨?_, ?_, ?_, ?_, ?_, ?_, ?_⟩
  · intro r err s hr hl
    obtain ⟨hlo, hhi, herr, hstate, hmax, hup, hdown⟩ :=
      Ring.update_bounds (q := { s.ringAt r with heater := s.heaterOf r, site := s.siteTemp r }) (heaterOf_le hl) err
    refine ⟨_, exec_lockLoopUpdate hr hl err, ?_⟩
    rw [State.ringAt_modRing]
    exact ⟨hlo, hhi, herr, hstate.trans hl, hmax, hup, hdown, fun q hq => (ringAt_modRing ..).trans (if_neg hq), rfl⟩
  · intro r s hr hk hl ho hin hcalm
    have hbus : s.ringBus r = (r.st, laneBus r.st r.grp r.lane) := by simp [State.ringBus, State.ringGroup, hk]
    obtain ⟨t, hgo, hfab, hring, hmem, hcredit⟩ :=
      lockLossTrip_result hr hl ho (ringLinked_modulator hk s) (by rw [hbus]; exact hcalm)
    rw [tripGroups_modulator hk (by rw [lossSeen_txg hr]; exact hin)] at hfab
    obtain ⟨hstate, hreplay⟩ := leaveService_state (s.lossSeen r) r.st r.grp
    refine ⟨t, hgo, hring, ?_, ?_, hmem, hcredit⟩
    · rw [txg_of_fab hfab, hstate, lossSeen_txg hr]
    · rw [txg_of_fab hfab, hreplay]
  · intro r s hr hk hl ho hv hmem hcalm
    have hlinked : s.ringLinked r = true := by simp [State.ringLinked, hk, hv]
    obtain ⟨t, hgo, hfab, hring, hkept, hcredit⟩ := lockLossTrip_result hr hl ho hlinked hcalm
    rw [lossSeen_tripGroups_selector hr hk hv hmem] at hfab
    refine ⟨t, hgo, hring, hkept, hcredit, fun hmany => ?_, fun hone hin hh => ?_⟩
    · rw [if_pos hmany] at hfab
      obtain ⟨n, hn⟩ := readerLeaves_rxg (s.lossSeen r) (s.rxg r.st r.grp).wst (s.rxg r.st r.grp).wlg r.st (ringOk_lt hr).1
      refine ⟨?_, ?_⟩
      · rw [rxg_of_fab hfab, hn]
      · rw [txg_of_fab hfab, readerLeaves_txg, lossSeen_txg hr]
    · rw [if_neg (by omega), if_pos hin] at hfab
      rw [txg_of_fab hfab, (leaveService_state _ _ _).1, lossSeen_txg hr, if_neg (by simp [hh])]
  · intro r s hr hlinked hl ho
    have hseen : s.lossSeen r = s.modRing r fun q => { q with state := .acquire, overCnt := 0 } := by
      rw [State.lossSeen, ringLinks_unlinked hlinked, each_nil]
    have hout := lossSeen_ringLinked (s := s) hr
    rw [exec_lockLossTrip hr hl ho, hlinked, State.when_false, State.tripGroups, hout, hlinked, if_pos (by rfl), hseen]
  · intro r s hr hk ha
    have hdue := dueLinks_cals (s.lockRing r) hr
    refine ⟨_, exec_ringRelock hr ha, ?_⟩
    dsimp only
    rw [entryBack_modulator hk]
    have hlit := relightLane_if_groups ((s.lockRing r).dueLinks r) (s.ringLinked r) (s.ringGroup r).1 (s.ringGroup r).2 r.lane
    rw [hlit.ringAt, hdue.links.ringAt]
    obtain ⟨hstate, hover⟩ := lockRing_ringAt s r
    refine ⟨hstate, hover, fun e he hv ht => ?_, relock_frame (hdue.links.trans hlit.links)⟩
    rw [hlit.rxg]
    refine dueLinks_due (s.lockRing r) hr ?_ ht
    simp only [State.ringLinks, hk]
    exact List.mem_filter.2 ⟨he, hv⟩
  · intro r s hr hk ha hv hf hothers
    have hdue := dueLinks_cals (s.lockRing r) hr
    refine ⟨_, exec_ringRelock hr ha, ?_⟩
    dsimp only
    rw [relock_entryBack hr hk hv hf hothers]
    generalize hu : State.modRx ((s.lockRing r).dueLinks r) r.st r.grp (fun e => { e with rejoin := true }) = u
    have hback := setRxState_same u r.st r.grp .locked
    have hlit := relightLane_if_groups (u.setRxState r.st r.grp .locked) (s.ringLinked r) (s.ringGroup r).1 (s.ringGroup r).2 r.lane
    have hlinks : LinksOnly (s.lockRing r) u := by
      rw [← hu]
      exact hdue.links.trans (modRx_links _ _ _ _)
    have hall := (lockRing_fabric s r).trans ((hlinks.trans (setRxState_links u r.st r.grp .locked)).trans hlit.links).fabric
    rw [hlit.ringAt, (setRxState_links u r.st r.grp .locked).ringAt, hlinks.ringAt, hlit.rxg, rxg_of_same hback,
      State.rxg_modRx]
    refine ⟨(lockRing_ringAt s r).1, rfl, ?_, hall.mem⟩
    rw [← hu, State.rxg_modRx]
  · intro r s hr hk ha
    have hdue := dueLinks_cals (s.ringLost r) hr
    have hall := (ringLost_fabric s r).trans hdue.links.fabric
    refine ⟨_, exec_ringBad_modulator hr hk ha, ?_, ?_, hall.mem, hall.light⟩
    · rw [hdue.links.ringAt, (ringLost_groups s r).ringAt, State.ringAt_modRing]
    · rw [State.txg, hdue.tx, ← State.txg, ringLost_bad s hk]
      simp [(ringOk_lt hr).2]

end Sys2Proof.Machine
end

section
/-! SUPPORT. The ramp governor and the calibration of a link (04): levels that reach the cores, rings that take a correction. -/

namespace Sys2Proof.Machine

open Sys2Proof Sys2Proof.Safety

/-! ### Levels of a die reach its cores (R298, R506) -/

theorem spreadLevel_frame (s : State) (d : Nat) : s.spreadLevel d = { s with cores := (s.spreadLevel d).cores } :=
  each_inv (fun u => u = { s with cores := u.cores }) (List.range 8) (fun i u => u.modCore (8 * d + i) fun c => { c with
    throttle := (s.diePower d).throttle, level := min (s.diePower d).level (s.diePower d).throttle }) rfl
    fun i u hu => by rw [hu]; rfl

/-- A die's throttle level and what it permits stand in each of its cores. -/
theorem spreadLevel_core (s : State) (d : Nat) {i : Nat} (hi : i < 8) :
    ((s.spreadLevel d).core (8 * d + i)).throttle = (s.diePower d).throttle ∧
    ((s.spreadLevel d).core (8 * d + i)).level = min (s.diePower d).level (s.diePower d).throttle := by
  refine each_all (Q := fun i u => (u.core (8 * d + i)).throttle = (s.diePower d).throttle ∧
    (u.core (8 * d + i)).level = min (s.diePower d).level (s.diePower d).throttle) (f := fun i u =>
      u.modCore (8 * d + i) fun c => { c with
        throttle := (s.diePower d).throttle, level := min (s.diePower d).level (s.diePower d).throttle })
    (List.range 8) s (fun i u => ?_) (fun i j u hu => ?_) i (List.mem_range.2 hi)
  · rw [State.core_modCore]
    exact ⟨rfl, rfl⟩
  · by_cases h : j = i
    · rw [h, State.core_modCore]
      exact ⟨rfl, rfl⟩
    · rw [State.core_modCore_ne _ _ (by omega)]
      exact hu

theorem spreadLevel_power (s : State) (d : Nat) : (s.spreadLevel d).power = s.power := by rw [spreadLevel_frame]

theorem spreadLevel_diePower (s : State) (d i : Nat) : (s.spreadLevel d).diePower i = s.diePower i := by
  rw [State.diePower, spreadLevel_power]
  rfl

/-! ### A step of the ramp (R125 to R127) -/

/-- How far a step of the governor may move a level: 255 per RAMP steps, with what the last step left over (R125, R127). -/
def DiePower.stride (p : DiePower) : Nat := (min p.acc (max 1 p.ramp - 1) + 255) / max 1 p.ramp

theorem DiePower.ramped_bounds (p : DiePower) (target : Nat) :
    (p.ramped target).level ≤ p.level + p.stride ∧ p.level ≤ (p.ramped target).level + p.stride ∧
    (p.ramped target).acc < max 1 p.ramp := by
  unfold DiePower.ramped DiePower.stride
  extract_lets r sum l
  have hr : 0 < r := Nat.lt_of_lt_of_le Nat.zero_lt_one (Nat.le_max_left 1 p.ramp)
  have hmod : sum % r < r := Nat.mod_lt _ hr
  have hlevel : ∀ n, (if p.level ≤ target then min target (p.level + n) else max target (p.level - n)) ≤ p.level + n ∧
      p.level ≤ (if p.level ≤ target then min target (p.level + n) else max target (p.level - n)) + n := by
    intro n
    split <;> omega
  refine ⟨(hlevel _).1, (hlevel _).2, ?_⟩
  dsimp only
  split
  · exact hr
  · exact hmod

/-- RAMP_STEP at the die's own record (R125, R126, R505). -/
def DiePower.rampStep (p : DiePower) (demand : Nat) : DiePower :=
  { p.ramped (min (min demand 255) p.throttle) with
    demand := min demand 255
    ballast := decide (min (min demand 255) p.throttle < (p.ramped (min (min demand 255) p.throttle)).level) }

theorem exec_rampStep {s : State} {die : Nat} (hd : die < 8) (hup : s.dieUp die = true) (demand : Nat) :
    exec (.rampStep die demand) s = .next ((s.modDiePower die fun p => p.rampStep demand).spreadLevel die) := by
  show execRampStep die demand s = _
  simp only [execRampStep, hd, hup, decide_true, Bool.and_self, act_true]
  rfl

/-! ### Rings take the correction of a calibration (R135, R137, R143, R144) -/

/-- A ring after the correction of a calibration: one that is LOCKED goes on from the heater code it has now. -/
def State.corrected (s : State) (r : RingId) (heater bias : Int) : Ring :=
  if (s.ringAt r).state = .locked then
    ({ s.ringAt r with heater := s.heaterOf r, site := s.siteTemp r } : Ring).correct heater bias
  else s.ringAt r

/-- Only rings and the tables of their heaters are changed. -/
def RingsOnly (s t : State) : Prop := t = { s with
  fab := { s.fab with rings := t.fab.rings }
  warden := { s.warden with tables := t.warden.tables, tablesRefined := t.warden.tablesRefined } }

theorem RingsOnly.refl (s : State) : RingsOnly s s := rfl

theorem RingsOnly.trans {s t u : State} (h : RingsOnly s t) (k : RingsOnly t u) : RingsOnly s u := by
  unfold RingsOnly at *
  rw [k, h]

theorem RingsOnly.light {s t : State} (h : RingsOnly s t) : t.light = s.light := by rw [h]
theorem RingsOnly.power {s t : State} (h : RingsOnly s t) : t.power = s.power := by rw [h]
theorem RingsOnly.resets {s t : State} (h : RingsOnly s t) : t.resets = s.resets := by rw [h]
theorem RingsOnly.tx {s t : State} (h : RingsOnly s t) : t.fab.tx = s.fab.tx := by rw [h]
theorem RingsOnly.rx {s t : State} (h : RingsOnly s t) : t.fab.rx = s.fab.rx := by rw [h]

theorem RingsOnly.siteTemp {s t : State} (h : RingsOnly s t) (q : RingId) : t.siteTemp q = s.siteTemp q := by
  unfold State.siteTemp
  rw [h.power]

theorem RingsOnly.therm {s t : State} (h : RingsOnly s t) (k : Nat) : t.therm (.field k) = s.therm (.field k) := by
  simp only [State.therm, h.power]

theorem correctRing_only (s : State) (r : RingId) (h b : Int) : RingsOnly s (s.correctRing r h b) := by
  unfold State.correctRing
  split
  · exact rfl
  · exact .refl s

theorem correctRing_ringAt (s : State) (r q : RingId) (h b : Int) :
    (s.correctRing r h b).ringAt q = if ringKey q = ringKey r then s.corrected r h b else s.ringAt q := by
  unfold State.correctRing State.corrected
  split
  · next hl =>
    have href : ∀ u : State, (u.refine r).ringAt q = u.ringAt q := fun _ => rfl
    rw [href, rebase_locked hl, State.modRing_twice, ringAt_modRing]
  · split
    · next hk => rw [State.ringAt, hk, ← State.ringAt]
    · rfl

/-- The tables of a ring stand when another one's is refined, as long as both fields are in bands that exist. -/
theorem correctRing_bandEntry (s : State) {r q : RingId} (h b : Int) (hk : ringKey q ≠ ringKey r) {i : Nat} (hi : i < 4)
    (hr : s.ringBand r < 4) : (s.correctRing r h b).bandEntry q i = s.bandEntry q i := by
  unfold State.correctRing
  split
  · have hband : ((s.rebase r).modRing r fun q => q.correct h b).ringBand r = s.ringBand r := rfl
    unfold State.bandEntry State.refine
    rw [hband]
    exact tget_tset_ne' _ _ _ _ (by omega)
  · rfl

section
variable {s : State} (hb : ∀ k, (s.therm (.field k)).band < 4)
include hb

/-- The heater code of a ring stands when another one is corrected (R143). -/
theorem correctRing_heaterOf {r q : RingId} (h b : Int) (hk : ringKey q ≠ ringKey r) :
    (s.correctRing r h b).heaterOf q = s.heaterOf q := by
  have hring : (s.correctRing r h b).ringAt q = s.ringAt q := by rw [correctRing_ringAt, if_neg hk]
  have hband : (s.correctRing r h b).ringBand q = s.ringBand q := by
    unfold State.ringBand
    rw [(correctRing_only s r h b).therm]
  have hentry : (s.correctRing r h b).bandEntry q (s.ringBand q) = s.bandEntry q (s.ringBand q) :=
    correctRing_bandEntry s h b hk (hb _) (hb _)
  have hfield : ∀ k, (s.correctRing r h b).field k = s.field k := field_of_resets (correctRing_only s r h b).resets
  unfold State.heaterOf State.feedForward
  rw [hring, hband, hentry, hfield, (correctRing_only s r h b).siteTemp]

theorem correctRing_corrected {r q : RingId} (h b h' b' : Int) (hk : ringKey q ≠ ringKey r) :
    (s.correctRing r h b).corrected q h' b' = s.corrected q h' b' := by
  unfold State.corrected
  rw [correctRing_ringAt, if_neg hk, correctRing_heaterOf hb h b hk, (correctRing_only s r h b).siteTemp]

end

/-- Each of a list of different rings takes its own correction, as if it were the only one. -/
theorem each_correctRing (h b : Nat → Int) (l : List (RingId × Nat)) :
    ∀ {s : State}, (∀ k, (s.therm (.field k)).band < 4) → l.Pairwise (fun x y => ringKey x.1 ≠ ringKey y.1) →
    ∀ x ∈ l, (each l (fun x s => s.correctRing x.1 (h x.2) (b x.2)) s).ringAt x.1 = s.corrected x.1 (h x.2) (b x.2) := by
  induction l with
  | nil => exact fun _ _ => nofun
  | cons a l ih =>
    intro s hb hne x hx
    obtain ⟨ha, hl⟩ := List.pairwise_cons.1 hne
    rw [each_cons]
    rcases List.mem_cons.1 hx with rfl | hin
    · refine each_inv_mem (fun u => u.ringAt x.1 = s.corrected x.1 (h x.2) (b x.2)) l ?_ fun y hy u hu => ?_
      · rw [correctRing_ringAt, if_pos rfl]
      · rw [correctRing_ringAt, if_neg (ha y hy), hu]
    · rw [ih (fun k => by rw [(correctRing_only _ _ _ _).therm]; exact hb k) hl x hin, correctRing_corrected hb _ _ _ _ (ha x hin).symm]

/-! ### The rings of a link (R133) -/

theorem txRings_lt {st g : Nat} (hg : g < 64) {q : RingId} (hq : q ∈ txRings st g) : q.grp < 64 ∧ q.lane < 8 := by
  obtain ⟨l, hl, rfl⟩ := List.mem_map.1 hq
  exact ⟨hg, List.mem_range.1 hl⟩

/-- The rings of a link are sixteen different ones. -/
theorem linkRings_pairwise {wst wlg st rg : Nat} (hg : wlg < 64) (hrg : rg < 64) :
    (txRings wst wlg ++ rxRings st rg).zipIdx.Pairwise fun x y => ringKey x.1 ≠ ringKey y.1 := by
  have htx : (txRings wst wlg).Nodup := List.nodup_range.map fun a b h => congrArg RingId.lane h
  have hrx : (rxRings st rg).Nodup := List.nodup_range.map fun a b h => congrArg RingId.lane h
  have hdisjoint : (txRings wst wlg).Disjoint (rxRings st rg) := by
    intro q hq hq'
    obtain ⟨l, -, rfl⟩ := List.mem_map.1 hq
    obtain ⟨m, -, h⟩ := List.mem_map.1 hq'
    cases congrArg RingId.kind h
  have hlt : ∀ q ∈ txRings wst wlg ++ rxRings st rg, q.grp < 64 ∧ q.lane < 8 := fun q hq =>
    (List.mem_append.1 hq).elim (txRings_lt hg) (rxRings_lt hrg)
  have hkeys : ((txRings wst wlg ++ rxRings st rg).map ringKey).Nodup :=
    (htx.append hrx hdisjoint).map_on fun q hq r hr h => ringKey_inj (hlt q hq) (hlt r hr) h
  rw [← List.zipIdx_map_fst 0 (txRings wst wlg ++ rxRings st rg), List.map_map] at hkeys
  exact List.pairwise_map.1 hkeys

/-- The writer's rings come first among the rings of a link, then the reader's. -/
theorem mem_linkRings {wst wlg st rg l : Nat} (hl : l < 8) :
    (⟨wst, .modulator, wlg, l⟩, l) ∈ (txRings wst wlg ++ rxRings st rg).zipIdx ∧
    (⟨st, .selector, rg, l⟩, 8 + l) ∈ (txRings wst wlg ++ rxRings st rg).zipIdx := by
  have htx : (txRings wst wlg).length = 8 := by simp [txRings]
  rw [List.mk_mem_zipIdx_iff_getElem?, List.mk_mem_zipIdx_iff_getElem?, List.getElem?_append_left (by omega),
    List.getElem?_append_right (by omega), htx, Nat.add_sub_cancel_left]
  simp [txRings, rxRings, hl]

end Sys2Proof.Machine
end

section
/-! SUPPORT. Calibrations and warm-up (04): a calibration begins and is recorded, and a field that is warm lets its rings acquire. -/

namespace Sys2Proof.Machine

open Sys2Proof Sys2Proof.Safety

/-! ### CALIBRATION_START and HEATER_TABLE_WRITEBACK (R133, R134, R136, R144) -/

theorem exec_calibrationStart {s : State} {st rg cause : Nat} (hup : s.stUp st = true) (hrx : isRx st rg = true)
    (hv : (s.rxg st rg).valid = true) (hl : (s.rxg st rg).state = .locked) (hb : (s.rxg st rg).calBusy = false)
    (hn : s.calsRunning st < 8) (hc : s.calCauseHolds st rg cause = true) (hf : s.calFirst st rg = false) :
    exec (.calibrationStart st rg cause) s
      = .next (s.modRx st rg fun r => { r with calBusy := true, calNow := cause, calDue := [] }) := by
  have hready : s.calReady st rg = true := by simp [State.calReady, hrx, hv, hl, hb]
  show execCalibrationStart st rg cause s = _
  simp only [execCalibrationStart, hup, hready, hn, hc, hf, decide_true, Bool.and_self, Bool.not_false, act_true]

theorem exec_heaterTableWriteback {s : State} (hw : s.warden.serving = true) (hr : s.warden.tablesRefined = true)
    (ha : s.warden.tablesAt = none) :
    exec .heaterTableWriteback s
      = .next (({ s with warden := { s.warden with tablesRefined := false, tablesAt := some s.now } } : State).markArea
          areaCalibration) := by
  show execHeaterTableWriteback s = _
  simp only [execHeaterTableWriteback, hw, hr, ha, Bool.and_self, act_true]

/-! ### Both sides of a link take the correction (R135, R137, R144) -/

/-- The rings of a link after a calibration. -/
def State.ringsCorrected (s : State) (st rg : Nat) (r : CalResult) : State :=
  each (txRings (s.rxg st rg).wst (s.rxg st rg).wlg ++ rxRings st rg).zipIdx
    (fun x s => s.correctRing x.1 (r.heater.getD x.2 0) (r.bias.getD x.2 0)) s

theorem each_correctRing_only (h b : Nat → Int) (l : List (RingId × Nat)) (s : State) :
    RingsOnly s (each l (fun x s => s.correctRing x.1 (h x.2) (b x.2)) s) :=
  each_rel RingsOnly.refl RingsOnly.trans l (fun x u => correctRing_only u x.1 (h x.2) (b x.2)) s

theorem ringsCorrected_only (s : State) (st rg : Nat) (r : CalResult) : RingsOnly s (s.ringsCorrected st rg r) := by
  unfold State.ringsCorrected
  exact each_correctRing_only (fun i => r.heater.getD i 0) (fun i => r.bias.getD i 0) _ s

theorem correctRing_state (s : State) (q x : RingId) (h b : Int) :
    ((s.correctRing x h b).ringAt q).state = (s.ringAt q).state := by
  rw [correctRing_ringAt]
  split
  · next hk =>
    rw [State.ringAt, hk, ← State.ringAt]
    unfold State.corrected
    split <;> rfl
  · rfl

theorem correctRing_refines {s : State} {x : RingId} (h b : Int)
    (hx : s.warden.tablesRefined = true ∨ (s.ringAt x).state = .locked) :
    (s.correctRing x h b).warden.tablesRefined = true := by
  unfold State.correctRing
  split
  · rfl
  · next hl => exact hx.resolve_right hl

/-- Tables wait to be written once a LOCKED ring among some has been corrected (R144). -/
theorem each_correctRing_refined (h b : Nat → Int) (l : List (RingId × Nat)) (s : State) {x : RingId × Nat} (hx : x ∈ l)
    (hl : (s.ringAt x.1).state = .locked) :
    (each l (fun x s => s.correctRing x.1 (h x.2) (b x.2)) s).warden.tablesRefined = true := by
  have hstate : ((each l (fun x s => s.correctRing x.1 (h x.2) (b x.2)) s).ringAt x.1).state = .locked := by
    refine each_inv (fun u => (u.ringAt x.1).state = .locked) l _ hl fun y u hu => ?_
    rw [correctRing_state]
    exact hu
  have hall := each_all (Q := fun x u => (u.ringAt x.1).state = .locked → u.warden.tablesRefined = true)
    (f := fun x s => s.correctRing x.1 (h x.2) (b x.2)) l s (fun y u hy => by
      rw [correctRing_state] at hy
      exact correctRing_refines _ _ (.inr hy)) (fun y z u hu hz => by
      rw [correctRing_state] at hz
      exact correctRing_refines _ _ (.inl (hu hz)))
  exact hall x hx hstate

section
variable {s : State} {st rg : Nat} (r : CalResult)

theorem ringsCorrected_refined (h : ∃ q ∈ rxRings st rg, (s.ringAt q).state = .locked) :
    (s.ringsCorrected st rg r).warden.tablesRefined = true := by
  obtain ⟨q, hq, hl⟩ := h
  obtain ⟨l, hlane, rfl⟩ := List.mem_map.1 hq
  obtain ⟨-, hreader⟩ := mem_linkRings (wst := (s.rxg st rg).wst) (wlg := (s.rxg st rg).wlg) (st := st) (rg := rg)
    (List.mem_range.1 hlane)
  unfold State.ringsCorrected
  exact each_correctRing_refined (fun i => r.heater.getD i 0) (fun i => r.bias.getD i 0) _ s hreader hl

/-- Every ring of a link takes its own correction (R135, R137). -/
theorem ringsCorrected_ringAt (hb : ∀ k, (s.therm (.field k)).band < 4) (hrx : isRx st rg = true)
    (htx : isTx (s.rxg st rg).wst (s.rxg st rg).wlg = true) {x : RingId × Nat}
    (hx : x ∈ (txRings (s.rxg st rg).wst (s.rxg st rg).wlg ++ rxRings st rg).zipIdx) :
    (s.ringsCorrected st rg r).ringAt x.1 = s.corrected x.1 (r.heater.getD x.2 0) (r.bias.getD x.2 0) := by
  unfold State.ringsCorrected
  exact each_correctRing (fun i => r.heater.getD i 0) (fun i => r.bias.getD i 0) _ hb
    (linkRings_pairwise (isTx_lt htx) (isRx_lt hrx)) x hx

end

/-! ### The records of a link (R130, R138, R141) -/

/-- Eyes that are wide enough on lanes that all work mark and return no lane (R138). -/
theorem markEyes_wide {s : State} {st g : Nat} {eyes : List Nat} (hb : (s.txg st g).bad = 0)
    (he : ∀ l < 8, 45 ≤ eyes.getD l 0) : s.markEyes st g eyes = s := by
  unfold State.markEyes
  refine each_inv_mem (fun u => u = s) (List.range 8) rfl fun l hl u hu => ?_
  have hwide := he l (List.mem_range.1 hl)
  rw [hu]
  dsimp only
  rw [if_neg]
  · rw [if_pos hwide, State.clearLane, if_neg]
    simp [hb]
  · simp only [Bool.and_eq_true, decide_eq_true_eq, not_and]
    omega

section
variable {s : State} {st rg : Nat} {r : CalResult}

/-- A calibration that finds every lane wide enough, of a reader that has not left, corrects the rings and is recorded. -/
theorem applyCal_wide (hb : (s.txg (s.rxg st rg).wst (s.rxg st rg).wlg).bad = 0) (he : ∀ l < 8, 45 ≤ r.eyeW.getD l 0)
    (hj : (s.rxg st rg).rejoin = false) :
    s.applyCal st rg r = (s.ringsCorrected st rg r).modRx st rg fun q => { q with
      calBusy := false, calCount := inc 16 q.calCount, calTemp := min 255 (s.readerTemp st rg)
      calWTemp := s.writerTemp st rg, calCause := (s.rxg st rg).calNow, calFt := s.now
      eyeW := (worstEye 0 r.eyeW).1, eyeH := r.eyeH, eyeLane := (worstEye 0 r.eyeW).2 } := by
  have htx : ((s.ringsCorrected st rg r).txg (s.rxg st rg).wst (s.rxg st rg).wlg).bad = 0 := by
    rw [State.txg, (ringsCorrected_only s st rg r).tx]
    exact hb
  have hmark : (s.ringsCorrected st rg r).markEyes (s.rxg st rg).wst (s.rxg st rg).wlg r.eyeW = s.ringsCorrected st rg r :=
    markEyes_wide htx he
  unfold State.applyCal
  dsimp only
  rw [← State.ringsCorrected, hmark, htx, if_neg (by simp [hj])]

theorem exec_calibrationApply (hrx : isRx st rg = true) (hbusy : (s.rxg st rg).calBusy = true) (r : CalResult) :
    exec (.calibrationApply st rg r) s = .next ((s.applyCal st rg r).when s.warden.serving fun s =>
      each (List.range 8) (fun l s => s.readPhoto st rg l (r.photo.getD l 0)) s) := by
  show execCalibrationApply st rg r s = _
  simp only [execCalibrationApply, hrx, hbusy, Bool.and_self, act_true]

/-- A photocurrent that is low where the last one was is kept, and shows no loss (R84, R85). -/
theorem readPhoto_same {l current : Nat}
    (h : Config.isLow 3 (current : Int) = Config.isLow 3 (tget s.light.photo 0 (rxKey st rg * 8 + l) : Nat)) :
    s.readPhoto st rg l current = (s.keepPhoto st rg l current).sampled 5 (rxKey st rg * 8 + l) := by
  have hlight : SameLight s (s.keepPhoto st rg l current) :=
    ⟨rfl, fun _ => rfl, fun _ => rfl, fun _ => rfl, fun _ => rfl, low_tset (fun n : Nat => Config.isLow 3 (n : Int)) h⟩
  exact (hlight.sampled 5 _).seeLoss _

/-- Photocurrents that are low where the last ones were change neither the fabric nor the tables. -/
theorem each_readPhoto (photo : Nat → Nat) (ls : List Nat)
    (h : ∀ l ∈ ls, Config.isLow 3 (photo l : Int) = Config.isLow 3 (tget s.light.photo 0 (rxKey st rg * 8 + l) : Nat)) :
    (each ls (fun l s => s.readPhoto st rg l (photo l)) s).fab = s.fab ∧
    (each ls (fun l s => s.readPhoto st rg l (photo l)) s).warden.tablesRefined = s.warden.tablesRefined := by
  have hall := each_inv_mem (fun u => u.fab = s.fab ∧ u.warden.tablesRefined = s.warden.tablesRefined ∧
      ∀ k, Config.isLow 3 (tget u.light.photo 0 k : Nat) = Config.isLow 3 (tget s.light.photo 0 k : Nat)) ls
    (f := fun l s => s.readPhoto st rg l (photo l)) ⟨rfl, rfl, fun _ => rfl⟩ fun l hl u hu => by
      obtain ⟨hfab, hrefined, hphoto⟩ := hu
      have hlow := (h l hl).trans (hphoto (rxKey st rg * 8 + l)).symm
      rw [readPhoto_same hlow]
      exact ⟨hfab, hrefined, fun k => (low_tset (fun n : Nat => Config.isLow 3 (n : Int)) hlow k).trans (hphoto k)⟩
  exact ⟨hall.1, hall.2.1⟩

/-- CALIBRATION_APPLY, with photocurrents that show no loss: the fabric and the tables as `applyCal` leaves them. -/
theorem calibrationApply_result (hrx : isRx st rg = true) (hbusy : (s.rxg st rg).calBusy = true)
    (hlow : ∀ l < 8, Config.isLow 3 ((r.photo.getD l 0 : Nat) : Int)
      = Config.isLow 3 (tget (s.applyCal st rg r).light.photo 0 (rxKey st rg * 8 + l) : Nat)) :
    ∃ t, exec (.calibrationApply st rg r) s = .next t ∧ t.fab = (s.applyCal st rg r).fab ∧
      t.warden.tablesRefined = (s.applyCal st rg r).warden.tablesRefined := by
  refine ⟨_, exec_calibrationApply hrx hbusy r, ?_⟩
  cases s.warden.serving
  · rw [State.when_false]
    exact ⟨rfl, rfl⟩
  · rw [State.when_true]
    exact each_readPhoto (fun l => r.photo.getD l 0) (List.range 8) fun l hl => hlow l (List.mem_range.1 hl)

end

theorem ringAt_of_fab {s t : State} (h : t.fab = s.fab) (q : RingId) : t.ringAt q = s.ringAt q := by
  simp only [State.ringAt, h]

/-! ### Warm-up ends, or lasts too long (R112, R145) -/

theorem shareReturn_fab (s : State) (k : Nat) : (s.shareReturn k).fab = s.fab := rfl

theorem fieldStarts_fab (s : State) (k : Nat) : (s.fieldStarts k).fab = (s.acquireField k).fab := by
  by_cases h : s.resets.phase = .ready
  · rw [fieldStarts_ready s k h, shareReturn_fab, wakeStacks_stacks (s.acquireField k) k]
  · rw [fieldStarts_not_ready s k h]

theorem acquireField_fab (s : State) (k : Nat) :
    (s.acquireField k).fab = { s.fab with rings := (s.acquireField k).fab.rings } :=
  each_inv (fun u => u.fab = { s.fab with rings := u.fab.rings }) (fieldStations k) _ rfl fun st u hu => by
    rw [setRings_fab, hu]

/-- Rings that are in a state stay in it when others are put there too. -/
theorem setRings_keeps (s : State) (l : List RingId) {x : RingState} {q : RingId} (h : (s.ringAt q).state = x) :
    ((s.setRings l x).ringAt q).state = x := by
  refine each_inv (fun u => (u.ringAt q).state = x) l _ h fun r u hu => ?_
  split
  · next hx => exact ringAt_modRing_state u.draw hx.symm hu
  · exact ringAt_modRing_state u rfl hu

/-- Every ring of the standing groups of a field's stations acquires (R112, R145). -/
theorem acquireField_rings (s : State) {k st g : Nat} (hst : st ∈ fieldStations k) (hg : g < 13) {q : RingId}
    (hq : q ∈ txRings st g ++ rxRings st g) : ((s.acquireField k).ringAt q).state = .acquire := by
  refine each_all (Q := fun st u => ∀ q ∈ (List.range 13).flatMap fun g => txRings st g ++ rxRings st g,
    (u.ringAt q).state = .acquire) (fieldStations k) s (fun a u => setRings_state u _ _)
    (fun a b u hu q hq => setRings_keeps u _ (hu q hq)) st hst q ?_
  exact List.mem_flatMap.2 ⟨g, List.mem_range.2 hg, hq⟩

theorem exec_warmUpEnd_cold {s : State} {k : Nat} (h : s.fieldWarm k = false) : exec (.warmUpEnd k) s = .next s := by
  show execWarmUpEnd k s = _
  simp only [execWarmUpEnd, h, Bool.and_false, act_false]

theorem exec_lockCold {s : State} {k : Nat} (hk : k < 4) (hw : (s.field k).state = .warmup) :
    exec (.lockCold k) s = .next ((s.modField k fun f => { f with cold := true }).sense (ntLockCold k) s) := by
  show execLockCold k s = _
  simp only [execLockCold, hk, hw, decide_true, Bool.and_self, act_true]

/-- The cause of LOCK_COLD (R112, R459). -/
theorem cause_lockCold (s : State) {k : Nat} (hk : k < 4) :
    s.cause (ntLockCold k) = ((s.field k).cold && decide ((s.field k).state = .warmup)) := by
  have h : ntLockCold k - 478 = k := by
    unfold ntLockCold
    omega
  unfold State.cause
  rw [if_neg (by unfold ntLockCold; omega), if_neg (by unfold ntLockCold; omega), if_neg (by unfold ntLockCold; omega),
    if_neg (by unfold ntLockCold; omega), if_neg (by unfold ntLockCold; omega), if_pos (by unfold ntLockCold; omega), h]

/-- A condition whose cause has come about is pending (R460). -/
theorem sense_pend {s1 s0 : State} {src : Nat} (hlt : src < 512) (h1 : s1.cause src = true) (h0 : s0.cause src = false) :
    (s1.sense src s0).notices.pend.getLsbD src = true := by
  simp only [State.sense, h1, h0, Bool.not_false, Bool.true_or, Bool.and_self, if_true, logRise_notices]
  exact latchPend_pend s1 hlt

/-! ### The obligation on ramps, calibrations and warm-up -/

/-- Settles O9: a ramp step by `ramped_bounds`, a calibration by the correction that each ring of its link takes alone. -/
theorem rampsCalibrationAndWarmUp : Obligations.RampsCalibrationAndWarmUp := by
  unfold Obligations.RampsCalibrationAndWarmUp
  refine ⟨?_, ?_, ?_, ?_, ?_, ?_, ?_⟩
  · intro die demand s hd hup
    generalize hu : s.modDiePower die (fun p => p.rampStep demand) = u
    have hdie : u.diePower die = (s.diePower die).rampStep demand := by
      rw [← hu, State.diePower_modDiePower]
    have hthrottle : (u.diePower die).throttle = (s.diePower die).throttle := by
      rw [hdie]
      rfl
    obtain ⟨hup', hdown, hacc⟩ := (s.diePower die).ramped_bounds (min (min demand 255) (s.diePower die).throttle)
    refine ⟨_, hu ▸ exec_rampStep hd hup demand, ?_, ?_, ?_, ?_, fun i hi => ?_, ?_⟩
    · rw [spreadLevel_diePower, hdie]
      exact hup'
    · rw [spreadLevel_diePower, hdie]
      exact hdown
    · rw [spreadLevel_diePower, hdie]
      exact hacc
    · rw [spreadLevel_diePower, hdie]
      rfl
    · rw [spreadLevel_diePower, ← hthrottle]
      exact spreadLevel_core u die hi
    · rw [spreadLevel_frame, ← hu]
      generalize (State.spreadLevel _ die).cores = c
      rfl
  · exact fun st rg cause s hup hrx hv hl hb hn hc hf => exec_calibrationStart hup hrx hv hl hb hn hc hf
  · intro st rg r s hrx hbusy htx hbad heyes hjoin hband hlow
    have hcal := applyCal_wide hbad heyes hjoin
    have honly := ringsCorrected_only s st rg r
    have hlight : (s.applyCal st rg r).light = s.light := by
      rw [hcal, State.modRx_light, honly.light]
    obtain ⟨t, hgo, hfab, hrefined⟩ := calibrationApply_result hrx hbusy (r := r) (by rw [hlight]; exact hlow)
    have hrings : ∀ q, t.ringAt q = (s.ringsCorrected st rg r).ringAt q := fun q => by
      rw [ringAt_of_fab hfab, hcal, ringAt_modRx]
    have hentry : t.rxg st rg = { s.rxg st rg with
        calBusy := false, calCount := inc 16 (s.rxg st rg).calCount, calTemp := min 255 (s.readerTemp st rg)
        calWTemp := s.writerTemp st rg, calCause := (s.rxg st rg).calNow, calFt := s.now
        eyeW := (worstEye 0 r.eyeW).1, eyeH := r.eyeH, eyeLane := (worstEye 0 r.eyeW).2 } := by
      have hrxg : (s.ringsCorrected st rg r).rxg st rg = s.rxg st rg := by
        rw [State.rxg, honly.rx]
        rfl
      rw [rxg_of_fab hfab, hcal, State.rxg_modRx, hrxg]
    refine ⟨t, hgo, fun l hl q hq => ?_, ?_⟩
    · rw [hrings]
      obtain ⟨hwriter, hreader⟩ := mem_linkRings (wst := (s.rxg st rg).wst) (wlg := (s.rxg st rg).wlg) (st := st) (rg := rg) hl
      simp only [List.mem_cons, List.not_mem_nil, or_false] at hq
      rcases hq with rfl | rfl
      · exact ringsCorrected_ringAt r hband hrx htx hwriter
      · exact ringsCorrected_ringAt r hband hrx htx hreader
    · rw [hentry]
      refine ⟨rfl, rfl, rfl, rfl, rfl, rfl, fun h => ?_, ?_⟩
      · rw [hrefined, hcal, State.modRx_warden]
        exact ringsCorrected_refined r h
      · rw [hfab, hcal, State.modRx_fab_tx, honly.tx]
  · exact fun s hw hr ha => exec_heaterTableWriteback hw hr ha
  · intro k s hk hw hwarm
    obtain ⟨hfield, -⟩ := fieldStarts_sensed s k (ntLockCold k) fun f => { f with state := .enabling, cold := false }
    have hfab : (((s.modField k fun f => { f with state := .enabling, cold := false }).fieldStarts k).sense
        (ntLockCold k) s).fab = ((s.modField k fun f => { f with state := .enabling, cold := false }).acquireField k).fab :=
      (sense_same _ _ s).fab.trans (fieldStarts_fab _ k)
    refine ⟨_, exec_warmUpEnd_warm hk hw hwarm, ?_, ?_, fun st hst g hg l hl => ⟨?_, ?_⟩, ?_, ?_⟩
    · exact congrArg FieldUnit.state hfield
    · exact congrArg FieldUnit.cold hfield
    · rw [State.ringAt, hfab, ← State.ringAt]
      exact acquireField_rings _ hst hg (List.mem_append_left _ (List.mem_map.2 ⟨l, List.mem_range.2 hl, rfl⟩))
    · rw [State.ringAt, hfab, ← State.ringAt]
      exact acquireField_rings _ hst hg (List.mem_append_right _ (List.mem_map.2 ⟨l, List.mem_range.2 hl, rfl⟩))
    · rw [hfab, acquireField_fab]
      rfl
    · rw [hfab, acquireField_fab]
      rfl
  · exact fun k s _ hcold => exec_warmUpEnd_cold hcold
  · intro k s hk hw hc
    refine ⟨_, exec_lockCold hk hw, sense_same _ _ s, sense_pend (by unfold ntLockCold; omega) ?_ ?_⟩
    · rw [cause_lockCold _ hk, State.field_modField]
      simp [hw]
    · rw [cause_lockCold _ hk, hc, Bool.false_and]

end Sys2Proof.Machine
end

section
/-! SUPPORT. Temperatures (04, 15): levels and their thresholds, the sensors of a location, and what a level does to dies. -/

namespace Sys2Proof.Machine

open Sys2Proof Sys2Proof.Safety

/-! ### Levels (R511) -/

/-- Throttle is entered at its threshold, and left 5 degrees, ten half degrees, below it. -/
theorem thermLevel_two_iff (loc : ThermLoc) (was t : Nat) :
    thermLevel loc was t = 2 ↔ (thresholds loc).2.1 ≤ t ∨ (2 ≤ was ∧ (thresholds loc).2.1 < t + 10) := by
  unfold thermLevel
  extract_lets w h
  split
  · next hc => exact iff_of_true rfl hc
  · next hc =>
    refine iff_of_false ?_ hc
    split <;> decide

theorem thermLevel_le (loc : ThermLoc) (was t : Nat) : thermLevel loc was t ≤ 2 := by
  unfold thermLevel
  extract_lets w h
  split
  · exact le_rfl
  · split <;> decide

/-- Warning, or more, is entered at the threshold of Warning and left ten half degrees below it. -/
theorem one_le_thermLevel_iff (loc : ThermLoc) (was t : Nat) :
    1 ≤ thermLevel loc was t ↔ thermLevel loc was t = 2 ∨ (thresholds loc).1 ≤ t ∨ (1 ≤ was ∧ (thresholds loc).1 < t + 10) := by
  unfold thermLevel
  extract_lets w h
  split
  · exact iff_of_true (by decide) (.inl rfl)
  · split
    · next hc => exact iff_of_true le_rfl (.inr hc)
    · next hc => exact iff_of_false (by decide) fun h => h.elim (by decide) hc

theorem thermLevel_lt_two_iff (loc : ThermLoc) (was t : Nat) : thermLevel loc was t < 2 ↔ thermLevel loc was t ≠ 2 := by
  have := thermLevel_le loc was t
  omega

/-- A location at its threshold of Throttle throttles; ten half degrees below it does so no more. -/
theorem thermLevel_throttles {loc : ThermLoc} {was t : Nat} (h : (thresholds loc).2.1 ≤ t) : 2 ≤ thermLevel loc was t :=
  ((thermLevel_two_iff loc was t).2 (.inl h)).ge

theorem thermLevel_cools {loc : ThermLoc} {was t : Nat} (h : t + 10 ≤ (thresholds loc).2.1) : thermLevel loc was t < 2 := by
  rw [thermLevel_lt_two_iff, ne_eq, thermLevel_two_iff]
  omega

/-! ### Throttle levels of dies (R128, R512) -/

/-- Only what the dies are permitted, and what of it stands in their cores, is changed. -/
def DiesOnly (s t : State) : Prop := t = { s with power := { s.power with dies := t.power.dies }, cores := t.cores }

theorem DiesOnly.refl (s : State) : DiesOnly s s := rfl

theorem DiesOnly.trans {s t u : State} (h : DiesOnly s t) (k : DiesOnly t u) : DiesOnly s u := by
  unfold DiesOnly at *
  rw [k, h]

theorem DiesOnly.fab {s t : State} (h : DiesOnly s t) : t.fab = s.fab := by rw [h]
theorem DiesOnly.mem {s t : State} (h : DiesOnly s t) : t.mem = s.mem := by rw [h]
theorem DiesOnly.bridge {s t : State} (h : DiesOnly s t) : t.bridge = s.bridge := by rw [h]
theorem DiesOnly.sensors {s t : State} (h : DiesOnly s t) : t.power.sensors = s.power.sensors := by rw [h]
theorem DiesOnly.cd {s t : State} (h : DiesOnly s t) (n : Nat) : t.therm (.cd n) = s.therm (.cd n) := by
  rw [h]
  rfl
theorem DiesOnly.field {s t : State} (h : DiesOnly s t) (k : Nat) : t.therm (.field k) = s.therm (.field k) := by
  rw [h]
  rfl

theorem modDiePower_only (s : State) (d : Nat) (f : DiePower → DiePower) : DiesOnly s (s.modDiePower d f) := rfl

theorem spreadLevel_only (s : State) (d : Nat) : DiesOnly s (s.spreadLevel d) := by
  unfold DiesOnly
  rw [spreadLevel_power]
  exact spreadLevel_frame s d

/-- A die's record after a cut: the level falls with the throttle level at once, and its ballast ends (R128). -/
def DiePower.cut (p q : DiePower) : DiePower :=
  { q with level := min p.level q.throttle, ballast := p.ballast && decide (p.level ≤ q.throttle) }

theorem cutDie_eq (s : State) (d : Nat) (f : DiePower → DiePower) :
    s.cutDie d f = (s.modDiePower d fun p => p.cut (f p)).spreadLevel d := rfl

theorem cutDie_only (s : State) (d : Nat) (f : DiePower → DiePower) : DiesOnly s (s.cutDie d f) := by
  rw [cutDie_eq]
  exact (modDiePower_only s d _).trans (spreadLevel_only _ d)

theorem cutDie_diePower (s : State) (d : Nat) (f : DiePower → DiePower) :
    (s.cutDie d f).diePower d = (s.diePower d).cut (f (s.diePower d)) := by
  rw [cutDie_eq, spreadLevel_diePower, State.diePower_modDiePower]

theorem cutDie_diePower_ne (s : State) {d i : Nat} (f : DiePower → DiePower) (h : i ≠ d) :
    (s.cutDie d f).diePower i = s.diePower i := by
  rw [cutDie_eq, spreadLevel_diePower, State.diePower_modDiePower_ne _ _ h]

theorem DiePower.cut_throttle (p q : DiePower) : (p.cut q).throttle = q.throttle := rfl

/-- What a cut die issues is within its throttle level, which stands in its cores (R128, R506). -/
theorem cutDie_bounds (s : State) (d : Nat) (f : DiePower → DiePower) :
    ((s.cutDie d f).diePower d).level ≤ ((s.cutDie d f).diePower d).throttle ∧
    ∀ i < 8, ((s.cutDie d f).core (8 * d + i)).throttle = ((s.cutDie d f).diePower d).throttle := by
  refine ⟨?_, fun i hi => ?_⟩
  · rw [cutDie_diePower, DiePower.cut_throttle]
    exact min_le_right ..
  · rw [cutDie_eq, spreadLevel_diePower]
    exact (spreadLevel_core _ d hi).1

/-! ### A location enters or leaves Throttle (R512) -/

/-- The throttle level of a die whose location enters Throttle. -/
def DiePower.heat (p : DiePower) : DiePower := { p with thermal := min p.thermal 128 }

section
variable (s : State) {was now : Nat}

theorem throttleChange_stands (loc : ThermLoc) : s.throttleChange loc was was = s := by
  unfold State.throttleChange
  rw [if_neg (by omega), if_neg (by omega)]

theorem throttleChange_cd_rises (n : Nat) (hw : was < 2) (hn : 2 ≤ now) :
    s.throttleChange (.cd n) was now = s.cutDie n DiePower.heat := by
  unfold State.throttleChange
  rw [if_pos ⟨hw, hn⟩]
  simp only [throttledDies, each_cons, each_nil]
  rfl

theorem throttleChange_field_rises (k : Nat) (hw : was < 2) (hn : 2 ≤ now) :
    s.throttleChange (.field k) was now = (s.cutDie (2 * k) DiePower.heat).cutDie (2 * k + 1) DiePower.heat := by
  unfold State.throttleChange
  rw [if_pos ⟨hw, hn⟩]
  simp only [throttledDies, each_cons, each_nil]
  rfl

/-- A die whose location leaves Throttle, and that nothing else throttles, is throttled no more. -/
theorem throttleChange_cd_falls {n : Nat} (hw : 2 ≤ was) (hn : now < 2) (hcool : s.dieHot n = false) :
    s.throttleChange (.cd n) was now = (s.modDiePower n fun p => { p with thermal := 255 }).spreadLevel n := by
  have hdies : (throttledDies (.cd n)).filter (fun d => !s.dieHot d) = [n] := by simp [throttledDies, hcool]
  unfold State.throttleChange
  rw [if_neg (by omega), if_pos ⟨hw, hn⟩]
  dsimp only
  rw [hdies, each_cons, each_nil]

theorem throttleChange_kd (n : Nat) : s.throttleChange (.kd n) was now =
    if was < 2 ∧ 2 ≤ now then s.modKd n fun k => { k with rate := 2 }
    else if 2 ≤ was ∧ now < 2 then s.modKd n fun k => { k with rate := 1 } else s := rfl

theorem throttleChange_hbm (h : Nat) : s.throttleChange (.hbm h) was now = s := by
  unfold State.throttleChange
  split
  · rfl
  · split <;> rfl

theorem each_heat_only (l : List Nat) : DiesOnly s (each l (fun d s => s.cutDie d DiePower.heat) s) :=
  each_rel DiesOnly.refl DiesOnly.trans l (fun d u => cutDie_only u d DiePower.heat) s

theorem each_cool_only (l : List Nat) :
    DiesOnly s (each l (fun d s => (s.modDiePower d fun p => { p with thermal := 255 }).spreadLevel d) s) :=
  each_rel DiesOnly.refl DiesOnly.trans l (fun d u => (modDiePower_only u d _).trans (spreadLevel_only _ d)) s

theorem throttleChange_cd_only (n : Nat) : DiesOnly s (s.throttleChange (.cd n) was now) := by
  unfold State.throttleChange
  split
  · exact each_heat_only s _
  · split
    · exact each_cool_only s _
    · exact .refl s

theorem throttleChange_field_only (k : Nat) : DiesOnly s (s.throttleChange (.field k) was now) := by
  unfold State.throttleChange
  split
  · exact each_heat_only s _
  · split
    · exact each_cool_only s _
    · exact .refl s

end

/-! ### The sensors of a location are read (R113, R511, R559) -/

/-- The highest of a location's readings, in the eight bits that it is kept in (R113). -/
def highest (loc : ThermLoc) (readings : List Nat) : Nat := min 255 ((readings.take (sensorCount loc)).foldl max 0)

/-- Sensors from a number on with their readings. -/
def State.sensorsRead (s : State) (first n : Nat) (readings : List Nat) : State :=
  each (List.range n) (fun i s => ({ s with power := { s.power with
    sensors := tset s.power.sensors 0 (first + i) (min 255 (readings.getD i 0)) } } : State).sampled 0 (first + i)) s

/-- Only what temperatures read is changed. -/
def ThermOnly (s t : State) : Prop := t = { s with
  power := { s.power with sensors := t.power.sensors, cd := t.power.cd, kd := t.power.kd, field := t.power.field }
  warden := { s.warden with sampleFt := t.warden.sampleFt } }

theorem ThermOnly.refl (s : State) : ThermOnly s s := rfl

theorem ThermOnly.trans {s t u : State} (h : ThermOnly s t) (k : ThermOnly t u) : ThermOnly s u := by
  unfold ThermOnly at *
  rw [k, h]

theorem ThermOnly.fab {s t : State} (h : ThermOnly s t) : t.fab = s.fab := by rw [h]
theorem ThermOnly.mem {s t : State} (h : ThermOnly s t) : t.mem = s.mem := by rw [h]
theorem ThermOnly.bridge {s t : State} (h : ThermOnly s t) : t.bridge = s.bridge := by rw [h]
theorem ThermOnly.cores {s t : State} (h : ThermOnly s t) : t.cores = s.cores := by rw [h]
theorem ThermOnly.dies {s t : State} (h : ThermOnly s t) : t.power.dies = s.power.dies := by rw [h]
theorem ThermOnly.diePower {s t : State} (h : ThermOnly s t) (d : Nat) : t.diePower d = s.diePower d := by
  rw [State.diePower, h.dies]
  rfl

section
variable (s : State) (first n : Nat) (readings : List Nat)

theorem sensorsRead_only : ThermOnly s (s.sensorsRead first n readings) := by
  unfold State.sensorsRead
  exact each_rel (R := ThermOnly) ThermOnly.refl ThermOnly.trans (List.range n) (fun _ _ => by exact rfl) s

theorem sensorsRead_therm (loc : ThermLoc) : (s.sensorsRead first n readings).therm loc = s.therm loc := by
  unfold State.sensorsRead
  refine each_inv (fun u => u.therm loc = s.therm loc) (List.range n) _ rfl fun i u hu => ?_
  rw [← hu]
  cases loc <;> rfl

theorem sensorsRead_sensors {i : Nat} (hi : i < n) :
    tget (s.sensorsRead first n readings).power.sensors 0 (first + i) = min 255 (readings.getD i 0) := by
  unfold State.sensorsRead
  refine each_all (Q := fun i u => tget u.power.sensors 0 (first + i) = min 255 (readings.getD i 0)) (List.range n) s
    (fun a u => ?_) (fun a b u hu => ?_) i (List.mem_range.2 hi)
  · exact tget_tset_self ..
  · exact tget_tset_row (v := fun i => min 255 (readings.getD i 0)) hu a

end

/-- A location's record after a sample: the reading, the level that it gives, and the highest reading so far (R511, R518). -/
def Therm.read (x : Therm) (loc : ThermLoc) (t : Nat) : Therm :=
  { x with temp := t, level := thermLevel loc x.level t, peak := max x.peak t }

/-- The level that a sample gives a location (R511). -/
def State.newLevel (s : State) (loc : ThermLoc) (readings : List Nat) : Nat :=
  thermLevel loc (s.therm loc).level (highest loc readings)

/-- The state with a location's sensors read and its record brought up to date (R113, R511). -/
def State.measured (s : State) (loc : ThermLoc) (readings : List Nat) : State :=
  (s.keepSensors loc readings).modTherm loc fun x => { x with
    temp := highest loc readings, level := s.newLevel loc readings, peak := max x.peak (highest loc readings) }

/-- TEMPERATURE_SAMPLE up to its notices: the location is measured, and its dies follow (R511, R512). -/
def State.throttled (s : State) (loc : ThermLoc) (readings : List Nat) : State :=
  (s.measured loc readings).throttleChange loc (s.therm loc).level (s.newLevel loc readings)

section
variable {s : State} {loc : ThermLoc} (hloc : ∀ h, loc ≠ .hbm h)
include hloc

theorem keepSensors_eq (readings : List Nat) :
    s.keepSensors loc readings = s.sensorsRead (firstSensor loc) (sensorCount loc) readings := by
  cases loc with
  | hbm h => exact absurd rfl (hloc h)
  | cd n => rfl
  | kd n => rfl
  | field k => rfl

theorem modTherm_only (f : Therm → Therm) : ThermOnly s (s.modTherm loc f) := by
  cases loc with
  | hbm h => exact absurd rfl (hloc h)
  | cd n => exact rfl
  | kd n => exact rfl
  | field k => exact rfl

theorem therm_modTherm (f : Therm → Therm) : (s.modTherm loc f).therm loc = f (s.therm loc) := by
  cases loc with
  | hbm h => exact absurd rfl (hloc h)
  | cd n => exact tget_tmod_self (β := Therm) ..
  | kd n => exact tget_tmod_self (β := Therm) ..
  | field k => exact tget_tmod_self (β := Therm) ..

theorem modTherm_sensors (f : Therm → Therm) : (s.modTherm loc f).power.sensors = s.power.sensors := by
  cases loc with
  | hbm h => exact absurd rfl (hloc h)
  | cd n => rfl
  | kd n => rfl
  | field k => rfl

theorem measured_only (readings : List Nat) : ThermOnly s (s.measured loc readings) := by
  unfold State.measured
  rw [keepSensors_eq hloc]
  exact (sensorsRead_only ..).trans (modTherm_only hloc _)

theorem measured_therm (readings : List Nat) :
    (s.measured loc readings).therm loc = (s.therm loc).read loc (highest loc readings) := by
  unfold State.measured
  rw [therm_modTherm hloc, keepSensors_eq hloc, sensorsRead_therm]
  rfl

theorem measured_sensors (readings : List Nat) {i : Nat} (hi : i < sensorCount loc) :
    tget (s.measured loc readings).power.sensors 0 (firstSensor loc + i) = min 255 (readings.getD i 0) := by
  unfold State.measured
  rw [modTherm_sensors hloc, keepSensors_eq hloc]
  exact sensorsRead_sensors s _ _ readings hi

end

/-- A compute die's sample leaves the record of every field. -/
theorem measured_cd_field (s : State) (n : Nat) (readings : List Nat) (k : Nat) :
    (s.measured (.cd n) readings).therm (.field k) = s.therm (.field k) := by
  have h : ∀ (u : State) (f : Therm → Therm), (u.modTherm (.cd n) f).therm (.field k) = u.therm (.field k) := fun _ _ => rfl
  unfold State.measured
  rw [h, keepSensors_eq (by nofun), sensorsRead_therm]

end Sys2Proof.Machine
end

section
/-! SUPPORT. TEMPERATURE_SAMPLE and THERMAL_THROTTLE_STEP by location, and a field that changes band (15). -/

namespace Sys2Proof.Machine

open Sys2Proof Sys2Proof.Safety

/-! ### TEMPERATURE_SAMPLE of a die and of a cache die (R511, R512) -/

theorem exec_temperatureSample_cd {n : Nat} (hn : n < 8) (readings : List Nat) (s : State) :
    exec (.temperatureSample (.cd n) readings) s = .next ((s.throttled (.cd n) readings).sense (ntThermDie n) s) := by
  show execTemperatureSample (.cd n) readings s = _
  simp only [execTemperatureSample, thermOk, hn, decide_true, act_true]
  rfl

theorem exec_temperatureSample_kd {n : Nat} (hn : n < 8) (readings : List Nat) (s : State) :
    exec (.temperatureSample (.kd n) readings) s = .next ((s.throttled (.kd n) readings).sense (ntThermDie n) s) := by
  show execTemperatureSample (.kd n) readings s = _
  simp only [execTemperatureSample, thermOk, hn, decide_true, act_true]
  rfl

theorem therm_of_same {s t : State} (h : SameButSignals s t) (loc : ThermLoc) : t.therm loc = s.therm loc := by
  cases loc with
  | hbm i =>
    have hm : t.hbm i = s.hbm i := by simp only [State.hbm, h.mem]
    simp only [State.therm, hm]
  | cd n => simp only [State.therm, h.power]
  | kd n => simp only [State.therm, h.power]
  | field k => simp only [State.therm, h.power]

theorem diePower_of_same {s t : State} (h : SameButSignals s t) (d : Nat) : t.diePower d = s.diePower d := by
  simp only [State.diePower, h.power]

theorem core_of_same {s t : State} (h : SameButSignals s t) (c : Nat) : t.core c = s.core c := by
  simp only [State.core, h.cores]

section
variable (s : State) (n : Nat) (readings : List Nat)

theorem throttled_cd_only : DiesOnly (s.measured (.cd n) readings) (s.throttled (.cd n) readings) :=
  throttleChange_cd_only _ n

/-- A die that reaches Throttle is throttled at once, and its cores with it (R128, R512). -/
theorem throttled_cd_rises {s : State} {readings : List Nat} (hw : (s.therm (.cd n)).level < 2)
    (hn : 2 ≤ s.newLevel (.cd n) readings) :
    ((s.throttled (.cd n) readings).diePower n).thermal = min (s.diePower n).thermal 128 ∧
    ((s.throttled (.cd n) readings).diePower n).level ≤ ((s.throttled (.cd n) readings).diePower n).throttle ∧
    ∀ i < 8, ((s.throttled (.cd n) readings).core (8 * n + i)).throttle
      = ((s.throttled (.cd n) readings).diePower n).throttle := by
  have hcut : s.throttled (.cd n) readings = (s.measured (.cd n) readings).cutDie n DiePower.heat :=
    throttleChange_cd_rises _ n hw hn
  rw [hcut]
  refine ⟨?_, cutDie_bounds _ n _⟩
  rw [cutDie_diePower, (measured_only (by nofun) readings).diePower]
  rfl

/-- A die that leaves Throttle while its field is below it is throttled no more (R512). -/
theorem throttled_cd_falls {s : State} {readings : List Nat} (hw : 2 ≤ (s.therm (.cd n)).level)
    (hn : s.newLevel (.cd n) readings < 2) (hf : (s.therm (.field (n / 2))).level < 2) :
    ((s.throttled (.cd n) readings).diePower n).thermal = 255 := by
  have hlevel : ((s.measured (.cd n) readings).therm (.cd n)).level = s.newLevel (.cd n) readings := by
    rw [measured_therm (by nofun)]
    rfl
  have hcool : (s.measured (.cd n) readings).dieHot n = false := by
    simp only [State.dieHot, hlevel, measured_cd_field, Bool.or_eq_false_iff, decide_eq_false_iff_not]
    omega
  have hopen : s.throttled (.cd n) readings
      = ((s.measured (.cd n) readings).modDiePower n fun p => { p with thermal := 255 }).spreadLevel n :=
    throttleChange_cd_falls _ hw hn hcool
  rw [hopen, spreadLevel_diePower, State.diePower_modDiePower]

theorem throttled_stands {s : State} {loc : ThermLoc} {readings : List Nat}
    (h : s.newLevel loc readings = (s.therm loc).level) : s.throttled loc readings = s.measured loc readings := by
  unfold State.throttled
  rw [h, throttleChange_stands]

/-- A cache die's sample changes what temperatures read, and the rate of its coils by its Throttle alone (R512). -/
theorem throttled_kd : s.throttled (.kd n) readings =
    if (s.therm (.kd n)).level < 2 ∧ 2 ≤ s.newLevel (.kd n) readings then
      (s.measured (.kd n) readings).modKd n fun k => { k with rate := 2 }
    else if 2 ≤ (s.therm (.kd n)).level ∧ s.newLevel (.kd n) readings < 2 then
      (s.measured (.kd n) readings).modKd n fun k => { k with rate := 1 }
    else s.measured (.kd n) readings := throttleChange_kd _ n

theorem throttled_kd_frame : (s.throttled (.kd n) readings).therm (.kd n) = (s.measured (.kd n) readings).therm (.kd n) ∧
    (s.throttled (.kd n) readings).power.dies = s.power.dies ∧ (s.throttled (.kd n) readings).cores = s.cores := by
  have honly : ThermOnly s (s.measured (.kd n) readings) := measured_only (by nofun) readings
  rw [throttled_kd, ← honly.dies, ← honly.cores]
  generalize s.measured (.kd n) readings = u
  split
  · exact ⟨rfl, rfl, rfl⟩
  · split <;> exact ⟨rfl, rfl, rfl⟩

end

/-! ### TEMPERATURE_SAMPLE of a field (R132, R512, R516, R517) -/

theorem exec_temperatureSample_field {k : Nat} (hk : k < 4) (readings : List Nat) (s : State) :
    exec (.temperatureSample (.field k) readings) s = .next (let t := (s.throttled (.field k) readings).sense (ntThermField k) s
      let band := bandOf (s.therm (.field k)).band (highest (.field k) readings)
      if band = (s.therm (.field k)).band then t else t.bandChange k band) := by
  show execTemperatureSample (.field k) readings s = _
  simp only [execTemperatureSample, thermOk, hk, decide_true, act_true]
  rfl

/-- A field that reaches Throttle throttles both its dies (R512). -/
theorem throttled_field_rises {s : State} {k : Nat} {readings : List Nat} (hw : (s.therm (.field k)).level < 2)
    (hn : 2 ≤ s.newLevel (.field k) readings) {d : Nat} (hd : d / 2 = k) :
    ((s.throttled (.field k) readings).diePower d).thermal = min (s.diePower d).thermal 128 := by
  have hcut : s.throttled (.field k) readings
      = ((s.measured (.field k) readings).cutDie (2 * k) DiePower.heat).cutDie (2 * k + 1) DiePower.heat :=
    throttleChange_field_rises _ k hw hn
  rw [hcut, ← (measured_only (s := s) (loc := .field k) (by nofun) readings).diePower]
  rcases (by omega : d = 2 * k ∨ d = 2 * k + 1) with rfl | rfl
  · rw [cutDie_diePower_ne _ _ (by omega), cutDie_diePower]
    rfl
  · rw [cutDie_diePower, cutDie_diePower_ne _ _ (by omega)]
    rfl

/-- Links come due for a change of band, those under calibration from the start (R132, R517). -/
def State.linksDue (s : State) (l : List (Nat × Nat)) : State :=
  each l (fun l s => s.modRx l.1 l.2 fun r => { r with calBusy := false }.due 5 s.now) s

theorem linksDue_cals (s : State) {l : List (Nat × Nat)} (hlt : ∀ x ∈ l, x.2 < 64) : CalsOnly s (s.linksDue l) := by
  unfold State.linksDue
  refine each_cals l (fun x hx u => ?_) s
  exact modRx_cals u (hlt x hx) fun y => RxGroup.due_sameReader _ _ _

theorem linksDue_due (s : State) {l : List (Nat × Nat)} (hlt : ∀ x ∈ l, x.2 < 64) {x : Nat × Nat} (hx : x ∈ l) :
    ((s.linksDue l).rxg x.1 x.2).calBusy = false ∧ ∃ e ∈ ((s.linksDue l).rxg x.1 x.2).calDue, e.1 = 5 := by
  have hone : ∀ (r : RxGroup) (now : W64), (RxGroup.due { r with calBusy := false } 5 now).calBusy = false ∧
      ∃ e ∈ (RxGroup.due { r with calBusy := false } 5 now).calDue, e.1 = 5 := by
    intro r now
    refine ⟨?_, RxGroup.due_mem _ _ _⟩
    rw [RxGroup.due_eq]
  unfold State.linksDue
  refine each_all_mem (Q := fun x u => (u.rxg x.1 x.2).calBusy = false ∧ ∃ e ∈ (u.rxg x.1 x.2).calDue, e.1 = 5) l s
    (fun a _ u => ?_) (fun a ha b hb u hu => ?_) x hx
  · rw [State.rxg_modRx]
    exact hone _ _
  · by_cases hab : b = a
    · rw [hab, State.rxg_modRx]
      exact hone _ _
    · rw [State.rxg_modRx_ne u _ (rxKey_ne (hlt a ha) (hlt b hb) hab)]
      exact hu

/-- The LOCKED rings of a field's stations go on from the heater codes they have (R143). -/
def State.fieldRebased (s : State) (k : Nat) : State :=
  each (fieldStations k) (fun st s => each (stationRings st) (fun r s => s.rebase r) s) s

theorem rebase_only (s : State) (r : RingId) : RingsOnly s (s.rebase r) := rfl

theorem fieldRebased_only (s : State) (k : Nat) : RingsOnly s (s.fieldRebased k) := by
  unfold State.fieldRebased
  refine each_rel (R := RingsOnly) RingsOnly.refl RingsOnly.trans (fieldStations k) (fun st u => ?_) s
  exact each_rel (R := RingsOnly) RingsOnly.refl RingsOnly.trans (stationRings st) (fun r w => rebase_only w r) u

theorem fieldLinks_lt {s : State} {k : Nat} : ∀ x ∈ s.fieldLinks k, x.2 < 64 := by
  intro x hx
  simp only [State.fieldLinks, List.mem_flatMap, List.mem_map, List.mem_filter, List.mem_range] at hx
  obtain ⟨st, -, rg, ⟨hrg, -⟩, rfl⟩ := hx
  have := numRx_le st
  simp only
  omega

theorem fieldLinks_of_fab {s t : State} (h : t.fab = s.fab) (k : Nat) : t.fieldLinks k = s.fieldLinks k := by
  unfold State.fieldLinks
  rw [rxg_of_fab h]

theorem bandChange_eq (s : State) (k band : Nat) : s.bandChange k band =
    ((s.fieldRebased k).modTherm (.field k) fun x => { x with band := band }).linksDue (s.fieldLinks k) := rfl

theorem RingsOnly.mem {s t : State} (h : RingsOnly s t) : t.mem = s.mem := by rw [h]
theorem RingsOnly.bridge {s t : State} (h : RingsOnly s t) : t.bridge = s.bridge := by rw [h]
theorem CalsOnly.mem {s t : State} (h : CalsOnly s t) : t.mem = s.mem := by rw [h.frame]
theorem CalsOnly.bridge {s t : State} (h : CalsOnly s t) : t.bridge = s.bridge := by rw [h.frame]
theorem CalsOnly.power {s t : State} (h : CalsOnly s t) : t.power = s.power := by rw [h.frame]

/-- A change of band changes rings, links and the field's record alone (R517). -/
theorem bandChange_frame (s : State) (k band : Nat) :
    (s.bandChange k band).therm (.field k) = { s.therm (.field k) with band := band } ∧
    (s.bandChange k band).power.dies = s.power.dies ∧ (s.bandChange k band).power.sensors = s.power.sensors ∧
    (s.bandChange k band).mem = s.mem ∧ (s.bandChange k band).bridge = s.bridge := by
  have hrings := fieldRebased_only s k
  rw [bandChange_eq]
  have hcals := linksDue_cals ((s.fieldRebased k).modTherm (.field k) fun x => { x with band := band })
    (fieldLinks_lt (s := s) (k := k))
  generalize State.linksDue _ _ = u at hcals
  have hloc : ∀ h, ThermLoc.field k ≠ .hbm h := nofun
  have hband := therm_modTherm (s := s.fieldRebased k) hloc fun x => { x with band := band }
  have htherm : ThermOnly (s.fieldRebased k) ((s.fieldRebased k).modTherm (.field k) fun x => { x with band := band }) :=
    modTherm_only hloc _
  have hsensors := modTherm_sensors (s := s.fieldRebased k) hloc fun x => { x with band := band }
  generalize State.modTherm _ _ _ = v at *
  have hu : u.therm (.field k) = v.therm (.field k) := by simp only [State.therm, hcals.power]
  refine ⟨?_, ?_, ?_, ?_, ?_⟩
  · rw [hu, hband, hrings.therm]
  · rw [hcals.power, htherm.dies, hrings.power]
  · rw [hcals.power, hsensors, hrings.power]
  · rw [hcals.mem, htherm.mem, hrings.mem]
  · rw [hcals.bridge, htherm.bridge, hrings.bridge]

/-- A change of band makes every link of the field due (R517). -/
theorem bandChange_due (s : State) {k band : Nat} {x : Nat × Nat} (hx : x ∈ s.fieldLinks k) :
    ((s.bandChange k band).rxg x.1 x.2).calBusy = false ∧ ∃ e ∈ ((s.bandChange k band).rxg x.1 x.2).calDue, e.1 = 5 := by
  rw [bandChange_eq]
  exact linksDue_due _ fieldLinks_lt hx

/-- A field that is sampled, before its band is looked at. -/
theorem throttled_field_result {s t : State} {k : Nat} {readings : List Nat}
    (h : SameButSignals (s.throttled (.field k) readings) t) :
    t.therm (.field k) = (s.therm (.field k)).read (.field k) (highest (.field k) readings) ∧
    (∀ i < 48, tget t.power.sensors 0 (firstSensor (.field k) + i) = min 255 (readings.getD i 0)) ∧
    t.fab = s.fab ∧ t.mem = s.mem ∧ t.bridge = s.bridge := by
  have hloc : ∀ h, ThermLoc.field k ≠ .hbm h := nofun
  have hthrottle : DiesOnly (s.measured (.field k) readings) (s.throttled (.field k) readings) := throttleChange_field_only _ k
  have hmeasured : ThermOnly s (s.measured (.field k) readings) := measured_only hloc readings
  refine ⟨?_, fun i hi => ?_, ?_, ?_, ?_⟩
  · rw [therm_of_same h, hthrottle.field, measured_therm hloc]
  · rw [h.power, hthrottle.sensors]
    exact measured_sensors hloc readings hi
  · rw [h.fab, hthrottle.fab, hmeasured.fab]
  · rw [h.mem, hthrottle.mem, hmeasured.mem]
  · rw [h.bridge, hthrottle.bridge, hmeasured.bridge]

/-! ### TEMPERATURE_SAMPLE of a stack (R197, R511, R512) -/

theorem exec_temperatureSample_hbm {h : Nat} (hh : h < 12) (readings : List Nat) (s : State) :
    exec (.temperatureSample (.hbm h) readings) s = .next ((((s.measured (.hbm h) readings).modHbm h fun x =>
      { x with refmult := Config.hbmRefresh (highest (.hbm h) readings) % 3 })).sense (ntThermField (h / 3)) s) := by
  rw [← throttleChange_hbm (s.measured (.hbm h) readings) (was := (s.therm (.hbm h)).level)
    (now := s.newLevel (.hbm h) readings) h]
  show execTemperatureSample (.hbm h) readings s = _
  simp only [execTemperatureSample, thermOk, hh, decide_true, act_true]
  rfl

theorem measured_hbm (s : State) (h : Nat) (readings : List Nat) : s.measured (.hbm h) readings = s.modHbm h fun x =>
    { x with temp := highest (.hbm h) readings, throttled := decide (2 ≤ s.newLevel (.hbm h) readings) } := rfl

/-! ### The obligation on temperatures -/

theorem exec_thermalThrottleStep_cd {s : State} {n : Nat} (hn : n < 8) (h : 2 ≤ (s.therm (.cd n)).level) :
    exec (.thermalThrottleStep (.cd n)) s
      = .next (s.cutDie n fun p => { p with thermal := max 16 (p.thermal - 32) }) := by
  show execThermalThrottleStep (.cd n) s = _
  simp only [execThermalThrottleStep, thermOk, hn, h, decide_true, Bool.and_self, act_true, throttledDies, each_cons, each_nil]

theorem exec_thermalThrottleStep_kd {s : State} {n : Nat} (hn : n < 8) (h : 2 ≤ (s.therm (.kd n)).level) :
    exec (.thermalThrottleStep (.kd n)) s = .next (s.modKd n fun k => { k with rate := 4 }) := by
  show execThermalThrottleStep (.kd n) s = _
  simp only [execThermalThrottleStep, thermOk, hn, h, decide_true, Bool.and_self, act_true]

theorem exec_thermtripRelease {s : State} (h : s.power.thermtrip = true) : exec .thermtripRelease s
    = .next (({ s with power := { s.power with thermtrip := false } } : State).emit (.thermtrip false)) := by
  show execThermtripRelease s = _
  simp only [execThermtripRelease, h, act_true]

/-- Settles O34: levels by their thresholds, each location by what its level does to its dies, a field then by its band. -/
theorem temperaturesThrottle : Obligations.TemperaturesThrottle := by
  unfold Obligations.TemperaturesThrottle
  refine ⟨?_, ?_, ?_, ?_, ?_, ?_, ?_, ?_⟩
  · intro loc was t
    have htwo := thermLevel_two_iff loc was t
    have hone := one_le_thermLevel_iff loc was t
    have hle := thermLevel_le loc was t
    refine ⟨?_, ?_, ?_, ?_, ?_, ?_⟩ <;> omega
  · intro n t l s hn ht
    have hhigh : highest (.cd n) l = min 255 t := by rw [ht]; rfl
    have hloc : ∀ h, ThermLoc.cd n ≠ .hbm h := nofun
    have hlevel : s.newLevel (.cd n) l = thermLevel (.cd n) (s.therm (.cd n)).level (min 255 t) := by rw [← hhigh]; rfl
    have hsense : SameButSignals (s.throttled (.cd n) l) ((s.throttled (.cd n) l).sense (ntThermDie n) s) := sense_same _ _ s
    have hthrottle := throttled_cd_only s n l
    have hmeasured : ThermOnly s (s.measured (.cd n) l) := measured_only hloc l
    have htherm : ((s.throttled (.cd n) l).sense (ntThermDie n) s).therm (.cd n) = (s.therm (.cd n)).read (.cd n) (min 255 t) := by
      rw [therm_of_same hsense, hthrottle.cd, measured_therm hloc, hhigh]
    refine ⟨_, exec_temperatureSample_cd hn l s, ?_, ?_, ?_, fun i hi => ?_, fun hw h => ?_, fun hw h hf => ?_, fun h => ?_, ?_, ?_, ?_⟩
    · rw [htherm]
      rfl
    · rw [htherm]
      rfl
    · rw [htherm]
      rfl
    · rw [hsense.power, hthrottle.sensors]
      exact measured_sensors hloc l hi
    · have hrises := throttled_cd_rises n (readings := l) hw (by
        rw [hlevel]
        exact thermLevel_throttles (by show 206 ≤ _; omega))
      simpa only [diePower_of_same hsense, core_of_same hsense] using hrises
    · rw [diePower_of_same hsense]
      refine throttled_cd_falls n hw ?_ hf
      rw [hlevel]
      exact thermLevel_cools (by show _ ≤ 206; omega)
    · rw [hsense.power, throttled_stands (hlevel.trans h), hmeasured.dies]
    · rw [hsense.mem, hthrottle.mem, hmeasured.mem]
    · rw [hsense.fab, hthrottle.fab, hmeasured.fab]
    · rw [hsense.bridge, hthrottle.bridge, hmeasured.bridge]
  · intro n t l s hn ht
    have hhigh : highest (.kd n) l = min 255 t := by rw [ht]; rfl
    have hlevel : s.newLevel (.kd n) l = thermLevel (.kd n) (s.therm (.kd n)).level (min 255 t) := by rw [← hhigh]; rfl
    have hsense : SameButSignals (s.throttled (.kd n) l) ((s.throttled (.kd n) l).sense (ntThermDie n) s) := sense_same _ _ s
    obtain ⟨htherm, hdies, hcores⟩ := throttled_kd_frame s n l
    refine ⟨_, exec_temperatureSample_kd hn l s, ?_, fun hw h => ?_, fun hw h => ?_, ?_, ?_⟩
    · rw [therm_of_same hsense, htherm, measured_therm (loc := .kd n) nofun, hhigh]
      rfl
    · have hhot : 2 ≤ s.newLevel (.kd n) l := by
        rw [hlevel]
        exact thermLevel_throttles (by show 196 ≤ _; omega)
      rw [kd_of_same hsense, throttled_kd, if_pos ⟨hw, hhot⟩, State.kd_modKd]
    · have hcool : s.newLevel (.kd n) l < 2 := by
        rw [hlevel]
        exact thermLevel_cools (by show _ ≤ 196; omega)
      rw [kd_of_same hsense, throttled_kd, if_neg (by omega), if_pos ⟨hw, hcool⟩, State.kd_modKd]
    · rw [hsense.power, hdies]
    · rw [hsense.cores, hcores]
  · intro k t l s hk ht
    have hhigh : highest (.field k) l = min 255 t := by rw [ht]; rfl
    have hlevel : s.newLevel (.field k) l = thermLevel (.field k) (s.therm (.field k)).level (min 255 t) := by rw [← hhigh]; rfl
    have hheat : ∀ d, (s.therm (.field k)).level < 2 → 180 ≤ t → d / 2 = k →
        ((s.throttled (.field k) l).diePower d).thermal = min (s.diePower d).thermal 128 := fun d hw h hd =>
      throttled_field_rises hw (by
        rw [hlevel]
        exact thermLevel_throttles (by show 180 ≤ _; omega)) hd
    have hgo := exec_temperatureSample_field hk l s
    have hsense : SameButSignals (s.throttled (.field k) l) ((s.throttled (.field k) l).sense (ntThermField k) s) := sense_same _ _ s
    generalize (s.throttled (.field k) l).sense (ntThermField k) s = u at hgo hsense
    obtain ⟨htherm, hsensors, hfab, hmem, hbridge⟩ := throttled_field_result hsense
    rw [hhigh] at htherm hgo
    refine ⟨_, hgo, ?_⟩
    dsimp only
    by_cases hband : bandOf (s.therm (.field k)).band (min 255 t) = (s.therm (.field k)).band
    · rw [if_pos hband, htherm]
      refine ⟨rfl, hband.symm, hsensors, fun hw h d hd _ => ?_, fun h => absurd hband h, fun _ => hfab, hmem, hbridge⟩
      rw [diePower_of_same hsense]
      exact hheat d hw h hd
    · rw [if_neg hband]
      obtain ⟨htherm', hdies', hsensors', hmem', hbridge'⟩ := bandChange_frame u k (bandOf (s.therm (.field k)).band (min 255 t))
      rw [htherm', htherm, hsensors', hmem', hbridge']
      refine ⟨rfl, rfl, hsensors, fun hw h d hd _ => ?_, fun _ st rg hlink => ?_, fun h => absurd h hband, hmem, hbridge⟩
      · rw [State.diePower, hdies', ← State.diePower, diePower_of_same hsense]
        exact hheat d hw h hd
      · exact bandChange_due u (x := (st, rg)) (by rw [fieldLinks_of_fab hfab]; exact hlink)
  · intro h t s hh
    have hhigh : highest (.hbm h) [t] = min 255 t := by simp [highest, sensorCount]
    have hsense := sense_same ((s.measured (.hbm h) [t]).modHbm h fun x =>
      { x with refmult := Config.hbmRefresh (highest (.hbm h) [t]) % 3 }) (ntThermField (h / 3)) s
    refine ⟨_, exec_temperatureSample_hbm hh [t] s, ?_, fun hot => ?_, hsense.cores, hsense.power⟩
    · rw [State.hbm, hsense.mem, ← State.hbm, State.hbm_modHbm, measured_hbm, State.hbm_modHbm, hhigh]
    · rw [State.hbm, hsense.mem, ← State.hbm, State.hbm_modHbm, measured_hbm, State.hbm_modHbm]
      exact decide_eq_true (thermLevel_throttles (by rw [hhigh]; exact hot))
  · intro n s hn h
    refine ⟨_, exec_thermalThrottleStep_cd hn h, ?_, (cutDie_bounds s n _).1, ?_⟩
    · rw [cutDie_diePower]
      rfl
    · rw [cutDie_only s n _]
  · exact fun n s hn h => exec_thermalThrottleStep_kd hn h
  · exact fun s h => exec_thermtripRelease h

end Sys2Proof.Machine
end

section
/-! SUPPORT. The forms in which packets travel (05, 11): headers and extensions are read back from their bits, and a packet
from its words. -/

namespace Sys2Proof.Machine

open Sys2Proof

/-! ### Fields and bits (R155, R158, R375) -/

/-- Where the fields of a packet header stand, as numbers (R155). -/
theorem header_fields {dest laddr op vc hc dmp len issuer pseq xt poison retry mcr sys status : Nat}
    (hdest : dest < 2 ^ 20) (hladdr : laddr < 2 ^ 44) (hop : op < 256) (hvc : vc < 8) (hhc : hc < 4) (hdmp : dmp ≤ 1)
    (hlen : len < 2 ^ 13) (hissuer : issuer < 1024) (hpseq : pseq < 2 ^ 14) (hxt : xt ≤ 1) (hpoison : poison ≤ 1)
    (hretry : retry ≤ 1) (hmcr : mcr ≤ 1) (hsys : sys ≤ 1) (hstatus : status < 256) :
    let n := dest * 2 ^ 108 + laddr * 2 ^ 64 + op * 2 ^ 56 + vc * 2 ^ 53 + hc * 2 ^ 51 + dmp * 2 ^ 50 + len * 2 ^ 37
      + issuer * 2 ^ 27 + pseq * 2 ^ 13 + xt * 2 ^ 12 + poison * 2 ^ 11 + retry * 2 ^ 10 + mcr * 2 ^ 9 + sys * 2 ^ 8 + status
    n < 2 ^ 128 ∧ bits n 127 108 = dest ∧ bits n 107 64 = laddr ∧ bits n 63 56 = op ∧ bits n 55 53 = vc ∧
    bits n 52 51 = hc ∧ n / 2 ^ 50 % 2 = dmp ∧ bits n 49 37 = len ∧ bits n 36 27 = issuer ∧ bits n 26 13 = pseq ∧
    n / 2 ^ 12 % 2 = xt ∧ n / 2 ^ 11 % 2 = poison ∧ n / 2 ^ 10 % 2 = retry ∧ n / 2 ^ 9 % 2 = mcr ∧ n / 2 ^ 8 % 2 = sys ∧
    bits n 7 0 = status := by
  simp only [bits, Nat.reduceAdd, Nat.reduceSub]
  refine ⟨?_, ?_, ?_, ?_, ?_, ?_, ?_, ?_, ?_, ?_, ?_, ?_, ?_, ?_, ?_, ?_⟩ <;> omega

theorem hdrOf_enc {h : Hdr} (hdest : h.dest < 2 ^ 20) (hladdr : h.laddr < 2 ^ 44) (hop : h.op < 256) (hvc : h.vc < 8)
    (hhc : h.hc < 4) (hlen : h.len < 2 ^ 13) (hissuer : h.issuer < 1024) (hpseq : h.pseq < 2 ^ 14) (hstatus : h.status < 256) :
    hdrOf h.enc = h := by
  obtain ⟨hn, e1, e2, e3, e4, e5, e6, e7, e8, e9, e10, e11, e12, e13, e14, e15⟩ := header_fields hdest hladdr hop hvc hhc
    (b2n_le h.dmp) hlen hissuer hpseq (b2n_le h.xt) (b2n_le h.poison) (b2n_le h.retry) (b2n_le h.mcr) (b2n_le h.sys) hstatus
  simp only [hdrOf, Hdr.enc, Nat.mod_eq_of_lt, bit, BitVec.toNat_ofNat, b2n_eq_one, *]

theorem extOf_enc {x : Ext} (hsrc : x.src < 2 ^ 20) (hepoch : x.epoch < 2 ^ 16) (hsidx : x.sidx < 64) (hgmask : x.gmask < 2 ^ 64) :
    extOf x.enc = x := by
  have hn : x.enc.toNat = x.src * 2 ^ 108 + x.epoch * 2 ^ 92 + x.sidx * 2 ^ 86 + x.gmask := by
    simp only [Ext.enc, Nat.mod_eq_of_lt, BitVec.toNat_ofNat, *]
    omega
  have hfields : bits x.enc.toNat 127 108 = x.src ∧ bits x.enc.toNat 107 92 = x.epoch ∧ bits x.enc.toNat 91 86 = x.sidx ∧
      bits x.enc.toNat 63 0 = x.gmask := by
    simp only [bits, Nat.reduceAdd, Nat.reduceSub, hn]
    omega
  obtain ⟨e1, e2, e3, e4⟩ := hfields
  simp only [extOf, e1, e2, e3, e4]

theorem fhdrOf_enc {h : FHdr} (hfdst : h.fdst < 2 ^ 20) (hfsrc : h.fsrc < 2 ^ 20) (hkind : h.kind < 16) (hblen : h.blen < 2 ^ 13) :
    fhdrOf h.enc = h := by
  have hav := b2n_le h.av
  have hfseq := h.fseq.isLt
  have hackseq := h.ackseq.isLt
  have hsinc := h.sinc.isLt
  have hdinc := h.dinc.isLt
  have hn : h.enc.toNat = h.fdst * 2 ^ 108 + h.fsrc * 2 ^ 88 + h.kind * 2 ^ 84 + h.fseq.toNat * 2 ^ 60 + h.ackseq.toNat * 2 ^ 36
      + b2n h.av * 2 ^ 35 + h.sinc.toNat * 2 ^ 27 + h.dinc.toNat * 2 ^ 19 + h.blen * 2 ^ 6 := by
    simp only [FHdr.enc, Nat.mod_eq_of_lt, BitVec.toNat_ofNat, hfdst, hfsrc, hkind, hblen]
    omega
  have hfields : bits h.enc.toNat 127 108 = h.fdst ∧ bits h.enc.toNat 107 88 = h.fsrc ∧ bits h.enc.toNat 87 84 = h.kind ∧
      bits h.enc.toNat 83 60 = h.fseq.toNat ∧ bits h.enc.toNat 59 36 = h.ackseq.toNat ∧ h.enc.toNat / 2 ^ 35 % 2 = b2n h.av ∧
      bits h.enc.toNat 34 27 = h.sinc.toNat ∧ bits h.enc.toNat 26 19 = h.dinc.toNat ∧ bits h.enc.toNat 18 6 = h.blen := by
    simp only [bits, Nat.reduceAdd, Nat.reduceSub, hn]
    refine ⟨?_, ?_, ?_, ?_, ?_, ?_, ?_, ?_, ?_⟩ <;> omega
  obtain ⟨e1, e2, e3, e4, e5, e6, e7, e8, e9⟩ := hfields
  simp only [fhdrOf, bit, e1, e2, e3, e4, e5, e6, e7, e8, e9, b2n_eq_one, BitVec.ofNat_toNat, BitVec.setWidth_eq]

/-! ### Bytes and words (R33, R155, R225) -/

theorem leNat_lt (l : List Byte) : leNat l < 256 ^ l.length := by
  induction l with
  | nil => simp [leNat]
  | cons b r ih =>
    have hb := b.isLt
    simp only [leNat, List.length_cons, pow_succ]
    omega

theorem leBytes_leNat (l : List Byte) : leBytes l.length (leNat l) = l := by
  induction l with
  | nil => rfl
  | cons b r ih =>
    have hb := b.isLt
    have hdiv : (b.toNat + 256 * leNat r) / 256 = leNat r := by omega
    have hbyte : BitVec.ofNat 8 (b.toNat + 256 * leNat r) = b := by
      apply BitVec.eq_of_toNat_eq
      rw [BitVec.toNat_ofNat]
      omega
    simp only [leNat, List.length_cons, leBytes, hdiv, hbyte, ih]

theorem wordBytes_bytesWord {l : List Byte} (h : l.length = 8) : wordBytes (bytesWord l) = l := by
  have hlen : l.reverse.length = 8 := by rw [List.length_reverse, h]
  have hlt : leNat l.reverse < 2 ^ 64 := by
    have := leNat_lt l.reverse
    rwa [hlen] at this
  have hbytes := leBytes_leNat l.reverse
  rw [hlen] at hbytes
  rw [wordBytes, bytesWord, BitVec.toNat_ofNat, Nat.mod_eq_of_lt hlt, hbytes, List.reverse_reverse]

theorem sliceB_length (l : List Byte) (i n : Nat) : (sliceB l i n).length = n := by simp [sliceB]

/-- The start of a list of bytes, filled with zeros past its end. -/
theorem sliceB_zero (l : List Byte) (n : Nat) : sliceB l 0 n = l.take n ++ List.replicate (n - l.length) 0 := by
  refine List.ext_getElem (by simp [sliceB]; omega) fun k hk _ => ?_
  have hkn : k < n := by simpa [sliceB] using hk
  by_cases hl : k < l.length
  · simp [sliceB, hl, hkn]
  · simp [sliceB, List.getElem_append, hl]

theorem chunkWords_length (n : Nat) (l : List Byte) : (chunkWords n l).length = n := by
  induction n generalizing l with
  | zero => rfl
  | succ n ih => simp [chunkWords, ih]

/-- The bytes of a payload's words are the payload and zeros that fill its last word (R33). -/
theorem chunkWords_bytes (n : Nat) (l : List Byte) (h : l.length ≤ 8 * n) :
    (chunkWords n l).flatMap wordBytes = l ++ List.replicate (8 * n - l.length) 0 := by
  induction n generalizing l with
  | zero => simpa [chunkWords] using h
  | succ n ih =>
    rw [chunkWords, List.flatMap_cons, wordBytes_bytesWord (sliceB_length l 0 8), sliceB_zero,
      ih (l.drop 8) (by rw [List.length_drop]; omega), List.length_drop]
    by_cases hl : l.length ≤ 8
    · rw [List.take_of_length_le hl, List.drop_of_length_le hl, List.nil_append, List.append_assoc, ← List.replicate_add]
      congr 2
      omega
    · rw [show 8 - l.length = 0 by omega, List.replicate_zero, List.append_nil, ← List.append_assoc, List.take_append_drop]
      congr 2
      omega

/-- Two words joined are the header or the extension that was parted into them (R33, R155). -/
theorem joinWords (x : BitVec 128) :
    BitVec.ofNat 128 ((BitVec.ofNat 64 (x.toNat / 2 ^ 64)).toNat * 2 ^ 64 + (BitVec.ofNat 64 x.toNat).toNat) = x := by
  have hx := x.isLt
  apply BitVec.eq_of_toNat_eq
  simp only [BitVec.toNat_ofNat]
  omega

/-! ### Whole packets (R33, R155, R158) -/

/-- The words of a packet after its header: the extension and the payload (R33, R158). -/
def tailWords (p : Packet) : List W64 :=
  (if (hdr p).xt then [BitVec.ofNat 64 (p.ext.toNat / 2 ^ 64), BitVec.ofNat 64 p.ext.toNat] else [])
    ++ chunkWords ((hdr p).len / 8 + if (hdr p).len % 8 == 0 then 0 else 1) p.data

theorem pktWords_eq (p : Packet) :
    pktWords p = { w := BitVec.ofNat 64 (p.hdr.toNat / 2 ^ 64), hdr := true } ::
      { w := BitVec.ofNat 64 p.hdr.toNat, hdr := false } :: (tailWords p).map fun w => { w := w, hdr := false } := rfl

theorem payloadWords_eq (len : Nat) : (len / 8 + if len % 8 == 0 then 0 else 1) = padded len / 8 := by
  unfold padded
  by_cases h : len % 8 = 0 <;> simp [h] <;> omega

/-- A packet's header tells how many words follow it (R33, R155). -/
theorem wordsOf_header (p : Packet) :
    wordsOf (BitVec.ofNat 64 (p.hdr.toNat / 2 ^ 64)) (BitVec.ofNat 64 p.hdr.toNat) = 2 + (tailWords p).length := by
  rw [wordsOf, joinWords]
  show 2 + (if (hdr p).xt then 2 else 0) + padded (hdr p).len / 8 = _
  rw [tailWords, List.length_append, chunkWords_length, payloadWords_eq]
  by_cases hxt : (hdr p).xt = true
  · simp [hxt]
    omega
  · simp [hxt]

/-- A word with the opcode is not zero when the opcode is not (R155, R160). -/
theorem opcodeWord_ne_zero {p : Packet} (h : (hdr p).op ≠ 0) : BitVec.ofNat 64 p.hdr.toNat ≠ 0 := by
  intro hz
  have hmod : p.hdr.toNat % 2 ^ 64 = 0 := by simpa using congrArg BitVec.toNat hz
  have hop : p.hdr.toNat / 2 ^ 56 % 256 ≠ 0 := h
  omega

/-- Words that spell a packet, of which the first is marked or the second carries an opcode, are taken as that packet
(R32, R33, R155). -/
theorem takePacket_words {p : Packet} {a b : StreamWord} {ws : List StreamWord} (r : List StreamWord)
    (hlen : p.data.length = (hdr p).len) (hext : (hdr p).xt = false → p.ext = 0)
    (ha : a.w = BitVec.ofNat 64 (p.hdr.toNat / 2 ^ 64)) (hb : b.w = BitVec.ofNat 64 p.hdr.toNat)
    (hws : ws.map (·.w) = tailWords p) (hstart : a.hdr = true ∨ b.w ≠ 0 ∧ b.hdr = false) :
    takePacket (a :: b :: ws ++ r) = some (p, r) := by
  have hhdr : BitVec.ofNat 128 (a.w.toNat * 2 ^ 64 + b.w.toNat) = p.hdr := by rw [ha, hb, joinWords]
  have hcount : wordsOf a.w b.w = (a :: b :: ws).length := by
    rw [ha, hb, wordsOf_header, ← hws, List.length_map, List.length_cons, List.length_cons]
    omega
  have hskip : ¬(a.w = 0 ∧ (!a.hdr) = true ∧ (b.w = 0 ∨ b.hdr = true)) := by
    rintro ⟨-, hunmarked, hnext⟩
    rcases hstart with hmark | ⟨hne, hbmark⟩
    · simp [hmark] at hunmarked
    · exact hnext.elim hne (by simp [hbmark])
  have hpayload : ∀ bs : List StreamWord, bs.map (·.w) = chunkWords (padded (hdr p).len / 8) p.data →
      (bs.flatMap fun w => wordBytes w.w).take (hdr p).len = p.data := by
    intro bs hbs
    rw [← List.flatMap_map, hbs, chunkWords_bytes _ _ (by rw [hlen, padded]; omega), ← hlen, List.take_left]
  have hwhole : (a :: b :: ws ++ r).take (a :: b :: ws).length = a :: b :: ws := List.take_left
  have hrest : (a :: b :: ws ++ r).drop (a :: b :: ws).length = r := List.drop_left
  have hfits : (a :: b :: ws).length ≤ (a :: b :: ws ++ r).length := by simp
  rw [tailWords, payloadWords_eq] at hws
  simp only [List.cons_append] at hwhole hrest hfits ⊢
  rw [takePacket, if_neg hskip]
  simp only [hcount, hfits, hwhole, hrest, hhdr, if_true]
  by_cases hxt : (hdr p).xt = true
  · rw [if_pos hxt, List.cons_append, List.cons_append, List.nil_append] at hws
    obtain ⟨c, ws', rfl, hc, hws'⟩ := List.map_eq_cons_iff.1 hws
    obtain ⟨d, bs, rfl, hd, hbs⟩ := List.map_eq_cons_iff.1 hws'
    have hx : (hdrOf p.hdr).xt = true := hxt
    have hdata := hpayload bs hbs
    simp only [hdr] at hdata
    simp only [hx, if_true, List.cons_append, List.getD_cons_succ, List.getD_cons_zero, hc, hd, joinWords, List.drop_succ_cons,
      List.drop_zero, hdata]
  · rw [if_neg hxt, List.nil_append] at hws
    have hx : (hdrOf p.hdr).xt = false := Bool.eq_false_iff.2 hxt
    have hzero : p.ext = 0 := hext hx
    have hdata := hpayload ws hws
    simp only [hdr] at hdata
    simp only [hx, Bool.false_eq_true, if_false, List.drop_succ_cons, List.drop_zero, hdata, ← hzero]

/-- Settles O60: fields that do not overlap are read back, and a packet's words tell where it begins and ends. -/
theorem headersAndPacketsRoundTrip : Obligations.HeadersAndPacketsRoundTrip := by
  refine ⟨fun h hdest hladdr hop hvc hhc hlen hissuer hpseq hstatus => hdrOf_enc hdest hladdr hop hvc hhc hlen hissuer hpseq hstatus,
    fun x hsrc hepoch hsidx hgmask => extOf_enc hsrc hepoch hsidx hgmask,
    fun h hfdst hfsrc hkind hblen => fhdrOf_enc hfdst hfsrc hkind hblen, fun p r hlen hext => ⟨?_, fun hop => ?_⟩⟩
  · rw [pktWords_eq]
    exact takePacket_words r hlen hext rfl rfl (by simp [Function.comp_def]) (.inl rfl)
  · rw [List.map_append, pktWords_eq]
    exact takePacket_words _ hlen hext rfl rfl (by simp [Function.comp_def]) (.inr ⟨opcodeWord_ne_zero hop, rfl⟩)

end Sys2Proof.Machine
end

section
/-! SUPPORT. Packets between stations (05): what a reader does with a packet that arrives, and what a packet that is sent
takes. -/

namespace Sys2Proof.Machine

open Sys2Proof Sys2Proof.Safety

/-! ### A packet arrives (R49, R163, R164) -/

section
variable {s : State} {st rg : Nat} {p : Packet}

theorem exec_packetArrive {rest : List StreamWord} (hup : s.stUp st = true) (hrx : isRx st rg = true)
    (hv : (s.rxg st rg).valid = true) (htake : takePacket (s.rxg st rg).words = some (p, rest)) :
    exec (.packetArrive st rg) s = .next (s.arrive st rg p rest) := by
  show execPacketArrive st rg s = _
  simp [execPacketArrive, htake, hup, hrx, hv]

/-- A packet is for its reader: the group has no other, or the packet names it (R49). -/
theorem arrive_forReader (h : (s.entriesOf (s.rxg st rg).wst (s.rxg st rg).wlg).length ≤ 1 ∨
    s.namesStation st (s.rxg st rg).wst p = true) :
    (decide (1 < (s.entriesOf (s.rxg st rg).wst (s.rxg st rg).wlg).length) &&
      !s.namesStation st (s.rxg st rg).wst p) = false := by
  rcases h with h | h
  · rw [decide_eq_false (by omega), Bool.false_and]
  · rw [h, Bool.not_true, Bool.and_false]

theorem arrive_malformed (rest : List StreamWord) (h : malformed p = true) :
    ∃ u, s.arrive st rg p rest
        = (if (hdr p).vc < 6 then u.returnCredit st (s.rxg st rg).wst (hdr p).vc (pktCredits p) else u) ∧
      (st < 14 → u.notices.pend.getLsbD (ntPktMalformed st) = true) ∧
      SameButSignals ((s.modRx st rg fun r => { r with words := rest }).modSta st fun x =>
        { x with malformed := inc 16 x.malformed }) u := by
  refine ⟨_, if_pos h, fun hst => raise_pend _ ?_, raise_same _ _⟩
  unfold ntPktMalformed
  omega

theorem arrive_elsewhere (rest : List StreamWord) (h : malformed p = false)
    (hmany : 1 < (s.entriesOf (s.rxg st rg).wst (s.rxg st rg).wlg).length) (hnot : s.namesStation st (s.rxg st rg).wst p = false) :
    s.arrive st rg p rest = s.modRx st rg fun r => { r with words := rest } := by
  simp [State.arrive, h, hmany, hnot]

/-- A well-formed packet for its reader goes by the check of its number (R164). -/
theorem arrive_duplicate (rest : List StreamWord) (h : malformed p = false)
    (hfor : (s.entriesOf (s.rxg st rg).wst (s.rxg st rg).wlg).length ≤ 1 ∨ s.namesStation st (s.rxg st rg).wst p = true)
    (hc : seqCheck (tget s.credit.win (none, []) (creditKey st (s.rxg st rg).wst (hdr p).vc))
      (BitVec.ofNat 14 (hdr p).pseq) = .duplicate) :
    s.arrive st rg p rest = (s.modRx st rg fun r => { r with words := rest }).modSta st fun x =>
      { x with dup := inc 32 x.dup } := by
  unfold State.arrive
  dsimp only
  rw [h, arrive_forReader hfor, hc]
  rfl

theorem arrive_stale (rest : List StreamWord) (h : malformed p = false)
    (hfor : (s.entriesOf (s.rxg st rg).wst (s.rxg st rg).wlg).length ≤ 1 ∨ s.namesStation st (s.rxg st rg).wst p = true)
    (hc : seqCheck (tget s.credit.win (none, []) (creditKey st (s.rxg st rg).wst (hdr p).vc))
      (BitVec.ofNat 14 (hdr p).pseq) = .stale) :
    s.arrive st rg p rest = ((s.modRx st rg fun r => { r with words := rest }).modSta st fun x =>
      { x with stale := inc 16 x.stale }).returnCredit st (s.rxg st rg).wst (hdr p).vc (pktCredits p) := by
  unfold State.arrive
  dsimp only
  rw [h, arrive_forReader hfor, hc]
  rfl

/-- The window of a channel of a reader is moved (R164). -/
def State.moveWindow (s : State) (r w vc : Nat) (win : Option (BitVec 14) × List (BitVec 14)) : State :=
  { s with credit := { s.credit with win := tset s.credit.win (none, []) (creditKey r w vc) win } }

theorem arrive_accepted (rest : List StreamWord) (h : malformed p = false)
    (hfor : (s.entriesOf (s.rxg st rg).wst (s.rxg st rg).wlg).length ≤ 1 ∨ s.namesStation st (s.rxg st rg).wst p = true)
    (hhere : isXS st = false ∨ s.isSelf (hdr p).dest = true) {win : Option (BitVec 14) × List (BitVec 14)}
    (hc : seqCheck (tget s.credit.win (none, []) (creditKey st (s.rxg st rg).wst (hdr p).vc))
      (BitVec.ofNat 14 (hdr p).pseq) = .accept win) :
    s.arrive st rg p rest = ((s.modRx st rg fun r => { r with words := rest }).moveWindow st (s.rxg st rg).wst (hdr p).vc
      win).deliver st (s.rxg st rg).wst p := by
  have hstay : (isXS st && !s.isSelf (hdr p).dest) = false := by
    rcases hhere with h | h <;> simp [h]
  unfold State.arrive
  dsimp only
  rw [h, arrive_forReader hfor, hc, hstay]
  rfl

/-- What a packet that comes to its station changes (R164). -/
theorem moveWindow_deliver (s : State) (st rg w vc : Nat) (p : Packet) (rest : List StreamWord)
    (win : Option (BitVec 14) × List (BitVec 14)) :
    let t := ((s.modRx st rg fun r => { r with words := rest }).moveWindow st w vc win).deliver st w p
    tget t.credit.win (none, []) (creditKey st w vc) = win ∧ (t.sta st).inbox = (s.sta st).inbox ++ [(w, p)] ∧
      (t.rxg st rg).words = rest ∧
      t = { s with fab := { s.fab with rx := t.fab.rx, st := t.fab.st }, credit := { s.credit with win := t.credit.win } } := by
  refine ⟨tget_tset_self _ _ _ _, ?_, ?_, rfl⟩
  · rw [State.deliver, State.sta_modSta]
    rfl
  · have hwords := congrArg RxGroup.words (State.rxg_modRx s st rg fun r => { r with words := rest })
    exact hwords

end

/-! ### A packet is sent (R157, R165, R168, R173, R253) -/

/-- t is s but for the transmit groups. -/
def TxOnly (s t : State) : Prop := t = { s with fab := { s.fab with tx := t.fab.tx } }

theorem TxOnly.trans {s t u : State} (h : TxOnly s t) (k : TxOnly t u) : TxOnly s u := by
  unfold TxOnly at *
  rw [k, h]

/-- Steering puts copies in queues of lane groups and changes nothing else (R48, R59). -/
theorem place_txOnly (s : State) (st : Nat) (q : QPacket) : TxOnly s (s.place st q) := by
  have hall : ∀ (u : State) (l : List (Nat × QPacket)), TxOnly u (u.enqueueAll st l) := fun u l =>
    each_rel (R := TxOnly) (fun _ => rfl) .trans l (fun x u => (rfl : TxOnly u (u.enqueue st x.1 x.2))) u
  exact (hall s _).trans (each_rel (R := TxOnly) (fun _ => rfl) .trans _ (fun x u => hall u _) _)

theorem unqueue_sta (s : State) (st : Nat) (q : QPacket) :
    (s.unqueue st q).sta st = { s.sta st with sendq := (s.sta st).sendq.erase q } := State.sta_modSta s st _

theorem nextPseq_sta (s : State) (st vc : Nat) : (s.nextPseq st vc).sta st = { s.sta st with
    pseq := tset (s.sta st).pseq 0 vc (tget (s.sta st).pseq 0 vc + 1)
    lastRr := if vc == 0 || vc == 2 || vc == 3 then vc else (s.sta st).lastRr } := State.sta_modSta s st _

theorem held_setHeld (s : State) (r w vc n : Nat) : (s.setHeld r w vc n).held r w vc = n := tget_tset_self _ _ _ _

/-- A packet that goes takes the next number of its channel and its credits; beside that lane groups and operations alone
change (R157, R168). -/
theorem sendPacket_result {s : State} {st rd vc : Nat} {q : QPacket} (hc : pktCredits q.pkt ≤ s.held rd st vc) :
    let t := s.sendPacket st rd vc q
    tget (t.sta st).pseq 0 vc = tget (s.sta st).pseq 0 vc + 1 ∧ t.held rd st vc + pktCredits q.pkt = s.held rd st vc ∧
      (t.sta st).sendq = (s.sta st).sendq.erase q ∧
      (∀ v, v ≠ vc → tget (t.sta st).pseq 0 v = tget (s.sta st).pseq 0 v) ∧
      t = { s with fab := { s.fab with tx := t.fab.tx, st := t.fab.st }
                   credit := { s.credit with held := t.credit.held }, rem := t.rem } := by
  intro t
  have hframe : TxOnly _ t := place_txOnly _ st _
  have hsta : t.sta st = (((s.unqueue st q).setHeld rd st vc (s.held rd st vc - pktCredits q.pkt)).nextPseq st vc).sta st := by
    rw [State.sta, hframe]
    rfl
  have hunqueue : ((s.unqueue st q).setHeld rd st vc (s.held rd st vc - pktCredits q.pkt)).sta st
      = { s.sta st with sendq := (s.sta st).sendq.erase q } := unqueue_sta s st q
  rw [nextPseq_sta, hunqueue] at hsta
  have hheld : t.held rd st vc = s.held rd st vc - pktCredits q.pkt := by
    rw [State.held, hframe]
    exact held_setHeld (s.unqueue st q) rd st vc _
  refine ⟨?_, ?_, ?_, fun v hv => ?_, ?_⟩
  · rw [hsta]
    exact tget_tset_self _ _ _ _
  · omega
  · rw [hsta]
  · rw [hsta]
    exact tget_tset_ne _ _ _ hv
  · rw [hframe]
    rfl

section
variable {s : State} {st rd vc : Nat} {q : QPacket}

theorem exec_packetSend (hfirst : s.firstFor st rd vc = some q) (hup : s.stUp st = true) (hh : (s.sta st).halted = false) :
    exec (.packetSend st rd vc) s = .next (
      if !s.stServes rd then (s.unqueue st q).refusePacket st rd q .deadTarget
      else if s.closed st rd vc then (s.unqueue st q).refusePacket st rd q .refused
      else if s.sendReady st rd vc && s.vcTurn st vc then s.sendPacket st rd vc q
      else s) := by
  show execPacketSend st rd vc s = _
  simp only [execPacketSend, hfirst, hup, hh, Bool.not_false, Bool.and_self, act_true]

/-- A packet that is ready to go has its credits (R168). -/
theorem sendReady_credits (hfirst : s.firstFor st rd vc = some q) (h : s.sendReady st rd vc = true) :
    pktCredits q.pkt ≤ s.held rd st vc := by
  simp only [State.sendReady, hfirst, Bool.and_eq_true, decide_eq_true_eq] at h
  exact h.1.2

end

/-- Settles O11: the number of a packet decides what its reader does with it, and its queue and credit whether it goes. -/
theorem packetsAreNumberedPaidForAndChecked : Obligations.PacketsAreNumberedPaidForAndChecked := by
  refine ⟨fun st rg p rest s hup hrx hv htake => ?_, fun st rd vc q s hfirst hup hh => ?_⟩
  · rw [exec_packetArrive hup hrx hv htake]
    refine ⟨fun hm hvc => ?_, fun hm hvc => ?_, fun hm hmany hnot => ?_, fun hm hfor => ⟨fun hc => ?_, fun hc => ?_,
      fun win hhere hc => ?_⟩⟩
    · obtain ⟨u, hu, hpend, hsame⟩ := arrive_malformed (s := s) (st := st) (rg := rg) rest hm
      rw [if_neg (by omega)] at hu
      exact ⟨u, by rw [hu], hpend (stUp_lt hup), hsame⟩
    · obtain ⟨u, hu, hpend, hsame⟩ := arrive_malformed (s := s) (st := st) (rg := rg) rest hm
      rw [if_pos hvc] at hu
      exact ⟨_, u, rfl, hu, hpend (stUp_lt hup), hsame⟩
    · rw [arrive_elsewhere rest hm hmany hnot]
    · rw [arrive_duplicate rest hm hfor hc]
    · rw [arrive_stale rest hm hfor hc]
    · rw [arrive_accepted rest hm hfor hhere hc]
      exact ⟨_, rfl, moveWindow_deliver s st rg _ _ p rest win⟩
  · rw [exec_packetSend hfirst hup hh]
    refine ⟨fun hdead => ?_, fun hserves hclosed => ?_, fun i status hop => ?_, fun status hop hreq hxt => ?_,
      fun hserves hopen hready hturn => ?_⟩
    · simp [hdead]
    · simp [hserves, hclosed]
    · simp only [State.refusePacket, hop]
    · simp only [State.refusePacket, hop, hreq, hxt, if_true]
    · refine ⟨_, ?_, sendPacket_result (sendReady_credits hfirst hready)⟩
      simp [hserves, hopen, hready, hturn]

end Sys2Proof.Machine
end

section
/-! SUPPORT. Credit and multicasts (05): credit records and allocations, the attempts of a multicast and how it ends. -/

namespace Sys2Proof.Machine

open Sys2Proof Sys2Proof.Safety

/-! ### Credit records (R169, R170, R172) -/

theorem exec_creditRecordSend {s : State} {st w vc : Nat} (hup : s.stUp st = true) (hv : validPair st w vc = true)
    (ho : tget s.credit.owed false (creditKey st w vc) = true) :
    exec (.creditRecordSend st w vc) s = .next (s.creditRecords st w [vc]) := by
  show execCreditRecordSend st w vc s = _
  simp only [execCreditRecordSend, hup, hv, ho, Bool.and_self, act_true]

/-- The total of a channel is no longer owed to its writer (R169). -/
def State.payOwed (s : State) (r w vc : Nat) : State :=
  { s with credit := { s.credit with owed := tset s.credit.owed false (creditKey r w vc) false } }

/-- The record of one channel leaves alone when a group goes to the writer and nothing holds it back (R169). -/
theorem creditRecords_one {s : State} {st w vc k : Nat} (hup : s.stUp st = true) (hk : s.linkGroup st w = some k)
    (hb : s.backp st w vc = false) :
    s.creditRecords st w [vc] = (s.payOwed st w vc).draw.emit (.grain st k (linkGrain (BitVec.ofNat 12 s.freeVal) st k
      [creditRecord vc (tget s.credit.total 0 (creditKey st w vc))])) := by
  have hk' : (s.payOwed st w vc).linkGroup st w = some k := hk
  have hvcs : [vc].filter (fun vc => !s.backp st w vc) = [vc] := by simp [hb]
  have hpath : s.linkPath st w = true := by simp [State.linkPath, hup, hk]
  unfold State.creditRecords
  extract_lets vcs
  simp only [vcs, hvcs, hpath]
  exact sendLink_on hk' _

theorem exec_creditRecordReceive {s : State} {st rd : Nat} {rec : W64} (hup : s.stUp st = true) (hk : recKind rec = 3)
    (hv : validPair rd st (recVc rec) = true) :
    exec (.creditRecordReceive st rd rec) s = .next (s.takeCredit st rd rec) := by
  show execCreditRecordReceive st rd rec s = _
  simp only [execCreditRecordReceive, hup, hk, hv, BEq.rfl, Bool.and_self, act_true]

/-- A writer's credit grows by what the reader's total has grown by (R170). -/
theorem takeCredit_result (s : State) (st rd : Nat) (rec : W64) :
    let t := s.takeCredit st rd rec
    t.held rd st (recVc rec) = s.held rd st (recVc rec)
      + (recTotal rec - tget s.credit.seen 0 (creditKey rd st (recVc rec))).toNat ∧
    tget t.credit.seen 0 (creditKey rd st (recVc rec)) = recTotal rec ∧
    t = { s with credit := { s.credit with held := t.credit.held, seen := t.credit.seen } } :=
  ⟨held_setHeld s rd st _ _, tget_tset_self _ _ _ _, rfl⟩

/-- An allocation that the pool has room for is granted at once when it grows and withheld as PEND when it shrinks (R172). -/
theorem crallocWrite_taken {s : State} {st w vc : Nat} {data : W32} (hv : validPair st w vc = true)
    (hmin : data.toNat % 2 ^ 16 = 0 ∨ allocMin vc ≤ data.toNat % 2 ^ 16)
    (hpool : s.poolUsed st w vc + data.toNat % 2 ^ 16 + (s.alloc st w vc - data.toNat % 2 ^ 16) ≤ creditPool st) :
    ∃ t, s.crallocWrite st w vc data = (t, .done) ∧ t.alloc st w vc = data.toNat % 2 ^ 16 ∧
      t.pendOf st w vc = s.pendOf st w vc + (s.alloc st w vc - data.toNat % 2 ^ 16) ∧
      tget t.credit.total 0 (creditKey st w vc) = tget s.credit.total 0 (creditKey st w vc)
        + BitVec.ofNat 16 (data.toNat % 2 ^ 16 - s.alloc st w vc) ∧
      t.credit.held = s.credit.held := by
  unfold State.crallocWrite
  extract_lets new old k pend
  have hrange : ¬(creditPool st < s.poolUsed st w vc + new + (old - new) ∨ new ≠ 0 ∧ new < allocMin vc) := by omega
  have halloc := tget_tset_self s.credit.alloc (allocDefault st w vc) k new
  have hpend := tget_tset_self s.credit.pend 0 k pend
  have htotal := tget_tset_self s.credit.total 0 k (tget s.credit.total 0 k + BitVec.ofNat 16 (new - old))
  rw [if_neg (by simp [hv]), if_neg hrange]
  by_cases hgrow : old < new
  · rw [if_pos hgrow]
    refine ⟨_, rfl, ?_, ?_, ?_, rfl⟩
    exacts [halloc, hpend, htotal]
  · have hnone : tget s.credit.total 0 k = tget s.credit.total 0 k + BitVec.ofNat 16 (new - old) := by
      rw [show new - old = 0 by omega]
      exact (BitVec.add_zero _).symm
    rw [if_neg hgrow]
    refine ⟨_, rfl, ?_, ?_, ?_, rfl⟩
    exacts [halloc, hpend, hnone]

/-! ### Multicasts (R176 to R182) -/

theorem mem_maskStations {m : Byte} {i : Nat} : i ∈ maskStations m ↔ i < 8 ∧ m.getLsbD i = true := by
  simp [maskStations]

theorem stationsMask_getLsbD (l : List Nat) {i : Nat} (hi : i < 8) : (stationsMask l).getLsbD i = true ↔ i ∈ l := by
  have key : ∀ m : Byte, (l.foldl (fun m i => m ||| (1#8 <<< i)) m).getLsbD i = true ↔ m.getLsbD i = true ∨ i ∈ l := by
    induction l with
    | nil => simp
    | cons a r ih =>
      intro m
      rw [List.foldl_cons, ih, BitVec.getLsbD_or, List.mem_cons]
      have hbit : (1#8 <<< a).getLsbD i = decide (i = a) := by
        simp only [BitVec.getLsbD_shiftLeft, BitVec.getLsbD_one, hi]
        by_cases h : i = a
        · simp [h]
        · simp [h]
          omega
      simp [hbit, or_assoc]
  simpa [stationsMask] using key 0

/-- The mask of the readers left: those of a mask that were not sent to (R178). -/
theorem leftMask_getLsbD (m : Byte) (served : List Nat) {i : Nat} (hi : i < 8) :
    (stationsMask ((maskStations m).filter fun r => !served.contains r)).getLsbD i = true ↔
      m.getLsbD i = true ∧ i ∉ served := by
  rw [stationsMask_getLsbD _ hi]
  simp [mem_maskStations, hi]

/-- One transmission changes its station's inbox alone: the rest are credits and lane groups (R177). -/
theorem transmitMc_sta (s : State) (st : Nat) (q : QPacket) (n : BitVec 14) (again : Bool) (l : List Nat) :
    ∃ inbox, (s.transmitMc st q n again l).sta st = { s.sta st with inbox := inbox } := by
  unfold State.transmitMc
  extract_lets pkt out s1 s2
  have h1 : s1.sta st = s.sta st := each_inv (fun u => u.sta st = s.sta st) out _ rfl fun _ _ h => h
  have h2 : ∃ inbox, s2.sta st = { s.sta st with inbox := inbox } := by
    by_cases hin : l.contains st = true
    · refine ⟨(s.sta st).inbox ++ [(st, pkt [st])], ?_⟩
      rw [← h1]
      simp only [s2, hin, if_true]
      exact State.sta_modSta s1 st _
    · refine ⟨(s.sta st).inbox, ?_⟩
      simp only [s2, hin]
      exact h1
  split
  · exact h2
  · have hplace : TxOnly s2 _ := place_txOnly s2 st { q with pkt := pkt out, readers := out }
    rw [State.sta, hplace]
    exact h2


/-- The remnant of a packet is kept under the next number (R178, R179). -/
def State.keepRemnant (s : State) (st : Nat) (r : Remnant) : State :=
  ({ s with rem := { s.rem with nextId := s.rem.nextId + 1 } } : State).modSta st fun x =>
    { x with remnants := x.remnants ++ [r] }

theorem keepRemnant_sta (s : State) (st : Nat) (r : Remnant) :
    (s.keepRemnant st r).sta st = { s.sta st with remnants := (s.sta st).remnants ++ [r] } := State.sta_modSta _ st _

section
variable {s : State} {st : Nat} {q : QPacket}

/-- A multicast over a closed channel is refused at its first attempt (R173). -/
theorem exec_mcastFirstAttempt_closed (hw : s.mcWaiting st = some q) (hup : s.stUp st = true) (hh : (s.sta st).halted = false)
    (hroom : s.seqRoom st 3 = true) (hturn : s.vcTurn st 3 = true)
    (hc : s.mcClosed st (maskStations (BitVec.ofNat 8 (hdr q.pkt).status)) = true) :
    exec (.mcastFirstAttempt st) s = .next ((s.unqueue st q).tellMc st q .refused 0) := by
  show execMcastFirstAttempt st s = _
  simp only [execMcastFirstAttempt, hw, hup, hh, hroom, hturn, hc, Bool.not_false, Bool.and_self, act_true, if_true]

/-- A first attempt that reaches anyone, with an entry free: what is left is kept and the packet goes (R178, R179). -/
theorem exec_mcastFirstAttempt_sent (hw : s.mcWaiting st = some q) (hup : s.stUp st = true) (hh : (s.sta st).halted = false)
    (hroom : s.seqRoom st 3 = true) (hturn : s.vcTurn st 3 = true) (hentry : (s.sta st).entriesUsed < 64)
    (hc : s.mcClosed st (maskStations (BitVec.ofNat 8 (hdr q.pkt).status)) = false) {served : List Nat}
    (hserved : s.mcServed st (s.sta st).remnants q.pkt (maskStations (BitVec.ofNat 8 (hdr q.pkt).status)) = served)
    (hsome : served ≠ []) :
    let left := (maskStations (BitVec.ofNat 8 (hdr q.pkt).status)).filter fun r => !served.contains r
    let n := tget (s.sta st).pseq 0 3
    exec (.mcastFirstAttempt st) s = .next (((((s.unqueue st q).keepRemnant st
      { id := s.rem.nextId, q := q, pseq := some n, remaining := stationsMask left, entry := !left.isEmpty }).nextPseq st
        3).markSent q.op).transmitMc st q n false served) := by
  intro left n
  show execMcastFirstAttempt st s = _
  have hsent : (!served.isEmpty) = true := by simpa using hsome
  have hfree : (!left.isEmpty && decide (64 ≤ (s.sta st).entriesUsed)) = false := by
    rw [decide_eq_false (by omega), Bool.and_false]
  simp only [execMcastFirstAttempt, hw, hup, hh, hroom, hturn, hc, hserved, hsent, Bool.not_false, Bool.and_self, act_true,
    Bool.false_eq_true, if_false, if_true]
  rw [if_neg (ne_true_of_eq_false hfree)]
  rfl

/-- After a transmission the station is as numbering and keeping left it, but for its inbox (R177, R178). -/
theorem firstAttempt_sta (s : State) (st : Nat) (q : QPacket) (r : Remnant) (n : BitVec 14) (served : List Nat) :
    let t := ((((s.unqueue st q).keepRemnant st r).nextPseq st 3).markSent q.op).transmitMc st q n false served
    (t.sta st).sendq = (s.sta st).sendq.erase q ∧ (t.sta st).remnants = (s.sta st).remnants ++ [r] ∧
      tget (t.sta st).pseq 0 3 = tget (s.sta st).pseq 0 3 + 1 := by
  intro t
  obtain ⟨inbox, hsta⟩ : ∃ inbox, t.sta st = { (((s.unqueue st q).keepRemnant st r).nextPseq st 3).sta st with inbox := inbox } :=
    transmitMc_sta _ st q n false served
  rw [nextPseq_sta, keepRemnant_sta, unqueue_sta] at hsta
  rw [hsta]
  exact ⟨rfl, rfl, tget_tset_self _ _ _ _⟩

/-- A remnant after one more transmission (R178, R180). -/
def Remnant.sentTo (r : Remnant) (n : BitVec 14) (left : List Nat) : Remnant :=
  { r with remaining := stationsMask left, pseq := some n, entry := r.entry || !left.isEmpty }

/-- A remnant with an entry is sent on to the readers that hold credit now, under its number (R178, R180). -/
theorem exec_remnantRetransmit_sent {id : Nat} {r : Remnant} {n : BitVec 14} {served : List Nat}
    (hr : (s.sta st).remnants.find? (fun r => r.id == id) = some r) (hup : s.stUp st = true) (hh : (s.sta st).halted = false)
    (hn : r.pseq = some n) (hentry : r.entry = true) (hturn : s.vcTurn st 3 = true)
    (hc : s.mcClosed st (maskStations r.remaining) = false)
    (hserved : s.mcServed st ((s.sta st).olderThan id) r.q.pkt (maskStations r.remaining) = served) (hsome : served ≠ []) :
    exec (.remnantRetransmit st id) s = .next ((((s.modSta st fun x => { x with lastRr := 3 }).modSta st fun x =>
      { x with remnants := x.remnants.map fun (y : Remnant) => if y.id == id then
        y.sentTo n ((maskStations r.remaining).filter fun x => !served.contains x) else y }).markSent r.q.op).transmitMc st
          r.q n true served) := by
  have hid : r.id = id := by simpa using List.find?_some hr
  have hs : s.remnantServed st r = served := by
    simp [State.remnantServed, hid, hserved, hentry]
  have hready : s.remnantReady st r = true := by
    simpa [State.remnantReady, hs, hn] using hsome
  show execRemnantRetransmit st id s = _
  simp only [execRemnantRetransmit, hr, hup, hh, hs, hready, hturn, hc, hn, Bool.not_false, Bool.and_self, act_true, Bool.not_true,
    Bool.false_eq_true, if_false, Option.isSome_some, Option.getD_some, if_true]
  rfl

theorem remnantRetransmit_sta (s : State) (st : Nat) (q : QPacket) (f : Remnant → Remnant) (n : BitVec 14) (served : List Nat) :
    (((((s.modSta st fun x => { x with lastRr := 3 }).modSta st fun x => { x with remnants := x.remnants.map f }).markSent
      q.op).transmitMc st q n true served).sta st).remnants = (s.sta st).remnants.map f := by
  obtain ⟨inbox, hsta⟩ := transmitMc_sta (((s.modSta st fun x => { x with lastRr := 3 }).modSta st fun x =>
    { x with remnants := x.remnants.map f }).markSent q.op) st q n true served
  rw [hsta]
  show (((s.modSta st fun x => { x with lastRr := 3 }).modSta st fun x => { x with remnants := x.remnants.map f }).sta st).remnants = _
  rw [State.sta_modSta, State.sta_modSta]

theorem exec_mcastComplete {id : Nat} {r : Remnant} (hr : (s.sta st).remnants.find? (fun r => r.id == id) = some r)
    (hnone : r.remaining = 0) (hacked : ∀ q ∈ s.inFlight st, (hdr q.pkt).vc = 3 →
      some (BitVec.ofNat 14 (hdr q.pkt).pseq) ≠ r.pseq) :
    exec (.mcastComplete st id) s = .next (s.endMc st r .done) := by
  show execMcastComplete st id s = _
  have hdone : (r.remaining == 0 && !((s.inFlight st).any fun q =>
      (hdr q.pkt).vc == 3 && some (BitVec.ofNat 14 (hdr q.pkt).pseq) == r.pseq)) = true := by
    simpa [hnone] using hacked
  simp only [execMcastComplete, hr, hdone, act_true]

theorem exec_mcastPartial {id : Nat} {r : Remnant} (hr : (s.sta st).remnants.find? (fun r => r.id == id) = some r)
    (hsome : r.remaining ≠ 0) : exec (.mcastPartial st id) s = .next (s.endMc st r .partialDone) := by
  show execMcastPartial st id s = _
  have hdone : (r.remaining != 0) = true := bne_iff_ne.2 hsome
  simp only [execMcastPartial, hr, hdone, act_true]

/-- A multicast that no operation here and no device across the rack waits for tells nobody (R182). -/
theorem endMc_untold {r : Remnant} (status : Status) (hop : r.q.op = none) (hxt : (hdr r.q.pkt).xt = false) :
    s.endMc st r status = s.modSta st fun x => { x with
      remnants := x.remnants.filter fun y => y.id != r.id
      partials := if status = .partialDone then inc 16 x.partials else x.partials } := by
  simp only [State.endMc, State.tellMc, hop, hxt, Bool.false_eq_true, if_false]

end

/-- Settles O12: credit by its running totals, a multicast by the readers that each attempt leaves. -/
theorem creditsAndMulticastsTravel : Obligations.CreditsAndMulticastsTravel := by
  refine ⟨fun st w vc k s hup hv ho hk hb => ?_, fun st s hup => ?_, fun st rd rec s hup hk hv => ?_,
    fun st w vc data s hv hmin hpool => crallocWrite_taken hv hmin hpool,
    fun st q s hw hup hh hroom hturn hentry hc hsome => ?_,
    fun st q s hw hup hh hroom hturn hc => exec_mcastFirstAttempt_closed hw hup hh hroom hturn hc,
    fun st id r served s hr hup hh hn hentry hturn hc hserved hsome => ?_,
    fun st id r s hr hnone hacked => exec_mcastComplete hr hnone hacked,
    fun st id r s hr hsome => exec_mcastPartial hr hsome,
    fun st r status s hop hxt => endMc_untold status hop hxt⟩
  · rw [exec_creditRecordSend hup hv ho, creditRecords_one hup hk hb]
    exact ⟨_, rfl, rfl, tget_tset_self s.credit.owed false (creditKey st w vc) false, rfl⟩
  · show execCreditRepeat st s = _
    rw [execCreditRepeat, hup, act_true]
  · rw [exec_creditRecordReceive hup hk hv]
    exact ⟨_, rfl, takeCredit_result s st rd rec⟩
  · obtain ⟨x, hx, hone⟩ := hsome
    have hne : s.mcServed st (s.sta st).remnants q.pkt (maskStations (BitVec.ofNat 8 (hdr q.pkt).status)) ≠ [] := by
      have hserves : x ∈ s.mcServed st (s.sta st).remnants q.pkt [x] := by
        rw [hone]
        exact List.mem_singleton.2 rfl
      exact List.ne_nil_of_mem (List.mem_filter.2 ⟨hx, (List.mem_filter.1 hserves).2⟩)
    obtain ⟨hsendq, hrem, hpseq⟩ := firstAttempt_sta s st q _ _ _
    refine ⟨_, _, exec_mcastFirstAttempt_sent hw hup hh hroom hturn hentry hc rfl hne, hsendq, hrem, rfl, rfl, rfl,
      fun i hi => ?_, hpseq⟩
    rw [leftMask_getLsbD _ _ hi, mem_maskStations]
    simp [hi]
  · obtain ⟨n, hn⟩ := Option.isSome_iff_exists.1 hn
    have hid : r.id = id := by simpa using List.find?_some hr
    refine ⟨_, exec_remnantRetransmit_sent hr hup hh hn hentry hturn hc hserved hsome, ?_, fun y hy hne => ?_⟩
    · rw [remnantRetransmit_sta]
      refine ⟨r.sentTo n _, List.mem_map.2 ⟨r, List.mem_of_find?_eq_some hr, if_pos (by simp [hid])⟩, hid, hn.symm, ?_,
        fun i hi => leftMask_getLsbD _ _ hi⟩
      simp [Remnant.sentTo, hentry]
    · rw [remnantRetransmit_sta]
      exact List.mem_map.2 ⟨y, hy, if_neg (by simp [hne])⟩

end Sys2Proof.Machine
end

section
/-! SUPPORT. What traffic never touches (16): power, resets, the life cycle and what has been sent, through operations, packets and stations. -/

namespace Sys2Proof.Machine

open Sys2Proof Sys2Proof.Safety

/-! ### What traffic never touches -/

/-- What the end of an operation, a packet turned away and an answer never touch: power, the state of resets, the life cycle and
what has been sent on links and pins. -/
structure Steady where
  power : Power
  resets : Resets
  lifecycle : Nat
  out : List Out

def State.steady (s : State) : Steady where
  power := s.power
  resets := s.resets
  lifecycle := s.warden.lifecycle
  out := s.out

theorem steady_of_record {s t : State} (h : SameButRecord s t) : t.steady = s.steady := by
  unfold SameButRecord at h
  rw [h]
  rfl

theorem steady_of_same {s t : State} (h : SameButSignals s t) : t.steady = s.steady := steady_of_record h.record

theorem each_steady {α : Type} (l : List α) {f : α → State → State} (hf : ∀ a s, (f a s).steady = s.steady) (s : State) :
    (each l f s).steady = s.steady :=
  each_inv (fun t => t.steady = s.steady) l f rfl fun a t h => (hf a t).trans h

theorem when_steady (s : State) (c : Bool) {f : State → State} (hf : ∀ s, (f s).steady = s.steady) :
    (s.when c f).steady = s.steady := by
  cases c
  · rfl
  · exact hf s

theorem complete_steady (s : State) (o : Origin) (opcode : Nat) (st : Status) (res : List Byte) :
    (s.complete o opcode st res).steady = s.steady := steady_of_record (complete_same s o opcode st res)

theorem raise_steady (s : State) (src : Nat) : (s.raise src).steady = s.steady := steady_of_same (raise_same s src)

theorem sense_steady (s : State) (src : Nat) (s0 : State) : (s.sense src s0).steady = s.steady :=
  steady_of_same (sense_same s src s0)

/-! ### Operations end and come into being (R238 to R241, R269, R280) -/

theorem ctxFault_steady (s : State) (c x cause eng op : Nat) (st : Status) : (s.ctxFault c x cause eng op st).steady = s.steady := by
  unfold State.ctxFault
  dsimp only
  split
  · rfl
  · unfold State.setCtx
    rw [sense_steady, sense_steady]
    rfl

theorem signal_steady (s : State) (c x : Nat) (sig : BitVec 16) (eng op : Nat) : (s.signal c x sig eng op).steady = s.steady := by
  unfold State.signal State.bumpToken
  dsimp only
  split
  · split
    · rfl
    · split
      · rfl
      · exact ctxFault_steady _ _ _ _ _ _ _
  · rfl

theorem remoteFault_steady (s : State) (c x : Nat) (o : Op) (st : Status) (mask : Byte) :
    (s.remoteFault c x o st mask).steady = s.steady := by
  unfold State.remoteFault
  rw [when_steady _ _ fun s => raise_steady s _, raise_steady]
  rfl

theorem redirty_steady (s : State) (o : Op) (st : Status) : (s.redirty o st).steady = s.steady := by
  unfold State.redirty
  split <;> rfl

theorem leaveOwner_steady (s : State) (o : Op) (st : Status) : (s.leaveOwner o st).steady = s.steady := by
  unfold State.leaveOwner
  split <;> rfl

theorem settle_steady (s : State) (o : Op) (st : Status) (mask : Byte) : (s.settle o st mask).steady = s.steady := by
  unfold State.settle
  dsimp only
  split
  · exact redirty_steady s o st
  · split
    · rw [leaveOwner_steady]
      exact redirty_steady s o st
    · rw [when_steady _ _ fun s => signal_steady s _ _ _ _ _, when_steady _ _ fun s => remoteFault_steady s _ _ _ _ _]
      refine (when_steady _ _ fun _ => ?_).trans ((leaveOwner_steady _ o st).trans (redirty_steady s o st))
      rfl

theorem joinOwner_steady (s : State) (o : Op) : (s.joinOwner o).steady = s.steady := by
  unfold State.joinOwner
  split
  · split <;> rfl
  all_goals rfl

theorem newOps_steady (group : Nat) (l : List Req) (s : State) : (s.newOps group l).2.steady = s.steady := by
  induction l generalizing s with
  | nil => rfl
  | cons r l ih => exact (ih _).trans (joinOwner_steady _ _)

/-! ### Packets set out (R151, R226, R248, R616) -/

theorem depart_steady (s : State) (here : Nat) (p : Packet) (op : Option Nat) : (s.depart here p op).2.steady = s.steady := by
  have hport : ∀ (t : State) q f r o, (t.toPort here q f r o).steady = t.steady := fun _ _ _ _ _ => rfl
  unfold State.depart State.bcastOut State.replicate
  dsimp only
  split
  · split
    · rfl
    · split
      · exact each_steady _ (fun f t => hport t _ _ _ _) _
      · split <;> rfl
  · split <;> rfl

theorem postIn_steady (s : State) (st rd : Nat) (p : Packet) (op : Option Nat) : (s.postIn st rd p op).steady = s.steady := by
  unfold State.postIn
  split
  · rfl
  · split <;> rfl

theorem sendOut_steady (s : State) (x w : Nat) (p : Packet) : (s.sendOut x w p).steady = s.steady := by
  unfold State.sendOut
  extract_lets h p1 r
  split
  · exact depart_steady _ _ _ _
  · split
    · exact depart_steady s _ p1 _
    · exact postIn_steady _ _ _ _ _

theorem post_steady (s : State) (st rd : Nat) (p : Packet) (op : Option Nat) : (s.post st rd p op).steady = s.steady := by
  unfold State.post
  split
  · exact sendOut_steady _ _ _ _
  · exact postIn_steady _ _ _ _ _

theorem reply_steady (s : State) (st : Nat) (p : Packet) (op : Nat) (data : List Byte) (status : Status) (poison : Bool) :
    (s.reply st p op data status poison).steady = s.steady := by
  unfold State.reply
  dsimp only
  split
  · split
    · exact post_steady _ _ _ _ _
    · rfl
  · exact post_steady _ _ _ _ _

theorem launch_steady (s : State) (r : Req) (o : Op) : (s.launch r o).steady = s.steady := by
  unfold State.launch
  dsimp only
  split
  · split
    · exact post_steady _ _ _ _ _
    · rfl
  · split
    · rfl
    · split
      · rfl
      · rfl
      · split
        · exact post_steady _ _ _ _ _
        · rfl

theorem issueRaw_steady (s : State) (r : Req) : (s.issueRaw r).steady = s.steady := by
  unfold State.issueRaw
  refine (each_steady _ (fun y s => ?_) _).trans (newOps_steady _ _ s)
  split
  · exact settle_steady _ _ _ _
  · exact launch_steady _ _ _

theorem advanceJob_steady (n k : Nat) (s : State) : (State.advanceJob n k s).steady = s.steady := by
  induction k generalizing s with
  | zero => rfl
  | succ k ih =>
    simp only [State.advanceJob]
    split
    · rfl
    · split
      · split
        · exact complete_steady _ _ _ _ _
        · rfl
      · split
        · rfl
        · exact (ih _).trans (issueRaw_steady _ _)

theorem advanceOwner_steady (s : State) (o : Op) : (s.advanceOwner o).steady = s.steady := by
  unfold State.advanceOwner
  split
  · split
    · exact advanceJob_steady _ _ _
    · rfl
  · rfl

/-! ### Data goes where it belongs (R219, R226, R243) -/

theorem writeBack_steady (s : State) (st : Nat) (b : MergeBlk) : (s.writeBack st b).steady = s.steady := by
  unfold State.writeBack
  refine (when_steady _ _ ?_).trans (each_steady _ ?_ s)
  · exact fun _ => rfl
  · exact fun _ _ => rfl

theorem closeBlocks_steady (s : State) (st a n : Nat) : (s.closeBlocks st a n).steady = s.steady := by
  refine each_steady _ (fun b s => ?_) s
  split
  · split
    · exact writeBack_steady _ _ _
    · rfl
  · rfl

theorem spWrite_steady (s : State) (c off : Nat) (l : List Byte) (poisoned : Bool) :
    (s.spWrite c off l poisoned).steady = s.steady := by
  refine (each_steady _ (fun b s => ?_) _).trans rfl
  split
  · rfl
  · split <;> rfl

theorem fabWrite_steady (s : State) (a : Nat) (l : List Byte) (poisoned : Bool) : (s.fabWrite a l poisoned).steady = s.steady := by
  unfold State.fabWrite
  split
  · split
    · exact (spWrite_steady _ _ _ _ _).trans (closeBlocks_steady s _ _ _)
    · rfl
  · rfl

theorem place'_steady {st : Status} (h : st.Failed) (o : Op) (data : List Byte) (d : OpDest) (a : Nat) (s : State) :
    (s.place' o data st d a).steady = s.steady := by
  obtain ⟨hd, hp⟩ := h
  induction d generalizing data a s with
  | none => rfl
  | scratch =>
    simp only [State.place', hd, if_false]
    exact fabWrite_steady _ _ _ _
  | stage =>
    simp only [State.place', hd, hp, or_self, if_false]
  | fill n line off len alloc next ih =>
    simp only [State.place', hd, hp, or_self, false_and, if_false, partStatus_failed ⟨hd, hp⟩]
    exact ih _ _ _
  | fetch => rfl
  | entry => rfl
  | keep => rfl

theorem finish_steady {st : Status} (h : st.Failed) (s : State) (o : Op) (data : List Byte) (mask : Byte) :
    (s.finish o st data mask).steady = s.steady := by
  unfold State.finish
  split
  · exact settle_steady _ _ _ _
  · exact (advanceOwner_steady _ _).trans ((settle_steady _ _ _ _).trans (place'_steady h o _ _ _ s))

theorem refusePacket_steady {status : Status} (h : status.Failed) (s : State) (st rd : Nat) (q : QPacket) :
    (s.refusePacket st rd q status).steady = s.steady := by
  unfold State.refusePacket State.endOp
  dsimp only
  split
  · split
    · rfl
    · split
      · exact finish_steady h _ _ _ _
      · rfl
  · split
    · split
      · exact reply_steady _ _ _ _ _ _ _
      · rfl
    · split
      · rfl
      · split
        · split
          · exact finish_steady h _ _ _ _
          · rfl
        · split
          · rfl
          · exact postIn_steady _ _ _ _ _

/-! ### A station leaves service (R44, R54, R189, R253) -/

theorem readerSetsChanged_steady (s : State) (st : Nat) : (s.readerSetsChanged st).steady = s.steady := by
  refine each_steady _ (fun rg s => ?_) s
  dsimp only
  split
  · unfold State.reshare
    dsimp only
    split
    · exact each_steady _ (by intros; rfl) _
    · rfl
  · rfl

theorem stationGone_steady (s : State) (st : Nat) : (s.stationGone st).steady = s.steady := by
  have hpend : ∀ (t : State) r w, (t.clearPend r w).steady = t.steady := fun t _ _ => each_steady _ (by intros; rfl) t
  have hpurge : ∀ (t : State) w, (t.purgeTo w st).steady = t.steady := fun t _ => (each_steady _ (by intros; rfl) _).trans rfl
  refine (each_steady _ (fun e t => refusePacket_steady deadTarget_failed t _ _ _) _).trans ?_
  refine (readerSetsChanged_steady _ st).trans (each_steady _ (fun w t => ?_) s)
  exact (hpend _ _ _).trans ((hpend _ _ _).trans (hpurge _ _))

theorem dropChange_steady (s : State) (st rg : Nat) (status : Status) : (s.dropChange st rg status).steady = s.steady := by
  unfold State.dropChange State.answer
  split
  · rfl
  · split
    · exact complete_steady _ _ _ _ _
    · rfl

theorem setRings_steady (s : State) (l : List RingId) (x : RingState) : (s.setRings l x).steady = s.steady := by
  refine each_steady _ (fun r s => ?_) s
  split <;> rfl

theorem clearStation_steady (s : State) (st : Nat) (full : Bool) : (s.clearStation st full).steady = s.steady := by
  unfold State.clearStation
  extract_lets s1 s2 s3
  have h1 : s1.steady = s.steady := each_steady _ (by intros; rfl) s
  have h2 : s2.steady = s1.steady := each_steady _ (by intros; rfl) s1
  have h3 : s3.steady = s2.steady := by
    cases full
    · exact setRings_steady s2 _ _
    · exact each_steady _ (by intros; rfl) s2
  exact h3.trans (h2.trans h1)

theorem stationDown_steady (s : State) (st : Nat) (full : Bool) : (s.stationDown st full).steady = s.steady := by
  unfold State.stationDown
  extract_lets s1 s2
  have h1 : s1.steady = s.steady := each_steady _ (fun rg t => dropChange_steady t _ _ _) s
  have h2 : s2.steady = s1.steady := stationGone_steady _ st
  exact (clearStation_steady s2 st full).trans (h2.trans h1)

end Sys2Proof.Machine
end

section
/-! SUPPORT. Thermal trip (16): what each die, field and station that stops leaves of the record of a trip, and what a trip leaves. -/

namespace Sys2Proof.Machine

open Sys2Proof Sys2Proof.Safety

/-! ### What a trip leaves to read (R513, R520, R582) -/

/-- THM_TRIP and the pin of a power manager (R513, R520). -/
structure TripRegs where
  thermtrip : Bool
  tripped : Bool
  valid : Bool
  kind : Nat
  index : Nat
  temp : Nat
  count : Nat

def Power.trip (p : Power) : TripRegs where
  thermtrip := p.thermtrip
  tripped := p.tripped
  valid := p.tripValid
  kind := p.tripKind
  index := p.tripIndex
  temp := p.tripTemp
  count := p.tripCount

/-- Between s and t the record of a trip and the life cycle stand, no gated die returns, and what has been sent stays sent. -/
structure TripStands (s t : State) : Prop where
  trip : t.power.trip = s.power.trip
  lifecycle : t.warden.lifecycle = s.warden.lifecycle
  gated : ∀ d, (s.die d).state = .gated → (t.die d).state = .gated
  out : s.out ⊆ t.out

theorem TripStands.of_parts {s t : State} (hp : t.power.trip = s.power.trip) (hw : t.warden.lifecycle = s.warden.lifecycle)
    (hd : t.resets.dies = s.resets.dies) (ho : t.out = s.out) : TripStands s t := by
  refine ⟨hp, hw, fun d h => ?_, by rw [ho]; exact List.Subset.refl _⟩
  rwa [State.die, hd]

theorem TripStands.of_steady {s t : State} (h : t.steady = s.steady) : TripStands s t :=
  .of_parts (congrArg (fun x => x.power.trip) h) (congrArg Steady.lifecycle h) (congrArg (fun x => x.resets.dies) h)
    (congrArg Steady.out h)

theorem TripStands.refl (s : State) : TripStands s s := .of_steady rfl

theorem TripStands.trans {a b c : State} (h : TripStands a b) (k : TripStands b c) : TripStands a c where
  trip := k.trip.trans h.trip
  lifecycle := k.lifecycle.trans h.lifecycle
  gated d hd := k.gated d (h.gated d hd)
  out := List.Subset.trans h.out k.out

theorem each_tripStands {α : Type} (l : List α) {f : α → State → State} (hf : ∀ a s, TripStands s (f a s)) (s : State) :
    TripStands s (each l f s) := each_rel TripStands.refl TripStands.trans l hf s

/-- A die unit that is changed, without bringing a gated die back. -/
theorem modDie_tripStands (s : State) (d : Nat) {f : DieUnit → DieUnit} (hf : ∀ x : DieUnit, x.state = .gated → (f x).state = .gated) :
    TripStands s (s.modDie d f) := by
  refine ⟨rfl, rfl, fun i hi => ?_, List.Subset.refl _⟩
  by_cases h : i = d
  · subst h
    rw [State.die_modDie]
    exact hf _ hi
  · rwa [State.die_modDie_ne _ _ h]

theorem senseAll_steady (s s0 : State) : (s.senseAll s0).steady = s.steady := each_steady _ (fun src t => sense_steady t src s0) s

theorem senseAll_same (s s0 : State) : SameButSignals s (s.senseAll s0) :=
  each_rel SameButSignals.refl SameButSignals.trans _ (fun src t => sense_same t src s0) s

/-! ### A die is gated on a trip (R513, R530 to R535, R619) -/

theorem endWaits_tripStands (s : State) (d : Nat) : TripStands s (s.endWaits d) := by
  unfold State.endWaits
  extract_lets s1
  have hcores : s1.steady = s.steady := by
    refine each_steady _ (fun i s => ?_) s
    split
    · exact complete_steady _ _ _ _ _
    · rfl
  clear_value s1
  refine .trans (.of_steady hcores) ?_
  split
  · exact (modDie_tripStands s1 d (by intro _ h; exact h)).trans (.of_steady (complete_steady _ _ _ _ _))
  · exact .refl s1

theorem loseBlock_tripStands (s : State) (b : MergeBlk) : TripStands s (s.loseBlock b) := by
  unfold State.loseBlock
  extract_lets s1 s2
  have h1 : s1.steady = s.steady := each_steady _ (by intros; rfl) s
  have h2 : s2.steady = s1.steady := by
    by_cases hb : b.poisonSet = true
    · simp only [s2, hb, if_true]
      exact when_steady _ _ fun _ => rfl
    · simp only [s2, hb]
      rfl
  exact .trans (.of_steady (h2.trans h1)) (.of_parts rfl rfl rfl rfl)

/-- On a trip an open block that targets the die's cache die is lost (R513, R619). -/
theorem gateMerge_tripStands (s : State) (d : Nat) : TripStands s (s.gateMerge d 5) := by
  unfold State.gateMerge
  rw [if_neg (by decide)]
  exact each_tripStands _ (fun b t => loseBlock_tripStands t b) s

theorem sendRecord_steady (s : State) (r : Record) : (s.sendRecord r).steady = s.steady := sense_steady _ _ s

theorem deadRecords_tripStands (s : State) (d : Nat) : TripStands s (s.deadRecords d) := by
  refine each_tripStands _ (fun i t => each_tripStands _ (fun x u => ?_) t) s
  exact .trans (.of_steady (sendRecord_steady u _)) (.of_parts rfl rfl rfl rfl)

theorem clearCore_steady (s : State) (c : Nat) : (s.clearCore c).steady = s.steady := by
  unfold State.clearCore State.forgetSheaf
  extract_lets s0 s1 s2
  have h0 : s0.steady = s.steady := each_steady _ (by intros; rfl) s
  clear_value s0
  exact h0

theorem loseRemnants_tripStands (s : State) (st : Nat) : TripStands s (s.loseRemnants st) := .of_parts rfl rfl rfl rfl

theorem zeroScratch_steady (s : State) (d : Nat) : (s.zeroScratch d).steady = s.steady := rfl

theorem clearKd_steady (s : State) (n : Nat) : (s.clearKd n).steady = s.steady := rfl

theorem dropDieOps_steady (s : State) (d : Nat) : (s.dropDieOps d).steady = s.steady := by
  unfold State.dropDieOps
  extract_lets mine s1
  have h1 : s1.steady = s.steady := each_steady _ (by intros; exact redirty_steady _ _ _) s
  clear_value s1
  exact h1

theorem stopDie_tripStands (s : State) (d : Nat) : TripStands s (s.stopDie d) := by
  unfold State.stopDie
  extract_lets s1
  have h1 : TripStands (s.dropCopies d) s1 := each_tripStands _ (by intros; exact .of_parts rfl rfl rfl rfl) _
  clear_value s1
  have h0 : TripStands s (s.dropCopies d) := .of_parts rfl rfl rfl rfl
  exact (h0.trans h1).trans (.of_parts rfl rfl rfl rfl)

theorem stopBonds_tripStands (s : State) (d : Nat) (field : Bool) : TripStands s (s.stopBonds d field) :=
  each_tripStands _ (by intros; exact .of_parts rfl rfl rfl rfl) s

theorem dropRuns_steady (s : State) (p : BistHold → Bool) : (s.dropRuns p).steady = s.steady :=
  (each_steady _ (by intros; exact complete_steady _ _ _ _ _) _).trans rfl

theorem dropLoops_steady (s : State) (p : Nat → Bool) : (s.dropLoops p).steady = s.steady :=
  (each_steady _ (by intros; exact complete_steady _ _ _ _ _) _).trans rfl

/-- A trip gates a die, and gates none back; its record stands (R513, R531). -/
theorem gateDie_trip (s : State) (d : Nat) : TripStands s (s.gateDie d 5) ∧ ((s.gateDie d 5).die d).state = .gated := by
  unfold State.gateDie
  by_cases hg : (s.die d).state = .gated
  · rw [if_pos hg]
    exact ⟨.refl s, hg⟩
  · rw [if_neg hg]
    extract_lets kept s1 s2 s3 s4 s5
    have h1 : TripStands s s1 :=
      ((endWaits_tripStands s d).trans (gateMerge_tripStands _ d)).trans (deadRecords_tripStands _ d)
    have h2 : TripStands s1 s2 := (loseRemnants_tripStands s1 d).trans (.of_steady (each_steady _ (by intros; exact clearCore_steady _ _) _))
    let g := s2.modDie d fun x => { x with state := .gated, gcause := 5, kdKept := kept, gates := inc 16 x.gates }
    have hgate : TripStands s2 g := modDie_tripStands s2 d fun _ _ => rfl
    have hdie : (g.die d).state = .gated := by simp only [g, State.die_modDie]
    have h3 : TripStands g s3 := .of_steady ((stationDown_steady _ d false).trans (dropDieOps_steady g d))
    have h4 : TripStands s3 s4 := by
      refine ((stopBonds_tripStands s3 d false).trans (stopDie_tripStands _ d)).trans (.of_steady ?_)
      exact (when_steady _ _ fun t => clearKd_steady t d).trans (zeroScratch_steady _ d)
    have h5 : TripStands s4 s5 := .of_steady ((dropLoops_steady _ _).trans (dropRuns_steady s4 _))
    have h6 : TripStands s5 (((s5.log 0x0040 2 0xFFFF [0, BitVec.ofNat 8 d, BitVec.ofNat 8 5]).senseAll s).capSense
        (List.range 15) s) := by
      refine .of_steady ((steady_of_same (capSense_same _ _ s)).trans ((senseAll_steady _ s).trans ?_))
      exact steady_of_same (log_same s5 _ _ _ _)
    have hrest := h3.trans (h4.trans (h5.trans h6))
    exact ⟨h1.trans (h2.trans (hgate.trans hrest)), hrest.gated d hdie⟩

/-! ### A location reaches Shutdown (R511, R513) -/

/-- The lane groups and rings of a station that is cleared do not bear on what the stations hold. -/
theorem clearStation_st (s : State) (st : Nat) :
    (s.clearStation st false).fab.st = (s.modSta st Station.gated).fab.st := by
  unfold State.clearStation
  extract_lets s1 s2 s3
  have h1 : s1.fab.st = s.fab.st := each_inv (fun t => t.fab.st = s.fab.st) _ _ rfl (by intro _ _ h; exact h)
  have h2 : s2.fab.st = s1.fab.st := each_inv (fun t => t.fab.st = s1.fab.st) _ _ rfl (by intro _ _ h; exact h)
  have h3 : s3.fab.st = s2.fab.st := by
    refine each_inv (fun t => t.fab.st = s2.fab.st) (stationRings st) _ rfl fun r t h => ?_
    split <;> exact h
  have h := h3.trans (h2.trans h1)
  clear_value s3
  simp only [State.modSta, h, Bool.false_eq_true, if_false]

/-- A station out of service, as a trip leaves it. -/
def State.stationOff (s : State) (st : Nat) : State := (s.modSta st fun x => { x with up := false }).clearStation st false

theorem stationOff_steady (s : State) (st : Nat) : (s.stationOff st).steady = s.steady :=
  (clearStation_steady _ st false).trans rfl

theorem stationOff_up (s : State) (st w : Nat) (h : w = st ∨ (s.sta w).up = false) : ((s.stationOff st).sta w).up = false := by
  have hst : (s.stationOff st).sta w = ((s.modSta st fun x => { x with up := false }).modSta st Station.gated).sta w := by
    rw [State.sta, State.sta, State.stationOff, clearStation_st]
  rw [hst]
  by_cases hw : w = st
  · subst hw
    rw [State.sta_modSta]
    rfl
  · rw [State.sta_modSta_ne _ _ hw, State.sta_modSta_ne _ _ hw]
    exact h.resolve_left hw

/-- The dies, the fields and the stations of a package that trips, in the order in which they stop (R513). -/
def State.diesOff (s : State) : State := each (List.range 8) (fun d s => s.gateDie d 5) s
def State.fieldsOff (s : State) : State :=
  each (List.range 4) (fun k s => s.modField k fun f => { f with state := .off, cold := false, enabling := none }) s
def State.stationsOff (s : State) : State := each (List.range nSt) (fun st s => s.stationOff st) s

theorem tripAll_eq (s : State) : s.tripAll = s.diesOff.fieldsOff.stationsOff.emptied := rfl

theorem diesOff_result (s : State) : TripStands s s.diesOff ∧ ∀ d < 8, (s.diesOff.die d).state = .gated :=
  ⟨each_tripStands _ (fun d t => (gateDie_trip t d).1) s, fun d hd =>
    each_all (Q := fun d t => (t.die d).state = .gated) _ s (fun d t => (gateDie_trip t d).2)
      (fun a d t h => (gateDie_trip t a).1.gated d h) d (List.mem_range.2 hd)⟩

theorem fieldsOff_tripStands (s : State) : TripStands s s.fieldsOff :=
  each_tripStands _ (by intros; exact .of_parts rfl rfl rfl rfl) s

theorem stationsOff_result (s : State) : TripStands s s.stationsOff ∧ ∀ st < 14, (s.stationsOff.sta st).up = false :=
  ⟨.of_steady (each_steady _ (fun st t => stationOff_steady t st) s), fun st hst =>
    each_all (Q := fun st t => (t.sta st).up = false) _ s (fun st t => stationOff_up t st st (.inl rfl))
      (fun a st t h => stationOff_up t a st (.inr h)) st (List.mem_range.2 hst)⟩

theorem emptied_result (s : State) : TripStands s s.emptied ∧ (∀ st, s.emptied.sta st = s.sta st) ∧ s.emptied.mem.cells = [] ∧
    s.emptied.rem.ops = [] ∧ s.emptied.bridge.waiting = [] := by
  refine ⟨.of_parts rfl rfl rfl rfl, fun _ => rfl, ?_, rfl, rfl⟩
  simp [State.emptied, Memory.erase]

/-- On a tripped package every die is gated, every station is out and memory and what was under way are gone; the record of the
trip stands (R513). -/
theorem tripAll_result (s : State) :
    TripStands s s.tripAll ∧ (∀ d < 8, (s.tripAll.die d).state = .gated) ∧ (∀ st < 14, (s.tripAll.sta st).up = false) ∧
      s.tripAll.mem.cells = [] ∧ s.tripAll.rem.ops = [] ∧ s.tripAll.bridge.waiting = [] := by
  rw [tripAll_eq]
  obtain ⟨h1, hdies⟩ := diesOff_result s
  have h2 := fieldsOff_tripStands s.diesOff
  obtain ⟨h3, hup⟩ := stationsOff_result s.diesOff.fieldsOff
  obtain ⟨h4, hsta, hcells, hops, hwaiting⟩ := emptied_result s.diesOff.fieldsOff.stationsOff
  have hrest := h2.trans (h3.trans h4)
  exact ⟨h1.trans hrest, fun d hd => hrest.gated d (hdies d hd), fun st hst => by rw [hsta, hup st hst], hcells, hops, hwaiting⟩

/-- The state in which a trip is recorded and shown, before what runs is stopped (R513, R562, R571). -/
def State.tripShown (s : State) (loc : ThermLoc) (t : Nat) : State :=
  (((s.modTherm loc fun x => { x with temp := t, peak := max x.peak t, level := 2 }).recordTrip loc t).emit
    (.thermtrip true)).markArea areaCounters

theorem modTherm_trip (s : State) (loc : ThermLoc) (f : Therm → Therm) : (s.modTherm loc f).power.trip = s.power.trip ∧
    (s.modTherm loc f).warden = s.warden := by
  cases loc <;> exact ⟨rfl, rfl⟩

/-- The record of a shutdown at a location, the n-th (R513, R520). -/
def TripRegs.shutdown (loc : ThermLoc) (t n : Nat) : TripRegs where
  thermtrip := true
  tripped := true
  valid := true
  kind := loc.ctorIdx
  index := thermIndex loc
  temp := t
  count := n

theorem tripShown_result (s : State) (loc : ThermLoc) (t : Nat) :
    (s.tripShown loc t).power.trip = .shutdown loc t (inc 16 s.power.tripCount) ∧
    (s.tripShown loc t).warden.lifecycle = s.warden.lifecycle ∧ Out.thermtrip true ∈ (s.tripShown loc t).out := by
  obtain ⟨htrip, hwarden⟩ := modTherm_trip s loc fun x => { x with temp := t, peak := max x.peak t, level := 2 }
  have hcount := congrArg TripRegs.count htrip
  have hlife := congrArg Warden.lifecycle hwarden
  generalize hu : (s.modTherm loc fun x => { x with temp := t, peak := max x.peak t, level := 2 }) = u at hcount hlife
  rw [State.tripShown, hu]
  refine ⟨?_, hlife, List.mem_append_right _ (List.mem_singleton.2 rfl)⟩
  exact congrArg (fun n => TripRegs.shutdown loc t (inc 16 n)) hcount

theorem exec_thermalShutdown {loc : ThermLoc} {temp : Nat} {s : State} (hloc : thermOk loc = true)
    (htrip : s.power.tripped = false) (hhot : (thresholds loc).2.2 ≤ temp) :
    ∃ data, exec (.thermalShutdown loc temp) s
      = .next ((((s.tripShown loc (min temp 255)).log 0x0050 2 0xFFFF data).tripAll).senseAll s) := by
  refine ⟨leBytes 4 (2 ^ 31 + loc.ctorIdx * 2 ^ 28 + thermIndex loc * 2 ^ 24 + min temp 255 * 2 ^ 16
    + (s.tripShown loc (min temp 255)).power.tripCount), ?_⟩
  show execThermalShutdown loc temp s = _
  rw [execThermalShutdown, hloc, htrip, decide_eq_true hhot]
  rfl

/-- A shutdown: the record of the trip, the pin, and a package on which nothing runs (R513). -/
theorem thermalShutdown_result {loc : ThermLoc} {temp : Nat} {s : State} (hloc : thermOk loc = true)
    (htrip : s.power.tripped = false) (hhot : (thresholds loc).2.2 ≤ temp) :
    ∃ t, exec (.thermalShutdown loc temp) s = .next t ∧
      t.power.trip = .shutdown loc (min temp 255) (inc 16 s.power.tripCount) ∧
      Out.thermtrip true ∈ t.out ∧ t.mem.cells = [] ∧ (∀ d < 8, (t.die d).state = .gated) ∧
      (∀ st < 14, (t.sta st).up = false) ∧ t.rem.ops = [] ∧ t.bridge.waiting = [] ∧
      t.warden.lifecycle = s.warden.lifecycle := by
  obtain ⟨data, he⟩ := exec_thermalShutdown hloc htrip hhot
  refine ⟨_, he, ?_⟩
  obtain ⟨hregs, hlife, hpin⟩ := tripShown_result s loc (min temp 255)
  have hlog : TripStands (s.tripShown loc (min temp 255)) _ := .of_steady (steady_of_same (log_same _ 0x0050 2 0xFFFF data))
  obtain ⟨hstands, hdies, hsta, hcells, hops, hwaiting⟩ := tripAll_result ((s.tripShown loc (min temp 255)).log 0x0050 2 0xFFFF data)
  have hsense := senseAll_same ((s.tripShown loc (min temp 255)).log 0x0050 2 0xFFFF data).tripAll s
  have hall := hlog.trans (hstands.trans (.of_steady (senseAll_steady _ s)))
  refine ⟨hall.trip.trans hregs, hall.out hpin, by rw [hsense.mem, hcells], fun d hd => ?_, fun st hst => ?_, ?_, ?_,
    hall.lifecycle.trans hlife⟩
  · rw [State.die, hsense.resets]
    exact hdies d hd
  · rw [State.sta, hsense.fab]
    exact hsta st hst
  · rw [hsense]
    exact hops
  · rw [hsense.bridge, hwaiting]

end Sys2Proof.Machine
end

section
/-! SUPPORT. Warm reset, power-on reset and loss of power (16): what the units of a package change as they start, and what stands and is cleared. -/

namespace Sys2Proof.Machine

open Sys2Proof Sys2Proof.Safety

/-! ### What the units of a package change as they start (R112, R145, R195, R571) -/

/-- t is s but for the fabric, the stacks and cache dies, bond links, regions and dies of power, field and die units, the marks of
record areas and the draws. -/
def UnitsOnly (s t : State) : Prop :=
  t = { s with
    fab := t.fab
    mem := { s.mem with hbm := t.mem.hbm, kd := t.mem.kd }
    power := { s.power with bonds := t.power.bonds, regions := t.power.regions, dies := t.power.dies }
    resets := { s.resets with fields := t.resets.fields, dies := t.resets.dies }
    warden := { s.warden with areas := t.warden.areas }
    drawn := t.drawn }

theorem UnitsOnly.refl (s : State) : UnitsOnly s s := rfl

theorem UnitsOnly.trans {s t u : State} (h : UnitsOnly s t) (k : UnitsOnly t u) : UnitsOnly s u := by
  unfold UnitsOnly at *
  rw [k, h]

theorem UnitsOnly.phase {s t : State} (h : UnitsOnly s t) : t.resets.phase = s.resets.phase := by rw [h]

theorem UnitsOnly.cells {s t : State} (h : UnitsOnly s t) : t.mem.cells = s.mem.cells := by rw [h]

theorem each_units {α : Type} (l : List α) {f : α → State → State} (hf : ∀ a s, UnitsOnly s (f a s)) (s : State) :
    UnitsOnly s (each l f s) := each_rel UnitsOnly.refl UnitsOnly.trans l hf s

theorem modBond_units (s : State) (d i : Nat) (f : Bond → Bond) : UnitsOnly s (s.modBond d i f) := rfl
theorem modRegion_units (s : State) (r : Nat) (f : Region → Region) : UnitsOnly s (s.modRegion r f) := rfl
theorem modDiePower_units (s : State) (d : Nat) (f : DiePower → DiePower) : UnitsOnly s (s.modDiePower d f) := rfl
theorem modDie_units (s : State) (d : Nat) (f : DieUnit → DieUnit) : UnitsOnly s (s.modDie d f) := rfl
theorem modField_units (s : State) (k : Nat) (f : FieldUnit → FieldUnit) : UnitsOnly s (s.modField k f) := rfl
theorem modKd_units (s : State) (n : Nat) (f : CacheDie → CacheDie) : UnitsOnly s (s.modKd n f) := rfl
theorem markArea_units (s : State) (a : Nat) : UnitsOnly s (s.markArea a) := rfl
theorem draw_modHbm_units (s : State) (h : Nat) (f : Hbm → Hbm) : UnitsOnly s (s.draw.modHbm h f) := rfl

theorem setRings_units (s : State) (l : List RingId) (x : RingState) : UnitsOnly s (s.setRings l x) := by
  refine each_units l (fun r t => ?_) s
  split <;> rfl

theorem acquireField_units (s : State) (k : Nat) : UnitsOnly s (s.acquireField k) :=
  each_units _ (fun _ t => setRings_units t _ _) s

/-- A field starts while the package is not in service: only its rings and its unit change (R112, R145). -/
theorem startField_units {s : State} (hphase : s.resets.phase ≠ .ready) (k : Nat) (o : Option Origin) :
    UnitsOnly s (s.startField k o) := by
  unfold State.startField
  split
  · rw [fieldStarts_not_ready (s.modField k _) k hphase]
    exact (modField_units s k _).trans (acquireField_units _ k)
  · exact modField_units s k _

theorem restDie_units (s : State) (d : Nat) : UnitsOnly s (s.restDie d) := by
  unfold State.restDie
  extract_lets s1 s2 s3
  have h1 : UnitsOnly s s1 := each_units _ (fun i t => modBond_units t d i _) s
  have h2 : UnitsOnly s1 s2 := each_units _ (fun i t => modRegion_units t _ _) s1
  have h3 : UnitsOnly s s3 := h1.trans (h2.trans (modDiePower_units s2 d _))
  split
  · exact h3
  · exact h3.trans (modDie_units s3 d _)

/-! ### Package warm reset (R522 to R529, R540) -/

/-- t is s but for the bytes of memory, their poison and what the stations hold. -/
def BlocksOnly (s t : State) : Prop := t = { s with fab := t.fab, mem := t.mem }

theorem BlocksOnly.trans {s t u : State} (h : BlocksOnly s t) (k : BlocksOnly t u) : BlocksOnly s u := by
  unfold BlocksOnly at *
  rw [k, h]

theorem writeBack_blocks (s : State) (st : Nat) (b : MergeBlk) : BlocksOnly s (s.writeBack st b) := by
  unfold State.writeBack
  extract_lets s1 s2
  have h1 : BlocksOnly s s1 := each_rel (R := BlocksOnly) (fun _ => rfl) .trans _ (by intros; rfl) s
  have h2 : BlocksOnly s1 s2 := by
    cases hp : b.poisonSet
    · simp only [s2, hp]
      rfl
    · simp only [s2, hp]
      rfl
  exact (h1.trans h2).trans rfl

/-- Every station writes back its open blocks, as a reset begins (R540). -/
def State.allFlushed (s : State) : State := each (List.range nSt) (fun st s => s.flushMerge st) s

theorem allFlushed_blocks (s : State) : BlocksOnly s s.allFlushed :=
  each_rel (R := BlocksOnly) (fun _ => rfl) .trans _ (fun st t =>
    each_rel (R := BlocksOnly) (fun _ => rfl) .trans _ (fun b u => writeBack_blocks u st b) t) s

theorem tget_filter_in {β : Type} (t : Tbl β) (d : β) {p : Nat → Bool} {i : Nat} (h : p i = true) :
    tget (t.filter fun e => p e.1) d i = tget t d i := by
  induction t with
  | nil => rfl
  | cons e r ih =>
    obtain ⟨j, v⟩ := e
    by_cases hj : p j = true
    · have hkeep : ((j, v) :: r).filter (fun e => p e.1) = (j, v) :: r.filter fun e => p e.1 := List.filter_cons_of_pos hj
      simp only [hkeep, tget, ih]
    · have hne : j ≠ i := fun he => hj (he ▸ h)
      simpa [hj, tget, hne] using ih

/-- With no block open there is nothing to write back. -/
theorem allFlushed_none {s : State} (h : ∀ st, (s.sta st).merge = []) : s.allFlushed = s :=
  each_inv (fun t => t = s) _ _ rfl (by
    rintro st _ rfl
    rw [State.flushMerge, h st, each_nil])

/-- The dies rest and the fields start, as a reset ends (R112, R527). -/
def State.diesRested (s : State) : State := each (List.range 8) (fun d s => s.restDie d) s
def State.fieldsStarted (s : State) : State := each (List.range 4) (fun k s => s.startField k none) s

theorem warmReset_eq (s : State) :
    s.warmReset = ((s.allFlushed.warmed.diesRested.fieldsStarted).markArea areaCounters).senseAll s := rfl

theorem diesRested_units (s : State) : UnitsOnly s s.diesRested := each_units _ (fun d t => restDie_units t d) s

theorem fieldsStarted_units {s : State} (hphase : s.resets.phase ≠ .ready) : UnitsOnly s s.fieldsStarted :=
  each_inv (fun t => UnitsOnly s t) _ _ (UnitsOnly.refl s) fun k t ht =>
    ht.trans (startField_units (by rwa [ht.phase]) k none)

/-- What a warm reset leaves, with units that start and what notices leave behind (R525, R527). -/
theorem warmReset_units (s : State) : ∃ u, UnitsOnly s.allFlushed.warmed u ∧ SameButSignals u s.warmReset := by
  rw [warmReset_eq]
  have h1 := diesRested_units s.allFlushed.warmed
  have hphase : s.allFlushed.warmed.diesRested.resets.phase ≠ .ready := by
    rw [h1.phase]
    exact nofun
  exact ⟨_, (h1.trans (fieldsStarted_units hphase)).trans (markArea_units _ _), senseAll_same _ s⟩

theorem warmed_cells (s : State) : s.warmed.mem.cells = s.mem.cells.filter fun e => !decide (2 ^ 41 ≤ e.1) := rfl

/-- The bytes of memory after a warm reset: HBM keeps its own, cache dies and scratchpads read as zero (R196, R214, R219, R525). -/
theorem warmReset_cells (s : State) : s.warmReset.mem.cells = s.allFlushed.mem.cells.filter fun e => !decide (2 ^ 41 ≤ e.1) := by
  obtain ⟨u, hu, hs⟩ := warmReset_units s
  rw [hs.mem, hu.cells, warmed_cells]

theorem warmReset_hbm {s : State} (hnone : ∀ st, (s.sta st).merge = []) {a : Nat} (ha : a < 2 ^ 41) :
    s.warmReset.mem.rd a = s.mem.rd a := by
  rw [Memory.rd, warmReset_cells, allFlushed_none hnone]
  exact tget_filter_in _ _ (p := fun i => !decide (2 ^ 41 ≤ i)) (by simpa using ha)

theorem warmReset_sram (s : State) {a : Nat} (ha : 2 ^ 41 ≤ a) (hera : a < kdEra) : s.warmReset.mem.rd a = 0 := by
  rw [Memory.rd, warmReset_cells]
  refine (tget_filter_out _ _ (p := fun i => !decide (2 ^ 41 ≤ i)) (by simpa using ha)).trans ?_
  exact if_pos hera

/-- What a package warm reset clears, and what it keeps (R154, R201, R329, R392, R412, R522, R525). -/
theorem warmReset_result (s : State) :
    let t := s.warmReset
    t.resets.phase = .warm ∧ t.resets.cause = 1 ∧ t.resets.warmCnt = inc 16 s.resets.warmCnt ∧ t.hash = State.reset.hash ∧
      t.time.root = 0 ∧ t.group = { Group.reset with inc := s.warden.incStored + 1 } ∧
      t.warden.incStored = s.warden.incStored + 1 ∧ t.cores = [] ∧ t.plat = Plat.reset ∧ t.ports = State.reset.ports ∧
      (∀ h, t.hopper h = Hopper.reset) ∧ t.warden.lifecycle = s.warden.lifecycle ∧ t.warden.serving = s.warden.serving ∧
      t.out = s.out := by
  obtain ⟨u, hu, hs⟩ := warmReset_units s
  have hf := allFlushed_blocks s
  intro t
  have ht : t = _ := hs
  rw [hu, hf] at ht
  rw [ht]
  exact ⟨rfl, rfl, rfl, rfl, rfl, rfl, rfl, rfl, rfl, rfl, fun _ => rfl, rfl, rfl, rfl⟩

theorem exec_warmReset {s : State} (htrip : s.power.tripped = false) (o : Origin) :
    exec (.warmReset o) s = .next
      (if o.mbox || o.quiet then s else s.emit (.record (s.cmdRecord o 0x08 .done []))).warmReset := by
  show execWarmReset o s = _
  rw [execWarmReset, htrip]
  rfl

/-! ### Power-on reset and loss of power (R522, R525, R564, R571, R613) -/

/-- What a power-on reset begins anew, with units that the fuses and the repair maps set (R481, R570, R582). -/
theorem poweredOn_units (s : State) : UnitsOnly (s.fresh s.bootInc) s.poweredOn := by
  unfold State.poweredOn
  extract_lets inc s1 s2 s3
  have h2 : UnitsOnly s1 s2 := by
    by_cases hr : s.holds areaRepair = true
    · simp only [s2, hr, if_true]
      exact each_units _ (fun n t => modKd_units t n _) s1
    · simp only [s2, hr]
      exact .refl s1
  have h3 : UnitsOnly s2 s3 := by
    by_cases hl : s.warden.lifecycle = 4
    · simp only [s3, hl, if_true]
      exact each_units _ (fun d t => modDie_units t d _) s2
    · simp only [s3, hl, if_false]
      exact .refl s2
  exact (h2.trans h3).trans (markArea_units s3 _)

/-- What a power-on reset leaves of what outlives it, and what it clears (R522, R525, R548, R564, R579). -/
theorem poweredOn_result (s : State) :
    let t := s.poweredOn
    t.resets.phase = .poweron ∧ t.resets.cause = (if s.power.tripped then 2 else 0) ∧ t.power.tripped = false ∧
      t.power.tripValid = s.power.tripValid ∧ t.power.tripCount = s.power.tripCount ∧ t.hash = State.reset.hash ∧
      t.time.root = 0 ∧ t.cores = [] ∧ t.mem.cells = [] ∧ t.warden.serving = false ∧
      t.warden.lifecycle = s.warden.lifecycle ∧ t.warden.log = s.warden.log ∧ t.warden.leafNext = t.warden.leafEnd := by
  intro t
  have ht : t = _ := poweredOn_units s
  rw [ht]
  exact ⟨rfl, rfl, rfl, rfl, rfl, rfl, rfl, rfl, rfl, rfl, rfl, rfl, rfl⟩

theorem stored_tripStands (s : State) (a : Nat) : TripStands s (s.stored a) := by
  unfold State.stored
  split
  · exact .of_parts rfl rfl rfl rfl
  · split
    · exact .of_parts rfl rfl rfl rfl
    · split
      · exact .of_parts rfl rfl rfl rfl
      · split
        · exact .of_parts rfl rfl rfl rfl
        · exact .refl s

theorem writeArea_tripStands (s : State) (a : Nat) : TripStands s (s.writeArea a true) :=
  .of_steady ((sense_steady _ _ s).trans rfl)

theorem flushLog_tripStands (s : State) : TripStands s s.flushLog := by
  unfold State.flushLog
  extract_lets s1
  have h1 : s1.steady = s.steady := each_steady _ (fun c t => steady_of_same (logDropped_same t c)) s
  clear_value s1
  exact .trans (.of_steady h1) (.of_parts rfl rfl rfl rfl)

/-- What the Warden writes as power goes down bears neither on a trip's record nor on the life cycle (R572). -/
theorem writeAll_tripStands (s : State) : TripStands s s.writeAll := by
  unfold State.writeAll
  extract_lets due
  exact .trans (each_tripStands due (fun a t => (stored_tripStands t a).trans (writeArea_tripStands _ a)) s)
    (flushLog_tripStands _)

theorem powerField_units (s : State) (k : Nat) (cold : Bool) : UnitsOnly s (s.powerField k cold) := by
  unfold State.powerField
  split
  · exact modField_units s k _
  · exact (modField_units s k _).trans (acquireField_units _ k)

theorem powerField_resets (s : State) (k : Nat) (cold : Bool) :
    (s.powerField k cold).resets = (s.modField k fun f => { f with state := if cold then .warmup else .enabling }).resets := by
  cases cold
  · exact (acquireField_fabric _ k).resets
  · rfl

theorem powerField_state (s : State) (k : Nat) (cold : Bool) :
    ((s.powerField k cold).field k).state = (if cold then .warmup else .enabling) := by
  rw [field_of_resets (powerField_resets s k cold), State.field_modField]

theorem powerField_field_ne (s : State) {k j : Nat} (cold : Bool) (h : j ≠ k) : (s.powerField k cold).field j = s.field j := by
  rw [field_of_resets (powerField_resets s k cold), State.field_modField_ne _ _ h]

theorem startStacks_units (s : State) : UnitsOnly s s.startStacks := each_units _ (fun h t => draw_modHbm_units t h _) s

theorem startStacks_resets (s : State) : s.startStacks.resets = s.resets :=
  each_inv (fun t => t.resets = s.resets) _ _ rfl (by intro _ _ h; exact h)

/-- The straps are sampled as power-on reset is released (R612). -/
def State.strapped (s : State) (straps : Nat) : State :=
  { s with resets := { s.resets with smbAddr := straps % 8, flashOwn := bit straps 3 } }

/-- The fields start as the package comes up, those named cold by warming up (R112, R145). -/
def State.fieldsPowered (s : State) (cold : List Nat) : State :=
  each (List.range 4) (fun k s => s.powerField k (cold.contains k)) s

theorem fieldsPowered_units (s : State) (cold : List Nat) : UnitsOnly s (s.fieldsPowered cold) :=
  each_units _ (fun k t => powerField_units t k _) s

theorem fieldsPowered_state (s : State) (cold : List Nat) {k : Nat} (hk : k < 4) :
    ((s.fieldsPowered cold).field k).state = (if k ∈ cold then .warmup else .enabling) := by
  have hset : ∀ k (t : State), ((t.powerField k (cold.contains k)).field k).state = (if k ∈ cold then .warmup else .enabling) := by
    intro k t
    rw [powerField_state]
    simp
  refine each_all (Q := fun k t => (t.field k).state = if k ∈ cold then .warmup else .enabling) _ s hset
    (fun a k t h => ?_) k (List.mem_range.2 hk)
  by_cases hka : k = a
  · subst hka
    exact hset k t
  · rwa [powerField_field_ne _ _ hka]

theorem exec_poreset {w : Nat} {s : State} (hw : 1000 ≤ w) (hpin : s.power.thermtrip = false) (straps : Nat) (cold : List Nat) :
    exec (.poreset w straps cold) s
      = .next ((((s.when (!s.resets.flashOwn) State.writeAll).poweredOn.strapped straps).fieldsPowered cold).startStacks) := by
  show execPoreset w straps cold s = _
  rw [execPoreset, decide_eq_true hw, hpin]
  rfl

theorem exec_poreset_short {w : Nat} {s : State} (h : w < 1000 ∨ s.power.thermtrip = true) (straps : Nat) (cold : List Nat) :
    exec (.poreset w straps cold) s = .next s := by
  show execPoreset w straps cold s = _
  have hno : (decide (1000 ≤ w) && !s.power.thermtrip) = false := by
    rcases h with h | h
    · rw [decide_eq_false (by omega), Bool.false_and]
    · rw [h, Bool.not_true, Bool.and_false]
  rw [execPoreset, hno, act_false]

theorem strap_bit (n i : Nat) : bit n i = n.testBit i := by
  rw [Nat.testBit_eq_decide_div_mod_eq, bit]
  rfl

/-- A power-on reset by PORESET# (R112, R513, R515, R525, R526, R548, R612, R613). -/
theorem poreset_result (s : State) (straps : Nat) (cold : List Nat) :
    let t := (((s.when (!s.resets.flashOwn) State.writeAll).poweredOn.strapped straps).fieldsPowered cold).startStacks
    t.resets.phase = .poweron ∧ t.resets.cause = (if s.power.tripped then 2 else 0) ∧ t.resets.smbAddr = straps % 8 ∧
      t.resets.flashOwn = straps.testBit 3 ∧ t.power.tripped = false ∧ t.hash = State.reset.hash ∧ t.time.root = 0 ∧
      t.cores = [] ∧ t.mem.cells = [] ∧ t.warden.serving = false ∧ t.warden.lifecycle = s.warden.lifecycle ∧
      (∀ k < 4, (t.field k).state = (if k ∈ cold then .warmup else .enabling)) ∧
      t.power.tripValid = s.power.tripValid ∧ t.power.tripCount = s.power.tripCount := by
  have hw : TripStands s (s.when (!s.resets.flashOwn) State.writeAll) := by
    cases !s.resets.flashOwn
    · exact .refl s
    · exact writeAll_tripStands s
  generalize s.when (!s.resets.flashOwn) State.writeAll = w at hw
  have htripped : w.power.tripped = s.power.tripped := congrArg TripRegs.tripped hw.trip
  have hvalid : w.power.tripValid = s.power.tripValid := congrArg TripRegs.valid hw.trip
  have hcount : w.power.tripCount = s.power.tripCount := congrArg TripRegs.count hw.trip
  obtain ⟨h1, h2, h3, h4, h5, h6, h7, h8, h9, h10, h11, -, -⟩ := poweredOn_result w
  intro t
  have ht : t = _ := (fieldsPowered_units (w.poweredOn.strapped straps) cold).trans (startStacks_units _)
  have hfields : ∀ k < 4, (t.field k).state = (if k ∈ cold then .warmup else .enabling) := fun k hk => by
    rw [field_of_resets (startStacks_resets _), fieldsPowered_state _ _ hk]
  rw [htripped] at h2
  rw [hw.lifecycle] at h11
  rw [← strap_bit]
  refine ⟨?_, ?_, ?_, ?_, ?_, ?_, ?_, ?_, ?_, ?_, ?_, hfields, ?_, ?_⟩
  all_goals rw [ht]
  exacts [h1, h2, rfl, rfl, h3, h6, h7, h8, h9, h10, h11, h4.trans hvalid, h5.trans hcount]

end Sys2Proof.Machine
end

section
/-! SUPPORT. Bring-up and resets of a tripped package (16): what comes up stage by stage, and what a trip turns away. -/

namespace Sys2Proof.Machine

open Sys2Proof Sys2Proof.Safety

/-! ### Bring-up ends (R145, R195, R249, R526, R527) -/

/-- The fields that warm-up does not keep out come up (R112, R145). -/
def State.fieldsUp (s : State) (l : List Nat) : State :=
  each l (fun k s => s.modField k fun f => { f with state := .up, enabling := none }) s

/-- The stacks come up, those named failed out of service (R195, R527). -/
def State.stacksUp (s : State) (failed : List Nat) : State :=
  each (List.range 12) (fun h s => s.bringStack h (failed.contains h)) s

/-- The clocks of dies run (R145). -/
def State.regionsUp (s : State) (l : List Nat) : State :=
  each l (fun d s => each (List.range 4) (fun i s =>
    s.modRegion (4 * d + i) fun x => { x with state := 0 }) s) s

/-- The receipt shares return when the package is synchronised (R249). -/
def State.sharesUp (s : State) (l : List Nat) : State := if s.synced then each l (fun k s => s.shareReturn k) s else s

/-- The package in service (R548). -/
def State.ready (s : State) : State := { s with resets := { s.resets with phase := .ready } }

/-- Fields, stacks and clocks come up, in that order (R145, R195, R527). -/
def State.unitsUp (s : State) (failed : List Nat) : State :=
  ((s.fieldsUp s.bringFields).stacksUp failed).regionsUp ((List.range 8).filter s.dieUp)

/-- Stations and receipt shares of some fields follow, and the package is in service (R145, R249, R548). -/
def State.serviceUp (s : State) (l : List Nat) : State :=
  ((s.stationsUp (l.flatMap s.readyStations)).sharesUp l).ready

theorem exec_bringUpReady {s : State} (hphase : s.resets.phase ≠ .ready) (hserves : s.warden.serving = true)
    (htrip : s.power.tripped = false) (hcold : ∀ k < 4, (s.field k).state ≠ .warmup ∨ (s.field k).cold = true)
    (failed : List Nat) :
    exec (.bringUpReady failed) s
      = .next ((((s.unitsUp failed).serviceUp s.bringFields).senseAll s).capSense (List.range 15) s) := by
  have hgo : (decide (s.resets.phase ≠ .ready) && s.warden.serving && !s.power.tripped
      && (List.range 4).all fun k => decide ((s.field k).state ≠ .warmup) || (s.field k).cold) = true := by
    have hall : ((List.range 4).all fun k => decide ((s.field k).state ≠ .warmup) || (s.field k).cold) = true := by
      simpa using hcold
    rw [hall, decide_eq_true hphase, hserves, htrip]
    rfl
  show execBringUpReady failed s = _
  unfold execBringUpReady
  rw [hgo, act_true]
  rfl

theorem fieldsUp_up (s : State) {l : List Nat} {k : Nat} (hk : k ∈ l) : ((s.fieldsUp l).field k).state = .up := by
  refine each_all (Q := fun k t => (t.field k).state = .up) l s (fun k t => by rw [State.field_modField]) (fun a k t h => ?_) k hk
  by_cases hka : k = a
  · subst hka
    rw [State.field_modField]
  · rwa [State.field_modField_ne _ _ hka]

theorem fieldsUp_other (s : State) {l : List Nat} {k : Nat} (hk : k ∉ l) : (s.fieldsUp l).field k = s.field k :=
  each_inv_mem (fun t => t.field k = s.field k) l rfl fun a ha t h => by
    rw [State.field_modField_ne _ _ (by rintro rfl; exact hk ha), h]

theorem fieldsUp_frame (s : State) (l : List Nat) :
    (s.fieldsUp l).resets.dies = s.resets.dies ∧ (s.fieldsUp l).mem = s.mem :=
  ⟨each_inv (fun t => t.resets.dies = s.resets.dies) l _ rfl (by intro _ _ h; exact h),
    each_inv (fun t => t.mem = s.mem) l _ rfl (by intro _ _ h; exact h)⟩

theorem bringStack_resets (s : State) (h : Nat) (failed : Bool) : (s.bringStack h failed).resets = s.resets := by
  unfold State.bringStack
  dsimp only
  split <;> rfl

theorem bringStack_hbms (s : State) (h : Nat) (failed : Bool) :
    ∃ n, (s.bringStack h failed).mem.hbm = (s.modHbm h fun x => x.bringUp failed n).mem.hbm := by
  refine ⟨min 255 (tget s.warden.laneRepairs 0 h + s.freeVal % 256), ?_⟩
  unfold State.bringStack
  dsimp only
  split <;> rfl

/-- How a stack stands when bring-up ends, by its training and by how it stood (R195, R527). -/
def HbmState.broughtUp (x : HbmState) (failed : Bool) : HbmState := if failed = true ∨ x = .failed then .failed else .ready

theorem broughtUp_again (x : HbmState) (failed : Bool) : (x.broughtUp failed).broughtUp failed = x.broughtUp failed := by
  unfold HbmState.broughtUp
  by_cases h : failed = true ∨ x = .failed
  · simp [h]
  · simp [not_or.1 h]

theorem bringUp_state (x : Hbm) (failed : Bool) (n : Nat) : (x.bringUp failed n).state = x.state.broughtUp failed := by
  unfold Hbm.bringUp HbmState.broughtUp
  by_cases h : failed = true ∨ x.state = .failed <;> simp [h]

theorem bringStack_state (s : State) (h : Nat) (failed : Bool) :
    ((s.bringStack h failed).hbm h).state = (s.hbm h).state.broughtUp failed := by
  obtain ⟨n, hn⟩ := bringStack_hbms s h failed
  have he : (s.bringStack h failed).hbm h = (s.modHbm h fun x => x.bringUp failed n).hbm h := by rw [State.hbm, hn, State.hbm]
  rw [he, State.hbm_modHbm, bringUp_state]

theorem bringStack_hbm_ne (s : State) {h i : Nat} (failed : Bool) (hi : i ≠ h) : (s.bringStack h failed).hbm i = s.hbm i := by
  obtain ⟨n, hn⟩ := bringStack_hbms s h failed
  have he : (s.bringStack h failed).hbm i = (s.modHbm h fun x => x.bringUp failed n).hbm i := by rw [State.hbm, hn, State.hbm]
  rw [he, State.hbm_modHbm_ne _ _ hi]

theorem stacksUp_resets (s : State) (failed : List Nat) : (s.stacksUp failed).resets = s.resets :=
  each_inv (fun t => t.resets = s.resets) _ _ rfl fun h t ht => (bringStack_resets t h _).trans ht

theorem each_bringStack_state (failed : Nat → Bool) (h : Nat) (l : List Nat) (s : State) :
    ((each l (fun i s => s.bringStack i (failed i)) s).hbm h).state
      = if h ∈ l then (s.hbm h).state.broughtUp (failed h) else (s.hbm h).state := by
  induction l generalizing s with
  | nil => rfl
  | cons a r ih =>
    rw [each_cons, ih]
    by_cases ha : h = a
    · subst ha
      simp [bringStack_state, broughtUp_again]
    · simp [bringStack_hbm_ne _ _ ha, ha]

/-- A stack comes up READY unless its training failed, or it was out of service before (R195, R527). -/
theorem stacksUp_state (s : State) (failed : List Nat) {h : Nat} (hh : h < 12) (hs : (s.hbm h).state ≠ .failed) :
    ((s.stacksUp failed).hbm h).state = (if h ∈ failed then .failed else .ready) := by
  rw [State.stacksUp, each_bringStack_state, if_pos (List.mem_range.2 hh)]
  simp [HbmState.broughtUp, hs]

/-! ### The stations, and the rest of what comes up -/

theorem stationBack_hbm (s : State) (st : Nat) : (s.stationBack st).mem.hbm = s.mem.hbm := by
  unfold State.stationBack
  extract_lets s1 s2
  have h1 : s1.kept = s.kept := by
    refine each_kept _ (fun w s => ?_) s
    exact (freshCredit_kept _ _ _).trans (freshCredit_kept s _ _)
  refine (congrArg Kept.hbm ((readerSetsChanged_kept _ st).trans (each_kept _ (by intros; rfl) s2))).trans ?_
  exact congrArg Kept.hbm h1

theorem each_hbm {α : Type} (l : List α) {f : α → State → State} (hf : ∀ a s, (f a s).mem.hbm = s.mem.hbm) (s : State) :
    (each l f s).mem.hbm = s.mem.hbm := each_inv (fun t => t.mem.hbm = s.mem.hbm) l f rfl fun a t h => (hf a t).trans h

theorem stationsUp_hbm (s : State) (l : List Nat) : (s.stationsUp l).mem.hbm = s.mem.hbm := by
  unfold State.stationsUp
  extract_lets s1 s2 s3 s4
  have h1 : s1.mem.hbm = s.mem.hbm := each_hbm l (fun st t => congrArg Kept.hbm (lockWriters_kept (t.modSta st _) st)) s
  have h2 : s2.kept = s1.kept := each_kept l (by intros; exact (lockStanding_kept _ _).trans (relock_kept _ _)) s1
  have h3 : s3.kept = s2.kept := by
    refine each_kept _ (fun st s => ?_) s2
    split
    · exact lockStanding_kept _ _
    · rfl
  have h4 : s4.kept = s3.kept := each_kept l (by intros; exact startGroups_kept _ _) s3
  refine (each_hbm l (by intros; exact stationBack_hbm _ _) s4).trans (.trans ?_ h1)
  exact congrArg Kept.hbm (h4.trans (h3.trans h2))

theorem regionsUp_frame (s : State) (l : List Nat) : (s.regionsUp l).resets = s.resets ∧ (s.regionsUp l).mem = s.mem :=
  each_inv (fun t => t.resets = s.resets ∧ t.mem = s.mem) l _ ⟨rfl, rfl⟩ fun d t ht =>
    each_inv (fun u => u.resets = s.resets ∧ u.mem = s.mem) _ _ ht (by intro _ _ h; exact h)

theorem sharesUp_frame (s : State) (l : List Nat) : StaysUp s (s.sharesUp l) ∧ (s.sharesUp l).mem.hbm = s.mem.hbm := by
  unfold State.sharesUp
  split
  · exact ⟨each_stays l (by intros; exact ⟨rfl, rfl, fun _ h => h⟩) s, each_hbm l (by intros; rfl) s⟩
  · exact ⟨.of_kept rfl, rfl⟩

/-- The units of a package that is brought up: fields and stacks come up, dies stand (R145, R195, R527). -/
theorem unitsUp_result (s : State) (failed : List Nat) :
    let u := s.unitsUp failed
    (∀ k ∈ s.bringFields, (u.field k).state = .up) ∧ (∀ k, k ∉ s.bringFields → u.field k = s.field k) ∧
      (∀ d, u.dieUp d = s.dieUp d) ∧
      ∀ h < 12, (s.hbm h).state ≠ .failed → (u.hbm h).state = (if h ∈ failed then .failed else .ready) := by
  intro u
  obtain ⟨hdies, hmem⟩ := fieldsUp_frame s s.bringFields
  obtain ⟨hregs, hregm⟩ := regionsUp_frame ((s.fieldsUp s.bringFields).stacksUp failed) ((List.range 8).filter s.dieUp)
  have hresets : u.resets = (s.fieldsUp s.bringFields).resets := hregs.trans (stacksUp_resets _ failed)
  have hfield := field_of_resets hresets
  refine ⟨fun k hk => ?_, fun k hk => ?_, fun d => ?_, fun h hh hs => ?_⟩
  · rw [hfield, fieldsUp_up s hk]
  · rw [hfield, fieldsUp_other s hk]
  · rw [State.dieUp, State.dieUp, State.die, State.die, hresets, hdies]
  · have hmemory : u.mem = ((s.fieldsUp s.bringFields).stacksUp failed).mem := hregm
    rw [State.hbm, hmemory]
    exact stacksUp_state _ failed hh (by rwa [State.hbm, hmem])

/-- With its stations in service the package reads READY; fields and stacks stand (R531, R548). -/
theorem serviceUp_result (s : State) (l : List Nat) :
    (s.serviceUp l).resets.phase = .ready ∧ StaysUp s (s.serviceUp l) ∧ (s.serviceUp l).mem.hbm = s.mem.hbm ∧
      ∀ k ∈ l, ∀ st ∈ s.readyStations k, ((s.serviceUp l).sta st).up = true := by
  obtain ⟨hstays, hup⟩ := stationsUp_stays s (l.flatMap s.readyStations)
  obtain ⟨hshares, hhbm⟩ := sharesUp_frame (s.stationsUp (l.flatMap s.readyStations)) l
  have hready : StaysUp ((s.stationsUp (l.flatMap s.readyStations)).sharesUp l) (s.serviceUp l) := ⟨rfl, rfl, fun _ h => h⟩
  have hlast := hshares.trans hready
  exact ⟨rfl, hstays.trans hlast, hhbm.trans (stationsUp_hbm s _), fun k hk st hst =>
    hlast.up st (hup st (List.mem_flatMap.2 ⟨k, hk, hst⟩))⟩

theorem mem_bringFields {s : State} {k : Nat} : k ∈ s.bringFields ↔ k < 4 ∧ (s.field k).state ≠ .warmup := by
  simp [State.bringFields]

/-- What stands when bring-up ends (R195, R527, R531, R548). -/
theorem bringUpReady_result (s : State) (failed : List Nat) :
    let t := (((s.unitsUp failed).serviceUp s.bringFields).senseAll s).capSense (List.range 15) s
    t.resets.phase = .ready ∧
      (∀ k < 4, (s.field k).state ≠ .warmup → (t.field k).state = .up ∧
        (∀ st ∈ fieldStations k, (isCS st = false ∨ s.dieUp st = true) → (t.sta st).up = true) ∧
        ∀ h, h / 3 = k → (s.hbm h).state ≠ .failed → (t.hbm h).state = (if h ∈ failed then .failed else .ready)) ∧
      ∀ k < 4, (s.field k).state = .warmup → (t.field k).state = .warmup := by
  intro t
  have hsame : SameButSignals ((s.unitsUp failed).serviceUp s.bringFields) t :=
    (senseAll_same _ s).trans (capSense_same _ (List.range 15) s)
  clear_value t
  obtain ⟨hup, hother, hdies, hstacks⟩ := unitsUp_result s failed
  obtain ⟨hphase, hstays, hhbm, hsta⟩ := serviceUp_result (s.unitsUp failed) s.bringFields
  have hfield := fun k => (field_of_resets hsame.resets k).trans (field_of_fields hstays.fields k)
  refine ⟨by rw [hsame.resets, hphase], fun k hk hw => ⟨?_, fun st hst hdie => ?_, fun h hh hs => ?_⟩, fun k hk hw => ?_⟩
  · rw [hfield, hup k (mem_bringFields.2 ⟨hk, hw⟩)]
  · rw [State.sta, hsame.fab]
    exact hsta k (mem_bringFields.2 ⟨hk, hw⟩) st (mem_readyStations.2 ⟨hst, by rwa [hdies]⟩)
  · rw [State.hbm, hsame.mem, hhbm]
    exact hstacks h (by omega) hs
  · rw [hfield, hother k fun hmem => (mem_bringFields.1 hmem).2 hw, hw]

/-! ### A tripped package (R515) -/

/-- No reset has an effect on a tripped package (R515). -/
theorem tripped_stays {s : State} (htrip : s.power.tripped = true) (o : Origin) (k d p : Nat) (cache : Bool) :
    exec (.warmReset o) s = .next s ∧ exec (.fieldReset o k) s = .next s ∧ exec (.fieldEnable o k) s = .next s ∧
      exec (.dieReset o d cache) s = .next s ∧ exec (.portReset o p) s = .next s := by
  have hno (f : State → State) : act (!s.power.tripped) s f = .next s := by rw [htrip, Bool.not_true, act_false]
  refine ⟨?_, ?_, ?_, ?_, ?_⟩
  · show execWarmReset o s = _
    exact hno _
  · show execFieldReset o k s = _
    exact hno _
  · show execFieldEnable o k s = _
    exact hno _
  · show execDieReset o d cache s = _
    exact hno _
  · show execPortReset o p s = _
    exact hno _

/-! ### The obligation -/

/-- A package warm reset, with the record of its command queued first (R441, R522 to R525). -/
theorem warmReset_commanded {s : State} (htrip : s.power.tripped = false) (o : Origin) :
    ∃ u : State, exec (.warmReset o) s = .next u.warmReset ∧ u.resets = s.resets ∧ u.warden = s.warden ∧ u.mem = s.mem ∧
      u.fab = s.fab ∧ (o.mbox = false → o.quiet = false → Out.record (s.cmdRecord o 0x08 .done []) ∈ u.out) := by
  refine ⟨_, exec_warmReset htrip o, ?_⟩
  by_cases h : (o.mbox || o.quiet) = true
  · rw [if_pos h]
    exact ⟨rfl, rfl, rfl, rfl, fun hm hq => by simp [hm, hq] at h⟩
  · rw [if_neg h]
    exact ⟨rfl, rfl, rfl, rfl, fun _ _ => List.mem_append_right _ (List.mem_singleton.2 rfl)⟩

/-- Settles O49: each reset stage by stage; the trip by what its stages leave standing, bring-up by what each brings up. -/
theorem packageIsResetAndBroughtUp : Obligations.PackageIsResetAndBroughtUp := by
  unfold Obligations.PackageIsResetAndBroughtUp
  refine ⟨fun o s htrip => ?_, fun w straps cold s => ⟨fun hw hpin => ?_, fun h => exec_poreset_short h straps cold⟩, fun s => ?_,
    fun failed s hphase hserves htrip hcold => ?_, fun loc temp s hloc htrip hhot => ?_,
    fun o s k d p cache htrip => tripped_stays htrip o k d p cache⟩
  · obtain ⟨u, he, hresets, hwarden, hmem, hfab, hout⟩ := warmReset_commanded htrip o
    obtain ⟨h1, h2, h3, h4, h5, h6, h7, h8, h9, h10, h11, h12, h13, h14⟩ := warmReset_result u
    rw [hresets] at h3
    rw [hwarden] at h6 h7 h12 h13
    refine ⟨_, he, h1, h2, h3, h4, h5, h6, h7, h8, h9, h10, h11, h12, h13, fun hnone a ha => ?_,
      fun a ha hera => warmReset_sram u ha hera, fun hm hq => by rw [h14]; exact hout hm hq⟩
    rw [warmReset_hbm (fun st => by rw [State.sta, hfab]; exact hnone st) ha, hmem]
  · exact ⟨_, exec_poreset hw hpin straps cold, poreset_result s straps cold⟩
  · obtain ⟨hphase, -, -, -, hcount, hhash, -, -, hcells, hserving, hlife, hlog, hleaf⟩ :=
      poweredOn_result (s.setWarden Warden.unflushed)
    exact ⟨_, rfl, hlog, hlife, hserving, hphase, hcells, hhash, hleaf, hcount⟩
  · exact ⟨_, exec_bringUpReady hphase hserves htrip hcold failed, bringUpReady_result s failed⟩
  · obtain ⟨t, he, hregs, hpin, hcells, hdies, hsta, hops, hwaiting, hlife⟩ := thermalShutdown_result hloc htrip hhot
    exact ⟨t, he, congrArg TripRegs.thermtrip hregs, congrArg TripRegs.tripped hregs, congrArg TripRegs.valid hregs,
      congrArg TripRegs.kind hregs, congrArg TripRegs.index hregs, congrArg TripRegs.temp hregs, congrArg TripRegs.count hregs,
      hpin, hcells, hdies, hsta, hops, hwaiting, hlife⟩

end Sys2Proof.Machine
end

section
/-! SUPPORT. Every command of the block, and so every step, keeps the one form of the memory's list (R195, R214, R219). -/

namespace Sys2Proof.Machine

open Sys2Proof.Safety

/-- Every command leaves the queue alone and keeps the memory's one form: for each, its meaning does. -/
theorem exec_keep {qq : List Instr} (i : Instr) {s : State} (h : Fit qq s) : FitO qq (exec i s) := by
  cases i with
  | grainReceive => exact execGrainReceive_keep _ _ _ _ h
  | ackSend => exact execAckSend_keep _ _ _ h
  | ackReceive => exact execAckReceive_keep _ _ _ _ h
  | nakReceive => exact execNakReceive_keep _ _ _ _ h
  | replayTimeout => exact execReplayTimeout_keep _ _ _ h
  | grainSend => exact execGrainSend_keep _ _ _ h
  | groupLeaveService => exact execGroupLeaveService_keep _ _ _ h
  | laneMarkedBad => exact execLaneMarkedBad_keep _ _ _ _ h
  | groupRetrainEnd => exact execGroupRetrainEnd_keep _ _ _ h
  | groupFaultRecover => exact execGroupFaultRecover_keep _ _ _ h
  | rmapSet => exact execRmapSet_keep _ _ _ h
  | rmapChangeStart => exact execRmapChangeStart_keep _ _ _ h
  | rmapDrainTimeout => exact execRmapDrainTimeout_keep _ _ _ h
  | groupDrained => exact execGroupDrained_keep _ _ _ h
  | entryLocked => exact execEntryLocked_keep _ _ _ h
  | rmapFault => exact execRmapFault_keep _ _ _ h
  | autoEnable => exact execAutoEnable_keep _ _ _ h
  | lgTxcfgWrite => exact execLgTxcfgWrite_keep _ _ _ _ _ h
  | narrowNetMessage => exact execNarrowNetMessage_keep _ _ h
  | ringHop => exact execRingHop_keep _ _ h
  | feedCommission => exact execFeedCommission_keep _ _ _ _ _ _ h
  | feedTapSample => exact execFeedTapSample_keep _ _ _ _ h
  | hardFailRecover => exact execHardFailRecover_keep _ _ _ h
  | hingeStart => exact execHingeStart_keep _ _ _ h
  | hingeDrain => exact execHingeDrain_keep _ _ h
  | hingeSwing => exact execHingeSwing_keep _ _ h
  | hingeRestore => exact execHingeRestore_keep _ _ _ h
  | hingeRelease => exact execHingeRelease_keep _ _ h
  | elsPresenceCheck => exact execElsPresenceCheck_keep _ _ _ _ _ h
  | warmUpEnd => exact execWarmUpEnd_keep _ _ h
  | lockCold => exact execLockCold_keep _ _ h
  | temperatureSample => exact execTemperatureSample_keep _ _ _ h
  | lockLoopUpdate => exact execLockLoopUpdate_keep _ _ _ h
  | lockLossTrip => exact execLockLossTrip_keep _ _ h
  | ringRelock => exact execRingRelock_keep _ _ h
  | ringBad => exact execRingBad_keep _ _ h
  | calibrationStart => exact execCalibrationStart_keep _ _ _ _ h
  | calibrationApply => exact execCalibrationApply_keep _ _ _ _ h
  | lgCalcfgForce => exact execLgCalcfgForce_keep _ _ _ _ h
  | packetArrive => exact execPacketArrive_keep _ _ _ h
  | packetSend => exact execPacketSend_keep _ _ _ _ h
  | creditRecordSend => exact execCreditRecordSend_keep _ _ _ _ h
  | creditRepeat => exact execCreditRepeat_keep _ _ h
  | creditRecordReceive => exact execCreditRecordReceive_keep _ _ _ _ h
  | baseCrallocWrite => exact execBaseCrallocWrite_keep _ _ _ _ _ _ h
  | platSet => exact execPlatSet_keep _ _ _ _ h
  | platGet => exact execPlatGet_keep _ _ _ h
  | platBolt => exact execPlatBolt_keep _ _ h
  | mcastFirstAttempt => exact execMcastFirstAttempt_keep _ _ h
  | remnantRetransmit => exact execRemnantRetransmit_keep _ _ _ h
  | mcastComplete => exact execMcastComplete_keep _ _ _ h
  | mcastPartial => exact execMcastPartial_keep _ _ _ h
  | selfRefreshEnter => exact execSelfRefreshEnter_keep _ _ h
  | selfRefreshExit => exact execSelfRefreshExit_keep _ _ h
  | hashSet => exact execHashSet_keep _ _ _ _ _ h
  | hashBolt => exact execHashBolt_keep _ _ h
  | scrub => exact execScrub_keep _ _ _ _ h
  | kdSplitWrite => exact execKdSplitWrite_keep _ _ _ h
  | kdRemapWrite => exact execKdRemapWrite_keep _ _ _ _ h
  | spUe => exact execSpUe_keep _ _ _ _ h
  | remoteOpPerform => exact execRemoteOpPerform_keep _ _ _ h
  | load => exact execLoad_keep _ _ _ h
  | store => exact execStore_keep _ _ _ h
  | atomic => exact execAtomic_keep _ _ _ h
  | reduction => exact execReduction_keep _ _ _ h
  | mcastStorePacket => exact execMcastStorePacket_keep _ _ h
  | loadData => exact execLoadData_keep _ _ h
  | ack => exact execAck_keep _ _ h
  | atomicResult => exact execAtomicResult_keep _ _ h
  | atomicReplayed => exact execAtomicReplayed_keep _ _ h
  | fault => exact execFault_keep _ _ h
  | dead => exact execDead_keep _ _ h
  | receiptFilled => exact execReceiptFilled_keep _ _ h
  | receiptExpire => exact execReceiptExpire_keep _ _ h
  | rackOpResend => exact execRackOpResend_keep _ _ h
  | rackOpGiveup => exact execRackOpGiveup_keep _ _ h
  | deadTargetTimeout => exact execDeadTargetTimeout_keep _ _ h
  | refusalBackoffEnd => exact execRefusalBackoffEnd_keep _ _ h
  | fenceComplete => exact execFenceComplete_keep _ _ _ h
  | ctxLaunch => exact execCtxLaunch_keep _ _ _ h
  | ctxStop => exact execCtxStop_keep _ _ _ _ h
  | ctxResume => exact execCtxResume_keep _ _ _ _ h
  | stoppingEnd => exact execStoppingEnd_keep _ _ _ h
  | sequencerIssue => exact execSequencerIssue_keep _ _ h
  | prefetchRefill => exact execPrefetchRefill_keep _ _ _ h
  | fetchArrive => exact execFetchArrive_keep _ _ _ h
  | nop => exact execNop_keep _ _ h
  | endList => exact execEndList_keep _ _ _ h
  | contextEntersIdle => exact execContextEntersIdle_keep _ _ _ h
  | loop => exact execLoop_keep _ _ _ h
  | endloop => exact execEndloop_keep _ _ _ h
  | call => exact execCall_keep _ _ _ h
  | ret => exact execRet_keep _ _ _ h
  | branch => exact execBranch_keep _ _ _ h
  | setb => exact execSetb_keep _ _ _ h
  | addb => exact execAddb_keep _ _ _ h
  | ldb => exact execLdb_keep _ _ _ h
  | tokclr => exact execTokclr_keep _ _ _ h
  | shTake => exact execShTake_keep _ _ _ h
  | shAdd => exact execShAdd_keep _ _ _ h
  | shDrain => exact execShDrain_keep _ _ _ h
  | sheafAnswer => exact execSheafAnswer_keep _ _ _ h
  | waitt => exact execWaitt_keep _ _ _ h
  | waittEnd => exact execWaittEnd_keep _ _ _ h
  | waitc => exact execWaitc_keep _ _ _ h
  | waitcEnd => exact execWaitcEnd_keep _ _ _ h
  | fence => exact execFence_keep _ _ _ h
  | pause => exact execPause_keep _ _ _ h
  | rload => exact execRload_keep _ _ _ _ h
  | rstore => exact execRstore_keep _ _ _ h
  | ratom => exact execRatom_keep _ _ _ h
  | parkedReplyWritten => exact execParkedReplyWritten_keep _ _ _ h
  | loadw => exact execLoadw_keep _ _ _ h
  | matmul => exact execMatmul_keep _ _ _ h
  | epi => exact execEpi_keep _ _ _ h
  | vadd => exact execVadd_keep _ _ _ h
  | vsub => exact execVsub_keep _ _ _ h
  | vmul => exact execVmul_keep _ _ _ h
  | vfma => exact execVfma_keep _ _ _ h
  | vmax => exact execVmax_keep _ _ _ h
  | vmin => exact execVmin_keep _ _ _ h
  | vcvt => exact execVcvt_keep _ _ _ h
  | vexp2 => exact execVexp2_keep _ _ _ h
  | vlog2 => exact execVlog2_keep _ _ _ h
  | vrcp => exact execVrcp_keep _ _ _ h
  | vrsqrt => exact execVrsqrt_keep _ _ _ h
  | vtanh => exact execVtanh_keep _ _ _ h
  | verf => exact execVerf_keep _ _ _ h
  | vsmax => exact execVsmax_keep _ _ _ h
  | vsexp => exact execVsexp_keep _ _ _ h
  | vrow => exact execVrow_keep _ _ _ h
  | vnorm => exact execVnorm_keep _ _ _ h
  | vtopk => exact execVtopk_keep _ _ _ h
  | vgather => exact execVgather_keep _ _ _ h
  | vscatter => exact execVscatter_keep _ _ _ h
  | copy => exact execCopy_keep _ _ _ h
  | gather => exact execGather_keep _ _ h
  | scatter => exact execScatter_keep _ _ h
  | mcastStore => exact execMcastStore_keep _ _ h
  | reduceInto => exact execReduceInto_keep _ _ h
  | kdFlush => exact execKdFlush_keep _ _ h
  | kdInvalidate => exact execKdInvalidate_keep _ _ h
  | teFence => exact execTeFence_keep _ _ h
  | descriptorComplete => exact execDescriptorComplete_keep _ _ _ h
  | xcTokenSignal => exact execXcTokenSignal_keep _ _ h
  | coreRngseedWrite => exact execCoreRngseedWrite_keep _ _ _ _ h
  | beacon => exact execBeacon_keep _ _ h
  | ftResync => exact execFtResync_keep _ _ h
  | sowSet => exact execSowSet_keep _ _ _ h
  | sowCancel => exact execSowCancel_keep _ _ _ _ _ h
  | sowEntryFire => exact execSowEntryFire_keep _ _ _ _ h
  | sowCompletion => exact execSowCompletion_keep _ _ _ _ h
  | bankAdd => exact execBankAdd_keep _ _ h
  | bankTake => exact execBankTake_keep _ _ h
  | bankDrain => exact execBankDrain_keep _ _ h
  | bankRead => exact execBankRead_keep _ _ h
  | takeTimeout => exact execTakeTimeout_keep _ _ _ _ h
  | sheafInit => exact execSheafInit_keep _ _ _ _ _ _ h
  | sheafRead => exact execSheafRead_keep _ _ _ h
  | sheafAdd => exact execSheafAdd_keep _ _ _ _ h
  | sheafForce => exact execSheafForce_keep _ _ _ _ h
  | portTrain => exact execPortTrain_keep _ _ _ _ h
  | gen2TrainTimeout => exact execGen2TrainTimeout_keep _ _ h
  | portTrainTimeout => exact execPortTrainTimeout_keep _ _ h
  | peerLightDetect => exact execPeerLightDetect_keep _ _ h
  | portDown => exact execPortDown_keep _ _ _ h
  | frameReceive => exact execFrameReceive_keep _ _ _ h
  | dataFrame => exact execDataFrame_keep _ _ h
  | ackFrame => exact execAckFrame_keep _ _ h
  | nakFrame => exact execNakFrame_keep _ _ h
  | refuse => exact execRefuse_keep _ _ h
  | resync => exact execResync_keep _ _ h
  | calendarSlot => exact execCalendarSlot_keep _ _ _ h
  | frameSend => exact execFrameSend_keep _ _ h
  | ackFrameTimer => exact execAckFrameTimer_keep _ _ h
  | nakGapTimer => exact execNakGapTimer_keep _ _ h
  | frameResendTimer => exact execFrameResendTimer_keep _ _ _ h
  | pathFail => exact execPathFail_keep _ _ _ h
  | pathProbe => exact execPathProbe_keep _ _ _ h
  | mirrorHandover => exact execMirrorHandover_keep _ _ h
  | calSet => exact execCalSet_keep _ _ _ _ _ _ h
  | calDset => exact execCalDset_keep _ _ _ _ _ h
  | calGet => exact execCalGet_keep _ _ _ _ h
  | groupEnrol => exact execGroupEnrol_keep _ _ _ h
  | groupLeave => exact execGroupLeave_keep _ _ h
  | masterTakeover => exact execMasterTakeover_keep _ _ h
  | portCfgWrite => exact execPortCfgWrite_keep _ _ _ h
  | hopperStart => exact execHopperStart_keep _ _ h
  | ringSet => exact execRingSet_keep _ _ _ _ _ _ _ h
  | hopperSet => exact execHopperSet_keep _ _ _ _ _ _ h
  | hopperClear => exact execHopperClear_keep _ _ _ _ h
  | capRead => exact execCapRead_keep _ _ _ h
  | regrd => exact execRegrd_keep _ _ _ h
  | regwr => exact execRegwr_keep _ _ _ _ h
  | memCopy => exact execMemCopy_keep _ _ _ _ _ h
  | memFill => exact execMemFill_keep _ _ _ _ _ h
  | rmapBolt => exact execRmapBolt_keep _ _ _ h
  | completion => exact execCompletion_keep _ _ h
  | cmdRingciWrite => exact execCmdRingciWrite_keep _ _ _ _ h
  | cmdMboxGo => exact execCmdMboxGo_keep _ _ h
  | registerWrite => exact execRegisterWrite_keep _ _ _ _ h
  | postedWriteApply => exact execPostedWriteApply_keep _ _ h
  | paritySweep => exact execParitySweep_keep _ _ h
  | noticeEoi => exact execNoticeEoi_keep _ _ _ h
  | noticeMaskSet => exact execNoticeMaskSet_keep _ _ _ _ h
  | noticeMaskClr => exact execNoticeMaskClr_keep _ _ _ _ h
  | noticePendSet => exact execNoticePendSet_keep _ _ _ _ h
  | noticePendClr => exact execNoticePendClr_keep _ _ _ _ h
  | bondLinkTrain => exact execBondLinkTrain_keep _ _ _ _ h
  | bondFrameReceive => exact execBondFrameReceive_keep _ _ _ _ h
  | bondCrcRetrain => exact execBondCrcRetrain_keep _ _ _ h
  | coilRetrain => exact execCoilRetrain_keep _ _ _ _ _ h
  | thermalShutdown => exact execThermalShutdown_keep _ _ _ h
  | warmReset => exact execWarmReset_keep _ _ h
  | fieldReset => exact execFieldReset_keep _ _ _ h
  | fieldEnable => exact execFieldEnable_keep _ _ _ h
  | dieReset => exact execDieReset_keep _ _ _ _ h
  | dieGate => exact execDieGate_keep _ _ _ h
  | referenceMissing => exact execReferenceMissing_keep _ _ h
  | railOutOfWindow => exact execRailOutOfWindow_keep _ _ _ h
  | dieRejoin => exact execDieRejoin_keep _ _ _ _ _ h
  | coreReset => exact execCoreReset_keep _ _ _ h
  | portReset => exact execPortReset_keep _ _ _ h
  | poreset => exact execPoreset_keep _ _ _ _ h
  | bringUpReady => exact execBringUpReady_keep _ _ h
  | sensorRead => exact execSensorRead_keep _ _ _ _ h
  | powerMode => exact execPowerMode_keep _ _ _ _ _ _ _ h
  | logRead => exact execLogRead_keep _ _ _ _ _ h
  | fwStage => exact execFwStage_keep _ _ _ _ h
  | fwSwitch => exact execFwSwitch_keep _ _ _ h
  | firmwareBoot => exact execFirmwareBoot_keep _ _ h
  | attest => exact execAttest_keep _ _ _ _ h
  | lifecycleSet => exact execLifecycleSet_keep _ _ _ _ h
  | tamper => exact execTamper_keep _ _ h
  | bistRun => exact execBistRun_keep _ _ _ h
  | bistResult => exact execBistResult_keep _ _ _ _ _ _ h
  | loopbackRun => exact execLoopbackRun_keep _ _ _ _ _ h
  | testEnWrite => exact execTestEnWrite_keep _ _ _ h
  | stackLeavesService => exact execStackLeavesService_keep _ _ h
  | mergeBlockLeave => exact execMergeBlockLeave_keep _ _ _ h
  | portTrainComplete => exact execPortTrainComplete_keep _ _ h
  | bondLinkTrainComplete => exact execBondLinkTrainComplete_keep _ _ _ h
  | dieRejoinComplete => exact execDieRejoinComplete_keep _ _ h
  | fieldEnableComplete => exact execFieldEnableComplete_keep _ _ h
  | coreResetComplete => exact execCoreResetComplete_keep _ _ h
  | moduleOutputRead => exact execModuleOutputRead_keep _ _ _ _ _ h
  | busTapSample => exact execBusTapSample_keep _ _ _ _ h
  | receiverSample => exact execReceiverSample_keep _ _ _ _ _ h
  | hingeWindowClose => exact execHingeWindowClose_keep _ _ _ h
  | hingeAbort => exact execHingeAbort_keep _ _ h
  | elsLinkFail => exact execElsLinkFail_keep _ _ h
  | rampStep => exact execRampStep_keep _ _ _ h
  | starve => exact execStarve_keep _ _ h
  | ftCorrectionPulse => exact execFtCorrectionPulse_keep _ _ _ h
  | clockStretch => exact execClockStretch_keep _ _ _ h
  | noticeRedeliver => exact execNoticeRedeliver_keep _ _ h
  | widthRecordWrite => exact execWidthRecordWrite_keep _ _ _ h
  | coilTransfer => exact execCoilTransfer_keep _ _ _ _ h
  | sillBlockReceive => exact execSillBlockReceive_keep _ _ _ h
  | sillPersistentError => exact execSillPersistentError_keep _ _ _ h
  | frequencyChoice => exact execFrequencyChoice_keep _ _ _ h
  | frequencyRestart => exact execFrequencyRestart_keep _ _ h
  | clkFault => exact execClkFault_keep _ _ _ h
  | pllRelock => exact execPllRelock_keep _ _ h
  | sleepEnter => exact execSleepEnter_keep _ _ h
  | wake => exact execWake_keep _ _ h
  | wakeComplete => exact execWakeComplete_keep _ _ h
  | sowAheadWake => exact execSowAheadWake_keep _ _ h
  | railReading => exact execRailReading_keep _ _ _ h
  | powerWindow => exact execPowerWindow_keep _ _ _ _ _ _ h
  | thermalThrottleStep => exact execThermalThrottleStep_keep _ _ h
  | storeWrite => exact execStoreWrite_keep _ _ _ _ h
  | sillRetrainComplete => exact execSillRetrainComplete_keep _ _ h
  | bistRunComplete => exact execBistRunComplete_keep _ _ _ _ _ _ h
  | loopbackRunComplete => exact execLoopbackRunComplete_keep _ _ _ _ _ _ _ _ h
  | jitterWithinLimit => exact execJitterWithinLimit_keep _ _ h
  | heaterTableWriteback => exact execHeaterTableWriteback_keep _ h
  | delayReq => exact execDelayReq_keep _ h
  | delayRsp => exact execDelayRsp_keep _ h
  | ftHold => exact execFtHold_keep _ h
  | ftUnsync => exact execFtUnsync_keep _ h
  | rekeyInstant => exact execRekeyInstant_keep _ h
  | rekeyWindowEnd => exact execRekeyWindowEnd_keep _ h
  | groupSave => exact execGroupSave_keep _ h
  | takeoverAnnounce => exact execTakeoverAnnounce_keep _ h
  | takeoverFence => exact execTakeoverFence_keep _ h
  | epochAnnounce => exact execEpochAnnounce_keep _ h
  | masterFence => exact execMasterFence_keep _ h
  | command => exact execCommand_keep _ h
  | proxyTimeout => exact execProxyTimeout_keep _ h
  | regacc => exact execRegacc_keep _ h
  | notice => exact execNotice_keep s h
  | powerFallback => exact execPowerFallback_keep _ h
  | thermtripRelease => exact execThermtripRelease_keep _ h
  | watchdogRestart => exact execWatchdogRestart_keep _ h
  | wardenRestart => exact execWardenRestart_keep _ h
  | logFlush => exact execLogFlush_keep _ h
  | fwStageDone => exact execFwStageDone_keep _ h
  | repairRecord => exact execRepairRecord_keep _ h
  | powerLoss => exact execPowerLoss_keep _ h
  | attestComplete => exact execAttestComplete_keep _ h

/-- With a command in front a step runs it, with the rest of the queue; with none it is one tick (log entry 13). -/
theorem step_keeps_wf {s t : State} (hwf : s.mem.wf = true) (hstep : step s = .next t) : t.mem.wf = true := by
  unfold step at hstep
  cases hp : s.pending with
  | nil =>
    rw [hp] at hstep
    exact (next_keep (tick_keep s ⟨rfl, hwf⟩) t hstep).2
  | cons c rest =>
    rw [hp] at hstep
    have hfit : Fit rest { s with pending := rest } := ⟨rfl, hwf⟩
    exact (exec_keep c hfit t hstep).2

/-- Settles O58: the memory's one form is one half of what every command's meaning keeps. -/
theorem memoryStaysCanonical : Obligations.MemoryStaysCanonical := by
  unfold Obligations.MemoryStaysCanonical
  intro s t hwf hstep
  exact step_keeps_wf hwf hstep

end Sys2Proof.Machine
end

section
/-! SUPPORT. What a power-on reset leaves: every table is empty, so that each unit reads its reset value. -/

namespace Sys2Proof.Machine

theorem reset_field (k : Nat) : State.reset.field k = FieldUnit.reset := rfl
theorem reset_die (d : Nat) : State.reset.die d = DieUnit.reset := rfl
theorem reset_core (c : Nat) : State.reset.core c = CoreUnit.reset := rfl
theorem reset_sheaf (n : Nat) : State.reset.sheaf n = Sheaf.reset := rfl
theorem reset_port (p : Nat) : State.reset.port p = Port.reset := rfl
theorem reset_hopper (h : Nat) : State.reset.hopper h = Hopper.reset := rfl
theorem reset_cring (r : Nat) : State.reset.cring r = CmdRing.reset := rfl
theorem reset_sowTab (k : Nat) : State.reset.sowTab k = [] := rfl

theorem reset_ctx (c x : Nat) : State.reset.ctx c x = Ctx.reset := by
  rw [State.ctx, reset_core]
  rfl

theorem reset_token (c x : Nat) : State.reset.token c x = 0 := by
  rw [State.token, reset_core]
  rfl

/-- Every byte that power-on writes is zero (R195, R214, R219). -/
theorem reset_rd {a : Nat} (ha : a < kdEra) : State.reset.mem.rd a = 0 := by
  have hrd : State.reset.mem.rd a = memDefault a := rfl
  rw [hrd, memDefault, if_pos ha]

/-- Settles O57: the registers are given by the reset state itself, each unit of a table by its reset value. -/
theorem resetLeavesTheSpecsValues : Obligations.ResetLeavesTheSpecsValues := by
  unfold Obligations.ResetLeavesTheSpecsValues
  refine ⟨rfl, rfl, rfl, rfl, rfl, rfl, rfl, rfl, rfl, rfl, rfl, reset_mem_wf, fun k => ?_, fun d => ?_, fun c x => ?_, reset_token,
    fun n => ?_, fun p => ?_, fun h => ?_, fun r => ?_, reset_sowTab, fun a ha => reset_rd ha⟩
  · rw [reset_field]
    exact ⟨rfl, rfl⟩
  · rw [reset_die]
    exact ⟨rfl, rfl, rfl⟩
  · rw [reset_ctx]
    rfl
  · rw [reset_sheaf]
    exact ⟨rfl, rfl, rfl, rfl⟩
  · rw [reset_port]
    rfl
  · rw [reset_hopper]
    exact ⟨rfl, rfl⟩
  · rw [reset_cring]
    rfl

end Sys2Proof.Machine
end

section
/-! SUPPORT. Records that wait for their rings (12) stay, and the group stands, while operations end, packets are turned away and
stations leave service (05, 07). -/

namespace Sys2Proof.Machine

open Sys2Proof Sys2Proof.Safety

/-! ### Records that wait -/

/-- Between s and t no record that waits is lost (R430), and the group stands. -/
structure RecordsStay (s t : State) : Prop where
  waiting : s.bridge.waiting ⊆ t.bridge.waiting
  group : t.group = s.group

theorem RecordsStay.of_eq {s t : State} (hb : t.bridge = s.bridge) (hg : t.group = s.group) : RecordsStay s t :=
  ⟨by rw [hb]; exact List.Subset.refl _, hg⟩

theorem RecordsStay.refl (s : State) : RecordsStay s s := .of_eq rfl rfl

theorem RecordsStay.trans {a b c : State} (h : RecordsStay a b) (k : RecordsStay b c) : RecordsStay a c :=
  ⟨List.Subset.trans h.waiting k.waiting, k.group.trans h.group⟩

/-- As `trans`, the later change first. -/
theorem RecordsStay.since {a b c : State} (k : RecordsStay b c) (h : RecordsStay a b) : RecordsStay a c := h.trans k

/-- A change that keeps the records, after one that touches neither them nor the group. -/
theorem RecordsStay.after {a b c : State} (h : RecordsStay b c) (hb : b.bridge = a.bridge) (hg : b.group = a.group) :
    RecordsStay a c := (RecordsStay.of_eq hb hg).trans h

theorem RecordsStay.of_same {s t : State} (h : SameButSignals s t) : RecordsStay s t := .of_eq h.bridge (by rw [h])

theorem RecordsStay.of_fabric {s t : State} (h : FabricOnly s t) : RecordsStay s t :=
  .of_eq h.bridge (by rw [show t = _ from h])

theorem each_records {α : Type} (l : List α) {f : α → State → State} (hf : ∀ a s, RecordsStay s (f a s)) (s : State) :
    RecordsStay s (each l f s) := each_rel RecordsStay.refl RecordsStay.trans l hf s

theorem when_records (s : State) (c : Bool) {f : State → State} (hf : ∀ s, RecordsStay s (f s)) : RecordsStay s (s.when c f) := by
  cases c
  · exact .refl s
  · exact hf s

theorem queueRecord_records (s : State) (r : Record) : RecordsStay s (s.queueRecord r) :=
  ⟨fun _ h => List.mem_append_left _ h, rfl⟩

theorem freeHopper_waiting (s : State) (o : Origin) : (s.freeHopper o).bridge.waiting = s.bridge.waiting := by
  unfold State.freeHopper
  split <;> rfl

/-- What waits once a command has completed: its own record has joined, unless it went to the mailbox or was not wanted (R420,
R429, R435). -/
theorem complete_waiting (s : State) (o : Origin) (opcode : Nat) (st : Status) (res : List Byte) :
    (s.complete o opcode st res).bridge.waiting
      = s.bridge.waiting ++ if o.mbox || (o.quiet && st == .done) then [] else [s.cmdRecord o opcode st res] := by
  unfold State.complete
  dsimp only
  cases o.mbox
  · cases o.quiet && st == .done
    · simp only [Bool.false_eq_true, if_false, Bool.or_self, freeHopper_waiting]
      exact congrArg Bridge.waiting (sense_same _ ntRingFull s).bridge
    · simp only [Bool.false_eq_true, if_false, if_true, Bool.or_true, freeHopper_waiting, List.append_nil]
  · simp only [if_true, Bool.true_or, List.append_nil]

theorem complete_records (s : State) (o : Origin) (opcode : Nat) (st : Status) (res : List Byte) :
    RecordsStay s (s.complete o opcode st res) where
  waiting := by
    rw [complete_waiting]
    exact List.subset_append_left _ _
  group := by rw [complete_same s o opcode st res]

theorem raise_records (s : State) (src : Nat) : RecordsStay s (s.raise src) := .of_same (raise_same s src)

theorem sense_records (s : State) (src : Nat) (s0 : State) : RecordsStay s (s.sense src s0) := .of_same (sense_same s src s0)

/-! ### Operations end and come into being (R238 to R241, R269, R280) -/

theorem ctxFault_records (s : State) (c x cause eng op : Nat) (st : Status) : RecordsStay s (s.ctxFault c x cause eng op st) := by
  unfold State.ctxFault State.setCtx
  dsimp only
  split
  · exact .of_eq rfl rfl
  · exact .after ((sense_records _ _ _).trans (sense_records _ _ _)) rfl rfl

theorem signal_records (s : State) (c x : Nat) (sig : BitVec 16) (eng op : Nat) : RecordsStay s (s.signal c x sig eng op) := by
  unfold State.signal State.bumpToken
  dsimp only
  split
  · split
    · exact .of_eq rfl rfl
    · split
      · exact .of_eq rfl rfl
      · exact .after (ctxFault_records _ _ _ _ _ _ _) rfl rfl
  · exact .refl s

theorem remoteFault_records (s : State) (c x : Nat) (o : Op) (st : Status) (mask : Byte) :
    RecordsStay s (s.remoteFault c x o st mask) := by
  unfold State.remoteFault
  exact .after ((raise_records _ (ntRemoteFault c)).trans (when_records _ _ fun t => raise_records t _)) rfl rfl

theorem redirty_records (s : State) (o : Op) (st : Status) : RecordsStay s (s.redirty o st) := by
  unfold State.redirty
  split <;> exact .of_eq rfl rfl

theorem leaveOwner_records (s : State) (o : Op) (st : Status) : RecordsStay s (s.leaveOwner o st) := by
  unfold State.leaveOwner
  split <;> exact .of_eq rfl rfl

theorem settle_records (s : State) (o : Op) (st : Status) (mask : Byte) : RecordsStay s (s.settle o st mask) := by
  unfold State.settle
  extract_lets s0 rem s1 s2
  have h1 : RecordsStay s s1 := (redirty_records s o st).trans (.of_eq rfl rfl)
  split
  · exact h1
  · have h2 : RecordsStay s s2 := h1.trans (leaveOwner_records s1 o st)
    clear_value s2
    split
    · exact h2
    · refine .since (when_records _ _ fun t => signal_records t _ _ _ _ _) ?_
      refine .since (when_records _ _ fun t => remoteFault_records t _ _ _ _ _) ?_
      exact h2.trans (when_records s2 _ fun _ => .of_eq rfl rfl)

theorem joinOwner_records (s : State) (o : Op) : RecordsStay s (s.joinOwner o) := by
  unfold State.joinOwner
  split
  · split <;> exact .of_eq rfl rfl
  all_goals exact .of_eq rfl rfl

theorem newOps_records (group : Nat) (l : List Req) (s : State) : RecordsStay s (s.newOps group l).2 := by
  induction l generalizing s with
  | nil => exact .refl s
  | cons r l ih => exact (ih _).since ((joinOwner_records _ _).after rfl rfl)

/-! ### Packets set out (R151, R226, R248, R616) -/

theorem depart_records (s : State) (here : Nat) (p : Packet) (op : Option Nat) : RecordsStay s (s.depart here p op).2 := by
  unfold State.depart State.bcastOut State.replicate
  dsimp only
  split
  · split
    · exact .refl s
    · split
      · exact .after (each_records _ (by intros; exact .of_eq rfl rfl) _) rfl rfl
      · split <;> exact .of_eq rfl rfl
  · split <;> exact .of_eq rfl rfl

theorem postIn_records (s : State) (st rd : Nat) (p : Packet) (op : Option Nat) : RecordsStay s (s.postIn st rd p op) := by
  unfold State.postIn
  split
  · exact .of_eq rfl rfl
  · split <;> exact .of_eq rfl rfl

theorem sendOut_records (s : State) (x w : Nat) (p : Packet) : RecordsStay s (s.sendOut x w p) := by
  unfold State.sendOut
  extract_lets h p1 r
  split
  · exact depart_records _ _ _ _
  · split
    · exact (depart_records s _ p1 _).trans (.of_eq rfl rfl)
    · exact postIn_records _ _ _ _ _

theorem post_records (s : State) (st rd : Nat) (p : Packet) (op : Option Nat) : RecordsStay s (s.post st rd p op) := by
  unfold State.post
  split
  · exact sendOut_records _ _ _ _
  · exact postIn_records _ _ _ _ _

theorem reply_records (s : State) (st : Nat) (p : Packet) (op : Nat) (data : List Byte) (status : Status) (poison : Bool) :
    RecordsStay s (s.reply st p op data status poison) := by
  unfold State.reply
  dsimp only
  split
  · split
    · exact post_records _ _ _ _ _
    · exact .refl s
  · exact post_records _ _ _ _ _

theorem launch_records (s : State) (r : Req) (o : Op) : RecordsStay s (s.launch r o) := by
  unfold State.launch
  dsimp only
  split
  · split
    · exact post_records _ _ _ _ _
    · exact .refl s
  · split
    · exact .of_eq rfl rfl
    · split
      · exact .of_eq rfl rfl
      · exact .of_eq rfl rfl
      · split
        · exact post_records _ _ _ _ _
        · exact .refl s

theorem issueRaw_records (s : State) (r : Req) : RecordsStay s (s.issueRaw r) := by
  unfold State.issueRaw
  refine (newOps_records _ _ s).trans (each_records _ (fun y t => ?_) _)
  split
  · exact settle_records _ _ _ _
  · exact launch_records _ _ _

theorem advanceJob_records (n k : Nat) (s : State) : RecordsStay s (State.advanceJob n k s) := by
  induction k generalizing s with
  | zero => exact .refl s
  | succ k ih =>
    simp only [State.advanceJob]
    split
    · exact .refl s
    · split
      · split
        · exact .after (complete_records _ _ _ _ _) rfl rfl
        · exact .refl s
      · split
        · exact .refl s
        · exact (ih _).since ((issueRaw_records _ _).after rfl rfl)

theorem advanceOwner_records (s : State) (o : Op) : RecordsStay s (s.advanceOwner o) := by
  unfold State.advanceOwner
  split
  · split
    · exact advanceJob_records _ _ _
    · exact .refl s
  · exact .refl s

/-! ### Data goes where it belongs (R219, R226, R243) -/

theorem BlocksOnly.records {s t : State} (h : BlocksOnly s t) : RecordsStay s t := .of_eq (by rw [h]) (by rw [h])

theorem closeBlocks_blocks (s : State) (st a n : Nat) : BlocksOnly s (s.closeBlocks st a n) := by
  refine each_rel (R := BlocksOnly) (fun _ => rfl) .trans _ (fun b t => ?_) s
  split
  · split
    · exact writeBack_blocks _ _ _
    · rfl
  · rfl

theorem spWrite_blocks (s : State) (c off : Nat) (l : List Byte) (poisoned : Bool) : BlocksOnly s (s.spWrite c off l poisoned) := by
  refine BlocksOnly.trans ?_ (each_rel (R := BlocksOnly) (fun _ => rfl) .trans _ (fun b t => ?_) _)
  · rfl
  · split
    · rfl
    · split <;> rfl

theorem fabWrite_blocks (s : State) (a : Nat) (l : List Byte) (poisoned : Bool) : BlocksOnly s (s.fabWrite a l poisoned) := by
  unfold State.fabWrite
  split
  · split
    · exact (closeBlocks_blocks s _ _ _).trans (spWrite_blocks _ _ _ _ _)
    · rfl
  · rfl

theorem place'_records {st : Status} (h : st.Failed) (o : Op) (data : List Byte) (d : OpDest) (a : Nat) (s : State) :
    RecordsStay s (s.place' o data st d a) := by
  obtain ⟨hd, hp⟩ := h
  induction d generalizing data a s with
  | none => exact .refl s
  | scratch =>
    simp only [State.place', hd, if_false]
    exact (fabWrite_blocks _ _ _ _).records
  | stage =>
    simp only [State.place', hd, hp, or_self, if_false]
    exact .refl s
  | fill n line off len alloc next ih =>
    simp only [State.place', hd, hp, or_self, false_and, if_false, partStatus_failed ⟨hd, hp⟩]
    exact ih _ _ _
  | fetch => exact .of_eq rfl rfl
  | entry => exact .of_eq rfl rfl
  | keep => exact .of_eq rfl rfl

theorem finish_records {st : Status} (h : st.Failed) (s : State) (o : Op) (data : List Byte) (mask : Byte) :
    RecordsStay s (s.finish o st data mask) := by
  unfold State.finish
  split
  · exact settle_records _ _ _ _
  · exact ((place'_records h o _ _ _ s).trans (settle_records _ _ _ _)).trans (advanceOwner_records _ _)

theorem refusePacket_records {status : Status} (h : status.Failed) (s : State) (st rd : Nat) (q : QPacket) :
    RecordsStay s (s.refusePacket st rd q status) := by
  unfold State.refusePacket State.endOp
  dsimp only
  split
  · split
    · exact .refl s
    · split
      · exact finish_records h _ _ _ _
      · exact .refl s
  · split
    · split
      · exact reply_records _ _ _ _ _ _ _
      · exact .refl s
    · split
      · exact .refl s
      · split
        · split
          · exact finish_records h _ _ _ _
          · exact .refl s
        · split
          · exact .refl s
          · exact postIn_records _ _ _ _ _

/-! ### A station leaves service (R44, R52, R54, R189, R253) -/

theorem readerSetsChanged_records (s : State) (st : Nat) : RecordsStay s (s.readerSetsChanged st) := by
  refine each_records _ (fun rg t => ?_) s
  dsimp only
  split
  · exact .after (.of_fabric (reshare_links _ _ _).fabric) rfl rfl
  · exact .refl t

theorem stationGone_records (s : State) (st : Nat) : RecordsStay s (s.stationGone st) := by
  have hpend (t : State) (r w : Nat) : RecordsStay t (t.clearPend r w) := each_records _ (by intros; exact .of_eq rfl rfl) t
  have hpurge (t : State) (w : Nat) : RecordsStay t (t.purgeTo w st) :=
    .after (each_records _ (by intros; exact .of_eq rfl rfl) _) rfl rfl
  have hleft (w : Nat) (t : State) : RecordsStay t ((((t.undelivered w st).purgeTo w st).clearPend st w).clearPend w st) :=
    (hpend _ w st).since ((hpend _ st w).since ((hpurge _ w).after rfl rfl))
  have hrefused (e : Nat × QPacket) (t : State) : RecordsStay t (t.refusePacket e.1 st e.2 .deadTarget) :=
    refusePacket_records deadTarget_failed t _ _ _
  exact ((each_records _ hleft s).trans (readerSetsChanged_records _ st)).trans (each_records _ hrefused _)

theorem dropChange_records (s : State) (st rg : Nat) (status : Status) : RecordsStay s (s.dropChange st rg status) := by
  unfold State.dropChange State.answer
  split
  · exact .refl s
  · split
    · exact .after (complete_records _ _ _ _ _) rfl rfl
    · exact .of_eq rfl rfl

theorem clearStation_records (s : State) (st : Nat) (full : Bool) : RecordsStay s (s.clearStation st full) := by
  unfold State.clearStation
  extract_lets s1 s2 s3
  have h1 : RecordsStay s s1 := each_records _ (by intros; exact .of_eq rfl rfl) s
  have h2 : RecordsStay s1 s2 := each_records _ (by intros; exact .of_eq rfl rfl) s1
  have h3 : RecordsStay s2 s3 := by
    cases full
    · exact .of_fabric (setRings_fabric s2 (stationRings st) .parked)
    · exact each_records _ (by intros; exact .of_eq rfl rfl) s2
  exact (h1.trans (h2.trans h3)).trans (.of_eq rfl rfl)

theorem stationDown_records (s : State) (st : Nat) (full : Bool) : RecordsStay s (s.stationDown st full) := by
  unfold State.stationDown
  extract_lets s1 s2
  have h1 : RecordsStay s s1 := each_records _ (fun rg t => dropChange_records t _ _ _) s
  have h2 : RecordsStay s1 s2 := (stationGone_records _ st).after rfl rfl
  exact ((h1.trans h2).trans (clearStation_records s2 st full)).trans (.of_eq rfl rfl)

end Sys2Proof.Machine
end

section
/-! SUPPORT. A die is gated (R530 to R535, R619): what each stage leaves standing, what it clears, and the records of its contexts. -/

namespace Sys2Proof.Machine

open Sys2Proof Sys2Proof.Safety

/-! ### What gating leaves standing -/

/-- Between s and t, stages of gating: die and field units, the hash and the stacks stand, and so do records that wait and the
group. -/
structure GateStands (s t : State) : Prop where
  die : ∀ e, t.die e = s.die e
  fields : t.resets.fields = s.resets.fields
  hash : t.hash = s.hash
  hbm : t.mem.hbm = s.mem.hbm
  records : RecordsStay s t

theorem GateStands.refl (s : State) : GateStands s s := ⟨fun _ => rfl, rfl, rfl, rfl, .refl s⟩

theorem GateStands.trans {a b c : State} (h : GateStands a b) (k : GateStands b c) : GateStands a c where
  die e := (k.die e).trans (h.die e)
  fields := k.fields.trans h.fields
  hash := k.hash.trans h.hash
  hbm := k.hbm.trans h.hbm
  records := h.records.trans k.records

theorem each_gateStands {α : Type} (l : List α) {f : α → State → State} (hf : ∀ a s, GateStands s (f a s)) (s : State) :
    GateStands s (each l f s) := each_rel GateStands.refl GateStands.trans l hf s

theorem die_of_dies {s t : State} (h : t.resets.dies = s.resets.dies) (e : Nat) : t.die e = s.die e := by
  rw [State.die, h, State.die]

theorem GateStands.of_parts {s t : State} (hk : OnlyClears s t) (hd : t.steady = s.steady) (hr : RecordsStay s t) :
    GateStands s t where
  die := die_of_dies (congrArg (fun x => x.resets.dies) hd)
  fields := hk.fields
  hash := hk.hash
  hbm := hk.hbm
  records := hr

theorem GateStands.of_record {s t : State} (h : SameButRecord s t) (hr : RecordsStay s t) : GateStands s t :=
  .of_parts (.of_kept (kept_of_record h)) (steady_of_record h) hr

theorem GateStands.of_same {s t : State} (h : SameButSignals s t) : GateStands s t := .of_record h.record (.of_same h)

/-- Other resets' counters, and every part of the state that gating is not judged by, may change. -/
theorem GateStands.of_eq {s t : State} (hd : t.resets.dies = s.resets.dies) (hf : t.resets.fields = s.resets.fields)
    (hh : t.hash = s.hash) (hm : t.mem.hbm = s.mem.hbm) (hb : t.bridge = s.bridge) (hg : t.group = s.group) : GateStands s t :=
  ⟨die_of_dies hd, hf, hh, hm, .of_eq hb hg⟩

theorem complete_gateStands (s : State) (o : Origin) (opcode : Nat) (st : Status) (res : List Byte) :
    GateStands s (s.complete o opcode st res) := .of_record (complete_same s o opcode st res) (complete_records s o opcode st res)

/-! ### Waits end and the merge queue goes (R553, R619) -/

/-- A die that does not wait for its return any more. -/
def DieUnit.noWait (x : DieUnit) : DieUnit := { x with rejoining := none }

theorem modDie_same_die (s : State) {d : Nat} {f : DieUnit → DieUnit} (h : f (s.die d) = s.die d) (e : Nat) :
    (s.modDie d f).die e = s.die e := by
  by_cases he : e = d
  · rw [he, State.die_modDie, h]
  · rw [State.die_modDie_ne _ _ he]

theorem endWaits_stands (s : State) (d : Nat) : GateStands (s.modDie d DieUnit.noWait) (s.endWaits d) := by
  unfold State.endWaits
  extract_lets s1
  have h1 : GateStands s s1 := each_gateStands _ (fun i u => by
    split
    · exact complete_gateStands _ _ _ _ _
    · exact .refl u) s
  clear_value s1
  obtain ⟨hdie, hfields, hhash, hhbm, hrec⟩ := h1
  have hwait (e : Nat) : (s1.modDie d DieUnit.noWait).die e = (s.modDie d DieUnit.noWait).die e := by
    by_cases he : e = d
    · rw [he, State.die_modDie, State.die_modDie, hdie]
    · rw [State.die_modDie_ne _ _ he, State.die_modDie_ne _ _ he, hdie]
  have h : GateStands (s.modDie d DieUnit.noWait) (s1.modDie d DieUnit.noWait) := ⟨hwait, hfields, hhash, hhbm, hrec.waiting, hrec.group⟩
  split
  · exact h.trans (complete_gateStands _ _ _ _ _)
  · next hnone =>
    have hsame : DieUnit.noWait (s1.die d) = s1.die d := by rw [DieUnit.noWait, ← hnone]
    exact ⟨fun e => (modDie_same_die s1 hsame e).symm.trans (h.die e), hfields, hhash, hhbm, hrec.waiting, hrec.group⟩

theorem endWaits_cores (s : State) (d : Nat) : (s.endWaits d).cores = s.cores := by
  unfold State.endWaits
  extract_lets s1
  have hcomplete (u : State) (o : Origin) (opcode : Nat) (st : Status) (res : List Byte) :
      (u.complete o opcode st res).cores = u.cores := by rw [complete_same u o opcode st res]
  have h1 : s1.cores = s.cores := each_inv (fun u => u.cores = s.cores) _ _ rfl fun i u hu => by
    split
    · rw [hcomplete, hu]
    · exact hu
  clear_value s1
  split
  · rw [hcomplete]
    exact h1
  · exact h1

theorem writeBack_stands (s : State) (st : Nat) (b : MergeBlk) : GateStands s (s.writeBack st b) :=
  .of_parts (writeBack_clears s st b) (writeBack_steady s st b) (writeBack_blocks s st b).records

/-- t is s but for bytes of memory, their poison, the count of blocks lost and the draws. -/
def LossOnly (s t : State) : Prop :=
  t = { s with
    mem := { s.mem with cells := t.mem.cells, poison := t.mem.poison }
    resets := { s.resets with mergeLost := t.resets.mergeLost }
    drawn := t.drawn }

theorem LossOnly.trans {s t u : State} (h : LossOnly s t) (k : LossOnly t u) : LossOnly s u := by
  unfold LossOnly at *
  rw [k, h]

theorem LossOnly.cores {s t : State} (h : LossOnly s t) : t.cores = s.cores := by rw [h]

theorem LossOnly.stands {s t : State} (h : LossOnly s t) : GateStands s t := by
  rw [h]
  exact .of_eq rfl rfl rfl rfl rfl rfl

theorem loseBlock_loss (s : State) (b : MergeBlk) : LossOnly s (s.loseBlock b) := by
  unfold State.loseBlock
  extract_lets s1 s2
  have h1 : LossOnly s s1 := each_rel (R := LossOnly) (fun _ => rfl) .trans _ (by intros; rfl) s
  have h2 : LossOnly s1 s2 := by
    simp only [s2]
    split
    · cases h : s1.freeVal % 2 == 1 <;> rfl
    · rfl
  exact (h1.trans h2).trans rfl

theorem gateMerge_stands (s : State) (d cause : Nat) : GateStands s (s.gateMerge d cause) := by
  unfold State.gateMerge
  split
  · exact each_gateStands _ (fun b u => writeBack_stands u d b) s
  · exact each_gateStands _ (fun b u => (loseBlock_loss u b).stands) s

theorem gateMerge_cores (s : State) (d cause : Nat) : (s.gateMerge d cause).cores = s.cores := by
  unfold State.gateMerge
  split
  · exact each_inv (fun u => u.cores = s.cores) _ _ rfl fun b u hu => by rw [writeBack_blocks u d b, hu]
  · exact each_inv (fun u => u.cores = s.cores) _ _ rfl fun b u hu => by rw [(loseBlock_loss u b).cores, hu]

/-! ### End records of contexts that end with their core (R534, R539) -/

/-- A record waits that says of a context of s how it ended, and where. -/
def EndRecorded (s t : State) (c x : Nat) (st : Status) (addr : Nat) : Prop :=
  ∃ r ∈ t.bridge.waiting, r.kind = 1 ∧ r.status = st ∧ r.tag = (s.ctx c x).tag ∧ r.ring = (s.ctx c x).ring ∧
    r.result = [BitVec.ofNat 8 c, BitVec.ofNat 8 x] ++ leBytes 6 addr

theorem EndRecorded.mono {s t u : State} {c x addr : Nat} {st : Status} (h : EndRecorded s t c x st addr) (k : RecordsStay t u) :
    EndRecorded s u c x st addr := by
  obtain ⟨r, hr, hsays⟩ := h
  exact ⟨r, k.waiting hr, hsays⟩

theorem sendRecord_waiting (s : State) (r : Record) : r ∈ (s.sendRecord r).bridge.waiting := by
  have hsense := (sense_same (s.queueRecord r) ntRingFull s).bridge
  rw [State.sendRecord, hsense]
  exact List.mem_append_right _ (List.mem_singleton.2 rfl)

theorem sendRecord_records (s : State) (r : Record) : RecordsStay s (s.sendRecord r) :=
  (queueRecord_records s r).trans (sense_records _ _ s)

theorem sendRecord_same (s : State) (r : Record) : SameButRecord s (s.sendRecord r) :=
  (queueRecord_same s r).trans (sense_same _ _ s).record

/-- The record that the bridge writes for a context says how the context stands. -/
theorem sendRecord_ended {s u : State} (hu : u.cores = s.cores) (c x : Nat) (st : Status) (addr : Nat) (kept : Bool) :
    EndRecorded s (u.sendRecord (u.endRecord c x st addr kept)) c x st addr := by
  have hctx : u.ctx c x = s.ctx c x := by rw [State.ctx, State.core, hu]; rfl
  exact ⟨_, sendRecord_waiting _ _, rfl, rfl, congrArg Ctx.tag hctx, congrArg Ctx.ring hctx, rfl⟩

theorem mem_openRecords {s : State} {c x : Nat} :
    x ∈ s.openRecords c ↔ x < 16 ∧ (s.ctx c x).state ≠ .idle ∧ (s.ctx c x).noend = false := by
  simp [State.openRecords]

/-- One more record is written for a context of a gated die (R534, R551). -/
def State.countDead (s : State) : State := { s with resets := { s.resets with endDead := inc 16 s.resets.endDead } }

/-- The record of one context of a die that is gated (R534). -/
def State.deadRecord (s : State) (c x : Nat) : State := (s.sendRecord (s.endRecord c x .deadTarget 0 true)).countDead

/-- The records of one core of a die that is gated. -/
def State.coreRecords (s : State) (c : Nat) : State := each (s.openRecords c) (fun x s => s.deadRecord c x) s

theorem deadRecords_eq (s : State) (d : Nat) : s.deadRecords d = each (List.range 8) (fun i s => s.coreRecords (8 * d + i)) s := rfl

theorem countDead_stands (s : State) : GateStands s s.countDead := .of_eq rfl rfl rfl rfl rfl rfl

theorem countDead_cores (s : State) : s.countDead.cores = s.cores := rfl

theorem sendRecord_cores (s : State) (r : Record) : (s.sendRecord r).cores = s.cores := by rw [sendRecord_same s r]

theorem deadRecord_stands (s : State) (c x : Nat) : GateStands s (s.deadRecord c x) :=
  .trans (.of_record (sendRecord_same s _) (sendRecord_records s _)) (countDead_stands _)

theorem deadRecord_cores (s : State) (c x : Nat) : (s.deadRecord c x).cores = s.cores := by
  rw [State.deadRecord, countDead_cores, sendRecord_cores]

theorem deadRecord_ended {s u : State} (hu : u.cores = s.cores) (c x : Nat) :
    EndRecorded s (u.deadRecord c x) c x .deadTarget 0 :=
  (sendRecord_ended hu c x .deadTarget 0 true).mono (countDead_stands _).records

theorem coreRecords_stands (s : State) (c : Nat) : GateStands s (s.coreRecords c) :=
  each_gateStands _ (fun x u => deadRecord_stands u c x) s

theorem coreRecords_cores (s : State) (c : Nat) : (s.coreRecords c).cores = s.cores :=
  each_inv (fun u => u.cores = s.cores) _ _ rfl fun x u hu => (deadRecord_cores u c x).trans hu

theorem coreRecords_ended {s u : State} (hu : u.cores = s.cores) {c x : Nat} (hx : x ∈ s.openRecords c) :
    EndRecorded s (u.coreRecords c) c x .deadTarget 0 := by
  have hopen : u.openRecords c = s.openRecords c := by
    unfold State.openRecords State.ctx State.core
    rw [hu]
  have hall := each_all (Q := fun x v => v.cores = s.cores → EndRecorded s v c x .deadTarget 0) (f := fun x v => v.deadRecord c x)
    (u.openRecords c) u (fun x v hv => deadRecord_ended ((deadRecord_cores v c x).symm.trans hv) c x)
    (fun a x v hx hv => (hx ((deadRecord_cores v c a).symm.trans hv)).mono (deadRecord_stands v c a).records)
  exact hall x (by rwa [hopen]) ((coreRecords_cores u c).trans hu)

theorem deadRecords_stands (s : State) (d : Nat) : GateStands s (s.deadRecords d) :=
  each_gateStands _ (fun i u => coreRecords_stands u (8 * d + i)) s

theorem deadRecords_cores (s : State) (d : Nat) : (s.deadRecords d).cores = s.cores :=
  each_inv (fun u => u.cores = s.cores) _ _ rfl fun _ u hu => (coreRecords_cores u _).trans hu

/-- Each context of the die that was to write an end record has one (R534). -/
theorem deadRecords_ended {s u : State} (hu : u.cores = s.cores) {d i x : Nat} (hi : i < 8) (hx : x ∈ s.openRecords (8 * d + i)) :
    EndRecorded s (u.deadRecords d) (8 * d + i) x .deadTarget 0 := by
  have hall := each_all
    (Q := fun i v => v.cores = s.cores → ∀ x ∈ s.openRecords (8 * d + i), EndRecorded s v (8 * d + i) x .deadTarget 0)
    (f := fun i v => v.coreRecords (8 * d + i)) (List.range 8) u
    (fun _ v hv x hx => coreRecords_ended ((coreRecords_cores v _).symm.trans hv) hx)
    (fun a _ v hv hcores x hx =>
      (hv ((coreRecords_cores v _).symm.trans hcores) x hx).mono (coreRecords_stands v _).records)
  exact hall i (List.mem_range.2 hi) ((deadRecords_cores u d).trans hu) x hx

end Sys2Proof.Machine
end

section
/-! SUPPORT. A die is gated, stage after stage (R530 to R535, R551, R619), and what DIE_GATE, its detectors and DIE_RESET do. -/

namespace Sys2Proof.Machine

open Sys2Proof Sys2Proof.Safety

/-! ### Cores clear (R303, R353, R525) -/

/-- t is s but for cores, sheaves and sow tables, what is on the narrow net, and the fences of cores. -/
def CoresOnly (s t : State) : Prop :=
  t = { s with
    fab := { s.fab with net := t.fab.net }
    rem := { s.rem with fences := t.rem.fences }
    cores := t.cores
    sows := t.sows
    sheaves := t.sheaves }

theorem CoresOnly.refl (s : State) : CoresOnly s s := rfl

theorem CoresOnly.trans {s t u : State} (h : CoresOnly s t) (k : CoresOnly t u) : CoresOnly s u := by
  unfold CoresOnly at *
  rw [k, h]

theorem CoresOnly.records {s t : State} (h : CoresOnly s t) : RecordsStay s t := .of_eq (by rw [h]) (by rw [h])

theorem CoresOnly.stands {s t : State} (h : CoresOnly s t) : GateStands s t := by
  rw [h]
  exact .of_eq rfl rfl rfl rfl rfl rfl

/-- t is s but for the sheaves and what is on the narrow net. -/
def SheavesOnly (s t : State) : Prop := t = { s with fab := { s.fab with net := t.fab.net }, sheaves := t.sheaves }

theorem SheavesOnly.trans {s t u : State} (h : SheavesOnly s t) (k : SheavesOnly t u) : SheavesOnly s u := by
  unfold SheavesOnly at *
  rw [k, h]

theorem SheavesOnly.cores {s t : State} (h : SheavesOnly s t) : t.cores = s.cores := by rw [h]
theorem SheavesOnly.sows {s t : State} (h : SheavesOnly s t) : t.sows = s.sows := by rw [h]

theorem SheavesOnly.of_eq {s t : State} {sheaves : Sheaves} {net : Tbl (List NetMsg)}
    (h : t = { s with sheaves := sheaves, fab := { s.fab with net := net } }) : SheavesOnly s t := by
  rw [h]
  rfl

theorem forgetSheaf_only (s : State) (c : Nat) : SheavesOnly s (s.forgetSheaf c) := by
  unfold State.forgetSheaf
  extract_lets s1
  have htakes : SheavesOnly s s1 := each_rel (R := SheavesOnly) (fun _ => rfl) .trans _ (by intros; rfl) s
  clear_value s1
  exact htakes.trans (.of_eq rfl)

/-- A core clears once its sheaf operations are forgotten (R353, R539). -/
def State.coreBlank (s : State) (c : Nat) : State :=
  let s1 := s.clearSows .core c
  let s2 : State := { s1 with rem := { s1.rem with fences := s1.rem.fences.filter fun f => f.core != c } }
  s2.modCore c fun _ => CoreUnit.reset

theorem clearCore_eq (s : State) (c : Nat) : s.clearCore c = (s.forgetSheaf c).coreBlank c := rfl

theorem coreBlank_only (s : State) (c : Nat) : CoresOnly s (s.coreBlank c) := rfl

theorem SheavesOnly.coresOnly {s t : State} (h : SheavesOnly s t) : CoresOnly s t := by
  rw [h]
  rfl

theorem clearCore_only (s : State) (c : Nat) : CoresOnly s (s.clearCore c) := by
  rw [clearCore_eq]
  exact (forgetSheaf_only s c).coresOnly.trans (coreBlank_only _ c)

theorem coreBlank_core (s : State) (c : Nat) : (s.coreBlank c).core c = CoreUnit.reset := by
  unfold State.coreBlank
  rw [State.core_modCore]

theorem coreBlank_core_ne (s : State) {c e : Nat} (h : e ≠ c) : (s.coreBlank c).core e = s.core e := by
  unfold State.coreBlank
  rw [State.core_modCore_ne _ _ h]
  rfl

theorem coreBlank_sowTab (s : State) (c k : Nat) : (s.coreBlank c).sowTab k = (s.clearSows .core c).sowTab k := rfl

theorem clearCore_core (s : State) (c : Nat) : (s.clearCore c).core c = CoreUnit.reset := by
  rw [clearCore_eq, coreBlank_core]

theorem clearCore_core_ne (s : State) {c e : Nat} (h : e ≠ c) : (s.clearCore c).core e = s.core e := by
  rw [clearCore_eq, coreBlank_core_ne _ h, State.core, (forgetSheaf_only s c).cores, State.core]

theorem clearCore_sowTab (s : State) (c : Nat) : (s.clearCore c).sowTab (sowKey .core c) = [] := by
  rw [clearCore_eq, coreBlank_sowTab, clearSows_sowTab]

theorem clearCore_sowTab_nil (s : State) (c k : Nat) (h : s.sowTab k = []) : (s.clearCore c).sowTab k = [] := by
  rw [clearCore_eq, coreBlank_sowTab]
  refine (clearSows_clears _ .core c).sows k ?_
  rwa [State.sowTab, (forgetSheaf_only s c).sows]

/-! ### The station of the die goes (R189, R525, R533) -/

theorem gated_clears (x : Station) : x.Clears x.gated := ⟨fun _ => rfl, fun _ => rfl, id⟩

theorem clearStation_false_clears (s : State) (st : Nat) : OnlyClears s (s.clearStation st false) := by
  refine OnlyClears.trans (.of_kept ?_) (modSta_clears _ st gated_clears)
  refine (setRings_kept _ _ _).trans ((each_kept _ ?_ _).trans (each_kept _ ?_ s))
  · exact fun _ _ => rfl
  · exact fun _ _ => rfl

theorem stationDown_false_clears (s : State) (st : Nat) : OnlyClears s (s.stationDown st false) := by
  unfold State.stationDown
  extract_lets s1 s2
  have h1 : s1.kept = s.kept := each_kept _ (by intros; exact dropChange_kept _ _ _ _) s
  have h2 : OnlyClears s1 s2 := by
    refine .trans ?_ (stationGone_clears _ st)
    exact modSta_clears s1 st fun _ => ⟨fun _ => rfl, id, id⟩
  exact (((OnlyClears.of_kept h1).trans h2).trans (clearStation_false_clears s2 st)).trans (clearSows_clears _ _ _)

/-- A compute station whose die is gated is out of service and holds nothing (R189, R525). -/
theorem stationDown_false_sta (s : State) (st : Nat) : ∃ x, (s.stationDown st false).sta st = Station.gated x := by
  unfold State.stationDown
  extract_lets s1 s2
  clear_value s2
  refine ⟨s2.sta st, ?_⟩
  rw [clearSows_sta, State.sta, clearStation_st]
  exact State.sta_modSta s2 st Station.gated

theorem stationDown_sowTab (s : State) (st : Nat) (full : Bool) : (s.stationDown st full).sowTab (sowKey .station st) = [] :=
  clearSows_sowTab _ .station st

theorem dropDieOps_kept (s : State) (d : Nat) : (s.dropDieOps d).kept = s.kept := by
  unfold State.dropDieOps
  extract_lets mine s1
  have h1 : s1.kept = s.kept := each_kept _ (by intros; exact redirty_kept _ _ _) s
  clear_value s1
  exact h1

theorem dropDieOps_records (s : State) (d : Nat) : RecordsStay s (s.dropDieOps d) := by
  unfold State.dropDieOps
  extract_lets mine s1
  have h1 : RecordsStay s s1 := each_records _ (by intros; exact redirty_records _ _ _) s
  clear_value s1
  exact h1.trans (.of_eq rfl rfl)

/-! ### Links and clocks stop (R492, R531) -/

theorem bond_of_power {s t : State} (h : t.power = s.power) (d i : Nat) : t.bond d i = s.bond d i := by
  rw [State.bond, h, State.bond]

theorem region_of_power {s t : State} (h : t.power = s.power) (i : Nat) : t.region i = s.region i := by
  rw [State.region, h, State.region]

theorem stopBonds_stands (s : State) (d : Nat) (field : Bool) : GateStands s (s.stopBonds d field) :=
  each_gateStands _ (by intros; exact .of_eq rfl rfl rfl rfl rfl rfl) s

theorem stopBonds_state (s : State) (d : Nat) (field : Bool) {i : Nat} (hi : i < 36) : ((s.stopBonds d field).bond d i).state = .off := by
  refine each_all (Q := fun i u => (u.bond d i).state = .off) (List.range 36) s (fun i u => by rw [State.bond_modBond])
    (fun a i u h => ?_) i (List.mem_range.2 hi)
  by_cases ha : i = a
  · rw [ha, State.bond_modBond]
  · have hkey : bondKey d i ≠ bondKey d a := by
      unfold bondKey
      omega
    rw [State.bond, State.modBond, tget_tmod_ne _ _ _ _ hkey]
    exact h

/-- The clocks of a die stand still, before its issue level is 0. -/
def State.clocksStop (s : State) (d : Nat) : State :=
  each (List.range 4) (fun i s => s.modRegion (4 * d + i) fun x => { x with state := 1, pllLost := false, jitterOver := false })
    (s.dropCopies d)

theorem stopDie_eq (s : State) (d : Nat) : s.stopDie d = (s.clocksStop d).modDiePower d fun p =>
    { p with level := 0, demand := 0, acc := 0, ballast := false, asleep := false, waking := false } := rfl

/-- t is s but for clocks, their copies of Field Time, and the levels of dies. -/
def ClocksOnly (s t : State) : Prop :=
  t = { s with time := t.time, power := { s.power with regions := t.power.regions, dies := t.power.dies } }

theorem ClocksOnly.trans {s t u : State} (h : ClocksOnly s t) (k : ClocksOnly t u) : ClocksOnly s u := by
  unfold ClocksOnly at *
  rw [k, h]

theorem ClocksOnly.stands {s t : State} (h : ClocksOnly s t) : GateStands s t := by
  rw [h]
  exact .of_eq rfl rfl rfl rfl rfl rfl

theorem ClocksOnly.kept {s t : State} (h : ClocksOnly s t) : t.kept = s.kept := by
  rw [h]
  rfl

theorem ClocksOnly.bond {s t : State} (h : ClocksOnly s t) (e i : Nat) : t.bond e i = s.bond e i := by
  rw [h]
  rfl

theorem modDiePower_clocks (s : State) (d : Nat) (f : DiePower → DiePower) : ClocksOnly s (s.modDiePower d f) := rfl

theorem modDiePower_region (s : State) (d : Nat) (f : DiePower → DiePower) (i : Nat) : (s.modDiePower d f).region i = s.region i :=
  rfl

theorem stopDie_clocks (s : State) (d : Nat) : ClocksOnly s (s.stopDie d) := by
  have hcopies : ClocksOnly s (s.dropCopies d) := rfl
  have hstop : ClocksOnly (s.dropCopies d) (s.clocksStop d) :=
    each_rel (R := ClocksOnly) (fun _ => rfl) .trans _ (by intros; rfl) _
  rw [stopDie_eq]
  exact (hcopies.trans hstop).trans (modDiePower_clocks _ d _)

theorem stopDie_region (s : State) (d : Nat) {i : Nat} (hi : i < 4) : ((s.stopDie d).region (4 * d + i)).state = 1 := by
  rw [stopDie_eq, modDiePower_region]
  refine each_all (Q := fun i u => (u.region (4 * d + i)).state = 1) (List.range 4) (s.dropCopies d)
    (fun i u => by rw [State.region_modRegion]) (fun a i u h => ?_) i (List.mem_range.2 hi)
  by_cases ha : i = a
  · rw [ha, State.region_modRegion]
  · rwa [State.region_modRegion_ne _ _ (by omega)]

/-! ### Memory of the die reads zero (R214, R219, R525) -/

theorem erase_rd (m : Memory) (p : Nat → Bool) (a : Nat) : (m.erase p).rd a = if p a then memDefault a else m.rd a := by
  by_cases h : p a = true
  · rw [if_pos h]
    exact tget_filter_out _ _ (p := fun i => !p i) (by simp [h])
  · rw [if_neg h]
    exact tget_filter_in _ _ (p := fun i => !p i) (by simp [h])

theorem memDefault_era {a : Nat} (h : a < kdEra) : memDefault a = 0 := if_pos h

/-- A byte below the eras reads as zero once it is erased, and stays so when more is erased. -/
theorem erase_rd_zero {m : Memory} {p : Nat → Bool} {a : Nat} (ha : a < kdEra) (h : p a = true ∨ m.rd a = 0) :
    (m.erase p).rd a = 0 := by
  rw [erase_rd, memDefault_era ha]
  split
  · rfl
  · next hp => exact h.resolve_left hp

theorem inScratch_lt {c a : Nat} (hc : c < 64) (h : inScratch c a = true) : a < kdEra := by
  obtain ⟨-, h⟩ := Bool.and_eq_true_iff.1 h
  have hlt : a < spPlace (c + 1) 0 := of_decide_eq_true h
  unfold spPlace at hlt
  unfold kdEra
  omega

theorem zeroScratch_rd (s : State) {d i a : Nat} (hd : d < 8) (hi : i < 8) (h : inScratch (8 * d + i) a = true) :
    (s.zeroScratch d).mem.rd a = 0 :=
  erase_rd_zero (inScratch_lt (by omega) h) (.inl (List.any_eq_true.2 ⟨i, List.mem_range.2 hi, h⟩))

theorem clearKd_rd (s : State) {n a : Nat} (ha : a < kdEra) (h : inKd n a = true ∨ s.mem.rd a = 0) : (s.clearKd n).mem.rd a = 0 :=
  erase_rd_zero (m := s.mem) ha h

theorem zeroScratch_stands (s : State) (d : Nat) : GateStands s (s.zeroScratch d) := .of_eq rfl rfl rfl rfl rfl rfl

theorem clearKd_stands (s : State) (n : Nat) : GateStands s (s.clearKd n) := .of_eq rfl rfl rfl rfl rfl rfl

/-! ### Runs of self-test on the die end (R605) -/

/-- t is s but for self-test runs that ended, with what the completion of their commands leaves. -/
def RunsOnly (s t : State) : Prop := SameButRecord { s with test := t.test } t

theorem RunsOnly.trans {s t u : State} (h : RunsOnly s t) (k : RunsOnly t u) : RunsOnly s u := by
  unfold RunsOnly SameButRecord at *
  rw [k, h]

theorem RunsOnly.of_same {s t : State} (h : SameButSignals s t) : RunsOnly s t := by
  have ht : t.test = s.test := by rw [h]
  unfold RunsOnly
  rw [ht]
  exact h.record

theorem RunsOnly.mem {s t : State} (h : RunsOnly s t) : t.mem = s.mem := by rw [show t = _ from h]
theorem RunsOnly.power {s t : State} (h : RunsOnly s t) : t.power = s.power := by rw [show t = _ from h]
theorem RunsOnly.cores {s t : State} (h : RunsOnly s t) : t.cores = s.cores := by rw [show t = _ from h]
theorem RunsOnly.ports {s t : State} (h : RunsOnly s t) : t.ports = s.ports := by rw [show t = _ from h]
theorem RunsOnly.hash {s t : State} (h : RunsOnly s t) : t.hash = s.hash := by rw [show t = _ from h]
theorem RunsOnly.kept {s t : State} (h : RunsOnly s t) : t.kept = s.kept :=
  (kept_of_record (s := { s with test := t.test }) h).trans rfl
theorem RunsOnly.steady {s t : State} (h : RunsOnly s t) : t.steady = s.steady :=
  (steady_of_record (s := { s with test := t.test }) h).trans rfl

theorem each_complete_same {α : Type} (l : List α) (o : α → Origin) (opcode : Nat) (st : Status) (s : State) :
    SameButRecord s (each l (fun r u => u.complete (o r) opcode st []) s) :=
  each_rel SameButRecord.refl SameButRecord.trans l (fun r u => complete_same u (o r) opcode st []) s

theorem runs_of_record {s t : State} {x : SelfTest} (h : SameButRecord { s with test := x } t) : RunsOnly s t := by
  have ht : t.test = x := by rw [h]
  unfold RunsOnly
  rwa [ht]

theorem dropRuns_runs (s : State) (p : BistHold → Bool) : RunsOnly s (s.dropRuns p) :=
  runs_of_record (each_complete_same _ BistHold.o _ _ _)

theorem dropLoops_runs (s : State) (p : Nat → Bool) : RunsOnly s (s.dropLoops p) :=
  runs_of_record (each_complete_same _ LoopHold.o _ _ _)

theorem dropRuns_records (s : State) (p : BistHold → Bool) : RecordsStay s (s.dropRuns p) :=
  (each_records _ (by intros; exact complete_records _ _ _ _ _) _).after rfl rfl

theorem dropLoops_records (s : State) (p : Nat → Bool) : RecordsStay s (s.dropLoops p) :=
  (each_records _ (by intros; exact complete_records _ _ _ _ _) _).after rfl rfl

/-! ### The stages of gating (R530 to R535, R550, R619) -/

/-- What waits ends, the merge queue goes, and the contexts of the die have their records (R534, R553, R619). -/
def State.gateStart (s : State) (d cause : Nat) : State := ((s.endWaits d).gateMerge d cause).deadRecords d

/-- The cores of the die clear (R525). -/
def State.coresGone (s : State) (d : Nat) : State := each (List.range 8) (fun i s => s.clearCore (8 * d + i)) (s.loseRemnants d)

/-- A die unit that is gated (R530, R550). -/
def DieUnit.gate (cause : Nat) (x : DieUnit) : DieUnit :=
  { x with state := .gated, gcause := cause, kdKept := decide (cause ≤ 4), gates := inc 16 x.gates }

/-- The die's operations and its station go (R525, R533). -/
def State.dieCutOff (s : State) (d : Nat) : State := (s.dropDieOps d).stationDown d false

/-- The scratchpads of the die clear, and its cache die when it is not kept (R214, R219). -/
def State.dieErased (s : State) (d : Nat) (kept : Bool) : State := (s.zeroScratch d).when (!kept) fun s => s.clearKd d

/-- Links and clocks stop and memory clears, that of the cache die when it is not kept (R219, R525, R531). -/
def State.dieStopped (s : State) (d : Nat) (kept : Bool) : State := ((s.stopBonds d false).stopDie d).dieErased d kept

/-- Self-test runs on the die end, and its gating is logged and sensed (R438, R605). -/
def State.gateShown (s : State) (d cause : Nat) (s0 : State) : State :=
  let s5 := (s.dropRuns fun r => (r.p.target == 0 && coreDie r.p.index == d)
    || ((r.p.target == 1 || r.p.target == 4 || r.p.target == 5) && r.p.index == d)).dropLoops fun st => st == d
  ((s5.log 0x0040 2 0xFFFF [0, BitVec.ofNat 8 d, BitVec.ofNat 8 cause]).senseAll s0).capSense (List.range 15) s0

theorem gateDie_eq {s : State} {d : Nat} (h : (s.die d).state ≠ .gated) (cause : Nat) :
    s.gateDie d cause = (((((s.gateStart d cause).coresGone d).modDie d (DieUnit.gate cause)).dieCutOff d).dieStopped d
      (decide (cause ≤ 4))).gateShown d cause s := if_neg h

section
variable (s : State) (d cause : Nat)

theorem gateStart_stands : GateStands (s.modDie d DieUnit.noWait) (s.gateStart d cause) :=
  ((endWaits_stands s d).trans (gateMerge_stands _ d cause)).trans (deadRecords_stands _ d)

/-- Each context of the die that was to write an end record has one waiting (R534). -/
theorem gateStart_ended {i x : Nat} (hi : i < 8) (hx : x ∈ s.openRecords (8 * d + i)) :
    EndRecorded s (s.gateStart d cause) (8 * d + i) x .deadTarget 0 :=
  deadRecords_ended ((gateMerge_cores _ d cause).trans (endWaits_cores s d)) hi hx

theorem coresGone_stands : GateStands s (s.coresGone d) := by
  have hlost : GateStands s (s.loseRemnants d) := .of_eq rfl rfl rfl rfl rfl rfl
  exact hlost.trans (each_gateStands _ (fun _ u => (clearCore_only u _).stands) _)

theorem coresGone_sowTab {i : Nat} (hi : i < 8) : (s.coresGone d).sowTab (sowKey .core (8 * d + i)) = [] :=
  each_all (Q := fun i u => u.sowTab (sowKey .core (8 * d + i)) = []) (List.range 8) _ (fun _ u => clearCore_sowTab u _)
    (fun _ _ u h => clearCore_sowTab_nil u _ _ h) i (List.mem_range.2 hi)

theorem dieCutOff_clears : OnlyClears s (s.dieCutOff d) :=
  (OnlyClears.of_kept (dropDieOps_kept s d)).trans (stationDown_false_clears _ d)

theorem dieCutOff_stands : GateStands s (s.dieCutOff d) :=
  .of_parts (dieCutOff_clears s d) ((stationDown_steady _ d false).trans (dropDieOps_steady s d))
    ((dropDieOps_records s d).trans (stationDown_records _ d false))

theorem dieErased_kept (kept : Bool) : (s.dieErased d kept).kept = s.kept := by
  cases kept <;> rfl

theorem dieErased_power (kept : Bool) : (s.dieErased d kept).power = s.power := by
  cases kept <;> rfl

theorem dieErased_stands (kept : Bool) : GateStands s (s.dieErased d kept) := by
  cases kept
  · exact (zeroScratch_stands s d).trans (clearKd_stands _ d)
  · exact zeroScratch_stands s d

theorem dieErased_scratch (kept : Bool) {i a : Nat} (hd : d < 8) (hi : i < 8) (h : inScratch (8 * d + i) a = true) :
    (s.dieErased d kept).mem.rd a = 0 := by
  have hzero := zeroScratch_rd s hd hi h
  cases kept
  · exact clearKd_rd _ (inScratch_lt (by omega) h) (.inr hzero)
  · exact hzero

theorem dieErased_kd {a : Nat} (ha : a < kdEra) (h : inKd d a = true) : (s.dieErased d false).mem.rd a = 0 :=
  clearKd_rd _ ha (.inl h)

theorem dieStopped_kept (kept : Bool) : (s.dieStopped d kept).kept = s.kept := by
  rw [State.dieStopped, dieErased_kept, (stopDie_clocks _ d).kept, stopBonds_kept]

theorem dieStopped_power (kept : Bool) : (s.dieStopped d kept).power = ((s.stopBonds d false).stopDie d).power := by
  rw [State.dieStopped, dieErased_power]

theorem dieStopped_stands (kept : Bool) : GateStands s (s.dieStopped d kept) :=
  ((stopBonds_stands s d false).trans (stopDie_clocks _ d).stands).trans (dieErased_stands _ d kept)

theorem gateShown_runs (s0 : State) : RunsOnly s (s.gateShown d cause s0) :=
  ((dropRuns_runs s _).trans (dropLoops_runs _ _)).trans
    (.of_same (((log_same _ _ _ _ _).trans (senseAll_same _ s0)).trans (capSense_same _ _ s0)))

theorem gateShown_stands (s0 : State) : GateStands s (s.gateShown d cause s0) :=
  have h := gateShown_runs s d cause s0
  .of_parts (.of_kept h.kept) h.steady
    (((dropRuns_records s _).trans (dropLoops_records _ _)).trans
      (.of_same (((log_same _ _ _ _ _).trans (senseAll_same _ s0)).trans (capSense_same _ _ s0))))

end

/-! ### What gating leaves (R530 to R534, R551) -/

section
variable {s : State} {d : Nat} (h : (s.die d).state ≠ .gated) (cause : Nat)
include h

/-- Gating in three parts: until its die unit is marked, until its fabric is gone, and the rest. -/
theorem gateDie_parts : ∃ a b, GateStands (s.modDie d DieUnit.noWait) a ∧
    (∀ i < 8, ∀ x ∈ s.openRecords (8 * d + i), EndRecorded s a (8 * d + i) x .deadTarget 0) ∧
    (∀ i < 8, b.sowTab (sowKey .core (8 * d + i)) = []) ∧ b.sowTab (sowKey .station d) = [] ∧
    (∃ x, b.sta d = Station.gated x) ∧ GateStands (a.modDie d (DieUnit.gate cause)) b ∧
    RunsOnly (b.dieStopped d (decide (cause ≤ 4))) (s.gateDie d cause) ∧ GateStands b (s.gateDie d cause) := by
  rw [gateDie_eq h]
  have hstart := gateStart_stands s d cause
  have hended : ∀ i < 8, ∀ x ∈ s.openRecords (8 * d + i),
      EndRecorded s ((s.gateStart d cause).coresGone d) (8 * d + i) x .deadTarget 0 :=
    fun i hi x hx => (gateStart_ended s d cause hi hx).mono (coresGone_stands _ d).records
  have hsows : ∀ i < 8, ((s.gateStart d cause).coresGone d).sowTab (sowKey .core (8 * d + i)) = [] :=
    fun i hi => coresGone_sowTab _ d hi
  have ha := hstart.trans (coresGone_stands _ d)
  generalize (s.gateStart d cause).coresGone d = a at ha hended hsows
  refine ⟨a, (a.modDie d (DieUnit.gate cause)).dieCutOff d, ha, hended, fun i hi => ?_, stationDown_sowTab _ d false,
    stationDown_false_sta _ d, dieCutOff_stands _ d, gateShown_runs _ d cause s, ?_⟩
  · exact (dieCutOff_clears (a.modDie d (DieUnit.gate cause)) d).sows _ (hsows i hi)
  · exact (dieStopped_stands _ d _).trans (gateShown_stands _ d cause s)

theorem gateDie_stands : ∃ a, GateStands (s.modDie d DieUnit.noWait) a ∧
    GateStands (a.modDie d (DieUnit.gate cause)) (s.gateDie d cause) := by
  obtain ⟨a, b, ha, -, -, -, -, hb, -, hrest⟩ := gateDie_parts h cause
  exact ⟨a, ha, hb.trans hrest⟩

theorem gateDie_die : (s.gateDie d cause).die d = { s.die d with
    state := .gated, gcause := cause, kdKept := decide (cause ≤ 4), gates := inc 16 (s.die d).gates, rejoining := none } := by
  obtain ⟨a, ha, ht⟩ := gateDie_stands h cause
  rw [ht.die, State.die_modDie, ha.die, State.die_modDie]
  rfl

theorem gateDie_die_ne {e : Nat} (he : e ≠ d) : (s.gateDie d cause).die e = s.die e := by
  obtain ⟨a, ha, ht⟩ := gateDie_stands h cause
  rw [ht.die, State.die_modDie_ne _ _ he, ha.die, State.die_modDie_ne _ _ he]

theorem gateDie_frame : (∀ k, (s.gateDie d cause).field k = s.field k) ∧ (s.gateDie d cause).hash = s.hash ∧
    (s.gateDie d cause).group = s.group ∧ (s.gateDie d cause).mem.hbm = s.mem.hbm := by
  obtain ⟨a, ha, ht⟩ := gateDie_stands h cause
  exact ⟨fun k => field_of_fields (ht.fields.trans ha.fields) k, ht.hash.trans ha.hash, ht.records.group.trans ha.records.group,
    ht.hbm.trans ha.hbm⟩

/-- The station of the die is out of service and holds nothing; the sow tables of station and cores are empty (R353, R525). -/
theorem gateDie_station : (∃ x, (s.gateDie d cause).sta d = Station.gated x) ∧
    (s.gateDie d cause).sowTab (sowKey .station d) = [] ∧ ∀ i < 8, (s.gateDie d cause).sowTab (sowKey .core (8 * d + i)) = [] := by
  obtain ⟨a, b, -, -, hsows, hsow, ⟨x, hx⟩, -, hruns, -⟩ := gateDie_parts h cause
  have hkept := hruns.kept.trans (dieStopped_kept b d _)
  have hst : (s.gateDie d cause).fab.st = b.fab.st := congrArg Kept.st hkept
  have htab : (s.gateDie d cause).sows.tables = b.sows.tables := congrArg Kept.sows hkept
  refine ⟨⟨x, ?_⟩, ?_, fun i hi => ?_⟩
  · rw [State.sta, hst]
    exact hx
  · rw [State.sowTab, htab]
    exact hsow
  · rw [State.sowTab, htab]
    exact hsows i hi

/-- Its bond links are off and its clocks stopped (R531). -/
theorem gateDie_power : (∀ i < 36, ((s.gateDie d cause).bond d i).state = .off) ∧
    ∀ i < 4, ((s.gateDie d cause).region (4 * d + i)).state = 1 := by
  obtain ⟨a, b, -, -, -, -, -, -, hruns, -⟩ := gateDie_parts h cause
  have hpower := hruns.power.trans (dieStopped_power b d _)
  refine ⟨fun i hi => ?_, fun i hi => ?_⟩
  · rw [bond_of_power hpower, (stopDie_clocks _ d).bond, stopBonds_state b d false hi]
  · rw [region_of_power hpower, stopDie_region _ d hi]

/-- Its scratchpads read zero, and so does a cache die that is not kept (R214, R219, R532). -/
theorem gateDie_mem (hd : d < 8) :
    (∀ i < 8, ∀ a, inScratch (8 * d + i) a = true → (s.gateDie d cause).mem.rd a = 0) ∧
    (5 ≤ cause → ∀ a < kdEra, inKd d a = true → (s.gateDie d cause).mem.rd a = 0) := by
  obtain ⟨-, b, -, -, -, -, -, -, hruns, -⟩ := gateDie_parts h cause
  rw [hruns.mem]
  refine ⟨fun i hi a ha => dieErased_scratch _ d _ hd hi ha, fun hcause a ha hin => ?_⟩
  rw [decide_eq_false (by omega)]
  exact dieErased_kd _ d ha hin

/-- Each context of the die that was to write an end record has one waiting (R534). -/
theorem gateDie_ended {i x : Nat} (hi : i < 8) (hx : x ∈ s.openRecords (8 * d + i)) :
    EndRecorded s (s.gateDie d cause) (8 * d + i) x .deadTarget 0 := by
  obtain ⟨a, b, -, hended, -, -, -, hb, -, hrest⟩ := gateDie_parts h cause
  have hmark : RecordsStay a (a.modDie d (DieUnit.gate cause)) := .of_eq rfl rfl
  exact (hended i hi x hx).mono ((hmark.trans hb.records).trans hrest.records)

end

/-! ### What gates a die (R530) -/

theorem exec_dieGate {s : State} {d cause : Nat} (hd : d < 8) (hg : (s.die d).state ≠ .gated)
    (hcause : cause = 1 ∧ s.warden.lifecycle = 4 ∨ cause = 2 ∧ (s.die d).refMissing = true ∨ cause = 3 ∧ s.bondsOut d = true ∨
      cause = 4 ∧ (s.die d).railOut = true) : exec (.dieGate d cause) s = .next (s.gateDie d cause) := by
  have hgo : (decide (d < 8) && decide ((s.die d).state ≠ .gated) && ((cause == 1 && s.warden.lifecycle == 4)
      || (cause == 2 && (s.die d).refMissing) || (cause == 3 && s.bondsOut d) || (cause == 4 && (s.die d).railOut))) = true := by
    simp [hd, hg, or_assoc, hcause]
  show execDieGate d cause s = _
  rw [execDieGate, hgo, act_true]

theorem exec_referenceMissing {d : Nat} (hd : d < 8) (s : State) :
    exec (.referenceMissing d) s = .next ((s.modDie d fun x => { x with refMissing := true }).gateDie d 2) := by
  show execReferenceMissing d s = _
  rw [execReferenceMissing, decide_eq_true hd, act_true]

theorem exec_railOutOfWindow {d : Nat} (hd : d < 8) (mv : Nat) (s : State) :
    exec (.railOutOfWindow d mv) s
      = .next (if mv < 700 ∨ 800 < mv then (s.modDie d fun x => { x with railOut := true }).gateDie d 4 else s) := by
  show execRailOutOfWindow d mv s = _
  by_cases h : mv < 700 ∨ 800 < mv
  · rw [if_pos h, execRailOutOfWindow]
    have hgo : (decide (d < 8) && (decide (mv < 700) || decide (800 < mv))) = true := by simpa [hd] using h
    rw [hgo, act_true]
  · rw [if_neg h, execRailOutOfWindow]
    have hno : (decide (d < 8) && (decide (mv < 700) || decide (800 < mv))) = false := by simpa [hd] using h
    rw [hno, act_false]

theorem complete_die (s : State) (o : Origin) (opcode : Nat) (st : Status) (res : List Byte) (d : Nat) :
    (s.complete o opcode st res).die d = s.die d := (complete_gateStands s o opcode st res).die d

/-- DIE_RESET on a die of a field in service: its record, then the gate (R523, R530). -/
theorem exec_dieReset {s : State} {d : Nat} (htrip : s.power.tripped = false) (hd : d < 8) (hfield : s.fieldUp (d / 2) = true)
    (hg : (s.die d).state ≠ .gated) (o : Origin) (cache : Bool) :
    exec (.dieReset o d cache) s = .next ((s.complete o 0x0B .done []).gateDie d (if cache then 6 else 1)) := by
  have hchecks : firstFail [(decide (d < 8) && !s.fieldUp (d / 2), .wrongState), (decide (8 ≤ d), .outOfRange)] = none := by
    simp [firstFail, hfield, hd]
  show execDieReset o d cache s = _
  unfold execDieReset State.resetDie
  rw [htrip, Bool.not_false, act_true, hchecks]
  dsimp only
  rw [complete_die, if_neg hg]

theorem exec_dieReset_down {s : State} {d : Nat} (htrip : s.power.tripped = false) (hd : d < 8)
    (hfield : s.fieldUp (d / 2) = false) (o : Origin) (cache : Bool) :
    exec (.dieReset o d cache) s = .next (s.complete o 0x0B .wrongState []) := by
  have hchecks : firstFail [(decide (d < 8) && !s.fieldUp (d / 2), .wrongState), (decide (8 ≤ d), .outOfRange)]
      = some .wrongState := by simp [firstFail, hfield, hd]
  show execDieReset o d cache s = _
  unfold execDieReset
  rw [htrip, Bool.not_false, act_true, hchecks]

/-! ### The obligation -/

/-- Settles O45: what gating leaves, stage by stage; then what each detector and DIE_RESET make of it. -/
theorem diesAreGated : Obligations.DiesAreGated := by
  unfold Obligations.DiesAreGated
  refine ⟨?_, fun d s hd hg => ⟨fun hlife => ?_, fun href => ?_, fun hout => ?_, fun hrail => ?_, ?_, fun mv hmv => ?_,
    fun mv hlow hhigh => ?_⟩, ?_⟩
  · rintro d cause s t hd - - hg rfl
    obtain ⟨⟨x, hsta⟩, hsow, hsows⟩ := gateDie_station hg cause
    obtain ⟨hbonds, hregions⟩ := gateDie_power hg cause
    obtain ⟨hscratch, hkd⟩ := gateDie_mem hg cause hd
    obtain ⟨hfields, hhash, hgroup, hhbm⟩ := gateDie_frame hg cause
    refine ⟨gateDie_die hg cause, by rw [hsta]; rfl, by rw [hsta]; rfl, by rw [hsta]; rfl, hsow, hsows, hbonds, hregions,
      hscratch, hkd, fun i hi x hx hstate hnoend => ?_, fun e he => gateDie_die_ne hg cause he, hfields, hhash, hgroup, hhbm⟩
    exact gateDie_ended hg cause hi (mem_openRecords.2 ⟨hx, hstate, hnoend⟩)
  · exact exec_dieGate hd hg (.inl ⟨rfl, hlife⟩)
  · exact exec_dieGate hd hg (.inr (.inl ⟨rfl, href⟩))
  · exact exec_dieGate hd hg (.inr (.inr (.inl ⟨rfl, hout⟩)))
  · exact exec_dieGate hd hg (.inr (.inr (.inr ⟨rfl, hrail⟩)))
  · exact exec_referenceMissing hd s
  · rw [exec_railOutOfWindow hd, if_pos hmv]
  · rw [exec_railOutOfWindow hd, if_neg (by omega)]
  · rintro o d cache s u htrip hd rfl
    exact ⟨fun hfield hg => exec_dieReset htrip hd hfield hg o cache, fun hfield => exec_dieReset_down htrip hd hfield o cache⟩

end Sys2Proof.Machine
end

section
/-! SUPPORT. A gated die rejoins (R524, R536, R537): its return begins, and ends by its bond links. -/

namespace Sys2Proof.Machine

open Sys2Proof Sys2Proof.Safety

/-! ### DIE_REJOIN (R524, R536, R537) -/

/-- A die unit whose return begins (R536). -/
def DieUnit.rejoin (o : Origin) (x : DieUnit) : DieUnit :=
  { x with state := .rejoining, rejoining := some o, refMissing := false, railOut := false }

section
variable {d : Nat} {refMissing railOut : Bool} {s : State} (htrip : s.power.tripped = false) (hd : d < 8)
include htrip hd

theorem exec_dieRejoin (hlife : s.warden.lifecycle ≠ 4) (hg : (s.die d).state = .gated) (hf : s.fieldUp (d / 2) = true)
    (hr : refMissing = false) (hv : railOut = false) (o : Origin) :
    exec (.dieRejoin o d refMissing railOut) s = .next ((s.modDie d (DieUnit.rejoin o)).zeroScratch d) := by
  show execDieRejoin o d refMissing railOut s = _
  unfold execDieRejoin
  rw [htrip, Bool.not_false, act_true, commandLong_passes]
  · rfl
  · simp [firstFail, hd, hg, hf, hr, hv, hlife]

theorem exec_dieRejoin_fault (hg : (s.die d).state = .gated) (hf : s.fieldUp (d / 2) = true)
    (h : refMissing = true ∨ railOut = true) (o : Origin) :
    exec (.dieRejoin o d refMissing railOut) s = .next (s.complete o 0x0C .notPresent []) := by
  have hfault : (refMissing || railOut) = true := by simpa using h
  show execDieRejoin o d refMissing railOut s = _
  unfold execDieRejoin
  rw [htrip, Bool.not_false, act_true, commandLong_turned_away]
  simp [firstFail, hd, hg, hf, hfault]

theorem exec_dieRejoin_wrong (h : (s.die d).state ≠ .gated ∨ s.fieldUp (d / 2) = false) (o : Origin) :
    exec (.dieRejoin o d refMissing railOut) s = .next (s.complete o 0x0C .wrongState []) := by
  show execDieRejoin o d refMissing railOut s = _
  unfold execDieRejoin
  rw [htrip, Bool.not_false, act_true, commandLong_turned_away]
  by_cases hg : (s.die d).state = .gated
  · have hf : s.fieldUp (d / 2) = false := h.resolve_left (not_not.2 hg)
    simp [firstFail, hd, hg, hf]
  · simp [firstFail, hd, hg]

end

/-! ### Stations come into service, and power and resets stand (R145, R166, R174, R536) -/

theorem steady_of_fabric {s t : State} (h : FabricOnly s t) : t.steady = s.steady :=
  (steady_of_same (s := { s with fab := t.fab }) h).trans rfl

theorem modSta_steady (s : State) (st : Nat) (f : Station → Station) : (s.modSta st f).steady = s.steady := rfl
theorem modTx_steady (s : State) (st g : Nat) (f : TxGroup → TxGroup) : (s.modTx st g f).steady = s.steady := rfl
theorem modRx_steady (s : State) (st g : Nat) (f : RxGroup → RxGroup) : (s.modRx st g f).steady = s.steady := rfl
theorem joinReader_steady (s : State) (st rg : Nat) : (s.joinReader st rg).steady = s.steady := rfl

theorem correctRing_steady (s : State) (r : RingId) (heater bias : Int) : (s.correctRing r heater bias).steady = s.steady := by
  unfold State.correctRing
  split <;> rfl

theorem clearLane_steady (s : State) (st g lane : Nat) : (s.clearLane st g lane).steady = s.steady := by
  unfold State.clearLane
  dsimp only
  split
  · split
    · exact (steady_of_fabric (setTxState_fabric _ _ _ _)).trans (modTx_steady s _ _ _)
    · rfl
  · rfl

theorem markEyes_steady (s : State) (wst wlg : Nat) (eyes : List Nat) : (s.markEyes wst wlg eyes).steady = s.steady := by
  refine each_steady _ (fun l u => ?_) s
  dsimp only
  split
  · exact steady_of_fabric (markLane_groups _ _ _ _).fabric
  · split
    · exact clearLane_steady _ _ _ _
    · rfl

theorem applyCal_steady (s : State) (st rg : Nat) (r : CalResult) : (s.applyCal st rg r).steady = s.steady := by
  unfold State.applyCal
  extract_lets e s1 s2 worst s3
  have h1 : s1.steady = s.steady := each_steady _ (by intros; exact correctRing_steady _ _ _ _) s
  have h3 : s3.steady = s.steady := (modRx_steady s2 _ _ _).trans ((markEyes_steady s1 _ _ _).trans h1)
  split
  · exact (steady_of_fabric (reshare_links _ _ _).fabric).trans ((joinReader_steady s3 st rg).trans h3)
  · exact h3

theorem calibrateNow_steady (s : State) (st rg : Nat) : (s.calibrateNow st rg).steady = s.steady :=
  (applyCal_steady _ st rg _).trans rfl

theorem lockEntry_steady (s : State) (st g : Nat) : (s.lockEntry st g).steady = s.steady :=
  (calibrateNow_steady _ st g).trans ((modRx_steady _ st g _).trans (setRings_steady s _ _))

theorem lockStanding_steady (s : State) (st : Nat) : (s.lockStanding st).steady = s.steady :=
  each_steady _ (by intros; exact lockEntry_steady _ _ _) s

theorem relock_steady (s : State) (st : Nat) : (s.relock st).steady = s.steady :=
  each_steady _ (by intros; exact lockEntry_steady _ _ _) s

theorem lockWriters_steady (s : State) (st : Nat) : (s.lockWriters st).steady = s.steady :=
  each_steady _ (fun _ u => (modTx_steady _ _ _ _).trans (setRings_steady u _ _)) s

theorem startGroups_steady (s : State) (st : Nat) : (s.startGroups st).steady = s.steady := by
  refine each_steady _ (fun g u => ?_) s
  split
  · exact steady_of_fabric (setTxState_fabric _ _ _ _)
  · exact steady_of_fabric (returnGroup_fabric _ _ _)

theorem freshCredit_steady (s : State) (r w : Nat) : (s.freshCredit r w).steady = s.steady := each_steady _ (by intros; rfl) s

theorem stationBack_steady (s : State) (st : Nat) : (s.stationBack st).steady = s.steady := by
  unfold State.stationBack
  extract_lets s1 s2
  have h1 : s1.steady = s.steady :=
    each_steady _ (fun w u => (freshCredit_steady _ w st).trans (freshCredit_steady u st w)) s
  have h2 : s2.steady = s1.steady := modSta_steady s1 st _
  exact (readerSetsChanged_steady _ st).trans ((each_steady _ (by intros; rfl) s2).trans (h2.trans h1))

theorem stationsUp_steady (s : State) (l : List Nat) : (s.stationsUp l).steady = s.steady := by
  unfold State.stationsUp
  extract_lets s1 s2 s3 s4
  have h1 : s1.steady = s.steady := each_steady l (fun st u => (lockWriters_steady _ st).trans (modSta_steady u st _)) s
  have h2 : s2.steady = s1.steady := each_steady l (fun st u => (lockStanding_steady _ st).trans (relock_steady u st)) s1
  have h3 : s3.steady = s2.steady := each_steady _ (fun st u => by
    split
    · exact lockStanding_steady u st
    · rfl) s2
  have h4 : s4.steady = s3.steady := each_steady l (fun st u => startGroups_steady u st) s3
  exact (each_steady l (fun st u => stationBack_steady u st) s4).trans (h4.trans (h3.trans (h2.trans h1)))

/-! ### DIE_REJOIN_COMPLETE (R474, R536, R537) -/

/-- A die unit that is no longer on its way back (R536, R537). -/
def DieUnit.back (x : DieUnit) : DieUnit := { x with state := .up, rejoining := none }
def DieUnit.stays (x : DieUnit) : DieUnit := { x with state := .gated, gcause := 3, rejoining := none }

/-- The clocks of a die run again (R536). -/
def State.clocksRun (s : State) (d : Nat) : State :=
  each (List.range 4) (fun i s => s.modRegion (4 * d + i) fun x => { x with state := 0 }) s

theorem clocksRun_only (s : State) (d : Nat) : ClocksOnly s (s.clocksRun d) :=
  each_rel (R := ClocksOnly) (fun _ => rfl) .trans _ (by intros; rfl) s

theorem clocksRun_region (s : State) (d : Nat) {i : Nat} (hi : i < 4) : ((s.clocksRun d).region (4 * d + i)).state = 0 := by
  refine each_all (Q := fun i u => (u.region (4 * d + i)).state = 0) (List.range 4) s
    (fun i u => by rw [State.region_modRegion]) (fun a i u h => ?_) i (List.mem_range.2 hi)
  by_cases ha : i = a
  · rw [ha, State.region_modRegion]
  · rwa [State.region_modRegion_ne _ _ (by omega)]

/-- A die that is back: it runs, with its station and its clocks (R536). -/
structure DieRuns (d : Nat) (x : DieUnit) (t : State) : Prop where
  die : t.die d = x
  up : (t.sta d).up = true
  region : ∀ i < 4, (t.region (4 * d + i)).state = 0

theorem DieRuns.mono {d : Nat} {x : DieUnit} {s t : State} (h : DieRuns d x s) (hsteady : t.steady = s.steady)
    (hsta : t.fab.st = s.fab.st) : DieRuns d x t where
  die := (die_of_dies (congrArg (fun y => y.resets.dies) hsteady) d).trans h.die
  up := by
    rw [State.sta, hsta]
    exact h.up
  region i hi := by
    rw [region_of_power (congrArg Steady.power hsteady)]
    exact h.region i hi

theorem steady_of_cores {s t : State} (h : t = { s with cores := t.cores }) : t.steady = s.steady := by
  rw [h]
  rfl

theorem fab_of_cores {s t : State} (h : t = { s with cores := t.cores }) : t.fab.st = s.fab.st := by rw [h]

theorem dieBack_eq (s : State) (d : Nat) : s.dieBack d
    = (((((s.modDie d DieUnit.back).clocksRun d).stationsUp [d]).spreadLevel d).log 0x0040 2 0xFFFF
        [2, BitVec.ofNat 8 d, BitVec.ofNat 8 (s.die d).gcause]) := rfl

theorem dieBack_runs (s : State) (d : Nat) : DieRuns d (s.die d).back (s.dieBack d) := by
  have hclocks := clocksRun_only (s.modDie d DieUnit.back) d
  have hregion := fun i hi => clocksRun_region (s.modDie d DieUnit.back) d (i := i) hi
  have hdie : ((s.modDie d DieUnit.back).clocksRun d).die d = (s.die d).back := by
    rw [hclocks.stands.die, State.die_modDie]
  rw [dieBack_eq]
  generalize (s.modDie d DieUnit.back).clocksRun d = u at hdie hregion
  have hsteady := stationsUp_steady u [d]
  have hup : DieRuns d (s.die d).back (u.stationsUp [d]) :=
    ⟨(die_of_dies (congrArg (fun y => y.resets.dies) hsteady) d).trans hdie,
      (stationsUp_stays u [d]).2 d (List.mem_singleton.2 rfl), fun i hi => by
        rw [region_of_power (congrArg Steady.power hsteady), hregion i hi]⟩
  generalize u.stationsUp [d] = v at hup
  have hspread : DieRuns d (s.die d).back (v.spreadLevel d) :=
    hup.mono (steady_of_cores (spreadLevel_frame v d)) (fab_of_cores (spreadLevel_frame v d))
  generalize v.spreadLevel d = w at hspread
  exact hspread.mono (steady_of_same (log_same _ _ _ _ _)) (congrArg Fabric.st (log_same _ _ _ _ _).fab)

/-- t is s but for bond links. -/
def BondsOnly (s t : State) : Prop := t = { s with power := { s.power with bonds := t.power.bonds } }

theorem BondsOnly.trans {s t u : State} (h : BondsOnly s t) (k : BondsOnly t u) : BondsOnly s u := by
  unfold BondsOnly at *
  rw [k, h]

theorem BondsOnly.mem {s t : State} (h : BondsOnly s t) : t.mem = s.mem := by rw [h]
theorem BondsOnly.cores {s t : State} (h : BondsOnly s t) : t.cores = s.cores := by rw [h]
theorem BondsOnly.bridge {s t : State} (h : BondsOnly s t) : t.bridge = s.bridge := by rw [h]
theorem BondsOnly.plat {s t : State} (h : BondsOnly s t) : t.plat = s.plat := by rw [h]
theorem BondsOnly.time {s t : State} (h : BondsOnly s t) : t.time = s.time := by rw [h]

theorem complete_mem (s : State) (o : Origin) (opcode : Nat) (st : Status) (res : List Byte) :
    (s.complete o opcode st res).mem = s.mem := by rw [complete_same s o opcode st res]

theorem complete_cores (s : State) (o : Origin) (opcode : Nat) (st : Status) (res : List Byte) :
    (s.complete o opcode st res).cores = s.cores := by rw [complete_same s o opcode st res]

theorem stopBonds_only (s : State) (d : Nat) (field : Bool) : BondsOnly s (s.stopBonds d field) :=
  each_rel (R := BondsOnly) (fun _ => rfl) .trans _ (by intros; rfl) s

/-- A command's record is made of the bridge's hoppers, the plat table's own ID and Field Time (R428). -/
theorem cmdRecord_eq {s t : State} (hb : t.bridge = s.bridge) (hp : t.plat = s.plat) (ht : t.time = s.time) (o : Origin)
    (opcode : Nat) (st : Status) (res : List Byte) : t.cmdRecord o opcode st res = s.cmdRecord o opcode st res := by
  unfold State.cmdRecord State.hopper State.selfId State.now
  rw [hb, hp, ht]

/-- The record of a command that completes waits, unless it went to the mailbox or was not wanted (R420, R429). -/
theorem complete_record {s : State} {o : Origin} {st : Status} (hm : o.mbox = false) (hq : st = .done → o.quiet = false)
    (opcode : Nat) (res : List Byte) : s.cmdRecord o opcode st res ∈ (s.complete o opcode st res).bridge.waiting := by
  have hgo : (o.mbox || (o.quiet && st == .done)) = false := by
    rw [hm, Bool.false_or, Bool.and_eq_false_iff, or_iff_not_imp_right]
    exact fun h => hq (by simpa using h)
  rw [complete_waiting, hgo]
  exact List.mem_append_right _ (List.mem_singleton.2 rfl)

theorem exec_dieRejoinComplete {s : State} {d : Nat} {o : Origin} (hd : d < 8) (ho : (s.die d).rejoining = some o)
    (hstate : (s.die d).state = .rejoining) (hbonds : s.bondsSettled d = true) :
    exec (.dieRejoinComplete d) s = .next (((
      if s.bondsOut d then ((s.modDie d DieUnit.stays).stopBonds d false).complete o 0x0C .pathLost []
      else (s.dieBack d).complete o 0x0C .done []).senseAll s).capSense (List.range 15) s) := by
  have hgo : (decide (d < 8) && decide ((s.die d).state = .rejoining) && s.bondsSettled d) = true := by simp [hd, hstate, hbonds]
  show execDieRejoinComplete d s = _
  unfold execDieRejoinComplete
  rw [ho]
  dsimp only
  rw [hgo, act_true]
  rfl

theorem exec_dieRejoinComplete_waits {s : State} {d : Nat} (h : s.bondsSettled d = false) :
    exec (.dieRejoinComplete d) s = .next s := by
  show execDieRejoinComplete d s = _
  unfold execDieRejoinComplete
  split
  · rfl
  · rw [h, Bool.and_false, act_false]

/-- With a link of each direction up, the die is back (R536). -/
theorem rejoined_up {s : State} {d : Nat} {o : Origin} (hd : d < 8) (ho : (s.die d).rejoining = some o)
    (hstate : (s.die d).state = .rejoining) (hbonds : s.bondsSettled d = true) (hout : s.bondsOut d = false) :
    ∃ t, exec (.dieRejoinComplete d) s = .next t ∧ DieRuns d (s.die d).back t := by
  refine ⟨_, exec_dieRejoinComplete hd ho hstate hbonds, ?_⟩
  rw [hout, if_neg Bool.false_ne_true]
  have hcomplete := complete_same (s.dieBack d) o 0x0C .done []
  have hsense := (senseAll_same ((s.dieBack d).complete o 0x0C .done []) s).trans (capSense_same _ (List.range 15) s)
  have hruns := (dieBack_runs s d).mono (steady_of_record hcomplete) (congrArg Fabric.st (complete_fab _ o 0x0C .done []))
  exact hruns.mono (steady_of_same hsense) (congrArg Fabric.st hsense.fab)

/-- With every link of one direction OUT the die stays gated, and its command says so (R474, R537). -/
theorem rejoined_out {s : State} {d : Nat} {o : Origin} (hd : d < 8) (ho : (s.die d).rejoining = some o)
    (hstate : (s.die d).state = .rejoining) (hbonds : s.bondsSettled d = true) (hout : s.bondsOut d = true) :
    ∃ t, exec (.dieRejoinComplete d) s = .next t ∧ t.die d = (s.die d).stays ∧
      (o.mbox = false → s.cmdRecord o 0x0C .pathLost [] ∈ t.bridge.waiting) ∧ t.mem = s.mem ∧ t.cores = s.cores := by
  refine ⟨_, exec_dieRejoinComplete hd ho hstate hbonds, ?_⟩
  rw [hout, if_pos rfl]
  have honly := stopBonds_only (s.modDie d DieUnit.stays) d false
  have hdie : ((s.modDie d DieUnit.stays).stopBonds d false).die d = (s.die d).stays := by
    rw [(stopBonds_stands _ d false).die, State.die_modDie]
  generalize (s.modDie d DieUnit.stays).stopBonds d false = u at honly hdie
  have hsense := (senseAll_same (u.complete o 0x0C .pathLost []) s).trans (capSense_same _ (List.range 15) s)
  refine ⟨?_, fun hm => ?_, ?_, ?_⟩
  · rw [State.die, hsense.resets]
    exact (complete_die u o _ _ _ d).trans hdie
  · have hrecord : u.cmdRecord o 0x0C .pathLost [] = s.cmdRecord o 0x0C .pathLost [] :=
      cmdRecord_eq honly.bridge honly.plat honly.time o _ _ _
    rw [hsense.bridge, ← hrecord]
    have hshown : Status.pathLost = .done → o.quiet = false := fun h => nomatch h
    exact complete_record hm hshown 0x0C []
  · rw [hsense.mem, complete_mem, honly.mem]
    rfl
  · rw [hsense.cores, complete_cores, honly.cores]
    rfl

end Sys2Proof.Machine
end

section
/-! SUPPORT. One core or one port is reset (R353, R372, R397, R539), and with it the obligation on dies that rejoin. -/

namespace Sys2Proof.Machine

open Sys2Proof Sys2Proof.Safety

/-! ### Numbers in bytes (R225, R428) -/

theorem leBytes_length (n w : Nat) : (leBytes n w).length = n := by
  induction n generalizing w with
  | zero => rfl
  | succ n ih => rw [leBytes, List.length_cons, ih]

theorem leNat_leBytes (n w : Nat) : leNat (leBytes n w) = w % 256 ^ n := by
  induction n generalizing w with
  | zero => rw [leBytes, leNat, pow_zero, Nat.mod_one]
  | succ n ih => rw [leBytes, leNat, ih, BitVec.toNat_ofNat, pow_succ' 256 n, Nat.mod_mul]

theorem sliceB_append (k l : List Byte) : sliceB (k ++ l) k.length l.length = l := by
  refine List.ext_getElem (sliceB_length _ _ _) fun i _ hi => ?_
  simp [sliceB, hi]

/-- The number that bytes carry behind others. -/
theorem fieldB_append_leBytes (k : List Byte) (n w : Nat) : fieldB (k ++ leBytes n w) k.length n = w % 256 ^ n := by
  have hslice := sliceB_append k (leBytes n w)
  rw [leBytes_length] at hslice
  rw [fieldB, hslice, leNat_leBytes]

/-! ### What the reset of a unit leaves standing -/

/-- Between s and t, the reset of a unit: memory, ports and hash stand, and so do the records that wait. -/
structure UnitStands (s t : State) : Prop where
  mem : t.mem = s.mem
  ports : t.ports = s.ports
  hash : t.hash = s.hash
  records : RecordsStay s t

theorem UnitStands.trans {a b c : State} (h : UnitStands a b) (k : UnitStands b c) : UnitStands a c where
  mem := k.mem.trans h.mem
  ports := k.ports.trans h.ports
  hash := k.hash.trans h.hash
  records := h.records.trans k.records

theorem CoresOnly.unitStands {s t : State} (h : CoresOnly s t) : UnitStands s t where
  mem := by rw [h]
  ports := by rw [h]
  hash := by rw [h]
  records := h.records

theorem RunsOnly.unitStands {s t : State} (h : RunsOnly s t) (hr : RecordsStay s t) : UnitStands s t :=
  ⟨h.mem, h.ports, h.hash, hr⟩

theorem RunsOnly.sowTab {s t : State} (h : RunsOnly s t) (k : Nat) : t.sowTab k = s.sowTab k := by
  rw [State.sowTab, show t = _ from h, State.sowTab]

theorem RunsOnly.of_record {s t : State} (h : SameButRecord s t) : RunsOnly s t :=
  runs_of_record (x := s.test) h

theorem complete_runs (s : State) (o : Origin) (opcode : Nat) (st : Status) (res : List Byte) :
    RunsOnly s (s.complete o opcode st res) := .of_record (complete_same s o opcode st res)

/-! ### CORE_RESET (R353, R422, R539) -/

/-- The contexts of a core that is reset have their records, each with the place it had come to (R539). -/
def State.resetRecords (s : State) (c : Nat) : State :=
  each (s.openRecords c) (fun x s => s.sendRecord (s.endRecord c x .wrongState (s.ctx c x).pc.toNat true)) s

/-- A core that a command holds in reset (R539). -/
def CoreUnit.hold (o : Origin) (u : CoreUnit) : CoreUnit := { u with resetBy := some o }

/-- The core clears and is held (R539). -/
def State.coreHeld (s : State) (o : Origin) (c : Nat) : State := ((s.orphanOps c).clearCore c).modCore c (CoreUnit.hold o)

/-- Self-test runs on the core end, and what its reset shows is sensed (R438, R605). -/
def State.coreShown (s : State) (c : Nat) (s0 : State) : State :=
  (((((s.dropRuns fun r => r.p.target == 0 && r.p.index == c).sense (ntCtxFault c) s0).sense (ntCtxPause c) s0).sense
    ntCfgParity s0).capSense [0] s0)

theorem resetCore_eq (s : State) (o : Origin) (c : Nat) :
    s.resetCore o c = ((s.resetRecords c).coreHeld o c).coreShown c s := rfl

section
variable (s : State) (o : Origin) (c : Nat)

theorem resetRecords_runs : RunsOnly s (s.resetRecords c) :=
  .of_record (each_rel SameButRecord.refl SameButRecord.trans _ (fun _ u => sendRecord_same u _) s)

theorem resetRecords_records : RecordsStay s (s.resetRecords c) := each_records _ (fun _ u => sendRecord_records u _) s

/-- Each context that was to write an end record has one, with the address of the descriptor it had come to (R539). -/
theorem resetRecords_ended {x : Nat} (hx : x ∈ s.openRecords c) :
    EndRecorded s (s.resetRecords c) c x .wrongState (s.ctx c x).pc.toNat := by
  refine each_all (Q := fun x u => u.cores = s.cores → EndRecorded s u c x .wrongState (s.ctx c x).pc.toNat)
    (s.openRecords c) s (fun x u hu => ?_) (fun a x u hu hcores => ?_) x hx (resetRecords_runs s c).cores
  · rw [sendRecord_cores] at hu
    have hctx : u.ctx c x = s.ctx c x := by rw [State.ctx, State.core, hu]; rfl
    rw [hctx]
    exact sendRecord_ended hu c x .wrongState _ true
  · rw [sendRecord_cores] at hcores
    exact (hu hcores).mono (sendRecord_records u _)

theorem orphanOps_cores : (s.orphanOps c).cores = s.cores := rfl

theorem modCore_unitStands (f : CoreUnit → CoreUnit) : UnitStands s (s.modCore c f) := ⟨rfl, rfl, rfl, .of_eq rfl rfl⟩

theorem coreHeld_stands : UnitStands s (s.coreHeld o c) := by
  have horphan : UnitStands s (s.orphanOps c) := ⟨rfl, rfl, rfl, .of_eq rfl rfl⟩
  have hclear := (clearCore_only (s.orphanOps c) c).unitStands
  exact (horphan.trans hclear).trans (modCore_unitStands _ c _)

theorem coreHeld_core : (s.coreHeld o c).core c = { CoreUnit.reset with resetBy := some o } := by
  rw [State.coreHeld, State.core_modCore, clearCore_core, CoreUnit.hold]

theorem coreHeld_core_ne {e : Nat} (h : e ≠ c) : (s.coreHeld o c).core e = s.core e := by
  rw [State.coreHeld, State.core_modCore_ne _ _ h, clearCore_core_ne _ h, State.core, orphanOps_cores, State.core]

theorem coreHeld_sowTab : (s.coreHeld o c).sowTab (sowKey .core c) = [] := by
  rw [State.coreHeld, State.sowTab, State.modCore_sows]
  exact clearCore_sowTab _ c

theorem coreShown_runs (s0 : State) : RunsOnly s (s.coreShown c s0) :=
  (dropRuns_runs s _).trans (.of_same
    ((((sense_same _ _ s0).trans (sense_same _ _ s0)).trans (sense_same _ _ s0)).trans (capSense_same _ _ s0)))

theorem coreShown_records (s0 : State) : RecordsStay s (s.coreShown c s0) :=
  (dropRuns_records s _).trans (.of_same
    ((((sense_same _ _ s0).trans (sense_same _ _ s0)).trans (sense_same _ _ s0)).trans (capSense_same _ _ s0)))

theorem resetCore_stands : UnitStands s (s.resetCore o c) := by
  rw [resetCore_eq]
  exact (((resetRecords_runs s c).unitStands (resetRecords_records s c)).trans (coreHeld_stands _ o c)).trans
    ((coreShown_runs _ c s).unitStands (coreShown_records _ c s))

theorem resetCore_ended {x : Nat} (hx : x ∈ s.openRecords c) :
    EndRecorded s (s.resetCore o c) c x .wrongState (s.ctx c x).pc.toNat := by
  rw [resetCore_eq]
  exact ((resetRecords_ended s c hx).mono (coreHeld_stands _ o c).records).mono (coreShown_records _ c s)

theorem resetCore_core_eq (e : Nat) : (s.resetCore o c).core e = ((s.resetRecords c).coreHeld o c).core e := by
  rw [resetCore_eq, State.core, (coreShown_runs _ c s).cores, State.core]

theorem resetCore_core : (s.resetCore o c).core c = { CoreUnit.reset with resetBy := some o } := by
  rw [resetCore_core_eq, coreHeld_core]

theorem resetCore_core_ne {e : Nat} (h : e ≠ c) : (s.resetCore o c).core e = s.core e := by
  rw [resetCore_core_eq, coreHeld_core_ne _ o c h, State.core, (resetRecords_runs s c).cores, State.core]

theorem resetCore_sowTab : (s.resetCore o c).sowTab (sowKey .core c) = [] := by
  rw [resetCore_eq, (coreShown_runs _ c s).sowTab]
  exact coreHeld_sowTab _ o c

end

theorem exec_coreReset {s : State} {c : Nat} (hc : c < 64) (hup : s.coreUp c = true) (hhalt : (s.core c).halted = false)
    (o : Origin) : exec (.coreReset o c) s = .next (s.resetCore o c) := by
  have hchecks : firstFail (s.coreChecks c 0) = none := by simp [firstFail, State.coreChecks, hc, hup, hhalt]
  show execCoreReset o c s = _
  rw [execCoreReset, commandLong_passes hchecks]

/-- A record of a context says in its result where the context had come to (R428). -/
theorem EndRecorded.pc {s t : State} {c x addr : Nat} {st : Status} (h : EndRecorded s t c x st addr) :
    ∃ r ∈ t.bridge.waiting, r.kind = 1 ∧ r.status = st ∧ r.tag = (s.ctx c x).tag ∧ fieldB r.result 2 6 = addr % 2 ^ 48 := by
  obtain ⟨r, hr, hkind, hst, htag, -, hresult⟩ := h
  refine ⟨r, hr, hkind, hst, htag, ?_⟩
  rw [hresult]
  exact fieldB_append_leBytes [BitVec.ofNat 8 c, BitVec.ofNat 8 x] 6 addr

/-! ### CORE_RESET_COMPLETE (R539) -/

/-- A core that no command holds in reset. -/
def CoreUnit.free (u : CoreUnit) : CoreUnit := { u with resetBy := none }

theorem exec_coreResetComplete {s : State} {c : Nat} {o : Origin} (hc : c < 64) (ho : (s.core c).resetBy = some o) :
    exec (.coreResetComplete c) s = .next ((((s.modCore c CoreUnit.free).spreadLevel (coreDie c)).complete o 0x0D .done
      []).capSense [0] s) := by
  show execCoreResetComplete c s = _
  unfold execCoreResetComplete
  rw [ho]
  dsimp only
  rw [decide_eq_true hc, act_true]
  rfl

/-- The levels of a die hold no core in reset. -/
theorem spreadLevel_resetBy {s : State} {c : Nat} {b : Option Origin} (h : (s.core c).resetBy = b) (d : Nat) :
    ((s.spreadLevel d).core c).resetBy = b := by
  refine each_inv (fun u => (u.core c).resetBy = b) (List.range 8) (fun i u => u.modCore (8 * d + i) fun x => { x with
    throttle := (s.diePower d).throttle, level := min (s.diePower d).level (s.diePower d).throttle }) h fun i u hu => ?_
  by_cases hi : c = 8 * d + i
  · rw [hi, State.core_modCore, ← hi]
    exact hu
  · rwa [State.core_modCore_ne _ _ hi]

/-- t is s but for its cores. -/
def CoreTableOnly (s t : State) : Prop := t = { s with cores := t.cores }

theorem CoreTableOnly.trans {s t u : State} (h : CoreTableOnly s t) (k : CoreTableOnly t u) : CoreTableOnly s u := by
  unfold CoreTableOnly at *
  rw [k, h]

theorem CoreTableOnly.mem {s t : State} (h : CoreTableOnly s t) : t.mem = s.mem := by rw [h]
theorem CoreTableOnly.fab {s t : State} (h : CoreTableOnly s t) : t.fab = s.fab := by rw [h]

theorem CoreTableOnly.cmdRecord {s t : State} (h : CoreTableOnly s t) (o : Origin) (opcode : Nat) (st : Status) (res : List Byte) :
    t.cmdRecord o opcode st res = s.cmdRecord o opcode st res :=
  cmdRecord_eq (by rw [h]) (by rw [h]) (by rw [h]) o opcode st res

theorem modCore_table (s : State) (c : Nat) (f : CoreUnit → CoreUnit) : CoreTableOnly s (s.modCore c f) := rfl

/-- The core is held no more, and the record of its reset waits (R422, R539). -/
theorem coreResetCompleted {s : State} {c : Nat} {o : Origin} (hc : c < 64) (ho : (s.core c).resetBy = some o)
    (hm : o.mbox = false) (hq : o.quiet = false) :
    ∃ t, exec (.coreResetComplete c) s = .next t ∧ (t.core c).resetBy = none ∧
      s.cmdRecord o 0x0D .done [] ∈ t.bridge.waiting ∧ t.mem = s.mem ∧ t.fab = s.fab := by
  refine ⟨_, exec_coreResetComplete hc ho, ?_⟩
  have hfree : ((s.modCore c CoreUnit.free).core c).resetBy = none := by rw [State.core_modCore, CoreUnit.free]
  have hlevel := spreadLevel_resetBy hfree (coreDie c)
  have htable : CoreTableOnly s ((s.modCore c CoreUnit.free).spreadLevel (coreDie c)) :=
    (modCore_table s c _).trans (spreadLevel_frame _ _)
  generalize (s.modCore c CoreUnit.free).spreadLevel (coreDie c) = u at hlevel htable
  have hsense := capSense_same (u.complete o 0x0D .done []) [0] s
  refine ⟨?_, ?_, ?_, ?_⟩
  · rwa [State.core, hsense.cores, complete_cores]
  · rw [hsense.bridge, ← htable.cmdRecord]
    exact complete_record hm (fun _ => hq) 0x0D []
  · rw [hsense.mem, complete_mem, htable.mem]
  · rw [hsense.fab, complete_fab, htable.fab]

/-! ### PORT_RESET (R353, R372, R397, R525) -/

/-- t is s but for ports, the operations that ports carry, sow tables, and notices, their log and the draws. -/
def PortsOnly (s t : State) : Prop := SameButSignals { s with ports := t.ports, rem := t.rem, sows := t.sows } t

theorem PortsOnly.refl (s : State) : PortsOnly s s := rfl

theorem PortsOnly.trans {s t u : State} (h : PortsOnly s t) (k : PortsOnly t u) : PortsOnly s u := by
  unfold PortsOnly SameButSignals at *
  rw [k, h]

theorem PortsOnly.cores {s t : State} (h : PortsOnly s t) : t.cores = s.cores := by rw [show t = _ from h]
theorem PortsOnly.mem {s t : State} (h : PortsOnly s t) : t.mem = s.mem := by rw [show t = _ from h]
theorem PortsOnly.hash {s t : State} (h : PortsOnly s t) : t.hash = s.hash := by rw [show t = _ from h]
theorem PortsOnly.plat {s t : State} (h : PortsOnly s t) : t.plat = s.plat := by rw [show t = _ from h]

theorem PortsOnly.of_same {s t : State} (h : SameButSignals s t) : PortsOnly s t := by
  have hsows : t.sows = s.sows := by rw [h]
  have hrem : t.rem = s.rem := by rw [h]
  unfold PortsOnly
  rw [hsows, hrem, h.ports]
  exact h

theorem modPort_only (s : State) (p : Nat) (f : Port → Port) : PortsOnly s (s.modPort p f) := rfl
theorem clearSows_ports (s : State) (t : SowTable) (u : Nat) : PortsOnly s (s.clearSows t u) := rfl
theorem markAccepted_ports (s : State) (l : List SentFrame) : PortsOnly s (s.markAccepted l) := rfl
theorem outMove_ports (s : State) (a b : QPacket) : PortsOnly s ((s.outTake a).outPut b) := rfl

theorem port_of_table {s t : State} (h : t.ports.port = s.ports.port) (p : Nat) : t.port p = s.port p := by
  rw [State.port, h, State.port]

/-- Packets that move between ports change no port (R387, R395). -/
theorem moveQueue_ports (s : State) (p : Nat) (l : QPacket → Bool) :
    PortsOnly s (s.moveQueue p l) ∧ (s.moveQueue p l).ports.port = s.ports.port := by
  refine each_inv (fun u => PortsOnly s u ∧ u.ports.port = s.ports.port) _ _ ⟨.refl s, rfl⟩ fun q u hu => ?_
  dsimp only
  split
  · exact ⟨hu.1.trans (outMove_ports u _ _), hu.2⟩
  · exact hu

theorem dropSent_ports (s : State) (l : List SentFrame) : PortsOnly s { s with ports := { s.ports with sent := l } } := rfl

theorem portLeft_ports (s : State) (p : Nat) : PortsOnly s (s.portLeft p) ∧ (s.portLeft p).ports.port = s.ports.port := by
  unfold State.portLeft
  extract_lets s1 lost
  obtain ⟨h1, hport⟩ : PortsOnly s s1 ∧ s1.ports.port = s.ports.port := moveQueue_ports s p _
  clear_value s1
  split
  · exact ⟨h1, hport⟩
  · exact ⟨(h1.trans (dropSent_ports s1 _)).trans (markAccepted_ports _ _), hport⟩

theorem setPort_same (s : State) (p : Nat) (f : Port → Port) : SameButSignals (s.modPort p f) (s.setPort p f) :=
  (((sense_same _ _ s).trans (sense_same _ _ s)).trans (sense_same _ _ s)).trans (capSense_same _ _ s)

/-- Of the ports, a change of one port changes that port (R397). -/
theorem takePort_ports (s : State) (p : Nat) (f : Port → Port) :
    PortsOnly s (s.takePort p f) ∧ (s.takePort p f).ports.port = (s.modPort p f).ports.port := by
  unfold State.takePort
  extract_lets s1
  have hset : SameButSignals (s.modPort p f) s1 := setPort_same s p f
  clear_value s1
  have h1 : PortsOnly s s1 := (modPort_only s p f).trans (.of_same hset)
  have hport : s1.ports.port = (s.modPort p f).ports.port := congrArg Ports.port hset.ports
  split
  · obtain ⟨hleft, hsame⟩ := portLeft_ports s1 p
    exact ⟨h1.trans hleft, hsame.trans hport⟩
  · exact ⟨h1, hport⟩

/-- Control frames of a port that is reset are dropped (R525). -/
def State.dropCtl (s : State) (p : Nat) : State :=
  { s with ports := { s.ports with ctlq := s.ports.ctlq.filter fun e => e.1 != p } }

theorem resetPort_eq (s : State) (p : Nat) :
    s.resetPort p = (((s.dropCtl p).takePort p fun _ => Port.reset.startTrain).clearSows .port p).sense ntCfgParity s := rfl

section
variable (s : State) (p : Nat)

theorem resetPort_only : PortsOnly s (s.resetPort p) := by
  have hctl : PortsOnly s (s.dropCtl p) := rfl
  rw [resetPort_eq]
  exact ((hctl.trans (takePort_ports _ p _).1).trans (clearSows_ports _ _ _)).trans (.of_same (sense_same _ _ s))

theorem resetPort_table : (s.resetPort p).ports.port = (s.modPort p fun _ => Port.reset.startTrain).ports.port := by
  rw [resetPort_eq, (sense_same _ _ s).ports]
  exact (takePort_ports (s.dropCtl p) p _).2

theorem resetPort_port : (s.resetPort p).port p = Port.reset.startTrain :=
  (port_of_table (resetPort_table s p) p).trans (State.port_modPort s p _)

theorem resetPort_port_ne {e : Nat} (h : e ≠ p) : (s.resetPort p).port e = s.port e :=
  (port_of_table (resetPort_table s p) e).trans (State.port_modPort_ne s _ h)

theorem resetPort_sowTab : (s.resetPort p).sowTab (sowKey .port p) = [] := by
  rw [resetPort_eq]
  generalize (s.dropCtl p).takePort p _ = u
  have hsows : ((u.clearSows .port p).sense ntCfgParity s).sows = (u.clearSows .port p).sows := by
    rw [sense_same (u.clearSows .port p) ntCfgParity s]
  rw [State.sowTab, hsows]
  exact clearSows_sowTab u .port p

end

section
variable {s : State} {p : Nat} (htrip : s.power.tripped = false) (hp : p < 16)
include htrip hp

theorem exec_portReset (hhalt : (s.port p).halted = false) (o : Origin) :
    exec (.portReset o p) s = .next ((s.complete o 0x0E .done []).resetPort p) := by
  have hchecks : firstFail [(decide (16 ≤ p), .outOfRange), ((s.port p).halted, .parity)] = none := by
    simp [firstFail, hp, hhalt]
  show execPortReset o p s = _
  unfold execPortReset
  rw [htrip, Bool.not_false, act_true, hchecks]

theorem exec_portReset_halted (hhalt : (s.port p).halted = true) (o : Origin) :
    exec (.portReset o p) s = .next (s.complete o 0x0E .parity []) := by
  have hchecks : firstFail [(decide (16 ≤ p), .outOfRange), ((s.port p).halted, .parity)] = some .parity := by
    simp [firstFail, hp, hhalt]
  show execPortReset o p s = _
  unfold execPortReset
  rw [htrip, Bool.not_false, act_true, hchecks]

end

/-- What the reset of a port leaves (R353, R372, R397, R525). -/
theorem portReset_done {s : State} {p : Nat} (htrip : s.power.tripped = false) (hp : p < 16) (hhalt : (s.port p).halted = false)
    (o : Origin) :
    ∃ t, exec (.portReset o p) s = .next t ∧ t.port p = Port.reset.startTrain ∧ t.sowTab (sowKey .port p) = [] ∧
      (∀ e, e ≠ p → t.port e = s.port e) ∧ t.cores = s.cores ∧ t.mem = s.mem ∧ t.hash = s.hash ∧ t.plat = s.plat := by
  refine ⟨_, exec_portReset htrip hp hhalt o, ?_⟩
  have hrecord := complete_runs s o 0x0E .done []
  have hplat : (s.complete o 0x0E .done []).plat = s.plat := by rw [complete_same s o 0x0E .done []]
  generalize s.complete o 0x0E .done [] = u at hrecord hplat
  have honly := resetPort_only u p
  refine ⟨resetPort_port u p, resetPort_sowTab u p, fun e he => ?_, honly.cores.trans hrecord.cores,
    honly.mem.trans hrecord.mem, honly.hash.trans hrecord.hash, honly.plat.trans hplat⟩
  exact (resetPort_port_ne u p he).trans (port_of_table (congrArg Ports.port hrecord.ports) e)

/-! ### The obligation -/

/-- A die whose return begins: its unit says so and its scratchpads read zero (R219, R536). -/
theorem dieRejoin_begins {s : State} {d : Nat} (hd : d < 8) (o : Origin) :
    ∃ t, (s.modDie d (DieUnit.rejoin o)).zeroScratch d = t ∧ t.die d = (s.die d).rejoin o ∧
      (∀ i < 8, ∀ a, inScratch (8 * d + i) a = true → t.mem.rd a = 0) ∧
      t = { s with resets := { s.resets with dies := t.resets.dies }
                   mem := { s.mem with cells := t.mem.cells, poison := t.mem.poison } } := by
  refine ⟨_, rfl, ?_, fun i hi a ha => zeroScratch_rd _ hd hi ha, rfl⟩
  rw [(zeroScratch_stands _ d).die, State.die_modDie]

/-- What CORE_RESET leaves (R353, R525, R539). -/
theorem coreReset_done {s : State} {c : Nat} (hc : c < 64) (hup : s.coreUp c = true) (hhalt : (s.core c).halted = false)
    (o : Origin) :
    ∃ t, exec (.coreReset o c) s = .next t ∧ t.core c = { CoreUnit.reset with resetBy := some o } ∧
      t.sowTab (sowKey .core c) = [] ∧
      (∀ x < 16, (s.ctx c x).state ≠ .idle → (s.ctx c x).noend = false →
        ∃ r ∈ t.bridge.waiting, r.kind = 1 ∧ r.status = .wrongState ∧ r.tag = (s.ctx c x).tag ∧
          fieldB r.result 2 6 = (s.ctx c x).pc.toNat % 2 ^ 48) ∧
      t.mem = s.mem ∧ (∀ e, e ≠ c → t.core e = s.core e) ∧ t.ports = s.ports ∧ t.hash = s.hash := by
  have hstands := resetCore_stands s o c
  exact ⟨_, exec_coreReset hc hup hhalt o, resetCore_core s o c, resetCore_sowTab s o c,
    fun x hx hstate hnoend => (resetCore_ended s o c (mem_openRecords.2 ⟨hx, hstate, hnoend⟩)).pc,
    hstands.mem, fun e he => resetCore_core_ne s o c he, hstands.ports, hstands.hash⟩

/-- Settles O47: a gated die's return begins and ends, and one core or one port is reset. -/
theorem diesRejoinAndUnitsAreReset : Obligations.DiesRejoinAndUnitsAreReset := by
  unfold Obligations.DiesRejoinAndUnitsAreReset
  refine ⟨fun o d refMissing railOut s htrip hd hlife => ⟨fun hg hf hr hv => ?_, fun hg hf hfault => ?_, fun hwrong => ?_⟩,
    fun o d s hd ho hstate hbonds => ⟨fun hin => ?_, fun hout => ?_⟩, fun d s hbonds => exec_dieRejoinComplete_waits hbonds,
    fun o c s hc hup hhalt => coreReset_done hc hup hhalt o, fun o c s hc ho hm hq => coreResetCompleted hc ho hm hq,
    fun o p s htrip hp => ⟨fun hrun => portReset_done htrip hp hrun o, fun hhalt => exec_portReset_halted htrip hp hhalt o⟩⟩
  · obtain ⟨t, ht, hbegun⟩ := dieRejoin_begins (s := s) hd o
    exact ⟨t, ht ▸ exec_dieRejoin htrip hd hlife hg hf hr hv o, hbegun⟩
  · exact exec_dieRejoin_fault htrip hd hg hf hfault o
  · exact exec_dieRejoin_wrong htrip hd hwrong o
  · obtain ⟨t, ht, hruns⟩ := rejoined_up hd ho hstate hbonds hin
    exact ⟨t, ht, hruns.die, hruns.up, hruns.region⟩
  · exact rejoined_out hd ho hstate hbonds hout

end Sys2Proof.Machine
end

section
/-! SUPPORT. What packets that set out change (05, 07): headers as they are read back, answers, and requests that leave the
device. -/

namespace Sys2Proof.Machine

open Sys2Proof Sys2Proof.Safety

/-! ### Headers of answers (R155, R226) -/

/-- A header that is read back carries the destination and the opcode it was given, as many bits as they have. -/
theorem hdrOf_enc_dest_op (h : Hdr) : (hdrOf h.enc).dest = h.dest % 2 ^ 20 ∧ (hdrOf h.enc).op = h.op % 256 := by
  have hm (n k : Nat) (hk : 0 < k) : n % k < k := Nat.mod_lt n hk
  obtain ⟨hn, hdest, -, hop, -⟩ := header_fields (hm h.dest (2 ^ 20) (by omega)) (hm h.laddr (2 ^ 44) (by omega))
    (hm h.op 256 (by omega)) (hm h.vc 8 (by omega)) (hm h.hc 4 (by omega)) (b2n_le h.dmp) (hm h.len (2 ^ 13) (by omega))
    (hm h.issuer 1024 (by omega)) (hm h.pseq (2 ^ 14) (by omega)) (b2n_le h.xt) (b2n_le h.poison) (b2n_le h.retry)
    (b2n_le h.mcr) (b2n_le h.sys) (hm h.status 256 (by omega))
  simp only [hdrOf, Hdr.enc, BitVec.toNat_ofNat, Nat.mod_eq_of_lt hn, hdest, hop, and_self]

theorem replyTo_dest (p : Packet) (ext : BitVec 128) (op laddr : Nat) (data : List Byte) (st : Status) (poison : Bool) :
    (hdr (replyTo p 0 ext op laddr data st poison)).dest = 0 := (hdrOf_enc_dest_op _).1

theorem isSelf_zero (s : State) : s.isSelf 0 = true := rfl

/-- A packet for this device stays in it (R616). -/
theorem post_inside {s : State} {p : Packet} (h : (hdr p).dest = 0) (st rd : Nat) (op : Option Nat) :
    s.post st rd p op = s.postIn st rd p op := by
  unfold State.post
  rw [h, isSelf_zero, Bool.not_true, if_neg fun hout => Bool.false_ne_true hout.2.2]

/-! ### Packets set out -/

/-- Between s and t packets have set out: nothing has changed but what stations hold, save their open blocks, the port ring, the
count of broadcasts dropped and the operations across the rack (R71, R248, R405). -/
structure SetsOut (s t : State) : Prop where
  frame : t = { s with
    fab := { s.fab with st := t.fab.st, ring := t.fab.ring }
    plat := { s.plat with drop := t.plat.drop }
    rem := { s.rem with rack := t.rem.rack, nextId := t.rem.nextId } }
  merge : ∀ st, (t.sta st).merge = (s.sta st).merge

theorem SetsOut.refl (s : State) : SetsOut s s := ⟨rfl, fun _ => rfl⟩

theorem SetsOut.trans {a b c : State} (h : SetsOut a b) (k : SetsOut b c) : SetsOut a c where
  frame := by rw [k.frame, h.frame]
  merge st := (k.merge st).trans (h.merge st)

theorem SetsOut.mem {s t : State} (h : SetsOut s t) : t.mem = s.mem := by rw [h.frame]
theorem SetsOut.cores {s t : State} (h : SetsOut s t) : t.cores = s.cores := by rw [h.frame]
theorem SetsOut.bridge {s t : State} (h : SetsOut s t) : t.bridge = s.bridge := by rw [h.frame]
theorem SetsOut.ports {s t : State} (h : SetsOut s t) : t.ports = s.ports := by rw [h.frame]

theorem toPort_setsOut (s : State) (here p fdst : Nat) (pkt : Packet) (op : Option Nat) : SetsOut s (s.toPort here p fdst pkt op) :=
  ⟨rfl, fun _ => rfl⟩

theorem modSta_setsOut (s : State) (st : Nat) {f : Station → Station} (hf : ∀ x : Station, (f x).merge = x.merge) :
    SetsOut s (s.modSta st f) := by
  refine ⟨rfl, fun w => ?_⟩
  by_cases h : w = st
  · rw [h, State.sta_modSta, hf]
  · rw [State.sta_modSta_ne _ _ h]

theorem replicate_setsOut (s : State) (here : Nat) (p : Packet) (members : List Nat) (op : Option Nat) :
    SetsOut s (s.replicate here p members op) := by
  unfold State.replicate
  extract_lets via dropped hops plat s1
  have h1 : SetsOut s s1 := ⟨rfl, fun _ => rfl⟩
  exact h1.trans (each_rel SetsOut.refl .trans hops (fun f t => toPort_setsOut t here _ f _ op) s1)

theorem bcastOut_setsOut (s : State) (here : Nat) (p : Packet) (op : Option Nat) : SetsOut s (s.bcastOut here p op).2 := by
  unfold State.bcastOut
  dsimp only
  split
  · exact .refl s
  · split
    · exact replicate_setsOut _ _ _ _ _
    · split
      · exact toPort_setsOut _ _ _ _ _ _
      · exact .refl s

theorem depart_setsOut (s : State) (here : Nat) (p : Packet) (op : Option Nat) : SetsOut s (s.depart here p op).2 := by
  unfold State.depart
  dsimp only
  split
  · exact bcastOut_setsOut s here p op
  · split
    · exact toPort_setsOut _ _ _ _ _ _
    · exact .refl s

theorem depart_rem (s : State) (here : Nat) (p : Packet) (op : Option Nat) : (s.depart here p op).2.rem = s.rem := by
  have hport : ∀ (t : State) q f r o, (t.toPort here q f r o).rem = t.rem := fun _ _ _ _ _ => rfl
  unfold State.depart State.bcastOut State.replicate
  dsimp only
  split
  · split
    · rfl
    · split
      · exact each_inv (fun t => t.rem = s.rem) _ _ rfl fun f t h => (hport t _ _ _ _).trans h
      · split <;> rfl
  · split <;> rfl

theorem postIn_setsOut (s : State) (st rd : Nat) (p : Packet) (op : Option Nat) : SetsOut s (s.postIn st rd p op) := by
  unfold State.postIn
  split
  · exact modSta_setsOut _ _ fun _ => rfl
  · split
    · exact .refl s
    · exact modSta_setsOut _ _ fun _ => rfl

theorem postIn_rem (s : State) (st rd : Nat) (p : Packet) (op : Option Nat) : (s.postIn st rd p op).rem = s.rem := by
  unfold State.postIn
  split
  · rfl
  · split <;> rfl

theorem sendOut_setsOut (s : State) (x w : Nat) (p : Packet) : SetsOut s (s.sendOut x w p) := by
  unfold State.sendOut
  extract_lets h p1 r
  split
  · exact depart_setsOut _ _ _ _
  · split
    · have hr : SetsOut s r.2 := depart_setsOut s (xsStop x) p1 (some s.rem.nextId)
      exact hr.trans ⟨rfl, fun _ => rfl⟩
    · exact postIn_setsOut _ _ _ _ _

theorem post_setsOut (s : State) (st rd : Nat) (p : Packet) (op : Option Nat) : SetsOut s (s.post st rd p op) := by
  unfold State.post
  split
  · exact sendOut_setsOut _ _ _ _
  · exact postIn_setsOut _ _ _ _ _

theorem reply_setsOut (s : State) (st : Nat) (p : Packet) (op : Nat) (data : List Byte) (status : Status) (poison : Bool) :
    SetsOut s (s.reply st p op data status poison) := by
  unfold State.reply
  dsimp only
  split
  · split
    · exact post_setsOut _ _ _ _ _
    · exact .refl s
  · exact post_setsOut _ _ _ _ _

end Sys2Proof.Machine
end

section
/-! SUPPORT. Frames of the rack ports (11): what the window of a sender makes of a DATA frame, and what an acknowledgement, a
refusal and a RESYNC leave of the frames that are kept. -/

namespace Sys2Proof.Machine

open Sys2Proof Sys2Proof.Safety

/-! ### Paths that a probe found again (R396) -/

/-- Between s and t failed paths may have returned: the frames that are kept or wait, what each port has received, and the
operations across the rack stand. -/
structure PathsReturn (s t : State) : Prop where
  sent : t.ports.sent = s.ports.sent
  backoff : t.ports.backoff = s.ports.backoff
  rem : t.rem = s.rem
  rxq : ∀ p, (t.port p).rxq = (s.port p).rxq

theorem PathsReturn.refl (s : State) : PathsReturn s s := ⟨rfl, rfl, rfl, fun _ => rfl⟩

theorem PathsReturn.trans {a b c : State} (h : PathsReturn a b) (k : PathsReturn b c) : PathsReturn a c :=
  ⟨k.sent.trans h.sent, k.backoff.trans h.backoff, k.rem.trans h.rem, fun p => (k.rxq p).trans (h.rxq p)⟩

theorem pathBack_returns (s : State) (p key : Nat) : PathsReturn s (s.pathBack p key) := by
  have hsense : SameButSignals (s.modPort p fun q => { q with failed := q.failed.filter (· != key) }) (s.pathBack p key) :=
    sense_same _ _ s
  refine ⟨by rw [hsense.ports]; rfl, by rw [hsense.ports]; rfl, by rw [hsense]; rfl, fun i => ?_⟩
  rw [port_of_table (congrArg Ports.port hsense.ports)]
  by_cases hi : i = p
  · rw [hi, State.port_modPort]
  · rw [State.port_modPort_ne _ _ hi]

/-! ### Frames are freed (R388, R390) -/

/-- The frames to a peer that a frame of its acknowledges (R388). -/
def ackedBy (key : Nat) (h : FHdr) (f : SentFrame) : Bool := f.fdst == key && decide ((h.ackseq - f.fseq).toNat < 2 ^ 23)

/-- The frames of a list that a part of it names leave it. -/
theorem filter_not_contains {α : Type} [BEq α] [LawfulBEq α] (l : List α) (p : α → Bool) :
    (l.filter fun x => !(l.filter p).contains x) = l.filter fun x => !p x :=
  List.filter_congr fun x hx => by cases h : p x <;> simp [hx, h]

/-- Frames that are freed leave the buffer, and nothing else does (R390, R396). -/
theorem freeFrames_filter (s : State) (p : SentFrame → Bool) :
    PathsReturn { s with ports := { s.ports with sent := s.ports.sent.filter fun f => !p f } }
      (s.freeFrames (s.ports.sent.filter p)) := by
  have hpaths : ∀ (f : SentFrame) (t : State), PathsReturn t (each f.probed (fun p s => s.pathBack p f.fdst) t) :=
    fun f t => each_rel PathsReturn.refl .trans _ (fun p t => pathBack_returns t p f.fdst) t
  have hall := each_rel PathsReturn.refl .trans (s.ports.sent.filter p) hpaths
    { s with ports := { s.ports with sent := s.ports.sent.filter fun f => !(s.ports.sent.filter p).contains f } }
  rw [filter_not_contains] at hall
  rw [State.freeFrames, filter_not_contains]
  exact hall

theorem takeAckSeq_none (s : State) (key : Nat) {h : FHdr} (hav : h.av = false) : s.takeAckSeq key h = s := by
  rw [State.takeAckSeq, hav, if_neg Bool.false_ne_true]

/-- What a frame acknowledges is kept no longer (R388, R390). -/
theorem takeAckSeq_acked (s : State) (key : Nat) {h : FHdr} (hav : h.av = true) :
    (s.takeAckSeq key h).ports.sent = s.ports.sent.filter (fun f => !ackedBy key h f) ∧
      ∀ p, ((s.takeAckSeq key h).port p).rxq = (s.port p).rxq := by
  have hfree := freeFrames_filter s (ackedBy key h)
  rw [State.takeAckSeq, if_pos hav]
  exact ⟨hfree.sent, hfree.rxq⟩

/-! ### DATA frames (R256, R388, R391) -/

theorem popFrame_port (s : State) (p : Nat) : (s.popFrame p).port p = { s.port p with rxq := (s.port p).rxq.drop 1 } :=
  State.port_modPort s p _

theorem exec_dataFrame {s : State} {p key : Nat} {f : Frame} {ft : W64} {pkt : Packet}
    (hhead : s.headFrame p 1 = some (f, ft, key)) (hbody : bodyPacket f = some pkt) :
    exec (.dataFrame p) s
      = .next (((s.popFrame p).takeAckSeq key (fhdrOf f.hdr)).dataIn p key ft (fhdrOf f.hdr) pkt) := by
  show execDataFrame p s = _
  simp only [execDataFrame, hhead, hbody]

section
variable {s : State} {p key : Nat} {h : FHdr}

theorem dataIn_stale (ft : W64) (pkt : Packet) (hc : (s.peerWin key).check h.fseq = .stale) : s.dataIn p key ft h pkt = s := by
  simp only [State.dataIn, hc]

theorem dataIn_duplicate (ft : W64) (pkt : Packet) (hc : (s.peerWin key).check h.fseq = .duplicate)
    (hr : h.fseq ∉ (s.peerWin key).refused) :
    s.dataIn p key ft h pkt = (s.modPort p fun q => { q with dup := inc 8 q.dup }).modWin key fun w =>
      { w with owesAck := true, port := p } := by
  have hnot : (s.peerWin key).refused.contains h.fseq = false := by simpa using hr
  simp only [State.dataIn, hc, hnot, Bool.false_eq_true, if_false]

theorem dataIn_delivered (ft : W64) {pkt : Packet} {x} (hc : (s.peerWin key).check h.fseq = .accept x)
    (hentry : s.noEntry p pkt = false) (hr : s.refuseAt p pkt = none) :
    s.dataIn p key ft h pkt = (s.modWin key fun w => w.take h.fseq p false).packetIn p ft pkt := by
  simp only [State.dataIn, hc, hentry, hr, Bool.false_eq_true, if_false]

theorem dataIn_refused (ft : W64) {pkt : Packet} {x} {st : Nat} (hc : (s.peerWin key).check h.fseq = .accept x)
    (hentry : s.noEntry p pkt = false) (hr : s.refuseAt p pkt = some st) :
    s.dataIn p key ft h pkt = ({ s.modWin key (fun w => w.take h.fseq p true) with
      rem := { s.rem with refuseSent := inc 16 s.rem.refuseSent } } : State).sendRefuse p key h.fseq st (hdr pkt).vc := by
  simp only [State.dataIn, hc, hentry, hr, Bool.false_eq_true, if_false]
  rfl

end

/-! ### The window of a sender (R388) -/

section
variable {w : PeerWin} {h q : BitVec 24}

theorem check_ahead (hw : w.highest = some h) (h1 : 1 ≤ (q - h).toNat) (h2 : (q - h).toNat < 2 ^ 23) :
    w.check q = .accept (none, []) := by
  simp only [PeerWin.check, hw, Option.getD_some]
  rw [if_pos ⟨h1, h2⟩]

theorem check_behind (hw : w.highest = some h) (h1 : 2 ^ 23 ≤ (q - h).toNat) (h2 : 4096 ≤ (h - q).toNat) :
    w.check q = .stale := by
  simp only [PeerWin.check, hw, Option.getD_some]
  rw [if_neg (by omega), if_neg (by omega)]

/-- A frame held already, within 4,096 of the newest, is a duplicate. -/
theorem check_held (hw : w.highest = some h) (hq : q ∈ w.ahead) (hnear : (h - q).toNat < 4096) : w.check q = .duplicate := by
  have hheld : w.ahead.contains q = true := by simpa using hq
  have hnot : ¬(1 ≤ (q - h).toNat ∧ (q - h).toNat < 2 ^ 23) := by
    rw [BitVec.toNat_sub] at hnear ⊢
    have hqlt := q.isLt
    have hhlt := h.isLt
    omega
  simp only [PeerWin.check, hw, Option.getD_some, hheld, Bool.true_or, if_true, Option.isSome_some, true_and]
  rw [if_neg hnot, if_pos hnear]

end

/-! ### ACK, REFUSE and RESYNC (R257, R388, R391, R393) -/

theorem exec_ackFrame {s : State} {p key : Nat} {f : Frame} {ft : W64} (hhead : s.headFrame p 2 = some (f, ft, key))
    (hrate : s.portAckRate p = 0) :
    exec (.ackFrame p) s = .next ((s.popFrame p).takeAckSeq key (fhdrOf f.hdr)) := by
  have hkept : s.oneIn 0 = false := by simp [State.oneIn]
  show execAckFrame p s = _
  simp only [execAckFrame, hhead, hrate, hkept, bne_self_eq_false, State.when_false, Bool.false_eq_true, if_false]

/-- The frame that a REFUSE names (R376, R391). -/
def refusedBy (key : Nat) (f : Frame) (x : SentFrame) : Bool :=
  x.fdst == key && x.fseq == BitVec.ofNat 24 (bits (bodyWord f) 63 40)

/-- A packet whose operation, if it has one, is still held (R258). -/
def State.stillHeld (s : State) (x : SentFrame) : Bool := x.q.op.all fun id => s.rem.rack.any fun r => r.id == id

/-- Packets that were refused wait out their backoff, unless their operations have ended (R257, R391). -/
def State.backOff (s : State) (key : Nat) (hit : List SentFrame) : State :=
  { s with
    ports := { s.ports with backoff := s.ports.backoff ++ (hit.filter s.stillHeld).map fun x => (x.q, key, x.refusals + 1) }
    rem := { s.rem with refuseGot := sat 16 (s.rem.refuseGot + hit.length) } }

theorem exec_refuse {s : State} {p key : Nat} {f : Frame} {ft : W64} (hhead : s.headFrame p 4 = some (f, ft, key)) :
    exec (.refuse p) s = .next ((((s.popFrame p).freeFrames (s.ports.sent.filter (refusedBy key f))).takeAckSeq key
      (fhdrOf f.hdr)).backOff key (s.ports.sent.filter (refusedBy key f))) := by
  have hheld (t : State) : t.stillHeld = fun x => match x.q.op with
      | some id => t.rem.rack.any fun r => r.id == id
      | none => true := by
    funext x
    unfold State.stillHeld
    cases x.q.op <;> rfl
  show execRefuse p s = _
  simp only [execRefuse, hhead, State.backOff, hheld]
  rfl

/-- A refused frame is kept no longer, and its packet waits out its backoff (R257, R391). -/
theorem refuse_result {s : State} {p key : Nat} {f : Frame} {ft : W64} (hhead : s.headFrame p 4 = some (f, ft, key))
    (hav : (fhdrOf f.hdr).av = false) :
    ∃ t, exec (.refuse p) s = .next t ∧ t.ports.sent = s.ports.sent.filter (fun x => !refusedBy key f x) ∧
      t.ports.backoff = s.ports.backoff ++
        (s.ports.sent.filter fun x => refusedBy key f x && s.stillHeld x).map fun x => (x.q, key, x.refusals + 1) := by
  have hfree := freeFrames_filter (s.popFrame p) (refusedBy key f)
  have hsent : (s.popFrame p).ports.sent = s.ports.sent := rfl
  rw [hsent] at hfree
  refine ⟨_, exec_refuse hhead, ?_⟩
  rw [takeAckSeq_none _ _ hav]
  generalize (s.popFrame p).freeFrames (s.ports.sent.filter (refusedBy key f)) = t at hfree
  have hheld : t.stillHeld = s.stillHeld := by
    unfold State.stillHeld
    rw [hfree.rem]
    rfl
  refine ⟨hfree.sent, ?_⟩
  rw [State.backOff, hheld, hfree.backoff, List.filter_filter]
  simp only [Bool.and_comm]
  rfl

/-! ### A peer has restarted (R393) -/

/-- An operation across the rack ends, and what is kept for resending stands (R248). -/
theorem endRack_sent (s : State) (id : Nat) (st : Status) : (s.endRack id st).ports.sent = s.ports.sent := by
  unfold State.endRack
  split
  · rfl
  · rw [post_inside (replyTo_dest _ _ _ _ _ _ _), (postIn_setsOut _ _ _ _ _).ports]
    rfl

/-- The frames to a peer, and the operations that they carried, end (R393). -/
def State.peerGone (s : State) (key : Nat) : State :=
  each ((s.ports.sent.filter fun x => x.fdst == key).filterMap fun x => x.q.op) (fun i s => s.endRack i .deadTarget)
    { s with ports := { s.ports with sent := s.ports.sent.filter fun x => x.fdst != key } }

theorem peerGone_sent (s : State) (key : Nat) : (s.peerGone key).ports.sent = s.ports.sent.filter fun x => x.fdst != key :=
  each_inv (fun t => t.ports.sent = s.ports.sent.filter fun x => x.fdst != key) _ _ rfl
    fun i t h => (endRack_sent t i .deadTarget).trans h

theorem exec_resync {s : State} {p key : Nat} {f : Frame} {ft : W64} (hhead : s.headFrame p 5 = some (f, ft, key)) :
    exec (.resync p) s = .next ((((s.popFrame p).peerGone key).modSend key fun x =>
      { x with dinc := (fhdrOf f.hdr).sinc, fseq := 0 }).raise ntPeerResync) := by
  show execResync p s = _
  simp only [execResync, hhead]
  rfl

theorem resync_result {s : State} {p key : Nat} {f : Frame} {ft : W64} (hhead : s.headFrame p 5 = some (f, ft, key)) :
    ∃ t, exec (.resync p) s = .next t ∧ t.ports.sent = s.ports.sent.filter (fun x => x.fdst != key) ∧
      t.peerSend key = { dinc := (fhdrOf f.hdr).sinc, fseq := 0 } ∧ t.notices.pend.getLsbD ntPeerResync = true := by
  refine ⟨_, exec_resync hhead, ?_, ?_, raise_pend _ (by decide)⟩
  · rw [(raise_same _ _).ports]
    exact peerGone_sent (s.popFrame p) key
  · rw [State.peerSend, (raise_same _ _).ports]
    exact State.peerSend_modSend _ key _

/-! ### The backoff of a refused packet ends (R257, R391) -/

theorem tget_tmod {β : Type} [DecidableEq β] (t : Tbl β) (d : β) (k : Nat) (f : β → β) (i : Nat) :
    tget (tmod t d k f) d i = if i = k then f (tget t d i) else tget t d i := by
  rw [tmod, tget_tset]
  split
  · next h => rw [h]
  · rfl

/-- A packet joins its own output buffer, at its end, and no other (R185). -/
theorem outPut_outq (s : State) (q : QPacket) (i : Nat) : tget (s.outPut q).ports.outq [] i =
    if i = outKey q then tget s.ports.outq [] i ++ [q] else tget s.ports.outq [] i :=
  tget_tmod s.ports.outq [] (outKey q) (fun l => l ++ [q]) i

theorem exec_refusalBackoffEnd {s : State} {fdst : Nat} {b : QPacket × Nat × Nat}
    (hb : s.ports.backoff.find? (fun b => b.2.1 == fdst) = some b) (hpeer : isPeerKey fdst = false)
    (hroute : (s.route fdst).1 = .done) :
    exec (.refusalBackoffEnd fdst) s = .next (({ s with ports := { s.ports with backoff := s.ports.backoff.erase b } } : State).outPut
      { b.1 with readers := [(s.route fdst).2.1, (s.route fdst).2.2, b.2.2] }) := by
  show execRefusalBackoffEnd fdst s = _
  simp only [execRefusalBackoffEnd, hb, hpeer, Bool.false_eq_true, if_false, hroute, decide_true, act_true]

/-! ### The obligation -/

/-- Settles O38: the window of a sender decides what becomes of its frames, and frames that are answered leave the buffer. -/
theorem framesAreDeliveredOnce : Obligations.FramesAreDeliveredOnce := by
  unfold Obligations.FramesAreDeliveredOnce
  refine ⟨fun p key f ft pkt s s1 hhead hbody hs1 => ?_, fun w h q hw => ?_, fun p key f ft s hhead hrate => ?_,
    fun p key f ft s hhead hav => refuse_result hhead hav, fun p key f ft s hhead => resync_result hhead,
    fun fdst b s hb hpeer hroute => ?_⟩
  · rw [exec_dataFrame hhead hbody, ← hs1]
    refine ⟨fun hc => ?_, fun hc hr => ?_, fun x hc hentry => ⟨fun hr => ?_, fun st hr => ?_⟩⟩
    · rw [dataIn_stale ft pkt hc]
    · rw [dataIn_duplicate ft pkt hc hr]
    · rw [dataIn_delivered ft hc hentry hr]
    · rw [dataIn_refused ft hc hentry hr]
  · exact ⟨check_ahead hw, check_behind hw, check_held hw⟩
  · refine ⟨_, exec_ackFrame hhead hrate, ?_⟩
    cases hav : (fhdrOf f.hdr).av with
    | true =>
      obtain ⟨hsent, hrxq⟩ := takeAckSeq_acked (s.popFrame p) key hav
      exact ⟨by rw [hrxq, popFrame_port], fun _ => hsent, fun h => absurd h (by decide)⟩
    | false =>
      rw [takeAckSeq_none _ _ hav]
      exact ⟨by rw [popFrame_port], fun h => absurd h (by decide), fun _ => rfl⟩
  · exact ⟨_, exec_refusalBackoffEnd hb hpeer hroute, rfl, fun i => outPut_outq _ _ i, rfl⟩

end Sys2Proof.Machine
end

section
/-! SUPPORT. Contexts (08): a context takes a state, its wait ends, and a token signal that it does not ask for changes nothing. -/

namespace Sys2Proof.Machine

open Sys2Proof Sys2Proof.Safety

/-! ### Contexts of states that agree on their cores -/

theorem ctx_of_cores {s t : State} (h : t.cores = s.cores) (c x : Nat) : t.ctx c x = s.ctx c x := by
  simp only [State.ctx, State.core, h]

theorem ctx_of_same {s t : State} (h : SameButSignals s t) (c x : Nat) : t.ctx c x = s.ctx c x := ctx_of_cores h.cores c x

/-- A change of a context and of notices is a change of the cores and of notices. -/
theorem sameCores_of_modCtx {s t : State} {c x : Nat} {f : Ctx → Ctx} (h : SameButSignals (s.modCtx c x f) t) :
    t.ctx c x = f (s.ctx c x) ∧ SameButSignals { s with cores := t.cores } t := by
  refine ⟨by rw [ctx_of_same h, State.ctx_modCtx], ?_⟩
  have hcores : s.modCtx c x f = { s with cores := t.cores } := by
    rw [h.cores]
    rfl
  rwa [hcores] at h

/-! ### Signals (R280) -/

/-- An operation with SV 0 signals no token (R273, R280). -/
theorem signal_silent (s : State) (c x : Nat) {sig : BitVec 16} (h : sig.getLsbD 15 = false) (eng op : Nat) :
    s.signal c x sig eng op = s := by
  have hbit : bit sig.toNat 15 = false := (strap_bit _ _).trans h
  simp only [State.signal, hbit, Bool.false_eq_true, if_false]

/-! ### A context takes a state (R265, R269, R459) -/

theorem setCtx_same (s : State) (c x : Nat) (st : CtxState) (why : Why) :
    SameButSignals (s.modCtx c x fun t => { t with state := st, why := why }) (s.setCtx c x st why) :=
  (sense_same _ _ s).trans (sense_same _ _ s)

theorem setCtx_ctx (s : State) (c x : Nat) (st : CtxState) (why : Why) :
    (s.setCtx c x st why).ctx c x = { s.ctx c x with state := st, why := why } := by
  rw [ctx_of_same (setCtx_same s c x st why), State.ctx_modCtx]

/-- A context whose wait is over. -/
def Ctx.goOn (t : Ctx) : Ctx := { t with state := .ready, why := .none, sigOp := 0 }

/-- The context goes on, and its operation is done (R280). -/
def State.resume (s : State) (c x : Nat) : State := (s.setCtx c x .ready .none).modCtx c x fun t => { t with sigOp := 0 }

theorem resume_same (s : State) (c x : Nat) : SameButSignals (s.modCtx c x Ctx.goOn) (s.resume c x) := by
  have h := (setCtx_same s c x .ready .none).modCtx c x fun t => { t with sigOp := 0 }
  rw [State.modCtx_twice] at h
  exact h

theorem resume_ctx (s : State) (c x : Nat) : (s.resume c x).ctx c x = (s.ctx c x).goOn := by
  rw [ctx_of_same (resume_same s c x), State.ctx_modCtx]

/-- A wait that signals no token ends with its context going on, and nothing else changes. -/
theorem waitOver_silent {s : State} {c x : Nat} (h : (s.ctx c x).sig.getLsbD 15 = false) : s.waitOver c x = s.resume c x :=
  signal_silent _ c x h 0 _

end Sys2Proof.Machine
end

section
/-! SUPPORT. Operations end (07): by their replies, by deadlines across the rack, by receipts and by fences. -/

namespace Sys2Proof.Machine

open Sys2Proof Sys2Proof.Safety

/-! ### Replies end the operations they answer (R226, R247, R252, R253) -/

section
variable {s s1 : State} {st op : Nat} {e : Nat × Packet} {o : Op}

theorem takeReply_ends (hup : s.stUp st = true) (hop : op ≠ 0x91) (htake : s.takeInbox st (fun p => (hdr p).op == op) = some (e, s1))
    (ho : s1.opFor st e.2 = some o) :
    s.takeReply st op = .next (s1.finish o (answerStatus e.2) e.2.data (answerMask e.2)) := by
  have hnot : (op == 0x91) = false := by simpa using hop
  simp only [State.takeReply, hup, act_true, htake, ho, hnot, Bool.false_eq_true, if_false]
  rfl

theorem takeReply_dead (hup : s.stUp st = true) (htake : s.takeInbox st (fun p => (hdr p).op == 0x91) = some (e, s1))
    (ho : s1.opFor st e.2 = some o) : s.takeReply st 0x91 = .next (s1.finish o .deadTarget e.2.data 0) := by
  simp only [State.takeReply, hup, act_true, htake, ho]
  rfl

theorem takeReply_late (hup : s.stUp st = true) (htake : s.takeInbox st (fun p => (hdr p).op == op) = some (e, s1))
    (ho : s1.opFor st e.2 = none) : s.takeReply st op = .next s1 := by
  simp only [State.takeReply, hup, act_true, htake, ho]

end

/-! ### Receipts (R246, R247) -/

theorem exec_receiptFilled {s : State} {share w : Nat} {p : Packet} {e : Receipt} (hshare : share < 4)
    (hfind : (s.ms share).receipts.find? (fun e => e.pending) = some e) (hwaiting : e.waiting = [(w, p)]) :
    exec (.receiptFilled share) s = .next ((s.modMs share fun m => { m with
      receipts := m.receipts.map fun x => if x = e then { x with pending := false, waiting := [] } else x
      hit := sat 16 m.hit }).reply w p 0x72 e.old .done false) := by
  show execReceiptFilled share s = _
  simp only [execReceiptFilled, hfind, hshare, hwaiting, decide_true, act_true]
  rfl

theorem exec_receiptExpire {s : State} {share : Nat} (hshare : share < 4) :
    exec (.receiptExpire share) s = .next (s.modMs share fun m => { m with
      receipts := m.receipts.filter fun e => e.pending || decide ((s.now - e.ft).toNat < m.retain * ticksPerMs) }) := by
  show execReceiptExpire share s = _
  rw [execReceiptExpire, decide_eq_true hshare, act_true]

/-! ### Operations across the rack are sent again and given up (R248, R255, R258) -/

/-- A resend of an operation across the rack is counted (R248). -/
def State.countResend (s : State) (id : Nat) : State :=
  { s with rem := { s.rem with
    rack := s.rem.rack.map fun (y : RackOp) => if y.id == id then { y with resends := y.resends + 1 } else y
    resent := inc 16 s.rem.resent } }

theorem countResend_rack {s : State} {id : Nat} {r : RackOp} (hfind : s.rem.rack.find? (fun r => r.id == id) = some r) :
    ∃ y ∈ (s.countResend id).rem.rack, y.id = id ∧ y.resends = r.resends + 1 ∧ y.pkt = r.pkt := by
  have hid : (r.id == id) = true := List.find?_some (p := fun r : RackOp => r.id == id) hfind
  refine ⟨{ r with resends := r.resends + 1 }, List.mem_map.2 ⟨r, List.mem_of_find?_eq_some hfind, ?_⟩, by simpa using hid, rfl, rfl⟩
  rw [hid, if_pos rfl]

theorem exec_rackOpResend {s : State} {id : Nat} {r : RackOp} (hfind : s.rem.rack.find? (fun r => r.id == id) = some r)
    (hop : (hdr r.pkt).op = 0x01 ∨ (atomicOf (hdr r.pkt).op).isSome = true) (hfew : r.resends < 3) (hxs : s.stServes r.xs = true) :
    ∃ p, exec (.rackOpResend id) s = .next ((s.countResend id).depart (xsStop r.xs) p (some id)).2 := by
  have hagain : ((hdr r.pkt).op == 0x01 || (atomicOf (hdr r.pkt).op).isSome) = true := by simpa using hop
  refine ⟨if (hdr r.pkt).op == 0x01 then r.pkt else withHdr r.pkt fun h => { h with retry := true }, ?_⟩
  show execRackOpResend id s = _
  simp only [execRackOpResend, hfind, hagain, hfew, hxs, decide_true, Bool.and_self, act_true]
  rfl

/-- An operation across the rack that is given up is held no longer, and is counted (R248, R258). -/
def State.countGiveup (s : State) (id : Nat) : State :=
  ({ s with rem := { s.rem with gaveUp := inc 8 s.rem.gaveUp } } : State).dropRack id

/-- What is given up ends at its issuer, unless that was reset (R248, R258). -/
theorem rackOpGiveup_result {s : State} {id : Nat} {r : RackOp} (hfind : s.rem.rack.find? (fun r => r.id == id) = some r) :
    ∃ t, exec (.rackOpGiveup id) s = .next t ∧ t.rem = (s.countGiveup id).rem ∧ t.mem = s.mem := by
  have hexec : exec (.rackOpGiveup id) s = execRackOpGiveup id s := rfl
  rw [hexec]
  simp only [execRackOpGiveup, hfind, act_true]
  refine ⟨_, rfl, ?_⟩
  split
  · exact ⟨rfl, rfl⟩
  · rw [post_inside (replyTo_dest _ _ _ _ _ _ _)]
    exact ⟨postIn_rem _ _ _ _ _, (postIn_setsOut _ _ _ _ _).mem⟩

/-! ### A dead target (R253) -/

theorem exec_deadTargetTimeout {s : State} {id tgt : Nat} {o : Op} (hfind : s.rem.ops.find? (fun o => o.id == id) = some o)
    (hsent : o.sent = true) (htgt : o.target = some tgt) (hdead : s.stServes tgt = false) :
    exec (.deadTargetTimeout id) s = .next (s.finish o .deadTarget [] 0) := by
  show execDeadTargetTimeout id s = _
  simp only [execDeadTargetTimeout, hfind, hsent, htgt, hdead, Bool.not_false, Bool.and_self, act_true]

/-! ### Fences and parked contexts (R238, R242, R269, R280) -/

theorem exec_fenceComplete {s : State} {c x : Nat} {f : Fence} (hf : s.ctxFence c x = some f) (hops : f.ops = [])
    (hsheaf : (s.ctx c x).sheafOut = 0) (hstate : (s.ctx c x).state = .wait) (hwhy : (s.ctx c x).why = .fence)
    (hsig : (s.ctx c x).sig.getLsbD 15 = false) :
    exec (.fenceComplete c x) s = .next (((s.dropFence f).ctxWorst c x f.worst).resume c x) := by
  show execFenceComplete c x s = _
  simp only [execFenceComplete, hf, hops, hsheaf, hstate, hwhy, List.isEmpty_nil, beq_self_eq_true, Bool.and_self, act_true,
    and_self, if_true, signal_silent _ _ _ hsig]
  rfl

theorem fenceComplete_result (s : State) (c x : Nat) (f : Fence) :
    let t := ((s.dropFence f).ctxWorst c x f.worst).resume c x
    t.ctx c x = { s.ctx c x with state := .ready, why := .none, sigOp := 0, worst := (s.ctx c x).worst.worse f.worst } ∧
      t.rem = { s.rem with fences := s.rem.fences.erase f } := by
  intro t
  have hctx : ((s.dropFence f).ctxWorst c x f.worst).ctx c x = { s.ctx c x with worst := (s.ctx c x).worst.worse f.worst } :=
    State.ctx_modCtx _ _ _ _
  refine ⟨?_, ?_⟩
  · rw [resume_ctx, hctx]
    rfl
  · rw [show t = _ from resume_same ((s.dropFence f).ctxWorst c x f.worst) c x]
    rfl

/-- A parked context goes on (R242, R280). -/
def State.unpark (s : State) (c x : Nat) : State := (s.modCtx c x fun t => { t with sigOp := 0 }).setCtx c x .ready .none

theorem unpark_same (s : State) (c x : Nat) : SameButSignals (s.modCtx c x Ctx.goOn) (s.unpark c x) := by
  have h := setCtx_same (s.modCtx c x fun t => { t with sigOp := 0 }) c x .ready .none
  rw [State.modCtx_twice] at h
  exact h

theorem exec_parkedReplyWritten {s : State} {c x : Nat} (hparked : (s.ctx c x).parked = [])
    (hop : (s.ctx c x).sigOp = 0x18 ∨ (s.ctx c x).sigOp = 0x1A) (hstate : (s.ctx c x).state = .parked)
    (hsig : (s.ctx c x).sig.getLsbD 15 = false) :
    exec (.parkedReplyWritten c x) s = .next (s.unpark c x) := by
  have hremote : ((s.ctx c x).sigOp == 0x18 || (s.ctx c x).sigOp == 0x1A) = true := by simpa using hop
  show execParkedReplyWritten c x s = _
  simp only [execParkedReplyWritten, hparked, hremote, hstate, List.isEmpty_nil, Bool.and_self, act_true, if_true,
    signal_silent _ _ _ hsig]
  rfl

/-! ### The obligation -/

/-- Settles O18: each operation ends by its reply, its deadline or its reset, and with it what waited for it. -/
theorem operationsEnd : Obligations.OperationsEnd := by
  unfold Obligations.OperationsEnd
  refine ⟨fun st e o s s1 hup => ⟨fun htake => ⟨takeReply_ends hup (by decide) htake, takeReply_late hup htake⟩,
      takeReply_ends hup (by decide), takeReply_ends hup (by decide), takeReply_ends hup (by decide),
      takeReply_ends hup (by decide), takeReply_dead hup⟩,
    fun share w p e s hshare hfind hwaiting => exec_receiptFilled hshare hfind hwaiting, fun share s hshare => ?_,
    fun id r s hfind hop hfew hxs => ?_, fun id r s hfind => ?_,
    fun id tgt o s hfind hsent htgt hdead => exec_deadTargetTimeout hfind hsent htgt hdead,
    fun c x f s hf hops hsheaf hstate hwhy hsig => ?_, fun c x s hparked hop hstate hsig => ?_⟩
  · refine ⟨_, exec_receiptExpire hshare, fun e => ?_, rfl⟩
    rw [State.ms_modMs, List.mem_filter, Bool.or_eq_true, decide_eq_true_eq]
  · obtain ⟨p, hexec⟩ := exec_rackOpResend hfind hop hfew hxs
    have hout := depart_setsOut (s.countResend id) (xsStop r.xs) p (some id)
    refine ⟨_, hexec, by rw [depart_rem]; rfl, ?_, hout.mem, hout.bridge⟩
    rw [depart_rem]
    exact countResend_rack hfind
  · obtain ⟨t, hexec, hrem, hmem⟩ := rackOpGiveup_result hfind
    refine ⟨t, hexec, fun y hy => ?_, by rw [hrem]; rfl, hmem⟩
    rw [hrem] at hy
    simpa using (List.mem_filter.1 hy).2
  · obtain ⟨hctx, hrem⟩ := fenceComplete_result s c x f
    exact ⟨_, exec_fenceComplete hf hops hsheaf hstate hwhy hsig, by rw [hctx], by rw [hctx], by rw [hctx], hrem⟩
  · have hsame := unpark_same s c x
    have hctx : (s.unpark c x).ctx c x = (s.ctx c x).goOn := by rw [ctx_of_same hsame, State.ctx_modCtx]
    exact ⟨_, exec_parkedReplyWritten hparked hop hstate hsig, by rw [hctx]; rfl, by rw [hctx]; rfl, hsame.mem⟩

end Sys2Proof.Machine
end

section
/-! SUPPORT. What an access of a context leaves of the contexts (07, 08): while no token signal is asked for and no data is to be
stored on, each context keeps its state, its place in its list and its operation. -/

namespace Sys2Proof.Machine

open Sys2Proof Sys2Proof.Safety

/-! ### The course of the contexts -/

/-- What of a context the traffic of its operations does not move: its state, its place, its operation and the number of its
last atomic. -/
structure Course where
  state : CtxState
  why : Why
  pc : BitVec 44
  sigOp : Nat
  aseq : BitVec 16

def Ctx.course (t : Ctx) : Course where
  state := t.state
  why := t.why
  pc := t.pc
  sigOp := t.sigOp
  aseq := t.aseq

/-- Between s and t every context has kept its course. -/
def CourseStands (s t : State) : Prop := ∀ c x, (t.ctx c x).course = (s.ctx c x).course

theorem CourseStands.refl (s : State) : CourseStands s s := fun _ _ => rfl

theorem CourseStands.trans {a b c : State} (h : CourseStands a b) (k : CourseStands b c) : CourseStands a c :=
  fun i x => (k i x).trans (h i x)

theorem CourseStands.of_cores {s t : State} (h : t.cores = s.cores) : CourseStands s t := fun c x => by rw [ctx_of_cores h]

theorem CourseStands.of_same {s t : State} (h : SameButSignals s t) : CourseStands s t := .of_cores h.cores

theorem each_course {α : Type} (l : List α) {f : α → State → State} (hf : ∀ a ∈ l, ∀ s, CourseStands s (f a s)) (s : State) :
    CourseStands s (each l f s) :=
  each_inv_mem (CourseStands s) l (.refl s) fun a ha t h => h.trans (hf a ha t)

theorem when_course (s : State) (c : Bool) {f : State → State} (hf : ∀ s, CourseStands s (f s)) : CourseStands s (s.when c f) := by
  cases c
  · exact .refl s
  · exact hf s

theorem modCore_course (s : State) (c : Nat) {f : CoreUnit → CoreUnit} (hf : ∀ u : CoreUnit, (f u).ctxs = u.ctxs) :
    CourseStands s (s.modCore c f) := by
  intro i x
  by_cases h : i = c
  · rw [h, State.ctx, State.core_modCore, hf]
    rfl
  · rw [State.ctx, State.core_modCore_ne _ _ h]
    rfl

theorem modCtx_course (s : State) (c x : Nat) {f : Ctx → Ctx} (hf : ∀ t : Ctx, (f t).course = t.course) :
    CourseStands s (s.modCtx c x f) := by
  intro i y
  by_cases h : i = c ∧ y = x
  · rw [h.1, h.2, State.ctx_modCtx, hf]
  · rw [State.ctx_modCtx_ne s f (by omega)]

/-! ### Operations that ask for no signal and store nothing on (R280, R295) -/

/-- A request, or the operation that it becomes, that signals no token, stores nothing on and belongs to no copy. -/
structure Quiet (sig : BitVec 16) (dest : OpDest) (owner : OpOwner) : Prop where
  sig : sig.getLsbD 15 = false
  dest : dest.stages = false
  owner : ∀ n, owner ≠ .job n

def Req.Quiet (r : Req) : Prop := Machine.Quiet r.sig r.dest r.owner
def Op.Quiet (o : Op) : Prop := Machine.Quiet o.sig o.dest o.owner

theorem Req.Quiet.piece {r : Req} (h : r.Quiet) (off n : Nat) : (r.piece off n).Quiet := by
  obtain ⟨hsig, hdest, howner⟩ := h
  unfold Req.piece
  split
  · refine ⟨hsig, ?_, howner⟩
    dsimp only
    split
    · next hstage => simp [hstage, OpDest.stages] at hdest
    · rfl
    · exact hdest
  · exact ⟨hsig, hdest, howner⟩
  · exact ⟨hsig, hdest, howner⟩

theorem Req.Quiet.packets {r : Req} (h : r.Quiet) (s : State) : ∀ y ∈ s.packetsOf r, y.Quiet := by
  intro y hy
  unfold State.packetsOf at hy
  split at hy
  · rwa [List.mem_singleton.1 hy]
  · obtain ⟨c, -, rfl⟩ := List.mem_map.1 hy
    exact h.piece _ _

/-- Operations take over what their requests ask for. -/
theorem newOps_quiet (group : Nat) {l : List Req} (hl : ∀ r ∈ l, r.Quiet) (s : State) :
    ∀ y ∈ (s.newOps group l).1, y.2.Quiet := by
  induction l generalizing s with
  | nil => exact fun y hy => absurd hy List.not_mem_nil
  | cons r l ih =>
    intro y hy
    rcases List.mem_cons.1 hy with rfl | hy
    · exact hl r List.mem_cons_self
    · exact ih (fun r hr => hl r (List.mem_cons_of_mem _ hr)) _ y hy

/-! ### Operations come into being and end (R238 to R241, R269) -/

theorem joinOwner_course (s : State) (o : Op) : CourseStands s (s.joinOwner o) := by
  unfold State.joinOwner
  split
  · split
    · exact modCtx_course _ _ _ fun _ => rfl
    · exact .refl s
  · exact modCore_course _ _ fun _ => rfl
  · exact .of_cores rfl
  · exact .refl s

theorem newOps_course (group : Nat) (l : List Req) (s : State) : CourseStands s (s.newOps group l).2 := by
  induction l generalizing s with
  | nil => exact .refl s
  | cons r l ih =>
    have hone : CourseStands s (s.newOp r group).2 := fun c x => joinOwner_course _ _ c x
    exact hone.trans (ih _)

theorem leaveOwner_course (s : State) (o : Op) (st : Status) : CourseStands s (s.leaveOwner o st) := by
  unfold State.leaveOwner
  split
  · refine modCtx_course _ _ _ fun t => ?_
    split <;> rfl
  · exact modCore_course _ _ fun _ => rfl
  · exact .of_cores rfl
  · exact .refl s

theorem remoteFault_course (s : State) (c x : Nat) (o : Op) (st : Status) (mask : Byte) :
    CourseStands s (s.remoteFault c x o st mask) := by
  unfold State.remoteFault
  extract_lets unknown s1
  have h1 : CourseStands s s1 := modCore_course _ _ fun _ => rfl
  exact (h1.trans (.of_same (raise_same s1 (ntRemoteFault c)))).trans (when_course _ _ fun t => .of_same (raise_same t _))

theorem redirty_cores (s : State) (o : Op) (st : Status) : (s.redirty o st).cores = s.cores := by
  unfold State.redirty
  split <;> rfl

theorem settle_course {o : Op} (h : o.sig.getLsbD 15 = false) (s : State) (st : Status) (mask : Byte) :
    CourseStands s (s.settle o st mask) := by
  unfold State.settle
  extract_lets s0 rem s1 s2
  have h1 : CourseStands s s1 := .of_cores (redirty_cores s o st)
  split
  · exact h1
  · have h2 : CourseStands s s2 := h1.trans (leaveOwner_course s1 o st)
    clear_value s2
    split
    · exact h2
    · rw [h, Bool.and_false, Bool.false_and, State.when_false]
      refine (h2.trans (when_course s2 _ fun t => ?_)).trans (when_course _ _ fun t => remoteFault_course t _ _ _ _ _)
      exact modCtx_course t _ _ fun _ => rfl

theorem launch_cores (s : State) (r : Req) (o : Op) : (s.launch r o).cores = s.cores := by
  unfold State.launch
  dsimp only
  split
  · split
    · exact (post_setsOut _ _ _ _ _).cores
    · rfl
  · split
    · rfl
    · split
      · rfl
      · rfl
      · split
        · exact (post_setsOut _ _ _ _ _).cores
        · rfl

theorem issueRaw_course {r : Req} (h : r.Quiet) (s : State) : CourseStands s (s.issueRaw r) := by
  have hquiet := newOps_quiet s.rem.nextId (h.packets s) s
  refine (newOps_course s.rem.nextId (s.packetsOf r) s).trans (each_course _ (fun y hy t => ?_) _)
  split
  · exact settle_course (hquiet y hy).sig t _ 0
  · exact .of_cores (launch_cores _ _ _)

/-! ### Cached lines change (R208, R210, R212) -/

theorem writeBackLine_course (s : State) (n : Nat) (l : CacheLine) (asPoison : Bool) :
    CourseStands s (s.writeBackLine n .evict l asPoison) :=
  each_course _ (fun _ _ t => issueRaw_course ⟨BitVec.getLsbD_zero, rfl, fun _ h => OpOwner.noConfusion h⟩ t) s

theorem touchLine_course (s : State) (n line : Nat) (f : CacheLine → CacheLine) : CourseStands s (s.touchLine n line f) := by
  have hroom : CourseStands s (s.makeRoom n line) := by
    unfold State.makeRoom
    extract_lets k same v
    split
    · exact .refl s
    · exact CourseStands.trans (.of_cores rfl) (writeBackLine_course _ _ _ _)
  unfold State.touchLine
  extract_lets s1
  have h1 : CourseStands s s1 := by
    simp only [s1]
    split
    · exact .refl s
    · exact hroom
  exact h1.trans (.of_cores rfl)

/-- A piece that is looked up asks for what its access asks for. -/
theorem lookup_quiet {r : Req} (h : r.Quiet) (hint : Nat) (s : State) :
    (s.lookup r hint).1.req.Quiet ∧ CourseStands s (s.lookup r hint).2 := by
  obtain ⟨hsig, hdest, howner⟩ := h
  unfold State.lookup
  dsimp only
  split
  · exact ⟨⟨hsig, hdest, howner⟩, .refl s⟩
  · split
    · split
      · exact ⟨⟨hsig, hdest, howner⟩, touchLine_course _ _ _ _⟩
      · exact ⟨⟨hsig, hdest, howner⟩, .refl s⟩
    · split
      · split
        · exact ⟨⟨hsig, hdest, howner⟩, touchLine_course _ _ _ _⟩
        · exact ⟨⟨hsig, hdest, howner⟩, .refl s⟩
      · split <;> exact ⟨⟨hsig, hdest, howner⟩, .refl s⟩

theorem lookups_quiet (hint : Nat) {l : List Req} (hl : ∀ r ∈ l, r.Quiet) (s : State) :
    (∀ y ∈ (s.lookups hint l).1, y.req.Quiet) ∧ CourseStands s (s.lookups hint l).2 := by
  induction l generalizing s with
  | nil => exact ⟨fun y hy => absurd hy List.not_mem_nil, .refl s⟩
  | cons r l ih =>
    obtain ⟨hreq, hstands⟩ := lookup_quiet (hl r List.mem_cons_self) hint s
    obtain ⟨hrest, hthen⟩ := ih (fun r hr => hl r (List.mem_cons_of_mem _ hr)) (s.lookup r hint).2
    refine ⟨fun y hy => ?_, hstands.trans hthen⟩
    rcases List.mem_cons.1 hy with rfl | hy
    · exact hreq
    · exact hrest y hy

/-! ### Bytes beside a station (R216, R234, R243) -/

theorem touchBlock_cores (s : State) (st p : Nat) (f : MergeBlk → MergeBlk) : (s.touchBlock st p f).cores = s.cores := by
  unfold State.touchBlock
  extract_lets q b rest s1
  have h1 : s1.cores = s.cores := by
    simp only [s1]
    split
    · split
      · rw [writeBack_blocks s st _]
      · rfl
    · rfl
  exact h1

theorem memUe_cores (s : State) (a : Nat) : (s.memUe a).cores = s.cores := by
  unfold State.memUe
  split
  · exact (raise_same _ _).cores
  · rfl

theorem stWriteBlock_cores (s : State) (st a : Nat) (l : List Byte) (pois : Option Bool) :
    (s.stWriteBlock st a l pois).cores = s.cores := by
  unfold State.stWriteBlock
  dsimp only
  split
  · rfl
  · split
    · rw [memUe_cores, touchBlock_cores]
    · rw [touchBlock_cores]

theorem stWrite_cores (s : State) (st a : Nat) (l : List Byte) (poisoned : Bool) :
    (s.stWrite st a l poisoned).cores = s.cores :=
  each_inv (fun t => t.cores = s.cores) _ _ rfl fun _ t h => (stWriteBlock_cores t _ _ _ _).trans h

theorem coilPieces_quiet {l : List Req} (hl : ∀ r ∈ l, r.Quiet) (s : State) :
    (∀ y ∈ (s.coilPieces l).1, y.req.Quiet) ∧ CourseStands s (s.coilPieces l).2 := by
  induction l generalizing s with
  | nil => exact ⟨fun y hy => absurd hy List.not_mem_nil, .refl s⟩
  | cons r l ih =>
    have hone : (s.overCoils r).1.req = r ∧ CourseStands s (s.overCoils r).2 := by
      unfold State.overCoils
      split
      · exact ⟨rfl, .refl s⟩
      · exact ⟨rfl, .of_cores (stWrite_cores _ _ _ _ _)⟩
    obtain ⟨hreq, hstands⟩ := hone
    obtain ⟨hrest, hthen⟩ := ih (fun r hr => hl r (List.mem_cons_of_mem _ hr)) (s.overCoils r).2
    refine ⟨fun y hy => ?_, hstands.trans hthen⟩
    rcases List.mem_cons.1 hy with rfl | hy
    · rw [hreq]
      exact hl r List.mem_cons_self
    · exact hrest y hy

/-! ### An access is issued (R192, R210, R227) -/

theorem accessOps_quiet {r : Req} (h : r.Quiet) (hint : Nat) (s : State) :
    (∀ y ∈ (s.accessOps r hint).1, y.2.Quiet) ∧ CourseStands s (s.accessOps r hint).2 := by
  have hops : ∀ (t : State) (x : List Looked × State), (∀ y ∈ x.1, y.req.Quiet) → CourseStands s x.2 →
      (∀ y ∈ x.1.zip ((x.2.newOps s.rem.nextId (x.1.map Looked.req)).1.map Prod.snd), y.2.Quiet) ∧
        CourseStands s (x.2.newOps s.rem.nextId (x.1.map Looked.req)).2 := by
    intro t x hx hs
    have hreqs : ∀ q ∈ x.1.map Looked.req, q.Quiet := fun q hq => by
      obtain ⟨y, hy, rfl⟩ := List.mem_map.1 hq
      exact hx y hy
    refine ⟨fun y hy => ?_, hs.trans (newOps_course _ _ _)⟩
    obtain ⟨z, hz, hzy⟩ := List.mem_map.1 (List.of_mem_zip hy).2
    exact hzy ▸ newOps_quiet _ hreqs _ z hz
  unfold State.accessOps
  dsimp only
  split
  · have hl : ∀ q ∈ (linePieces r.laddr r.span).map (fun c => r.piece c.1 c.2), q.Quiet := fun q hq => by
      obtain ⟨c, -, rfl⟩ := List.mem_map.1 hq
      exact h.piece _ _
    obtain ⟨hx, hs⟩ := lookups_quiet hint hl s
    exact hops s _ hx hs
  · split
    · obtain ⟨hx, hs⟩ := coilPieces_quiet (h.packets s) s
      exact hops s _ hx hs
    · refine ⟨fun y hy => ?_, newOps_course _ _ _⟩
      obtain ⟨z, hz, rfl⟩ := List.mem_map.1 hy
      exact newOps_quiet _ (h.packets s) s z hz

/-- Data that is not stored on reaches its place, and no context is moved by it (R210, R226, R272). -/
theorem place'_course {d : OpDest} (h : d.stages = false) (o : Op) (data : List Byte) (st : Status) (a : Nat) (s : State) :
    CourseStands s (s.place' o data st d a) := by
  induction d generalizing data st a s with
  | none => exact .refl s
  | scratch =>
    simp only [State.place']
    split <;> exact .of_cores (by rw [fabWrite_blocks s a _ _])
  | stage => simp [OpDest.stages] at h
  | fill n line off len alloc next ih =>
    simp only [State.place']
    refine CourseStands.trans ?_ (ih h _ _ _ _)
    split
    · exact touchLine_course _ _ _ _
    · exact .refl s
  | fetch c x b =>
    refine modCtx_course s c x fun t => ?_
    split <;> rfl
  | entry => exact modCore_course _ _ fun _ => rfl
  | keep => exact .of_cores rfl

theorem finish_course {o : Op} (h : o.Quiet) (s : State) (st : Status) (data : List Byte) (mask : Byte) :
    CourseStands s (s.finish o st data mask) := by
  have hsettle (t : State) (st : Status) : CourseStands t (t.settle o st mask) := settle_course h.sig t st mask
  have howner (t : State) : t.advanceOwner o = t := by
    unfold State.advanceOwner
    split
    · next hjob => exact absurd hjob (h.owner _)
    · rfl
  unfold State.finish
  split
  · exact hsettle s st
  · rw [howner]
    exact (place'_course h.dest o _ _ _ s).trans (hsettle _ _)

/-- An access that signals no token and stores nothing on moves no context, whatever comes of it. -/
theorem access_course {r : Req} (h : r.Quiet) (hint : Nat) (s : State) : CourseStands s (s.access r hint) := by
  obtain ⟨hquiet, hstands⟩ := accessOps_quiet h hint s
  refine hstands.trans (each_course _ (fun y hy t => ?_) _)
  split
  · exact finish_course (hquiet y hy) _ _ _ _
  · split
    · exact finish_course (hquiet y hy) _ _ _ _
    · exact .of_cores (launch_cores _ _ _)

end Sys2Proof.Machine
end

section
/-! SUPPORT. Contexts park and their waits end (08): remote operations of the sequencer, WAITT, WAITC, END, sheaf answers, token
signals of other cores, and prefetch. -/

namespace Sys2Proof.Machine

open Sys2Proof Sys2Proof.Safety

/-! ### Remote operations (R242, R280, R282) -/

section
variable {s : State} {c x : Nat} {d : BitVec 256}

theorem control_rload (h : dOp d = 0x18) : s.control c x d = s.doRload c x d := by simp only [State.control, h]
theorem control_rstore (h : dOp d = 0x19) : s.control c x d = s.doRstore c x d := by simp only [State.control, h]
theorem control_ratom (h : dOp d = 0x1A) : s.control c x d = s.doRatom c x d := by simp only [State.control, h]

/-- A context that waits for an operation of its own has that operation's opcode, and the state given. -/
theorem opWait_ctx (st : CtxState) (why : Why) :
    (s.opWait c x d st why).ctx c x = { s.ctx c x with sig := dSig d, sigOp := dOp d, state := st, why := why } := by
  rw [State.opWait, setCtx_ctx, State.ctx_modCtx]

/-- RLOAD parks its context, whatever comes of the load. -/
theorem doRload_course : ((s.doRload c x d).ctx c x).course =
    { (s.ctx c x).course with state := .parked, why := .none, sigOp := dOp d } := by
  unfold State.doRload
  refine (access_course ⟨BitVec.getLsbD_zero, rfl, fun _ h => OpOwner.noConfusion h⟩ _ _ c x).trans ?_
  rw [opWait_ctx, State.ctx_modCtx]
  rfl

/-- RATOM parks its context, whatever comes of the atomic, and takes the context's next number. -/
theorem doRatom_course : ((s.doRatom c x d).ctx c x).course =
    { (s.ctx c x).course with state := .parked, why := .none, sigOp := dOp d, aseq := (s.ctx c x).aseq + 1 } := by
  unfold State.doRatom
  refine (access_course ⟨BitVec.getLsbD_zero, rfl, fun _ h => OpOwner.noConfusion h⟩ _ _ c x).trans ?_
  rw [opWait_ctx, State.ctx_modCtx]
  rfl

/-- RSTORE lets its context go on. -/
theorem doRstore_course (h : (dSig d).getLsbD 15 = false) : ((s.doRstore c x d).ctx c x).course = (s.ctx c x).course := by
  have hquiet : ∀ l b, Req.Quiet { s.seqReq c x d .store 0x10 (s.operand c x d 8) with data := l, poison := b, retAddr := 0 } :=
    fun _ _ => ⟨h, rfl, fun _ h => OpOwner.noConfusion h⟩
  exact access_course (hquiet _ _) (dHint d) s c x

end

/-! ### WAITT and WAITC (R333, R343, R344) -/

section
variable {s : State} {c x : Nat}

theorem exec_waittEnd (hstate : (s.ctx c x).state = .wait) (hwhy : (s.ctx c x).why = .waitt)
    (hvalid : s.ftValid (coreRegion c) = true) (htime : (s.ctx c x).waitFt.toNat ≤ s.ftCopy (coreRegion c)) :
    exec (.waittEnd c x) s = .next (s.waitOver c x) := by
  show execWaittEnd c x s = _
  simp only [execWaittEnd, hstate, hwhy, hvalid, htime, decide_true, Bool.and_self, act_true]

theorem exec_waitcEnd (hstate : (s.ctx c x).state = .wait) (hwhy : (s.ctx c x).why = .waitc)
    (hruns : (s.region (coreRegion c)).state = 0) :
    exec (.waitcEnd c x) s = .next ((s.modCtx c x fun t => { t with waitCycles := 0 }).waitOver c x) := by
  show execWaitcEnd c x s = _
  simp only [execWaitcEnd, hstate, hwhy, hruns, decide_true, Bool.and_self, act_true]

end

/-! ### END (R269, R359, R431) -/

theorem goIdle_waiting (s : State) (c x : Nat) (st : Status) (addr : Nat) :
    (s.goIdle c x st addr).bridge.waiting
      = s.bridge.waiting ++ if (s.ctx c x).noend then [] else [s.endRecord c x st addr false] := by
  have hset : (s.setCtx c x .idle .none).bridge = s.bridge := (setCtx_same s c x .idle .none).bridge
  unfold State.goIdle
  cases (s.ctx c x).noend
  · rw [if_neg Bool.false_ne_true, ← hset]
    exact congrArg Bridge.waiting (sense_same _ ntRingFull (s.setCtx c x .idle .none)).bridge
  · rw [if_pos rfl, List.append_nil, ← hset]
    rfl

theorem goIdle_cores (s : State) (c x : Nat) (st : Status) (addr : Nat) :
    (s.goIdle c x st addr).cores = (s.setCtx c x .idle .none).cores := by
  unfold State.goIdle
  cases (s.ctx c x).noend
  · exact sendRecord_cores _ _
  · rfl

theorem goIdle_ctx (s : State) (c x : Nat) (st : Status) (addr : Nat) :
    (s.goIdle c x st addr).ctx c x = { s.ctx c x with state := .idle, why := .none } := by
  rw [ctx_of_cores (goIdle_cores s c x st addr), setCtx_ctx]

theorem exec_contextEntersIdle {s : State} {c x : Nat} (hdone : s.endDone c x = true) (hsig : (s.ctx c x).sig.getLsbD 15 = false) :
    exec (.contextEntersIdle c x) s
      = .next ((s.goIdle c x (s.ctx c x).worst (s.ctx c x).endAddr.toNat).modCtx c x fun t => { t with sigOp := 0 }) := by
  show execContextEntersIdle c x s = _
  simp only [execContextEntersIdle, hdone, act_true, signal_silent _ _ _ hsig]

/-! ### Sheaf answers (R280, R359) -/

section
variable {s : State} {c x : Nat} {a : SheafAns}

/-- An answer of a bank is taken (R359). -/
def State.takeAnswer (s : State) (a : SheafAns) : State :=
  { s with sheaves := { s.sheaves with answers := s.sheaves.answers.erase a } }

/-- A TAKE that is answered lets its context go on. -/
theorem exec_sheafAnswer_take (ha : s.sheaves.answers.find? (fun a => a.core == c && a.ctx == x) = some a)
    (hdone : a.status = .done) (hsig : a.sig.getLsbD 15 = false) (hop : a.op = 0x10) :
    exec (.sheafAnswer c x) s = .next (if (s.ctx c x).state = .wait ∧ (s.ctx c x).why = .sheaf then (s.takeAnswer a).resume c x
      else s.takeAnswer a) := by
  show execSheafAnswer c x s = _
  simp only [execSheafAnswer, ha, hdone, hop, act_true, if_true, ne_eq, not_true_eq_false, if_false, true_and,
    signal_silent _ _ _ hsig]
  rfl

/-- An addition or a drain that is answered is outstanding no more. -/
theorem exec_sheafAnswer_other (ha : s.sheaves.answers.find? (fun a => a.core == c && a.ctx == x) = some a)
    (hdone : a.status = .done) (hsig : a.sig.getLsbD 15 = false) (hop : a.op ≠ 0x10) :
    exec (.sheafAnswer c x) s
      = .next ((s.takeAnswer a).modCtx c x fun t => { t with sheafOut := t.sheafOut - 1 }) := by
  show execSheafAnswer c x s = _
  simp only [execSheafAnswer, ha, hdone, hop, act_true, ne_eq, not_true_eq_false, if_false, false_and,
    signal_silent _ _ _ hsig]
  rfl

theorem sheafAnswer_result (ha : s.sheaves.answers.find? (fun a => a.core == c && a.ctx == x) = some a)
    (hdone : a.status = .done) (hsig : a.sig.getLsbD 15 = false) :
    ∃ t, exec (.sheafAnswer c x) s = .next t ∧ t.sheaves.answers = s.sheaves.answers.erase a ∧
      (a.op = 0x10 → (s.ctx c x).state = .wait → (s.ctx c x).why = .sheaf → (t.ctx c x).state = .ready) ∧
      (a.op ≠ 0x10 → (t.ctx c x).sheafOut = (s.ctx c x).sheafOut - 1 ∧ (t.ctx c x).state = (s.ctx c x).state) := by
  by_cases hop : a.op = 0x10
  · refine ⟨_, exec_sheafAnswer_take ha hdone hsig hop, ?_, fun _ hstate hwhy => ?_, fun h => absurd hop h⟩
    · split
      · rw [resume_same (s.takeAnswer a) c x]
        rfl
      · rfl
    · rw [if_pos ⟨hstate, hwhy⟩, resume_ctx]
      rfl
  · refine ⟨_, exec_sheafAnswer_other ha hdone hsig hop, rfl, fun h => absurd h hop, fun _ => ?_⟩
    rw [State.ctx_modCtx]
    exact ⟨rfl, rfl⟩

end

/-! ### Token signals of other cores (R280) -/

/-- A signal that arrives leaves the way, and its token is one higher. -/
theorem exec_xcTokenSignal {s : State} {c : Nat} {m : MeshSignal} {r : List MeshSignal} (hin : (s.core c).meshIn = m :: r)
    (hup : s.coreUp c = true) (hroom : s.token c m.token < 15) :
    exec (.xcTokenSignal c) s
      = .next ((s.modCore c fun u => { u with meshIn := r }).setToken c m.token (s.token c m.token + 1)) := by
  have htoken : (s.modCore c fun u => { u with meshIn := r }).token c m.token = s.token c m.token := by
    rw [State.token, State.core_modCore]
    rfl
  show execXcTokenSignal c s = _
  simp only [execXcTokenSignal, hin, hup, act_true, State.bumpToken, htoken, hroom, if_true]

theorem xcTokenSignal_result (s : State) (c : Nat) (m : MeshSignal) (r : List MeshSignal) :
    let t := (s.modCore c fun u => { u with meshIn := r }).setToken c m.token (s.token c m.token + 1)
    (t.core c).meshIn = r ∧ t.token c m.token = s.token c m.token + 1 ∧ (∀ i, i ≠ m.token → t.token c i = s.token c i) := by
  intro t
  refine ⟨?_, State.token_setToken _ _ _ _, fun i hi => ?_⟩
  · simp only [t, State.setToken, State.core_modCore]
  · rw [State.token_setToken_ne _ _ hi, State.token, State.core_modCore]
    rfl

/-! ### Prefetch (R272) -/

section
variable {s : State} {c x b : Nat}

theorem exec_prefetchRefill (hruns : s.seqRuns c = true) (hx : x < 16) (hfree : (s.ctx c x).fetching = false)
    (hnone : (s.ctx c x).descAt (s.ctx c x).pc.toNat = none) (hissuing : (s.ctx c x).issuing = true)
    (hblock : (s.ctx c x).fetchBlock = some b) :
    exec (.prefetchRefill c x) s = .next (
      if nearBlock c b || s.fetchOut c x then s.modCtx c x fun t => { t with fetching := true, fetched := none }
      else (s.modCtx c x fun t => { t with fetching := true, fetched := none }).sendFetch c x b) := by
  show execPrefetchRefill c x s = _
  simp only [execPrefetchRefill, hruns, hx, hfree, hnone, hissuing, hblock, decide_true, Bool.not_false, Bool.and_self,
    Option.isNone_none, Bool.or_true, Bool.true_or, act_true]

end

/-! ### The obligation -/

/-- Settles O21: remote operations park their context or let it go on, and each wait of a context ends. -/
theorem contextsParkAndTheirWaitsEnd : Obligations.ContextsParkAndTheirWaitsEnd := by
  unfold Obligations.ContextsParkAndTheirWaitsEnd
  refine ⟨fun c x d s => ⟨fun h => ?_, fun h => ?_, fun h hsig => ?_⟩, fun c x s hstate hwhy hvalid htime hsig => ?_,
    fun c x s hstate hwhy hruns hsig => ?_, fun c x s hdone hsig => ?_, fun c x a s ha hdone hsig => sheafAnswer_result ha hdone hsig,
    fun c m r s hin hup hroom => ?_, fun c x b s hruns hx hfree hnone hissuing hblock => ?_⟩
  · have hcourse := doRload_course (s := s) (c := c) (x := x) (d := d)
    rw [control_rload h]
    exact ⟨congrArg Course.state hcourse, (congrArg Course.sigOp hcourse).trans h, congrArg Course.aseq hcourse⟩
  · have hcourse := doRatom_course (s := s) (c := c) (x := x) (d := d)
    rw [control_ratom h]
    exact ⟨congrArg Course.state hcourse, (congrArg Course.sigOp hcourse).trans h, congrArg Course.aseq hcourse⟩
  · have hcourse := doRstore_course (s := s) (c := c) (x := x) hsig
    rw [control_rstore h]
    exact ⟨congrArg Course.state hcourse, congrArg Course.pc hcourse⟩
  · rw [exec_waittEnd hstate hwhy hvalid htime, waitOver_silent hsig]
    exact ⟨_, rfl, sameCores_of_modCtx (resume_same s c x)⟩
  · have hkeep : ((s.modCtx c x fun t => { t with waitCycles := 0 }).ctx c x).sig.getLsbD 15 = false := by
      rwa [State.ctx_modCtx]
    have hsame := resume_same (s.modCtx c x fun t => { t with waitCycles := 0 }) c x
    rw [State.modCtx_twice] at hsame
    rw [exec_waitcEnd hstate hwhy hruns, waitOver_silent hkeep]
    exact ⟨_, rfl, sameCores_of_modCtx hsame⟩
  · refine ⟨_, exec_contextEntersIdle hdone hsig, ?_, goIdle_waiting s c x _ _⟩
    rw [State.ctx_modCtx, goIdle_ctx]
  · obtain ⟨hmesh, htoken, hothers⟩ := xcTokenSignal_result s c m r
    exact ⟨_, exec_xcTokenSignal hin hup hroom, hmesh, htoken, hothers, rfl⟩
  · rw [exec_prefetchRefill hruns hx hfree hnone hissuing hblock]
    refine ⟨fun hnear => ?_, fun hfar hout => ?_⟩
    · rw [hnear, Bool.true_or, if_pos rfl]
    · rw [hfar, hout, Bool.or_false, if_neg Bool.false_ne_true]

end Sys2Proof.Machine
end

section
/-! SUPPORT. Bytes as stations perform on them (06, 07): their open blocks, what opening, reading and answering leave of the
bytes, and the bytes that a store within a block changes. -/

namespace Sys2Proof.Machine

open Sys2Proof Sys2Proof.Safety

/-! ### Open blocks (R243) -/

/-- The open block of a station at a place, or the empty one that it would open there. -/
def State.blockAt (s : State) (st p : Nat) : MergeBlk :=
  (s.openBlock st p).getD { blk := p / 64, bytes := [], past := [], poison := false, poisonSet := false }

theorem openBlock_blk {s : State} {st p : Nat} {b : MergeBlk} (h : s.openBlock st p = some b) : b.blk = p / 64 := by
  simpa using List.find?_some h

theorem blockAt_blk (s : State) (st p : Nat) : (s.blockAt st p).blk = p / 64 := by
  unfold State.blockAt
  cases h : s.openBlock st p with
  | none => rfl
  | some b => exact openBlock_blk h

/-- The blocks of a station beside the one at a place. -/
def State.otherBlocks (s : State) (st p : Nat) : List MergeBlk := (s.sta st).merge.filter fun y => y.blk != p / 64

theorem otherBlocks_le (s : State) (st p : Nat) : (s.otherBlocks st p).length ≤ (s.sta st).merge.length :=
  List.length_filter_le _ _

theorem otherBlocks_lt {s : State} {st p : Nat} (h : (s.openBlock st p).isSome = true) :
    (s.otherBlocks st p).length < (s.sta st).merge.length := by
  obtain ⟨b, hb⟩ := Option.isSome_iff_exists.1 h
  refine List.length_filter_lt_length_iff_exists.2 ⟨b, List.mem_of_find?_eq_some hb, ?_⟩
  simp [openBlock_blk hb]

/-- With room in the queue a block that is touched is put first, and none leaves (R243). -/
theorem touchBlock_eq {s : State} {st p : Nat} (f : MergeBlk → MergeBlk) (hroom : (s.otherBlocks st p).length < 256) :
    s.touchBlock st p f = s.modSta st fun x =>
      let q := f (s.blockAt st p) :: x.merge.filter fun y => y.blk != p / 64
      { x with merge := q, mergePeak := max x.mergePeak q.length } := by
  have hnone : ¬256 ≤ ((s.sta st).merge.filter fun y => y.blk != p / 64).length := by
    have h : ((s.sta st).merge.filter fun y => y.blk != p / 64).length < 256 := hroom
    omega
  unfold State.touchBlock
  dsimp only
  simp only [hnone, if_false]
  cases ((s.sta st).merge.filter fun y => y.blk != p / 64).getLast? <;> rfl

theorem touchBlock_merge {s : State} {st p : Nat} (f : MergeBlk → MergeBlk) (hroom : (s.otherBlocks st p).length < 256) (x : Nat) :
    ((s.touchBlock st p f).sta x).merge = if x = st then f (s.blockAt st p) :: s.otherBlocks st p else (s.sta x).merge := by
  rw [touchBlock_eq f hroom]
  split
  · next h =>
    rw [h, State.sta_modSta]
    rfl
  · next h => rw [State.sta_modSta_ne _ _ h]

/-- After a block is touched it is the one changed, and every other block is as it was. -/
theorem touchBlock_openBlock {s : State} {st p : Nat} {f : MergeBlk → MergeBlk} (hf : ∀ b, (f b).blk = b.blk)
    (hroom : (s.otherBlocks st p).length < 256) (x a : Nat) :
    (s.touchBlock st p f).openBlock x a = if x = st ∧ a / 64 = p / 64 then some (f (s.blockAt st p)) else s.openBlock x a := by
  have hblk : (f (s.blockAt st p)).blk = p / 64 := (hf _).trans (blockAt_blk s st p)
  rw [State.openBlock, touchBlock_merge f hroom]
  by_cases hx : x = st
  · subst hx
    by_cases ha : a / 64 = p / 64
    · simp [hblk, ha]
    · have hfirst : ((f (s.blockAt x p)).blk == a / 64) = false := by simpa [hblk] using Ne.symm ha
      rw [if_pos rfl, if_neg fun h => ha h.2, List.find?_cons_of_neg (by simp [hfirst]), State.otherBlocks, List.find?_filter,
        State.openBlock]
      congr 1
      funext b
      by_cases hb : b.blk = a / 64 <;> simp [hb, ha]
  · rw [if_neg hx, if_neg fun h => hx h.1]
    rfl

/-! ### What leaves every byte as it is -/

/-- The fields of a cache die by which an offset of its window is mapped (R206, R207, R209). -/
def CacheDie.rows (k : CacheDie) : Nat × Tbl (Nat × Nat) × BitVec 64 × Tbl Nat × Tbl Nat :=
  (k.addr, k.remap, k.fenced, k.sliceEra, k.unitEra)

/-- A local address has the same place in states with the same hash and the same mapping of the cache dies (R199, R206). -/
theorem phys_congr {s t : State} (hhash : t.hash = s.hash) (hrows : ∀ n, (t.kd n).rows = (s.kd n).rows) (a : Nat) :
    t.phys a = s.phys a := by
  have hmap : ∀ n off, t.kdMap n off = s.kdMap n off := fun n off => by
    have h := hrows n
    simp only [CacheDie.rows, Prod.mk.injEq] at h
    obtain ⟨haddr, hremap, hfenced, hslice, hunit⟩ := h
    unfold State.kdMap CacheDie.remapAt
    dsimp only
    rw [haddr, hremap, hfenced, hslice, hunit]
  simp only [State.phys, hhash, hmap]

/-- Between s and t every byte stands as each station performs on it, in memory and in the open blocks; addresses keep their
places, and no queue has grown. -/
structure BytesStand (s t : State) : Prop where
  cells : t.mem.cells = s.mem.cells
  bytes : ∀ x a, (t.openBlock x a).map MergeBlk.bytes = (s.openBlock x a).map MergeBlk.bytes
  phys : ∀ a, t.phys a = s.phys a
  count : ∀ x, (t.sta x).merge.length ≤ (s.sta x).merge.length

theorem BytesStand.refl (s : State) : BytesStand s s := ⟨rfl, fun _ _ => rfl, fun _ => rfl, fun _ => Nat.le_refl _⟩

theorem BytesStand.trans {a b c : State} (h : BytesStand a b) (k : BytesStand b c) : BytesStand a c :=
  ⟨k.cells.trans h.cells, fun x i => (k.bytes x i).trans (h.bytes x i), fun i => (k.phys i).trans (h.phys i),
    fun x => Nat.le_trans (k.count x) (h.count x)⟩

theorem rd_of_cells {s t : State} (h : t.mem.cells = s.mem.cells) (a : Nat) : t.mem.rd a = s.mem.rd a := by
  rw [Memory.rd, h]
  rfl

/-- A byte as a station performs on it is that of its open block, or else that of memory. -/
theorem stByte_eq (s : State) (st p : Nat) :
    s.stByte st p = tget (((s.openBlock st p).map MergeBlk.bytes).getD []) (s.mem.rd p) (p % 64) := by
  unfold State.stByte
  cases s.openBlock st p <;> rfl

theorem BytesStand.stByte {s t : State} (h : BytesStand s t) (x a : Nat) : t.stByte x a = s.stByte x a := by
  rw [stByte_eq, stByte_eq, h.bytes, rd_of_cells h.cells]

/-- Between s and t the open blocks stand as they are, with their poison and that of memory. -/
structure BlocksStand (s t : State) : Prop where
  cells : t.mem.cells = s.mem.cells
  poison : t.mem.poison = s.mem.poison
  opened : ∀ x a, t.openBlock x a = s.openBlock x a
  phys : ∀ a, t.phys a = s.phys a
  count : ∀ x, (t.sta x).merge.length ≤ (s.sta x).merge.length

theorem BlocksStand.refl (s : State) : BlocksStand s s := ⟨rfl, rfl, fun _ _ => rfl, fun _ => rfl, fun _ => Nat.le_refl _⟩

theorem BlocksStand.trans {a b c : State} (h : BlocksStand a b) (k : BlocksStand b c) : BlocksStand a c :=
  ⟨k.cells.trans h.cells, k.poison.trans h.poison, fun x i => (k.opened x i).trans (h.opened x i),
    fun i => (k.phys i).trans (h.phys i), fun x => Nat.le_trans (k.count x) (h.count x)⟩

theorem BlocksStand.bytes {s t : State} (h : BlocksStand s t) : BytesStand s t :=
  ⟨h.cells, fun x a => by rw [h.opened], h.phys, h.count⟩

/-- A change of nothing that a read of memory looks at. -/
theorem BlocksStand.of_parts {s t : State} (hcells : t.mem.cells = s.mem.cells) (hpoison : t.mem.poison = s.mem.poison)
    (hkd : t.mem.kd = s.mem.kd) (hhash : t.hash = s.hash) (hmerge : ∀ x, (t.sta x).merge = (s.sta x).merge) : BlocksStand s t where
  cells := hcells
  poison := hpoison
  opened x a := by rw [State.openBlock, hmerge]; rfl
  phys := phys_congr hhash fun n => by simp only [State.kd, hkd]
  count x := by rw [hmerge]

theorem SetsOut.blocks {s t : State} (h : SetsOut s t) : BlocksStand s t :=
  .of_parts (by rw [h.mem]) (by rw [h.mem]) (by rw [h.mem]) (by rw [h.frame]) h.merge

theorem BlocksStand.of_same {s t : State} (h : SameButSignals s t) : BlocksStand s t :=
  .of_parts (by rw [h.mem]) (by rw [h.mem]) (by rw [h.mem]) (by rw [h]) fun x => by simp only [State.sta, h.fab]

/-- Where blocks and their poison stand, a read returns the same (R204, R230). -/
theorem BlocksStand.stRead {s t : State} (h : BlocksStand s t) (st a n : Nat) : t.stRead st a n = s.stRead st a n := by
  have hbyte : ∀ p, t.stByte st p = s.stByte st p := h.bytes.stByte st
  have hpoison : ∀ p, t.stPoison st p = s.stPoison st p := fun p => by
    simp only [State.stPoison, Memory.isPoison, h.opened, h.poison]
  simp only [State.stRead, State.stReadBlock, h.phys, hbyte, hpoison]

/-- A request is taken from its inbox (R169). -/
theorem takeInbox_blocks {s s1 : State} {st : Nat} {f : Packet → Bool} {e : Nat × Packet} (h : s.takeInbox st f = some (e, s1)) :
    BlocksStand s s1 := by
  unfold State.takeInbox at h
  dsimp only at h
  split at h
  · cases h
  · next i hi =>
    have hcredit : ∀ (t : State) w p, BlocksStand t (t.freeCredit st w p) := fun t w p => by
      unfold State.freeCredit
      split
      · exact .of_parts rfl rfl rfl rfl fun _ => rfl
      · exact .refl t
    cases h
    exact (modSta_setsOut s st (f := fun x => { x with inbox := x.inbox.eraseIdx i }) fun _ => rfl).blocks.trans (hcredit _ _ _)

/-! ### What every operation does to the blocks it touches (R197, R243) -/

theorem wakeStack_blocks (s : State) (a : Nat) : BlocksStand s (s.wakeStack a) := by
  have hstack : ∀ h, BlocksStand s (s.setStack h .ready) := fun h => by
    have hmod : BlocksStand s (s.modHbm h fun y => { y with state := .ready }) := .of_parts rfl rfl rfl rfl fun _ => rfl
    exact hmod.trans (.of_same ((sense_same _ _ s).trans (capSense_same _ _ s)))
  unfold State.wakeStack
  split
  · split
    · exact hstack _
    · exact .refl s
  · exact .refl s

/-- An open block that is touched moves to the front of its queue as it is. -/
theorem touchBlock_open {s : State} {st p : Nat} (hfull : (s.sta st).merge.length ≤ 256) (h : (s.openBlock st p).isSome = true) :
    BlocksStand s (s.touchBlock st p id) := by
  have hlt := otherBlocks_lt h
  have hroom : (s.otherBlocks st p).length < 256 := by omega
  have hmem : (s.touchBlock st p id).mem = s.mem := by rw [touchBlock_eq id hroom]; rfl
  refine ⟨by rw [hmem], by rw [hmem], fun x a => ?_, phys_congr ?_ fun n => ?_, fun x => ?_⟩
  · rw [touchBlock_openBlock (f := id) (fun _ => rfl) hroom]
    split
    · next hat =>
      obtain ⟨b, hb⟩ := Option.isSome_iff_exists.1 h
      rw [hat.1, State.blockAt, hb, State.openBlock, hat.2]
      exact hb.symm
    · rfl
  · rw [touchBlock_eq id hroom]
    rfl
  · rw [State.kd, hmem]
    rfl
  · rw [touchBlock_merge id hroom]
    split
    · next hx =>
      rw [hx]
      exact hlt
    · exact Nat.le_refl _

/-- Opening the way to the blocks of an access changes no block and no byte. -/
theorem openUp_blocks {s : State} {st : Nat} (hfull : (s.sta st).merge.length ≤ 256) (a n : Nat) :
    BlocksStand s (s.openUp st a n) := by
  refine each_inv (BlocksStand s) _ _ (.refl s) fun b t ht => ?_
  have hwake := ht.trans (wakeStack_blocks t b.1)
  dsimp only
  split
  · split
    · next hopen => exact hwake.trans (touchBlock_open (Nat.le_trans (hwake.count st) hfull) hopen)
    · exact hwake
  · exact hwake

/-! ### A read finds bad symbols or bits (R202, R203, R214, R219) -/

theorem find_map_blk (l : List MergeBlk) {g : MergeBlk → MergeBlk} (hg : ∀ b, (g b).blk = b.blk) (k : Nat) :
    (l.map g).find? (fun b => b.blk == k) = (l.find? fun b => b.blk == k).map g := by
  rw [List.find?_map]
  congr 2
  funext b
  rw [Function.comp_apply, hg]

/-- A block that a read finds bad keeps its bytes. -/
theorem markBlock_bytes (s : State) (st p : Nat) : BytesStand s (s.markBlock st p) := by
  unfold State.markBlock
  split
  · refine ⟨rfl, fun x a => ?_, phys_congr rfl fun _ => rfl, fun x => ?_⟩
    · rw [State.openBlock, State.openBlock]
      by_cases hx : x = st
      · rw [hx, State.sta_modSta]
        dsimp only
        rw [find_map_blk _ (fun b => by split <;> rfl), Option.map_map]
        congr 1
        funext b
        rw [Function.comp_apply]
        split <;> rfl
      · rw [State.sta_modSta_ne _ _ hx]
    · by_cases hx : x = st
      · rw [hx, State.sta_modSta, List.length_map]
      · rw [State.sta_modSta_ne _ _ hx]
  · exact ⟨rfl, fun _ _ => rfl, phys_congr rfl fun _ => rfl, fun _ => Nat.le_refl _⟩

theorem modKd_bytes (s : State) (n : Nat) {f : CacheDie → CacheDie} (hf : ∀ k, (f k).rows = k.rows) : BytesStand s (s.modKd n f) := by
  refine ⟨rfl, fun _ _ => rfl, phys_congr rfl fun i => ?_, fun _ => Nat.le_refl _⟩
  by_cases h : i = n
  · rw [h, State.kd_modKd, hf]
  · rw [State.kd_modKd_ne _ _ h]

theorem modMs_blocks (s : State) (k : Nat) (f : MemStation → MemStation) : BlocksStand s (s.modMs k f) :=
  .of_parts rfl rfl rfl rfl fun _ => rfl

theorem modCore_blocks (s : State) (c : Nat) (f : CoreUnit → CoreUnit) : BlocksStand s (s.modCore c f) :=
  .of_parts rfl rfl rfl rfl fun _ => rfl

theorem memUe_blocks (s : State) (a : Nat) : BlocksStand s (s.memUe a) := by
  unfold State.memUe
  split
  · exact (modMs_blocks s _ _).trans (.of_same (raise_same _ _))
  · exact .refl s

section
variable {s : State} {poison : State → State} (hpoison : BytesStand s (poison s)) (bad : Nat)
include hpoison

theorem kdBad_bytes (n : Nat) : BytesStand s (s.kdBad n bad poison) := by
  unfold State.kdBad
  split
  · exact .refl s
  · split
    · exact modKd_bytes s n (f := fun k => { k with ce := inc 16 k.ce }) fun _ => rfl
    · exact (hpoison.trans (modKd_bytes _ n (f := fun k => { k with ue := inc 16 k.ue }) fun _ => rfl)).trans (BlocksStand.of_same (raise_same _ _)).bytes

theorem spBad_bytes (c : Nat) : BytesStand s (s.spBad c bad poison) := by
  unfold State.spBad
  split
  · exact .refl s
  · split
    · exact (modCore_blocks s c _).bytes
    · exact (hpoison.trans (modCore_blocks _ c _).bytes).trans (BlocksStand.of_same (raise_same _ _)).bytes

theorem hbmBad_bytes (a : Nat) : BytesStand s (s.hbmBad a bad poison) := by
  unfold State.hbmBad
  dsimp only
  split
  · exact .refl s
  · split
    · exact (modMs_blocks s _ _).bytes
    · exact (hpoison.trans (modMs_blocks _ _ _).bytes).trans (memUe_blocks _ a).bytes

end

theorem eccBlock_bytes (s : State) (st a bad : Nat) : BytesStand s (s.eccBlock st a bad) := by
  unfold State.eccBlock
  split
  · exact .refl s
  · next p _ =>
    have hmark := markBlock_bytes s st p
    split
    · exact .refl s
    · split
      · exact hbmBad_bytes hmark bad a
      · exact kdBad_bytes hmark bad _
      · exact spBad_bytes hmark bad _
      · exact .refl s

theorem eccSpan_bytes (s : State) (st a n : Nat) (bad : List Nat) : BytesStand s (s.eccSpan st a n bad) :=
  each_rel BytesStand.refl .trans _ (fun (x : (Nat × Nat) × Nat) t => eccBlock_bytes t st x.1.1 (bad.getD x.2 0)) s

theorem eccParts_bytes (s : State) (st a n : Nat) (bad : List Nat) : BytesStand s (s.eccParts st a n bad) :=
  each_rel BytesStand.refl .trans _ (fun (x : (Nat × Nat) × Nat) t => eccBlock_bytes t st x.1.1 (bad.getD x.2 0)) s

theorem eccBlock_clean (s : State) (st a : Nat) : s.eccBlock st a 0 = s := by
  unfold State.eccBlock
  split
  · rfl
  · split
    · rfl
    · split <;> rfl

/-- A read that finds nothing bad changes nothing. -/
theorem eccSpan_clean (s : State) (st a n : Nat) : s.eccSpan st a n [] = s :=
  each_inv (fun t => t = s) _ _ rfl fun x t h => by rw [List.getD_nil, eccBlock_clean, h]

/-! ### A store within a block (R230, R243) -/

/-- New bytes of a block, from a place on. -/
def MergeBlk.puts (b : MergeBlk) (p : Nat) (l : List Byte) (k : Nat) : MergeBlk :=
  (l.zipIdx k).foldl (fun b e => b.put ((p + e.2) % 64) e.1) b

theorem puts_blk (p : Nat) (l : List Byte) (k : Nat) (b : MergeBlk) : (b.puts p l k).blk = b.blk := by
  induction l generalizing k b with
  | nil => rfl
  | cons v l ih => exact ih (k + 1) (b.put ((p + k) % 64) v)

/-- Bytes put in a block lie in it one after the other, and the others are as they were. -/
theorem puts_bytes (p : Nat) (d : Byte) (i : Nat) (l : List Byte) (k : Nat) (b : MergeBlk) (hfit : p % 64 + k + l.length ≤ 64) :
    tget (b.puts p l k).bytes d i
      = if p % 64 + k ≤ i ∧ i < p % 64 + k + l.length then l.getD (i - (p % 64 + k)) 0 else tget b.bytes d i := by
  induction l generalizing k b with
  | nil => rw [if_neg (by simp only [List.length_nil]; omega)]; rfl
  | cons v l ih =>
    rw [List.length_cons] at hfit ⊢
    have hplace : (p + k) % 64 = p % 64 + k := by omega
    have hput : tget (b.put ((p + k) % 64) v).bytes d i = if i = p % 64 + k then v else tget b.bytes d i := by
      rw [MergeBlk.put, hplace]
      exact tget_tins _ _ _ _ _
    have hrest : (b.puts p (v :: l) k) = (b.put ((p + k) % 64) v).puts p l (k + 1) := rfl
    rw [hrest, ih (k + 1) _ (by omega), hput]
    by_cases hi : i = p % 64 + k
    · rw [if_neg (by omega), if_pos hi, if_pos (by omega), hi, Nat.sub_self]
      rfl
    · by_cases hin : p % 64 + (k + 1) ≤ i ∧ i < p % 64 + (k + 1) + l.length
      · rw [if_pos hin, if_pos (by omega), show i - (p % 64 + k) = i - (p % 64 + (k + 1)) + 1 by omega]
        rfl
      · rw [if_neg hin, if_neg hi, if_neg (by omega)]

/-- A block after a store: its new bytes, and the poison that the store leaves it (R203, R204). -/
def MergeBlk.store (p : Nat) (l : List Byte) (pois : Option Bool) (b : MergeBlk) : MergeBlk :=
  { b.puts p l 0 with poison := pois.getD b.poison, poisonSet := b.poisonSet || pois.isSome }

theorem store_blk (p : Nat) (l : List Byte) (pois : Option Bool) (b : MergeBlk) : (b.store p l pois).blk = b.blk :=
  puts_blk p l 0 b

theorem blocksOf_one {a n : Nat} (hn : 0 < n) (hfit : a % 64 + n ≤ 64) : blocksOf a n = [(a, n)] := by
  have hcount : (a + n - 1) / 64 + 1 - a / 64 = 1 := by omega
  have hstart : max a (a / 64 * 64) = a := by omega
  have hend : min (a + n) ((a / 64 + 1) * 64) - a = n := by omega
  rw [blocksOf, if_neg (by omega), hcount]
  simp only [List.range_one, List.map_cons, List.map_nil, Nat.add_zero, hstart, hend]

theorem sliceB_all (l : List Byte) : sliceB l 0 l.length = l := by
  rw [sliceB_zero, List.take_length, Nat.sub_self, List.replicate_zero, List.append_nil]

/-- A store within a block, not poisoned, is one change of that block. -/
theorem stWrite_one {s : State} {st a q : Nat} {l : List Byte} (hq : s.phys a = some q) (hl : l ≠ []) (hfit : a % 64 + l.length ≤ 64) :
    s.stWrite st a l false = s.touchBlock st q (MergeBlk.store q l (storePoison false l.length)) := by
  have hclear : storePoison false l.length ≠ some true := by
    unfold storePoison
    rw [if_neg Bool.false_ne_true]
    split <;> simp
  rw [State.stWrite, blocksOf_one (List.length_pos_iff.2 hl) hfit, each_cons, each_nil, Nat.sub_self, sliceB_all]
  simp only [State.stWriteBlock, hq, hclear, if_false]
  rfl

/-- What a store within a block leaves: its bytes as the station performs on them, and every other byte of every station as it
was. -/
theorem stWrite_bytes {s : State} {st a q : Nat} {l : List Byte} (hq : s.phys a = some q) (hl : l ≠ [])
    (hfit : a % 64 + l.length ≤ 64) (hqfit : q % 64 + l.length ≤ 64) (hroom : (s.sta st).merge.length < 256) (x i : Nat) :
    (s.stWrite st a l false).stByte x i
      = if x = st ∧ q ≤ i ∧ i < q + l.length then l.getD (i - q) 0 else s.stByte x i := by
  have hothers : (s.otherBlocks st q).length < 256 := Nat.lt_of_le_of_lt (otherBlocks_le s st q) hroom
  have hmem : (s.stWrite st a l false).mem = s.mem := by
    rw [stWrite_one hq hl hfit, touchBlock_eq _ hothers]
    rfl
  have hopen := touchBlock_openBlock (store_blk q l (storePoison false l.length)) hothers x i
  rw [← stWrite_one hq hl hfit] at hopen
  rw [State.stByte, hopen, hmem]
  by_cases hat : x = st ∧ i / 64 = q / 64
  · obtain ⟨rfl, hblk⟩ := hat
    have hold : s.stByte x i = tget (s.blockAt x q).bytes (s.mem.rd i) (i % 64) := by
      unfold State.blockAt State.stByte
      rw [State.openBlock, hblk, ← State.openBlock]
      cases s.openBlock x q <;> rfl
    have hbytes := puts_bytes q (s.mem.rd i) (i % 64) l 0 (s.blockAt x q) (by omega)
    rw [if_pos ⟨rfl, hblk⟩, hold]
    refine hbytes.trans ?_
    by_cases hin : q ≤ i ∧ i < q + l.length
    · rw [if_pos (by omega), if_pos ⟨rfl, hin⟩, show i % 64 - (q % 64 + 0) = i - q by omega]
    · rw [if_neg (by omega), if_neg fun h => hin h.2]
  · rw [if_neg hat, if_neg fun h => hat ⟨h.1, by omega⟩]
    rfl

theorem stWrite_cells {s : State} {st a q : Nat} {l : List Byte} (hq : s.phys a = some q) (hl : l ≠ [])
    (hfit : a % 64 + l.length ≤ 64) (hroom : (s.sta st).merge.length < 256) :
    (s.stWrite st a l false).mem.cells = s.mem.cells := by
  rw [stWrite_one hq hl hfit, touchBlock_eq _ (Nat.lt_of_le_of_lt (otherBlocks_le s st q) hroom)]
  rfl

end Sys2Proof.Machine
end

section
/-! SUPPORT. Requests as stations perform them (07): what each kind of request does, and that the first to arrive is performed. -/

namespace Sys2Proof.Machine

open Sys2Proof Sys2Proof.Safety

/-! ### The request that arrived first (R229, R233) -/

/-- A station performs the first of its requests that need not wait, when it is of the kind asked for. -/
theorem performFirst_performs {s s1 : State} {st w : Nat} {p : Packet} {bad : List Nat} {kind : Nat → Bool}
    (hserves : s.stServes st = true) (hstation : isCS st = true ∨ isMS st = true)
    (hfind : (s.sta st).inbox.find? (fun e => isRequest (hdr e.2).op && !s.requestWaits st e.2) = some (w, p))
    (htake : s.takeInbox st (fun p => isRequest (hdr p).op && !s.requestWaits st p) = some ((w, p), s1))
    (hkind : kind (hdr p).op = true) : s.performFirst st bad kind = .next (s1.performReq st p bad) := by
  have hplace : (isCS st || isMS st) = true := by simpa using hstation
  simp only [State.performFirst, hfind, htake, hserves, hplace, hkind, Bool.and_self, act_true]

/-- The codes of reductions are none of another kind of request (R155). -/
theorem redSize_range {op : Nat} (h : (redSize op).isSome = true) : 0x40 ≤ op ∧ op ≤ 0x5A := by
  unfold redSize at h
  split at h
  · omega
  · split at h
    · omega
    · cases h

/-- A die with no receive link up takes no reduction. -/
theorem requestWaits_of_unbonded {s : State} {st : Nat} {p : Packet} (hcs : isCS st = true)
    (hbond : ∀ i < 12, (s.bond st i).state ≠ .up) (hred : (redSize (hdr p).op).isSome = true) : s.requestWaits st p = true := by
  have hnotStore : ((hdr p).op == 0x10 || (hdr p).op == 0x60) = false := by
    have hrange := redSize_range hred
    simp only [Bool.or_eq_false_iff, beq_eq_false_iff_ne]
    omega
  have hnoLink : ((List.range 12).any fun i => decide ((s.bond st i).state = .up)) = false := by
    simpa [List.any_eq_false] using hbond
  simp [State.requestWaits, State.bondsCarry, hcs, hnotStore, hnoLink]

/-- A station whose requests all wait performs none. -/
theorem performFirst_waits {s : State} {st : Nat} {bad : List Nat} {kind : Nat → Bool}
    (hwait : ∀ e ∈ (s.sta st).inbox, s.requestWaits st e.2 = true) : s.performFirst st bad kind = .next s := by
  have hnone : (s.sta st).inbox.find? (fun e => isRequest (hdr e.2).op && !s.requestWaits st e.2) = none :=
    List.find?_eq_none.2 fun e he => by simp [hwait e he]
  simp only [State.performFirst, hnone]

/-! ### What each kind of request does (R176, R229 to R235) -/

section
variable {s : State} {st : Nat} {p : Packet} {bad : List Nat}

theorem opSpan_of_load (hop : (hdr p).op = 0x01) : opSpan (hdr p).op (hdr p).len (rlenOf p) = rlenOf p := by
  rw [opSpan, hop]
  rfl

theorem opSpan_of_len (hload : ((hdr p).op == 0x01) = false) (hatomic : atomicOf (hdr p).op = none) :
    opSpan (hdr p).op (hdr p).len (rlenOf p) = (hdr p).len := by
  simp only [opSpan, hload, hatomic, Bool.false_eq_true, if_false]

theorem performReq_load (hop : (hdr p).op = 0x01)
    (hstatus : s.opStatus (hdr p).op (hdr p).laddr (hdr p).len (rlenOf p) ((hdr p).xt || (hdr p).sys) = none)
    (hdead : s.deadSpan (hdr p).laddr (rlenOf p) = false) {u : State}
    (hu : u = (s.openUp st (hdr p).laddr (rlenOf p)).eccSpan st (hdr p).laddr (rlenOf p) bad) :
    s.performReq st p bad = u.reply st p 0x70 (u.stRead st (hdr p).laddr (rlenOf p)).1
      (if (u.stRead st (hdr p).laddr (rlenOf p)).2 then .poisoned else .done) (u.stRead st (hdr p).laddr (rlenOf p)).2 := by
  have hcast : ((hdr p).op == 0x60) = false := by simp [hop]
  have hload : ((hdr p).op == 0x01) = true := by simp [hop]
  have hspan := opSpan_of_load hop
  subst hu
  simp only [State.performReq, hcast, hload, hstatus, hspan, hdead, Bool.false_eq_true, if_false, if_true]

theorem performReq_store (hop : (hdr p).op = 0x10)
    (hstatus : s.opStatus (hdr p).op (hdr p).laddr (hdr p).len (rlenOf p) ((hdr p).xt || (hdr p).sys) = none)
    (hdead : s.deadSpan (hdr p).laddr (hdr p).len = false) (hclean : (hdr p).poison = false) :
    s.performReq st p bad = (((s.openUp st (hdr p).laddr (hdr p).len).eccParts st (hdr p).laddr (hdr p).len bad).stWrite st
      (hdr p).laddr p.data false).reply st p 0x71 [] .done false := by
  have hcast : ((hdr p).op == 0x60) = false := by simp [hop]
  have hload : ((hdr p).op == 0x01) = false := by simp [hop]
  have hstore : ((hdr p).op == 0x10) = true := by simp [hop]
  have hspan := opSpan_of_len hload (by rw [hop]; rfl)
  simp only [State.performReq, hcast, hload, hstore, hstatus, hspan, hdead, hclean, Bool.false_eq_true, if_false, if_true]

theorem performReq_atomic {k size : Nat} (hatomic : atomicOf (hdr p).op = some (k, size))
    (hstatus : s.opStatus (hdr p).op (hdr p).laddr (hdr p).len (rlenOf p) ((hdr p).xt || (hdr p).sys) = none)
    (hdead : s.deadSpan (hdr p).laddr size = false) (hown : (hdr p).xt = false) {u : State}
    (hu : u = (s.openUp st (hdr p).laddr size).eccSpan st (hdr p).laddr size bad) (hclean : u.atomicPoisoned st p size = false) :
    s.performReq st p bad = (u.stWrite st (hdr p).laddr
      (atomicNew k size (u.stRead st (hdr p).laddr size).1 (p.data.drop 16)) false).reply st p 0x72
      (u.stRead st (hdr p).laddr size).1 .done false := by
  have hrange : 0x20 ≤ (hdr p).op ∧ (hdr p).op ≤ 0x3A := by
    by_contra h
    rw [atomicOf, if_neg h] at hatomic
    cases hatomic
  have hcast : ((hdr p).op == 0x60) = false := by simp only [beq_eq_false_iff_ne]; omega
  have hload : ((hdr p).op == 0x01) = false := by simp only [beq_eq_false_iff_ne]; omega
  have hstore : ((hdr p).op == 0x10) = false := by simp only [beq_eq_false_iff_ne]; omega
  have hspan : opSpan (hdr p).op (hdr p).len (rlenOf p) = size := by
    simp only [opSpan, hload, hatomic, Bool.false_eq_true, if_false]
  subst hu
  rw [hown] at hstatus
  simp only [State.performReq, hcast, hload, hstore, hstatus, hspan, hdead, hatomic, hown, hclean, Bool.false_eq_true, if_false,
    State.applyAtomic]

theorem performReq_reduction (hred : (redSize (hdr p).op).isSome = true)
    (hstatus : s.opStatus (hdr p).op (hdr p).laddr (hdr p).len (rlenOf p) ((hdr p).xt || (hdr p).sys) = none)
    (hdead : s.deadSpan (hdr p).laddr (hdr p).len = false) (hclean : (hdr p).poison = false) {u : State}
    (hu : u = (s.openUp st (hdr p).laddr (hdr p).len).eccSpan st (hdr p).laddr (hdr p).len bad)
    (hgood : (u.stRead st (hdr p).laddr (hdr p).len).2 = false) :
    s.performReq st p bad = (u.stWrite st (hdr p).laddr
      (redNew (hdr p).op (u.stRead st (hdr p).laddr (hdr p).len).1 p.data) false).reply st p 0x71 [] .done false := by
  have hrange := redSize_range hred
  have hcast : ((hdr p).op == 0x60) = false := by simp only [beq_eq_false_iff_ne]; omega
  have hload : ((hdr p).op == 0x01) = false := by simp only [beq_eq_false_iff_ne]; omega
  have hstore : ((hdr p).op == 0x10) = false := by simp only [beq_eq_false_iff_ne]; omega
  have hatomic : atomicOf (hdr p).op = none := by rw [atomicOf, if_neg (by omega)]
  have hspan := opSpan_of_len hload hatomic
  subst hu
  simp only [State.performReq, hcast, hload, hstore, hstatus, hspan, hdead, hatomic, hclean, hgood, Bool.false_eq_true, if_false,
    Bool.or_self]

/-- A multicast is a store at the window of the station's own die, and has no answer (R176). -/
theorem performReq_mcast (hop : (hdr p).op = 0x60)
    (hstatus : s.opStatus 0x60 (mcastAddr st (hdr p).laddr) (hdr p).len (rlenOf p) false = none)
    (hdead : s.deadSpan (mcastAddr st (hdr p).laddr) (hdr p).len = false) :
    s.performReq st p bad = ((s.openUp st (mcastAddr st (hdr p).laddr) (hdr p).len).eccParts st
      (mcastAddr st (hdr p).laddr) (hdr p).len bad).stWrite st (mcastAddr st (hdr p).laddr) p.data (hdr p).poison := by
  rw [← hop] at hstatus
  have hcast : ((hdr p).op == 0x60) = true := by simp [hop]
  simp only [State.performReq, hcast, hstatus, hdead, Option.isSome_none, Bool.or_self, Bool.false_eq_true, if_false, if_true]

end

/-! ### The bytes that a load and a store leave (R229, R230) -/

section
variable {s s1 : State} {st : Nat} {p : Packet} {bad : List Nat}

/-- A load stores no byte, and reads what stood before it where it finds nothing bad. -/
theorem load_stands (hin : BlocksStand s s1) (hfull : (s.sta st).merge.length ≤ 256) (a n : Nat) (data : List Byte)
    (status : Status) (poison : Bool) {u : State} (hu : u = (s1.openUp st a n).eccSpan st a n bad) :
    BytesStand s (u.reply st p 0x70 data status poison) ∧ (bad = [] → u.stRead st a n = s.stRead st a n) := by
  have hopen := hin.trans (openUp_blocks (Nat.le_trans (hin.count st) hfull) a n)
  have hread : BytesStand s u := hu ▸ hopen.bytes.trans (eccSpan_bytes _ st a n bad)
  refine ⟨hread.trans (reply_setsOut u st p 0x70 data status poison).blocks.bytes, fun hbad => ?_⟩
  rw [hu, hbad, eccSpan_clean]
  exact hopen.stRead st a n

/-- What a store within a block leaves of every byte of every station. -/
theorem store_leaves (hin : BlocksStand s s1) {a q n : Nat} {l : List Byte} (hq : s.phys a = some q) (hl : l ≠ [])
    (hfit : a % 64 + l.length ≤ 64) (hqfit : q % 64 + l.length ≤ 64) (hroom : (s.sta st).merge.length < 256) {t : State}
    (ht : t = ((((s1.openUp st a n).eccParts st a n bad).stWrite st a l false).reply st p 0x71 [] .done false)) :
    t.mem.cells = s.mem.cells ∧
      ∀ x i, t.stByte x i = if x = st ∧ q ≤ i ∧ i < q + l.length then l.getD (i - q) 0 else s.stByte x i := by
  have hopen := openUp_blocks (Nat.le_trans (hin.count st) (Nat.le_of_lt hroom)) a n
  have hstand : BytesStand s ((s1.openUp st a n).eccParts st a n bad) :=
    (hin.trans hopen).bytes.trans (eccParts_bytes _ st a n bad)
  have hq' := (hstand.phys a).trans hq
  have hroom' := Nat.lt_of_le_of_lt (hstand.count st) hroom
  have hreply := (reply_setsOut (((s1.openUp st a n).eccParts st a n bad).stWrite st a l false) st p 0x71 [] .done
    false).blocks.bytes
  rw [← ht] at hreply
  refine ⟨(hreply.cells.trans (stWrite_cells hq' hl hfit hroom')).trans hstand.cells, fun x i => ?_⟩
  rw [hreply.stByte, stWrite_bytes hq' hl hfit hqfit hroom', hstand.stByte]

end

/-! ### The obligation -/

/-- Settles O17: a load stores nothing, a store within a block changes its own bytes alone, and each other request does what its
kind says, the first to arrive before the others. -/
theorem operationsReachTheirBytes : Obligations.OperationsReachTheirBytes := by
  unfold Obligations.OperationsReachTheirBytes
  refine ⟨fun st w q p bad s s1 s2 hserves hstation hfind htake hstatus hdead => ⟨fun hop hfull hs2 => ?_,
      fun hop hclean hq hl hfit hqfit hroom => ?_⟩,
    fun st w p bad s s1 s2 hserves hstation hfind htake => ?_, fun st bad s hcs hbond hred => ?_⟩
  · rw [opSpan_of_load hop] at hdead
    have hexec : exec (.load st bad) s = .next (s1.performReq st p bad) :=
      performFirst_performs (kind := fun op => op == 0x01) hserves hstation hfind htake (by simp [hop])
    obtain ⟨hstand, hread⟩ := load_stands (st := st) (p := p) (takeInbox_blocks htake) hfull (hdr p).laddr (rlenOf p)
      (s2.stRead st (hdr p).laddr (rlenOf p)).1
      (if (s2.stRead st (hdr p).laddr (rlenOf p)).2 then .poisoned else .done)
      (s2.stRead st (hdr p).laddr (rlenOf p)).2 hs2
    exact ⟨_, hexec.trans (congrArg _ (performReq_load hop hstatus hdead hs2)), hstand.cells, hstand.stByte, hread, rfl⟩
  · rw [opSpan_of_len (by simp [hop]) (by rw [hop]; rfl)] at hdead
    have hexec : exec (.store st bad) s = .next (s1.performReq st p bad) :=
      performFirst_performs (kind := fun op => op == 0x10) hserves hstation hfind htake (by simp [hop])
    obtain ⟨hcells, hbytes⟩ := store_leaves (st := st) (p := p) (bad := bad) (n := (hdr p).len) (takeInbox_blocks htake) hq hl hfit
      hqfit hroom rfl
    refine ⟨_, hexec.trans (congrArg _ (performReq_store hop hstatus hdead hclean)), fun i hi => ?_, fun a ha => ?_,
      fun x a hx => ?_, hcells⟩
    · rw [hbytes, if_pos ⟨rfl, by omega, by omega⟩, Nat.add_sub_cancel_left]
    · rw [hbytes, if_neg fun h => by omega]
    · rw [hbytes, if_neg fun h => hx h.1]
  · have hexec := fun (bad : List Nat) (kind : Nat → Bool) (hkind : kind (hdr p).op = true) =>
      performFirst_performs (bad := bad) hserves hstation hfind htake hkind
    refine ⟨hexec bad (fun _ => true) rfl, fun hop => hexec [] (fun op => op == 0x60) (by simp [hop]),
      fun k size hatomic hstatus hdead hown hs2 hclean => ?_, fun hred hstatus hdead hclean hs2 hgood => ?_,
      performReq_mcast⟩
    · exact (hexec bad (fun op => (atomicOf op).isSome) (by rw [hatomic]; rfl)).trans
        (congrArg _ (performReq_atomic hatomic hstatus hdead hown hs2 hclean))
    · exact (hexec bad (fun op => (redSize op).isSome) hred).trans
        (congrArg _ (performReq_reduction hred hstatus hdead hclean hs2 hgood))
  · exact performFirst_waits (kind := fun _ => true) fun e he => requestWaits_of_unbonded hcs hbond (hred e he)

end Sys2Proof.Machine
end

section
/-! SUPPORT. What of the cores their own course leaves standing (08): context states, tokens, counts and fault records change, and
the engines and the programs of the contexts stand. -/

namespace Sys2Proof.Machine

open Sys2Proof Sys2Proof.Safety

/-! ### Programs and engines -/

/-- A context without the state it is in: its program, its place in it and what it has gathered. -/
def Ctx.program (t : Ctx) : Ctx := { t with state := .idle, why := .none }

section
variable {t u : Ctx}

theorem Ctx.pc_of_program (h : t.program = u.program) : t.pc = u.pc := (congrArg Ctx.pc h :)
theorem Ctx.bases_of_program (h : t.program = u.program) : t.bases = u.bases := (congrArg Ctx.bases h :)
theorem Ctx.loops_of_program (h : t.program = u.program) : t.loops = u.loops := (congrArg Ctx.loops h :)
theorem Ctx.calls_of_program (h : t.program = u.program) : t.calls = u.calls := (congrArg Ctx.calls h :)
theorem Ctx.late_of_program (h : t.program = u.program) : t.late = u.late := (congrArg Ctx.late h :)

end

/-- Between s and t nothing but cores and what notices leave behind has changed, and of cores no engine and no context's program. -/
structure WorkStands (s t : State) : Prop where
  frame : SameButSignals { s with cores := t.cores } t
  engines : ∀ c, (t.core c).engines = (s.core c).engines
  program : ∀ c x, (t.ctx c x).program = (s.ctx c x).program

theorem WorkStands.refl (s : State) : WorkStands s s := ⟨rfl, fun _ => rfl, fun _ _ => rfl⟩

theorem WorkStands.trans {a b c : State} (h : WorkStands a b) (k : WorkStands b c) : WorkStands a c where
  frame := by
    have hframe := h.frame
    have kframe := k.frame
    unfold SameButSignals at *
    rw [kframe, hframe]
  engines i := (k.engines i).trans (h.engines i)
  program i x := (k.program i x).trans (h.program i x)

theorem WorkStands.of_same {s t : State} (h : SameButSignals s t) : WorkStands s t where
  frame := by
    rw [h.cores]
    exact h
  engines c := by rw [core_of_same h]
  program c x := by rw [ctx_of_same h]

theorem WorkStands.mem {s t : State} (h : WorkStands s t) : t.mem = s.mem := h.frame.mem
theorem WorkStands.rem {s t : State} (h : WorkStands s t) : t.rem = s.rem := by rw [h.frame]

theorem WorkStands.eng {s t : State} (h : WorkStands s t) (c e : Nat) : t.eng c e = s.eng c e := by
  rw [State.eng, h.engines, ← State.eng]

theorem WorkStands.pc {s t : State} (h : WorkStands s t) (c x : Nat) : (t.ctx c x).pc = (s.ctx c x).pc :=
  Ctx.pc_of_program (h.program c x)

theorem WorkStands.bases {s t : State} (h : WorkStands s t) (c x : Nat) : (t.ctx c x).bases = (s.ctx c x).bases :=
  Ctx.bases_of_program (h.program c x)

/-- Operands are read by the bases of their context (R267, R275). -/
theorem WorkStands.operand {s t : State} (h : WorkStands s t) (c x : Nat) (d : BitVec 256) (i : Nat) :
    t.operand c x d i = s.operand c x d i := by
  simp only [State.operand, State.resolve, State.base, h.bases]

theorem each_work {α : Type} (l : List α) {f : α → State → State} (hf : ∀ a s, WorkStands s (f a s)) (s : State) :
    WorkStands s (each l f s) := each_rel .refl .trans l hf s

/-- A change of a core beside its contexts and engines. -/
theorem modCore_work (s : State) (c : Nat) {f : CoreUnit → CoreUnit} (hctxs : ∀ u : CoreUnit, (f u).ctxs = u.ctxs)
    (hengines : ∀ u : CoreUnit, (f u).engines = u.engines) : WorkStands s (s.modCore c f) := by
  refine ⟨rfl, fun i => ?_, fun i x => ?_⟩
  · by_cases h : i = c
    · rw [h, State.core_modCore, hengines]
    · rw [State.core_modCore_ne _ _ h]
  · by_cases h : i = c
    · rw [h, State.ctx, State.core_modCore, hctxs]
      rfl
    · rw [State.ctx, State.core_modCore_ne _ _ h]
      rfl

theorem modCtx_engines (s : State) (c x : Nat) (f : Ctx → Ctx) (i : Nat) :
    ((s.modCtx c x f).core i).engines = (s.core i).engines := by
  by_cases h : i = c
  · rw [h, State.modCtx, State.core_modCore]
  · rw [State.modCtx, State.core_modCore_ne _ _ h]

theorem modCtx_eng (s : State) (c x : Nat) (f : Ctx → Ctx) (i e : Nat) : (s.modCtx c x f).eng i e = s.eng i e := by
  rw [State.eng, modCtx_engines, ← State.eng]

/-- A change of the state that a context is in. -/
theorem modCtx_work (s : State) (c x : Nat) {f : Ctx → Ctx} (hf : ∀ t : Ctx, (f t).program = t.program) :
    WorkStands s (s.modCtx c x f) := by
  refine ⟨rfl, modCtx_engines s c x f, fun i y => ?_⟩
  by_cases h : i = c ∧ y = x
  · rw [h.1, h.2, State.ctx_modCtx, hf]
  · rw [State.ctx_modCtx_ne s f (by omega)]

/-! ### Contexts take states and fault (R265, R277, R459) -/

theorem setCtx_work (s : State) (c x : Nat) (st : CtxState) (why : Why) : WorkStands s (s.setCtx c x st why) :=
  .trans (modCtx_work s c x (f := fun t => { t with state := st, why := why }) fun _ => rfl) (.of_same (setCtx_same s c x st why))

theorem setCtx_ctx_ne (s : State) {c x i y : Nat} (st : CtxState) (why : Why) (h : i ≠ c ∨ y ≠ x) :
    (s.setCtx c x st why).ctx i y = s.ctx i y := by
  rw [ctx_of_same (setCtx_same s c x st why), State.ctx_modCtx_ne s _ h]

theorem seqRecord_work (s : State) (c x cause eng op : Nat) (st : Status) : WorkStands s (s.seqRecord c x cause eng op st) :=
  modCore_work s c (fun _ => rfl) fun _ => rfl

theorem ctxFault_work (s : State) (c x cause eng op : Nat) (st : Status) : WorkStands s (s.ctxFault c x cause eng op st) := by
  have hrecord := seqRecord_work s c x cause eng op st
  unfold State.ctxFault
  dsimp only
  split
  · exact hrecord
  · exact hrecord.trans (setCtx_work _ _ _ _ _)

/-- A fault is recorded, whatever state its context is in (R277, R302). -/
theorem ctxFault_seqFault (s : State) (c x cause eng op : Nat) (st : Status) :
    ((s.ctxFault c x cause eng op st).core c).seqFault = seqFaultWord x cause eng op st := by
  have hrecord : ((s.seqRecord c x cause eng op st).core c).seqFault = seqFaultWord x cause eng op st := by
    rw [State.seqRecord, State.core_modCore]
  unfold State.ctxFault
  dsimp only
  split
  · exact hrecord
  · rw [core_of_same (setCtx_same _ c x .fault .none), State.modCtx, State.core_modCore]
    exact hrecord

/-- A context that is neither idle nor being stopped enters FAULT (R277). -/
theorem ctxFault_state {s : State} {c x : Nat} (hidle : (s.ctx c x).state ≠ .idle) (hstop : (s.ctx c x).state ≠ .stopping)
    (cause eng op : Nat) (st : Status) : ((s.ctxFault c x cause eng op st).ctx c x).state = .fault := by
  rw [State.ctxFault, if_neg (not_or.2 ⟨hidle, hstop⟩), setCtx_ctx]

/-! ### Tokens (R278 to R280) -/

theorem setToken_work (s : State) (c i v : Nat) : WorkStands s (s.setToken c i v) := modCore_work s c (fun _ => rfl) fun _ => rfl

theorem takeTokens_work (s : State) (c : Nat) (l : List Nat) : WorkStands s (s.takeTokens c l) :=
  each_work l (fun i t => setToken_work t c i _) s

theorem bumpToken_work (s : State) (c : Nat) (m : MeshSignal) : WorkStands s (s.bumpToken c m) := by
  unfold State.bumpToken
  split
  · exact setToken_work s c _ _
  · exact .trans (modCore_work s c (f := fun u => { u with tokOvf := inc 16 u.tokOvf }) (fun _ => rfl) fun _ => rfl)
      (ctxFault_work _ _ _ _ _ _ _)

theorem signal_work (s : State) (c x : Nat) (sig : BitVec 16) (eng op : Nat) : WorkStands s (s.signal c x sig eng op) := by
  unfold State.signal
  dsimp only
  split
  · split
    · exact modCore_work s _ (fun _ => rfl) fun _ => rfl
    · exact bumpToken_work s c _
  · exact .refl s

/-- Tokens that are cleared hold 0, and the others stand (R278). -/
theorem each_clearToken (s : State) (c : Nat) (l : List Nat) (j : Nat) :
    (each l (fun i s => s.setToken c i 0) s).token c j = if j ∈ l then 0 else s.token c j := by
  induction l generalizing s with
  | nil => rfl
  | cons i l ih =>
    rw [each_cons, ih]
    by_cases hj : j = i
    · subst hj
      simp
    · simp [hj, State.token_setToken_ne]

end Sys2Proof.Machine
end

section
/-! SUPPORT. The control operations of the sequencer (08): what each leaves its context with, whatever becomes of its signal. -/

namespace Sys2Proof.Machine

open Sys2Proof Sys2Proof.Safety

section
variable {s : State} {c x : Nat} {d : BitVec 256}

/-! ### Operations of one cycle (R282) -/

theorem opSignal_work (s : State) (c x : Nat) (d : BitVec 256) : WorkStands s (s.opSignal c x d) := signal_work s c x _ _ _

theorem opSignal_silent (h : (dSig d).getLsbD 15 = false) (s : State) : s.opSignal c x d = s := signal_silent s c x h _ _

/-- A context is changed and its operation has completed: but for the state it is in, the context is as changed. -/
theorem modCtx_opSignal_program (f : Ctx → Ctx) :
    (((s.modCtx c x f).opSignal c x d).ctx c x).program = (f (s.ctx c x)).program := by
  rw [(opSignal_work (s.modCtx c x f) c x d).program, State.ctx_modCtx]

theorem control_nop (h : dOp d = 0x00) : s.control c x d = s.opSignal c x d := by simp only [State.control, h]

theorem control_loop_program (h : dOp d = 0x02) :
    ((s.control c x d).ctx c x).program = ((s.ctx c x).openLoop (dB d 8 4)).program := by
  simp only [State.control, h]
  exact modCtx_opSignal_program _

theorem control_endloop_program (h : dOp d = 0x03) : ((s.control c x d).ctx c x).program = (s.ctx c x).endLoop.program := by
  simp only [State.control, h]
  exact modCtx_opSignal_program _

/-- ENDLOOP begins another pass of the innermost loop, or leaves it after the last (R282). -/
theorem endLoop_eq {t : Ctx} {a : BitVec 44} {n : Nat} {r : List (BitVec 44 × Nat)} (h : t.loops = (a, n) :: r) :
    t.endLoop = if 1 < n then { t with pc := a, loops := (a, n - 1) :: r } else { t with loops := r } := by
  simp only [Ctx.endLoop, h]

theorem control_call_program (h : dOp d = 0x04) :
    ((s.control c x d).ctx c x).program = ((s.ctx c x).pushCall (s.operand c x d 8)).program := by
  simp only [State.control, h]
  exact modCtx_opSignal_program _

theorem control_ret_program (h : dOp d = 0x05) : ((s.control c x d).ctx c x).program = (s.ctx c x).popCall.program := by
  simp only [State.control, h]
  exact modCtx_opSignal_program _

theorem popCall_eq {t : Ctx} {a : BitVec 44} {r : List (BitVec 44)} (h : t.calls = a :: r) :
    t.popCall = { t with pc := a, calls := r } := by
  simp only [Ctx.popCall, h]

theorem doBranch_pc : ((s.doBranch c x d).ctx c x).pc =
    if decide (s.token c (d6 d) ≠ 0) = (d7 d == 1) then (s.ctx c x).pc - 32 + BitVec.ofInt 44 (32 * sNat 32 (dB d 8 4))
    else (s.ctx c x).pc := by
  unfold State.doBranch
  simp only [beq_iff_eq]
  split
  · rw [State.ctx_modCtx]
  · rfl

theorem control_branch_pc (h : dOp d = 0x06) : ((s.control c x d).ctx c x).pc = ((s.doBranch c x d).ctx c x).pc := by
  simp only [State.control, h]
  exact (opSignal_work _ c x d).pc c x

theorem setBase_bases (t : Ctx) (n : Nat) (v : BitVec 44) : (t.setBase n v).bases = tset t.bases 0 n v := rfl

theorem control_setb_bases (h : dOp d = 0x08) :
    ((s.control c x d).ctx c x).bases = tset (s.ctx c x).bases 0 (d6 d) (BitVec.ofNat 44 (dB d 8 6)) := by
  simp only [State.control, h]
  exact (Ctx.bases_of_program (modCtx_opSignal_program _)).trans (setBase_bases _ _ _)

theorem control_addb_bases (h : dOp d = 0x09) : ((s.control c x d).ctx c x).bases =
    tset (s.ctx c x).bases 0 (d6 d) (BitVec.ofNat 44 (s.base c x (d6 d)) + BitVec.ofNat 44 (dB d 8 8)) := by
  simp only [State.control, h]
  exact (Ctx.bases_of_program (modCtx_opSignal_program _)).trans (setBase_bases _ _ _)

theorem control_ldb (h : dOp d = 0x0A) : s.control c x d = s.doLdb c x d := by simp only [State.control, h]

/-- LDB takes its base from a row that is not poisoned (R282). -/
theorem doLdb_bases (h : s.spPoison c (s.operand c x d 8 - spOf c) 8 = false) : ((s.doLdb c x d).ctx c x).bases =
    tset (s.ctx c x).bases 0 (d6 d) (BitVec.ofNat 44 (leNat (s.spRead c (s.operand c x d 8 - spOf c) 8))) := by
  simp only [State.doLdb, h, Bool.false_eq_true, if_false]
  exact (Ctx.bases_of_program (modCtx_opSignal_program _)).trans (setBase_bases _ _ _)

theorem doLdb_poisoned (h : s.spPoison c (s.operand c x d 8 - spOf c) 8 = true) :
    s.doLdb c x d = s.ctxFault c x 8 0 (dOp d) .poisoned := by
  simp only [State.doLdb, h, if_true]

theorem control_tokclr (h : dOp d = 0x0B) : s.control c x d = (s.doTokclr c d).opSignal c x d := by simp only [State.control, h]

theorem doTokclr_token {i : Nat} (hi : i < 64) :
    (s.doTokclr c d).token c i = if bit (dB d 8 8) i then 0 else s.token c i := by
  simp only [State.doTokclr, each_clearToken, List.mem_filter, List.mem_range, hi, true_and]

theorem control_pause (h : dOp d = 0x16) : s.control c x d = (s.setCtx c x .paused .none).opSignal c x d := by
  simp only [State.control, h]

/-! ### Operations that their context waits for (R269, R282, R284, R359) -/

/-- A context that waits for an operation of its own has begun nothing at a distance. -/
theorem opWait_rem (st : CtxState) (why : Why) : (s.opWait c x d st why).rem = s.rem := by
  rw [State.opWait, (setCtx_work _ _ _ _ _).rem]
  rfl

theorem control_end (h : dOp d = 0x01) : s.control c x d = s.doEnd c x d := by simp only [State.control, h]

theorem doEnd_ctx : (s.doEnd c x d).ctx c x = { s.ctx c x with
    endAddr := (s.ctx c x).pc - 32, ended := false, sig := dSig d, sigOp := dOp d, state := .wait, why := .endRec } := by
  rw [State.doEnd, opWait_ctx, State.ctx_modCtx]
  rfl

theorem doEnd_rem : (s.doEnd c x d).rem = (s.startFence c x 0 false).rem := opWait_rem _ _

theorem control_take (h : dOp d = 0x10) : s.control c x d = (s.sendSheaf c x d .take).opWait c x d .wait .sheaf := by
  simp only [State.control, h]

/-- An addition to a sheaf, or a drain of one, is outstanding, and its context goes on (R359). -/
theorem control_sheaf_ctx (h : dOp d = 0x11 ∨ dOp d = 0x12) :
    (s.control c x d).ctx c x = { s.ctx c x with sheafOut := (s.ctx c x).sheafOut + 1 } := by
  have hsheaf (op : SheafOp) : (s.doSheaf c x d op).ctx c x = { s.ctx c x with sheafOut := (s.ctx c x).sheafOut + 1 } :=
    State.ctx_modCtx _ _ _ _
  rcases h with h | h
  · simp only [State.control, h]
    exact hsheaf .add
  · simp only [State.control, h]
    exact hsheaf .drain

theorem control_waitt (h : dOp d = 0x13) : s.control c x d = s.doWaitt c x d := by simp only [State.control, h]

/-- WAITT for a time that has passed sets LATE (R284). -/
theorem doWaitt_late (h : dB d 8 8 < s.ftCopy (coreRegion c)) : ((s.doWaitt c x d).ctx c x).late = true := by
  rw [State.doWaitt, if_pos h]
  exact Ctx.late_of_program (modCtx_opSignal_program _)

theorem doWaitt_ctx (h : s.ftCopy (coreRegion c) ≤ dB d 8 8) : (s.doWaitt c x d).ctx c x = { s.ctx c x with
    waitFt := BitVec.ofNat 64 (dB d 8 8), sig := dSig d, sigOp := dOp d, state := .wait, why := .waitt } := by
  rw [State.doWaitt, if_neg (Nat.not_lt.2 h), opWait_ctx, State.ctx_modCtx]

theorem control_waitc_ctx (h : dOp d = 0x14) : (s.control c x d).ctx c x = { s.ctx c x with
    waitCycles := dB d 8 4, sig := dSig d, sigOp := dOp d, state := .wait, why := .waitc } := by
  simp only [State.control, h]
  rw [opWait_ctx, State.ctx_modCtx, h]

theorem control_fence (h : dOp d = 0x15) : s.control c x d = (s.startFence c x (d6 d) false).opWait c x d .wait .fence := by
  simp only [State.control, h]

end

/-! ### The obligation -/

/-- Settles O20: an operation of one cycle by the change it makes, one that is waited for by the wait its context enters. -/
theorem controlOperationsHaveTheirEffects : Obligations.ControlOperationsHaveTheirEffects := by
  unfold Obligations.ControlOperationsHaveTheirEffects
  refine fun c x d s => ⟨fun h => ?_, fun h => ?_, fun h => ?_, fun a n r h hloops => ⟨fun hn => ?_, fun hn => ?_⟩, fun h => ?_,
    fun a r h hcalls => ?_, fun h => (control_branch_pc h).trans doBranch_pc, control_setb_bases, control_addb_bases,
    fun h hclean => ?_, fun h hpoison => ?_, fun h hsig i hi => ?_, fun h => ?_, fun h => ?_, fun h hlate => ?_, fun h hdue => ?_,
    fun h => ?_, fun h => ?_, fun h hsig => ?_⟩
  · rw [control_nop h]
    exact (opSignal_work s c x d).pc c x
  · rw [control_end h, doEnd_ctx, doEnd_rem]
    exact ⟨rfl, rfl, rfl, rfl⟩
  · have hprogram := control_loop_program (s := s) (c := c) (x := x) h
    exact ⟨Ctx.loops_of_program hprogram, (Ctx.pc_of_program hprogram :)⟩
  · have hprogram := control_endloop_program (s := s) (c := c) (x := x) h
    rw [endLoop_eq hloops, if_pos hn] at hprogram
    exact ⟨(Ctx.pc_of_program hprogram :), Ctx.loops_of_program hprogram⟩
  · have hprogram := control_endloop_program (s := s) (c := c) (x := x) h
    rw [endLoop_eq hloops, if_neg (Nat.not_lt.2 hn)] at hprogram
    exact ⟨(Ctx.pc_of_program hprogram :), Ctx.loops_of_program hprogram⟩
  · have hprogram := control_call_program (s := s) (c := c) (x := x) h
    exact ⟨Ctx.calls_of_program hprogram, (Ctx.pc_of_program hprogram :)⟩
  · have hprogram := control_ret_program (s := s) (c := c) (x := x) h
    rw [popCall_eq hcalls] at hprogram
    exact ⟨(Ctx.pc_of_program hprogram :), Ctx.calls_of_program hprogram⟩
  · rw [control_ldb h]
    exact doLdb_bases hclean
  · rw [control_ldb h, doLdb_poisoned hpoison, h]
    exact ⟨(ctxFault_work s c x 8 0 0x0A .poisoned).bases c x, ctxFault_seqFault s c x 8 0 0x0A .poisoned⟩
  · rw [control_tokclr h, opSignal_silent hsig]
    exact doTokclr_token hi
  · rw [control_take h, opWait_ctx]
    exact ⟨rfl, rfl⟩
  · rw [control_sheaf_ctx h]
    exact ⟨rfl, rfl⟩
  · rw [control_waitt h]
    exact doWaitt_late hlate
  · rw [control_waitt h, doWaitt_ctx hdue]
    exact ⟨rfl, rfl, rfl⟩
  · rw [control_waitc_ctx h]
    exact ⟨rfl, rfl, rfl⟩
  · rw [control_fence h, opWait_ctx, opWait_rem]
    exact ⟨rfl, rfl, rfl⟩
  · rw [control_pause h, opSignal_silent hsig, setCtx_ctx]

end Sys2Proof.Machine
end

section
/-! SUPPORT. Contexts are launched, stopped and resumed, and the sequencer issues what comes next of their programs (08). -/

namespace Sys2Proof.Machine

open Sys2Proof Sys2Proof.Safety

/-! ### What commands on contexts leave (R268, R270, R271) -/

theorem cores_of_record {s t : State} (h : SameButRecord s t) : t.cores = s.cores := by rw [h]

/-- Nothing but cores, and the record of a command, has changed. -/
theorem coresAndRecord_of_work {s t u : State} (h : WorkStands s t) (k : SameButRecord t u) :
    SameButRecord { s with cores := u.cores } u := by
  have hframe := h.frame
  rw [cores_of_record k]
  exact hframe.record.trans k

theorem firstFail_append {l r : List (Bool × Status)} (h : firstFail l = none) : firstFail (l ++ r) = firstFail r := by
  induction l with
  | nil => rfl
  | cons x l ih =>
    obtain ⟨bad, st⟩ := x
    cases bad
    · exact ih h
    · cases h

/-! ### Launch (R268, R350) -/

/-- t is s but for cores, for what is outstanding at a distance and for what is on the narrow net. -/
def LaunchOnly (s t : State) : Prop :=
  SameButRecord { s with cores := t.cores, rem := t.rem, fab := { s.fab with net := t.fab.net } } t

theorem LaunchOnly.trans {a b c : State} (h : LaunchOnly a b) (k : LaunchOnly b c) : LaunchOnly a c := by
  unfold LaunchOnly SameButRecord at *
  rw [k, h]

theorem LaunchOnly.of_record {s t : State} (h : SameButRecord s t) : LaunchOnly s t := by
  unfold LaunchOnly SameButRecord at *
  rw [h]

theorem LaunchOnly.of_work {s t : State} (h : WorkStands s t) : LaunchOnly s t := by
  have hframe := h.frame
  unfold LaunchOnly SameButRecord SameButSignals at *
  rw [hframe]

/-- What a context's earlier list left under way is given up (R268, R272). -/
def State.forgetList (s : State) (c x : Nat) : State := (s.dropCtxFence c x).dropFetch c x

theorem dropCtxFence_frame (s : State) (c x : Nat) : s.dropCtxFence c x = { s with rem := (s.dropCtxFence c x).rem } := by
  unfold State.dropCtxFence
  split <;> rfl

theorem forgetList_only (s : State) (c x : Nat) : LaunchOnly s (s.forgetList c x) := by
  rw [State.forgetList, dropCtxFence_frame]
  rfl

theorem forgetList_cores (s : State) (c x : Nat) : (s.forgetList c x).cores = s.cores := by
  rw [State.forgetList, dropCtxFence_frame]
  rfl

/-- A context is READY at the list of its launch (R268). -/
def State.launched (s : State) (p : LaunchParams) (hopper : Nat) (tag : BitVec 16) : State :=
  ((s.forgetList p.core p.ctx).modCtx p.core p.ctx fun t => t.launch p hopper tag).setCtx p.core p.ctx .ready .none

section
variable {s : State} {p : LaunchParams} {hopper : Nat} {tag : BitVec 16}

theorem tryLaunch_passes (h : firstFail (s.launchChecks p) = none) :
    s.tryLaunch p hopper tag = (s.launched p hopper tag, .done) := by
  simp only [State.tryLaunch, h]
  rfl

theorem tryLaunch_turned_away {st : Status} (h : firstFail (s.launchChecks p) = some st) :
    s.tryLaunch p hopper tag = (s, st) := by
  simp only [State.tryLaunch, h]

/-- A launch of a context at work is turned away (R268). -/
theorem launchChecks_at_work (hidle : (s.ctx p.core p.ctx).state ≠ .idle) (hfault : (s.ctx p.core p.ctx).state ≠ .fault) :
    firstFail (s.launchChecks p) = some .wrongState := by
  simp [State.launchChecks, firstFail, hidle, hfault]

theorem launched_ctx : (s.launched p hopper tag).ctx p.core p.ctx =
    { (s.ctx p.core p.ctx).launch p hopper tag with state := .ready, why := .none } := by
  rw [State.launched, setCtx_ctx, State.ctx_modCtx, ctx_of_cores (forgetList_cores s _ _)]

theorem launched_ctx_ne {c x : Nat} (h : (c, x) ≠ (p.core, p.ctx)) : (s.launched p hopper tag).ctx c x = s.ctx c x := by
  have hne : c ≠ p.core ∨ x ≠ p.ctx := by
    by_contra hboth
    exact h (by rw [not_or, not_not, not_not] at hboth; rw [hboth.1, hboth.2])
  rw [State.launched, setCtx_ctx_ne _ _ _ hne, State.ctx_modCtx_ne _ _ hne, ctx_of_cores (forgetList_cores s _ _)]

theorem launched_only : LaunchOnly s (s.launched p hopper tag) := by
  have hlist : LaunchOnly (s.forgetList p.core p.ctx)
      ((s.forgetList p.core p.ctx).modCtx p.core p.ctx fun t => t.launch p hopper tag) := rfl
  exact ((forgetList_only s _ _).trans hlist).trans (.of_work (setCtx_work _ _ _ _ _))

end

/-! ### Stop (R270) -/

/-- A table whose values are all changed by what leaves its default alone reads changed at every key. -/
theorem tget_map {β : Type} (t : Tbl β) {d : β} {f : β → β} (hd : f d = d) (k : Nat) :
    tget (t.map fun e => (e.1, f e.2)) d k = f (tget t d k) := by
  induction t with
  | nil => exact hd.symm
  | cons e t ih =>
    obtain ⟨i, v⟩ := e
    by_cases hi : i = k
    · simp [tget, hi]
    · simpa [tget, hi] using ih

/-- No TAKE of the context waits at a sheaf any more (R270). -/
theorem dropTake_waiters (s : State) (c x i : Nat) : ∀ w ∈ ((s.dropTake c x).sheaf i).waiters, ¬(w.core = c ∧ w.ctx = x) := by
  have hsheaf : (s.dropTake c x).sheaf i
      = { s.sheaf i with waiters := (s.sheaf i).waiters.filter fun w => !(w.core == c && w.ctx == x) } :=
    tget_map _ (f := fun h : Sheaf => { h with waiters := h.waiters.filter fun w => !(w.core == c && w.ctx == x) }) rfl i
  intro w hw
  rw [hsheaf] at hw
  simpa [Decidable.imp_iff_not_or] using (List.mem_filter.1 hw).2

theorem stopCtx_eq {s : State} {c x : Nat} (h : s.stopped c x = false) :
    s.stopCtx c x = ((s.dropTake c x).dropCtxFence c x).setCtx c x .stopping .none := by
  rw [State.stopCtx, h, if_neg Bool.false_ne_true]

theorem stopCtx_done {s : State} {c x : Nat} (h : s.stopped c x = true) : s.stopCtx c x = s := by
  rw [State.stopCtx, h, if_pos rfl]

/-- A context that is stopped waits for nothing, and no sheaf holds a TAKE of it (R270). -/
theorem stopCtx_result {s : State} {c x : Nat} (h : s.stopped c x = false) :
    (s.stopCtx c x).ctx c x = { s.ctx c x with state := .stopping, why := .none } ∧ (s.stopCtx c x).mem = s.mem ∧
      (s.stopCtx c x).sheaves = (s.dropTake c x).sheaves := by
  have hset := (setCtx_work ((s.dropTake c x).dropCtxFence c x) c x .stopping .none).frame
  rw [stopCtx_eq h]
  refine ⟨?_, ?_, ?_⟩
  · rw [setCtx_ctx, dropCtxFence_frame]
    rfl
  · rw [hset.mem, dropCtxFence_frame]
    rfl
  · rw [hset, dropCtxFence_frame]

/-! ### Resume, and the end of a stop (R270, R271) -/

theorem resumeChecks_pass {s : State} {c x : Nat} (hcore : firstFail (s.coreChecks c x) = none)
    (hpaused : (s.ctx c x).state = .paused) :
    firstFail (s.coreChecks c x ++ [(decide ((s.ctx c x).state ≠ .paused), .wrongState)]) = none := by
  rw [firstFail_append hcore, hpaused]
  rfl

theorem goIdle_record (s : State) (c x : Nat) (st : Status) (addr : Nat) :
    SameButRecord (s.setCtx c x .idle .none) (s.goIdle c x st addr) := by
  unfold State.goIdle
  cases (s.ctx c x).noend
  · exact sendRecord_same _ _
  · exact .refl _

theorem exec_stoppingEnd {s : State} {c x : Nat} (hstate : (s.ctx c x).state = .stopping) (hparked : (s.ctx c x).parked = [])
    (hqueued : s.queued c x = 0) (hanswer : s.answerComes c x = false) (hroom : s.endRoom c x = true) :
    exec (.stoppingEnd c x) s = .next (s.goIdle c x .wrongState (s.ctx c x).pc.toNat) := by
  show execStoppingEnd c x s = _
  simp only [execStoppingEnd, hstate, hparked, hqueued, hanswer, hroom, decide_true, List.isEmpty_nil, beq_self_eq_true,
    Bool.not_false, Bool.and_self, act_true]

/-! ### A cycle of the sequencer (R266, R272, R277, R279) -/

theorem refresh_work (s : State) (c : Nat) : WorkStands s (s.refresh c) := by
  refine each_work _ (fun x t => ?_) s
  split
  · split
    · split
      · exact .refl t
      · exact setCtx_work t c x _ _
    · split
      · exact .refl t
      · exact setCtx_work t c x _ _
  · exact .refl t

theorem tookTurn_work (s : State) (c x : Nat) : WorkStands s (s.tookTurn c x) := modCore_work s c (fun _ => rfl) fun _ => rfl

theorem tookTurn_ctx (s : State) (c x i y : Nat) : (s.tookTurn c x).ctx i y = s.ctx i y := by
  by_cases h : i = c
  · rw [h, State.ctx, State.tookTurn, State.core_modCore]
    rfl
  · rw [State.ctx, State.tookTurn, State.core_modCore_ne _ _ h]
    rfl

section
variable {s : State} {c x : Nat} {d : BitVec 256}

theorem seqStep_rests (hpick : s.pick c = none) : s.seqStep c = s.refresh c := by simp only [State.seqStep, hpick]

theorem seqStep_issues (hpick : s.pick c = some x) (hnext : s.nextOp c x = some d) :
    s.seqStep c = (s.refresh c).issueNext c x d := by simp only [State.seqStep, hpick, hnext]

theorem exec_sequencerIssue (hruns : s.seqRuns c = true) : exec (.sequencerIssue c) s = .next (s.seqStep c) := by
  show execSequencerIssue c s = _
  rw [execSequencerIssue, hruns, act_true]

/-- The row of a control operation is the cycle in which its context issues it (R266, R282). -/
theorem issueOp_issues (hruns : s.seqRuns c = true) (hpick : s.pick c = some x) (hnext : s.nextOp c x = some d)
    (heng : dEng d = 0) : s.issueOp c x (dOp d) = .next (s.seqStep c) := by
  simp only [State.issueOp, State.issues, hruns, hpick, hnext, heng, beq_self_eq_true, Bool.and_self, act_true]

theorem issueNext_faults {cause : Nat} {st : Status} (hbad : s.descBad c x d = some (cause, st)) :
    s.issueNext c x d = (s.tookTurn c x).ctxFault c x cause (dEng d) (dOp d) st := by
  unfold State.issueNext
  rw [hbad]

theorem issueNext_controls (hgood : s.descBad c x d = none) (heng : dEng d = 0) : s.issueNext c x d =
    (((s.tookTurn c x).takeTokens c (dTokens d)).modCtx c x fun t => { t with pc := t.pc + 32 }).control c x d := by
  unfold State.issueNext
  rw [hgood]
  exact if_pos (by rw [heng]; rfl)

theorem issueNext_dispatches (hgood : s.descBad c x d = none) (heng : dEng d ≠ 0) : s.issueNext c x d =
    ((s.tookTurn c x).dispatch c x d).modCtx c x fun t => { t with pc := t.pc + 32 } := by
  unfold State.issueNext
  rw [hgood]
  exact if_neg (by simpa using heng)

/-- A descriptor as it is queued (R266, R275). -/
def State.queuedDesc (s : State) (c x : Nat) (d : BitVec 256) : QDesc :=
  { d := d, ctx := x, addrs := (addrBytes d).map (fun i => s.operand c x d i), begun := false, result := none
    progress := 0, entry := none, reading := false, got := [], gotWorst := .done, ops := [], worst := .done }

theorem WorkStands.queuedDesc {t : State} (h : WorkStands s t) : t.queuedDesc c x d = s.queuedDesc c x d := by
  simp only [State.queuedDesc, h.operand]

theorem dispatch_eq : s.dispatch c x d = s.modEng c (dEng d - 1) fun e => { e with queue := e.queue ++ [s.queuedDesc c x d] } := rfl

theorem dispatch_ctx (i y : Nat) : (s.dispatch c x d).ctx i y = s.ctx i y := by
  by_cases h : i = c
  · rw [h, State.ctx, dispatch_eq, State.modEng, State.core_modCore]
    rfl
  · rw [State.ctx, dispatch_eq, State.modEng, State.core_modCore_ne _ _ h]
    rfl

/-- A descriptor for an engine joins its queue, and its context goes on past it (R266, R275). -/
theorem issueNext_dispatched (hgood : s.descBad c x d = none) (heng : dEng d ≠ 0) :
    ((s.issueNext c x d).ctx c x).pc = (s.ctx c x).pc + 32 ∧
      ((s.issueNext c x d).eng c (dEng d - 1)).queue = (s.eng c (dEng d - 1)).queue ++ [s.queuedDesc c x d] ∧
      (s.issueNext c x d).mem = s.mem := by
  have hturn := tookTurn_work s c x
  rw [issueNext_dispatches hgood heng]
  refine ⟨?_, ?_, ?_⟩
  · rw [State.ctx_modCtx, dispatch_ctx, hturn.pc]
  · rw [modCtx_eng, dispatch_eq, State.eng_modEng, hturn.eng, hturn.queuedDesc]
  · exact hturn.mem

end

/-! ### The obligation -/

/-- Settles O19: each command on a context by what its checks and its effect are, an issue by what the verdict on it is. -/
theorem contextsAreLaunchedAndTheirDescriptorsDispatched : Obligations.ContextsAreLaunchedAndTheirDescriptorsDispatched := by
  unfold Obligations.ContextsAreLaunchedAndTheirDescriptorsDispatched
  refine ⟨fun o p s hpass => ?_, fun o p s hidle hfault => ?_, fun o c x s hpass hopen => ?_, fun o c x s hpass hdone => ?_,
    fun o c x s hpass hpaused => ?_, fun c x s hstate hparked hqueued hanswer hroom => ?_,
    fun c x d s s1 hruns hpick hnext hgood heng hs1 => ?_, fun c x cause st d s hruns hpick hnext hbad hready => ?_,
    fun c x d s hruns hpick hnext hgood heng => ?_, fun c s hruns hpick => ?_⟩
  · have hexec : exec (.ctxLaunch o p) s
        = .next ((s.launched p (if o.mbox then 0 else o.hopper) o.tag).complete o 0x40 .done []) := by
      show execCtxLaunch o p s = _
      simp only [execCtxLaunch, tryLaunch_passes hpass]
    have hctx := ctx_of_cores (complete_cores (s.launched p (if o.mbox then 0 else o.hopper) o.tag) o 0x40 .done [])
    refine ⟨_, hexec, by rw [hctx, launched_ctx], by rw [hctx, launched_ctx]; rfl, by rw [hctx, launched_ctx]; rfl,
      fun c x hne => by rw [hctx, launched_ctx_ne hne], ?_⟩
    exact launched_only.trans (.of_record (complete_same _ o 0x40 .done []))
  · show execCtxLaunch o p s = _
    simp only [execCtxLaunch, tryLaunch_turned_away (launchChecks_at_work hidle hfault)]
  · obtain ⟨hctx, hmem, hsheaves⟩ := stopCtx_result hopen
    have hsame := complete_same (s.stopCtx c x) o 0x41 .done []
    have hkept : ((s.stopCtx c x).complete o 0x41 .done []).sheaves = (s.dropTake c x).sheaves := by rw [hsame, ← hsheaves]
    refine ⟨_, congrArg Host.Outcome.next (command_passes hpass o 0x41 _), ?_, ?_, ?_, fun i w hw => ?_⟩
    · rw [ctx_of_cores (complete_cores _ o 0x41 .done []), hctx]
    · rw [complete_mem, hmem]
    · rw [hkept]
      rfl
    · rw [State.sheaf, hkept] at hw
      exact dropTake_waiters s c x i w hw
  · refine congrArg Host.Outcome.next ((command_passes hpass o 0x41 _).trans ?_)
    rw [stopCtx_done hdone]
  · refine ⟨_, congrArg Host.Outcome.next (command_passes (resumeChecks_pass hpass hpaused) o 0x42 _), ?_, ?_⟩
    · rw [ctx_of_cores (complete_cores _ o 0x42 .done []), setCtx_ctx]
    · exact coresAndRecord_of_work (setCtx_work s c x .ready .none) (complete_same _ o 0x42 .done [])
  · exact ⟨_, exec_stoppingEnd hstate hparked hqueued hanswer hroom, goIdle_ctx s c x _ _, goIdle_waiting s c x _ _,
      coresAndRecord_of_work (setCtx_work s c x .idle .none) (goIdle_record s c x _ _)⟩
  · have hstep : s.seqStep c = s1.control c x d := by
      rw [seqStep_issues hpick hnext, issueNext_controls hgood heng, hs1]
    refine ⟨by rw [exec_sequencerIssue hruns, hstep], fun e he hop => ?_⟩
    have hrow : exec e.1 s = s.issueOp c x e.2 := by
      fin_cases he <;> rfl
    rw [hrow, ← hop, issueOp_issues hruns hpick hnext heng, hstep]
  · have hfault := ctxFault_work ((s.refresh c).tookTurn c x) c x cause (dEng d) (dOp d) st
    have hwork := ((refresh_work s c).trans (tookTurn_work _ c x)).trans hfault
    have hstate : (((s.refresh c).tookTurn c x).ctx c x).state = .ready := by rw [tookTurn_ctx, hready]
    rw [exec_sequencerIssue hruns, seqStep_issues hpick hnext, issueNext_faults hbad]
    exact ⟨_, rfl, ctxFault_state (by rw [hstate]; nofun) (by rw [hstate]; nofun) _ _ _ _, hwork.pc c x,
      ctxFault_seqFault _ _ _ _ _ _ _, hwork.mem⟩
  · have hfresh := refresh_work s c
    obtain ⟨hpc, hqueue, hmem⟩ := issueNext_dispatched hgood heng
    rw [exec_sequencerIssue hruns, seqStep_issues hpick hnext]
    exact ⟨_, rfl, by rw [hpc, hfresh.pc], by rw [hqueue, hfresh.eng]; rfl, by rw [hmem, hfresh.mem]⟩
  · rw [exec_sequencerIssue hruns, seqStep_rests hpick]

end Sys2Proof.Machine
end

section
/-! SUPPORT. Engines begin descriptors and complete them, and the matrix engine (08): its tiles, its accumulators and its queue
through each of its operations. -/

namespace Sys2Proof.Machine

open Sys2Proof Sys2Proof.Safety

/-! ### An engine begins a descriptor and completes it (R279, R280, R325) -/

/-- An engine as it begins the descriptor at a place of its queue (R279, R325). -/
def Engine.begins (g : Engine) (fromSeed : Bool) (i : Nat) : Engine := (g.takeSeed fromSeed).modQ i fun q => { q with begun := true }

/-- An engine with the status that a descriptor of its queue has come to (R280). -/
def Engine.ends (g : Engine) (i : Nat) (st : Status) : Engine := g.modQ i fun q => { q with result := some st }

section
variable (g : Engine) (fromSeed : Bool) (i : Nat) (st : Status)

@[simp] theorem begins_active : (g.begins fromSeed i).active = g.active := by
  simp only [Engine.begins, Engine.modQ, Engine.takeSeed]
  split <;> rfl

@[simp] theorem begins_shadow : (g.begins fromSeed i).shadow = g.shadow := by
  simp only [Engine.begins, Engine.modQ, Engine.takeSeed]
  split <;> rfl

@[simp] theorem begins_acc : (g.begins fromSeed i).acc = g.acc := by
  simp only [Engine.begins, Engine.modQ, Engine.takeSeed]
  split <;> rfl

@[simp] theorem begins_queue : (g.begins fromSeed i).queue = g.queue.modify i fun q => { q with begun := true } := by
  simp only [Engine.begins, Engine.modQ, Engine.takeSeed]
  split <;> rfl

@[simp] theorem ends_shadow : (g.ends i st).shadow = g.shadow := rfl
@[simp] theorem ends_acc : (g.ends i st).acc = g.acc := rfl

/-- A descriptor of the queue that has begun and ended says so. -/
theorem ends_queue_of_begins {h : Engine} {q : QDesc} (hq : g.queue[i]? = some q)
    (hh : h.queue = (g.begins fromSeed i).queue) : (h.ends i st).queue[i]? = some { q with begun := true, result := some st } := by
  simp [Engine.ends, Engine.modQ, hh, hq, List.getElem?_modify_eq]

end

section
variable {s : State} {c e i op : Nat} {q : QDesc}

/-- The descriptor that can begin is the one at its place in the queue (R279, R281). -/
theorem startable_queue (h : s.startable c e op = some (i, q)) : (s.eng c e).queue[i]? = some q := by
  unfold State.startable at h
  split at h
  · cases h
  · split at h
    · cases h
    · next hget =>
      split at h
      · cases h
        exact hget
      · cases h

theorem beginAt_eng : (s.beginAt c e i q).eng c e = (s.eng c e).begins ((s.core c).seedSrc.getLsbD e) i := by
  rw [State.beginAt, State.eng_modEng, (takeTokens_work s c _).eng]
  rfl

theorem beginAt_mem : (s.beginAt c e i q).mem = s.mem := (takeTokens_work s c (dTokens q.d)).mem

theorem setResult_seqFault (s : State) (c e i : Nat) (st : Status) :
    ((s.setResult c e i st).core c).seqFault = (s.core c).seqFault := by
  rw [State.setResult, State.modEng, State.core_modCore]

theorem setResult_eng (s : State) (c e i : Nat) (st : Status) : (s.setResult c e i st).eng c e = (s.eng c e).ends i st := by
  rw [State.setResult, State.eng_modEng]
  rfl

theorem runHead_runs {run : QDesc → State → State × Status} (h : s.startable c e op = some (i, q)) :
    s.runHead true c e op run
      = .next ((run q (s.beginAt c e i q)).1.setResult c e i (run q (s.beginAt c e i q)).2) := by
  simp only [State.runHead, h, act_true]

theorem countDesc_work (s : State) (c : Nat) (poisoned : Bool) (n : Count) (iovf : Bool) :
    WorkStands s (s.countDesc c poisoned n iovf) := by
  unfold State.countDesc
  extract_lets s1
  have hcount : WorkStands s s1 := modCore_work s c (fun _ => rfl) fun _ => rfl
  refine hcount.trans ?_
  cases poisoned
  · exact .refl s1
  · exact .of_same (raise_same s1 _)

end

/-! ### What is read of memory (R219, R306) -/

section
variable {s t : State} (h : t.mem = s.mem)
include h

theorem spRead_of_mem (c off n : Nat) : t.spRead c off n = s.spRead c off n := by simp only [State.spRead, State.rdMem, h]

theorem spPoison_of_mem (c off n : Nat) : t.spPoison c off n = s.spPoison c off n := by simp only [State.spPoison, h]

theorem codes_of_mem (c off fmt n : Nat) : t.codes c off fmt n = s.codes c off fmt n := by
  simp only [State.codes, spRead_of_mem h]

theorem matmulPoison_of_mem (c : Nat) (q : QDesc) : t.matmulPoison c q = s.matmulPoison c q := by
  simp only [State.matmulPoison, spPoison_of_mem h]

end

/-! ### LOADW (R285, R288) -/

section
variable {s : State} {c e i : Nat} {q : QDesc}

theorem exec_loadw (hstart : s.startable c e 0x20 = some (i, q)) (hruns : s.engRuns c e 0 3 = true) :
    exec (.loadw c e) s = .next ((runLoadw c e q (s.beginAt c e i q)).1.setResult c e i .done) := by
  show execLoadw c e s = _
  rw [execLoadw, hruns, runHead_runs hstart]
  rfl

theorem runLoadw_eng (s : State) (c e : Nat) (q : QDesc) :
    (runLoadw c e q s).1.eng c e = { s.eng c e with shadow := some (s.loadTile c q) } := by
  simp only [runLoadw, (countDesc_work _ _ _ _ _).eng, State.eng_modEng]

theorem runLoadw_mem (s : State) (c e : Nat) (q : QDesc) : (runLoadw c e q s).1.mem = s.mem := (countDesc_work _ _ _ _ _).mem

end

/-! ### MATMUL (R285, R310 to R313, R620) -/

@[simp] theorem swap_acc (g : Engine) : g.swap.acc = g.acc := rfl
@[simp] theorem swap_queue (g : Engine) : g.swap.queue = g.queue := rfl

/-- The engine by which a MATMUL multiplies: with SWAP its shadow tile has become active (R285). -/
def Engine.multiplier (g : Engine) (q : QDesc) : Engine := if bit (d6 q.d) 4 then g.swap else g

/-- The state in which a MATMUL multiplies. -/
def State.swapped (s : State) (c e : Nat) (q : QDesc) : State := if bit (d6 q.d) 4 then s.modEng c e Engine.swap else s

section
variable (g : Engine) (q : QDesc)

@[simp] theorem multiplier_acc : (g.multiplier q).acc = g.acc := by
  unfold Engine.multiplier
  split <;> rfl

@[simp] theorem multiplier_queue : (g.multiplier q).queue = g.queue := by
  unfold Engine.multiplier
  split <;> rfl

/-- The tile that becomes active is the same before the descriptor has begun. -/
theorem multiplier_begins_active (fromSeed : Bool) (i : Nat) : ((g.begins fromSeed i).multiplier q).active = (g.multiplier q).active := by
  unfold Engine.multiplier
  split
  · simp only [Engine.swap, begins_shadow]
  · rw [begins_active]

theorem kindConflict_of_acc {g k : Engine} (h : g.acc = k.acc) : g.kindConflict q = k.kindConflict q := by
  simp only [Engine.kindConflict, Engine.accRow, h]

theorem accRow_of_acc {g k : Engine} (h : g.acc = k.acc) (r : Nat) : g.accRow r = k.accRow r := by
  rw [Engine.accRow, h, ← Engine.accRow]

theorem accRow_setAcc (r k : Nat) (a : AccRow) : (g.setAcc r a).accRow k = if k = r then a else g.accRow k := tget_tset _ _ _ _ _

end

section
variable {s : State} {c e i : Nat} {q : QDesc}

theorem swapped_eng : (s.swapped c e q).eng c e = (s.eng c e).multiplier q := by
  unfold State.swapped Engine.multiplier
  split
  · rw [State.eng_modEng]
  · rfl

theorem swapped_mem : (s.swapped c e q).mem = s.mem := by
  unfold State.swapped
  split <;> rfl

/-- The tile with which a MATMUL multiplies does not depend on its having begun. -/
theorem swapped_beginAt_active :
    (((s.beginAt c e i q).swapped c e q).eng c e).active = ((s.eng c e).multiplier q).active := by
  rw [swapped_eng, beginAt_eng, multiplier_begins_active]

theorem swapped_beginAt_acc :
    (((s.beginAt c e i q).swapped c e q).eng c e).acc = ((s.eng c e).multiplier q).acc := by
  rw [swapped_eng, beginAt_eng, multiplier_acc, multiplier_acc, begins_acc]

theorem swapped_beginAt_queue : (((s.beginAt c e i q).swapped c e q).eng c e).queue =
    ((s.eng c e).begins ((s.core c).seedSrc.getLsbD e) i).queue := by
  rw [swapped_eng, beginAt_eng, multiplier_queue]

theorem swapped_beginAt_mem : ((s.beginAt c e i q).swapped c e q).mem = s.mem := swapped_mem.trans beginAt_mem

theorem exec_matmul (hstart : s.startable c e 0x21 = some (i, q)) (hruns : s.engRuns c e 0 3 = true) :
    exec (.matmul c e) s
      = .next ((runMatmul c e q (s.beginAt c e i q)).1.setResult c e i (runMatmul c e q (s.beginAt c e i q)).2) := by
  show execMatmul c e s = _
  rw [execMatmul, hruns, runHead_runs hstart]

theorem runMatmul_conflicts (h : ((s.swapped c e q).eng c e).active.fits (d6 q.d % 16) = false ∨
    ((s.swapped c e q).eng c e).kindConflict q = true) : runMatmul c e q s = (s.swapped c e q).conflict c e q := by
  refine if_pos (Bool.or_eq_true_iff.2 (h.imp_left fun hfits => ?_))
  rw [Bool.not_eq_true']
  exact hfits

theorem runMatmul_multiplies (hfits : ((s.swapped c e q).eng c e).active.fits (d6 q.d % 16) = true)
    (hkind : ((s.swapped c e q).eng c e).kindConflict q = false) :
    runMatmul c e q s = (((s.swapped c e q).matmulRows c e q).1.countDesc c ((s.swapped c e q).matmulPoison c q)
      ((s.swapped c e q).matmulRows c e q).2.1 ((s.swapped c e q).matmulRows c e q).2.2, .done) := by
  refine if_neg fun h => ?_
  rcases Bool.or_eq_true_iff.1 h with h | h
  · rw [Bool.not_eq_true'] at h
    exact Bool.noConfusion (hfits.symm.trans h)
  · exact Bool.noConfusion (hkind.symm.trans h)

theorem conflict_work (s : State) (c e : Nat) (q : QDesc) : WorkStands s (s.conflict c e q).1 := seqRecord_work s c _ _ _ _ _

theorem conflict_seqFault (s : State) (c e : Nat) (q : QDesc) :
    ((s.conflict c e q).1.core c).seqFault = seqFaultWord q.ctx 2 (e + 1) (dOp q.d) .badField := by
  rw [State.conflict, State.seqRecord, State.core_modCore]

/-- The sum that a MATMUL of one row, in a format without block scales, leaves in its row (R310, R312). -/
def State.rowSum (s : State) (c : Nat) (q : QDesc) (g : Engine) : AccRow :=
  (matRow g.active (d6 q.d % 16) (bit (d6 q.d) 5) false (g.accRow (dB q.d 18 2)) (g.accRow (dB q.d 18 2 + 256))
    (scaledVals (d6 q.d % 16) (s.codes c (q.off c 8) (d6 q.d % 16) (fmtK (d6 q.d % 16))) [])).1

theorem rowSum_congr {s t : State} {g k : Engine} (hmem : t.mem = s.mem) (hactive : k.active = g.active) (hacc : k.acc = g.acc)
    (c : Nat) (q : QDesc) : t.rowSum c q k = s.rowSum c q g := by
  unfold State.rowSum
  rw [hactive, accRow_of_acc hacc, accRow_of_acc hacc, codes_of_mem hmem]

theorem matmulRows_one (hrows : dB q.d 16 2 = 1) (hmx : isMx (d6 q.d % 16) = false) (hcomp : bit (d6 q.d) 6 = false)
    (hclean : s.matmulPoison c q = false) (htile : (s.eng c e).active.poison = false)
    (hrow : ((s.eng c e).accRow (dB q.d 18 2)).poison = false) :
    (s.matmulRows c e q).1 = s.modEng c e fun g => g.setAcc (dB q.d 18 2) (s.rowSum c q (s.eng c e)) := by
  have hread : s.spPoison c (q.off c 8) (fmtBytes (d6 q.d % 16) (fmtK (d6 q.d % 16))) = false := by
    simpa [State.matmulPoison, hrows, hmx] using hclean
  have hscales (off : Nat) : s.spRead c off 0 = [] := rfl
  simp [State.matmulRows, hrows, State.matmulRow, hmx, hcomp, hread, htile, hrow, hscales, State.rowSum]

/-- A MATMUL of one row leaves that row's sum, and no other change of its engine. -/
theorem runMatmul_one (hfits : ((s.swapped c e q).eng c e).active.fits (d6 q.d % 16) = true)
    (hkind : ((s.swapped c e q).eng c e).kindConflict q = false) (hrows : dB q.d 16 2 = 1) (hmx : isMx (d6 q.d % 16) = false)
    (hcomp : bit (d6 q.d) 6 = false) (hclean : (s.swapped c e q).matmulPoison c q = false)
    (htile : ((s.swapped c e q).eng c e).active.poison = false)
    (hrow : (((s.swapped c e q).eng c e).accRow (dB q.d 18 2)).poison = false) :
    (runMatmul c e q s).2 = .done ∧
      (runMatmul c e q s).1.eng c e = ((s.swapped c e q).eng c e).setAcc (dB q.d 18 2)
        ((s.swapped c e q).rowSum c q ((s.swapped c e q).eng c e)) ∧
      (runMatmul c e q s).1.mem = (s.swapped c e q).mem := by
  have hcount (t : State) (poisoned iovf : Bool) (n : Count) := countDesc_work t c poisoned n iovf
  rw [runMatmul_multiplies hfits hkind, matmulRows_one hrows hmx hcomp hclean htile hrow]
  exact ⟨rfl, by rw [(hcount _ _ _ _).eng, State.eng_modEng], (hcount _ _ _ _).mem⟩

end

/-! ### EPI (R285, R286, R311, R313) -/

/-- An engine with nothing new but the draws of its seed (R322). -/
def Engine.OnlyDrew (g h : Engine) : Prop := h = { g with seedPos := h.seedPos }

theorem Engine.OnlyDrew.trans {g h k : Engine} (hgh : g.OnlyDrew h) (hhk : h.OnlyDrew k) : g.OnlyDrew k := by
  unfold Engine.OnlyDrew at *
  rw [hhk, hgh]

theorem Engine.OnlyDrew.acc {g h : Engine} (hgh : g.OnlyDrew h) : h.acc = g.acc := by rw [hgh]
theorem Engine.OnlyDrew.queue {g h : Engine} (hgh : g.OnlyDrew h) : h.queue = g.queue := by rw [hgh]

theorem engWrite_cores (s : State) (c off : Nat) (l : List Byte) (poisoned : Bool) : (s.engWrite c off l poisoned).cores = s.cores := by
  unfold State.engWrite
  split
  · rw [spWrite_blocks ({ s with drawn := s.drawn + l.length } : State)]
  · rw [spWrite_blocks s]

theorem engWrite_eng (s : State) (c off : Nat) (l : List Byte) (poisoned : Bool) (i e : Nat) :
    (s.engWrite c off l poisoned).eng i e = s.eng i e := by
  simp only [State.eng, State.core, engWrite_cores]

theorem drewIf_eng (s : State) (c e rnd n : Nat) : (s.eng c e).OnlyDrew ((s.drewIf c e rnd n).eng c e) := by
  unfold State.drewIf State.drewFrom
  split
  · split
    · rw [State.eng_modEng]
      rfl
    · rfl
  · rfl

theorem epiRowOut_eng (s : State) (c e : Nat) (q : QDesc) (poisoned : Bool) (n : Count) (r : Nat) :
    (s.eng c e).OnlyDrew ((s.epiRowOut c e q poisoned n r).1.eng c e) := by
  unfold State.epiRowOut
  dsimp only
  split
  · rw [engWrite_eng]
    rfl
  · split
    · rw [engWrite_eng]
      rfl
    · rw [engWrite_eng]
      exact drewIf_eng s c e _ _

/-- The rows of an EPI in turn. -/
def State.epiRows (s : State) (c e : Nat) (q : QDesc) (poisoned : Bool) : State × Count :=
  (List.range (dB q.d 10 2)).foldl (fun (y : State × Count) r => y.1.epiRowOut c e q poisoned y.2 r) (s, Count.zero)

theorem epiRows_eng (s : State) (c e : Nat) (q : QDesc) (poisoned : Bool) :
    (s.eng c e).OnlyDrew ((s.epiRows c e q poisoned).1.eng c e) :=
  List.foldlRecOn (motive := fun y : State × Count => (s.eng c e).OnlyDrew (y.1.eng c e)) _ _ rfl
    fun y hy r _ => hy.trans (epiRowOut_eng y.1 c e q poisoned y.2 r)

/-- The row of an EPI with CLEAR is 0, and with COMP its error row (R285, R313). -/
def Engine.clearRow (q : QDesc) (g : Engine) (i : Nat) : Engine :=
  let g1 := g.setAcc (dB q.d 8 2 + i) AccRow.reset
  if bit (d6 q.d) 7 then g1.setAcc (dB q.d 8 2 + i + 256) AccRow.reset else g1

theorem clearRows_eq (g : Engine) (q : QDesc) : g.clearRows q = (List.range (dB q.d 10 2)).foldl (Engine.clearRow q) g := rfl

section
variable (q : QDesc) (g : Engine)

theorem clearRow_queue (i : Nat) : (g.clearRow q i).queue = g.queue := by
  unfold Engine.clearRow
  dsimp only
  split <;> rfl

theorem clearRows_queue : (g.clearRows q).queue = g.queue :=
  List.foldlRecOn (motive := fun h : Engine => h.queue = g.queue) _ _ rfl fun h hh i _ => (clearRow_queue q h i).trans hh

theorem clearRow_accRow (i : Nat) : (g.clearRow q i).accRow (dB q.d 8 2 + i) = AccRow.reset := by
  unfold Engine.clearRow
  dsimp only
  split <;> simp [accRow_setAcc]

/-- A row that is clear stays so. -/
theorem clearRow_keeps {k : Nat} (h : g.accRow k = AccRow.reset) (i : Nat) : (g.clearRow q i).accRow k = AccRow.reset := by
  unfold Engine.clearRow
  dsimp only
  split <;> simp [accRow_setAcc, h]

theorem clearRows_accRow {r : Nat} (hr : r < dB q.d 10 2) : (g.clearRows q).accRow (dB q.d 8 2 + r) = AccRow.reset := by
  have hall : ∀ (l : List Nat) (h : Engine), (r ∈ l ∨ h.accRow (dB q.d 8 2 + r) = AccRow.reset) →
      (l.foldl (Engine.clearRow q) h).accRow (dB q.d 8 2 + r) = AccRow.reset := by
    intro l
    induction l with
    | nil => exact fun h hclear => hclear.resolve_left List.not_mem_nil
    | cons i l ih =>
      intro h hclear
      refine ih _ ?_
      rcases hclear with hmem | hclear
      · rcases List.mem_cons.1 hmem with rfl | hmem
        · exact .inr (clearRow_accRow q h r)
        · exact .inl hmem
      · exact .inr (clearRow_keeps q h hclear i)
  exact hall _ g (.inl (List.mem_range.2 hr))

end

section
variable {s : State} {c e i : Nat} {q : QDesc}

theorem exec_epi (hstart : s.startable c e 0x22 = some (i, q)) (hruns : s.engRuns c e 0 3 = true) :
    exec (.epi c e) s = .next ((runEpi c e q (s.beginAt c e i q)).1.setResult c e i (runEpi c e q (s.beginAt c e i q)).2) := by
  show execEpi c e s = _
  rw [execEpi, hruns, runHead_runs hstart]

theorem epiKind_of_acc {g k : Engine} (h : g.acc = k.acc) (r0 n : Nat) : g.epiKind r0 n = k.epiKind r0 n := by
  unfold Engine.epiKind Engine.accRow
  rw [h]

theorem epiKind_beginAt (r0 n : Nat) : ((s.beginAt c e i q).eng c e).epiKind r0 n = (s.eng c e).epiKind r0 n :=
  epiKind_of_acc (by rw [beginAt_eng, begins_acc]) r0 n

theorem runEpi_conflicts (h : (s.eng c e).epiKind (dB q.d 8 2) (dB q.d 10 2) = none) : runEpi c e q s = s.conflict c e q := by
  simp only [runEpi, h]

/-- An EPI whose rows are written leaves its engine as it was but for the draws, and clears its rows when asked (R285). -/
theorem runEpi_writes {k : AccKind} (h : (s.eng c e).epiKind (dB q.d 8 2) (dB q.d 10 2) = some k)
    (hfloat : d6 q.d % 16 = 0xC → k ≠ .floating) :
    (runEpi c e q s).2 = .done ∧ ∃ g : Engine, (s.eng c e).OnlyDrew g ∧
      (runEpi c e q s).1.eng c e = if bit (d6 q.d) 6 then g.clearRows q else g := by
  have hwrites : (d6 q.d % 16 == 0xC && decide (k = .floating)) = false := by
    by_cases hfmt : d6 q.d % 16 = 0xC
    · simp [hfloat hfmt]
    · simp [hfmt]
  simp only [runEpi, h, hwrites, Bool.false_eq_true, if_false]
  refine ⟨trivial, _, epiRows_eng s c e q (s.epiSpPoison c q || (s.eng c e).epiAccPoison q), ?_⟩
  rw [(countDesc_work _ _ _ _ _).eng]
  split
  · rw [State.eng_modEng]
    rfl
  · rfl

end

/-! ### The obligation -/

/-- Settles O22: each operation by what it makes of its engine, between the beginning of its descriptor and its result. -/
theorem matrixDescriptorsRun : Obligations.MatrixDescriptorsRun := by
  unfold Obligations.MatrixDescriptorsRun
  refine ⟨fun c e i q s hstart hruns => ?_, fun c e i q g s hstart hruns hg hconflict => ?_,
    fun c e i r q g s hstart hruns hg hfits hkind hclean htile hrows hr hmx hcomp hrow => ?_,
    fun c e i q s hstart hruns hmixed => ?_, fun c e i k q s hstart hruns hkinds hfloat => ?_⟩
  · refine ⟨_, exec_loadw hstart hruns, ?_⟩
    have heng := runLoadw_eng (s.beginAt c e i q) c e q
    rw [setResult_eng, heng, beginAt_eng]
    exact ⟨rfl, ends_queue_of_begins (s.eng c e) _ i .done (startable_queue hstart) rfl, begins_acc (s.eng c e) _ i,
      (runLoadw_mem _ c e q).trans beginAt_mem⟩
  · rw [show g = (s.eng c e).multiplier q from hg, ← swapped_beginAt_active (i := i),
      ← kindConflict_of_acc q (swapped_beginAt_acc (i := i))] at hconflict
    have hwork := conflict_work ((s.beginAt c e i q).swapped c e q) c e q
    rw [exec_matmul hstart hruns, runMatmul_conflicts hconflict]
    refine ⟨_, rfl, ?_, ?_, ?_, hwork.mem.trans swapped_beginAt_mem⟩
    · rw [setResult_eng, ends_acc, hwork.eng, swapped_beginAt_acc, multiplier_acc]
    · rw [setResult_eng]
      exact ends_queue_of_begins (s.eng c e) _ i .badField (startable_queue hstart) (by rw [hwork.eng, swapped_beginAt_queue])
    · rw [setResult_seqFault, conflict_seqFault]
  · subst hr
    obtain rfl : g = (s.eng c e).multiplier q := hg
    have hactive := swapped_beginAt_active (s := s) (c := c) (e := e) (i := i) (q := q)
    have hacc := swapped_beginAt_acc (s := s) (c := c) (e := e) (i := i) (q := q)
    have hmem := swapped_beginAt_mem (s := s) (c := c) (e := e) (i := i) (q := q)
    obtain ⟨hdone, heng, hsame⟩ := runMatmul_one (s := s.beginAt c e i q) (by rwa [hactive]) (by rwa [kindConflict_of_acc q hacc])
      hrows hmx hcomp (by rwa [matmulPoison_of_mem hmem]) (by rwa [hactive]) (by rwa [accRow_of_acc hacc])
    rw [exec_matmul hstart hruns, hdone]
    refine ⟨_, rfl, ?_, fun k hk => ?_, ?_, hsame.trans hmem⟩
    · rw [setResult_eng, accRow_of_acc (ends_acc _ i .done), heng, accRow_setAcc, if_pos rfl, rowSum_congr hmem hactive hacc]
      rfl
    · rw [setResult_eng, accRow_of_acc (ends_acc _ i .done), heng, accRow_setAcc, if_neg hk, accRow_of_acc hacc,
        accRow_of_acc (multiplier_acc _ q)]
    · rw [setResult_eng]
      exact ends_queue_of_begins (s.eng c e) _ i .done (startable_queue hstart) (by rw [heng]; exact swapped_beginAt_queue)
  · rw [← epiKind_beginAt (i := i) (q := q)] at hmixed
    have hwork := conflict_work (s.beginAt c e i q) c e q
    rw [exec_epi hstart hruns, runEpi_conflicts hmixed]
    refine ⟨_, rfl, ?_, ?_, hwork.mem.trans beginAt_mem⟩
    · rw [setResult_eng, ends_acc, hwork.eng, beginAt_eng, begins_acc]
    · rw [setResult_eng]
      exact ends_queue_of_begins (s.eng c e) _ i .badField (startable_queue hstart) (by rw [hwork.eng, beginAt_eng])
  · rw [← epiKind_beginAt (i := i) (q := q)] at hkinds
    obtain ⟨hdone, g, hdrew, heng⟩ := runEpi_writes hkinds hfloat
    rw [beginAt_eng] at hdrew
    rw [exec_epi hstart hruns, hdone]
    refine ⟨_, rfl, fun hclear r hr => ?_, fun hstay => ?_, ?_⟩
    · rw [setResult_eng, accRow_of_acc (ends_acc _ i .done), heng, if_pos hclear, clearRows_accRow q g hr]
    · rw [setResult_eng, ends_acc, heng, hstay, if_neg Bool.false_ne_true, hdrew.acc, begins_acc]
    · rw [setResult_eng]
      refine ends_queue_of_begins (s.eng c e) _ i .done (startable_queue hstart) (Eq.trans ?_ hdrew.queue)
      rw [heng]
      split
      · exact clearRows_queue q g
      · rfl

end Sys2Proof.Machine
end

section
/-! SUPPORT. Sheaf banks (10): the answers that set out over the narrow net, and the TAKEs that a bank serves. -/

namespace Sys2Proof.Machine

open Sys2Proof Sys2Proof.Safety

/-! ### Answers on the narrow net (R66, R359) -/

/-- Between s and t the answers l have joined the narrow net, each behind what waits at its node, and nothing but the sheaf banks
has changed beside. -/
structure Answers (l : List SheafAns) (s t : State) : Prop where
  net : ∀ n, tget t.fab.net [] n = tget s.fab.net [] n ++ (l.filter fun a => 18 + a.core / 4 == n).map wakeMsg
  only : SheavesOnly s t

theorem Answers.trans {l m : List SheafAns} {a b c : State} (h : Answers l a b) (k : Answers m b c) : Answers (l ++ m) a c where
  net n := by rw [k.net, h.net, List.append_assoc, List.filter_append, List.map_append]
  only := h.only.trans k.only

/-- A change of the sheaf banks alone sends no answer. -/
theorem Answers.of_sheaves {s t : State} (h : t = { s with sheaves := t.sheaves }) : Answers [] s t where
  net n := by rw [h]; exact (List.append_nil _).symm
  only := by rw [h]; rfl

theorem answers_one {a : SheafAns} {s t : State} : Answers [a] s t ↔ Answered s t a := by
  have hone (n : Nat) : ([a].filter fun a => 18 + a.core / 4 == n).map wakeMsg
      = if n = 18 + a.core / 4 then [wakeMsg a] else [] := by
    by_cases h : n = 18 + a.core / 4
    · simp [h]
    · simp [h, Ne.symm h]
  constructor
  · exact fun h => ⟨fun n => by rw [h.net, hone], h.only⟩
  · exact fun h => ⟨fun n => by rw [h.1, hone], h.2⟩

/-- A message joins the narrow net behind what waits at its node (R66). -/
theorem netSend_net (s : State) (node cls : Nat) (b : NetBody) (n : Nat) : tget (s.netSend node cls b).fab.net [] n
    = tget s.fab.net [] n ++ if n = node then [{ cls := cls, dst := node, body := b }] else [] := by
  rw [State.netSend, tget_tmod]
  split
  · rfl
  · exact (List.append_nil _).symm

theorem bankAnswer_answers (s : State) (core ctx op : Nat) (st : Status) (sig : BitVec 16) :
    Answers [{ core := core, ctx := ctx, op := op, status := st, sig := sig }] s (s.bankAnswer core ctx op st sig) :=
  answers_one.2 ⟨netSend_net s (nodeDrill (core / 4)) 1 _, rfl⟩

theorem bankAnswer_sheaves (s : State) (core ctx op : Nat) (st : Status) (sig : BitVec 16) :
    (s.bankAnswer core ctx op st sig).sheaves = s.sheaves := rfl

/-! ### Waiting TAKEs (R357) -/

/-- What a TAKE that waited is answered. -/
def Waiter.answer (st : Status) (w : Waiter) : SheafAns :=
  { core := w.core, ctx := w.ctx, op := 0x10, status := st, sig := w.sig }

/-- Those served and those that wait on are the waiters in their order. -/
theorem serveList_append (v : Nat) (l : List Waiter) : (serveList v l).1 ++ (serveList v l).2.2 = l := by
  induction l generalizing v with
  | nil => rfl
  | cons w r ih =>
    rw [serveList]
    split
    · exact congrArg (w :: ·) (ih (v - w.n))
    · rfl

/-- What the served take and what is left make up VALUE. -/
theorem serveList_value (v : Nat) (l : List Waiter) :
    (serveList v l).2.1 + ((serveList v l).1.map Waiter.n).sum = v := by
  induction l generalizing v with
  | nil => rfl
  | cons w r ih =>
    rw [serveList]
    split
    · next h =>
      have := ih (v - w.n)
      simp only [List.map_cons, List.sum_cons]
      omega
    · rfl

/-- The first that waits on asks for more than is left. -/
theorem serveList_stops {v : Nat} {l : List Waiter} {w : Waiter} (h : (serveList v l).2.2.head? = some w) :
    (serveList v l).2.1 < w.n := by
  induction l generalizing v with
  | nil => cases h
  | cons x r ih =>
    rw [serveList] at h ⊢
    split at h
    · next hx =>
      rw [if_pos hx]
      exact ih h
    · next hx =>
      rw [if_neg hx]
      cases h
      exact Nat.lt_of_not_le hx

/-- A sheaf as it stands when its waiters have been served. -/
def Sheaf.served (h : Sheaf) : Sheaf :=
  { h with value := (serveList h.value h.waiters).2.1, waiters := (serveList h.value h.waiters).2.2 }

/-- Those of a sheaf's waiters that VALUE serves. -/
def Sheaf.due (h : Sheaf) : List Waiter := (serveList h.value h.waiters).1

theorem serve_eq (s : State) (i : Nat) : s.serve i
    = each (s.sheaf i).due (fun w u => u.bankAnswer w.core w.ctx 0x10 .done w.sig) (s.modSheaf i Sheaf.served) := by
  rw [show s.modSheaf i Sheaf.served = s.modSheaf i fun h => { h with
    value := (serveList (s.sheaf i).value (s.sheaf i).waiters).2.1
    waiters := (serveList (s.sheaf i).value (s.sheaf i).waiters).2.2 } from State.modSheaf_congr s rfl]
  rfl

theorem each_bankAnswer_answers (l : List Waiter) (s : State) :
    Answers (l.map (Waiter.answer .done)) s (each l (fun w u => u.bankAnswer w.core w.ctx 0x10 .done w.sig) s) := by
  induction l generalizing s with
  | nil => exact .of_sheaves rfl
  | cons w r ih => exact (bankAnswer_answers s w.core w.ctx 0x10 .done w.sig).trans (ih _)

theorem serve_answers (s : State) (i : Nat) : Answers ((s.sheaf i).due.map (Waiter.answer .done)) s (s.serve i) := by
  have hserved : Answers [] s (s.modSheaf i Sheaf.served) := .of_sheaves rfl
  rw [serve_eq]
  exact hserved.trans (each_bankAnswer_answers _ _)

theorem serve_sheaves (s : State) (i : Nat) : (s.serve i).sheaves = (s.modSheaf i Sheaf.served).sheaves := by
  rw [serve_eq]
  exact each_inv (fun u => u.sheaves = (s.modSheaf i Sheaf.served).sheaves) _ _ rfl fun _ _ h => h

theorem sheaf_of_sheaves {s t : State} (h : t.sheaves = s.sheaves) (i : Nat) : t.sheaf i = s.sheaf i := by
  rw [State.sheaf, h, State.sheaf]

theorem bank_of_sheaves {s t : State} (h : t.sheaves = s.sheaves) (k : Nat) : t.bank k = s.bank k := by
  rw [State.bank, h, State.bank]

theorem serve_sheaf (s : State) (i : Nat) : (s.serve i).sheaf i = (s.sheaf i).served := by
  rw [sheaf_of_sheaves (serve_sheaves s i), State.sheaf_modSheaf]

theorem serve_sheaf_ne (s : State) {i j : Nat} (h : j ≠ i) : (s.serve i).sheaf j = s.sheaf j := by
  rw [sheaf_of_sheaves (serve_sheaves s i), State.sheaf_modSheaf_ne _ _ h]

theorem serve_frame (s : State) (i : Nat) : s.serve i = { s with
    sheaves := { s.sheaves with sheaf := (s.serve i).sheaves.sheaf }
    fab := { s.fab with net := (s.serve i).fab.net } } := by
  have hsheaves : (s.serve i).sheaves = { s.sheaves with sheaf := (s.serve i).sheaves.sheaf } := by
    rw [serve_sheaves]
    rfl
  exact Eq.trans (serve_answers s i).only (by rw [hsheaves])

/-- Settles O25: the walk over the waiters by induction on their list, the answers of those served one after the other. -/
theorem waitersAreServedFromTheOldest : Obligations.WaitersAreServedFromTheOldest := by
  unfold Obligations.WaitersAreServedFromTheOldest
  refine ⟨fun v l => ⟨serveList_append v l, serveList_value v l, fun _ => serveList_stops⟩,
    fun i s => ⟨serve_sheaf s i, fun j => serve_sheaf_ne s, fun n => ?_, serve_frame s i⟩⟩
  rw [(serve_answers s i).net n, List.filter_map, List.map_map]
  rfl

end Sys2Proof.Machine
end

section
/-! SUPPORT. What a sheaf bank does with the operation that arrived first, and with a TAKE that has waited too long (10). -/

namespace Sys2Proof.Machine

open Sys2Proof Sys2Proof.Safety

/-! ### The operation that arrived first (R355) -/

/-- A bank with the operations that have still to be performed. -/
def Bank.holding (l : List BankReq) (b : Bank) : Bank := { b with inbox := l }

/-- What a sequencer's operation is answered (R359). -/
def BankReq.answer (r : BankReq) (c x : Nat) (st : Status) : SheafAns :=
  { core := c, ctx := x, op := r.op.code, status := st, sig := r.sig }

section
variable {s : State} {k : Nat} {r : BankReq} {l : List BankReq}

theorem bankHead_first (hin : (s.bank k).inbox = r :: l) (hrun : s.bistHolds 2 k = false) :
    s.bankHead k r.op = some (r, s.modBank k (.holding l)) := by
  have hdrop : s.modBank k (fun b => { b with inbox := b.inbox.drop 1 }) = s.modBank k (.holding l) :=
    State.modBank_congr s (by rw [hin]; rfl)
  simp only [State.bankHead, hrun, hin, Bool.false_eq_true, if_false, if_true, hdrop]

theorem exec_bankAdd (hin : (s.bank k).inbox = r :: l) (hrun : s.bistHolds 2 k = false) (hup : s.fieldUp k = true)
    (hop : r.op = .add) {x : State × Status} (hx : (s.modBank k (.holding l)).sheafAdd r.sheaf r.n (r.from?.map (·.1)) = x) :
    exec (.bankAdd k) s = .next (x.1.bankReply r x.2 []) := by
  have hhead := bankHead_first hin hrun
  rw [hop] at hhead
  show execBankAdd k s = _
  simp only [execBankAdd, hhead, hup, act_true, hx]

theorem exec_bankDrain (hin : (s.bank k).inbox = r :: l) (hrun : s.bistHolds 2 k = false) (hup : s.fieldUp k = true)
    (hop : r.op = .drain) {x : State × Status}
    (hx : (s.modBank k (.holding l)).sheafDrain r.sheaf r.n (r.from?.map (·.1)) = x) :
    exec (.bankDrain k) s = .next (x.1.bankReply r x.2 []) := by
  have hhead := bankHead_first hin hrun
  rw [hop] at hhead
  show execBankDrain k s = _
  simp only [execBankDrain, hhead, hup, act_true, hx]

theorem exec_bankTake_answered (hin : (s.bank k).inbox = r :: l) (hrun : s.bistHolds 2 k = false) (hup : s.fieldUp k = true)
    (hop : r.op = .take) {u : State} {st : Status} (hu : (s.modBank k (.holding l)).sheafTake r = (u, some st)) :
    exec (.bankTake k) s = .next (u.bankReply r st []) := by
  have hhead := bankHead_first hin hrun
  rw [hop] at hhead
  show execBankTake k s = _
  simp only [execBankTake, hhead, hup, act_true, hu]

theorem exec_bankTake_waits (hin : (s.bank k).inbox = r :: l) (hrun : s.bistHolds 2 k = false) (hup : s.fieldUp k = true)
    (hop : r.op = .take) {u : State} (hu : (s.modBank k (.holding l)).sheafTake r = (u, none)) :
    exec (.bankTake k) s = .next u := by
  have hhead := bankHead_first hin hrun
  rw [hop] at hhead
  show execBankTake k s = _
  simp only [execBankTake, hhead, hup, act_true, hu]

theorem exec_bankRead (hin : (s.bank k).inbox = r :: l) (hrun : s.bistHolds 2 k = false) (hup : s.fieldUp k = true)
    (hop : r.op = .read) :
    exec (.bankRead k) s = .next ((s.modBank k (.holding l)).bankReply r .done (leBytes 4 (s.sheaf r.sheaf).value)) := by
  have hhead := bankHead_first hin hrun
  rw [hop] at hhead
  show execBankRead k s = _
  simp only [execBankRead, hhead, hup, act_true]
  rfl

theorem bankReply_eq {c x : Nat} (hfrom : r.from? = some (c, x)) (hx : x < 16) (s : State) (st : Status) (data : List Byte) :
    s.bankReply r st data = s.bankAnswer c x r.op.code st r.sig := by
  simp only [State.bankReply, hfrom, if_pos hx]

theorem bankReply_packet {w : Nat} {p : Packet} (hfrom : r.from? = none) (hp : r.pkt = some (w, p)) (s : State) (st : Status)
    (data : List Byte) : s.bankReply r st data = s.reply w p (if (hdr p).op == 0x01 then 0x70 else 0x71) data st false := by
  simp only [State.bankReply, hfrom, hp]

end

/-! ### What each operation makes of its sheaf (R355, R357) -/

section
variable {s : State} {i n : Nat} {core : Option Nat}

theorem sheafAdd_within (h : (s.sheaf i).value + n ≤ (s.sheaf i).limit) (core : Option Nat) :
    s.sheafAdd i n core = ((s.modSheaf i fun h => { h with value := h.value + n }).serve i, .done) := by
  have hset : s.modSheaf i (fun h => { h with value := (s.sheaf i).value + n })
      = s.modSheaf i fun h => { h with value := h.value + n } := State.modSheaf_congr s rfl
  simp only [State.sheafAdd, if_pos h, State.setSheaf, hset]

theorem sheafAdd_beyond (h : (s.sheaf i).limit < (s.sheaf i).value + n) (core : Option Nat) :
    s.sheafAdd i n core = (s.bankFault i 1 core, .outOfRange) := by
  simp only [State.sheafAdd, if_neg (Nat.not_le.2 h)]

theorem sheafDrain_within (h : n ≤ (s.sheaf i).value) (core : Option Nat) :
    s.sheafDrain i n core = (s.modSheaf i fun h => { h with value := h.value - n }, .done) := by
  simp only [State.sheafDrain, if_pos h]

theorem sheafDrain_beyond (h : (s.sheaf i).value < n) (core : Option Nat) :
    s.sheafDrain i n core = (s.bankFault i 2 core, .outOfRange) := by
  simp only [State.sheafDrain, if_neg (Nat.not_le.2 h)]

variable {r : BankReq}

theorem sheafTake_above (h : (s.sheaf r.sheaf).limit < r.n) :
    s.sheafTake r = (s.bankFault r.sheaf 4 (r.from?.map (·.1)), some .outOfRange) := by
  simp only [State.sheafTake, if_pos h]

theorem sheafTake_nothing (h : r.n = 0) : s.sheafTake r = (s, some .done) := by
  simp only [State.sheafTake, h, Nat.not_lt_zero, if_false, if_true]

theorem sheafTake_now (hpos : 0 < r.n) (hlim : r.n ≤ (s.sheaf r.sheaf).limit) (hnone : (s.sheaf r.sheaf).waiters = [])
    (hval : r.n ≤ (s.sheaf r.sheaf).value) :
    s.sheafTake r = (s.modSheaf r.sheaf fun h => { h with value := h.value - r.n }, some .done) := by
  simp only [State.sheafTake, if_neg (Nat.not_lt.2 hlim), if_neg (Nat.ne_of_gt hpos), hnone, List.isEmpty_nil, hval, decide_true,
    Bool.and_self, if_true]

theorem sheafTake_waits {c x : Nat} (hpos : 0 < r.n) (hlim : r.n ≤ (s.sheaf r.sheaf).limit)
    (hwait : (s.sheaf r.sheaf).waiters ≠ [] ∨ (s.sheaf r.sheaf).value < r.n) (hfrom : r.from? = some (c, x)) :
    s.sheafTake r = (s.modSheaf r.sheaf fun h => { h with
      waiters := h.waiters ++ [{ core := c, ctx := x, n := r.n, sig := r.sig }] }, none) := by
  have hnot : ((s.sheaf r.sheaf).waiters.isEmpty && decide (r.n ≤ (s.sheaf r.sheaf).value)) = false := by
    rcases hwait with h | h
    · simp [h]
    · simp [h]
  simp only [State.sheafTake, if_neg (Nat.not_lt.2 hlim), if_neg (Nat.ne_of_gt hpos), hnot, Bool.false_eq_true, if_false, hfrom,
    Option.getD_some]

end

/-! ### What a fault and an answer leave (R359, R367) -/

/-- A bank with the fault recorded (R367). -/
def Bank.faulted (sheaf kind : Nat) (core : Option Nat) (b : Bank) : Bank :=
  { b with fvalid := true, fkind := kind, fremote := core.isNone, fsheaf := sheaf, fcore := core.getD 0, fcount := inc 7 b.fcount }

theorem bankFault_eq (s : State) (i kind : Nat) (core : Option Nat) :
    s.bankFault i kind core = s.modBank (sheafBank i) (.faulted i kind core) := rfl

theorem sheaf_of_table {s t : State} (h : t.sheaves.sheaf = s.sheaves.sheaf) (i : Nat) : t.sheaf i = s.sheaf i := by
  rw [State.sheaf, h, State.sheaf]

theorem bank_of_table {s t : State} (h : t.sheaves.bank = s.sheaves.bank) (k : Nat) : t.bank k = s.bank k := by
  rw [State.bank, h, State.bank]

theorem serve_table (s : State) (i : Nat) : (s.serve i).sheaves.sheaf = (s.modSheaf i Sheaf.served).sheaves.sheaf := by
  rw [serve_sheaves]

theorem serve_bank (s : State) (i k : Nat) : (s.serve i).bank k = s.bank k :=
  bank_of_table (by rw [serve_sheaves]; rfl) k

section
variable {l : List SheafAns} {s u : State} {r : BankReq} {c x : Nat}

/-- A sequencer's operation is answered after whatever the bank has done. -/
theorem Answers.reply (h : Answers l s u) (hfrom : r.from? = some (c, x)) (hx : x < 16) (st : Status) (data : List Byte) :
    Answers (l ++ [r.answer c x st]) s (u.bankReply r st data) := by
  rw [bankReply_eq hfrom hx]
  exact h.trans (bankAnswer_answers u c x r.op.code st r.sig)

theorem bankReply_sheaves (hfrom : r.from? = some (c, x)) (hx : x < 16) (st : Status) (data : List Byte) :
    (u.bankReply r st data).sheaves = u.sheaves := by
  rw [bankReply_eq hfrom hx, bankAnswer_sheaves]

/-- The last answer that has set out waits last at its node. -/
theorem Answers.last {a : SheafAns} {t : State} (h : Answers (l ++ [a]) s t) :
    (tget t.fab.net [] (18 + a.core / 4)).getLast? = some (wakeMsg a) := by
  rw [h.net, List.filter_append, List.map_append, ← List.append_assoc]
  simp

end

/-! ### A TAKE has waited too long (R358, R367) -/

/-- The state of a sheaf and its bank when a TAKE leaves the queue without what it asked for (R358, R367). -/
def State.takeGone (s : State) (k i c : Nat) (w : Waiter) : State :=
  ((s.modSheaf i fun h => { h with waiters := h.waiters.erase w }).bankFault i 3 (some c)).modBank k fun b =>
    { b with stalls := inc 16 b.stalls }

theorem exec_takeTimeout {s : State} {k c x i : Nat} {w : Waiter} (hw : s.waitsAt k c x = some (i, w))
    (hlim : (s.sheaf i).wlim ≠ 0) : exec (.takeTimeout k c x) s
      = .next (((s.takeGone k i c w).raise (ntSheafStall k)).bankAnswer c x 0x10 .timedOut w.sig) := by
  have hb : ((s.sheaf i).wlim != 0) = true := by simpa using hlim
  show execTakeTimeout k c x s = _
  simp only [execTakeTimeout, hw, hb, act_true]
  rfl

theorem takeGone_bank (s : State) {k i : Nat} (hk : sheafBank i = k) (c : Nat) (w : Waiter) : (s.takeGone k i c w).bank k =
    { (s.bank k).faulted i 3 (some c) with stalls := inc 16 (s.bank k).stalls } := by
  rw [State.takeGone, State.bank_modBank, bankFault_eq, hk, State.bank_modBank]
  rfl

theorem takeGone_table (s : State) (k i c : Nat) (w : Waiter) : (s.takeGone k i c w).sheaves.sheaf
    = (s.modSheaf i fun h => { h with waiters := h.waiters.erase w }).sheaves.sheaf := rfl

/-- What notices leave behind comes beside the answers. -/
theorem Answers.then_same {l : List SheafAns} {s u t : State} (h : Answers l s u) (k : SameButSignals u t) :
    SameButSignals { s with sheaves := t.sheaves, fab := { s.fab with net := t.fab.net } } t := by
  have hsheaves : t.sheaves = u.sheaves := by rw [k]
  rw [hsheaves, k.fab, ← show u = _ from h.only]
  exact k

theorem bankAnswer_signals {s t : State} (h : SameButSignals s t) (core ctx op : Nat) (st : Status) (sig : BitVec 16) :
    SameButSignals (s.bankAnswer core ctx op st sig) (t.bankAnswer core ctx op st sig) := by
  rw [h]
  rfl

theorem takeTimeout_result {s : State} {k c x i : Nat} {w : Waiter} (hw : s.waitsAt k c x = some (i, w))
    (hlim : (s.sheaf i).wlim ≠ 0) (hk : sheafBank i = k) :
    ∃ t, exec (.takeTimeout k c x) s = .next t ∧
      t.sheaf i = { s.sheaf i with waiters := (s.sheaf i).waiters.erase w } ∧ (∀ j, j ≠ i → t.sheaf j = s.sheaf j) ∧
      t.bank k = { (s.bank k).faulted i 3 (some c) with stalls := inc 16 (s.bank k).stalls } ∧
      Answers [{ core := c, ctx := x, op := 0x10, status := .timedOut, sig := w.sig }] s
        ((s.takeGone k i c w).bankAnswer c x 0x10 .timedOut w.sig) ∧
      SameButSignals ((s.takeGone k i c w).bankAnswer c x 0x10 .timedOut w.sig) t := by
  have hgone : Answers [] s (s.takeGone k i c w) := .of_sheaves rfl
  have hsame := bankAnswer_signals (raise_same (s.takeGone k i c w) (ntSheafStall k)) c x 0x10 .timedOut w.sig
  have hsheaves : (((s.takeGone k i c w).raise (ntSheafStall k)).bankAnswer c x 0x10 .timedOut w.sig).sheaves
      = (s.takeGone k i c w).sheaves := by
    rw [hsame]
    rfl
  refine ⟨_, exec_takeTimeout hw hlim, ?_, fun j hj => ?_, ?_, hgone.trans (bankAnswer_answers _ c x 0x10 .timedOut w.sig), hsame⟩
  · rw [sheaf_of_sheaves hsheaves, sheaf_of_table (takeGone_table s k i c w), State.sheaf_modSheaf]
  · rw [sheaf_of_sheaves hsheaves, sheaf_of_table (takeGone_table s k i c w), State.sheaf_modSheaf_ne _ _ hj]
  · rw [bank_of_sheaves hsheaves, takeGone_bank s hk]

/-! ### The obligation on the operations of a bank -/

section
variable {s : State} {k c x : Nat} {r : BankReq} {l : List BankReq}

theorem holding_bank (s : State) (k : Nat) (l : List BankReq) : (s.modBank k (.holding l)).bank k = { s.bank k with inbox := l } :=
  State.bank_modBank s k _

theorem holding_sheaf (s : State) (k : Nat) (l : List BankReq) (i : Nat) : (s.modBank k (.holding l)).sheaf i = s.sheaf i := rfl

/-- An operation that moves its sheaf alone is answered (R355, R359). -/
theorem moved_answered (s : State) (k : Nat) (l : List BankReq) (hfrom : r.from? = some (c, x)) (hx : x < 16) (f : Sheaf → Sheaf)
    (st : Status) {t : State} (ht : t = ((s.modBank k (.holding l)).modSheaf r.sheaf f).bankReply r st []) :
    t.bank k = { s.bank k with inbox := l } ∧ t.sheaf r.sheaf = f (s.sheaf r.sheaf) ∧
      (∀ j, j ≠ r.sheaf → t.sheaf j = s.sheaf j) ∧ Answered s t (r.answer c x st) := by
  have hsheaves := bankReply_sheaves (u := (s.modBank k (.holding l)).modSheaf r.sheaf f) hfrom hx st []
  subst ht
  refine ⟨?_, ?_, fun j hj => ?_, answers_one.1 ((Answers.of_sheaves rfl).reply hfrom hx st [])⟩
  · rw [bank_of_sheaves hsheaves]
    exact holding_bank s k l
  · rw [sheaf_of_sheaves hsheaves, State.sheaf_modSheaf, holding_sheaf]
  · rw [sheaf_of_sheaves hsheaves, State.sheaf_modSheaf_ne _ _ hj, holding_sheaf]

/-- An operation that faults moves no sheaf, and is answered (R355, R359, R367). -/
theorem fault_answered (s : State) (l : List BankReq) (hfrom : r.from? = some (c, x)) (hx : x < 16) (hk : sheafBank r.sheaf = k)
    (kind : Nat) (st : Status) {t : State}
    (ht : t = ((s.modBank k (.holding l)).bankFault r.sheaf kind (r.from?.map (·.1))).bankReply r st []) :
    t.sheaves.sheaf = s.sheaves.sheaf ∧ t.bank k = Bank.faulted r.sheaf kind (some c) { s.bank k with inbox := l } ∧
      Answered s t (r.answer c x st) := by
  have hsheaves := bankReply_sheaves (u := (s.modBank k (.holding l)).bankFault r.sheaf kind (r.from?.map (·.1))) hfrom hx st []
  subst ht
  refine ⟨?_, ?_, answers_one.1 ((Answers.of_sheaves rfl).reply hfrom hx st [])⟩
  · rw [hsheaves]
    rfl
  · rw [bank_of_sheaves hsheaves, bankFault_eq, hk, State.bank_modBank, holding_bank, hfrom]
    rfl

/-- ADD within LIMIT (R355, R357). -/
theorem bankAdd_within (hin : (s.bank k).inbox = r :: l) (hrun : s.bistHolds 2 k = false) (hup : s.fieldUp k = true)
    (hop : r.op = .add) (hfrom : r.from? = some (c, x)) (hx : x < 16)
    (hfit : (s.sheaf r.sheaf).value + r.n ≤ (s.sheaf r.sheaf).limit) :
    ∃ t, exec (.bankAdd k) s = .next t ∧ t.bank k = { s.bank k with inbox := l } ∧
      t.sheaves.sheaf = ((s.modSheaf r.sheaf fun h => { h with value := h.value + r.n }).serve r.sheaf).sheaves.sheaf ∧
      (tget t.fab.net [] (18 + c / 4)).getLast? = some (wakeMsg (r.answer c x .done)) ∧
      t = { s with sheaves := t.sheaves, fab := { s.fab with net := t.fab.net } } := by
  rw [← holding_sheaf s k l] at hfit
  have hadded : Answers [] s ((s.modBank k (.holding l)).modSheaf r.sheaf fun h => { h with value := h.value + r.n }) := .of_sheaves rfl
  have hreply := (hadded.trans (serve_answers _ r.sheaf)).reply hfrom hx .done []
  refine ⟨_, exec_bankAdd hin hrun hup hop (sheafAdd_within hfit _), ?_, ?_, hreply.last, hreply.only⟩
  · rw [bank_of_sheaves (bankReply_sheaves hfrom hx _ _), serve_bank]
    exact holding_bank s k l
  · rw [bankReply_sheaves hfrom hx, serve_table, serve_table]
    rfl

end

/-- Settles O26: each operation by the lemma of what it makes of its sheaf, and its answer by what `bankReply` sends. -/
theorem banksPerformOperations : Obligations.BanksPerformOperations := by
  unfold Obligations.BanksPerformOperations
  refine ⟨fun k c x r l s hin hrun hup hfrom hx hk => ?_, fun k w p r l s hin hrun hup hop hfrom hpkt hread => ?_,
    fun k c x i w s hw hlim hk => ?_⟩
  · have hsheaf (i : Nat) := holding_sheaf s k l i
    have hcode (st : Status) : r.answer c x st = { core := c, ctx := x, op := r.op.code, status := st, sig := r.sig } := rfl
    refine ⟨fun hop hfit => ?_, fun hop hover => ?_, fun hop hfit => ?_, fun hop hover => ?_,
      fun hop habove => ?_, fun hop hpos hlim hnone hval => ?_, fun hop hzero => ?_, fun hop hpos hlim hwait => ?_⟩
    all_goals rw [hop] at hcode
    · exact hcode .done ▸ bankAdd_within hin hrun hup hop hfrom hx hfit
    · rw [← hsheaf] at hover
      obtain ⟨hstay, hbank, hsent⟩ := fault_answered s l hfrom hx hk 1 .outOfRange rfl
      exact ⟨_, exec_bankAdd hin hrun hup hop (sheafAdd_beyond hover _), hstay, hbank, hcode _ ▸ hsent⟩
    · rw [← hsheaf] at hfit
      obtain ⟨hbank, hmoved, hothers, hsent⟩ := moved_answered s k l hfrom hx (fun h => { h with value := h.value - r.n }) .done rfl
      exact ⟨_, exec_bankDrain hin hrun hup hop (sheafDrain_within hfit _), hbank, hmoved, hothers, hcode _ ▸ hsent⟩
    · rw [← hsheaf] at hover
      obtain ⟨hstay, hbank, hsent⟩ := fault_answered s l hfrom hx hk 2 .outOfRange rfl
      exact ⟨_, exec_bankDrain hin hrun hup hop (sheafDrain_beyond hover _), hstay, congrArg Bank.fkind hbank, hcode _ ▸ hsent⟩
    · rw [← hsheaf] at habove
      obtain ⟨hstay, hbank, hsent⟩ := fault_answered s l hfrom hx hk 4 .outOfRange rfl
      exact ⟨_, exec_bankTake_answered hin hrun hup hop (sheafTake_above habove), hstay, congrArg Bank.fkind hbank, hcode _ ▸ hsent⟩
    · rw [← hsheaf] at hlim hnone hval
      obtain ⟨hbank, hmoved, hothers, hsent⟩ := moved_answered s k l hfrom hx (fun h => { h with value := h.value - r.n }) .done rfl
      exact ⟨_, exec_bankTake_answered hin hrun hup hop (sheafTake_now hpos hlim hnone hval), hbank, hmoved, hothers, hcode _ ▸ hsent⟩
    · have hsent : Answers [] s (s.modBank k (.holding l)) := .of_sheaves rfl
      refine ⟨_, exec_bankTake_answered hin hrun hup hop (sheafTake_nothing hzero), ?_,
        hcode _ ▸ answers_one.1 (hsent.reply hfrom hx .done [])⟩
      rw [bankReply_sheaves hfrom hx]
      rfl
    · rw [← hsheaf] at hlim hwait
      refine ⟨_, exec_bankTake_waits hin hrun hup hop (sheafTake_waits hpos hlim hwait hfrom), holding_bank s k l, ?_,
        fun j hj => ?_, rfl, rfl⟩
      · rw [State.sheaf_modSheaf, hsheaf]
      · rw [State.sheaf_modSheaf_ne _ _ hj, hsheaf]
  · rw [exec_bankRead hin hrun hup hop, bankReply_packet hfrom hpkt, hread]
    rfl
  · obtain ⟨t, hexec, hsheaf, hothers, hbank, hsent, hsame⟩ := takeTimeout_result hw hlim hk
    refine ⟨t, hexec, hsheaf, hothers, by rw [hbank], by rw [hbank]; rfl, ?_, hsent.then_same hsame⟩
    rw [hsame.fab]
    exact (answers_one.1 hsent).1

end Sys2Proof.Machine
end

section
/-! SUPPORT. The commands that set, read, add to and force a sheaf, and the register that forces one (10). -/

namespace Sys2Proof.Machine

open Sys2Proof Sys2Proof.Safety

/-! ### What is pending stays so (R460) -/

theorem latchPend_keeps_pend (s : State) (src : Nat) {i : Nat} (h : s.notices.pend.getLsbD i = true) :
    (s.latchPend src).notices.pend.getLsbD i = true := by
  by_cases hi : i = src
  · subst hi
    exact setBit512_self _ (BitVec.lt_of_getLsbD h)
  · exact (setBit512_ne _ true hi).trans h

theorem sense_keeps_pend (s : State) (src : Nat) (s0 : State) {i : Nat} (h : s.notices.pend.getLsbD i = true) :
    (s.sense src s0).notices.pend.getLsbD i = true := by
  have hlatch : ∀ c : Bool, (if c then s.latchPend src else s).notices.pend.getLsbD i = true := by
    intro c
    cases c
    · exact h
    · exact latchPend_keeps_pend s src h
  unfold State.sense
  dsimp only
  split
  · rw [logRise_notices]
    exact hlatch _
  · exact hlatch _

theorem freeHopper_notices (s : State) (o : Origin) : (s.freeHopper o).notices = s.notices := by
  unfold State.freeHopper
  split <;> rfl

theorem complete_keeps_pend (s : State) (o : Origin) (opcode : Nat) (st : Status) (res : List Byte) {i : Nat}
    (h : s.notices.pend.getLsbD i = true) : (s.complete o opcode st res).notices.pend.getLsbD i = true := by
  unfold State.complete
  dsimp only
  split
  · exact h
  · rw [freeHopper_notices]
    split
    · exact h
    · exact sense_keeps_pend (s.queueRecord _) ntRingFull s h

/-! ### VALUE is set (R357, R363, R364) -/

theorem setSheaf_sheaf (s : State) (i v : Nat) : (s.setSheaf i v).sheaf i = { s.sheaf i with
    value := (serveList v (s.sheaf i).waiters).2.1, waiters := (serveList v (s.sheaf i).waiters).2.2 } := by
  rw [State.setSheaf, serve_sheaf, State.sheaf_modSheaf]
  rfl

theorem setSheaf_sheaf_ne (s : State) {i j : Nat} (h : j ≠ i) (v : Nat) : (s.setSheaf i v).sheaf j = s.sheaf j := by
  rw [State.setSheaf, serve_sheaf_ne _ h, State.sheaf_modSheaf_ne _ _ h]

theorem setSheaf_force (s : State) (i v : Nat) : (s.setSheaf i v).sheaves.forceVal = s.sheaves.forceVal ∧
    (s.setSheaf i v).sheaves.forceSheaf = s.sheaves.forceSheaf := by
  rw [State.setSheaf, serve_sheaves]
  exact ⟨rfl, rfl⟩

theorem setSheaf_frame (s : State) (i v : Nat) : s.setSheaf i v = { s with
    sheaves := (s.setSheaf i v).sheaves, fab := { s.fab with net := (s.setSheaf i v).fab.net } } := by
  have hset : Answers [] s (s.modSheaf i fun h => { h with value := v }) := .of_sheaves rfl
  exact (hset.trans (serve_answers _ i)).only

/-! ### The commands (R363, R364, R425) -/

section
variable {s : State} {i : Nat} {v m : W32}

theorem sheafChecks_pass (hi : i < 16384) (hup : s.fieldUp (sheafBank i) = true) : firstFail (s.sheafChecks i) = none := by
  simp [State.sheafChecks, firstFail, hi, hup]

theorem exec_sheafInit_passes (hi : i < 16384) (hup : s.fieldUp (sheafBank i) = true) (hvm : v.toNat ≤ m.toNat)
    (hnone : (s.sheaf i).waiters = []) (o : Origin) (w : BitVec 16) :
    exec (.sheafInit o i v m w) s = .next ((s.modSheaf i fun h =>
      { h with value := v.toNat, limit := m.toNat, wlim := w.toNat }).complete o 0x60 .done []) := by
  show execSheafInit o i v m w s = _
  rw [execSheafInit, command_passes]
  simp [firstFail, Nat.not_le.2 hi, hup, Nat.not_lt.2 hvm, hnone]

theorem exec_sheafInit_badField (hi : i < 16384) (hvm : m.toNat < v.toNat) (o : Origin) (w : BitVec 16) :
    exec (.sheafInit o i v m w) s = .next (s.complete o 0x60 .badField []) := by
  show execSheafInit o i v m w s = _
  rw [execSheafInit, command_turned_away]
  simp [firstFail, hi, hvm]

theorem exec_sheafInit_waited (hi : i < 16384) (hup : s.fieldUp (sheafBank i) = true) (hvm : v.toNat ≤ m.toNat)
    (hwait : (s.sheaf i).waiters ≠ []) (o : Origin) (w : BitVec 16) :
    exec (.sheafInit o i v m w) s = .next (s.complete o 0x60 .wrongState []) := by
  show execSheafInit o i v m w s = _
  rw [execSheafInit, command_turned_away]
  simp [firstFail, Nat.not_le.2 hi, hup, Nat.not_lt.2 hvm, hwait]

theorem exec_sheafRead (hchecks : firstFail (s.sheafChecks i) = none) (o : Origin) :
    exec (.sheafRead o i) s = .next (s.complete o 0x61 .done
      (leBytes 4 (s.sheaf i).value ++ leBytes 4 (s.sheaf i).limit ++ leBytes 2 (s.sheaf i).wlim
        ++ leBytes 2 (s.sheaf i).waiters.length)) := by
  show execSheafRead o i s = _
  rw [execSheafRead, command_passes hchecks]

theorem exec_sheafAdd (hchecks : firstFail (s.sheafChecks i) = none) {x : State × Status} (hx : s.sheafAdd i v.toNat none = x)
    (o : Origin) : exec (.sheafAdd o i v) s = .next (x.1.complete o 0x62 x.2 []) := by
  show execSheafAdd o i v s = _
  simp only [execSheafAdd, hchecks, hx]

end

/-! ### A sheaf is forced (R364, R562) -/

/-- The registers of SHEAF_FORCE hold what is forced (R364, R367). -/
def State.noteForce (s : State) (i : Nat) (v : W32) : State :=
  { s with sheaves := { s.sheaves with forceVal := v, forceSheaf := i } }

theorem exec_sheafForce {s : State} {i : Nat} (hi : i < 16384) (hup : s.fieldUp (sheafBank i) = true)
    (hserve : s.warden.serving = true) (hsign : s.warden.attest = none) (hlife : s.lifeRefuses 0xEA = false) (o : Origin)
    (v : W32) : ∃ data, exec (.sheafForce o i v) s = .next ((((((s.takeProxy o).log 0x0060 3 ntSheafForced data).noteForce i v).setSheaf
      i v.toNat).raise ntSheafForced).complete o 0xEA .done []) := by
  have hchecks : firstFail ((s.takeProxy o).sheafChecks i) = none := sheafChecks_pass hi hup
  refine ⟨leBytes 2 i ++ leBytes 4 (s.sheaf i).value ++ leBytes 4 v.toNat
    ++ [BitVec.ofNat 8 (pathCode (viaPath o.via)), BitVec.ofNat 8 (if o.mbox then 0 else o.hopper)], ?_⟩
  show execSheafForce o i v s = _
  rw [execSheafForce, proxy_takes_up hserve hsign hlife, command_passes hchecks]
  rfl

/-- What differs by notices alone still does when the sheaves and what waits on the narrow net are set alike. -/
theorem setNet_signals {s t : State} (h : SameButSignals s t) (x : Sheaves) (y : Tbl (List NetMsg)) :
    SameButSignals { s with sheaves := x, fab := { s.fab with net := y } } { t with sheaves := x, fab := { t.fab with net := y } } := by
  rw [h]
  rfl

theorem sheafForce_result {s : State} {i : Nat} (hi : i < 16384) (hup : s.fieldUp (sheafBank i) = true)
    (hserve : s.warden.serving = true) (hsign : s.warden.attest = none) (hlife : s.lifeRefuses 0xEA = false) (o : Origin)
    (v : W32) :
    ∃ t, exec (.sheafForce o i v) s = .next t ∧ t.sheaves.forceVal = v ∧ t.sheaves.forceSheaf = i ∧
      t.sheaf i = { s.sheaf i with
        value := (serveList v.toNat (s.sheaf i).waiters).2.1, waiters := (serveList v.toNat (s.sheaf i).waiters).2.2 } ∧
      (∀ j, j ≠ i → t.sheaf j = s.sheaf j) ∧ t.notices.pend.getLsbD ntSheafForced = true ∧
      SameButRecord { s with sheaves := t.sheaves, bridge := (s.takeProxy o).bridge
                             fab := { s.fab with net := t.fab.net } } t := by
  obtain ⟨data, hexec⟩ := exec_sheafForce hi hup hserve hsign hlife o v
  have hlog : SameButSignals (s.takeProxy o) ((s.takeProxy o).log 0x0060 3 ntSheafForced data) := log_same _ _ _ _ _
  generalize (s.takeProxy o).log 0x0060 3 ntSheafForced data = u at hexec hlog
  have hsheaves : u.sheaves = s.sheaves := by rw [hlog]; rfl
  have hnoted (j : Nat) : (u.noteForce i v).sheaf j = s.sheaf j :=
    sheaf_of_table (by rw [← hsheaves]; rfl) j
  have hraise := raise_same ((u.noteForce i v).setSheaf i v.toNat) ntSheafForced
  have hlast := complete_same (((u.noteForce i v).setSheaf i v.toNat).raise ntSheafForced) o 0xEA .done []
  have hpend := complete_keeps_pend _ o 0xEA .done [] (raise_pend ((u.noteForce i v).setSheaf i v.toNat) (src := ntSheafForced) (by decide))
  generalize (((u.noteForce i v).setSheaf i v.toNat).raise ntSheafForced).complete o 0xEA .done [] = t at hexec hlast hpend
  have hset : t.sheaves = ((u.noteForce i v).setSheaf i v.toNat).sheaves := by rw [hlast, hraise]
  have hfab : t.fab = ((u.noteForce i v).setSheaf i v.toNat).fab := by rw [hlast, hraise]
  obtain ⟨hval, hsheaf⟩ := setSheaf_force (u.noteForce i v) i v.toNat
  refine ⟨t, hexec, by rw [hset, hval]; rfl, by rw [hset, hsheaf]; rfl, ?_, fun j hj => ?_, hpend, ?_⟩
  · rw [sheaf_of_sheaves hset, setSheaf_sheaf, hnoted]
  · rw [sheaf_of_sheaves hset, setSheaf_sheaf_ne _ hj, hnoted]
  · have hforced := setNet_signals hlog t.sheaves t.fab.net
    rw [hset, hfab] at hforced ⊢
    have hframe := setSheaf_frame (u.noteForce i v) i v.toNat
    exact ((hframe ▸ hforced : SameButSignals _ ((u.noteForce i v).setSheaf i v.toNat)).record.trans hraise.record).trans hlast

/-! ### SHEAF_FORCE GO (R364) -/

section
variable {s : State} {off : Nat} {d : W32}

theorem applyWrite_wd (hoff : blockOf off = some (.wd, 0x300)) :
    s.applyWrite off d = if s.forceDropped 0x300 d then (s, .wrongState) else (s.wdWrite 0x300 d, .done) := by
  simp only [State.applyWrite, hoff]

theorem forceDropped_go (hgo : d.getLsbD 31 = true) : s.forceDropped 0x300 d = !s.fieldUp (sheafBank (d.toNat % 16384)) := by
  simp only [State.forceDropped, hgo, decide_true, Bool.and_self, Bool.true_and]

theorem wdWrite_go (hgo : d.getLsbD 31 = true) : s.wdWrite 0x300 d
    = ((s.noteForce (d.toNat % 16384) s.sheaves.forceVal).setSheaf (d.toNat % 16384) s.sheaves.forceVal.toNat).raise ntSheafForced := by
  have hne : ¬((0x300 : Nat) = 0x304) := by decide
  simp only [State.wdWrite, if_neg hne, if_true, hgo]
  rfl

end

/-- Settles O27: each command by its checks and its effect, a forced sheaf by what setting VALUE serves. -/
theorem sheafCommandsTakeEffect : Obligations.SheafCommandsTakeEffect := by
  unfold Obligations.SheafCommandsTakeEffect
  refine ⟨fun o i v m w s hi hup => ?_, fun i d off s hoff hgo hi => ⟨fun hdown => ?_, fun hup => ?_⟩⟩
  · have hchecks := sheafChecks_pass hi hup
    exact ⟨fun hvm hnone => exec_sheafInit_passes hi hup hvm hnone o w, fun hvm => exec_sheafInit_badField hi hvm o w,
      fun hvm hwait => exec_sheafInit_waited hi hup hvm hwait o w, exec_sheafRead hchecks o,
      fun hfit => exec_sheafAdd hchecks (sheafAdd_within hfit none) o, fun hover => exec_sheafAdd hchecks (sheafAdd_beyond hover none) o,
      fun hserve hsign hlife => sheafForce_result hi hup hserve hsign hlife o v⟩
  · subst hi
    rw [applyWrite_wd hoff, forceDropped_go hgo, hdown]
    exact wroteReg_dropped s (by decide) .warden off
  · subst hi
    rw [applyWrite_wd hoff, forceDropped_go hgo, hup, Bool.not_true, if_neg Bool.false_ne_true, wdWrite_go hgo]
    refine ⟨?_, rfl⟩
    rw [State.sheaf, (raise_same _ ntSheafForced : SameButSignals _ _)]
    exact congrArg Sheaf.value (setSheaf_sheaf _ _ _)

end Sys2Proof.Machine
end

section
/-! SUPPORT. Sows (10): entries are loaded and cancelled, the entry that fires, what a RELEASE changes, and completions. -/

namespace Sys2Proof.Machine

open Sys2Proof Sys2Proof.Safety

/-! ### Commands that change sow tables alone -/

/-- A command that has changed sow tables alone leaves its record beside (R420, R429). -/
theorem complete_sows {s u : State} (hu : u = { s with sows := u.sows }) (o : Origin) (opcode : Nat) (st : Status)
    (res : List Byte) : (u.complete o opcode st res).sows = u.sows ∧
      SameButRecord { s with sows := (u.complete o opcode st res).sows } (u.complete o opcode st res) := by
  have hsame := complete_same u o opcode st res
  have hsows : (u.complete o opcode st res).sows = u.sows := by rw [hsame]
  refine ⟨hsows, ?_⟩
  rw [hsows, ← hu]
  exact hsame

theorem sowTab_of_sows {s t : State} (h : t.sows = s.sows) (k : Nat) : t.sowTab k = s.sowTab k := by
  rw [State.sowTab, h, State.sowTab]

/-! ### SOW_SET (R347, R351) -/

theorem exec_sowSet {s : State} {p : SowParams} (h : firstFail (s.sowChecks p) = none) (o : Origin) :
    exec (.sowSet o p) s = .next ((s.sowLoad p).complete o 0xA3 .done []) := by
  show execSowSet o p s = _
  rw [execSowSet, command_passes h]

theorem exec_sowSet_refused {s : State} {p : SowParams} {st : Status} (h : firstFail (s.sowChecks p) = some st) (o : Origin) :
    exec (.sowSet o p) s = .next (s.complete o 0xA3 st []) := by
  show execSowSet o p s = _
  rw [execSowSet, command_turned_away h]

/-- The entry that SOW_SET loads (R345, R349). -/
def State.sowEntryOf (s : State) (p : SowParams) : SowEntry where
  sowid := p.sowid
  idx := ((s.sowRun (sowKey p.table p.unitNo) p.sowid).map SowRun.loaded).getD 0
  kind := p.kind
  ft := p.ft
  ring := p.ring
  action := p.action
  lateLoad := decide (p.ft.toNat < s.ftCopy (sowNode p.table p.unitNo))

theorem sowLoad_sowTab (s : State) (p : SowParams) :
    (s.sowLoad p).sowTab (sowKey p.table p.unitNo) = s.sowTab (sowKey p.table p.unitNo) ++ [s.sowEntryOf p] := by
  rw [State.sowLoad, State.sowTab_modSow, State.sowEntryOf]
  cases s.sowRun (sowKey p.table p.unitNo) p.sowid <;> rfl

theorem sowLoad_sowTab_ne (s : State) (p : SowParams) {k : Nat} (h : k ≠ sowKey p.table p.unitNo) :
    (s.sowLoad p).sowTab k = s.sowTab k := by
  rw [State.sowLoad, State.sowTab_modSow_ne _ _ h]
  rfl

/-- The first entry of a sow opens it in its table (R351). -/
theorem sowLoad_opens {s : State} {p : SowParams} (h : s.sowRun (sowKey p.table p.unitNo) p.sowid = none) :
    (s.sowLoad p).sows.runs = s.sows.runs ++ [{ table := sowKey p.table p.unitNo, sowid := p.sowid, ring := p.ring, loaded := 1
                                                running := 0, ran := 0, doneCount := 0, first := none, late := false }] := by
  simp only [State.sowLoad, h]
  rfl

/-! ### SOW_CANCEL (R352) -/

/-- A sow reports a status for an entry that is gone, that of the earliest in load order (R351). -/
def SowRun.lose (st : Status) (r : SowRun) (e : SowEntry) : SowRun :=
  { r with first := match r.first with
      | none => some (e.idx, st)
      | some (i, st') => if e.idx < i then some (e.idx, st) else some (i, st') }

/-- A sow of table k after entries have left it without having fired (R352). -/
def SowRun.loseAll (k : Nat) (gone : List SowEntry) (st : Status) (r : SowRun) : SowRun :=
  if r.table == k then (gone.filter fun e => e.sowid == r.sowid).foldl (SowRun.lose st) r else r

theorem sowDrop_runs (s : State) (k : Nat) (p : SowEntry → Bool) (st : Status) :
    (s.sowDrop k p st).sows.runs = s.sows.runs.map (SowRun.loseAll k ((s.sowTab k).filter p) st) := rfl

theorem sowDrop_sowTab (s : State) (k : Nat) (p : SowEntry → Bool) (st : Status) :
    (s.sowDrop k p st).sowTab k = (s.sowTab k).filter fun e => !p e :=
  State.sowTab_modSow s k _

theorem sowDrop_sowTab_ne (s : State) {k i : Nat} (h : i ≠ k) (p : SowEntry → Bool) (st : Status) :
    (s.sowDrop k p st).sowTab i = s.sowTab i :=
  State.sowTab_modSow_ne s _ h

/-- What a sow that loses entries keeps. -/
theorem lose_foldl_keeps (st : Status) (l : List SowEntry) (r : SowRun) :
    (l.foldl (SowRun.lose st) r).table = r.table ∧ (l.foldl (SowRun.lose st) r).sowid = r.sowid ∧
      (l.foldl (SowRun.lose st) r).ran = r.ran := by
  induction l generalizing r with
  | nil => exact ⟨rfl, rfl, rfl⟩
  | cons e l ih => exact ih (r.lose st e)

/-- A sow that reports the status for one entry goes on reporting it, whatever else it loses. -/
theorem lose_foldl_reported {st : Status} (l : List SowEntry) {r : SowRun} (h : ∃ i, r.first = some (i, st)) :
    ∃ i, (l.foldl (SowRun.lose st) r).first = some (i, st) := by
  induction l generalizing r with
  | nil => exact h
  | cons e l ih =>
    obtain ⟨i, hi⟩ := h
    refine ih ?_
    rw [SowRun.lose, hi]
    dsimp only
    split
    · exact ⟨_, rfl⟩
    · exact ⟨_, rfl⟩

theorem lose_foldl_first {st : Status} {l : List SowEntry} (hl : l ≠ []) {r : SowRun} (h : r.first = none) :
    ∃ i, (l.foldl (SowRun.lose st) r).first = some (i, st) := by
  cases l with
  | nil => exact absurd rfl hl
  | cons e l => exact lose_foldl_reported l ⟨e.idx, by rw [SowRun.lose, h]⟩

theorem loseAll_keeps (k : Nat) (gone : List SowEntry) (st : Status) (r : SowRun) :
    (r.loseAll k gone st).table = r.table ∧ (r.loseAll k gone st).sowid = r.sowid ∧ (r.loseAll k gone st).ran = r.ran := by
  unfold SowRun.loseAll
  split
  · exact lose_foldl_keeps st _ r
  · exact ⟨rfl, rfl, rfl⟩

/-- A sow is found where it was after entries have left its table. -/
theorem sowDrop_sowRun (s : State) (k i : Nat) (p : SowEntry → Bool) (st : Status) (id : BitVec 16) :
    (s.sowDrop k p st).sowRun i id = (s.sowRun i id).map (SowRun.loseAll k ((s.sowTab k).filter p) st) := by
  have hsame : (fun r : SowRun => r.table == i && r.sowid == id) ∘ SowRun.loseAll k ((s.sowTab k).filter p) st
      = fun r : SowRun => r.table == i && r.sowid == id := by
    funext r
    obtain ⟨htable, hid, -⟩ := loseAll_keeps k ((s.sowTab k).filter p) st r
    simp only [Function.comp_apply, htable, hid]
  rw [State.sowRun, sowDrop_runs, List.find?_map, hsame, State.sowRun]

theorem sowRun_is {s : State} {k : Nat} {id : BitVec 16} {r : SowRun} (h : s.sowRun k id = some r) : r.table = k ∧ r.sowid = id := by
  have hp := List.find?_some (p := fun r : SowRun => r.table == k && r.sowid == id) h
  simpa using hp

/-- The sow of entries that are cancelled reports WRONG_STATE (R352). -/
theorem sowDrop_reports {s : State} {k : Nat} {id : BitVec 16} {r : SowRun} (hr : s.sowRun k id = some r) (hfirst : r.first = none)
    (hmem : ∃ e ∈ s.sowTab k, e.sowid = id) (st : Status) :
    ∃ r' i, (s.sowDrop k (fun e => e.sowid == id) st).sowRun k id = some r' ∧ r'.first = some (i, st) ∧ r'.ran = r.ran := by
  obtain ⟨htable, hid⟩ := sowRun_is hr
  obtain ⟨e, he, heid⟩ := hmem
  have hgone : ((s.sowTab k).filter fun e => e.sowid == id).filter (fun e => e.sowid == r.sowid) ≠ [] := by
    refine List.ne_nil_of_mem (a := e) ?_
    simp [he, heid, hid]
  obtain ⟨i, hi⟩ := lose_foldl_first (st := st) hgone hfirst
  refine ⟨_, i, by rw [sowDrop_sowRun, hr, Option.map_some], ?_, (loseAll_keeps _ _ _ r).2.2⟩
  rw [SowRun.loseAll, htable, beq_self_eq_true, if_pos rfl]
  exact hi

section
variable {s : State} {u : SowTable} {n : Nat} {id : BitVec 16}

theorem exec_sowCancel (hn : n < sowUnits u) (hup : s.sowUnitUp u n = true) (hrun : s.sowUnitHalted u n = false)
    (hmem : ∃ e ∈ s.sowTab (sowKey u n), e.sowid = id) (o : Origin) : exec (.sowCancel o u n id) s
      = .next ((s.sowDrop (sowKey u n) (fun e => e.sowid == id) .wrongState).complete o 0xA4 .done []) := by
  have hany : ((s.sowTab (sowKey u n)).any fun e => e.sowid == id) = true := by simpa using hmem
  show execSowCancel o u n id s = _
  rw [execSowCancel, command_passes]
  simp [firstFail, Nat.not_le.2 hn, hup, hrun, hany]

theorem exec_sowCancel_none (hn : n < sowUnits u) (hup : s.sowUnitUp u n = true) (hrun : s.sowUnitHalted u n = false)
    (hnone : ∀ e ∈ s.sowTab (sowKey u n), e.sowid ≠ id) (o : Origin) :
    exec (.sowCancel o u n id) s = .next (s.complete o 0xA4 .notPresent []) := by
  have hany : ((s.sowTab (sowKey u n)).any fun e => e.sowid == id) = false := by simpa using hnone
  show execSowCancel o u n id s = _
  rw [execSowCancel, command_turned_away]
  simp [firstFail, Nat.not_le.2 hn, hup, hrun, hany]

end

/-! ### The entry that fires (R348) -/

/-- Of two entries the one that fires first, the earlier loaded first. -/
def SowEntry.sooner (b : Option SowEntry) (e : SowEntry) : Option SowEntry :=
  match b with
  | none => some e
  | some x => if e.ft.toNat < x.ft.toNat then some e else some x

/-- An entry is what fires of a table at an instant: it is due, none before it is due as early, and none behind it earlier. -/
def Soonest (now : Nat) (l : List SowEntry) (e : SowEntry) : Prop :=
  ∃ a b, l = a ++ e :: b ∧ e.ft.toNat ≤ now ∧ (∀ x ∈ a, x.ft.toNat ≤ now → e.ft.toNat < x.ft.toNat) ∧
    (∀ x ∈ b, e.ft.toNat ≤ x.ft.toNat)

theorem Soonest.snoc {now : Nat} {l : List SowEntry} {e y : SowEntry} (h : Soonest now l e) (hy : e.ft.toNat ≤ y.ft.toNat) :
    Soonest now (l ++ [y]) e := by
  obtain ⟨a, b, rfl, hdue, hbefore, hbehind⟩ := h
  refine ⟨a, b ++ [y], by simp, hdue, hbefore, fun x hx => ?_⟩
  rcases List.mem_append.1 hx with hx | hx
  · exact hbehind x hx
  · rwa [List.mem_singleton.1 hx]

/-- No entry that is due comes before the one that fires. -/
theorem Soonest.le {now : Nat} {l : List SowEntry} {e x : SowEntry} (h : Soonest now l e) (hx : x ∈ l) (hdue : x.ft.toNat ≤ now) :
    e.ft.toNat ≤ x.ft.toNat := by
  obtain ⟨a, b, rfl, -, hbefore, hbehind⟩ := h
  rcases List.mem_append.1 hx with hx | hx
  · exact Nat.le_of_lt (hbefore x hx hdue)
  · rcases List.mem_cons.1 hx with rfl | hx
    · exact Nat.le_refl _
    · exact hbehind x hx

/-- An entry loaded last fires when it is due before each of the others that is due. -/
theorem soonest_last {now : Nat} {l : List SowEntry} {y : SowEntry} (hy : y.ft.toNat ≤ now)
    (h : ∀ x ∈ l, x.ft.toNat ≤ now → y.ft.toNat < x.ft.toNat) : Soonest now (l ++ [y]) y :=
  ⟨l, [], rfl, hy, h, fun _ hx => absurd hx List.not_mem_nil⟩

theorem sooner_foldl (now : Nat) (l : List SowEntry) :
    match (l.filter fun e => decide (e.ft.toNat ≤ now)).foldl SowEntry.sooner none with
    | none => ∀ x ∈ l, now < x.ft.toNat
    | some e => Soonest now l e := by
  induction l using List.reverseRecOn with
  | nil => exact fun _ hx => absurd hx List.not_mem_nil
  | append_singleton l y ih =>
    rw [List.filter_append, List.foldl_append]
    generalize (l.filter fun e => decide (e.ft.toNat ≤ now)).foldl SowEntry.sooner none = b at ih ⊢
    by_cases hy : y.ft.toNat ≤ now
    · rw [List.filter_cons_of_pos (by simpa using hy), List.filter_nil, List.foldl_cons, List.foldl_nil]
      cases b with
      | none => exact soonest_last hy fun x hx hdue => absurd hdue (Nat.not_le.2 (ih x hx))
      | some x =>
        rw [SowEntry.sooner]
        by_cases hlt : y.ft.toNat < x.ft.toNat
        · rw [if_pos hlt]
          exact soonest_last hy fun z hz hdue => Nat.lt_of_lt_of_le hlt (ih.le hz hdue)
        · rw [if_neg hlt]
          exact ih.snoc (Nat.le_of_not_lt hlt)
    · rw [List.filter_cons_of_neg (by simpa using hy), List.filter_nil, List.foldl_nil]
      cases b with
      | none =>
        intro x hx
        rcases List.mem_append.1 hx with hx | hx
        · exact ih x hx
        · rw [List.mem_singleton.1 hx]
          exact Nat.lt_of_not_le hy
      | some x =>
        obtain ⟨a, c, hl, hdue, hrest⟩ := ih
        exact Soonest.snoc ⟨a, c, hl, hdue, hrest⟩ (Nat.le_of_lt (Nat.lt_of_le_of_lt hdue (Nat.lt_of_not_le hy)))

theorem sowDue_soonest {s : State} {u : SowTable} {n : Nat} {e : SowEntry} (h : s.sowDue u n = some e) :
    Soonest (s.ftCopy (sowNode u n)) (s.sowTab (sowKey u n)) e := by
  have hfold := sooner_foldl (s.ftCopy (sowNode u n)) (s.sowTab (sowKey u n))
  have hdue : ((s.sowTab (sowKey u n)).filter fun e => decide (e.ft.toNat ≤ s.ftCopy (sowNode u n))).foldl SowEntry.sooner none
      = some e := h
  rw [hdue] at hfold
  exact hfold

theorem exec_sowEntryFire {s : State} {u : SowTable} {n : Nat} {e : SowEntry} (hdue : s.sowDue u n = some e)
    (hn : n < sowUnits u) (hvalid : s.ftValid (sowNode u n) = true) (hup : s.sowUnitUp u n = true)
    (hrun : s.sowUnitHalted u n = false) (hawake : u = .core → (s.core n).asleep = false) (late : Bool) :
    exec (.sowEntryFire u n late) s = .next (s.sowFire u n e late) := by
  have hready : (u != .core || !(s.core n).asleep) = true := by
    by_cases h : u = .core
    · simp [hawake h]
    · simp [h]
  show execSowEntryFire u n late s = _
  simp only [execSowEntryFire, hdue, hn, hvalid, hup, hrun, hready, decide_true, Bool.not_false, Bool.and_self, act_true]

/-! ### A RELEASE (R349, R350, R355) -/

/-- The entry that starts counts LATE (R349). -/
def State.startsLate (s : State) (e : SowEntry) (late : Bool) : Bool :=
  e.lateLoad || late || decide (e.ft.toNat + 3 ≤ s.now.toNat)

/-- A sow one of whose entries has started (R351). -/
def SowRun.start (k : Nat) (id : BitVec 16) (late : Bool) (r : SowRun) : SowRun :=
  if r.table == k && r.sowid == id then { r with running := r.running + 1, late := r.late || late } else r

/-- An entry is freed and its sow runs (R348). -/
def State.sowFreed (s : State) (k : Nat) (e : SowEntry) (late : Bool) : State :=
  let s1 := s.modSow k fun l => l.erase e
  { s1 with sows := { s1.sows with runs := s1.sows.runs.map (SowRun.start k e.sowid late) } }

/-- An entry has started, before its action (R348, R349). -/
def State.sowStart (s : State) (u : SowTable) (n : Nat) (e : SowEntry) (late : Bool) : State :=
  let freed := s.sowFreed (sowKey u n) e (s.startsLate e late)
  if s.startsLate e late then freed.countLate u n else freed

theorem sowFire_ends {s v : State} {u : SowTable} {n : Nat} {e : SowEntry} {late : Bool} {st : Status}
    (h : (s.sowStart u n e late).sowAct u n e = (v, some st)) :
    s.sowFire u n e late = v.sowResult (sowKey u n) e.sowid e.idx st := by
  show (match ((s.sowStart u n e late).sowAct u n e).2 with
    | some st => ((s.sowStart u n e late).sowAct u n e).1.sowResult (sowKey u n) e.sowid e.idx st
    | none => ((s.sowStart u n e late).sowAct u n e).1) = _
  rw [h]

section
variable (s : State) (n : Nat) (e : SowEntry) (late : Bool)

theorem sowFreed_sowTab (k : Nat) : (s.sowFreed k e late).sowTab k = (s.sowTab k).erase e :=
  State.sowTab_modSow s k fun l => l.erase e

theorem sowFreed_sowTab_ne {k i : Nat} (h : i ≠ k) : (s.sowFreed k e late).sowTab i = s.sowTab i :=
  State.sowTab_modSow_ne s (fun l => l.erase e) h

theorem sowStart_sows (u : SowTable) : (s.sowStart u n e late).sows = (s.sowFreed (sowKey u n) e (s.startsLate e late)).sows := by
  unfold State.sowStart State.countLate
  dsimp only
  split
  · cases u <;> rfl
  · rfl

/-- Of a station an entry that starts changes its count of LATE alone (R349, R366). -/
theorem sowStart_station : s.sowStart .station n e late = { s with
    sows := (s.sowStart .station n e late).sows, fab := { s.fab with st := (s.sowStart .station n e late).fab.st } } := by
  unfold State.sowStart
  dsimp only
  split <;> rfl

theorem sowStart_sowLate : ((s.sowStart .station n e late).sta n).sowLate
    = if s.startsLate e late then inc 16 (s.sta n).sowLate else (s.sta n).sowLate := by
  unfold State.sowStart
  dsimp only
  split
  · exact congrArg Station.sowLate (State.sta_modSta _ n _)
  · rfl

end

theorem sowAct_release {s : State} {u : SowTable} {n i m : Nat} {e : SowEntry} (hkind : e.kind = 4)
    (hadd : sheafAddOf (actionCmd e.action) = some (i, m)) (hi : i < 16384) (hup : s.fieldUp (sheafBank i) = true)
    {x : State × Status} (hx : s.sheafAdd i m none = x) : s.sowAct u n e = (x.1, some x.2) := by
  simp only [State.sowAct, hkind, hadd, if_neg (Nat.not_le.2 hi), hup, Bool.not_true, Bool.false_eq_true, if_false, hx]

/-- A sheaf for which no TAKE waits takes what is added to it (R355). -/
theorem serve_nobody {s : State} {i : Nat} (h : (s.sheaf i).waiters = []) (m : Nat) :
    (s.modSheaf i fun h => { h with value := h.value + m }).serve i = s.modSheaf i fun h => { h with value := h.value + m } := by
  have hdue : ((s.modSheaf i fun h => { h with value := h.value + m }).sheaf i).due = [] := by
    rw [State.sheaf_modSheaf, Sheaf.due]
    dsimp only
    rw [h]
    rfl
  rw [serve_eq, hdue, each_nil, State.modSheaf_twice]
  refine State.modSheaf_congr s ?_
  rw [Sheaf.served]
  dsimp only
  rw [h]
  rfl

theorem release_result {s : State} {n i m : Nat} {late : Bool} {e : SowEntry} (hkind : e.kind = 4)
    (hadd : sheafAddOf (actionCmd e.action) = some (i, m)) (hi : i < 16384) (hup : s.fieldUp (sheafBank i) = true)
    (hfit : (s.sheaf i).value + m ≤ (s.sheaf i).limit) (hnone : (s.sheaf i).waiters = []) :
    s.sowFire .station n e late = ((s.sowStart .station n e late).modSheaf i fun h => { h with value := h.value + m }).sowResult
      (64 + n) e.sowid e.idx .done := by
  have hframe := sowStart_station s n e late
  have hsheaf : (s.sowStart .station n e late).sheaf i = s.sheaf i := sheaf_of_sheaves (by rw [hframe]) i
  have hfield : (s.sowStart .station n e late).fieldUp (sheafBank i) = true := by
    rw [hframe]
    exact hup
  rw [← hsheaf] at hfit hnone
  have hadded := sheafAdd_within hfit none
  rw [serve_nobody hnone] at hadded
  exact sowFire_ends (sowAct_release hkind hadd hi hfield hadded)

/-! ### SOW_COMPLETION (R351, R352, R431) -/

theorem exec_sowCompletion {s : State} {u : SowTable} {n : Nat} {id : BitVec 16} {r : SowRun}
    (hr : s.sowRun (sowKey u n) id = some r) (hidle : r.running = 0) (hnone : ∀ e ∈ s.sowTab (sowKey u n), e.sowid ≠ id)
    (hplace : s.placeFree = true) : exec (.sowCompletion u n id) s
      = .next (({ s with sows := { s.sows with runs := s.sows.runs.erase r } } : State).sendRecord (s.sowRecord r)) := by
  obtain ⟨htable, hid⟩ := sowRun_is hr
  have hover : s.sowOver r = true := by
    rw [← htable, ← hid] at hnone
    simpa [State.sowOver, hidle] using hnone
  show execSowCompletion u n id s = _
  simp only [execSowCompletion, hr, hover, hplace, Bool.and_self, act_true]

/-! ### The obligation on sows -/

/-- Settles O24: a load and a cancellation by what they do to their table, the entry that fires by the walk over its table, and a
RELEASE by the start of its entry and the addition to its sheaf. -/
theorem sowsAreLoadedFiredAndCancelled : Obligations.SowsAreLoadedFiredAndCancelled := by
  unfold Obligations.SowsAreLoadedFiredAndCancelled
  refine ⟨fun o p s hchecks => ?_, fun o p st s hchecks => exec_sowSet_refused hchecks o,
    fun o u n id s hn hup hrun => ⟨fun hmem => ?_, fun hnone => exec_sowCancel_none hn hup hrun hnone o⟩,
    fun u n e s hdue => sowDue_soonest hdue,
    fun u n late e s hdue hn hvalid hup hrun hawake => exec_sowEntryFire hdue hn hvalid hup hrun hawake late,
    fun n i m late e s hdue hn hvalid hup hrun hkind hadd hi hfield hfit hnone => ?_,
    fun u n id r s hr hidle hnone hplace => ?_⟩
  · obtain ⟨hsows, hsame⟩ := complete_sows (s := s) (u := s.sowLoad p) rfl o 0xA3 .done []
    refine ⟨_, exec_sowSet hchecks o, ?_, fun k hk => ?_, fun hopen => ?_, hsame⟩
    · rw [sowTab_of_sows hsows, sowLoad_sowTab]
      rfl
    · rw [sowTab_of_sows hsows, sowLoad_sowTab_ne _ _ hk]
    · rw [hsows, sowLoad_opens hopen]
  · obtain ⟨hsows, hsame⟩ := complete_sows (s := s) (u := s.sowDrop (sowKey u n) (fun e => e.sowid == id) .wrongState) rfl o 0xA4 .done []
    refine ⟨_, exec_sowCancel hn hup hrun hmem o, ?_, fun k hk => ?_, fun r hr hfirst => ?_, hsame⟩
    · rw [sowTab_of_sows hsows, sowDrop_sowTab]
    · rw [sowTab_of_sows hsows, sowDrop_sowTab_ne _ hk]
    · rw [State.sowRun, hsows]
      exact sowDrop_reports hr hfirst hmem .wrongState
  · have hfire := exec_sowEntryFire hdue hn hvalid hup hrun nofun late
    have hsows := sowStart_sows s n e late .station
    have hframe := sowStart_station s n e late
    have hsheaves : (s.sowStart .station n e late).sheaves = s.sheaves := by rw [hframe]
    rw [release_result hkind hadd hi hfield hfit hnone] at hfire
    refine ⟨_, hfire, ?_, fun k hk => ?_, ?_, fun j hj => ?_, ?_, ?_⟩
    · exact (sowTab_of_sows hsows _).trans (sowFreed_sowTab s e _ _)
    · exact (sowTab_of_sows hsows _).trans (sowFreed_sowTab_ne s e _ hk)
    · exact (State.sheaf_modSheaf _ _ _).trans (by rw [sheaf_of_sheaves hsheaves])
    · exact (State.sheaf_modSheaf_ne _ _ hj).trans (sheaf_of_sheaves hsheaves j)
    · exact sowStart_sowLate s n e late
    · rw [hframe]
      rfl
  · have hsame := sendRecord_same { s with sows := { s.sows with runs := s.sows.runs.erase r } } (s.sowRecord r)
    refine ⟨_, exec_sowCompletion hr hidle hnone hplace, by rw [hsame], ?_, ?_⟩
    · rw [State.sendRecord, (sense_same _ ntRingFull _).bridge]
      rfl
    · have hsows := congrArg State.sows (show _ = _ from hsame)
      rw [hsows]
      exact hsame

end Sys2Proof.Machine
end

section
/-! SUPPORT. Field Time across a group (10): what an exchange makes of a member's root, and what a change of the time leaves. -/

namespace Sys2Proof.Machine

open Sys2Proof Sys2Proof.Safety

/-! ### The exchange in use (R336) -/

/-- Of two exchanges the one with the smaller delay. -/
def closer (b y : Int × Int) : Int × Int := if y.2 < b.2 then y else b

/-- The walk over the exchanges ends with one of them, and none of them has a smaller delay. -/
theorem closer_foldl (l : List (Int × Int)) (b : Int × Int) :
    l.foldl closer b ∈ b :: l ∧ ∀ y ∈ b :: l, (l.foldl closer b).2 ≤ y.2 := by
  induction l generalizing b with
  | nil => exact ⟨List.mem_singleton.2 rfl, fun y hy => by rw [List.mem_singleton.1 hy]; exact Int.le_refl _⟩
  | cons z l ih =>
    obtain ⟨hmem, hle⟩ := ih (closer b z)
    have hstep : (closer b z = b ∨ closer b z = z) ∧ (closer b z).2 ≤ b.2 ∧ (closer b z).2 ≤ z.2 := by
      unfold closer
      split
      · next h => exact ⟨.inr rfl, Int.le_of_lt h, Int.le_refl _⟩
      · next h => exact ⟨.inl rfl, Int.le_refl _, Int.not_lt.1 h⟩
    obtain ⟨hone, hb, hz⟩ := hstep
    refine ⟨?_, fun y hy => ?_⟩
    · rcases List.mem_cons.1 hmem with h | h
      · rw [List.foldl_cons, h]
        rcases hone with h | h <;> simp [h]
      · exact List.mem_cons_of_mem _ (List.mem_cons_of_mem _ h)
    · have hfirst := hle (closer b z) (List.mem_cons_self ..)
      rcases List.mem_cons.1 hy with rfl | hy
      · exact Int.le_trans hfirst hb
      · rcases List.mem_cons.1 hy with rfl | hy
        · exact Int.le_trans hfirst hz
        · exact hle y (List.mem_cons_of_mem _ hy)

/-- The exchange in use is one of those kept, and none of them has a smaller delay (R336). -/
theorem bestExchange_best {l : List (Int × Int)} (hl : l ≠ []) : bestExchange l ∈ l ∧ ∀ y ∈ l, (bestExchange l).2 ≤ y.2 := by
  cases l with
  | nil => exact absurd rfl hl
  | cons x r => exact closer_foldl r x

/-- A rate correction is at most 100 ppm (R337). -/
theorem slewFor_le (offset : Int) (free : Nat) : (slewFor offset free).natAbs ≤ 1000 := by
  unfold slewFor
  split
  · omega
  · split <;> omega

/-! ### A member takes an exchange (R336 to R338) -/

section
variable (x : Time) (offset delay : Int) (free : Nat)

/-- The last eight exchanges, this one among them. -/
def Time.recent : List (Int × Int) := ((offset, delay) :: x.history).take 8

/-- What an exchange measures, before the root is steered (R336). -/
def Time.measured : Time :=
  { x with
    t1 := none, history := x.recent offset delay, exch := inc 16 x.exch, offset := (bestExchange (x.recent offset delay)).1
    delay := (bestExchange (x.recent offset delay)).2
    good := if (bestExchange (x.recent offset delay)).1.natAbs ≤ 16 then x.good + 1 else 0 }

theorem exchange_best : ((x.exchange offset delay free).offset, (x.exchange offset delay free).delay)
    = bestExchange (x.recent offset delay) := by
  unfold Time.exchange Time.step
  dsimp only
  repeat' split
  all_goals rfl

theorem exchange_slew : (x.exchange offset delay free).slew = x.slew ∨
    (x.exchange offset delay free).slew = slewFor (bestExchange (x.recent offset delay)).1 free := by
  unfold Time.exchange Time.step
  dsimp only
  split
  · exact .inl rfl
  · split
    · exact .inr rfl
    · split <;> exact .inr rfl
    · split
      · split
        · exact .inl rfl
        · split
          · exact .inl rfl
          · split
            · exact .inr rfl
            · exact .inl rfl
      · split
        · exact .inr rfl
        · exact .inl rfl

variable {x}

theorem exchange_resync (hr : x.resync = true) : x.exchange offset delay free
    = { (x.measured offset delay).step (bestExchange (x.recent offset delay)).1 with resync := false } := by
  simp only [Time.exchange, hr, if_true]
  rfl

theorem exchange_sync (hs : x.sync = .sync) (hr : x.resync = false) : x.exchange offset delay free
    = { x.measured offset delay with slew := slewFor (bestExchange (x.recent offset delay)).1 free } := by
  simp only [Time.exchange, Time.measured, Time.recent, hr, hs, Bool.false_eq_true, if_false]
  rfl

theorem exchange_hold (hs : x.sync = .hold) (hr : x.resync = false)
    (hclose : (bestExchange (x.recent offset delay)).1.natAbs ≤ 16) : x.exchange offset delay free
    = { x.measured offset delay with slew := slewFor (bestExchange (x.recent offset delay)).1 free, sync := .sync } := by
  unfold Time.recent at hclose
  simp only [Time.exchange, Time.measured, Time.recent, hr, hs, Bool.false_eq_true, if_false, hclose, if_true]

/-- Before the fourth exchange a member in FREE only measures (R338). -/
theorem exchange_early (hs : x.sync = .free) (hr : x.resync = false) (hphase : x.freePhase = 0) (hfew : x.history.length < 3) :
    x.exchange offset delay free = x.measured offset delay := by
  have hshort : (((offset, delay) :: x.history).take 8).length < 4 := by
    rw [List.length_take, List.length_cons]
    omega
  simp only [Time.exchange, Time.measured, Time.recent, hr, hs, hphase, Bool.false_eq_true, if_false, if_true, hshort]
  rfl

theorem recent_ne_nil : x.recent offset delay ≠ [] := nofun

end

/-! ### A change of the time (R249, R251, R459) -/

/-- t is s but for memory, and notices, their log and the draws. -/
def MemoryOnly (s t : State) : Prop := SameButSignals { s with mem := t.mem } t

theorem MemoryOnly.refl (s : State) : MemoryOnly s s := rfl

theorem MemoryOnly.trans {s t u : State} (h : MemoryOnly s t) (k : MemoryOnly t u) : MemoryOnly s u := by
  unfold MemoryOnly SameButSignals at *
  rw [k, h]

theorem MemoryOnly.of_same {s t : State} (h : SameButSignals s t) : MemoryOnly s t := by
  unfold MemoryOnly
  rw [h.mem]
  exact h

theorem modMs_memory (s : State) (k : Nat) (f : MemStation → MemStation) : MemoryOnly s (s.modMs k f) := rfl

theorem shareSync_memory (s s0 : State) : MemoryOnly s (s.shareSync s0) := by
  unfold State.shareSync
  split
  · refine each_rel MemoryOnly.refl .trans _ (fun k u => ?_) s
    split
    · exact (modMs_memory u k _).trans (.of_same (capSense_same _ _ u))
    · exact .refl u
  · exact .refl s

theorem capSense_keeps_pend (s : State) (parts : List Nat) (s0 : State) {i : Nat} (h : s.notices.pend.getLsbD i = true) :
    (s.capSense parts s0).notices.pend.getLsbD i = true := by
  unfold State.capSense
  split
  · exact raise_keeps_pend s _ i h
  · exact h

theorem shareSync_keeps_pend (s s0 : State) {i : Nat} (h : s.notices.pend.getLsbD i = true) :
    (s.shareSync s0).notices.pend.getLsbD i = true := by
  unfold State.shareSync
  split
  · refine each_inv (fun u => u.notices.pend.getLsbD i = true) _ _ h fun k u hu => ?_
    split
    · exact capSense_keeps_pend (u.modMs k _) _ u hu
    · exact hu
  · exact h

/-- Of the state a change of the time changes the time, what the receipt shares hold of it, and what notices leave behind. -/
theorem setTime_same (s : State) (f : Time → Time) :
    SameButSignals { s with time := f s.time, mem := (s.setTime f).mem } (s.setTime f) :=
  MemoryOnly.trans (s := { s with time := f s.time }) (.of_same (sense_same _ ntFtUnsync s)) (shareSync_memory _ s)

theorem setTime_time (s : State) (f : Time → Time) : (s.setTime f).time = f s.time := (setTime_same s f).time

/-- The cause of FT_UNSYNC (R340, R459). -/
theorem cause_ftUnsync (s : State) : s.cause ntFtUnsync = (decide (s.time.sync = .free) && decide (s.time.role = .member)) := rfl

/-- A member that enters FREE has FT_UNSYNC pending (R340, R459). -/
theorem setTime_unsync {s : State} {f : Time → Time} (hwas : s.time.sync ≠ .free) (hfree : (f s.time).sync = .free)
    (hrole : (f s.time).role = .member) : (s.setTime f).notices.pend.getLsbD ntFtUnsync = true := by
  refine shareSync_keeps_pend _ s (sense_pend (by decide) ?_ ?_)
  · rw [cause_ftUnsync, hfree, hrole]
    rfl
  · rw [cause_ftUnsync, decide_eq_false hwas, Bool.false_and]

/-! ### CTL packets (R336, R406) -/

/-- Taking a CTL packet changes nothing but what waits at the host bridge. -/
theorem takeCtl_eq {s s1 : State} {op : Nat} {e : Nat × Packet × W64} (h : s.takeCtl op = some (e, s1)) :
    s1 = { s with bridge := { s.bridge with inbox := s1.bridge.inbox } } := by
  unfold State.takeCtl at h
  split at h
  · cases h
  · cases h
    rfl

section
variable {s s1 : State} {n : Nat} {p : Packet} {ft : W64}

theorem exec_beacon_master {peer : Nat} (hrole : s.time.role = .master) (hvalid : s.plat.valid = true)
    (hpeer : s.isSelf peer = false) :
    exec (.beacon peer) s = .next (s.sendGroup peer 0x88 (exchPayload s.now (s.now.toNat / 65536 % 65536))) := by
  show execBeacon peer s = _
  simp only [execBeacon, hrole, if_true, hvalid, hpeer, Bool.not_false, Bool.and_self, act_true]

theorem exec_beacon_member (hrole : s.time.role = .member) (htake : s.takeCtl 0x88 = some ((n, p, ft), s1))
    (hmaster : s.group.master = some (srcOf p)) (peer : Nat) :
    exec (.beacon peer) s = .next (({ s1 with time := { s1.time with
      t1 := some (exchNs p), t2 := nsOf ft, exNo := exchNo p } } : State).sendGroup (srcOf p) 0x89 (exchPayload 0 (exchNo p))) := by
  have hnot : ¬s.time.role = .master := by rw [hrole]; nofun
  show execBeacon peer s = _
  simp only [execBeacon, if_neg hnot, htake, decide_eq_true hrole, hmaster, act_true, ne_eq, not_true_eq_false, if_false]

theorem exec_delayReq (hrole : s.time.role = .master) (htake : s.takeCtl 0x89 = some ((n, p, ft), s1)) :
    exec .delayReq s = .next (s1.sendGroup (srcOf p) 0x8A (exchPayload ft (exchNo p))) := by
  show execDelayReq s = _
  simp only [execDelayReq, htake, act_true, hrole, if_true]

theorem exec_delayRsp {a : Int} (hrole : s.time.role = .member) (htake : s.takeCtl 0x8A = some ((n, p, ft), s1))
    (hmaster : s.group.master = some (srcOf p)) (ht1 : s.time.t1 = some a) (hno : s.time.exNo = exchNo p) :
    exec .delayRsp s = .next ((s1.setTime fun t => t.exchange ((s.time.t2 - a - (exchNs p - s.time.t3)) / 2)
      ((s.time.t2 - a + (exchNs p - s.time.t3)) / 2) s.freeVal).draw) := by
  have hfree : s1.freeVal = s.freeVal := by rw [State.freeVal, takeCtl_eq htake, State.freeVal]
  show execDelayRsp s = _
  simp only [execDelayRsp, htake, act_true, hrole, hmaster, ht1, hno, hfree, ne_eq, not_true_eq_false, or_self, if_false]

end

theorem exec_ftHold {s : State} (hrole : s.time.role = .member) (hsync : s.time.sync = .sync) :
    exec .ftHold s = .next (s.setTime fun t => { t with sync := .hold }) := by
  show execFtHold s = _
  simp only [execFtHold, hrole, hsync, decide_true, Bool.and_self, act_true]

theorem exec_ftUnsync {s : State} (hrole : s.time.role = .member) (hsync : s.time.sync = .hold) :
    exec .ftUnsync s = .next (s.setTime Time.toFree) := by
  show execFtUnsync s = _
  simp only [execFtUnsync, hrole, hsync, decide_true, Bool.and_self, act_true]

theorem exec_ftResync {s : State} (hrole : s.time.role = .member) (o : Origin) : exec (.ftResync o) s
    = .next (({ s with time := { s.time with resync := true } } : State).complete o 0xA5 .done []) := by
  show execFtResync o s = _
  rw [execFtResync, command_passes]
  simp [firstFail, hrole]

theorem exec_ftResync_refused {s : State} (hrole : s.time.role ≠ .member) (o : Origin) :
    exec (.ftResync o) s = .next (s.complete o 0xA5 .wrongState []) := by
  show execFtResync o s = _
  rw [execFtResync, command_turned_away]
  simp [firstFail, hrole]

/-! ### The obligation on exchanges -/

/-- What an exchange makes of a member's time: the measurement by `bestExchange_best`, each state of a member by its own case. -/
theorem exchange_steers (x : Time) (offset delay : Int) (free : Nat) :
    (x.sync = .sync → x.resync = false → (x.exchange offset delay free).root = x.root) ∧
    (x.sync = .sync → x.resync = false → (x.exchange offset delay free).sync = .sync) ∧
    (x.slew.natAbs ≤ 1000 → (x.exchange offset delay free).slew.natAbs ≤ 1000) ∧
    ((x.exchange offset delay free).offset, (x.exchange offset delay free).delay) ∈ ((offset, delay) :: x.history).take 8 ∧
    (∀ y ∈ ((offset, delay) :: x.history).take 8, (x.exchange offset delay free).delay ≤ y.2) ∧
    (x.sync = .hold → x.resync = false → (x.exchange offset delay free).offset.natAbs ≤ 16 →
      (x.exchange offset delay free).sync = .sync ∧ (x.exchange offset delay free).root = x.root) ∧
    (x.resync = true → (x.exchange offset delay free).resync = false ∧
      (x.exchange offset delay free).root =
        x.root - BitVec.ofInt 64 ((bestExchange (((offset, delay) :: x.history).take 8)).1 * 4 / 5)) ∧
    (x.sync = .free → x.resync = false → x.freePhase = 0 → x.history.length < 3 →
      (x.exchange offset delay free).root = x.root ∧ (x.exchange offset delay free).sync = .free) := by
  have hbest := exchange_best x offset delay free
  obtain ⟨hmem, hle⟩ := bestExchange_best (recent_ne_nil (x := x) offset delay)
  refine ⟨fun hs hr => ?_, fun hs hr => ?_, fun hslew => ?_, ?_, fun y hy => ?_, fun hs hr hclose => ?_, fun hr => ?_,
    fun hs hr hphase hfew => ?_⟩
  · rw [exchange_sync offset delay free hs hr]
    rfl
  · rw [exchange_sync offset delay free hs hr]
    exact hs
  · rcases exchange_slew x offset delay free with h | h
    · rwa [h]
    · rw [h]
      exact slewFor_le _ free
  · rw [hbest]
    exact hmem
  · have hdelay : (x.exchange offset delay free).delay = (bestExchange (x.recent offset delay)).2 := congrArg Prod.snd hbest
    rw [hdelay]
    exact hle y hy
  · have hoffset : (x.exchange offset delay free).offset = (bestExchange (x.recent offset delay)).1 := congrArg Prod.fst hbest
    rw [hoffset] at hclose
    rw [exchange_hold offset delay free hs hr hclose]
    exact ⟨rfl, rfl⟩
  · rw [exchange_resync offset delay free hr]
    exact ⟨rfl, rfl⟩
  · rw [exchange_early offset delay free hs hr hphase hfew]
    exact ⟨rfl, hs⟩

/-- Settles O28: the arithmetic of an exchange by `exchange_steers`, what a change of the time leaves by `setTime_same`. -/
theorem exchangesSteerTheRoot : Obligations.ExchangesSteerTheRoot := by
  unfold Obligations.ExchangesSteerTheRoot
  refine ⟨exchange_steers, fun peer s hrole hvalid hpeer => exec_beacon_master hrole hvalid hpeer,
    fun peer n p ft s s1 hrole htake hmaster => exec_beacon_member hrole htake hmaster peer,
    fun n p ft s s1 hrole htake => exec_delayReq hrole htake,
    fun n p ft a b s s1 hrole htake hmaster ht1 hno hb => ?_, fun s hrole => ⟨fun hsync => ?_, fun hsync => ?_, exec_ftResync hrole⟩,
    fun o s hrole => exec_ftResync_refused hrole o⟩
  · subst hb
    have hsame := setTime_same s1 fun t => t.exchange ((s.time.t2 - a - (exchNs p - s.time.t3)) / 2)
      ((s.time.t2 - a + (exchNs p - s.time.t3)) / 2) s.freeVal
    have hs1 := takeCtl_eq htake
    refine ⟨_, exec_delayRsp hrole htake hmaster ht1 hno, ?_, ?_, ?_, ?_⟩
    · rw [State.draw_time, setTime_time, hs1]
    · rw [State.draw_cores, hsame.cores, hs1]
    · rw [State.draw_fab, hsame.fab, hs1]
    · rw [State.draw_group, hsame, hs1]
  · have hsame := setTime_same s fun t => { t with sync := .hold }
    refine ⟨_, exec_ftHold hrole hsync, setTime_time s _, ?_⟩
    rw [setTime_time]
    exact hsame
  · have hsame := setTime_same s Time.toFree
    refine ⟨_, exec_ftUnsync hrole hsync, setTime_time s _, ?_, setTime_unsync (by rw [hsync]; nofun) rfl hrole, ?_⟩
    · rw [setTime_time]
      rfl
    · rw [setTime_time]
      exact hsame

end Sys2Proof.Machine
end

section
/-! SUPPORT. Clocks (10, 15): a copy of Field Time is corrected, and a region changes its frequency, stops and relocks. -/

namespace Sys2Proof.Machine

open Sys2Proof Sys2Proof.Safety

/-! ### A copy of Field Time is corrected (R331 to R333, R365) -/

/-- The time after a copy that reads so much is compared with the root, err apart (R331, R333). -/
def Time.corrected (t : Time) (node reading err : Nat) : Time :=
  { t with
    held := tset t.held 0 node (if t.root.toNat * 65536 < reading then reading else 0)
    invalid := t.invalid.filter (· != node)
    maxErr := max t.maxErr (sat 8 (err / 65536))
    skewErr := if 2 * 65536 < err then inc 16 t.skewErr else t.skewErr }

/-- The error of a copy is its distance from the root. -/
theorem copyErr_eq (root reading : Nat) :
    (if root ≤ reading then reading - root else root - reading) = max (reading - root) (root - reading) := by
  split <;> omega

theorem exec_ftCorrectionPulse {s : State} {node : Nat} (hnode : node < 67) (hruns : 32 ≤ node ∨ (s.region node).state = 0)
    (reading : Nat) {err : Nat} (herr : err = max (reading - s.now.toNat * 65536) (s.now.toNat * 65536 - reading)) :
    exec (.ftCorrectionPulse node reading) s = .next
      (if 2 * 65536 < err then ({ s with time := s.time.corrected node reading err } : State).raise ntFtSkew
        else { s with time := s.time.corrected node reading err }) := by
  have hready : s.nodeRuns node = true := by
    rcases hruns with h | h <;> simp [State.nodeRuns, hnode, h]
  show execFtCorrectionPulse node reading s = _
  rw [execFtCorrectionPulse, hready, act_true]
  dsimp only
  rw [copyErr_eq, ← herr]
  rfl

theorem exec_clockStretch {s : State} {r percent : Nat} (hr : r < 32) (hruns : (s.region r).state = 0) (hmin : 1 ≤ percent)
    (hmax : percent ≤ 50) : exec (.clockStretch r percent) s
      = .next { s with time := { s.time with stretch := tmod s.time.stretch 0 r (inc 32) } } := by
  show execClockStretch r percent s = _
  simp only [execClockStretch, hr, hruns, hmin, hmax, beq_self_eq_true, decide_true, Bool.and_self, act_true]

/-! ### The frequency of a region (R495, R496) -/

/-- A choice stays within the range, moves by at most a step, and is on a step. -/
theorem choose_bounds {x : Region} (hmin : x.fmin % 5 = 0) (hmax : x.fmax % 5 = 0) (hfreq : x.freq % 5 = 0) (hlo : x.fmin ≤ x.freq)
    (hhi : x.freq ≤ x.fmax) (best : Nat) :
    x.fmin ≤ x.choose best ∧ x.choose best ≤ x.fmax ∧ x.choose best ≤ x.freq + 5 ∧ x.freq ≤ x.choose best + 5 ∧
      x.choose best % 5 = 0 := by
  have hclamp : x.fmin ≤ x.clamp best ∧ x.clamp best ≤ x.fmax ∧ x.clamp best % 5 = 0 := by
    unfold Region.clamp
    omega
  obtain ⟨hlow, hhigh, hstep⟩ := hclamp
  unfold Region.choose
  dsimp only
  split
  · omega
  · split <;> omega

theorem stopRegion_region (s : State) (r freq : Nat) :
    (s.stopRegion r freq).region r = { s.region r with state := 1, nextFreq := freq } := State.region_modRegion s r _

/-- A region that stops leaves its Field Time copy not valid (R333, R497). -/
theorem stopRegion_ftValid (s : State) (r freq : Nat) : (s.stopRegion r freq).ftValid r = false := by
  have hmem : (if s.time.invalid.contains r then s.time.invalid else r :: s.time.invalid).contains r = true := by
    split
    · assumption
    · simp
  exact congrArg not hmem

section
variable {s : State} {r : Nat}

theorem exec_frequencyChoice (hr : r < 32) (hruns : (s.region r).state = 0) (hrange : (s.region r).fmin < (s.region r).fmax)
    (hup : s.dieUp (r / 4) = true) (best : Nat) : exec (.frequencyChoice r best) s = .next
      (if (s.region r).choose best = (s.region r).freq then s else s.stopRegion r ((s.region r).choose best)) := by
  show execFrequencyChoice r best s = _
  simp only [execFrequencyChoice, hr, hruns, hrange, hup, beq_self_eq_true, decide_true, Bool.and_self, act_true]

theorem exec_frequencyRestart (hr : r < 32) (hstop : (s.region r).state = 1) (hlock : (s.region r).pllLost = false)
    (hup : s.dieUp (r / 4) = true) : exec (.frequencyRestart r) s = .next (s.modRegion r Region.restart) := by
  show execFrequencyRestart r s = _
  simp only [execFrequencyRestart, hr, hstop, hlock, hup, beq_self_eq_true, decide_true, Bool.not_false, Bool.and_self, act_true]

/-! ### PLLs and jitter (R494) -/

/-- A region whose PLL has lost lock (R494). -/
def Region.lost (x : Region) : Region := { x with pllLost := true }

/-- A region with a jitter measured, over its limit or not (R494). -/
def Region.jittered (beyond : Bool) (ps : Nat) (x : Region) : Region := { x with jitterOver := beyond, jitter := ps }

theorem exec_clkFault_unlock (hr : r < 32) (hawake : (s.region r).state ≠ 2) (hup : s.dieUp (r / 4) = true) :
    exec (.clkFault r .unlock) s = .next (((s.stopRegion r (if (s.region r).state = 1 then (s.region r).nextFreq
      else (s.region r).freq)).modRegion r Region.lost).sense ntClkFault s) := by
  have hb : ((s.region r).state != 2) = true := by simpa using hawake
  show execClkFault r .unlock s = _
  simp only [execClkFault, hr, hb, hup, decide_true, Bool.and_self, act_true]
  rfl

theorem exec_clkFault_jitter (hr : r < 32) (hawake : (s.region r).state ≠ 2) (hup : s.dieUp (r / 4) = true) :
    exec (.clkFault r .jitter) s
      = .next ((s.draw.modRegion r (.jittered true (13 + s.freeVal % 243))).sense ntClkFault s) := by
  have hb : ((s.region r).state != 2) = true := by simpa using hawake
  show execClkFault r .jitter s = _
  simp only [execClkFault, hr, hb, hup, decide_true, Bool.and_self, act_true]
  rfl

theorem exec_pllRelock (hr : r < 32) (hlost : (s.region r).pllLost = true) (hup : s.dieUp (r / 4) = true) :
    exec (.pllRelock r) s
      = .next ((s.modRegion r fun x => { x.restart with pllLost := false }).sense ntClkFault s) := by
  show execPllRelock r s = _
  simp only [execPllRelock, hr, hlost, hup, decide_true, Bool.and_self, act_true]

theorem exec_jitterWithinLimit (hr : r < 32) (hover : (s.region r).jitterOver = true) :
    exec (.jitterWithinLimit r) s = .next ((s.draw.modRegion r (.jittered false (s.freeVal % 13))).sense ntClkFault s) := by
  show execJitterWithinLimit r s = _
  simp only [execJitterWithinLimit, hr, hover, decide_true, Bool.and_self, act_true]
  rfl

/-- The cause of CLK_FAULT (R459, R494). -/
theorem cause_clkFault (s : State) : s.cause ntClkFault = s.power.regions.any fun e => e.2.pllLost || e.2.jitterOver := rfl

/-- A key whose value is not the default is listed. -/
theorem mem_of_tget_ne {β : Type} {t : Tbl β} {d : β} {k : Nat} (h : tget t d k ≠ d) : (k, tget t d k) ∈ t := by
  induction t with
  | nil => exact absurd rfl h
  | cons e t ih =>
    obtain ⟨k', v⟩ := e
    by_cases hk : k' = k
    · subst hk
      simp [tget]
    · simp only [tget, beq_eq_false_iff_ne.2 hk, Bool.false_eq_true, if_false] at h ⊢
      exact List.mem_cons_of_mem _ (ih h)

/-- A region without lock is a cause of CLK_FAULT. -/
theorem cause_of_pllLost (h : (s.region r).pllLost = true) : s.cause ntClkFault = true := by
  have hne : s.region r ≠ Region.reset := fun he => by rw [he] at h; cases h
  rw [cause_clkFault, List.any_eq_true]
  exact ⟨_, mem_of_tget_ne hne, by rw [show tget s.power.regions Region.reset r = s.region r from rfl, h]; rfl⟩

/-- A condition whose cause holds is latched when the cause has just come about, or is not being handled (R460). -/
theorem sense_pend_eq {s1 s0 : State} {src : Nat} (hlt : src < 512) (hcause : s1.cause src = true)
    (hactive : s1.ntActive src = s0.ntActive src) : (s1.sense src s0).notices.pend.getLsbD src
      = (s1.notices.pend.getLsbD src || !s0.cause src || !s0.ntActive src) := by
  have hlatch : (s1.sense src s0).notices
      = (if !s0.cause src || !s0.ntActive src then s1.latchPend src else s1).notices := by
    have hcond : ((!s0.cause src || !s0.ntActive src) || (s0.cause src && !s0.ntActive src))
        = (!s0.cause src || !s0.ntActive src) := by
      cases s0.cause src <;> cases s0.ntActive src <;> rfl
    simp only [State.sense, hcause, hactive, Bool.true_and, hcond]
    split
    · rw [logRise_notices]
    · rfl
  rw [hlatch, Bool.or_assoc]
  cases !s0.cause src || !s0.ntActive src
  · exact (Bool.or_false _).symm
  · exact (latchPend_pend s1 hlt).trans (Bool.or_true _).symm

end

/-! ### The obligation on clocks -/

theorem region_of_same {s t : State} (h : SameButSignals s t) (r : Nat) : t.region r = s.region r := region_of_power h.power r

theorem ftValid_of_same {s t : State} (h : SameButSignals s t) (node : Nat) : t.ftValid node = s.ftValid node := by
  rw [State.ftValid, h.time, State.ftValid]

/-- A region changes, and CLK_FAULT is sensed: of the state the regions have changed, and what notices leave behind. -/
theorem modRegion_sensed {s u : State} (h : SameButSignals s u) (r : Nat) (f : Region → Region) :
    ((u.modRegion r f).sense ntClkFault s).region r = f (s.region r) ∧
      SameButSignals { s with power := { s.power with regions := ((u.modRegion r f).sense ntClkFault s).power.regions } }
        ((u.modRegion r f).sense ntClkFault s) := by
  have hsense := sense_same (u.modRegion r f) ntClkFault s
  have hmod := h.modRegion r f
  refine ⟨?_, ?_⟩
  · rw [region_of_same hsense, region_of_same hmod, State.region_modRegion]
  · have hregions : ((u.modRegion r f).sense ntClkFault s).power.regions = (s.modRegion r f).power.regions := by
      rw [hsense.power, hmod.power]
    rw [hregions]
    exact hmod.trans hsense

/-- Settles O29: a copy by its distance from the root, a frequency by the bounds of one choice, and each stop, restart and fault by
what it makes of its region. -/
theorem clocksAreCorrectedAndChange : Obligations.ClocksAreCorrectedAndChange := by
  unfold Obligations.ClocksAreCorrectedAndChange
  refine ⟨fun node reading err s hnode hruns herr => ?_,
    fun r percent s hr hruns hmin hmax => exec_clockStretch hr hruns hmin hmax,
    fun x best hmin hmax hfreq hlo hhi => choose_bounds hmin hmax hfreq hlo hhi best,
    fun r best s hr hruns hrange hup => ⟨fun hmoves => ?_, fun hstays => ?_⟩,
    fun r s hr hstop hlock hup => exec_frequencyRestart hr hstop hlock hup,
    fun r s hr hawake hup => ⟨?_, ?_⟩, fun r s hr hlost hup => ?_, fun r s hr hover => ?_⟩
  · have hexec := exec_ftCorrectionPulse hnode hruns reading herr
    by_cases hskew : 2 * 65536 < err
    · rw [if_pos hskew] at hexec
      have hsame := raise_same { s with time := s.time.corrected node reading err } ntFtSkew
      refine ⟨_, hexec, hsame.time, fun _ => raise_pend _ (by decide), fun h => absurd hskew (Nat.not_lt.2 h), ?_⟩
      rw [hsame.time]
      exact hsame
    · rw [if_neg hskew] at hexec
      exact ⟨_, hexec, rfl, fun h => absurd h hskew, fun _ => rfl, rfl⟩
  · rw [exec_frequencyChoice hr hruns hrange hup, if_neg hmoves]
    exact ⟨_, rfl, stopRegion_region s r _, stopRegion_ftValid s r _, rfl⟩
  · rw [exec_frequencyChoice hr hruns hrange hup, if_pos hstays]
  · have hexec := exec_clkFault_unlock hr hawake hup
    generalize (if (s.region r).state = 1 then (s.region r).nextFreq else (s.region r).freq) = freq at hexec
    have hsame := sense_same ((s.stopRegion r freq).modRegion r Region.lost) ntClkFault s
    have hregion : ((s.stopRegion r freq).modRegion r Region.lost).region r
        = { s.region r with state := 1, nextFreq := freq, pllLost := true } := by
      rw [State.region_modRegion, stopRegion_region]
      rfl
    refine ⟨_, hexec, ?_, ?_, ?_, ?_, ?_⟩
    · rw [region_of_same hsame, hregion]
    · rw [region_of_same hsame, hregion]
    · rw [ftValid_of_same hsame]
      exact stopRegion_ftValid s r freq
    · exact sense_pend_eq (by decide) (cause_of_pllLost (r := r) (by rw [hregion])) rfl
    · rw [hsame.power, hsame.time]
      exact hsame
  · obtain ⟨hregion, hsame⟩ := modRegion_sensed (draw_same s) r (.jittered true (13 + s.freeVal % 243))
    refine ⟨_, exec_clkFault_jitter hr hawake hup, ?_, ?_, ?_, ?_, hsame⟩
    · rw [hregion, Region.jittered]
    · rw [hregion, Region.jittered]
      exact Nat.lt_of_lt_of_le (by decide) (Nat.le_add_right 13 _)
    · rw [hregion, Region.jittered]
    · rw [hregion, Region.jittered]
  · obtain ⟨hregion, hsame⟩ := modRegion_sensed (.refl s) r fun x => { x.restart with pllLost := false }
    refine ⟨_, exec_pllRelock hr hlost hup, ?_, ?_, ?_, hsame⟩
    · rw [hregion, Region.restart]
    · rw [hregion]
    · rw [hregion, Region.restart]
  · obtain ⟨hregion, hsame⟩ := modRegion_sensed (draw_same s) r (.jittered false (s.freeVal % 13))
    refine ⟨_, exec_jitterWithinLimit hr hover, ?_, ?_, ?_, hsame⟩
    · rw [hregion, Region.jittered]
    · rw [hregion, Region.jittered]
      exact Nat.le_of_lt_succ (Nat.mod_lt _ (by decide))
    · rw [hregion, Region.jittered]

end Sys2Proof.Machine
end

section
/-! SUPPORT. Epochs (11): a backup takes over as master, and a device adopts a newer epoch. -/

namespace Sys2Proof.Machine

open Sys2Proof Sys2Proof.Safety

/-! ### Which epoch is newer (R408) -/

/-- Of two epochs at most one is newer. -/
theorem newerEpoch_asymm {a b : BitVec 16} (h : newerEpoch a b = true) : newerEpoch b a = false := by
  simp only [newerEpoch, BitVec.toNat_sub, Bool.and_eq_true, decide_eq_true_eq] at h
  simp only [newerEpoch, BitVec.toNat_sub, Bool.and_eq_false_iff, decide_eq_false_iff_not]
  have ha := a.isLt
  have hb := b.isLt
  omega

/-! ### MASTER_TAKEOVER (R409) -/

section
variable {s : State}

theorem exec_masterTakeover (hrole : s.group.role = 2) (hport : (s.port 0).state = .up) (hp2p : (s.port 0).p2p = true)
    (hsaved : s.group.saved ≠ none) (o : Origin) : exec (.masterTakeover o) s
      = .next (({ s with group := { s.group with takeover := 1 } } : State).complete o 0x0F .done []) := by
  show execMasterTakeover o s = _
  rw [execMasterTakeover, command_passes]
  simp [firstFail, hrole, hport, hp2p, hsaved]

theorem exec_masterTakeover_none (hrole : s.group.role = 2) (hport : (s.port 0).state = .up) (hp2p : (s.port 0).p2p = true)
    (hsaved : s.group.saved = none) (o : Origin) : exec (.masterTakeover o) s = .next (s.complete o 0x0F .notPresent []) := by
  show execMasterTakeover o s = _
  rw [execMasterTakeover, command_turned_away]
  simp [firstFail, hrole, hport, hp2p, hsaved]

/-! ### The backup becomes master and announces its epoch (R341, R409) -/

theorem setTime_group (s : State) (f : Time → Time) : (s.setTime f).group = s.group := by rw [setTime_same s f]

/-- The backup is master under the next epoch, and its root stands (R341, R409). -/
theorem becomeMaster_result (s : State) (r : GroupRec) : (s.becomeMaster r).group.role = 1 ∧
    (s.becomeMaster r).group.epoch = s.group.epoch + 1 ∧ (s.becomeMaster r).time.role = .master ∧
    (s.becomeMaster r).time.root = s.time.root ∧ (s.becomeMaster r).plat = s.plat := by
  rw [State.becomeMaster, setTime_group, setTime_time, (setTime_same _ _).plat]
  exact ⟨rfl, rfl, rfl, rfl, rfl⟩

theorem isSelf_of_plat {s t : State} (h : t.plat = s.plat) (e : Nat) : t.isSelf e = s.isSelf e := by
  rw [State.isSelf, h, State.isSelf]

theorem exec_takeoverAnnounce {r : GroupRec} (hsaved : s.group.saved = some r) (htaking : s.group.takeover = 1) :
    exec .takeoverAnnounce s = .next (each (((s.becomeMaster r).otherMembers r.members ++ s.group.master.toList).filter
        (fun e => !(s.becomeMaster r).isSelf e)).dedup
      (fun e u => u.sendGroup e 0x8B (epochPayload (s.group.epoch + 1))) (s.becomeMaster r)) := by
  obtain ⟨-, hepoch, -, -, hplat⟩ := becomeMaster_result s r
  have hself (e : Nat) := isSelf_of_plat hplat e
  show execTakeoverAnnounce s = _
  simp only [execTakeoverAnnounce, hsaved, htaking, beq_self_eq_true, act_true, hepoch, hself]

/-! ### The old master is fenced (R409) -/

theorem sendGroup_setsOut (s : State) (dest op : Nat) (payload : List Byte) : SetsOut s (s.sendGroup dest op payload) := by
  rw [State.sendGroup]
  exact each_rel SetsOut.refl .trans _ (fun p u => depart_setsOut u bridgeStop p none) s

theorem SetsOut.group {s t : State} (h : SetsOut s t) : t.group = s.group := by rw [h.frame]

/-- Packets that name the epoch of the sender all name the same one. -/
theorem each_sendGroup_epoch (l : List Nat) (op : Nat) {s : State} {epoch : BitVec 16} (h : s.group.epoch = epoch) :
    each l (fun e u => u.sendGroup e op (epochPayload u.group.epoch)) s
      = each l (fun e u => u.sendGroup e op (epochPayload epoch)) s := by
  induction l generalizing s with
  | nil => rw [each_nil, each_nil]
  | cons e l ih =>
    have hsent : (s.sendGroup e op (epochPayload epoch)).group.epoch = epoch := by rw [(sendGroup_setsOut s e op _).group, h]
    rw [each_cons, each_cons, h, ih hsent]

theorem exec_takeoverFence (htaking : s.group.takeover = 2) :
    exec .takeoverFence s = .next (each (s.otherMembers s.group.members)
      (fun e u => u.sendGroup e 0x8C (epochPayload s.group.epoch)) { s with group := { s.group with takeover := 0 } }) := by
  show execTakeoverFence s = _
  rw [execTakeoverFence, htaking, beq_self_eq_true, act_true]
  exact congrArg Host.Outcome.next (each_sendGroup_epoch _ _ rfl)

/-! ### A newer epoch is adopted (R341, R410, R411) -/

/-- A device under another epoch and its master, its own root not yet looked at (R410). -/
def State.underEpoch (s : State) (e : BitVec 16) (src : Nat) : State :=
  { s with group := { s.group with
    prevEpoch := s.group.epoch, prevMaster := s.group.master, epoch := e, master := some src, overlap := true, fenced := false
    role := if s.group.role = 1 then 0 else s.group.role
    demoted := s.group.demoted || decide (s.group.role = 1)
    takeover := 0, saveDue := false } }

/-- The Field Time of an old master that becomes a member: its root does not step (R341; log entry 43). -/
def Time.demoted (t : Time) : Time := { t.toFree with role := .member, sync := .sync }

theorem adoptEpoch_eq (s : State) (e : BitVec 16) (src : Nat) : s.adoptEpoch e src
    = (if s.group.role = 1 then (s.underEpoch e src).setTime Time.demoted else s.underEpoch e src).raise ntEpochChange := rfl

theorem adoptEpoch_result (s : State) (e : BitVec 16) (src : Nat) :
    (s.adoptEpoch e src).group = (s.underEpoch e src).group ∧ (s.adoptEpoch e src).time.root = s.time.root ∧
      (s.adoptEpoch e src).notices.pend.getLsbD ntEpochChange = true ∧ (s.adoptEpoch e src).cores = s.cores ∧
      (s.adoptEpoch e src).fab = s.fab := by
  rw [adoptEpoch_eq]
  generalize hu : (if s.group.role = 1 then (s.underEpoch e src).setTime Time.demoted else s.underEpoch e src) = u
  have hunder : u.group = (s.underEpoch e src).group ∧ u.time.root = s.time.root ∧ u.cores = s.cores ∧ u.fab = s.fab := by
    subst hu
    split
    · have hsame := setTime_same (s.underEpoch e src) Time.demoted
      exact ⟨setTime_group _ _, by rw [setTime_time]; rfl, hsame.cores, hsame.fab⟩
    · exact ⟨rfl, rfl, rfl, rfl⟩
  obtain ⟨hgroup, hroot, hcores, hfab⟩ := hunder
  have hraise := raise_same u ntEpochChange
  exact ⟨by rw [hraise, hgroup], by rw [hraise.time, hroot], raise_pend u (by decide), hraise.cores.trans hcores,
    hraise.fab.trans hfab⟩

section
variable {s1 : State} {n : Nat} {p : Packet} {ft : W64}

theorem exec_epochAnnounce (htake : s.takeCtl 0x8B = some ((n, p, ft), s1)) (hbackup : s.group.backup = some (srcOf p)) :
    exec .epochAnnounce s = .next (if newerEpoch (BitVec.ofNat 16 (fieldB p.data 0 2)) s.group.epoch = true then
      s1.adoptEpoch (BitVec.ofNat 16 (fieldB p.data 0 2)) (srcOf p) else s1) := by
  show execEpochAnnounce s = _
  simp only [execEpochAnnounce, htake, act_true, hbackup, ne_eq, not_true_eq_false, if_false]

theorem exec_masterFence (htake : s.takeCtl 0x8C = some ((n, p, ft), s1)) (hmaster : s.group.master = some (srcOf p))
    (hepoch : BitVec.ofNat 16 (fieldB p.data 0 2) = s.group.epoch) :
    exec .masterFence s = .next { s1 with group := { s1.group with overlap := false, fenced := true } } := by
  show execMasterFence s = _
  simp only [execMasterFence, htake, act_true, hmaster, hepoch, ne_eq, not_true_eq_false, if_false, if_true]

end

end

/-! ### The obligation on masters -/

/-- Settles O31: each step of a takeover by what becoming master changes, a newer epoch by `adoptEpoch_result`. -/
theorem mastersTakeOver : Obligations.MastersTakeOver := by
  unfold Obligations.MastersTakeOver
  refine ⟨fun a b => newerEpoch_asymm, fun o s hrole hport hp2p => ⟨fun hsaved => exec_masterTakeover hrole hport hp2p hsaved o,
      fun hsaved => exec_masterTakeover_none hrole hport hp2p hsaved o⟩, fun r s hsaved htaking => ?_,
    fun s htaking => exec_takeoverFence htaking, fun n p ft s s1 htake hbackup => ⟨fun hnewer => ?_, fun hold => ?_⟩,
    fun n p ft s s1 htake hmaster hepoch => exec_masterFence htake hmaster hepoch⟩
  · obtain ⟨hrole, hepoch, hmaster, hroot, -⟩ := becomeMaster_result s r
    exact ⟨exec_takeoverAnnounce hsaved htaking, hrole, hepoch, hmaster, hroot⟩
  · have hexec := exec_epochAnnounce htake hbackup
    rw [if_pos hnewer] at hexec
    obtain ⟨hgroup, hroot, hpend, hcores, hfab⟩ := adoptEpoch_result s1 (BitVec.ofNat 16 (fieldB p.data 0 2)) (srcOf p)
    have hs1 := takeCtl_eq htake
    refine ⟨_, hexec, by rw [hgroup]; rfl, ?_, by rw [hgroup]; rfl, by rw [hgroup]; rfl, ?_, ?_, hpend, ?_, ?_⟩
    · rw [hgroup, State.underEpoch, hs1]
    · rw [hgroup, State.underEpoch, hs1]
    · rw [hroot, hs1]
    · rw [hcores, hs1]
    · rw [hfab, hs1]
  · have hexec := exec_epochAnnounce htake hbackup
    rwa [hold, if_neg Bool.false_ne_true] at hexec

end Sys2Proof.Machine
end

section
/-! SUPPORT. Sleep (15): what a core, a die, a lane group and a port change as they fall asleep and wake. -/

namespace Sys2Proof.Machine

open Sys2Proof Sys2Proof.Safety

/-! ### The commands (R498 to R502) -/

section
variable {s : State} {u : SleepUnit}

theorem exec_wake (h : s.sleeping u = true) : exec (.wake u) s = .next (s.startWake u) := by
  show execWake u s = _
  rw [execWake, h, act_true]

theorem exec_sowAheadWake {d : Nat} (h : s.sleeping (.die d) = true) (hdue : s.dueSoon d = true) :
    exec (.sowAheadWake d) s = .next (s.startWake (.die d)) := by
  show execSowAheadWake d s = _
  rw [execSowAheadWake, h, hdue, Bool.and_self, act_true]

theorem exec_sleepEnter_core {c : Nat} (h : s.maySleep (.core c) = true) :
    exec (.sleepEnter (.core c)) s = .next (s.modCore c fun x => { x with asleep := true }) := by
  show execSleepEnter (.core c) s = _
  rw [execSleepEnter, h, act_true]

theorem exec_sleepEnter_group {st g : Nat} (h : s.maySleep (.group st g) = true) :
    exec (.sleepEnter (.group st g)) s = .next (s.setTxState st g .asleep) := by
  show execSleepEnter (.group st g) s = _
  rw [execSleepEnter, h, act_true]

theorem exec_sleepEnter_port {p : Nat} (h : s.maySleep (.port p) = true) :
    exec (.sleepEnter (.port p)) s = .next (s.setPort p fun q => { q with state := .asleep }) := by
  show execSleepEnter (.port p) s = _
  rw [execSleepEnter, h, act_true]

theorem exec_wakeComplete_core {c : Nat} (h : s.wakes (.core c) = true) :
    exec (.wakeComplete (.core c)) s = .next (s.modCore c fun x => { x with asleep := false, waking := false }) := by
  show execWakeComplete (.core c) s = _
  rw [execWakeComplete, h, act_true]

/-- A lane group that is told to wake has woken (R500). -/
def TxGroup.woken (t : TxGroup) : TxGroup := { t with waking := false }

theorem exec_wakeComplete_group {st g : Nat} (h : s.wakes (.group st g) = true) : exec (.wakeComplete (.group st g)) s
    = .next (if (s.txg st g).lanes < 4 then (s.modTx st g .woken).leaveService st g
        else (s.modTx st g .woken).setTxState st g .active) := by
  show execWakeComplete (.group st g) s = _
  rw [execWakeComplete, h, act_true]
  rfl

theorem exec_wakeComplete_port {p : Nat} (h : s.wakes (.port p) = true) :
    exec (.wakeComplete (.port p)) s = .next (s.setPort p fun q => { q with state := .up, waking := false }) := by
  show execWakeComplete (.port p) s = _
  rw [execWakeComplete, h, act_true]

end

/-! ### The regions of a die (R333, R502) -/

/-- t is s but for its regions. -/
def RegionsOnly (s t : State) : Prop := t = { s with power := { s.power with regions := t.power.regions } }

theorem RegionsOnly.refl (s : State) : RegionsOnly s s := rfl

theorem RegionsOnly.trans {s t u : State} (h : RegionsOnly s t) (k : RegionsOnly t u) : RegionsOnly s u := by
  unfold RegionsOnly at *
  rw [k, h]

theorem modRegion_only (s : State) (r : Nat) (f : Region → Region) : RegionsOnly s (s.modRegion r f) := rfl

/-- Each of a die's regions changes (R502). -/
def State.modRegions (s : State) (d : Nat) (f : Region → Region) : State :=
  each (List.range 4) (fun i u => u.modRegion (4 * d + i) f) s

theorem modRegions_only (s : State) (d : Nat) (f : Region → Region) : RegionsOnly s (s.modRegions d f) :=
  each_rel RegionsOnly.refl .trans _ (fun i u => modRegion_only u (4 * d + i) f) s

theorem each_modRegion_region (d : Nat) (f : Region → Region) {l : List Nat} (hl : l.Nodup) (s : State) (i : Nat) :
    (each l (fun i u => u.modRegion (4 * d + i) f) s).region (4 * d + i)
      = if i ∈ l then f (s.region (4 * d + i)) else s.region (4 * d + i) := by
  induction l generalizing s with
  | nil => rfl
  | cons a l ih =>
    obtain ⟨ha, hl⟩ := List.nodup_cons.1 hl
    rw [each_cons, ih hl]
    by_cases hi : i = a
    · subst hi
      rw [if_neg ha, if_pos (List.mem_cons_self ..), State.region_modRegion]
    · have hkey : 4 * d + i ≠ 4 * d + a := by omega
      simp only [State.region_modRegion_ne _ _ hkey, List.mem_cons, hi, false_or]

theorem modRegions_region (s : State) (d : Nat) (f : Region → Region) {i : Nat} (hi : i < 4) :
    (s.modRegions d f).region (4 * d + i) = f (s.region (4 * d + i)) :=
  (each_modRegion_region d f List.nodup_range s i).trans (if_pos (List.mem_range.2 hi))

/-- What is put in front of a list where it is not listed is listed at the end. -/
theorem mem_foldl_listed (g : Nat → Nat) (l : List Nat) {t : List Nat} {x : Nat} (h : x ∈ t ∨ ∃ i ∈ l, g i = x) :
    x ∈ l.foldl (fun t i => if t.contains (g i) then t else g i :: t) t := by
  induction l generalizing t with
  | nil => exact h.resolve_right fun ⟨_, hi, _⟩ => absurd hi List.not_mem_nil
  | cons a l ih =>
    refine ih ?_
    dsimp only
    by_cases ha : t.contains (g a) = true
    · rw [if_pos ha]
      rcases h with h | ⟨i, hi, rfl⟩
      · exact .inl h
      · rcases List.mem_cons.1 hi with rfl | hi
        · exact .inl (List.contains_iff_mem.1 ha)
        · exact .inr ⟨i, hi, rfl⟩
    · rw [if_neg ha]
      rcases h with h | ⟨i, hi, rfl⟩
      · exact .inl (List.mem_cons_of_mem _ h)
      · rcases List.mem_cons.1 hi with rfl | hi
        · exact .inl (List.mem_cons_self ..)
        · exact .inr ⟨i, hi, rfl⟩

theorem dropCopies_ftValid (s : State) (d : Nat) {i : Nat} (hi : i < 4) : (s.dropCopies d).ftValid (4 * d + i) = false := by
  have hmem := mem_foldl_listed (4 * d + ·) (List.range 4) (t := s.time.invalid) (.inr ⟨i, List.mem_range.2 hi, rfl⟩)
  exact congrArg not (List.contains_iff_mem.2 hmem)

section
variable {s : State} {d : Nat}

theorem sleepEnter_die (h : s.maySleep (.die d) = true) : ∃ t, exec (.sleepEnter (.die d)) s = .next t ∧
    t.diePower d = { s.diePower d with asleep := true } ∧
    (∀ i < 4, t.region (4 * d + i) = { s.region (4 * d + i) with state := 2 } ∧ t.ftValid (4 * d + i) = false) ∧
    t = { s with power := { s.power with dies := t.power.dies, regions := t.power.regions }
                 time := { s.time with invalid := t.time.invalid } } := by
  have hexec : exec (.sleepEnter (.die d)) s
      = .next (((s.modDiePower d fun p => { p with asleep := true }).dropCopies d).modRegions d fun x => { x with state := 2 }) := by
    show execSleepEnter (.die d) s = _
    rw [execSleepEnter, h, act_true]
    rfl
  have hregion := fun i => modRegions_region ((s.modDiePower d fun p => { p with asleep := true }).dropCopies d) d
    (fun x => { x with state := 2 }) (i := i)
  have honly := modRegions_only ((s.modDiePower d fun p => { p with asleep := true }).dropCopies d) d fun x => { x with state := 2 }
  generalize State.modRegions _ d (fun x => { x with state := 2 }) = t at hexec hregion honly
  refine ⟨t, hexec, ?_, fun i hi => ⟨hregion i hi, ?_⟩, ?_⟩
  · rw [State.diePower, show t = _ from honly]
    exact State.diePower_modDiePower s d fun p => { p with asleep := true }
  · rw [State.ftValid, show t = _ from honly]
    exact dropCopies_ftValid (s.modDiePower d fun p => { p with asleep := true }) d hi
  · rw [show t = _ from honly]
    rfl

theorem wakeComplete_die (h : s.wakes (.die d) = true) : ∃ t, exec (.wakeComplete (.die d)) s = .next t ∧
    t.diePower d = { s.diePower d with asleep := false, waking := false } ∧
    (∀ i < 4, t.region (4 * d + i) = { s.region (4 * d + i) with state := 0 }) ∧
    t = { s with power := { s.power with dies := t.power.dies, regions := t.power.regions } } := by
  have hexec : exec (.wakeComplete (.die d)) s
      = .next ((s.modDiePower d fun p => { p with asleep := false, waking := false }).modRegions d fun x => { x with state := 0 }) := by
    show execWakeComplete (.die d) s = _
    rw [execWakeComplete, h, act_true]
    rfl
  have hregion := fun i => modRegions_region (s.modDiePower d fun p => { p with asleep := false, waking := false }) d
    (fun x => { x with state := 0 }) (i := i)
  have honly := modRegions_only (s.modDiePower d fun p => { p with asleep := false, waking := false }) d fun x => { x with state := 0 }
  generalize State.modRegions _ d (fun x => { x with state := 0 }) = t at hexec hregion honly
  refine ⟨t, hexec, ?_, fun i hi => hregion i hi, ?_⟩
  · rw [State.diePower, show t = _ from honly]
    exact State.diePower_modDiePower s d fun p => { p with asleep := false, waking := false }
  · rw [show t = _ from honly]
    rfl

end

/-! ### Lane groups and ports (R35, R500, R501) -/

theorem setPort_port (s : State) (p : Nat) (f : Port → Port) : (s.setPort p f).port p = f (s.port p) := by
  rw [State.port, (setPort_same s p f).ports]
  exact State.port_modPort s p f

/-- Of the state a port that changes changes the ports, and what notices leave behind. -/
theorem setPort_only (s : State) (p : Nat) (f : Port → Port) :
    SameButSignals { s with ports := { s.ports with port := (s.setPort p f).ports.port } } (s.setPort p f) := by
  have hsame := setPort_same s p f
  rw [hsame.ports]
  exact hsame

theorem wakeComplete_group {s : State} {st g : Nat} (h : s.wakes (.group st g) = true) (hasleep : (s.txg st g).state = .asleep) :
    ∃ t, exec (.wakeComplete (.group st g)) s = .next t ∧
      (4 ≤ (s.txg st g).lanes → t.txg st g = { s.txg st g with state := .active, waking := false } ∧
        SameButSignals { s with fab := { s.fab with tx := t.fab.tx } } t) ∧
      ((s.txg st g).lanes < 4 → LeftService (s.modTx st g fun x => { x with waking := false }) st g t) := by
  refine ⟨_, exec_wakeComplete_group h, fun hlanes => ?_, fun hlanes => ?_⟩
  · rw [if_neg (Nat.not_lt.2 hlanes)]
    refine ⟨?_, (modTx_groups s st g .woken).trans (setTxState_groups _ st g .active)⟩
    rw [setTxState_txg, State.txg_modTx]
    rfl
  · rw [if_pos hlanes]
    refine leftService_leaveService ?_
    rw [State.txg_modTx]
    exact fun hdraining => nomatch hasleep.symm.trans hdraining.2

/-! ### The obligation on sleep -/

/-- Settles O32: what each unit changes as it falls asleep, is told to wake, and has woken. -/
theorem unitsSleepAndWake : Obligations.UnitsSleepAndWake := by
  unfold Obligations.UnitsSleepAndWake
  refine ⟨fun c s => ⟨exec_sleepEnter_core, fun hc hasleep hstill => exec_wake ?_,
      fun hc hasleep hwaking hdie => exec_wakeComplete_core ?_⟩,
    fun d s => ⟨sleepEnter_die, fun hsleeps => ⟨exec_wake hsleeps, exec_sowAheadWake hsleeps⟩,
      fun hd hasleep hwaking => wakeComplete_die ?_⟩,
    fun st g s => ⟨fun hmay => ?_, fun htx hasleep hstill => exec_wake ?_, fun htx hasleep hwaking => wakeComplete_group ?_ hasleep⟩,
    fun p s => ⟨fun hmay => ?_, fun hp hasleep hstill => exec_wake ?_, fun hp hasleep hwaking => ?_⟩⟩
  · simp only [State.sleeping, hc, hasleep, hstill, decide_true, Bool.not_false, Bool.and_self]
  · simp only [State.wakes, hc, hasleep, hwaking, coreDie, hdie, decide_true, Bool.not_false, Bool.and_self]
  · simp only [State.wakes, hd, hasleep, hwaking, decide_true, Bool.and_self]
  · exact ⟨_, exec_sleepEnter_group hmay, setTxState_txg s st g .asleep, setTxState_groups s st g .asleep⟩
  · simp only [State.sleeping, htx, hasleep, hstill, decide_true, Bool.not_false, Bool.and_self]
  · simp only [State.wakes, htx, hasleep, hwaking, decide_true, Bool.and_self]
  · exact ⟨_, exec_sleepEnter_port hmay, setPort_port s p _, setPort_only s p _⟩
  · simp only [State.sleeping, hp, hasleep, hstill, decide_true, Bool.not_false, Bool.and_self]
  · have hwakes : s.wakes (.port p) = true := by
      simp only [State.wakes, hp, hasleep, hwaking, decide_true, Bool.and_self]
    exact ⟨_, exec_wakeComplete_port hwakes, setPort_port s p _, setPort_only s p _⟩

end Sys2Proof.Machine
end

section
/-! SUPPORT. Frames that set out from the rack ports (11), and the calendar of a port: what is written of it, and what a slot takes
up. -/

namespace Sys2Proof.Machine

open Sys2Proof Sys2Proof.Safety

/-! ### Frames set out (R380, R384, R388) -/

/-- t is s but for the frames that are kept or wait, the windows of senders, and what has been sent on the links. -/
def FramesOnly (s t : State) : Prop :=
  t = { s with ports := { s.ports with sent := t.ports.sent, ctlq := t.ports.ctlq, win := t.ports.win }, out := t.out }

theorem FramesOnly.refl (s : State) : FramesOnly s s := rfl

theorem FramesOnly.trans {s t u : State} (h : FramesOnly s t) (k : FramesOnly t u) : FramesOnly s u := by
  unfold FramesOnly at *
  rw [k, h]

theorem FramesOnly.port {s t : State} (h : FramesOnly s t) (p : Nat) : t.port p = s.port p := port_of_table (by rw [h]) p

theorem emitFrame_only (s : State) (p key : Nat) (f : Frame) : FramesOnly s (s.emitFrame p key f) := rfl

theorem flushCtl_only (s : State) (p : Nat) : FramesOnly s (s.flushCtl p) := by
  unfold State.flushCtl
  extract_lets go
  exact each_rel .refl .trans go (fun e t => emitFrame_only t p _ e.2)
    { s with ports := { s.ports with ctlq := s.ports.ctlq.filter fun e => !go.contains e } }

theorem countOpen_only (s : State) (p : Nat) : FramesOnly s (s.countOpen p) := by
  unfold State.countOpen
  split
  · rfl
  · exact .refl s

/-! ### The calendar as it is written (R382) -/

theorem exec_calSet {s : State} {p slot type dset : Nat} (htype : type ≠ 3)
    (h : firstFail (s.calChecks p slot type dset) = none) (o : Origin) :
    exec (.calSet o p slot type dset) s = .next ((s.calWrite p slot type dset s.in2us).complete o 0xA0 .done []) := by
  show execCalSet o p slot type dset s = _
  rw [execCalSet, command_passes (by simpa [firstFail, htype] using h)]

/-- The entry that is written last is what is read back; every other entry stands (R382). -/
theorem writtenCal_written (q : Port) (slot : Nat) (e : CalEntry) (at' : W64) (i : Nat) :
    ({ q with calPending := q.calPending ++ [(slot, e, at')] } : Port).writtenCal i = if i = slot then e else q.writtenCal i := by
  unfold Port.writtenCal
  by_cases h : i = slot
  · subst h
    simp
  · simp [h, Ne.symm h]

/-- An entry that is not OPEN as written is among the closed slots. -/
theorem mem_closedSlots {q : Port} {i : Nat} (h : (q.writtenCal i).type ≠ 2) : i ∈ q.closedSlots := by
  refine List.mem_filter.2 ⟨List.mem_dedup.2 ?_, by simpa using h⟩
  unfold Port.writtenCal at h
  split at h
  · next e he =>
    obtain ⟨hmem, hi⟩ := List.mem_filter.1 (List.mem_of_getLast? he)
    exact List.mem_append_right _ (List.mem_map.2 ⟨e, hmem, beq_iff_eq.1 hi⟩)
  · have hne : tget q.cal CalEntry.reset i ≠ CalEntry.reset := fun heq => h (by rw [heq]; rfl)
    exact List.mem_append_left _ (List.mem_map.2 ⟨_, mem_of_tget_ne hne, rfl⟩)

/-- Slots that are not OPEN once an entry is written. -/
def Port.closedWith (q : Port) (slot : Nat) (e : CalEntry) : List Nat :=
  q.closedSlots.filter (· != slot) ++ if e.type == 2 then [] else [slot]

theorem closedRun_eq (q : Port) (slot : Nat) (e : CalEntry) : q.closedRun slot e
    = (q.closedWith slot e).any fun i => (List.range 64).all fun k => (q.closedWith slot e).contains ((i + k) % 4096) := rfl

theorem mem_closedWith {q : Port} {slot : Nat} {e : CalEntry} {at' : W64} {i : Nat}
    (h : (({ q with calPending := q.calPending ++ [(slot, e, at')] } : Port).writtenCal i).type ≠ 2) : i ∈ q.closedWith slot e := by
  rw [writtenCal_written] at h
  unfold Port.closedWith
  by_cases hi : i = slot
  · subst hi
    rw [if_pos rfl] at h
    simp [h]
  · rw [if_neg hi] at h
    exact List.mem_append_left _ (List.mem_filter.2 ⟨mem_closedSlots h, by simpa using hi⟩)

/-- A write that its checks let pass leaves an OPEN slot in every run of 64 (R382). -/
theorem calWrite_open {s : State} {p slot type dset : Nat} (h : firstFail (s.calChecks p slot type dset) = none) (at' : W64)
    (i : Nat) : ∃ k < 64, (((s.calWrite p slot type dset at').port p).writtenCal ((i + k) % 4096)).type = 2 := by
  have hrun : (s.port p).closedRun slot { type := type, dset := dset } = false :=
    firstFail_none h (_, .badField) (.tail _ (.tail _ (.tail _ (.head _))))
  rw [State.calWrite, State.port_modPort]
  by_contra hnone
  simp only [not_exists, not_and] at hnone
  have hclosed (k : Nat) (hk : k < 64) : (i + k) % 4096 ∈ (s.port p).closedWith slot { type := type, dset := dset } :=
    mem_closedWith (hnone k hk)
  rw [closedRun_eq, List.any_eq_false] at hrun
  refine hrun (i % 4096) (hclosed 0 (by decide)) (List.all_eq_true.2 fun k hk => ?_)
  rw [Nat.mod_add_mod]
  exact List.contains_iff_mem.2 (hclosed k (List.mem_range.1 hk))

section
variable {s : State} {p i : Nat}

theorem exec_calDset {mask : W64} (hp : p < 16) (hi : i < 64) (hvalid : s.plat.valid = true) (hrun : (s.port p).halted = false)
    (h : mask ≠ 0 ∨ (s.port p).ownNames i = false) (o : Origin) : exec (.calDset o p i mask) s
      = .next ((s.modPort p fun q => { q with dsetPending := q.dsetPending ++ [(i, mask, s.now + 1600)] }).complete o 0xA1 .done []) := by
  have hnames : (mask == 0 && (s.port p).ownNames i) = false := by
    rcases h with h | h
    · rw [beq_false_of_ne h, Bool.false_and]
    · rw [h, Bool.and_false]
  show execCalDset o p i mask s = _
  rw [execCalDset, command_passes]
  · rfl
  · rw [hnames, hvalid, hrun]
    simp [firstFail, hp, hi]

theorem exec_calDset_named (hp : p < 16) (hi : i < 64) (h : (s.port p).ownNames i = true) (o : Origin) :
    exec (.calDset o p i 0) s = .next (s.complete o 0xA1 .badField []) := by
  show execCalDset o p i 0 s = _
  rw [execCalDset, command_turned_away (st := .badField) (by simp [firstFail, hp, hi, h])]

theorem exec_calGet {slot : Nat} (hp : p < 16) (hslot : slot < 4096) (hrun : (s.port p).halted = false) (o : Origin) :
    exec (.calGet o p slot) s = .next (s.complete o 0xA2 .done
      (BitVec.ofNat 8 (((s.port p).writtenCal slot).type * 64 + ((s.port p).writtenCal slot).dset) ::
        leBytes 8 ((s.port p).writtenSet ((s.port p).writtenCal slot).dset).toNat)) := by
  show execCalGet o p slot s = _
  rw [execCalGet, command_passes (by simp [firstFail, hp, hslot, hrun])]

end

/-! ### A slot begins (R379, R383) -/

/-- A port as a slot begins: the changes that touch the slot have taken effect (R383). -/
def Port.atSlot (q : Port) (slot : Nat) (now : W64) : Port := { (q.applyCal slot now).applySets slot now with slot := slot }

theorem exec_calendarSlot {s : State} {p : Nat} (hp : p < 16) : exec (.calendarSlot p s.slotNow) s
    = .next (((s.modPort p fun q => q.atSlot s.slotNow s.now).countOpen p).flushCtl p) := by
  show execCalendarSlot p s.slotNow s = _
  rw [execCalendarSlot, decide_eq_true hp, beq_self_eq_true, Bool.and_self, act_true]
  rfl

/-- A key that no change of a list names reads as before. -/
theorem tget_foldl_tset_ne {β γ : Type} [DecidableEq β] (d : β) {i : Nat} (l : List (Nat × β × γ)) (h : ∀ e ∈ l, e.1 ≠ i)
    (t : Tbl β) : tget (l.foldl (fun t e => tset t d e.1 e.2.1) t) d i = tget t d i := by
  induction l generalizing t with
  | nil => rfl
  | cons e l ih =>
    rw [List.foldl_cons, ih fun x hx => h x (List.mem_cons_of_mem e hx), tget_tset_ne _ _ _ (h e (List.mem_cons_self ..)).symm]

section
variable (q : Port) (slot : Nat) (now : W64)

/-- Of the calendar a slot takes up the changes of its own entry alone (R383). -/
theorem atSlot_cal_ne {i : Nat} (h : i ≠ slot % 4096) :
    tget (q.atSlot slot now).cal CalEntry.reset i = tget q.cal CalEntry.reset i := by
  refine tget_foldl_tset_ne CalEntry.reset _ (fun e he hi => ?_) q.cal
  obtain ⟨hslot, -⟩ := Bool.and_eq_true_iff.1 (List.mem_filter.1 he).2
  exact h (hi.symm.trans (beq_iff_eq.1 hslot))

/-- The one change that waits for a slot is taken up as the slot begins, when its time has come (R383). -/
theorem atSlot_cal {e : Nat × CalEntry × W64} (h : q.calPending.filter (fun e => e.1 == slot % 4096) = [e])
    (hdue : e.2.2.toNat ≤ now.toNat) : tget (q.atSlot slot now).cal CalEntry.reset (slot % 4096) = e.2.1 := by
  have hmem : e ∈ q.calPending.filter fun e => e.1 == slot % 4096 := by rw [h]; exact List.mem_singleton_self e
  have hkey : e.1 = slot % 4096 := beq_iff_eq.1 (List.mem_filter.1 hmem).2
  have hall : q.calPending.filter (fun e => e.1 == slot % 4096 && decide (e.2.2.toNat ≤ now.toNat)) = [e] := by
    have hboth := congrArg (List.filter fun e => decide (e.2.2.toNat ≤ now.toNat)) h
    rw [List.filter_filter, List.filter_singleton, decide_eq_true hdue] at hboth
    simpa only [Bool.and_comm, cond_true] using hboth
  show tget ((q.calPending.filter _).foldl _ q.cal) CalEntry.reset (slot % 4096) = e.2.1
  rw [hall, List.foldl_cons, List.foldl_nil, hkey, tget_tset_self]

/-- A change whose time has not come waits on (R383). -/
theorem atSlot_waits {e : Nat × CalEntry × W64} (h : e ∈ q.calPending) (hnot : now.toNat < e.2.2.toNat) :
    e ∈ (q.atSlot slot now).calPending :=
  List.mem_filter.2 ⟨h, by simp [hnot]⟩

end

/-! ### The obligation on calendars -/

/-- Settles O36: a write by the run of OPEN slots that its check wants, a slot by what `Port.atSlot` takes up. -/
theorem calendarsChangeAtTheirSlots : Obligations.CalendarsChangeAtTheirSlots := by
  unfold Obligations.CalendarsChangeAtTheirSlots
  refine ⟨fun o p slot type dset s htype h => exec_calSet htype h o, fun p slot type dset at' s h => calWrite_open h at',
    fun o p i mask s hp hi hvalid hrun => ⟨fun h => exec_calDset hp hi hvalid hrun h o, fun hmask h => ?_⟩,
    fun o p slot s hp hslot hrun => exec_calGet hp hslot hrun o, fun p s hp => ⟨_, exec_calendarSlot hp, ?_⟩⟩
  · subst hmask
    exact exec_calDset_named hp hi h o
  · have hframe := (countOpen_only (s.modPort p fun q => q.atSlot s.slotNow s.now) p).trans (flushCtl_only _ p)
    rw [hframe.port, State.port_modPort]
    refine ⟨rfl, fun i hi => atSlot_cal_ne _ _ _ hi, fun e he hdue => atSlot_cal _ _ _ he hdue,
      fun e he hnot => atSlot_waits _ _ _ he hnot, ?_⟩
    rw [show _ = _ from hframe]
    exact ⟨rfl, rfl, rfl, rfl⟩

end Sys2Proof.Machine
end

section
/-! SUPPORT. Rack ports train, change and leave service (11): notices of a port, and what leaving service moves and ends. -/

namespace Sys2Proof.Machine

open Sys2Proof Sys2Proof.Safety

/-! ### Notices of a port (R459) -/

/-- The causes of the notices of a port (R459). -/
theorem cause_port (s : State) {p j : Nat} (hp : p < 16) (hj : j < 4) : s.cause (360 + 4 * p + j) =
    if j = 0 then (s.port p).enable && decide ((s.port p).state ≠ .up) else if j = 1 then (s.port p).gen2Fail
    else !(s.port p).failed.isEmpty := by
  have hport : (360 + 4 * p + j - 360) / 4 = p := by omega
  have hcond : (360 + 4 * p + j) % 4 = j := by omega
  unfold State.cause
  rw [if_neg (by omega), if_neg (by omega), if_neg (by omega), if_pos (by omega), hport, hcond]
  simp only [beq_iff_eq]

section
variable (s : State) {p : Nat} (hp : p < 16)
include hp

theorem cause_portDown : s.cause (ntPortDown p) = ((s.port p).enable && decide ((s.port p).state ≠ .up)) :=
  cause_port s hp (by decide : 0 < 4)

theorem cause_portGen1 : s.cause (ntPortGen1 p) = (s.port p).gen2Fail := cause_port s hp (by decide : 1 < 4)

theorem cause_pathFail : s.cause (ntPathFail p) = !(s.port p).failed.isEmpty := cause_port s hp (by decide : 2 < 4)

end

/-- A condition of a port that comes about as the port changes is pending (R459, R460). -/
theorem setPort_pend {s : State} {p src : Nat} {f : Port → Port} (hsrc : src = ntPortDown p ∨ src = ntPortGen1 p) (hp : p < 16)
    (hwas : s.cause src = false) (hnow : ∀ t : State, t.port p = f (s.port p) → t.cause src = true) :
    (s.setPort p f).notices.pend.getLsbD src = true := by
  have hlt : src < 512 := by
    unfold ntPortDown ntPortGen1 at hsrc
    omega
  have hport : (s.modPort p f).port p = f (s.port p) := State.port_modPort s p f
  refine capSense_keeps_pend _ [0] s (sense_keeps_pend _ _ s ?_)
  rcases hsrc with rfl | rfl
  · exact sense_keeps_pend _ _ s (sense_pend hlt (hnow _ hport) hwas)
  · refine sense_pend hlt (hnow _ ?_) hwas
    rw [port_of_table (congrArg Ports.port (sense_same _ _ s).ports), hport]

/-! ### Training (R372, R386) -/

/-- A port that has exchanged GENMAX and kind with its peer (R372). -/
def Port.met (peerGenMax : Nat) (peerHost : Bool) (q : Port) : Port :=
  { q with
    state := .train, peerGenMax := peerGenMax, peerHost := peerHost
    trainStep := if 2 ≤ peerGenMax ∧ 2 ≤ q.genMax ∧ q.gen2Fail = false then 2 else 1 }

/-- A port that has completed its training (R372, R386). -/
def Port.trained (p : Nat) (q : Port) : Port :=
  { q with
    state := .up, gen := q.trainStep, trainStep := 0
    p2pWritten := q.p2pWritten || (p == 0 && q.peerHost), p2p := q.p2pWritten || (p == 0 && q.peerHost) }

section
variable {s : State} {p : Nat} (hp : p < 16)
include hp

theorem exec_portTrain (hstep : (s.port p).trainStep = 0)
    (h : (s.port p).state = .train ∨ ((s.port p).state = .off ∧ (s.port p).enable = true ∧ s.power.tripped = false))
    (g : Nat) (host : Bool) : exec (.portTrain p g host) s = .next (s.setPort p (Port.met g host)) := by
  have hmay : (decide ((s.port p).state = .train) || (decide ((s.port p).state = .off) && (s.port p).enable && !s.power.tripped))
      = true := by
    rcases h with h | ⟨hoff, hen, htrip⟩
    · rw [decide_eq_true h, Bool.true_or]
    · rw [decide_eq_true hoff, hen, htrip, Bool.not_false, Bool.and_self, Bool.and_self, Bool.or_true]
  show execPortTrain p g host s = _
  rw [execPortTrain, decide_eq_true hp, hmay, hstep, beq_self_eq_true, Bool.and_self, Bool.and_self, act_true]
  simp only [Bool.not_eq_true']
  rfl

theorem exec_gen2TrainTimeout (htrain : (s.port p).state = .train) (hstep : (s.port p).trainStep = 2) :
    exec (.gen2TrainTimeout p) s = .next (s.setPort p fun q => { q with gen2Fail := true, trainStep := 1 }) := by
  show execGen2TrainTimeout p s = _
  rw [execGen2TrainTimeout, decide_eq_true hp, decide_eq_true htrain, hstep, beq_self_eq_true, Bool.and_self, Bool.and_self, act_true]

theorem exec_portTrainTimeout (htrain : (s.port p).state = .train) :
    exec (.portTrainTimeout p) s = .next (s.setPort p fun q => { q with state := .fault, trainStep := 0 }) := by
  show execPortTrainTimeout p s = _
  rw [execPortTrainTimeout, decide_eq_true hp, decide_eq_true htrain, Bool.and_self, act_true]

theorem exec_portTrainComplete (htrain : (s.port p).state = .train) (hstep : (s.port p).trainStep ≠ 0) :
    exec (.portTrainComplete p) s = .next (s.setPort p (Port.trained p)) := by
  show execPortTrainComplete p s = _
  rw [execPortTrainComplete, decide_eq_true hp, decide_eq_true htrain, bne_iff_ne.2 hstep, Bool.and_self, Bool.and_self, act_true]
  rfl

theorem exec_peerLightDetect_fault (hen : (s.port p).enable = true) (hfault : (s.port p).state = .fault)
    (hstuck : (s.port p).stuck = false) : exec (.peerLightDetect p) s = .next (s.setPort p Port.startTrain) := by
  show execPeerLightDetect p s = _
  rw [execPeerLightDetect, decide_eq_true hp, hen, decide_eq_true hfault, hstuck, Bool.not_false, Bool.and_self,
    Bool.true_or, Bool.and_self, act_true, if_neg (by rw [hfault]; nofun)]

theorem exec_portDown (hup : (s.port p).state = .up) (why : PortCause) :
    exec (.portDown p why) s = .next (s.takePort p fun q => q.down why) := by
  show execPortDown p why s = _
  rw [execPortDown, decide_eq_true hp, decide_eq_true hup, Bool.and_self, act_true]

end

/-! ### A port leaves service (R258, R373, R397) -/

/-- Between s and t nothing but ports, the operations across the rack and what notices leave behind has changed; each of those
operations is still held, and what was pending is. -/
structure PortLeaves (s t : State) : Prop where
  frame : SameButSignals { s with ports := t.ports, rem := { s.rem with rack := t.rem.rack } } t
  ids : t.rem.rack.map (·.id) = s.rem.rack.map (·.id)
  pend : ∀ i, s.notices.pend.getLsbD i = true → t.notices.pend.getLsbD i = true

theorem PortLeaves.refl (s : State) : PortLeaves s s := ⟨rfl, rfl, fun _ h => h⟩

theorem PortLeaves.trans {a b c : State} (h : PortLeaves a b) (k : PortLeaves b c) : PortLeaves a c where
  frame := by
    have hframe := h.frame
    have kframe := k.frame
    unfold SameButSignals at *
    rw [kframe, hframe]
  ids := k.ids.trans h.ids
  pend i hi := k.pend i (h.pend i hi)

theorem setPort_keeps_pend (s : State) (p : Nat) (f : Port → Port) {i : Nat} (h : s.notices.pend.getLsbD i = true) :
    (s.setPort p f).notices.pend.getLsbD i = true :=
  capSense_keeps_pend _ [0] s (sense_keeps_pend _ _ s (sense_keeps_pend _ _ s (sense_keeps_pend (s.modPort p f) _ s h)))

theorem setPort_leaves (s : State) (p : Nat) (f : Port → Port) : PortLeaves s (s.setPort p f) where
  frame := by
    have hset := setPort_same s p f
    have hrem : (s.setPort p f).rem = s.rem := by rw [hset]; rfl
    rw [hset.ports, hrem]
    exact hset
  ids := by rw [setPort_same s p f]; rfl
  pend _ h := setPort_keeps_pend s p f h

theorem moveQueue_leaves (s : State) (p : Nat) (l : QPacket → Bool) : PortLeaves s (s.moveQueue p l) := by
  refine each_rel PortLeaves.refl .trans _ (fun q u => ?_) s
  dsimp only
  split
  · exact ⟨rfl, rfl, fun _ h => h⟩
  · exact .refl u

theorem markAccepted_leaves (s : State) (l : List SentFrame) : PortLeaves s (s.markAccepted l) := by
  refine ⟨rfl, ?_, fun _ h => h⟩
  rw [State.markAccepted, List.map_map]
  refine List.map_congr_left fun r _ => ?_
  rw [Function.comp_apply]
  split <;> rfl

theorem portLeft_leaves (s : State) (p : Nat) : PortLeaves s (s.portLeft p) := by
  unfold State.portLeft
  extract_lets s1 lost
  have h1 : PortLeaves s s1 := moveQueue_leaves s p _
  clear_value s1
  split
  · exact h1
  · have hlost : PortLeaves s1 { s1 with ports := { s1.ports with sent := s1.ports.sent.filter fun f => !lost f } } :=
      ⟨rfl, rfl, fun _ h => h⟩
    exact (h1.trans hlost).trans (markAccepted_leaves _ _)

/-- Once a port has changed, its leaving service moves frames and packets alone. -/
theorem takePort_leaves (s : State) (p : Nat) (f : Port → Port) : PortLeaves (s.setPort p f) (s.takePort p f) := by
  unfold State.takePort
  extract_lets s1
  split
  · exact portLeft_leaves s1 p
  · exact .refl s1

theorem takePort_port (s : State) (p : Nat) (f : Port → Port) : (s.takePort p f).port p = f (s.port p) := by
  rw [port_of_table (takePort_ports s p f).2, State.port_modPort]

theorem takePort_port_ne (s : State) {p i : Nat} (f : Port → Port) (h : i ≠ p) : (s.takePort p f).port i = s.port i := by
  rw [port_of_table (takePort_ports s p f).2, State.port_modPort_ne _ _ h]

/-- A port that leaves service retrains, at Gen-1 when codewords of Gen-2 failed; one whose codewords of Gen-1 failed stays in
FAULT (R373). -/
theorem down_state (q : Port) (why : PortCause) :
    (why = .alignment ∨ q.gen = 2 → (q.down why).state = .train ∧ (q.down why).trainStep = 0) ∧
    (why = .uncorrectable → q.gen = 2 → (q.down why).gen2Fail = true) ∧
    (why = .uncorrectable → q.gen ≠ 2 → (q.down why).state = .fault ∧ (q.down why).stuck = true) ∧
    (q.down why).state ≠ .up ∧ (q.down why).enable = q.enable := by
  cases why with
  | alignment => exact ⟨fun _ => ⟨rfl, rfl⟩, nofun, nofun, nofun, rfl⟩
  | uncorrectable =>
    unfold Port.down
    by_cases hgen : q.gen = 2
    · rw [if_pos hgen]
      exact ⟨fun _ => ⟨rfl, rfl⟩, fun _ _ => rfl, fun _ hne => absurd hgen hne, nofun, rfl⟩
    · rw [if_neg hgen]
      exact ⟨fun h => absurd (h.resolve_left nofun) hgen, fun _ h => absurd h hgen, fun _ _ => ⟨rfl, rfl⟩, nofun, rfl⟩

/-! ### PORT_CFG (R413) -/

section
variable {s : State} {p : Nat} {d : W32}

theorem exec_portCfgWrite (hp : p < 16) : exec (.portCfgWrite p d) s
    = .next (State.wroteReg ((s.unpost (.port p)).portCfg p d) .unitLate (portCfgReg p)) := by
  show execPortCfgWrite p d s = _
  rw [execPortCfgWrite, decide_eq_true hp, act_true]

theorem portCfg_training (h : (s.port p).state = .train) : s.portCfg p d = (s, .wrongState) := by
  unfold State.portCfg
  rw [if_pos h]

theorem portCfg_reserved (h : (s.port p).state ≠ .train) (h1 : bits d.toNat 30 29 ≠ 1) (h2 : bits d.toNat 30 29 ≠ 2) :
    s.portCfg p d = (s, .outOfRange) := by
  unfold State.portCfg
  rw [if_neg h, if_pos ⟨h1, h2⟩]

theorem portCfg_done (h : (s.port p).state ≠ .train) (hgen : bits d.toNat 30 29 = 1 ∨ bits d.toNat 30 29 = 2) :
    s.portCfg p d = (s.takePort p fun q => q.config d, .done) := by
  unfold State.portCfg
  rw [if_neg h, if_neg (by omega)]

theorem unitOf_portCfgReg (hp : p < 16) : unitOf (portCfgReg p) = some (.port p) := by
  have hblock : portCfgReg p / 0x10000 = 7 := by
    unfold portCfgReg
    omega
  have hoff : portCfgReg p % 0x10000 = 0x140 + 4 * p := by
    unfold portCfgReg
    omega
  unfold unitOf
  rw [hblock, hoff, if_neg (by omega), if_neg (by omega), if_neg (by omega), if_pos (by omega)]
  exact congrArg (fun i => some (Unit'.port i)) (by omega)

theorem config_halted (q : Port) (d : W32) : (q.config d).halted = q.halted := by
  unfold Port.config
  extract_lets en q1
  split
  · rfl
  · split <;> rfl

/-- What a write of PORT_CFG makes of a port: P2P is taken at the next training, ENABLE at once (R372, R386, R413). -/
theorem config_fields (q : Port) (d : W32) : (q.config d).enable = d.getLsbD 31 ∧ (q.config d).genMax = bits d.toNat 30 29 ∧
    (q.config d).p2pWritten = d.getLsbD 28 ∧ (q.config d).p2p = q.p2p ∧
    (d.getLsbD 31 = false → (q.config d).state = .off) ∧
    (d.getLsbD 31 = true → q.enable = false → (q.config d).state = .train) ∧
    (d.getLsbD 31 = true → q.enable = true → (q.config d).state = q.state) := by
  unfold Port.config
  cases hd : d.getLsbD 31 with
  | false => exact ⟨rfl, rfl, rfl, rfl, fun _ => rfl, nofun, nofun⟩
  | true =>
    cases hen : q.enable with
    | false => exact ⟨rfl, rfl, rfl, rfl, nofun, fun _ _ => rfl, nofun⟩
    | true => exact ⟨rfl, rfl, rfl, rfl, nofun, nofun, fun _ _ => rfl⟩

/-- A write of PORT_CFG that a port takes (R413). -/
theorem exec_portCfgWrite_done (hp : p < 16) (h : (s.port p).state ≠ .train)
    (hgen : bits d.toNat 30 29 = 1 ∨ bits d.toNat 30 29 = 2) (hrun : (s.port p).halted = false) :
    exec (.portCfgWrite p d) s = .next ((s.unpost (.port p)).takePort p fun q => q.config d) := by
  have hhalt : ((s.unpost (.port p)).takePort p fun q => q.config d).haltedAt (.port p) = false := by
    rw [State.haltedAt, takePort_port, config_halted]
    exact hrun
  rw [exec_portCfgWrite hp, portCfg_done (s := s.unpost (.port p)) h hgen, wroteReg_done (unitOf_portCfgReg hp) hhalt]

end

/-! ### The obligation on ports -/

/-- Settles O35: training by the port that each step leaves, leaving service by `takePort_leaves` and what it makes of the port. -/
theorem portsTrainAndLeave : Obligations.PortsTrainAndLeave := by
  unfold Obligations.PortsTrainAndLeave
  refine ⟨fun p g host s hp hstep h => ⟨_, exec_portTrain hp hstep h g host, setPort_port s p _, setPort_only s p _⟩,
    fun p s hp htrain => ⟨fun hstep => ⟨_, exec_gen2TrainTimeout hp htrain hstep, setPort_port s p _, fun hwas => ?_,
        setPort_only s p _⟩, ⟨_, exec_portTrainTimeout hp htrain, setPort_port s p _, setPort_only s p _⟩, fun hstep =>
        ⟨_, exec_portTrainComplete hp htrain hstep, ?_⟩⟩,
    fun p s hp hen hfault hstuck => ⟨_, exec_peerLightDetect_fault hp hen hfault hstuck, setPort_port s p _, ?_,
      setPort_only s p _⟩,
    fun p why s hp hup => ⟨_, exec_portDown hp hup why, ?_⟩,
    fun p d s hp => ⟨fun htrain => ?_, fun hnot h1 h2 => ?_, fun hnot hgen hrun =>
      ⟨_, exec_portCfgWrite_done hp hnot hgen hrun, ?_⟩⟩⟩
  · refine setPort_pend (.inr rfl) hp (by rw [cause_portGen1 s hp, hwas]) fun t ht => ?_
    rw [cause_portGen1 t hp, ht]
  · rw [setPort_port]
    exact ⟨rfl, rfl, rfl, setPort_only s p _⟩
  · rw [setPort_port]
    rfl
  · obtain ⟨hretrain, hgen2, hgen1, hout, hsame⟩ := down_state (s.port p) why
    have hleft := takePort_leaves s p fun q => q.down why
    have hall := (setPort_leaves s p _).trans hleft
    rw [takePort_port]
    refine ⟨hretrain, hgen2, hgen1, fun hen => hleft.pend _ ?_, fun i hi => takePort_port_ne s _ hi, hall.ids, hall.frame⟩
    refine setPort_pend (.inl rfl) hp ?_ fun t ht => ?_
    · rw [cause_portDown s hp, hup]
      simp
    · rw [cause_portDown t hp, ht, hsame, hen, decide_eq_true hout, Bool.and_self]
  · rw [exec_portCfgWrite hp, portCfg_training (s := s.unpost (.port p)) htrain, wroteReg_dropped _ (by nofun)]
  · rw [exec_portCfgWrite hp, portCfg_reserved (s := s.unpost (.port p)) hnot h1 h2, wroteReg_dropped _ (by nofun)]
  · obtain ⟨hen, hgenMax, hwritten, hp2p, hoff, hon, hstays⟩ := config_fields (s.port p) d
    rw [takePort_port]
    exact ⟨hen, hgenMax, hwritten, hp2p, hoff, hon, hstays,
      ((setPort_leaves (s.unpost (.port p)) p _).trans (takePort_leaves _ p _)).frame⟩

end Sys2Proof.Machine
end

section
/-! SUPPORT. The checks of a received frame (11), one lemma for each way a frame ends or passes. -/

namespace Sys2Proof.Machine

open Sys2Proof Sys2Proof.Safety

/-! ### Tags (R378, R387, R400, R402) -/

/-- Without a key no tag holds, but on a link to a P2P peer (R387, R400). -/
theorem tagOk_without_key {s : State} {p : Nat} (hp2p : (s.port p).p2p = false) (hkey : s.group.key = none)
    (hwindow : s.group.window = false) (f : Frame) : s.tagOk p f = false := by
  have hkeys : s.group.goodKeys = [] := by
    rw [Group.goodKeys, hkey, hwindow]
    rfl
  rw [State.tagOk, hp2p, hkeys]
  rfl

/-! ### A frame is discarded and counted (R378, R399) -/

theorem exec_frameReceive {s : State} {p : Nat} (hp : p < 16) (hrun : s.portRuns p = true) (f : Frame) :
    exec (.frameReceive p f) s = .next (s.receiveFrame p f) := by
  show execFrameReceive p f s = _
  rw [execFrameReceive, decide_eq_true hp, hrun, Bool.and_self, act_true]

/-- STRANGER was raised less than 1 ms ago at a port (R399). -/
def State.strangerQuiet (s : State) (p : Nat) : Bool :=
  match (s.port p).strangerAt with
  | some t => decide ((s.now - t).toNat < ticksPerMs)
  | none => false

/-- A port with one more frame of a stranger, and the time of the notice of it (R399). -/
def Port.oneStranger (quiet : Bool) (now : W64) (q : Port) : Port :=
  { q with stranger := inc 11 q.stranger, strangerAt := if quiet then q.strangerAt else some now }

theorem peerWin_modPort (s : State) (p key : Nat) (g : Port → Port) : (s.modPort p g).peerWin key = s.peerWin key := rfl

section
variable {s : State} {p : Nat} {f : Frame}

theorem receiveFrame_crc (hcrc : frameCrc f ≠ f.crc) :
    s.receiveFrame p f = s.modPort p fun q => { q with crcErr := inc 11 q.crcErr } := by
  unfold State.receiveFrame
  rw [if_pos (bne_iff_ne.2 hcrc)]

section
variable (hcrc : frameCrc f = f.crc)
include hcrc

theorem receiveFrame_stranger (htag : s.tagOk p f = false) : s.receiveFrame p f =
    if s.strangerQuiet p then s.modPort p (Port.oneStranger (s.strangerQuiet p) s.now)
    else (s.modPort p (Port.oneStranger (s.strangerQuiet p) s.now)).raise (ntStranger p) := by
  unfold State.receiveFrame
  rw [hcrc, bne_self_eq_false, if_neg Bool.false_ne_true, htag, Bool.not_false, if_pos rfl]
  rfl

theorem stranger_counted (hp : p < 16) (htag : s.tagOk p f = false) :
    ((s.receiveFrame p f).port p).stranger = inc 11 (s.port p).stranger ∧
      ((s.receiveFrame p f).port p).rxq = (s.port p).rxq ∧
      ((s.port p).strangerAt = none → (s.receiveFrame p f).notices.pend.getLsbD (ntStranger p) = true) ∧
      SameButSignals { s with ports := { s.ports with port := (s.receiveFrame p f).ports.port } } (s.receiveFrame p f) := by
  have hlt : ntStranger p < 512 := by
    unfold ntStranger
    omega
  rw [receiveFrame_stranger hcrc htag]
  generalize hu : s.modPort p (Port.oneStranger (s.strangerQuiet p) s.now) = u
  have hport : (u.port p).stranger = inc 11 (s.port p).stranger ∧ (u.port p).rxq = (s.port p).rxq := by
    subst hu
    rw [State.port_modPort]
    exact ⟨rfl, rfl⟩
  have hframe : { s with ports := { s.ports with port := u.ports.port } } = u := by
    subst hu
    rfl
  split
  · next hquiet =>
    refine ⟨hport.1, hport.2, fun hnone => ?_, by rw [hframe]; exact .refl u⟩
    rw [State.strangerQuiet, hnone] at hquiet
    exact absurd hquiet Bool.false_ne_true
  · have hraise := raise_same u (ntStranger p)
    rw [port_of_table (congrArg Ports.port hraise.ports), hraise.ports, hframe]
    exact ⟨hport.1, hport.2, fun _ => raise_pend u hlt, hraise⟩

variable (htag : s.tagOk p f = true)
include htag

/-- The addresses of a frame name this device, and a sender in the plat table or the port's P2P peer (R378, R387). -/
def State.addressed (s : State) (p : Nat) (h : FHdr) : Bool :=
  if (s.port p).p2p then h.fdst == 0 || (s.plat.valid && h.fdst == s.plat.id)
  else s.plat.valid && h.fdst == s.plat.id && (s.platMatch h.fsrc).isSome

theorem receiveFrame_misaddressed (haddr : s.addressed p (fhdrOf f.hdr) = false) :
    s.receiveFrame p f = s.modPort p fun q => { q with misaddr := inc 10 q.misaddr } := by
  unfold State.addressed at haddr
  unfold State.receiveFrame
  rw [hcrc, bne_self_eq_false, if_neg Bool.false_ne_true, htag, Bool.not_true, if_neg Bool.false_ne_true, haddr, Bool.not_false,
    if_pos rfl]

/-! ### A frame passes (R388, R392) -/

/-- The window of a frame's sender is empty when another incarnation of it sends (R392). -/
def State.metSender (s : State) (key : Nat) (sinc : Byte) : State :=
  if (s.peerWin key).sinc = some sinc then s else s.modWin key fun _ => { PeerWin.reset with sinc := some sinc }

theorem receiveFrame_addressed (haddr : s.addressed p (fhdrOf f.hdr) = true) : s.receiveFrame p f =
    if (fhdrOf f.hdr).dinc != s.group.inc && (fhdrOf f.hdr).kind != 5 then s.sendCtl p (s.peerKey p (fhdrOf f.hdr).fsrc) 5 []
    else (s.metSender (s.peerKey p (fhdrOf f.hdr).fsrc) (fhdrOf f.hdr).sinc).modPort p fun q =>
      { q with rxq := if 1 ≤ (fhdrOf f.hdr).kind ∧ (fhdrOf f.hdr).kind ≤ 5 then q.rxq ++ [(f, s.now)] else q.rxq } := by
  unfold State.addressed at haddr
  unfold State.receiveFrame
  rw [hcrc, bne_self_eq_false, if_neg Bool.false_ne_true, htag, Bool.not_true, if_neg Bool.false_ne_true, haddr, Bool.not_true,
    if_neg Bool.false_ne_true]
  rfl

/-- A frame for another incarnation of this device is answered with RESYNC, unless it is one (R392). -/
theorem receiveFrame_resync (haddr : s.addressed p (fhdrOf f.hdr) = true) (hdinc : (fhdrOf f.hdr).dinc ≠ s.group.inc)
    (hkind : (fhdrOf f.hdr).kind ≠ 5) : s.receiveFrame p f = s.sendCtl p (s.peerKey p (fhdrOf f.hdr).fsrc) 5 [] := by
  rw [receiveFrame_addressed hcrc htag haddr, bne_iff_ne.2 hdinc, bne_iff_ne.2 hkind, Bool.and_self, if_pos rfl]

theorem receiveFrame_passes (haddr : s.addressed p (fhdrOf f.hdr) = true) (hdinc : (fhdrOf f.hdr).dinc = s.group.inc)
    (hkind : 1 ≤ (fhdrOf f.hdr).kind ∧ (fhdrOf f.hdr).kind ≤ 5) :
    s.receiveFrame p f = (s.metSender (s.peerKey p (fhdrOf f.hdr).fsrc) (fhdrOf f.hdr).sinc).modPort p fun q =>
      { q with rxq := q.rxq ++ [(f, s.now)] } := by
  rw [receiveFrame_addressed hcrc htag haddr, hdinc, bne_self_eq_false, Bool.false_and, if_neg Bool.false_ne_true]
  simp only [if_pos hkind]

end

end

/-! ### The obligation on received frames -/

/-- Settles O37: each check by the lemma of the frames that it turns away, the frames that pass by `receiveFrame_passes`. -/
theorem framesAreCheckedInOrder : Obligations.FramesAreCheckedInOrder := by
  unfold Obligations.FramesAreCheckedInOrder
  refine ⟨fun p f s hp2p hkey hwindow => tagOk_without_key hp2p hkey hwindow f, fun p f s hp hrun => ?_⟩
  rw [exec_frameReceive hp hrun]
  refine ⟨fun hcrc => ?_, fun hcrc htag => ⟨_, rfl, stranger_counted hcrc hp htag⟩, fun hcrc htag hp2p hnot => ?_,
    fun hcrc htag hvalid hdst hsrc hlo hhi => ?_⟩
  · rw [receiveFrame_crc hcrc]
  · have haddr : s.addressed p (fhdrOf f.hdr) = false := by
      rw [State.addressed, hp2p, if_neg Bool.false_ne_true]
      simpa [and_assoc] using hnot
    rw [receiveFrame_misaddressed hcrc htag haddr]
  · have haddr : s.addressed p (fhdrOf f.hdr) = true := by
      rw [State.addressed, hvalid, hdst, hsrc, beq_self_eq_true, Bool.and_self, Bool.and_self, Bool.or_true, ite_self]
    refine ⟨fun hdinc hkind => ?_, fun hdinc hsinc => ?_, fun hdinc hsinc => ?_⟩
    · rw [receiveFrame_resync hcrc htag haddr hdinc hkind]
    · rw [receiveFrame_passes hcrc htag haddr hdinc ⟨hlo, hhi⟩, State.metSender, if_pos hsinc]
    · rw [receiveFrame_passes hcrc htag haddr hdinc ⟨hlo, hhi⟩, State.metSender, if_neg hsinc]
      refine ⟨_, rfl, ?_, ?_⟩
      · rw [peerWin_modPort, State.peerWin_modWin]
      · rw [State.port_modPort]
        rfl

end Sys2Proof.Machine
end

section
/-! SUPPORT. The output buffers of the rack ports (11): packets that move between them are neither lost nor made. -/

namespace Sys2Proof.Machine

open Sys2Proof Sys2Proof.Safety

/-! ### Tables as lists of entries -/

theorem tins_perm {β : Type} (t : Tbl β) (k : Nat) (v : β) : (tins t k v).Perm ((k, v) :: t) := by
  induction t with
  | nil => exact .refl _
  | cons e t ih =>
    obtain ⟨k', v'⟩ := e
    unfold tins
    split
    · exact .refl _
    · exact (ih.cons _).trans (.swap _ _ _)

/-- Each key of a table is listed once. -/
def KeysOnce {β : Type} (t : Tbl β) : Prop := (t.map (·.1)).Nodup

theorem keysOnce_tset {β : Type} [DecidableEq β] {t : Tbl β} (h : KeysOnce t) (d : β) (k : Nat) (v : β) :
    KeysOnce (tset t d k v) := by
  have hdel : KeysOnce (tdel t k) := h.sublist (List.filter_sublist.map _)
  have hnew : k ∉ (tdel t k).map (·.1) := by simp [tdel]
  unfold tset
  split
  · exact hdel
  · exact ((tins_perm (tdel t k) k v).map fun e : Nat × β => e.1).nodup_iff.2 (List.nodup_cons.2 ⟨hnew, hdel⟩)

/-- Packets in all the output buffers of a table. -/
def queuedIn (t : Tbl (List QPacket)) : Nat := (t.map fun e => e.2.length).sum

theorem queuedIn_tdel {t : Tbl (List QPacket)} (h : KeysOnce t) (k : Nat) :
    queuedIn (tdel t k) + (tget t [] k).length = queuedIn t := by
  induction t with
  | nil => rfl
  | cons e t ih =>
    obtain ⟨k', v⟩ := e
    obtain ⟨hnew, hrest⟩ := List.nodup_cons.1 h
    by_cases hk : k' = k
    · subst hk
      have hdel : tdel t k' = t := List.filter_eq_self.2 fun e he => by
        simpa using fun heq : e.1 = k' => hnew (List.mem_map.2 ⟨e, he, heq⟩)
      have hcons : tdel ((k', v) :: t) k' = tdel t k' := by simp [tdel]
      rw [hcons, hdel]
      simp [queuedIn, tget, Nat.add_comm]
    · have hcons : tdel ((k', v) :: t) k = (k', v) :: tdel t k := by simp [tdel, hk]
      have hget : tget ((k', v) :: t) [] k = tget t [] k := by simp [tget, hk]
      have hsum : ∀ u, queuedIn ((k', v) :: u) = v.length + queuedIn u := fun _ => rfl
      rw [hcons, hget, hsum, hsum, Nat.add_assoc, ih hrest]

/-- A buffer that changes changes the packets of all by its own. -/
theorem queuedIn_tmod {t : Tbl (List QPacket)} (h : KeysOnce t) (k : Nat) (f : List QPacket → List QPacket) :
    queuedIn (tmod t [] k f) + (tget t [] k).length = queuedIn t + (f (tget t [] k)).length := by
  have hdel := queuedIn_tdel h k
  unfold tmod tset
  split
  · next hnil => rw [hdel, hnil, List.length_nil, Nat.add_zero]
  · have hsum : queuedIn (tins (tdel t k) k (f (tget t [] k))) = (f (tget t [] k)).length + queuedIn (tdel t k) :=
      ((tins_perm (tdel t k) k _).map fun e : Nat × List QPacket => e.2.length).sum_eq
    omega

/-! ### Packets move between buffers (R387, R395) -/

/-- Each packet stands in the output buffer of its own key (R185). -/
def InOwnBuffer (t : Tbl (List QPacket)) : Prop := ∀ e ∈ t, ∀ q ∈ e.2, outKey q = e.1

/-- A packet stands in the buffers as often as in its own. -/
theorem count_buffers {t : Tbl (List QPacket)} (hown : InOwnBuffer t) (honce : KeysOnce t) (q : QPacket) :
    (t.flatMap (·.2)).count q = (tget t [] (outKey q)).count q := by
  induction t with
  | nil => rfl
  | cons e t ih =>
    obtain ⟨k, v⟩ := e
    obtain ⟨hnew, hrest⟩ := List.nodup_cons.1 honce
    obtain ⟨hv, hown⟩ := List.forall_mem_cons.1 hown
    rw [List.flatMap_cons, List.count_append]
    by_cases hk : k = outKey q
    · have hnone : (t.flatMap (·.2)).count q = 0 := by
        refine List.count_eq_zero.2 fun hq => ?_
        obtain ⟨e, he, hqe⟩ := List.mem_flatMap.1 hq
        exact hnew (List.mem_map.2 ⟨e, he, (hown e he q hqe).symm.trans hk.symm⟩)
      rw [hnone, hk, tget, beq_self_eq_true, if_pos rfl, Nat.add_zero]
    · have hnone : v.count q = 0 := List.count_eq_zero.2 fun hq => hk (hv q hq).symm
      rw [hnone, ih hown hrest, tget, beq_false_of_ne hk, if_neg Bool.false_ne_true, Nat.zero_add]

/-- Of the packets of a list each stands in its own buffer at least as often. -/
def Buffered (l : List QPacket) (t : Tbl (List QPacket)) : Prop := ∀ q, l.count q ≤ (tget t [] (outKey q)).count q

theorem buffered_of_sublist {s : State} (hown : InOwnBuffer s.ports.outq) (honce : KeysOnce s.ports.outq) (p : Nat)
    (l : QPacket → Bool) : Buffered ((s.outBuffers p).filter l) s.ports.outq := by
  intro q
  rw [← count_buffers hown honce]
  exact (List.filter_sublist.trans (List.filter_sublist.flatMap _)).count_le q

/-- The buffers once a packet has moved. -/
def movedTo (t : Tbl (List QPacket)) (q q' : QPacket) : Tbl (List QPacket) :=
  tmod (tmod t [] (outKey q) fun l => l.erase q) [] (outKey q') fun l => l ++ [q']

theorem movedTo_keysOnce {t : Tbl (List QPacket)} (h : KeysOnce t) (q q' : QPacket) : KeysOnce (movedTo t q q') :=
  keysOnce_tset (keysOnce_tset h _ _ _) _ _ _

/-- A packet that moves from its buffer to another is not lost. -/
theorem queuedIn_movedTo {t : Tbl (List QPacket)} (h : KeysOnce t) {q : QPacket} (hq : q ∈ tget t [] (outKey q)) (q' : QPacket) :
    queuedIn (movedTo t q q') = queuedIn t := by
  have htaken := queuedIn_tmod h (outKey q) fun l => l.erase q
  have hput := queuedIn_tmod (keysOnce_tset h [] (outKey q) ((tget t [] (outKey q)).erase q)) (outKey q') fun l => l ++ [q']
  have hone := List.length_erase_add_one hq
  rw [List.length_append, List.length_singleton] at hput
  simp only [movedTo, tmod] at htaken hput ⊢
  omega

/-- The packets that still are to move stand in their buffers when one of them has moved. -/
theorem buffered_movedTo {t : Tbl (List QPacket)} {q : QPacket} {l : List QPacket} (h : Buffered (q :: l) t) (q' : QPacket) :
    Buffered l (movedTo t q q') := by
  intro x
  have hx := h x
  have htaken : l.count x ≤ (tget (tmod t [] (outKey q) fun l => l.erase q) [] (outKey x)).count x := by
    rw [List.count_cons] at hx
    rw [tget_tmod]
    split
    · rw [List.count_erase]
      omega
    · omega
  rw [movedTo, tget_tmod]
  split
  · rw [List.count_append]
    omega
  · exact htaken

/-! ### Frames and packets of a path move (R395, R396) -/

/-- A packet goes to the port that R395 now chooses, or stays without one. -/
def State.rerouted (s : State) (q : QPacket) : State :=
  let r := s.route (q.readers.getD 1 0)
  if r.1 = .done then (s.outTake q).outPut { q with readers := [r.2.1, r.2.2, q.readers.getD 2 0] } else s

theorem moveQueue_eq (s : State) (p : Nat) (l : QPacket → Bool) : s.moveQueue p l
    = each ((s.outBuffers p).filter fun q => l q && !(s.port p).p2p) (fun q s => s.rerouted q) s := rfl

/-- Packets of the buffers that go elsewhere are all queued there (R395). -/
theorem each_rerouted_queued {l : List QPacket} {s : State} (hl : Buffered l s.ports.outq) (honce : KeysOnce s.ports.outq) :
    queuedIn (each l (fun q s => s.rerouted q) s).ports.outq = queuedIn s.ports.outq := by
  induction l generalizing s with
  | nil => rfl
  | cons q l ih =>
    rw [each_cons, State.rerouted]
    split
    · have hq : q ∈ tget s.ports.outq [] (outKey q) := by
        refine List.count_pos_iff.1 (Nat.lt_of_lt_of_le ?_ (hl q))
        rw [List.count_cons_self]
        exact Nat.succ_pos _
      exact (ih (buffered_movedTo hl _) (movedTo_keysOnce honce q _)).trans (queuedIn_movedTo honce hq _)
    · exact ih (fun x => Nat.le_trans (List.count_le_count_cons ..) (hl x)) honce

theorem moveQueue_queued {s : State} (hown : InOwnBuffer s.ports.outq) (honce : KeysOnce s.ports.outq) (p : Nat)
    (l : QPacket → Bool) : queuedIn (s.moveQueue p l).ports.outq = queuedIn s.ports.outq := by
  rw [moveQueue_eq]
  exact each_rerouted_queued (buffered_of_sublist hown honce p _) honce

end Sys2Proof.Machine
end

section
/-! SUPPORT. DATA frames of the rack ports (11): what sending, resending, moving and probing leave of the frames that are kept. -/

namespace Sys2Proof.Machine

open Sys2Proof Sys2Proof.Safety

/-! ### Frames that are kept, by peer and FSEQ (R388, R396) -/

/-- Peer and FSEQ of the frames of a list. -/
def frameNames (l : List SentFrame) : List (Nat × BitVec 24) := l.map fun x => (x.fdst, x.fseq)

theorem frameNames_map {l : List SentFrame} {g : SentFrame → SentFrame}
    (h : ∀ x ∈ l, ((g x).fdst, (g x).fseq) = (x.fdst, x.fseq)) : frameNames (l.map g) = frameNames l := by
  rw [frameNames, List.map_map]
  exact List.map_congr_left h

/-- A list in which one frame has changed, but for its peer and FSEQ. -/
theorem frameNames_change {f : SentFrame} (g : SentFrame → SentFrame) (h : ((g f).fdst, (g f).fseq) = (f.fdst, f.fseq))
    (l : List SentFrame) : frameNames (l.map fun x => if x = f then g x else x) = frameNames l := by
  refine frameNames_map fun x _ => ?_
  split
  · next hx => rw [hx, h]
  · rfl

/-! ### A frame goes out (R336, R388, R389) -/

/-- A frame as it is kept once it has gone out (R384, R389). -/
def State.asSent (s : State) (f : SentFrame) : SentFrame :=
  { f with q := { f.q with pkt := stampBeacon s.now f.q.pkt }, sends := f.sends + 1, due := false, backoff := 0
           inOpen := s.slotOpen f.port }

/-- t is s but for the frames that are kept, the windows of senders, the time a DELAY_REQ left, and what has been sent. -/
def TransmitOnly (s t : State) : Prop :=
  t = { s with ports := { s.ports with sent := t.ports.sent, win := t.ports.win }, time := { s.time with t3 := t.time.t3 }
               out := t.out }

theorem TransmitOnly.port {s t : State} (h : TransmitOnly s t) (p : Nat) : t.port p = s.port p := port_of_table (by rw [h]) p

section
variable (s : State) (f : SentFrame)

theorem transmit_only : TransmitOnly s (s.transmit f) := by
  unfold State.transmit
  dsimp only
  split <;> rfl

theorem transmit_sent : (s.transmit f).ports.sent
    = s.ports.sent.map fun x => if x.fdst == f.fdst && x.fseq == f.fseq then s.asSent f else x := by
  unfold State.transmit
  dsimp only
  split <;> rfl

theorem transmit_out : ∃ x, (s.transmit f).out = s.out ++ [.frame f.port x] := by
  unfold State.transmit
  dsimp only
  split <;> exact ⟨_, rfl⟩

theorem transmit_names : frameNames (s.transmit f).ports.sent = frameNames s.ports.sent := by
  rw [transmit_sent]
  refine frameNames_map fun x _ => ?_
  split
  · next h =>
    obtain ⟨hdst, hseq⟩ := Bool.and_eq_true_iff.1 h
    rw [beq_iff_eq.1 hdst, beq_iff_eq.1 hseq]
    rfl
  · rfl

/-- A frame that is kept and goes out is kept as it went. -/
theorem asSent_mem_transmit (h : f ∈ s.ports.sent) : s.asSent f ∈ (s.transmit f).ports.sent := by
  rw [transmit_sent]
  exact List.mem_map.2 ⟨f, h, by rw [beq_self_eq_true, beq_self_eq_true, Bool.and_self, if_pos rfl]⟩

/-! ### A new frame (R388, R390) -/

theorem outTake_outq (q : QPacket) (i : Nat) : tget (s.outTake q).ports.outq [] i =
    if i = outKey q then (tget s.ports.outq [] i).erase q else tget s.ports.outq [] i :=
  tget_tmod s.ports.outq [] (outKey q) (fun l => l.erase q) i

end

section
variable (s : State) (p : Nat) (q : QPacket)

/-- A new frame before it goes out: the next FSEQ of its peer is its own (R388). -/
def State.freshFrame (s : State) (p : Nat) (q : QPacket) : SentFrame :=
  { fdst := s.peerKey p (q.readers.getD 1 0), fseq := (s.peerSend (s.peerKey p (q.readers.getD 1 0))).fseq, q := q, port := p
    sends := 0, refusals := q.readers.getD 2 0, backoff := 0, due := false, inOpen := false, probed := [] }

/-- A packet has left its buffer, and its frame is kept and numbered (R388, R390). -/
def State.framed (s : State) (p : Nat) (q : QPacket) : State :=
  ({ s.outTake q with ports := { (s.outTake q).ports with sent := s.ports.sent ++ [s.freshFrame p q] } } : State).modSend
    (s.freshFrame p q).fdst fun x => { x with fseq := (s.freshFrame p q).fseq + 1 }

theorem newFrame_eq : s.newFrame p q = (s.framed p q).transmit (s.freshFrame p q) := rfl

theorem framed_sent : (s.framed p q).ports.sent = s.ports.sent ++ [s.freshFrame p q] := rfl

theorem framed_fseq : ((s.framed p q).peerSend (s.freshFrame p q).fdst).fseq = (s.freshFrame p q).fseq + 1 := by
  rw [State.framed, State.peerSend_modSend]

theorem newFrame_outq (i : Nat) : tget (s.newFrame p q).ports.outq [] i =
    if i = outKey q then (tget s.ports.outq [] i).erase q else tget s.ports.outq [] i := by
  rw [newFrame_eq, transmit_only]
  exact outTake_outq s q i

theorem newFrame_fseq : ((s.newFrame p q).peerSend (s.freshFrame p q).fdst).fseq = (s.freshFrame p q).fseq + 1 := by
  rw [newFrame_eq, transmit_only]
  exact framed_fseq s p q

theorem newFrame_kept : (s.framed p q).asSent (s.freshFrame p q) ∈ (s.newFrame p q).ports.sent := by
  rw [newFrame_eq]
  refine asSent_mem_transmit _ _ ?_
  rw [framed_sent]
  exact List.mem_append_right _ (List.mem_singleton_self _)

theorem newFrame_out : (s.newFrame p q).out.length = s.out.length + 1 := by
  obtain ⟨x, hx⟩ := transmit_out (s.framed p q) (s.freshFrame p q)
  rw [newFrame_eq, hx, List.length_append, List.length_singleton]
  rfl

end

section
variable {s : State} {p : Nat} (hp : p < 16) (hrun : s.portRuns p = true)
include hp hrun

theorem exec_frameSend_resends {f : SentFrame}
    (hf : s.ports.sent.find? (fun f => f.port == p && s.resendable f) = some f) :
    exec (.frameSend p) s = .next (s.transmit f) := by
  show execFrameSend p s = _
  rw [execFrameSend, decide_eq_true hp, hrun, Bool.and_self, act_true, hf]

theorem exec_frameSend_new {q : QPacket} (hnone : s.ports.sent.find? (fun f => f.port == p && s.resendable f) = none)
    (hq : (s.outBuffers p).find? (fun q => s.outReady p q) = some q) :
    exec (.frameSend p) s = .next (s.newFrame p q) := by
  show execFrameSend p s = _
  rw [execFrameSend, decide_eq_true hp, hrun, Bool.and_self, act_true, hnone, hq]

end

/-! ### A frame is sent again (R384, R389) -/

/-- A frame that waits to be resent under R389, after its backoff (R384). -/
def State.asDue (s : State) (f : SentFrame) : SentFrame := { f with due := true, backoff := s.drawBackoff f }

/-- A frame waits to be resent, and its port counts it (R389). -/
def State.dueAgain (s : State) (f : SentFrame) : State :=
  ({ s with ports := { s.ports with sent := s.ports.sent.map fun (x : SentFrame) => if x = f then s.asDue f else x } } : State).draw.modPort
    f.port fun q => { q with resent := inc 16 q.resent }

theorem resend_eq (s : State) (f : SentFrame) : s.resend f =
    if (s.dueAgain f).resendable (s.asDue f) then (s.dueAgain f).transmit (s.asDue f) else s.dueAgain f := rfl

theorem resend_port (s : State) (f : SentFrame) :
    (s.resend f).port f.port = { s.port f.port with resent := inc 16 (s.port f.port).resent } := by
  have hdue : (s.dueAgain f).port f.port = { s.port f.port with resent := inc 16 (s.port f.port).resent } :=
    State.port_modPort _ f.port _
  rw [resend_eq]
  split
  · rw [(transmit_only _ _).port, hdue]
  · exact hdue

/-- A resent frame keeps its peer and its FSEQ, and no other is lost (R389). -/
theorem resend_names (s : State) (f : SentFrame) : frameNames (s.resend f).ports.sent = frameNames s.ports.sent := by
  have hdue : frameNames (s.dueAgain f).ports.sent = frameNames s.ports.sent :=
    frameNames_change (f := f) (fun _ => s.asDue f) rfl _
  rw [resend_eq]
  split
  · rw [transmit_names, hdue]
  · exact hdue

theorem exec_frameResendTimer {s : State} {fdst : Nat} {n : BitVec 24} {f : SentFrame}
    (hf : s.ports.sent.find? (fun f => f.fdst == fdst && f.fseq == n) = some f) (hdue : f.due = false)
    (hserves : s.portServes f.port = true) (hpath : fdst ∉ (s.port f.port).failed) :
    exec (.frameResendTimer fdst n) s = .next (s.resend f) := by
  have hnot : (s.port f.port).failed.contains fdst = false := by simpa using hpath
  show execFrameResendTimer fdst n s = _
  simp only [execFrameResendTimer, hf]
  rw [hdue, hserves, hnot, Bool.not_false, Bool.and_self, Bool.and_self, act_true]

theorem exec_nakFrame {s : State} {p key : Nat} {f : Frame} {ft : W64} (hhead : s.headFrame p 3 = some (f, ft, key)) :
    exec (.nakFrame p) s = .next (each (((s.popFrame p).takeAckSeq key (fhdrOf f.hdr)).ports.sent.filter fun x =>
        x.fdst == key && !x.due &&
          decide ((x.fseq - BitVec.ofNat 24 (bits (bodyWord f) 63 40)).toNat < bits (bodyWord f) 39 32))
      (fun x s => s.resend x) ((s.popFrame p).takeAckSeq key (fhdrOf f.hdr))) := by
  show execNakFrame p s = _
  simp only [execNakFrame, hhead]

/-! ### Frames that say what a window holds (R376, R388) -/

theorem exec_ackFrameTimer {s : State} {fsrc : Nat} (h : (s.peerWin fsrc).owesAck = true) :
    exec (.ackFrameTimer fsrc) s = .next (s.sendCtl (s.peerWin fsrc).port fsrc 2 []) := by
  show execAckFrameTimer fsrc s = _
  rw [execAckFrameTimer, h, act_true]

theorem exec_nakGapTimer {s : State} {fsrc n : Nat} {b : BitVec 24} (h : (s.peerWin fsrc).gap = some (b, n)) :
    exec (.nakGapTimer fsrc) s = .next (s.sendCtl (s.peerWin fsrc).port fsrc 3
      (wordBytes (BitVec.ofNat 64 (b.toNat * 2 ^ 40 + n * 2 ^ 32)))) := by
  show execNakGapTimer fsrc s = _
  simp only [execNakGapTimer, h, act_true]

/-- A frame other than DATA that a slot admits leaves at once (R380, R388). -/
theorem sendCtl_out {s : State} {p key q : Nat} {body : List Byte} (hport : s.answerPort p key = some q)
    (hslot : s.canBegin q key (40 + body.length) = true) (kind : Nat) :
    (s.sendCtl p key kind body).out = s.out ++ [.frame q (s.frameTo key kind 0 body)] := by
  have hbegin : s.canBegin q key (lineBytes body.length) = true := hslot
  simp only [State.sendCtl, hport, hbegin, if_true]
  rfl

/-! ### Paths fail and are probed (R396, R397) -/

/-- t is s but for the frames that are kept and the packets in output buffers. -/
def QueuesOnly (s t : State) : Prop :=
  t = { s with ports := { s.ports with sent := t.ports.sent, outq := t.ports.outq } }

theorem QueuesOnly.refl (s : State) : QueuesOnly s s := rfl

theorem QueuesOnly.trans {s t u : State} (h : QueuesOnly s t) (k : QueuesOnly t u) : QueuesOnly s u := by
  unfold QueuesOnly at *
  rw [k, h]

/-- Between s and t frames may have moved to other ports, each with its FSEQ: nothing else has changed (R396). -/
structure FramesMove (s t : State) : Prop where
  frame : t = { s with ports := { s.ports with sent := t.ports.sent } }
  names : frameNames t.ports.sent = frameNames s.ports.sent

theorem FramesMove.refl (s : State) : FramesMove s s := ⟨rfl, rfl⟩

theorem FramesMove.trans {a b c : State} (h : FramesMove a b) (k : FramesMove b c) : FramesMove a c where
  frame := by rw [k.frame, h.frame]
  names := k.names.trans h.names

theorem FramesMove.queues {s t : State} (h : FramesMove s t) : QueuesOnly s t := by
  rw [h.frame]
  rfl

theorem moveFrame_moves (s : State) (f : SentFrame) : FramesMove s (s.moveFrame f) := by
  unfold State.moveFrame
  split
  · exact .refl s
  · next p _ => exact ⟨rfl, frameNames_change (fun x => { x with port := p, due := true, backoff := 0 }) rfl _⟩

theorem each_moveFrame (l : List SentFrame) (s : State) : FramesMove s (each l (fun f s => s.moveFrame f) s) :=
  each_rel .refl .trans l (fun f t => moveFrame_moves t f) s

theorem rerouted_queues (s : State) (q : QPacket) : QueuesOnly s (s.rerouted q) ∧ (s.rerouted q).ports.sent = s.ports.sent := by
  unfold State.rerouted
  extract_lets r
  split
  · exact ⟨rfl, rfl⟩
  · exact ⟨.refl s, rfl⟩

theorem moveQueue_queues (s : State) (p : Nat) (l : QPacket → Bool) :
    QueuesOnly s (s.moveQueue p l) ∧ (s.moveQueue p l).ports.sent = s.ports.sent := by
  rw [moveQueue_eq]
  refine each_inv (fun t => QueuesOnly s t ∧ t.ports.sent = s.ports.sent) _ _ ⟨.refl s, rfl⟩ fun q t ⟨hframe, hsent⟩ => ?_
  obtain ⟨kframe, ksent⟩ := rerouted_queues t q
  exact ⟨hframe.trans kframe, ksent.trans hsent⟩

/-- A port whose path to a device has failed (R396). -/
def Port.pathLost (fdst : Nat) (q : Port) : Port := { q with failed := q.failed ++ [fdst], pathFailCnt := inc 8 q.pathFailCnt }

/-- A path has failed, and its frames and packets are where they were (R396). -/
def State.pathLost (s : State) (p fdst : Nat) : State := (s.modPort p (Port.pathLost fdst)).sense (ntPathFail p) s

/-- The frames of a failed path move (R396). -/
def State.framesLeave (s : State) (p fdst : Nat) : State :=
  each (s.ports.sent.filter fun f => f.port == p && f.fdst == fdst) (fun f s => s.moveFrame f) s

theorem exec_pathFail {s : State} {p fdst : Nat} (hp : p < 16) (hkey : isPeerKey fdst = false) (hnot : fdst ∉ (s.port p).failed)
    (hf : ∃ f ∈ s.ports.sent, f.port = p ∧ f.fdst = fdst) : exec (.pathFail p fdst) s
      = .next (((s.pathLost p fdst).framesLeave p fdst).moveQueue p fun q => q.readers.getD 1 0 == fdst) := by
  have hserved : (s.port p).failed.contains fdst = false := by simpa using hnot
  have hany : (s.ports.sent.any fun f => f.port == p && f.fdst == fdst) = true := by
    obtain ⟨f, hmem, hport, hdst⟩ := hf
    exact List.any_eq_true.2 ⟨f, hmem, by rw [hport, hdst, beq_self_eq_true, beq_self_eq_true, Bool.and_self]⟩
  show execPathFail p fdst s = _
  rw [execPathFail, decide_eq_true hp, hkey, hserved, hany, Bool.not_false, Bool.and_self, Bool.and_self, Bool.and_self, act_true]
  rfl

theorem pathLost_same (s : State) (p fdst : Nat) : SameButSignals (s.modPort p (Port.pathLost fdst)) (s.pathLost p fdst) :=
  sense_same _ _ s

theorem pathLost_pend {s : State} {p : Nat} (hp : p < 16) (hfailed : (s.port p).failed = []) (fdst : Nat) :
    (s.pathLost p fdst).notices.pend.getLsbD (ntPathFail p) = true := by
  have hlt : ntPathFail p < 512 := by
    unfold ntPathFail
    omega
  refine sense_pend hlt ?_ ?_
  · rw [cause_pathFail _ hp, State.port_modPort, Port.pathLost, hfailed]
    rfl
  · rw [cause_pathFail _ hp, hfailed]
    rfl

/-- A path fails: its frames move under their FSEQ, and no packet in the output buffers is lost (R396). -/
theorem pathFail_result {s : State} {p : Nat} (hp : p < 16) (fdst : Nat) :
    let t := ((s.pathLost p fdst).framesLeave p fdst).moveQueue p fun q => q.readers.getD 1 0 == fdst
    t.port p = (s.port p).pathLost fdst ∧ frameNames t.ports.sent = frameNames s.ports.sent ∧
      (InOwnBuffer s.ports.outq → KeysOnce s.ports.outq → queuedIn t.ports.outq = queuedIn s.ports.outq) ∧
      ((s.port p).failed = [] → t.notices.pend.getLsbD (ntPathFail p) = true) ∧ SameButSignals { s with ports := t.ports } t := by
  intro t
  have hlost := pathLost_same s p fdst
  have hports : (s.pathLost p fdst).ports = (s.modPort p (Port.pathLost fdst)).ports := hlost.ports
  have hmove : FramesMove (s.pathLost p fdst) ((s.pathLost p fdst).framesLeave p fdst) := each_moveFrame _ _
  have houtq : ((s.pathLost p fdst).framesLeave p fdst).ports.outq = s.ports.outq := by
    rw [hmove.frame, hports]
    rfl
  obtain ⟨hqueues, hsent⟩ := moveQueue_queues ((s.pathLost p fdst).framesLeave p fdst) p fun q => q.readers.getD 1 0 == fdst
  have hall : QueuesOnly (s.pathLost p fdst) t := hmove.queues.trans hqueues
  refine ⟨?_, ?_, fun hown honce => ?_, fun hfailed => ?_, ?_⟩
  · rw [port_of_table (s := s.pathLost p fdst) (by rw [show t = _ from hall]), port_of_table (congrArg Ports.port hports),
      State.port_modPort]
  · rw [hsent, hmove.names, hports]
    rfl
  · rw [← houtq] at hown honce ⊢
    exact moveQueue_queued hown honce p _
  · rw [show t = _ from hall]
    exact pathLost_pend hp hfailed fdst
  · have hframe : SameButSignals { s with ports := (s.pathLost p fdst).ports } (s.pathLost p fdst) := by
      rw [hports]
      exact hlost
    unfold SameButSignals at hframe ⊢
    rw [show t = _ from hall, hframe]

/-- A frame that is a probe of a failed path too (R396). -/
def SentFrame.probedOn (p : Nat) (f : SentFrame) : SentFrame := { f with probed := (p :: f.probed).dedup }

/-- One frame of a failed path is marked as its probe (R396). -/
def State.probing (s : State) (p : Nat) (f : SentFrame) : State :=
  { s with ports := { s.ports with sent := s.ports.sent.map fun (x : SentFrame) => if x = f then x.probedOn p else x } }

theorem exec_pathProbe {s : State} {p fdst : Nat} {f : SentFrame} (hf : s.ports.sent.find? (fun f => f.fdst == fdst) = some f)
    (hfailed : fdst ∈ (s.port p).failed) (hslot : s.canBegin p fdst (lineBytes (packetBody f.q.pkt).length) = true) :
    exec (.pathProbe p fdst) s = .next ((s.probing p f).emitFrame p fdst
      ((s.probing p f).frameTo fdst 1 f.fseq (packetBody f.q.pkt))) := by
  show execPathProbe p fdst s = _
  simp only [execPathProbe, hf]
  rw [List.contains_iff_mem.2 hfailed, hslot, Bool.and_self, act_true]
  rfl

theorem probing_mem {s : State} {f : SentFrame} (h : f ∈ s.ports.sent) (p : Nat) :
    f.probedOn p ∈ (s.probing p f).ports.sent := List.mem_map.2 ⟨f, h, if_pos rfl⟩

theorem mem_probedOn (p : Nat) (f : SentFrame) : p ∈ (f.probedOn p).probed := List.mem_dedup.2 (List.mem_cons_self ..)

theorem exec_mirrorHandover {s : State} {p : Nat} (hp : p < 16) (hout : s.portServes p = false)
    (hpartner : s.portServes (partner p) = true) : exec (.mirrorHandover p) s
      = .next (each (s.ports.sent.filter fun f => f.port == p && !isPeerKey f.fdst) (fun f s => s.moveFrame f) s) := by
  show execMirrorHandover p s = _
  rw [execMirrorHandover, decide_eq_true hp, hout, hpartner, Bool.not_false, Bool.and_self, Bool.and_self, act_true]

/-! ### The obligation on frames that are sent -/

/-- Settles O39: what goes out by `transmit_sent`, what is kept by peer and FSEQ, and the packets of a failed path by counting
their buffers. -/
theorem framesAreSentResentAndFailOver : Obligations.FramesAreSentResentAndFailOver := by
  unfold Obligations.FramesAreSentResentAndFailOver
  refine ⟨fun p s hp hrun => ⟨fun f hf => exec_frameSend_resends hp hrun hf, fun q hnone hq =>
      ⟨_, exec_frameSend_new hp hrun hnone hq, newFrame_outq s p q, newFrame_fseq s p q,
        ⟨_, newFrame_kept s p q, rfl, rfl, rfl, rfl⟩, newFrame_out s p q⟩⟩,
    fun fdst n f s hf hdue hserves hpath => ⟨_, exec_frameResendTimer hf hdue hserves hpath, rfl, ?_, resend_names s f⟩,
    fun p key f ft s s1 hhead hs1 => hs1 ▸ exec_nakFrame hhead, fun fsrc s h => exec_ackFrameTimer h,
    fun fsrc n b s h => exec_nakGapTimer h, fun p key kind q body s hport hslot => sendCtl_out hport hslot kind,
    fun p fdst s hp hkey hnot hf => ⟨_, exec_pathFail hp hkey hnot hf, pathFail_result hp fdst⟩,
    fun p fdst f s hf hfailed hslot => ⟨_, _, exec_pathProbe hf hfailed hslot, rfl, ?_, rfl, frameNames_change (SentFrame.probedOn p) rfl _⟩,
    fun p s hp hout hpartner => ⟨_, exec_mirrorHandover hp hout hpartner, rfl, (each_moveFrame _ s).names,
      (each_moveFrame _ s).frame⟩⟩
  · rw [resend_port]
  · have hdst := List.find?_some hf
    exact ⟨_, probing_mem (List.mem_of_find?_eq_some hf) p, beq_iff_eq.1 hdst, rfl, mem_probedOn p f⟩

end Sys2Proof.Machine
end

section
/-! SUPPORT. A device joins its group, takes its next key, and leaves (11); and the record of a group. -/

namespace Sys2Proof.Machine

open Sys2Proof Sys2Proof.Safety

/-! ### A command completes (R420, R429) -/

section
variable (s : State) (o : Origin) (opcode : Nat) (st : Status) (res : List Byte)

theorem complete_plat : (s.complete o opcode st res).plat = s.plat := by rw [complete_same s o opcode st res]
theorem complete_group : (s.complete o opcode st res).group = s.group := by rw [complete_same s o opcode st res]
theorem complete_time : (s.complete o opcode st res).time = s.time := by rw [complete_same s o opcode st res]
theorem complete_ports : (s.complete o opcode st res).ports = s.ports := by rw [complete_same s o opcode st res]

end

/-! ### A device joins (R402, R403, R586) -/

/-- A group as a device has joined it (R403, R586). -/
def Group.joined (g : Group) (p : EnrolParams) : Group :=
  { g with
    valid := true, role := p.role, overlap := false, sidx := p.sidx, rekey := false, epoch := p.epoch, prevEpoch := p.epoch
    fenced := true, master := idOpt p.master, prevMaster := none, backup := idOpt p.backup, bcroot := idOpt p.bcroot
    members := tset g.members none p.sidx (some p.id), key := some p.key, nextKey := none, window := false
    saved := none, takeover := 0, demoted := false, saveDue := p.role == 1 }

/-- The Field Time of a device that begins anew in a role (R335, R403). -/
def Time.anew (role : FtRole) (t : Time) : Time := { t.toFree with role := role }

/-- A device that has joined, its Field Time not yet looked at (R403). -/
def State.joining (s : State) (p : EnrolParams) : State :=
  { s with plat := { s.plat with valid := true, id := p.id }, group := s.group.joined p }

section
variable {s : State} {p : EnrolParams}

theorem enrol_joins (h : p.rekey = false) : SameButSignals { s with
    plat := { s.plat with valid := true, id := p.id }, group := s.group.joined p, time := s.time.anew (ftRole p.role)
    mem := (s.enrol p).mem } (s.enrol p) := by
  have henrol : s.enrol p = (s.joining p).setTime (Time.anew (ftRole p.role)) := by
    unfold State.enrol
    rw [h, if_neg Bool.false_ne_true]
    rfl
  rw [henrol]
  exact setTime_same (s.joining p) (Time.anew (ftRole p.role))

theorem enrol_rekeys (h : p.rekey = true) :
    s.enrol p = { s with group := { s.group with nextKey := some p.key, instant := p.instant, rekey := true } } := by
  unfold State.enrol
  rw [if_pos h]

/-- GROUP_ENROL as the Warden takes it up (R403, R423). -/
theorem exec_groupEnrol {o : Origin} (hserving : s.warden.serving = true) (hattest : s.warden.attest = none)
    (hlife : s.lifeRefuses 0xEB = false) (hrole : p.rekey = true ∨ p.role < 3) : exec (.groupEnrol o p) s
      = .next ((s.takeProxy o).command o 0xEB ((s.takeProxy o).enrolChecks o p) fun s => (s.enrol p, [])) := by
  have hres : (!p.rekey && decide (3 ≤ p.role)) = false := by
    rcases hrole with h | h
    · rw [h, Bool.not_true, Bool.false_and]
    · rw [decide_eq_false (by omega), Bool.and_false]
  show execGroupEnrol o p s = _
  rw [execGroupEnrol, hres, proxy_takes_up hserving hattest hlife]

theorem enrolPath_direct {v : Via} (h : v ≠ .relayed) : enrolPath v = true := by
  cases v with
  | relayed => exact absurd rfl h
  | _ => rfl

theorem enrolChecks_join (hrekey : p.rekey = false) (hsidx : p.sidx < 64) (hid : reservedId p.id = false)
    (hvalid : s.group.valid = false) {o : Origin} (hvia : o.via ≠ .relayed) : firstFail (s.enrolChecks o p) = none := by
  simp [firstFail, State.enrolChecks, hrekey, hid, hvalid, enrolPath_direct hvia, Nat.not_le.2 hsidx]

theorem enrolChecks_rekey (hrekey : p.rekey = true) (hvalid : s.group.valid = true) {o : Origin} (hvia : o.via ≠ .relayed) :
    firstFail (s.enrolChecks o p) = none := by
  simp [firstFail, State.enrolChecks, hrekey, hvalid, enrolPath_direct hvia]

theorem enrolChecks_joined (hrekey : p.rekey = false) (hsidx : p.sidx < 64) (hid : reservedId p.id = false)
    (hvalid : s.group.valid = true) (o : Origin) : firstFail (s.enrolChecks o p) = some .wrongState := by
  simp [firstFail, State.enrolChecks, hrekey, hid, hvalid, Nat.not_le.2 hsidx]

end

/-! ### A device leaves, and keys change (R402, R403, R585) -/

/-- A group that a device has left (R403, R585, R586). -/
def Group.gone (g : Group) : Group :=
  { g with
    valid := false, role := 3, members := [], key := none, nextKey := none, rekey := false, window := false, takeover := 0
    prevMaster := none, saveDue := false }

section
variable {s : State}

theorem leaveGroup_leaves (s : State) : SameButSignals { s with
    plat := { s.plat with valid := false }, group := s.group.gone, time := s.time.anew .alone, mem := s.leaveGroup.mem }
    s.leaveGroup := setTime_same { s with plat := { s.plat with valid := false }, group := s.group.gone } (Time.anew .alone)

theorem exec_groupLeave (hserving : s.warden.serving = true) (hattest : s.warden.attest = none) (hlife : s.lifeRefuses 0xEC = false)
    (o : Origin) : exec (.groupLeave o) s = .next ((s.takeProxy o).leaveGroup.complete o 0xEC .done []) := by
  show execGroupLeave o s = _
  rw [execGroupLeave, proxy_takes_up hserving hattest hlife, command_passes rfl]

theorem exec_rekeyInstant (hrekey : s.group.rekey = true) (hwindow : s.group.window = false) (hnext : s.group.nextKey ≠ none)
    (hnow : s.group.instant.toNat ≤ s.now.toNat) :
    exec .rekeyInstant s = .next { s with group := { s.group with window := true } } := by
  show execRekeyInstant s = _
  rw [execRekeyInstant, hrekey, hwindow, Option.isSome_iff_ne_none.2 hnext, decide_eq_true hnow, Bool.not_false, Bool.and_self,
    Bool.and_self, Bool.and_self, act_true]

theorem exec_rekeyWindowEnd (hwindow : s.group.window = true) : exec .rekeyWindowEnd s = .next { s with
    group := { s.group with key := s.group.nextKey, nextKey := none, window := false, rekey := false } } := by
  show execRekeyWindowEnd s = _
  rw [execRekeyWindowEnd, hwindow, act_true]

/-! ### GROUP_SAVE (R406, R407) -/

theorem exec_groupSave_sends (hrole : s.group.role = 1) (hdue : s.group.saveDue = true) : exec .groupSave s
    = .next (each (s.otherMembers s.group.members) (fun e s => s.sendGroup e 0x8D s.groupRec.bytes)
        { s with group := { s.group with saveDue := false } }) := by
  show execGroupSave s = _
  rw [execGroupSave, if_pos ⟨hrole, hdue⟩]

theorem exec_groupSave_takes {n : Nat} {p : Packet} {ft : W64} {s1 : State} (hrole : s.group.role ≠ 1)
    (htake : s.takeCtl 0x8D = some ((n, p, ft), s1)) (hmaster : s.group.master = some (srcOf p)) : exec .groupSave s
      = .next { s1 with group := s1.group.takeSave s.plat.id (srcOf p) (groupRecOf p.data) } := by
  show execGroupSave s = _
  rw [execGroupSave, if_neg fun h => hrole h.1]
  simp only [htake, act_true]
  rw [if_neg fun h => h.elim hrole fun hne => hne hmaster]

/-- The backup keeps the record whole (R407). -/
theorem takeSave_saved (g : Group) {self src : Nat} {r : GroupRec} (h : r.backup = self) : (g.takeSave self src r).saved = some r := by
  unfold Group.takeSave
  rw [if_pos h]
  rfl

end

/-! ### The obligation on joining and leaving -/

/-- Settles O30: joining by the group that `Group.joined` gives, leaving by `Group.gone`, a record by its sender and its reader. -/
theorem devicesJoinRekeyAndLeave : Obligations.DevicesJoinRekeyAndLeave := by
  unfold Obligations.DevicesJoinRekeyAndLeave
  refine ⟨fun o p s hserving hattest hlife hvia => ⟨fun hrekey hrole hsidx hid hvalid => ?_, fun hrekey hvalid => ?_,
      fun hrekey hrole hsidx hid hvalid => ?_⟩,
    fun o s hserving hattest hlife => ⟨_, exec_groupLeave hserving hattest hlife o, ?_⟩,
    fun s hrekey hwindow hnext hnow => exec_rekeyInstant hrekey hwindow hnext hnow,
    fun s hwindow => exec_rekeyWindowEnd hwindow, fun s hrole hdue => exec_groupSave_sends hrole hdue,
    fun n p ft s s1 hrole htake hmaster => ⟨exec_groupSave_takes hrole htake hmaster, takeSave_saved s1.group⟩⟩
  · have hchecks := enrolChecks_join (s := s.takeProxy o) hrekey hsidx hid hvalid hvia
    rw [exec_groupEnrol hserving hattest hlife (.inr hrole), command_passes hchecks]
    refine ⟨_, rfl, ?_⟩
    rw [complete_plat, complete_group, complete_time, complete_cores, complete_fab, complete_ports, enrol_joins hrekey]
    exact ⟨rfl, rfl, rfl, rfl, rfl, rfl, rfl, rfl, rfl, rfl, rfl, rfl, rfl⟩
  · have hchecks := enrolChecks_rekey (s := s.takeProxy o) hrekey hvalid hvia
    rw [exec_groupEnrol hserving hattest hlife (.inl hrekey), command_passes hchecks, enrol_rekeys hrekey]
    refine ⟨_, rfl, complete_group _ _ _ _ _, ?_⟩
    rw [complete_group]
    exact complete_same _ o 0xEB .done []
  · have hchecks := enrolChecks_joined (s := s.takeProxy o) hrekey hsidx hid hvalid o
    rw [exec_groupEnrol hserving hattest hlife (.inr hrole), command_turned_away hchecks]
  · rw [complete_plat, complete_group, complete_time, complete_cores, complete_fab, complete_ports, leaveGroup_leaves]
    exact ⟨rfl, rfl, rfl, rfl, rfl, rfl, rfl, rfl, rfl, rfl⟩

end Sys2Proof.Machine
end

section
/-! SUPPORT. What the Warden holds stands, but for its log, while operations end, stations and dies leave service and hinges end
(05, 07, 16, 17). -/

namespace Sys2Proof.Machine

open Sys2Proof Sys2Proof.Safety

/-! ### The Warden, the group and the hash stand -/

/-- Between s and t the Warden stands but for its log, and so do the group and the address hash (R402, R556, R563). -/
structure WardenStands (s t : State) : Prop where
  warden : t.warden = { s.warden with log := t.warden.log, logNext := t.warden.logNext, perSecond := t.warden.perSecond }
  group : t.group = s.group
  hash : t.hash = s.hash

theorem WardenStands.of_eq {s t : State} (hwarden : t.warden = s.warden) (hgroup : t.group = s.group) (hhash : t.hash = s.hash) :
    WardenStands s t := ⟨by rw [hwarden], hgroup, hhash⟩

theorem WardenStands.refl (s : State) : WardenStands s s := .of_eq rfl rfl rfl

theorem WardenStands.trans {a b c : State} (h : WardenStands a b) (k : WardenStands b c) : WardenStands a c where
  warden := by rw [k.warden, h.warden]
  group := k.group.trans h.group
  hash := k.hash.trans h.hash

/-- As `trans`, the later change first. -/
theorem WardenStands.since {a b c : State} (k : WardenStands b c) (h : WardenStands a b) : WardenStands a c := h.trans k

/-- As `trans`, past a change of what is neither the Warden, the group nor the hash. -/
theorem WardenStands.after {a b c : State} (h : WardenStands b c) (hwarden : b.warden = a.warden) (hgroup : b.group = a.group)
    (hhash : b.hash = a.hash) : WardenStands a c := (of_eq hwarden hgroup hhash).trans h

theorem WardenStands.of_record {s t : State} (h : SameButRecord s t) : WardenStands s t := by
  unfold SameButRecord at h
  rw [h]
  exact ⟨rfl, rfl, rfl⟩

theorem WardenStands.of_same {s t : State} (h : SameButSignals s t) : WardenStands s t := .of_record h.record

theorem WardenStands.of_fabric {s t : State} (h : FabricOnly s t) : WardenStands s t :=
  .trans (b := { s with fab := t.fab }) (.of_eq rfl rfl rfl) (.of_same h)

theorem WardenStands.of_work {s t : State} (h : WorkStands s t) : WardenStands s t :=
  .trans (b := { s with cores := t.cores }) (.of_eq rfl rfl rfl) (.of_same h.frame)

theorem WardenStands.of_runs {s t : State} (h : RunsOnly s t) : WardenStands s t :=
  .trans (b := { s with test := t.test }) (.of_eq rfl rfl rfl) (.of_record h)

theorem WardenStands.of_setsOut {s t : State} (h : SetsOut s t) : WardenStands s t := by
  rw [h.frame]
  exact .of_eq rfl rfl rfl

theorem WardenStands.of_blocks {s t : State} (h : BlocksOnly s t) : WardenStands s t := by
  rw [h]
  exact .of_eq rfl rfl rfl

theorem WardenStands.of_clocks {s t : State} (h : ClocksOnly s t) : WardenStands s t := by
  rw [h]
  exact .of_eq rfl rfl rfl

theorem each_warden {α : Type} (l : List α) {f : α → State → State} (hf : ∀ a s, WardenStands s (f a s)) (s : State) :
    WardenStands s (each l f s) := each_rel .refl .trans l hf s

theorem when_warden (s : State) (c : Bool) {f : State → State} (hf : ∀ s, WardenStands s (f s)) : WardenStands s (s.when c f) := by
  cases c
  · exact .refl s
  · exact hf s

theorem complete_warden (s : State) (o : Origin) (opcode : Nat) (st : Status) (res : List Byte) :
    WardenStands s (s.complete o opcode st res) := .of_record (complete_same s o opcode st res)

/-! ### Operations end and come into being (R238 to R241, R269, R280) -/

theorem remoteFault_warden (s : State) (c x : Nat) (o : Op) (st : Status) (mask : Byte) :
    WardenStands s (s.remoteFault c x o st mask) := by
  unfold State.remoteFault
  extract_lets unknown s1
  have h1 : WardenStands s s1 := .of_eq rfl rfl rfl
  exact (h1.trans (.of_same (raise_same s1 _))).trans (when_warden _ _ fun t => .of_same (raise_same t _))

theorem redirty_warden (s : State) (o : Op) (st : Status) : WardenStands s (s.redirty o st) := by
  unfold State.redirty
  split <;> exact .of_eq rfl rfl rfl

theorem leaveOwner_warden (s : State) (o : Op) (st : Status) : WardenStands s (s.leaveOwner o st) := by
  unfold State.leaveOwner
  split <;> exact .of_eq rfl rfl rfl

theorem settle_warden (s : State) (o : Op) (st : Status) (mask : Byte) : WardenStands s (s.settle o st mask) := by
  unfold State.settle
  extract_lets s0 rem s1 s2
  have h1 : WardenStands s s1 := (redirty_warden s o st).trans (.of_eq rfl rfl rfl)
  split
  · exact h1
  · have h2 : WardenStands s s2 := h1.trans (leaveOwner_warden s1 o st)
    clear_value s2
    split
    · exact h2
    · refine .since (when_warden _ _ fun t => .of_work (signal_work t _ _ _ _ _)) ?_
      refine .since (when_warden _ _ fun t => remoteFault_warden t _ _ _ _ _) ?_
      exact h2.trans (when_warden s2 _ fun _ => .of_eq rfl rfl rfl)

theorem joinOwner_warden (s : State) (o : Op) : WardenStands s (s.joinOwner o) := by
  unfold State.joinOwner
  split
  · split <;> exact .of_eq rfl rfl rfl
  all_goals exact .of_eq rfl rfl rfl

theorem newOps_warden (group : Nat) (l : List Req) (s : State) : WardenStands s (s.newOps group l).2 := by
  induction l generalizing s with
  | nil => exact .refl s
  | cons r l ih => exact (ih _).since (.after (joinOwner_warden _ _) rfl rfl rfl)

theorem launch_warden (s : State) (r : Req) (o : Op) : WardenStands s (s.launch r o) := by
  unfold State.launch
  dsimp only
  split
  · split
    · exact .of_setsOut (post_setsOut _ _ _ _ _)
    · exact .refl s
  · split
    · exact .of_eq rfl rfl rfl
    · split
      · exact .of_eq rfl rfl rfl
      · exact .of_eq rfl rfl rfl
      · split
        · exact .of_setsOut (post_setsOut _ _ _ _ _)
        · exact .refl s

theorem issueRaw_warden (s : State) (r : Req) : WardenStands s (s.issueRaw r) := by
  unfold State.issueRaw
  refine (newOps_warden _ _ s).trans (each_warden _ (fun y t => ?_) _)
  split
  · exact settle_warden _ _ _ _
  · exact launch_warden _ _ _

theorem advanceJob_warden (n k : Nat) (s : State) : WardenStands s (State.advanceJob n k s) := by
  induction k generalizing s with
  | zero => exact .refl s
  | succ k ih =>
    simp only [State.advanceJob]
    split
    · exact .refl s
    · split
      · split
        · exact .after (complete_warden _ _ _ _ _) rfl rfl rfl
        · exact .refl s
      · split
        · exact .refl s
        · exact (ih _).since (.after (issueRaw_warden _ _) rfl rfl rfl)

theorem advanceOwner_warden (s : State) (o : Op) : WardenStands s (s.advanceOwner o) := by
  unfold State.advanceOwner
  split
  · split
    · exact advanceJob_warden _ _ _
    · exact .refl s
  · exact .refl s

theorem place'_warden {st : Status} (h : st.Failed) (o : Op) (data : List Byte) (d : OpDest) (a : Nat) (s : State) :
    WardenStands s (s.place' o data st d a) := by
  obtain ⟨hd, hp⟩ := h
  induction d generalizing data a s with
  | none => exact .refl s
  | scratch =>
    simp only [State.place', hd, if_false]
    exact .of_blocks (fabWrite_blocks _ _ _ _)
  | stage =>
    simp only [State.place', hd, hp, or_self, if_false]
    exact .refl s
  | fill n line off len alloc next ih =>
    simp only [State.place', hd, hp, or_self, false_and, if_false, partStatus_failed ⟨hd, hp⟩]
    exact ih _ _ _
  | fetch => exact .of_eq rfl rfl rfl
  | entry => exact .of_eq rfl rfl rfl
  | keep => exact .of_eq rfl rfl rfl

theorem finish_warden {st : Status} (h : st.Failed) (s : State) (o : Op) (data : List Byte) (mask : Byte) :
    WardenStands s (s.finish o st data mask) := by
  unfold State.finish
  split
  · exact settle_warden _ _ _ _
  · exact ((place'_warden h o _ _ _ s).trans (settle_warden _ _ _ _)).trans (advanceOwner_warden _ _)

theorem refusePacket_warden {status : Status} (h : status.Failed) (s : State) (st rd : Nat) (q : QPacket) :
    WardenStands s (s.refusePacket st rd q status) := by
  unfold State.refusePacket State.endOp
  dsimp only
  split
  · split
    · exact .refl s
    · split
      · exact finish_warden h _ _ _ _
      · exact .refl s
  · split
    · split
      · exact .of_setsOut (reply_setsOut _ _ _ _ _ _ _)
      · exact .refl s
    · split
      · exact .refl s
      · split
        · split
          · exact finish_warden h _ _ _ _
          · exact .refl s
        · split
          · exact .refl s
          · exact .of_setsOut (postIn_setsOut _ _ _ _ _)

/-! ### A station leaves service (R44, R52, R54, R189, R253) -/

theorem readerSetsChanged_warden (s : State) (st : Nat) : WardenStands s (s.readerSetsChanged st) := by
  refine each_warden _ (fun rg t => ?_) s
  dsimp only
  split
  · exact .after (.of_fabric (reshare_links _ _ _).fabric) rfl rfl rfl
  · exact .refl t

theorem stationGone_warden (s : State) (st : Nat) : WardenStands s (s.stationGone st) := by
  have hpend (t : State) (r w : Nat) : WardenStands t (t.clearPend r w) := each_warden _ (by intros; exact .of_eq rfl rfl rfl) t
  have hpurge (t : State) (w : Nat) : WardenStands t (t.purgeTo w st) :=
    .after (each_warden _ (by intros; exact .of_eq rfl rfl rfl) _) rfl rfl rfl
  have hleft (w : Nat) (t : State) : WardenStands t ((((t.undelivered w st).purgeTo w st).clearPend st w).clearPend w st) :=
    (hpend _ w st).since ((hpend _ st w).since (.after (hpurge _ w) rfl rfl rfl))
  have hrefused (e : Nat × QPacket) (t : State) : WardenStands t (t.refusePacket e.1 st e.2 .deadTarget) :=
    refusePacket_warden deadTarget_failed t _ _ _
  exact ((each_warden _ hleft s).trans (readerSetsChanged_warden _ st)).trans (each_warden _ hrefused _)

theorem dropChange_warden (s : State) (st rg : Nat) (status : Status) : WardenStands s (s.dropChange st rg status) := by
  unfold State.dropChange State.answer
  split
  · exact .refl s
  · split
    · exact .after (complete_warden _ _ _ _ _) rfl rfl rfl
    · exact .of_eq rfl rfl rfl

theorem clearStation_warden (s : State) (st : Nat) (full : Bool) : WardenStands s (s.clearStation st full) := by
  unfold State.clearStation
  extract_lets s1 s2 s3
  have h1 : WardenStands s s1 := each_warden _ (by intros; exact .of_eq rfl rfl rfl) s
  have h2 : WardenStands s1 s2 := each_warden _ (by intros; exact .of_eq rfl rfl rfl) s1
  have h3 : WardenStands s2 s3 := by
    cases full
    · exact .of_fabric (setRings_fabric s2 (stationRings st) .parked)
    · exact each_warden _ (by intros; exact .of_eq rfl rfl rfl) s2
  exact (h1.trans (h2.trans h3)).trans (.of_eq rfl rfl rfl)

theorem stationDown_warden (s : State) (st : Nat) (full : Bool) : WardenStands s (s.stationDown st full) := by
  unfold State.stationDown
  extract_lets s1 s2
  have h1 : WardenStands s s1 := each_warden _ (fun rg t => dropChange_warden t _ _ _) s
  have h2 : WardenStands s1 s2 := .after (stationGone_warden _ st) rfl rfl rfl
  exact ((h1.trans h2).trans (clearStation_warden s2 st full)).trans (.of_eq rfl rfl rfl)

/-! ### A die is gated (R530 to R535) -/

section
variable (s : State) (d : Nat)

theorem endWaits_warden : WardenStands s (s.endWaits d) := by
  unfold State.endWaits
  extract_lets s1
  have h1 : WardenStands s s1 := by
    refine each_warden _ (fun i t => ?_) s
    split
    · exact complete_warden _ _ _ _ _
    · exact .refl t
  clear_value s1
  split
  · exact h1.trans (.after (complete_warden _ _ _ _ _) rfl rfl rfl)
  · exact h1

theorem gateMerge_warden (cause : Nat) : WardenStands s (s.gateMerge d cause) := by
  unfold State.gateMerge
  split
  · exact each_warden _ (fun b t => .of_blocks (writeBack_blocks t d b)) s
  · refine each_warden _ (fun b t => ?_) s
    rw [loseBlock_loss t b]
    exact .of_eq rfl rfl rfl

theorem deadRecords_warden : WardenStands s (s.deadRecords d) := by
  refine each_warden _ (fun i t => each_warden _ (fun x u => ?_) t) s
  have hsent : WardenStands u (u.sendRecord (u.endRecord (8 * d + i) x .deadTarget 0 true)) :=
    .trans (.of_record (queueRecord_same u _)) (.of_same (sense_same _ _ u))
  exact hsent.trans (.of_eq rfl rfl rfl)

theorem coresGone_warden : WardenStands s (s.coresGone d) := by
  have hlost : WardenStands s (s.loseRemnants d) := .of_eq rfl rfl rfl
  refine hlost.trans (each_warden _ (fun i t => ?_) _)
  rw [clearCore_only t (8 * d + i)]
  exact .of_eq rfl rfl rfl

theorem dieCutOff_warden : WardenStands s (s.dieCutOff d) := by
  have hdrop : WardenStands s (s.dropDieOps d) := by
    unfold State.dropDieOps
    extract_lets mine s1
    have h1 : WardenStands s s1 := each_warden _ (by intros; exact redirty_warden _ _ _) s
    clear_value s1
    exact h1.trans (.of_eq rfl rfl rfl)
  exact hdrop.trans (stationDown_warden _ d false)

theorem dieStopped_warden (kept : Bool) : WardenStands s (s.dieStopped d kept) := by
  have hbonds : WardenStands s (s.stopBonds d false) := each_warden _ (by intros; exact .of_eq rfl rfl rfl) s
  have hclocks : WardenStands (s.stopBonds d false) ((s.stopBonds d false).stopDie d) :=
    .of_clocks (stopDie_clocks _ d)
  have herased : ∀ t : State, WardenStands t (t.dieErased d kept) := by
    intro t
    cases kept <;> exact .of_eq rfl rfl rfl
  exact (hbonds.trans hclocks).trans (herased _)

/-- Gating a die touches of the Warden its log alone, and neither the group nor the hash (R530). -/
theorem gateDie_warden (cause : Nat) : WardenStands s (s.gateDie d cause) := by
  by_cases hgated : (s.die d).state = .gated
  · rw [State.gateDie, if_pos hgated]
    exact .refl s
  · have hstart : WardenStands s (s.gateStart d cause) :=
      ((endWaits_warden s d).trans (gateMerge_warden _ d cause)).trans (deadRecords_warden _ d)
    have hmark (t : State) : WardenStands t (t.modDie d (DieUnit.gate cause)) := .of_eq rfl rfl rfl
    rw [gateDie_eq hgated]
    exact ((((hstart.trans (coresGone_warden _ d)).trans (hmark _)).trans (dieCutOff_warden _ d)).trans
      (dieStopped_warden _ d _)).trans (.of_runs (gateShown_runs _ d cause s))

end

/-! ### Hinges end with the Warden (R96, R101) -/

section
variable (s : State) (f : Nat)

theorem setFeedState_warden (x : FeedState) : WardenStands s (s.setFeedState f x) :=
  .after (.of_same
    ((((sense_same (s.modFeed f fun d => { d with state := x }) _ s).trans (sense_same _ _ s)).trans (sense_same _ _ s)).trans
      (capSense_same _ _ s))) rfl rfl rfl

theorem answerHinge_warden (st : Status) : WardenStands s (s.answerHinge f st) := by
  unfold State.answerHinge
  split
  · exact .refl s
  · exact .after (complete_warden _ _ _ _ _) rfl rfl rfl

theorem abortHinge_warden (st : Status) : WardenStands s (s.abortHinge f st) := by
  unfold State.abortHinge
  extract_lets s1
  have h1 : WardenStands s s1 := .of_eq rfl rfl rfl
  have hlog (t : State) : WardenStands t (t.logHinge f 1) :=
    .of_same ((log_same t _ _ _ _).trans (draw_same _))
  exact (((h1.trans (setFeedState_warden s1 f _)).trans (hlog _)).trans (.of_same (raise_same _ _))).trans
    (answerHinge_warden _ f st)

theorem resumeHinge_warden : WardenStands s (s.resumeHinge f) := by
  unfold State.resumeHinge
  extract_lets s1
  have h1 : WardenStands s s1 := by
    refine each_warden _ (fun x t => ?_) s
    extract_lets g t1
    have ht1 : WardenStands t t1 := .of_fabric ((modTx_groups t x.1 x.2 _).trans (setTxState_groups _ x.1 x.2 _)).fabric
    split
    · exact ht1
    · exact ht1.trans (.of_fabric (enable_groups t1 x.1 x.2).fabric)
    · exact ht1.trans (.of_fabric (disable_groups t1 x.1 x.2).fabric)
  exact h1.trans (each_warden _ (by intros; exact .of_eq rfl rfl rfl) s1)

theorem hingesLeft_warden : WardenStands s s.hingesLeft := by
  refine each_warden _ (fun f t => ?_) s
  dsimp only
  split
  · exact abortHinge_warden t f _
  · split
    · exact (resumeHinge_warden t f).trans (abortHinge_warden _ f _)
    · exact .refl t

end

end Sys2Proof.Machine
end

section
/-! SUPPORT. The identity: leaves of ATTEST, the life cycle and tamper (17). -/

namespace Sys2Proof.Machine

open Sys2Proof Sys2Proof.Safety

/-! ### Leaves and reports (R579 to R581) -/

section
variable {s : State} {o : Origin} {dst : W64} {nonce : List Byte}

theorem reserve_stands (h : s.warden.leafNext < s.warden.leafEnd) : s.reserve = s := if_pos h

/-- A reservation is of the next 256 leaves that are free, and its counters are written (R569, R579). -/
theorem reserve_takes (h : s.warden.leafEnd ≤ s.warden.leafNext) : SameButSignals { s with
    warden := { s.warden with
      nextFree := s.warden.nextFree + 256, leafNext := s.warden.nextFree, leafEnd := s.warden.nextFree + 256
      areas := tmod s.warden.areas Area.reset areaCounters Area.written, wfail := setBit8 s.warden.wfail areaCounters false
      missing := setBit8 s.warden.missing areaCounters false, writes := inc 16 s.warden.writes } } s.reserve := by
  have hreserve : s.reserve = _ := if_neg (Nat.not_lt.2 h)
  rw [hreserve]
  exact .trans (sense_same _ ntStoreFault _) (sense_same _ ntLeafLow s)

theorem reserve_mem (s : State) : s.reserve.mem = s.mem := by
  rcases Nat.lt_or_ge s.warden.leafNext s.warden.leafEnd with h | h
  · rw [reserve_stands h]
  · rw [reserve_takes h]

theorem reserve_group (s : State) : s.reserve.group = s.group := by
  rcases Nat.lt_or_ge s.warden.leafNext s.warden.leafEnd with h | h
  · rw [reserve_stands h]
  · rw [reserve_takes h]

/-- The Warden begins to sign: it takes the next leaf of the reservation (R579, R580). -/
def State.attesting (s : State) (o : Origin) (dst : W64) (nonce : List Byte) : State :=
  s.reserve.setWarden fun w => { w with attest := some (o, dst, nonce, w.leafNext), leafNext := w.leafNext + 1 }

theorem attesting_warden (s : State) : (s.attesting o dst nonce).warden = { s.reserve.warden with
    attest := some (o, dst, nonce, s.reserve.warden.leafNext), leafNext := s.reserve.warden.leafNext + 1 } := rfl

section
variable (hserving : s.warden.serving = true) (hattest : s.warden.attest = none) (hlife : s.lifeRefuses 0xE4 = false)
include hserving hattest hlife

theorem exec_attest : exec (.attest o dst nonce) s = .next ((s.takeProxy o).commandLong o 0xE4
    [(!s.signs, .authFail), (decide (2 ^ 25 ≤ s.warden.nextFree), .outOfRange)] fun t => t.attesting o dst nonce) := by
  show execAttest o dst nonce s = _
  rw [execAttest, proxy_takes_up hserving hattest hlife]
  rfl

theorem exec_attest_signs (hsigns : s.signs = true) (hfree : s.warden.nextFree < 2 ^ 25) :
    exec (.attest o dst nonce) s = .next ((s.takeProxy o).attesting o dst nonce) := by
  rw [exec_attest hserving hattest hlife, hsigns, decide_eq_false (Nat.not_le.2 hfree), commandLong_passes rfl]

theorem exec_attest_unsigned (hsigns : s.signs = false) :
    exec (.attest o dst nonce) s = .next ((s.takeProxy o).complete o 0xE4 .authFail []) := by
  rw [exec_attest hserving hattest hlife, hsigns, commandLong_turned_away rfl]

theorem exec_attest_spent (hsigns : s.signs = true) (hfree : 2 ^ 25 ≤ s.warden.nextFree) :
    exec (.attest o dst nonce) s = .next ((s.takeProxy o).complete o 0xE4 .outOfRange []) := by
  rw [exec_attest hserving hattest hlife, hsigns, decide_eq_true hfree, commandLong_turned_away rfl]

end

theorem exec_attestComplete {leaf : Nat} {v : State} (hserving : s.warden.serving = true) (hsigns : s.signs = true)
    (hattest : s.warden.attest = some (o, dst, nonce, leaf)) (hv : v = s.setWarden fun w => { w with attest := none }) :
    exec .attestComplete s = .next (v.startJob { v.newJob o 0xE4 .give 5432 with
      dst := dst.toNat, data := s.reportBody nonce ++ sliceB (Config.identitySign leaf (s.reportBody nonce)) 0 5236
      res := leBytes 2 5432 ++ leBytes 4 leaf ++ leBytes 4 (2 ^ 25 - s.warden.nextFree) }) := by
  show execAttestComplete s = _
  simp only [execAttestComplete, hattest]
  rw [hserving, hsigns, Bool.and_self, act_true, hv]

end

/-! ### LIFECYCLE_SET (R582, R583) -/

/-- The table of R583: BLANK to PROVISIONED, then OPERATIONAL, to SERVICE and back, and from any but BLANK to DECOMMISSIONED. -/
theorem transition_goes {a b : Nat} (h : (transition a b).isSome = true) :
    (a = 0 ∧ b = 1) ∨ (a = 1 ∧ b = 2) ∨ (a = 2 ∧ b = 3) ∨ (a = 3 ∧ b = 2) ∨ (a ≠ 0 ∧ b = 4) := by
  unfold transition at h
  split at h
  · next hab => exact .inl hab
  split at h
  · next hab => exact .inr (.inl hab)
  split at h
  · next hab => exact hab.elim (fun hab => .inr (.inr (.inl hab))) fun hab => .inr (.inr (.inr (.inl hab)))
  split at h
  · next hab => exact .inr (.inr (.inr (.inr hab)))
  · cases h

/-- No life-cycle state refuses LIFECYCLE_SET (R582). -/
theorem lifeRefuses_lifecycleSet (s : State) : s.lifeRefuses 0xE5 = false := by
  unfold State.lifeRefuses
  dsimp only
  split
  · rfl
  split
  · rfl
  split <;> rfl

section
variable {s : State} {target : Nat} {path : Via → Bool → Bool} {o : Origin} {token : W64} (hserving : s.warden.serving = true)
  (hattest : s.warden.attest = none) (htarget : target ≤ 4)
include hserving hattest htarget

theorem exec_lifecycleSet_barred (htable : transition s.warden.lifecycle target = none) :
    exec (.lifecycleSet o target token) s = .next ((s.takeProxy o).complete o 0xE5 .wrongState []) := by
  have htaken : transition (s.takeProxy o).warden.lifecycle target = none := htable
  show execLifecycleSet o target token s = _
  rw [execLifecycleSet, decide_eq_false (Nat.not_lt.2 htarget), proxy_takes_up hserving hattest (lifeRefuses_lifecycleSet s), htaken]

/-- What LIFECYCLE_SET does where the table has the transition: the path is checked first, then the token where one is needed
(R583). -/
theorem exec_lifecycleSet {needs : Bool} {u : State} {r : List Byte × Status × State}
    (htable : transition s.warden.lifecycle target = some (needs, path)) (hu : s.takeProxy o = u)
    (hread : u.readToken token.toNat = r) :
    exec (.lifecycleSet o target token) s = .next (
      if !path o.via (s.port 0).p2p then u.complete o 0xE5 .authFail []
      else if !needs then u.changeLife o target
      else if r.2.1 ≠ Status.done then r.2.2.complete o 0xE5 r.2.1 []
      else if u.tokenOk target r.1 then r.2.2.changeLife o target
      else r.2.2.complete o 0xE5 .authFail []) := by
  subst hu hread
  have htaken : transition (s.takeProxy o).warden.lifecycle target = _ := htable
  show execLifecycleSet o target token s = _
  rw [execLifecycleSet, decide_eq_false (Nat.not_lt.2 htarget), proxy_takes_up hserving hattest (lifeRefuses_lifecycleSet s), htaken]
  rfl

end

/-! ### The life cycle changes, and tamper (R555, R571, R579, R584, R585, R589) -/

/-- The part of the Warden that its restart leaves: the life cycle, the seed, the leaves and the tampers, without the log, the
firmware slots, the store's areas and what is under way (R556, R562). -/
def Warden.lasting (w : Warden) : Warden :=
  { w with
    log := [], logNext := 0, perSecond := [], slotA := Slot.reset, slotB := Slot.reset, staging := none, attest := none, areas := [] }

/-- Between s and t the lasting part of the Warden stands, and so do the group and the address hash (R402, R562, R563). -/
structure IdentityStands (s t : State) : Prop where
  lasting : t.warden.lasting = s.warden.lasting
  group : t.group = s.group
  hash : t.hash = s.hash

theorem IdentityStands.trans {a b c : State} (h : IdentityStands a b) (k : IdentityStands b c) : IdentityStands a c where
  lasting := k.lasting.trans h.lasting
  group := k.group.trans h.group
  hash := k.hash.trans h.hash

theorem IdentityStands.refl (s : State) : IdentityStands s s := ⟨rfl, rfl, rfl⟩

theorem WardenStands.identity {s t : State} (h : WardenStands s t) : IdentityStands s t where
  lasting := by
    rw [h.warden]
    rfl
  group := h.group
  hash := h.hash

theorem complete_identity (s : State) (o : Origin) (opcode : Nat) (st : Status) (res : List Byte) :
    IdentityStands s (s.complete o opcode st res) := (complete_warden s o opcode st res).identity

theorem modArea_identity (s : State) (a : Nat) (f : Area → Area) : IdentityStands s (s.modArea a f) := ⟨rfl, rfl, rfl⟩

theorem WardenStands.area {s t : State} (h : WardenStands s t) (a : Nat) : t.area a = s.area a := by
  unfold State.area
  rw [h.warden]

theorem WardenStands.attest {s t : State} (h : WardenStands s t) : t.warden.attest = s.warden.attest := by rw [h.warden]

section
variable (s : State)

theorem endStage_identity : IdentityStands s s.endStage := by
  unfold State.endStage
  split
  · exact .refl s
  · refine .trans ?_ (complete_identity _ _ _ _ _)
    unfold Warden.setSpare
    refine ⟨?_, rfl, rfl⟩
    dsimp only [State.setWarden]
    split <;> rfl

theorem endAttest_identity (st : Status) : IdentityStands s (s.endAttest st) := by
  unfold State.endAttest
  split
  · exact .refl s
  · exact .trans (b := s.setWarden fun w => { w with attest := none }) ⟨rfl, rfl, rfl⟩ (complete_identity _ _ _ _ _)

theorem endAttest_attest (st : Status) : (s.endAttest st).warden.attest = none := by
  unfold State.endAttest
  split
  · assumption
  · rw [(complete_warden _ _ _ _ _).warden]
    rfl

/-- What the Warden's restart ends, before its SRAM clears (R556). -/
def State.restartEnds (s : State) : State := ((s.endStage).endAttest .deadTarget).hingesLeft

/-- The Warden's SRAM clears, and it serves no more (R556). -/
def State.sramClears (s : State) (cause : Nat) : State :=
  { s with warden := { s.warden with serving := false, restartCause := cause }, test := { s.test with last := [] } }

theorem restartWarden_eq (cause : Nat) : s.restartWarden cause = s.restartEnds.sramClears cause := by
  rw [State.restartWarden, State.restartEnds, State.sramClears]

theorem restartWarden_attest (cause : Nat) : (s.restartWarden cause).warden.attest = none := by
  have hclears (t : State) : (t.sramClears cause).warden.attest = t.warden.attest := rfl
  rw [restartWarden_eq, hclears, State.restartEnds, (hingesLeft_warden _).attest, endAttest_attest]

theorem restartEnds_identity : IdentityStands s s.restartEnds :=
  ((endStage_identity s).trans (endAttest_identity _ _)).trans (hingesLeft_warden _).identity

/-- The restart leaves the life cycle, the seed and the leaves as they are; the Warden serves no more (R556, R562). -/
theorem restartWarden_identity (cause : Nat) : IdentityStands
    (s.setWarden fun w => { w with serving := false, restartCause := cause }) (s.restartWarden cause) := by
  obtain ⟨hlasting, hgroup, hhash⟩ := restartEnds_identity s
  rw [restartWarden_eq]
  generalize s.restartEnds = t at hlasting hgroup hhash ⊢
  exact ⟨congrArg (fun w : Warden => { w with serving := false, restartCause := cause }) hlasting, hgroup, hhash⟩

/-- Secure SRAM without its keys and its leaves (R555, R579). -/
def Warden.wiped (w : Warden) : Warden := { w with seed := false, leafNext := 0, leafEnd := 0 }

theorem wipe_identity : IdentityStands { s with warden := s.warden.wiped, group := s.group.gone } s.wipe := by
  have hleft : IdentityStands { s with group := s.group.gone } s.leaveGroup :=
    ((WardenStands.of_same (leaveGroup_leaves s)).after (a := { s with group := s.group.gone }) rfl rfl rfl).identity
  exact ⟨congrArg Warden.wiped hleft.lasting, hleft.group, hleft.hash⟩

end

/-- Nothing is left that signs or that a frame could be checked with: no seed, no leaf and no group (R403, R555, R585). -/
structure Wiped (s : State) : Prop where
  seed : s.warden.seed = false
  leaves : s.warden.leafNext = s.warden.leafEnd
  group : s.group.valid = false

theorem IdentityStands.wiped {s t : State} (h : IdentityStands s t) (k : Wiped s) : Wiped t where
  seed := (congrArg Warden.seed h.lasting).trans k.seed
  leaves := (congrArg Warden.leafNext h.lasting).trans (k.leaves.trans (congrArg Warden.leafEnd h.lasting).symm)
  group := (congrArg Group.valid h.group).trans k.group

theorem wipe_wiped (s : State) : Wiped s.wipe := (wipe_identity s).wiped ⟨rfl, rfl, rfl⟩

/-! ### DECOMMISSIONED (R530, R585) -/

theorem gateDie_gated (s : State) (d cause : Nat) : ((s.gateDie d cause).die d).state = .gated := by
  by_cases h : (s.die d).state = .gated
  · rw [State.gateDie, if_pos h, h]
  · rw [gateDie_die h]

theorem gateDie_keeps_gated {s : State} {e : Nat} (d cause : Nat) (h : (s.die e).state = .gated) :
    ((s.gateDie d cause).die e).state = .gated := by
  by_cases hed : e = d
  · rw [hed, gateDie_gated]
  · by_cases hd : (s.die d).state = .gated
    · rw [State.gateDie, if_pos hd, h]
    · rw [gateDie_die_ne hd cause hed, h]

/-- The store's areas are erased (R585). -/
def State.eraseAreas (s : State) : State :=
  each (List.range 7) (fun a t => t.modArea a fun _ => { seq0 := none, seq1 := none, dirty := false }) s

def State.gateDies (s : State) : State := each (List.range 8) (fun d t => t.gateDie d 1) s

theorem eraseAreas_identity (s : State) : IdentityStands s s.eraseAreas :=
  each_rel .refl .trans _ (fun a t => modArea_identity t a _) s

theorem eraseAreas_present (s : State) {a : Nat} (ha : a < 7) : (s.eraseAreas.area a).present = none := by
  refine each_all (Q := fun a t => (t.area a).present = none) (List.range 7) s (fun a t => ?_) (fun a b t h => ?_) a
    (List.mem_range.2 ha)
  · rw [State.area_modArea]
    rfl
  · by_cases hba : b = a
    · rw [hba, State.area_modArea]
      rfl
    · rw [State.area_modArea_ne _ _ hba, h]

theorem gateDies_warden (s : State) : WardenStands s s.gateDies := each_warden _ (fun d t => gateDie_warden t d 1) s

theorem gateDies_gated (s : State) {d : Nat} (hd : d < 8) : (s.gateDies.die d).state = .gated :=
  each_all (Q := fun d t => (t.die d).state = .gated) (List.range 8) s (fun d t => gateDie_gated t d 1)
    (fun d _ _ h => gateDie_keeps_gated d 1 h) d (List.mem_range.2 hd)

/-! ### The life cycle changes (R571, R582, R585) -/

section
variable (s : State) (o : Origin) (target : Nat)

/-- The life cycle as it is set and counted, with the log that tells it (R571, R582). -/
def State.lifeSet : State :=
  (s.log 0x0090 3 0xFFFF [BitVec.ofNat 8 s.warden.lifecycle, BitVec.ofNat 8 target, BitVec.ofNat 8 (pathCode (viaPath o.via))]).setWarden
    fun w => { w with lifecycle := target, lifecycleChanges := w.lifecycleChanges + 1 }

/-- The keys are gone, the command completes and the Warden restarts (R585). -/
def State.lifeChanging : State := ((s.lifeSet o target).wipe.complete o 0xE5 .done []).restartWarden 4

theorem changeLife_eq : s.changeLife o target =
    if target = 4 then (s.lifeChanging o target).eraseAreas.gateDies else (s.lifeChanging o target).markArea areaConfig := rfl

theorem changeLife_identity : IdentityStands (s.lifeChanging o target) (s.changeLife o target) := by
  rw [changeLife_eq]
  split
  · exact (eraseAreas_identity _).trans (gateDies_warden _).identity
  · exact modArea_identity _ _ _

theorem lifeSet_lasting : (s.lifeSet o target).warden.lasting =
    { s.warden.lasting with lifecycle := target, lifecycleChanges := s.warden.lifecycleChanges + 1 } := by
  have hlog := (WardenStands.of_same (log_same s 0x0090 3 0xFFFF
    [BitVec.ofNat 8 s.warden.lifecycle, BitVec.ofNat 8 target, BitVec.ofNat 8 (pathCode (viaPath o.via))])).identity.lasting
  exact congrArg (fun w : Warden => { w with lifecycle := target, lifecycleChanges := w.lifecycleChanges + 1 }) hlog

theorem changeLife_lasting : (s.changeLife o target).warden.lasting = { s.warden.lasting.wiped with
    lifecycle := target, lifecycleChanges := s.warden.lifecycleChanges + 1, serving := false, restartCause := 4 } := by
  have hwiped : ((s.lifeSet o target).wipe.complete o 0xE5 .done []).warden.lasting = (s.lifeSet o target).warden.lasting.wiped :=
    ((wipe_identity _).trans (complete_identity _ _ _ _ _)).lasting
  rw [(changeLife_identity s o target).lasting]
  refine (restartWarden_identity _ 4).lasting.trans ?_
  refine (congrArg (fun w : Warden => { w with serving := false, restartCause := 4 }) hwiped).trans ?_
  rw [lifeSet_lasting]
  rfl

theorem changeLife_wiped : Wiped (s.changeLife o target) := by
  have hcomplete := (complete_identity _ o 0xE5 .done []).wiped (wipe_wiped (s.lifeSet o target))
  have hrestart := (restartWarden_identity _ 4).wiped ⟨hcomplete.seed, hcomplete.leaves, hcomplete.group⟩
  exact (changeLife_identity s o target).wiped hrestart

end

/-! ### Tamper (R584, R585, R589) -/

section
variable (s : State) (kind : Nat)

/-- The signing under way has ended, the keys are gone, and the tamper is counted (R584, R589). -/
def State.tamperCounted : State :=
  (s.endAttest .authFail).wipe.setWarden fun w => { w with tampered := true, tampers := inc 8 w.tampers, lastKind := kind }

variable {s kind}

/-- Kind 4 is held while the life cycle is BLANK or SERVICE (R584). -/
theorem exec_tamper (hlow : 1 ≤ kind) (hhigh : kind ≤ 4)
    (hdebug : kind = 4 → s.warden.lifecycle = 1 ∨ s.warden.lifecycle = 2 ∨ s.warden.lifecycle = 4) :
    exec (.tamper kind) s = .next ((s.tamperCounted kind).restartWarden 3) := by
  have hcounts : (kind != 4 || !(s.warden.lifecycle == 0 || s.warden.lifecycle == 3)) = true := by
    by_cases hkind : kind = 4
    · rcases hdebug hkind with h | h | h <;> simp [h]
    · simp [hkind]
  show execTamper kind s = _
  rw [execTamper, decide_eq_true hlow, decide_eq_true hhigh, hcounts, Bool.and_self, Bool.and_self, act_true]
  rfl

variable (s kind)

theorem tamperCounted_lasting : (s.tamperCounted kind).warden.lasting = { s.warden.lasting.wiped with
    tampered := true, tampers := inc 8 s.warden.tampers, lastKind := kind } := by
  have hended : (s.endAttest .authFail).wipe.warden.lasting = s.warden.lasting.wiped :=
    (wipe_identity _).lasting.trans (congrArg Warden.wiped (endAttest_identity s .authFail).lasting)
  exact congrArg (fun w : Warden => { w with tampered := true, tampers := inc 8 w.tampers, lastKind := kind }) hended

theorem tamper_lasting : ((s.tamperCounted kind).restartWarden 3).warden.lasting = { s.warden.lasting.wiped with
    tampered := true, tampers := inc 8 s.warden.tampers, lastKind := kind, serving := false, restartCause := 3 } := by
  refine (restartWarden_identity (s.tamperCounted kind) 3).lasting.trans ?_
  refine (congrArg (fun w : Warden => { w with serving := false, restartCause := 3 }) (tamperCounted_lasting s kind)).trans ?_
  rfl

theorem tamper_wiped : Wiped ((s.tamperCounted kind).restartWarden 3) := by
  obtain ⟨hseed, hleaves, hgroup⟩ := wipe_wiped (s.endAttest .authFail)
  exact (restartWarden_identity _ 3).wiped ⟨hseed, hleaves, hgroup⟩

theorem tamper_hash : ((s.tamperCounted kind).restartWarden 3).hash = s.hash :=
  calc
    _ = (s.tamperCounted kind).hash := (restartWarden_identity (s.tamperCounted kind) 3).hash
    _ = (s.endAttest .authFail).hash := (wipe_identity _).hash
    _ = s.hash := (endAttest_identity s .authFail).hash

end

theorem signs_of_tampered {s : State} (h : s.warden.tampered = true) : s.signs = false := by
  rw [State.signs, h, Bool.not_true, Bool.and_false]

/-- Settles O54: the leaf of a report comes from a reservation that the counters hold, the table alone moves the life cycle, and
what a life-cycle change and a tamper wipe stays wiped through the Warden's restart, and through the gating of the dies. -/
theorem identityLifeCycleAndTamper : Obligations.IdentityLifeCycleAndTamper := by
  unfold Obligations.IdentityLifeCycleAndTamper
  refine ⟨fun o dst nonce s u hserving hattest hlife hu => ⟨fun hsigns hfree => ?_, fun hsigns => ?_, fun hsigns hfree => ?_⟩,
    fun o dst nonce leaf s v hserving hsigns hattest hv => exec_attestComplete hserving hsigns hattest hv,
    fun a b => transition_goes, fun o token target path s u hserving hattest htarget hu => ⟨fun htable hpath => ?_,
      fun htable hpath => ?_, fun htable => ?_, fun l htable hpath hread => ⟨fun htoken => ?_, fun htoken => ?_⟩⟩,
    fun o target s t ht => ?_, fun kind s hlow hhigh hdebug => ?_⟩
  · refine ⟨_, (s.takeProxy o).reserve.warden.leafNext, exec_attest_signs hserving hattest hlife hsigns hfree, rfl, rfl,
      fun hleft => ?_, fun hspent => ?_, ?_, ?_⟩
    · rw [attesting_warden, reserve_stands (s := s.takeProxy o) hleft]
      exact ⟨rfl, rfl, rfl⟩
    · have hwritten : ((s.takeProxy o).attesting o dst nonce).area areaCounters = (s.takeProxy o).reserve.area areaCounters := rfl
      rw [hwritten, attesting_warden]
      unfold State.area
      rw [reserve_takes (s := s.takeProxy o) hspent]
      exact ⟨rfl, rfl, rfl, State.area_modArea _ areaCounters Area.written⟩
    · exact reserve_mem (s.takeProxy o)
    · exact reserve_group (s.takeProxy o)
  · rw [hu, exec_attest_unsigned hserving hattest hlife hsigns]
  · rw [hu, exec_attest_spent hserving hattest hlife hsigns hfree]
  · rw [exec_lifecycleSet hserving hattest htarget htable hu.symm rfl, hpath, if_neg nofun, if_pos Bool.not_false]
  · rw [exec_lifecycleSet hserving hattest htarget htable hu.symm rfl, hpath, if_pos Bool.not_false]
  · rw [hu, exec_lifecycleSet_barred hserving hattest htarget htable]
  · rw [exec_lifecycleSet hserving hattest htarget htable hu.symm hread, hpath, if_neg nofun, if_neg nofun,
      if_neg (fun h => h rfl), if_pos htoken]
  · rw [exec_lifecycleSet hserving hattest htarget htable hu.symm hread, hpath, if_neg nofun, if_neg nofun,
      if_neg (fun h => h rfl), if_neg (Bool.eq_false_iff.1 htoken)]
  · subst ht
    have hlasting := changeLife_lasting s o target
    obtain ⟨hseed, hleaves, hgroup⟩ := changeLife_wiped s o target
    refine ⟨congrArg Warden.lifecycle hlasting, congrArg Warden.lifecycleChanges hlasting, hseed, hgroup, hleaves,
      congrArg Warden.serving hlasting, congrArg Warden.restartCause hlasting, fun hend => ?_⟩
    rw [changeLife_eq, if_pos hend]
    refine ⟨fun d hd => gateDies_gated _ hd, fun a ha => ?_⟩
    rw [(gateDies_warden _).area, eraseAreas_present _ ha]
  · have hlasting := tamper_lasting s kind
    have hattest := restartWarden_attest (s.tamperCounted kind) 3
    have hhash := tamper_hash s kind
    obtain ⟨hseed, hleaves, hgroup⟩ := tamper_wiped s kind
    refine ⟨_, exec_tamper hlow hhigh hdebug, ?_⟩
    generalize (s.tamperCounted kind).restartWarden 3 = t at hlasting hattest hhash hseed hleaves hgroup ⊢
    have htampered : t.warden.tampered = true := congrArg Warden.tampered hlasting
    exact ⟨htampered, signs_of_tampered htampered, hseed, congrArg Warden.tampers hlasting, congrArg Warden.lastKind hlasting,
      hattest, hgroup, hleaves, congrArg Warden.serving hlasting, congrArg Warden.restartCause hlasting,
      (congrArg Warden.nextFree hlasting :), hhash⟩

end Sys2Proof.Machine
end
